-- ==== Sys2Proof/Word.lean ====
section
/-!
DEFINITION. The word types of the package and their plainest arithmetic (R2, R3, R40).
-/

namespace Sys2Proof

/-- One byte of memory. -/
abbrev Byte := BitVec 8

/-- A slot operation's word, an FP32 value, a run value (R40, R70, R87). -/
abbrev Word := BitVec 32

/-- A scalar register, a doubleword of memory, a device address (R96, R146). -/
abbrev DWord := BitVec 64

end Sys2Proof
end

