-- ==== Sys2Proof/Syntax.lean ====
section
/-!
DEFINITION. The one inductive of what a step of the package can be: one constructor for each row of
spec/opcode_table.json. A slot operation carries the fields of its 32-bit word, under the table's
field names (the formats of R60, R158, R173, R197, R233, R272, R303, R312, R333). A row without an
encoding is a step of the package itself (95_what_each_step_holds.md); it carries what selects the
step, and carries no field: what selects the step (a unit, a die, a context, an index into one of the
state's in-flight lists, the data of a host request) stands in the state's `arg`.
-/

namespace Sys2Proof

inductive Instr where
  /-- BR (R159): Branch always by a bundle offset. -/
  | br (o : BitVec 16)
  /-- BRG (R159): Branch when a guard is true or false. -/
  | brg (g : BitVec 2) (t : BitVec 1) (o : BitVec 16)
  /-- BRZ (R159): Branch when a scalar is zero. -/
  | brz (a : BitVec 5) (o : BitVec 16)
  /-- BRNZ (R159): Branch when a scalar is not zero. -/
  | brnz (a : BitVec 5) (o : BitVec 16)
  /-- CALL (R159): Branch and write the return address to S15. -/
  | call (o : BitVec 16)
  /-- JMPR (R159): Branch to the address in a register. -/
  | jmpr (a : BitVec 5)
  /-- LOOP_IMM (R160): Open a loop level with an immediate count. -/
  | loopImm (c : BitVec 12) (e : BitVec 12)
  /-- LOOP_REG (R160): Open a loop level with a count held in a register. -/
  | loopReg (a : BitVec 5) (e : BitVec 12)
  /-- LOOPR_IMM (R160): Open a rotating loop level with an immediate count. -/
  | looprImm (c : BitVec 12) (e : BitVec 12)
  /-- LOOPR_REG (R160): Open a rotating loop level with a count held in a register. -/
  | looprReg (a : BitVec 5) (e : BitVec 12)
  /-- FENCEI (R154): Wait for earlier IMLOADs into a half, then set its coherent bit. -/
  | fencei (h : BitVec 1)
  /-- BRSWAP (R155): Switch execution to a bundle of the other half. -/
  | brswap (b : BitVec 12)
  /-- WAITT (R162): Hold sq until package time reaches the operand. -/
  | waitt (a : BitVec 5)
  /-- RFMODE (R162): Gate or wake register-file clusters. -/
  | rfmode (m : BitVec 8)
  /-- SETRM (R162): Write the rounding mode. -/
  | setrm (m : BitVec 3)
  /-- SETEFR (R162): Write EFRM, EFRV or EFRT. -/
  | setefr (t : BitVec 2) (v : BitVec 16)
  /-- GETSP (R163): Read a special register into a scalar. -/
  | getsp (d : BitVec 5) (p : BitVec 12)
  /-- SETSP (R163): Write a special register from a scalar. -/
  | setsp (a : BitVec 5) (p : BitVec 12)
  /-- TRAP (R139): Raise TRAP precisely with subcode n. -/
  | trap (n : BitVec 8)
  /-- ADD (R164): 64-bit add. -/
  | add (d : BitVec 5) (a : BitVec 5) (b : BitVec 5)
  /-- ADDI (R164): Add a sign-extended immediate. -/
  | addi (d : BitVec 5) (a : BitVec 5) (i : BitVec 15)
  /-- SUB (R164): 64-bit subtract. -/
  | sub (d : BitVec 5) (a : BitVec 5) (b : BitVec 5)
  /-- MUL (R164): Low 64 bits of a product. -/
  | mul (d : BitVec 5) (a : BitVec 5) (b : BitVec 5)
  /-- MULH (R164): High 64 bits of a signed or unsigned product. -/
  | mulh (d : BitVec 5) (a : BitVec 5) (b : BitVec 5) (u : BitVec 1)
  /-- DIV (R164): Signed or unsigned division. -/
  | div (d : BitVec 5) (a : BitVec 5) (b : BitVec 5) (u : BitVec 1)
  /-- AND (R164): Bitwise AND. -/
  | and (d : BitVec 5) (a : BitVec 5) (b : BitVec 5)
  /-- OR (R164): Bitwise OR. -/
  | or (d : BitVec 5) (a : BitVec 5) (b : BitVec 5)
  /-- XOR (R164): Bitwise XOR. -/
  | xor (d : BitVec 5) (a : BitVec 5) (b : BitVec 5)
  /-- SHL_REG (R164): Shift left by a register amount. -/
  | shlReg (d : BitVec 5) (a : BitVec 5) (b : BitVec 5)
  /-- SHL_IMM (R164): Shift left by an immediate. -/
  | shlImm (d : BitVec 5) (a : BitVec 5) (i : BitVec 6)
  /-- SHR_REG (R164): Logical shift right by a register amount. -/
  | shrReg (d : BitVec 5) (a : BitVec 5) (b : BitVec 5)
  /-- SHR_IMM (R164): Logical shift right by an immediate. -/
  | shrImm (d : BitVec 5) (a : BitVec 5) (i : BitVec 6)
  /-- SAR_REG (R164): Arithmetic shift right by a register amount. -/
  | sarReg (d : BitVec 5) (a : BitVec 5) (b : BitVec 5)
  /-- SAR_IMM (R164): Arithmetic shift right by an immediate. -/
  | sarImm (d : BitVec 5) (a : BitVec 5) (i : BitVec 6)
  /-- ROTL_REG (R164): Rotate left by a register amount. -/
  | rotlReg (d : BitVec 5) (a : BitVec 5) (b : BitVec 5)
  /-- ROTL_IMM (R164): Rotate left by an immediate. -/
  | rotlImm (d : BitVec 5) (a : BitVec 5) (i : BitVec 6)
  /-- MIN (R164): Signed or unsigned minimum. -/
  | min (d : BitVec 5) (a : BitVec 5) (b : BitVec 5) (u : BitVec 1)
  /-- MAX (R164): Signed or unsigned maximum. -/
  | max (d : BitVec 5) (a : BitVec 5) (b : BitVec 5) (u : BitVec 1)
  /-- CMP (R165): Compare two scalars into a guard. -/
  | cmp (c : BitVec 3) (g : BitVec 2) (a : BitVec 5) (b : BitVec 5)
  /-- CMPI (R165): Compare a scalar with an immediate into a guard. -/
  | cmpi (c : BitVec 3) (g : BitVec 2) (a : BitVec 5) (i : BitVec 15)
  /-- SEL (R165): Select one of two scalars by a guard. -/
  | sel (d : BitVec 5) (a : BitVec 5) (b : BitVec 5) (g : BitVec 2)
  /-- CLZ (R164): Count leading zeros. -/
  | clz (d : BitVec 5) (a : BitVec 5)
  /-- POPC (R164): Count set bits. -/
  | popc (d : BitVec 5) (a : BitVec 5)
  /-- BFX (R166): Extract a bit field. -/
  | bfx (d : BitVec 5) (a : BitVec 5) (x : BitVec 1) (p : BitVec 6) (w : BitVec 6)
  /-- BFI (R166): Insert a bit field. -/
  | bfi (d : BitVec 5) (a : BitVec 5) (p : BitVec 6) (w : BitVec 6)
  /-- MOVG_TO_SCALAR (R165): Copy a guard to a scalar. -/
  | movgToScalar (d : BitVec 5) (g : BitVec 2)
  /-- MOVG_TO_GUARD (R165): Set a guard from whether a scalar is non-zero. -/
  | movgToGuard (a : BitVec 5) (g : BitVec 2)
  /-- LI (R166): Load a sign-extended 20-bit immediate. -/
  | li (d : BitVec 5) (i : BitVec 20)
  /-- LIH (R166): Insert a 16-bit immediate at a chosen position. -/
  | lih (d : BitVec 5) (p : BitVec 2) (i : BitVec 16)
  /-- FADD (R167): FP32 add. -/
  | fadd (d : BitVec 5) (a : BitVec 5) (b : BitVec 5)
  /-- FSUB (R167): FP32 subtract. -/
  | fsub (d : BitVec 5) (a : BitVec 5) (b : BitVec 5)
  /-- FMUL (R167): FP32 multiply. -/
  | fmul (d : BitVec 5) (a : BitVec 5) (b : BitVec 5)
  /-- FFMA (R167): FP32 fused multiply-add. -/
  | ffma (d : BitVec 5) (a : BitVec 5) (b : BitVec 5) (c : BitVec 5)
  /-- FMIN (R167): FP32 minimum. -/
  | fmin (d : BitVec 5) (a : BitVec 5) (b : BitVec 5)
  /-- FMAX (R167): FP32 maximum. -/
  | fmax (d : BitVec 5) (a : BitVec 5) (b : BitVec 5)
  /-- FCMP (R168): FP32 compare into a guard. -/
  | fcmp (c : BitVec 3) (g : BitVec 2) (a : BitVec 5) (b : BitVec 5)
  /-- FCVT (R168): Scalar format conversion selected by CV. -/
  | fcvt (d : BitVec 5) (a : BitVec 5) (v : BitVec 5)
  /-- FRCP (R167): FP32 reciprocal. -/
  | frcp (d : BitVec 5) (a : BitVec 5)
  /-- FRSQ (R167): FP32 reciprocal square root. -/
  | frsq (d : BitVec 5) (a : BitVec 5)
  /-- FEXP2 (R169): Correctly rounded 2 to the power x. -/
  | fexp2 (d : BitVec 5) (a : BitVec 5)
  /-- FLOG2 (R169): Correctly rounded base-2 logarithm. -/
  | flog2 (d : BitVec 5) (a : BitVec 5)
  /-- VADD (R237): FP32 add of aligned runs. -/
  | vadd (w : BitVec 2) (d : BitVec 6) (a : BitVec 6) (p : BitVec 2) (b : BitVec 6) (q : BitVec 2)
  /-- VSUB (R237): FP32 subtract of aligned runs. -/
  | vsub (w : BitVec 2) (d : BitVec 6) (a : BitVec 6) (p : BitVec 2) (b : BitVec 6) (q : BitVec 2)
  /-- VMUL (R237): FP32 multiply of aligned runs. -/
  | vmul (w : BitVec 2) (d : BitVec 6) (a : BitVec 6) (p : BitVec 2) (b : BitVec 6) (q : BitVec 2)
  /-- VMIN (R237): FP32 minimum of aligned runs. -/
  | vmin (w : BitVec 2) (d : BitVec 6) (a : BitVec 6) (p : BitVec 2) (b : BitVec 6) (q : BitVec 2)
  /-- VMAX (R237): FP32 maximum of aligned runs. -/
  | vmax (w : BitVec 2) (d : BitVec 6) (a : BitVec 6) (p : BitVec 2) (b : BitVec 6) (q : BitVec 2)
  /-- VFMA (R238): FP32 fused multiply-add into the destination. -/
  | vfma (w : BitVec 2) (d : BitVec 6) (a : BitVec 6) (p : BitVec 2) (b : BitVec 6) (q : BitVec 2) (c : BitVec 1)
  /-- VABS (R239): Clear the sign bit of each value. -/
  | vabs (w : BitVec 2) (d : BitVec 6) (a : BitVec 6) (p : BitVec 2) (m : BitVec 1) (k : BitVec 3)
  /-- VCVT (R240): Vector conversion selected by CV. -/
  | vcvt (w : BitVec 2) (d : BitVec 6) (a : BitVec 6) (p : BitVec 2) (v : BitVec 4) (m : BitVec 1) (k : BitVec 3)
  /-- VEXP2 (R239): Vector 2 to the power x. -/
  | vexp2 (w : BitVec 2) (d : BitVec 6) (a : BitVec 6) (p : BitVec 2) (m : BitVec 1) (k : BitVec 3)
  /-- VLOG2 (R239): Vector base-2 logarithm. -/
  | vlog2 (w : BitVec 2) (d : BitVec 6) (a : BitVec 6) (p : BitVec 2) (m : BitVec 1) (k : BitVec 3)
  /-- VRCP (R239): Vector reciprocal. -/
  | vrcp (w : BitVec 2) (d : BitVec 6) (a : BitVec 6) (p : BitVec 2) (m : BitVec 1) (k : BitVec 3)
  /-- VRSQ (R239): Vector reciprocal square root. -/
  | vrsq (w : BitVec 2) (d : BitVec 6) (a : BitVec 6) (p : BitVec 2) (m : BitVec 1) (k : BitVec 3)
  /-- FP32_MASKED_FORMS (R237): Masked VADD to VMAX into the destination, selected by FN. -/
  | fp32MaskedForms (w : BitVec 2) (d : BitVec 6) (p : BitVec 2) (b : BitVec 6) (q : BitVec 2) (k : BitVec 3) (f : BitVec 4)
  /-- FP32_SCALAR_FORMS (R237): FP32 operation with a scalar operand, selected by FN. -/
  | fp32ScalarForms (w : BitVec 2) (d : BitVec 6) (a : BitVec 6) (p : BitVec 2) (s : BitVec 5) (f : BitVec 4)
  /-- VIADD (R241): INT32 add. -/
  | viadd (w : BitVec 2) (d : BitVec 6) (a : BitVec 6) (p : BitVec 2) (b : BitVec 6) (q : BitVec 2)
  /-- VISUB (R241): INT32 subtract. -/
  | visub (w : BitVec 2) (d : BitVec 6) (a : BitVec 6) (p : BitVec 2) (b : BitVec 6) (q : BitVec 2)
  /-- VIMUL (R241): INT32 multiply, low bits. -/
  | vimul (w : BitVec 2) (d : BitVec 6) (a : BitVec 6) (p : BitVec 2) (b : BitVec 6) (q : BitVec 2)
  /-- VAND (R241): Bitwise AND of runs. -/
  | vand (w : BitVec 2) (d : BitVec 6) (a : BitVec 6) (p : BitVec 2) (b : BitVec 6) (q : BitVec 2)
  /-- VOR (R241): Bitwise OR of runs. -/
  | vor (w : BitVec 2) (d : BitVec 6) (a : BitVec 6) (p : BitVec 2) (b : BitVec 6) (q : BitVec 2)
  /-- VXOR (R241): Bitwise XOR of runs. -/
  | vxor (w : BitVec 2) (d : BitVec 6) (a : BitVec 6) (p : BitVec 2) (b : BitVec 6) (q : BitVec 2)
  /-- VSHL (R241): Shift left. -/
  | vshl (w : BitVec 2) (d : BitVec 6) (a : BitVec 6) (p : BitVec 2) (b : BitVec 6) (q : BitVec 2)
  /-- VSHR (R241): Logical shift right. -/
  | vshr (w : BitVec 2) (d : BitVec 6) (a : BitVec 6) (p : BitVec 2) (b : BitVec 6) (q : BitVec 2)
  /-- VSHR_A (R241): Arithmetic shift right. -/
  | vshrA (w : BitVec 2) (d : BitVec 6) (a : BitVec 6) (p : BitVec 2) (b : BitVec 6) (q : BitVec 2)
  /-- VIMIN (R241): Signed minimum. -/
  | vimin (w : BitVec 2) (d : BitVec 6) (a : BitVec 6) (p : BitVec 2) (b : BitVec 6) (q : BitVec 2)
  /-- VIMAX (R241): Signed maximum. -/
  | vimax (w : BitVec 2) (d : BitVec 6) (a : BitVec 6) (p : BitVec 2) (b : BitVec 6) (q : BitVec 2)
  /-- VIMIN_U (R241): Unsigned minimum. -/
  | viminU (w : BitVec 2) (d : BitVec 6) (a : BitVec 6) (p : BitVec 2) (b : BitVec 6) (q : BitVec 2)
  /-- VIMAX_U (R241): Unsigned maximum. -/
  | vimaxU (w : BitVec 2) (d : BitVec 6) (a : BitVec 6) (p : BitVec 2) (b : BitVec 6) (q : BitVec 2)
  /-- INT32_MASKED_FORMS (R241): Masked INT32 operation, selected by FN. -/
  | int32MaskedForms (w : BitVec 2) (d : BitVec 6) (p : BitVec 2) (b : BitVec 6) (q : BitVec 2) (k : BitVec 3) (f : BitVec 4)
  /-- INT32_SCALAR_FORMS (R241): INT32 operation with a scalar operand, selected by FN. -/
  | int32ScalarForms (w : BitVec 2) (d : BitVec 6) (a : BitVec 6) (p : BitVec 2) (s : BitVec 5) (f : BitVec 4)
  /-- VCMP (R242): Compare two vectors into a mask. -/
  | vcmp (w : BitVec 2) (m : BitVec 3) (a : BitVec 6) (p : BitVec 2) (b : BitVec 6) (q : BitVec 2) (i : BitVec 1) (c : BitVec 3)
  /-- VCMP_SCALAR (R242): Compare a vector with a scalar into a mask. -/
  | vcmpScalar (w : BitVec 2) (m : BitVec 3) (a : BitVec 6) (p : BitVec 2) (s : BitVec 5) (i : BitVec 1) (c : BitVec 3)
  /-- VSEL (R243): Select values by a mask into the destination. -/
  | vsel (w : BitVec 2) (d : BitVec 6) (p : BitVec 2) (b : BitVec 6) (q : BitVec 2) (k : BitVec 3)
  /-- MAND (R244): AND of two masks. -/
  | mand (w : BitVec 2) (d : BitVec 3) (a : BitVec 3) (b : BitVec 3)
  /-- MOR (R244): OR of two masks. -/
  | mor (w : BitVec 2) (d : BitVec 3) (a : BitVec 3) (b : BitVec 3)
  /-- MXOR (R244): XOR of two masks. -/
  | mxor (w : BitVec 2) (d : BitVec 3) (a : BitVec 3) (b : BitVec 3)
  /-- MNOT (R244): Invert a mask. -/
  | mnot (w : BitVec 2) (d : BitVec 3) (a : BitVec 3)
  /-- MCNT (R244): Count the true elements of a mask. -/
  | mcnt (w : BitVec 2) (d : BitVec 5) (a : BitVec 3)
  /-- VCOAL (R245): Merge equal neighbouring runs. -/
  | vcoal (w : BitVec 2) (d : BitVec 6) (a : BitVec 6) (p : BitVec 2) (z : BitVec 1) (m : BitVec 1)
  /-- VLEN (R246): Read a register's length, run count or segment count. -/
  | vlen (w : BitVec 2) (d : BitVec 5) (a : BitVec 6) (p : BitVec 2) (q : BitVec 2) (m : BitVec 1)
  /-- VSPLAT (R247): Write one run of a scalar value. -/
  | vsplat (w : BitVec 2) (d : BitVec 6) (s : BitVec 5) (n : BitVec 5) (m : BitVec 1) (v : BitVec 1)
  /-- VIOTA (R248): Write a ramp of count-1 runs. -/
  | viota (w : BitVec 2) (d : BitVec 6) (s : BitVec 5) (n : BitVec 5)
  /-- VIOTA_SEG (R248): Write each element's index within its segment. -/
  | viotaSeg (w : BitVec 2) (d : BitVec 6) (a : BitVec 6) (p : BitVec 2)
  /-- VSLICE (R249): Take a logical slice of a register. -/
  | vslice (w : BitVec 2) (d : BitVec 6) (a : BitVec 6) (p : BitVec 2) (s : BitVec 5)
  /-- VCAT (R250): Concatenate two registers. -/
  | vcat (w : BitVec 2) (d : BitVec 6) (a : BitVec 6) (p : BitVec 2) (b : BitVec 6) (q : BitVec 2)
  /-- VPICK (R251): Gather elements by index runs. -/
  | vpick (w : BitVec 2) (d : BitVec 6) (a : BitVec 6) (p : BitVec 2) (b : BitVec 6) (q : BitVec 2)
  /-- VSEGSET (R252): Add segment starts at marked positions. -/
  | vsegset (w : BitVec 2) (d : BitVec 6) (a : BitVec 6) (p : BitVec 2) (k : BitVec 3)
  /-- VSEGCLR (R252): Remove segment starts. -/
  | vsegclr (w : BitVec 2) (d : BitVec 6) (a : BitVec 6) (p : BitVec 2) (m : BitVec 1) (k : BitVec 3)
  /-- VSPREAD (R254): Spread one value per segment over a structure. -/
  | vspread (w : BitVec 2) (d : BitVec 6) (a : BitVec 6) (p : BitVec 2) (b : BitVec 6) (q : BitVec 2)
  /-- VRSUM (R255): Exact sum of a register into a scalar. -/
  | vrsum (w : BitVec 2) (d : BitVec 5) (a : BitVec 6) (p : BitVec 2) (m : BitVec 1) (k : BitVec 3)
  /-- VRSUM_SEG (R255): Exact sum per segment. -/
  | vrsumSeg (w : BitVec 2) (d : BitVec 6) (a : BitVec 6) (p : BitVec 2) (m : BitVec 1) (k : BitVec 3)
  /-- VRSSQ (R255): Exact sum of squares into a scalar. -/
  | vrssq (w : BitVec 2) (d : BitVec 5) (a : BitVec 6) (p : BitVec 2) (m : BitVec 1) (k : BitVec 3)
  /-- VRSSQ_SEG (R255): Exact sum of squares per segment. -/
  | vrssqSeg (w : BitVec 2) (d : BitVec 6) (a : BitVec 6) (p : BitVec 2) (m : BitVec 1) (k : BitVec 3)
  /-- VRMAX (R255): Maximum of a register into a scalar. -/
  | vrmax (w : BitVec 2) (d : BitVec 5) (a : BitVec 6) (p : BitVec 2) (m : BitVec 1) (k : BitVec 3)
  /-- VRMAX_SEG (R255): Maximum per segment. -/
  | vrmaxSeg (w : BitVec 2) (d : BitVec 6) (a : BitVec 6) (p : BitVec 2) (m : BitVec 1) (k : BitVec 3)
  /-- VRMIN (R255): Minimum of a register into a scalar. -/
  | vrmin (w : BitVec 2) (d : BitVec 5) (a : BitVec 6) (p : BitVec 2) (m : BitVec 1) (k : BitVec 3)
  /-- VRMIN_SEG (R255): Minimum per segment. -/
  | vrminSeg (w : BitVec 2) (d : BitVec 6) (a : BitVec 6) (p : BitVec 2) (m : BitVec 1) (k : BitVec 3)
  /-- VSCAN (R256): Inclusive or exclusive prefix sums within segments. -/
  | vscan (w : BitVec 2) (d : BitVec 6) (a : BitVec 6) (p : BitVec 2) (m : BitVec 1) (k : BitVec 3) (x : BitVec 1)
  /-- VMAXK (R257): Integer exponent of the register maximum into a scalar. -/
  | vmaxk (w : BitVec 2) (d : BitVec 5) (a : BitVec 6) (p : BitVec 2) (m : BitVec 1) (k : BitVec 3)
  /-- VMAXK_SEG (R257): Integer exponent of each segment's maximum. -/
  | vmaxkSeg (w : BitVec 2) (d : BitVec 6) (a : BitVec 6) (p : BitVec 2) (m : BitVec 1) (k : BitVec 3)
  /-- VEXPK (R258): 2 to the power y minus a per-segment K. -/
  | vexpk (w : BitVec 2) (d : BitVec 6) (a : BitVec 6) (p : BitVec 2) (b : BitVec 6) (q : BitVec 2)
  /-- VSCK (R259): Scale by an aligned integer power of two. -/
  | vsck (w : BitVec 2) (d : BitVec 6) (a : BitVec 6) (p : BitVec 2) (b : BitVec 6) (q : BitVec 2)
  /-- VSCK_SEG (R259): Scale by a per-segment power of two. -/
  | vsckSeg (w : BitVec 2) (d : BitVec 6) (a : BitVec 6) (p : BitVec 2) (b : BitVec 6) (q : BitVec 2)
  /-- LDS (R175): Load a doubleword. -/
  | lds (d : BitVec 5) (b : BitVec 5) (o : BitVec 15)
  /-- STS (R175): Store a doubleword. -/
  | sts (d : BitVec 5) (b : BitVec 5) (o : BitVec 15)
  /-- LDS_W (R175): Load a sign-extended word. -/
  | ldsW (d : BitVec 5) (b : BitVec 5) (o : BitVec 15)
  /-- LDS_WU (R175): Load a zero-extended word. -/
  | ldsWu (d : BitVec 5) (b : BitVec 5) (o : BitVec 15)
  /-- LDS_H (R175): Load a sign-extended half. -/
  | ldsH (d : BitVec 5) (b : BitVec 5) (o : BitVec 15)
  /-- LDS_HU (R175): Load a zero-extended half. -/
  | ldsHu (d : BitVec 5) (b : BitVec 5) (o : BitVec 15)
  /-- LDS_B (R175): Load a sign-extended byte. -/
  | ldsB (d : BitVec 5) (b : BitVec 5) (o : BitVec 15)
  /-- LDS_BU (R175): Load a zero-extended byte. -/
  | ldsBu (d : BitVec 5) (b : BitVec 5) (o : BitVec 15)
  /-- STS_W (R175): Store a word. -/
  | stsW (d : BitVec 5) (b : BitVec 5) (o : BitVec 15)
  /-- STS_H (R175): Store a half. -/
  | stsH (d : BitVec 5) (b : BitVec 5) (o : BitVec 15)
  /-- STS_B (R175): Store a byte. -/
  | stsB (d : BitVec 5) (b : BitVec 5) (o : BitVec 15)
  /-- LDV (R176): Load elements as count-1 runs. -/
  | ldv (v : BitVec 6) (b : BitVec 5) (n : BitVec 5) (f : BitVec 4) (c : BitVec 2)
  /-- LDVC (R176): Load elements and coalesce equal neighbours. -/
  | ldvc (v : BitVec 6) (b : BitVec 5) (n : BitVec 5) (f : BitVec 4) (c : BitVec 2)
  /-- STV (R178): Store a register's elements with conversion. -/
  | stv (v : BitVec 6) (b : BitVec 5) (f : BitVec 4) (c : BitVec 2) (p : BitVec 2)
  /-- LDR (R180): Load raw run or mask entries. -/
  | ldr (v : BitVec 6) (b : BitVec 5) (n : BitVec 5) (m : BitVec 1)
  /-- STR (R180): Store raw entries and return their count. -/
  | str (v : BitVec 6) (b : BitVec 5) (n : BitVec 5) (p : BitVec 2) (m : BitVec 1)
  /-- LDVR (R185): Ragged load through a shape register. -/
  | ldvr (v : BitVec 6) (i : BitVec 5) (n : BitVec 5) (h : BitVec 3) (e : BitVec 1) (x : BitVec 1) (c : BitVec 2) (k : BitVec 1)
  /-- STVR (R186): Ragged store through a shape register. -/
  | stvr (v : BitVec 6) (i : BitVec 5) (n : BitVec 5) (h : BitVec 3) (e : BitVec 1) (x : BitVec 1) (c : BitVec 2) (p : BitVec 2)
  /-- SHLD (R182): Snapshot a shape record into a shape register. -/
  | shld (h : BitVec 3) (b : BitVec 5) (o : BitVec 5)
  /-- SHWIN (R183): Re-snapshot a shape register with a new window origin. -/
  | shwin (h : BitVec 3) (o : BitVec 5)
  /-- SHCHK (R183): Set a guard if the record's GEN has moved on. -/
  | shchk (h : BitVec 3) (g : BitVec 2)
  /-- SHQ (R184): Query a shape register. -/
  | shq (d : BitVec 5) (h : BitVec 3) (i : BitVec 5) (q : BitVec 4)
  /-- WAITF (R187): Wait until the named tiles are full. -/
  | waitf (n : BitVec 5) (b : BitVec 5) (o : BitVec 15)
  /-- SETF (R187): Set tile full bits as a release. -/
  | setf (n : BitVec 5) (b : BitVec 5) (o : BitVec 15)
  /-- CLRF (R187): Clear tile full bits. -/
  | clrf (n : BitVec 5) (b : BitVec 5) (o : BitVec 15)
  /-- MSCL (R188): Load a scale register. -/
  | mscl (m : BitVec 2) (b : BitVec 5) (o : BitVec 15)
  /-- STAR (R189): Store accumulator rows to memory with conversion. -/
  | star (d : BitVec 5) (a : BitVec 5) (n : BitVec 7) (f : BitVec 4)
  /-- FENCE (R123): Wait for earlier SL and AT accesses within the scope. -/
  | fence (a : BitVec 3)
  /-- XFENCE (R125): Order accesses of one path before those of another. -/
  | xfence (a : BitVec 3) (b : BitVec 3)
  /-- DRAIN (R124): Wait for SL, AT, AC and TR work of earlier bundles. -/
  | drain (a : BitVec 3)
  /-- ATOM (R198): Returning integer or FP32 atomic. -/
  | atom (d : BitVec 5) (b : BitVec 5) (v : BitVec 5) (o : BitVec 3) (t : BitVec 2) (u : BitVec 1)
  /-- ATOM_N (R198): Non-returning atomic. -/
  | atomN (b : BitVec 5) (v : BitVec 5) (o : BitVec 3) (t : BitVec 2) (u : BitVec 1)
  /-- ACAS (R200): Compare and swap. -/
  | acas (d : BitVec 5) (b : BitVec 5) (e : BitVec 5) (v : BitVec 5) (t : BitVec 2)
  /-- RSF (R203): Fast FP32 reduce-store, scalar. -/
  | rsf (v : BitVec 5) (b : BitVec 5)
  /-- RSF_V (R203): Fast FP32 reduce-store, vector. -/
  | rsfV (v : BitVec 6) (b : BitVec 5) (p : BitVec 2)
  /-- RSB (R204): Binned exact deposit, scalar. -/
  | rsb (v : BitVec 5) (b : BitVec 5)
  /-- RSB_V (R204): Binned exact deposit, vector. -/
  | rsbV (v : BitVec 6) (b : BitVec 5) (p : BitVec 2)
  /-- RSO (R205): Ordered-window reduce-store, scalar. -/
  | rso (v : BitVec 5) (b : BitVec 5) (i : BitVec 5) (w : BitVec 6)
  /-- RSO_V (R205): Ordered-window reduce-store, vector. -/
  | rsoV (v : BitVec 6) (b : BitVec 5) (i : BitVec 5) (w : BitVec 6) (p : BitVec 2)
  /-- ROOPEN (R206): Open an ordered-reduction window at its port. -/
  | roopen (d : BitVec 5) (b : BitVec 5) (c : BitVec 5) (w : BitVec 6)
  /-- ROOPEN_X (R206): Close a window, applying its queued requests. -/
  | roopenX (d : BitVec 5) (w : BitVec 6)
  /-- BINIT (R204): Initialise one BN3 object. -/
  | binit (e : BitVec 5) (b : BitVec 5)
  /-- BINIT_V (R204): Initialise Sn BN3 objects. -/
  | binitV (e : BitVec 5) (b : BitVec 5) (n : BitVec 5)
  /-- BFIN (R204): Finish a BN3 object to FP32. -/
  | bfin (d : BitVec 5) (b : BitVec 5)
  /-- BFIN_V (R204): Finish Sn BN3 objects into runs. -/
  | bfinV (b : BitVec 5) (n : BitVec 5) (v : BitVec 6)
  /-- BNORM (R204): Normalise one BN3 object. -/
  | bnorm (b : BitVec 5)
  /-- BNORM_V (R204): Normalise Sn BN3 objects. -/
  | bnormV (b : BitVec 5) (n : BitVec 5)
  /-- DQPUSH (R208): Push at a deque's bottom. -/
  | dqpush (b : BitVec 5) (v : BitVec 5) (t : BitVec 5)
  /-- DQPOP (R208): Pop from a deque's bottom. -/
  | dqpop (d : BitVec 5) (b : BitVec 5) (t : BitVec 5)
  /-- DQSTEAL (R208): Steal from a deque's top. -/
  | dqsteal (d : BitVec 5) (b : BitVec 5) (t : BitVec 5)
  /-- BARA (R210): Arrive at a barrier and return its phase. -/
  | bara (d : BitVec 5) (b : BitVec 5)
  /-- BARW (R210): Wait until a barrier's phase changes. -/
  | barw (b : BitVec 5) (p : BitVec 5)
  /-- TGROW (R211): Grow the task group's COUNT. -/
  | tgrow (d : BitVec 5) (n : BitVec 5)
  /-- SDCLAIM (R213): Claim a seed lease. -/
  | sdclaim (d : BitVec 5) (b : BitVec 5)
  /-- SDFREE (R213): Free a seed lease. -/
  | sdfree (d : BitVec 5) (l : BitVec 5)
  /-- WAITM (R214): Wait until a memory word satisfies a compare. -/
  | waitm (v : BitVec 5) (b : BitVec 5) (c : BitVec 3) (o : BitVec 12)
  /-- EVPOP (R216): Take the oldest event, waiting if the queue is empty. -/
  | evpop (d : BitVec 5) (e : BitVec 5)
  /-- EVPOP_NB (R216): Take the oldest event or zeros without waiting. -/
  | evpopNb (d : BitVec 5) (e : BitVec 5)
  /-- LAUNCH (R217): Check a group record and queue the group at its clusters. -/
  | launch (b : BitVec 5)
  /-- NOTIFY (R218): Send an MSI-X vector to the host as a release. -/
  | notify (n : BitVec 11)
  /-- MZERO (R273): Zero an accumulator bank. -/
  | mzero (a : BitVec 3)
  /-- MLDB (R274): Load B into the shadow plane. -/
  | mldb (g : BitVec 2) (a : BitVec 5) (f : BitVec 3) (s : BitVec 2) (x : BitVec 1)
  /-- MGENB_PURE (R275): Fill the shadow plane from a generator. -/
  | mgenbPure (n : BitVec 4) (s : BitVec 3) (c : BitVec 5) (f : BitVec 2)
  /-- MGENB_ADD (R275): Fill the shadow plane with stored weights plus alpha times a generator. -/
  | mgenbAdd (n : BitVec 4) (s : BitVec 3) (c : BitVec 5) (b : BitVec 5) (l : BitVec 5) (f : BitVec 2)
  /-- MMA (R276): Stream rows of A against the active plane. -/
  | mma (a : BitVec 3) (g : BitVec 2) (s : BitVec 5) (m : BitVec 7) (f : BitVec 3) (c : BitVec 2) (x : BitVec 1)
  /-- MMAT (R276): Stream A read from a stored transpose. -/
  | mmat (a : BitVec 3) (g : BitVec 2) (s : BitVec 5) (p : BitVec 5) (f : BitVec 3) (c : BitVec 2) (x : BitVec 1)
  /-- MMAG (R278): Stream a generated A. -/
  | mmag (a : BitVec 3) (n : BitVec 4) (e : BitVec 3) (c : BitVec 5) (m : BitVec 7) (f : BitVec 3)
  /-- MCOP (R273): Write the cell-operation sequence. -/
  | mcop (s : BitVec 5)
  /-- MDRV (R281): Drain accumulator rows into a vector register. -/
  | mdrv (v : BitVec 6) (a : BitVec 3) (r : BitVec 5) (f : BitVec 3) (c : BitVec 1)
  /-- MDRS (R282): Drain accumulator rows into scratchpad. -/
  | mdrs (a : BitVec 3) (g : BitVec 2) (s : BitVec 5) (r : BitVec 5) (f : BitVec 3)
  /-- MADP (R285): Apply low-rank adapters to bank rows. -/
  | madp (a : BitVec 3) (g : BitVec 2) (s : BitVec 5) (v : BitVec 6) (p : BitVec 2) (m : BitVec 7)
  /-- MADT (R284): Write an adapter directory entry. -/
  | madt (d : BitVec 5) (i : BitVec 5) (a : BitVec 5) (b : BitVec 5)
  /-- MBASE (R284): Set the base tag and invalidate entries bound to other tags. -/
  | mbase (a : BitVec 5)
  /-- MMA_RAG (R277): Stream A with accumulation gated by sequence membership. -/
  | mmaRag (a : BitVec 3) (g : BitVec 2) (s : BitVec 5) (x : BitVec 5) (h : BitVec 3) (f : BitVec 3) (c : BitVec 2) (k : BitVec 1)
  /-- MDRV_RAG (R281): Drain accumulator rows by sequence membership. -/
  | mdrvRag (v : BitVec 6) (a : BitVec 3) (r : BitVec 5) (x : BitVec 5) (h : BitVec 3) (f : BitVec 3)
  /-- GLOAD (R304): Make a registered image resident in a slot. -/
  | gload (n : BitVec 4) (a : BitVec 5)
  /-- GFREE (R305): Empty a residency slot. -/
  | gfree (n : BitVec 4)
  /-- GSEED (R305): Write a seed register. -/
  | gseed (s : BitVec 3) (a : BitVec 5)
  /-- GEVAL (R306): Evaluate a generator along a line of coordinates. -/
  | geval (v : BitVec 6) (n : BitVec 4) (s : BitVec 3) (c : BitVec 5) (l : BitVec 5) (a : BitVec 1)
  /-- GSTAT (R307): Query a slot or seed register. -/
  | gstat (d : BitVec 5) (n : BitVec 4) (s : BitVec 3) (q : BitVec 4)
  /-- CPY (R316): Gather or scatter outer rows through a shape register. -/
  | cpy (t : BitVec 5) (a : BitVec 5) (b : BitVec 5) (h : BitVec 3) (s : BitVec 1) (f : BitVec 1) (q : BitVec 1)
  /-- CPY_Z (R319): Copy a compressed block, expanding it on the route. -/
  | cpyZ (t : BitVec 5) (a : BitVec 5) (b : BitVec 5) (f : BitVec 1) (q : BitVec 1)
  /-- CPYR (R316): Copy rows selected by sequence boundaries. -/
  | cpyr (t : BitVec 5) (a : BitVec 5) (b : BitVec 5) (h : BitVec 3) (s : BitVec 1) (f : BitVec 1) (e : BitVec 1) (x : BitVec 1) (q : BitVec 1)
  /-- XPOSE (R321): Transpose one tile. -/
  | xpose (t : BitVec 5) (d : BitVec 5) (s : BitVec 5) (k : BitVec 4) (q : BitVec 1)
  /-- XCVT (R322): Convert elements within the scratchpad. -/
  | xcvt (t : BitVec 5) (d : BitVec 5) (s : BitVec 5) (n : BitVec 5) (k : BitVec 4) (q : BitVec 1)
  /-- XEXP (R323): Expand a compressed block within the scratchpad. -/
  | xexp (t : BitVec 5) (d : BitVec 5) (s : BitVec 5) (q : BitVec 1)
  /-- IMLOAD (R326): Expand a code image into the idle half. -/
  | imload (t : BitVec 5) (a : BitVec 5) (q : BitVec 1)
  /-- CWAITT (R315): Wait for a transfer token's final status. -/
  | cwaitt (d : BitVec 5) (t : BitVec 5)
  /-- CPOLL (R315): Read a transfer token's status without waiting. -/
  | cpoll (d : BitVec 5) (t : BitVec 5)
  /-- CHDEF (R335): Define a channel table entry from a descriptor. -/
  | chdef (c : BitVec 6) (b : BitVec 5) (d : BitVec 5)
  /-- CSEND (R338): Send tiles into the peer's armed tiles. -/
  | csend (c : BitVec 6) (a : BitVec 5) (n : BitVec 5) (d : BitVec 5) (q : BitVec 1)
  /-- CRECV (R337): Arm tiles to receive. -/
  | crecv (c : BitVec 6) (a : BitVec 5) (n : BitVec 5) (d : BitVec 5) (q : BitVec 1)
  /-- CA2AC (R341): Exchange all-to-all counts. -/
  | ca2ac (c : BitVec 6) (a : BitVec 5) (d : BitVec 5) (q : BitVec 1)
  /-- CA2AP (R341): Move the all-to-all payload. -/
  | ca2ap (c : BitVec 6) (a : BitVec 5) (d : BitVec 5) (q : BitVec 1)
  /-- CSWR (R348): Contribute to a reduction held in the switch. -/
  | cswr (c : BitVec 6) (v : BitVec 5) (d : BitVec 5) (o : BitVec 3) (q : BitVec 1)
  /-- CDIG (R347): Compare a CRC-64 digest across the group. -/
  | cdig (c : BitVec 6) (a : BitVec 5) (n : BitVec 5) (q : BitVec 1)
  /-- CNRM (R342): Receive tiles and form the group's exact squared norm. -/
  | cnrm (c : BitVec 6) (a : BitVec 5) (n : BitVec 5) (d : BitVec 5) (q : BitVec 1)
  /-- CPAUSE (R351): Pause a channel's calls at packet boundaries. -/
  | cpause (c : BitVec 6)
  /-- CRES (R351): Resume a paused channel. -/
  | cres (c : BitVec 6)
  /-- GAGREE (R350): Take part in an agreement round on group membership. -/
  | gagree (c : BitVec 6) (v : BitVec 5) (d : BitVec 5) (q : BitVec 1)
  /-- RESET (R369): Reset wipes all memories and registers, and the boot ROM then measures and verifies the firmware before running it. -/
  | reset
  /-- LIFE_CYCLE_CHANGE (R369): A life-cycle change wipes all memories and registers and destroys the keys of the state being left. -/
  | lifeCycleChange
  /-- LINK_FAILURE (R13): A die-to-die link fails; it is reported and not rerouted, and routes that need it raise PROTECTION 0x01 until reset. -/
  | linkFailure
  /-- THERMAL_ALERT (R364): A die's temperature crosses its alert threshold and the device posts MSI-X vector 2047. -/
  | thermalAlert
  /-- BUNDLE_DISPATCH (R43): A decoded bundle is placed in the slot queues, sets pending marks and handles its loop ends, within the slip bound. -/
  | bundleDispatch
  /-- EXPOSED_RESULT_LANDS (R44): A fixed-latency result lands in exposed storage L cycles after issue, with its flags ORed into FFLAGS. -/
  | exposedResultLands
  /-- PRESENCE_RESULT_ARRIVES (R51): A variable-latency result is written to a presence-tracked register and clears its pending mark. -/
  | presenceResultArrives
  /-- TASK_DISPATCH (R26): A freed dispatch unit takes a pre-empted task, a pending replay or the next index of the oldest eligible group. -/
  | taskDispatch
  /-- CO_RESIDENT_DISPATCH (R28): Once enough units of its set are free together, a co-resident group dispatches all its first COUNT indices in one step. -/
  | coResidentDispatch
  /-- REPLAY_DISPATCH (R35): Once the accesses and transfers of an abandoned attempt are done, its pending replay restarts at ENTRY with the original index. -/
  | replayDispatch
  /-- PREQ (R33): A controller writes a core identifier to PREQ and requests the pre-emption of that core's task. -/
  | preq
  /-- TASK_PREEMPTION (R32): A core that reaches its drain point and has finished draining saves its register image to the save slot. -/
  | taskPreemption
  /-- PREEMPTION_LIMIT_EXPIRY (R33): A core that has not begun its save within PLIMIT raises DRAIN_OVERRUN and its task is abandoned. -/
  | preemptionLimitExpiry
  /-- SWCTL_ARM (R36): Writing ARM = 1 arms a gang switch at SWITCHAT with the given target and clears ERR. -/
  | swctlArm
  /-- SWCTL_CANCEL (R36): Writing ARM = 0 cancels an armed gang switch. -/
  | swctlCancel
  /-- SWITCH_INSTANT (R37): The package-time counter reaches SWITCHAT, every core and controller receives a pre-emption request, and collectives pause. -/
  | switchInstant
  /-- SWITCH_DRAIN_LIMIT (R37): The step-1 limit expires and every undrained task is abandoned with DRAIN_OVERRUN 0x01. -/
  | switchDrainLimit
  /-- GANG_SWITCH_SAVE (R37): Once step 1 has ended, the outgoing context's state is saved to its partition. -/
  | gangSwitchSave
  /-- GANG_SWITCH_RESTORE (R37): After the save, the incoming context is restored and resumes, or the package idles. -/
  | gangSwitchRestore
  /-- PORT_SYNC_OPERATION (R193): A sync-engine operation reaches its target port and executes there in one indivisible step. -/
  | portSyncOperation
  /-- WAITM_SATISFIED (R214): A write to a watched word satisfies a WAITM compare and ends the wait. -/
  | waitmSatisfied
  /-- WAITT_DEADLINE (R162): Package time reaches the WAITT operand and sq resumes. -/
  | waittDeadline
  /-- PARKREP (R113): A write of a context number to PARKREP makes the die retry that context's parked requests in order. -/
  | parkrep
  /-- TLBINV_GO (R108): A write of GO = 1 to TLBINV starts dropping the TLB entries of the named page or context on all dies. -/
  | tlbinvGo
  /-- TLB_INVALIDATION_COMPLETE (R108): Once every access that used a dropped entry has performed, GO reads 0. -/
  | tlbInvalidationComplete
  /-- BUDGET_PERIOD_BOUNDARY (R368): At each period boundary USE is cleared and frozen masters stay frozen. -/
  | budgetPeriodBoundary
  /-- BUDGET_THAW (R368): BBCTL THAW clears every FRZ of the master and resumes it. -/
  | budgetThaw
  /-- BUDGET_KILL (R368): BBCTL KILL abandons the master's task, ends its transfers or aborts its collective handles. -/
  | budgetKill
  /-- HOST_BAR4_ACCESS (R358): A host read or write through BAR4 accesses device memory of APCTX on path HI. -/
  | hostBar4Access
  /-- CXL_MEM_ACCESS (R357): A CXL.mem access inside an enabled HMWIN is translated to the context's HBM, or else it is poisoned or discarded. -/
  | cxlMemAccess
  /-- MSIX_TABLE_WRITE (R364): A host write that unmasks a pending MSI-X entry sends its message. -/
  | msixTableWrite
  /-- REGISTER_WRITE (R358): A write to a BAR0 register with no behaviour of its own updates the register, subject to its refusal rules. -/
  | registerWrite
  /-- GENERATOR_REGISTRATION (R299): A write of GREGC.GO = 1 reads the image at GREGA, checks it and starts registering it. -/
  | generatorRegistration
  /-- REGISTRATION_COMPLETE (R299): Registration ends with STATUS and INDEX written and GO cleared. -/
  | registrationComplete
  /-- CODE_LOAD (R362): A write of ICLC.GO = 1 makes the die's code loader expand an image into a half of a core or controller. -/
  | codeLoad
  /-- CODE_LOAD_COMPLETE (R362): The code loader finishes, records STATUS and sets the half's coherent bit. -/
  | codeLoadComplete
  /-- CTX_CREATE (R361): CTXCTL CMD = CREATE checks SPART, then wipes the partition and resets the context. -/
  | ctxCreate
  /-- CTX_CREATE_COMPLETE (R361): The wipe of creation ends and STATE becomes resident. -/
  | ctxCreateComplete
  /-- CTX_TEARDOWN (R361): CTXCTL CMD = TEARDOWN stops the context and wipes its partition and tables. -/
  | ctxTeardown
  /-- TEARDOWN_COMPLETE (R369): Teardown ends and STATE returns to free. -/
  | teardownComplete
  /-- CSCTL_START (R360): A write of CSCTL EN = 1 starts a command-stream controller at START, either from its stream or from its instruction store. -/
  | csctlStart
  /-- SUPERVISOR_CONTROLLER_START (R363): A write of SVCTL EN = 1 starts the named controller as supervisor controller at bundle 0 of half 0. -/
  | supervisorControllerStart
  /-- SUPERVISOR_CONTROLLER_STOP (R363): A write of SVCTL EN = 0 stops the supervisor controller at once. -/
  | supervisorControllerStop
  /-- ATTESTATION_REQUEST (R366): A write of ATTCTL GO = 1 requests a signed report over the nonce, or sets ERR in manufacturing state. -/
  | attestationRequest
  /-- ATTESTATION_REPORT_READY (R366): The signed report stands in ATTREP and GO reads 0. -/
  | attestationReportReady
  /-- ACCUMULATOR_ROW_LANDS (R267): A streamed row is combined into its accumulator bank row in its landing cycle. -/
  | accumulatorRowLands
  /-- MLDB_LOAD_COMPLETE (R274): A shadow-plane load finishes its 128 rows and sets FB and the scaled bit. -/
  | mldbLoadComplete
  /-- MGENB_COMMIT (R275): Generated plane values are committed to the shadow plane in one step when the load ends. -/
  | mgenbCommit
  /-- GEN_BOUND_DETECTED (R297): In a fixed cycle, the first evaluation that exceeds the bound raises GEN_BOUND and later evaluations are abandoned. -/
  | genBoundDetected
  /-- MDRS_TILE_RELEASE (R282): Once MDRS's writes to a tile have performed, it sets that tile's full bit as a release. -/
  | mdrsTileRelease
  /-- GLOAD_COPY_COMPLETE (R304): The registered image has been copied into the residency slot, which becomes present. -/
  | gloadCopyComplete
  /-- TRANSFER_TILE_RELEASE (R317): Once every write of a copy to a destination tile has performed, the tile's full bit is set. -/
  | transferTileRelease
  /-- TRANSFER_COMPLETE (R313): A transfer operation issues its last write and records its status in the ring; with Q = 1 an event follows. -/
  | transferComplete
  /-- TRANSFORM_COMPLETE (R320): A transform unit sets the destination bits and completes its token at t + L. -/
  | transformComplete
  /-- ARM_NOTICE_ARRIVAL (R338): A receiver's arm notice reaches a sender, whose call may then send that tile. -/
  | armNoticeArrival
  /-- COLLECTIVE_PACKET_ARRIVAL (R339): Arriving words are combined into an armed tile and counted; at the full count the tile is set full. -/
  | collectivePacketArrival
  /-- ABORT_PACKET_RECEIPT (R345): A member receives an abort packet, marks its entries ABORTED, ends its calls and logs COLL_MISMATCH. -/
  | abortPacketReceipt
  /-- SWITCH_CONTRIBUTION (R349): A CSWR contribution reaches the switch, allocates or joins a slot, is judged late, or completes the key. -/
  | switchContribution
  /-- SWITCH_SLOT_TIMEOUT (R349): A reduction slot's timer expires, partial results go out with status 0x03, and missing-rank bitmaps are written. -/
  | switchSlotTimeout
  /-- AGREEMENT_CONTRIBUTION (R350): A GAGREE contribution reaches the switch, and the round closes once every member has contributed. -/
  | agreementContribution
  /-- AGREEMENT_TIMEOUT (R350): An agreement round closes on its timeout and the new version is formed from the contributors. -/
  | agreementTimeout
  /-- NORM_PARTIAL_ARRIVAL (R342): A member's norm partial arrives, and when all N are in, the exact sum gives the CNRM result. -/
  | normPartialArrival
  /-- DIGEST_ARRIVAL (R347): Digests of a CDIG arrive, and once all N are in they are compared. -/
  | digestArrival
  /-- RET (R159): Branch to S15. -/
  | ret
  /-- LBRK (R152): Close the innermost loop level and continue after its end. -/
  | lbrk
  /-- RETIRE (R161): Drain, then end the task or the command stream. -/
  | retire
  /-- FRAME (R156): Enter Invar mode and start a new schedule frame. -/
  | frame
  /-- FRAME_X (R156): Leave Invar mode. -/
  | frameX
  /-- SYSRET (R140): Return from the handler and dispatch again from EPC. -/
  | sysret
  /-- SYSRET_S (R140): Return from the handler and skip the faulting operation. -/
  | sysretS
  /-- MSWAP (R273): Wait for the load, then exchange the planes. -/
  | mswap
  /-- MCOP_MAD (R273): Reset the cell-operation sequence to all MAD. -/
  | mcopMad
  /-- CPAUSE_ALL (R351): Pause every channel of the context on the die. -/
  | cpauseAll
  /-- CRES_ALL (R351): Resume every paused channel on the die. -/
  | cresAll
  /-- WRITE_PERFORMED (R174): A store, or a SETF or CLRF bit write, reaches its memory port and performs there, taking its place in the granule's modification order. -/
  | writePerformed
  /-- LAST_PACKET_ACCEPTED (R338): The receiving port's acceptance of a CSEND's last packet reaches the sender, completing the call and posting its event when Q = 1. -/
  | lastPacketAccepted
  /-- SWITCH_PACKET_DROP (R331): The switch drops a packet from a non-member or of a stale version, and the sender logs GROUP_MEMBERSHIP and ends its call with status 0x05. -/
  | switchPacketDrop
  /-- MSI_X_ENABLE (R364): The host sets the function's MSI-X enable, and pending unmasked vectors send their messages. -/
  | msiXEnable
  /-- CXL_CACHE_SNOOP (R357): A CXL.cache snoop from the host arrives and the device answers without data. -/
  | cxlCacheSnoop
deriving DecidableEq, Repr

end Sys2Proof
end

