-- ==== Sys2Proof/WellFormed.lean ====
section
/-!
DEFINITION. Which instructions are well formed: the checks of decode that concern one operation alone,
by the subcode of ILLEGAL_ENCODING that a failure raises (R58): 0x02 (a field the form leaves unused is
not zero), 0x05 (width 0b11), 0x09 (a reserved code). The checks that need the bundle or its address
(0x03, 0x04, 0x06, 0x07, 0x08, branch and loop targets) stand with dispatch.
-/

namespace Sys2Proof

/-- The engines' slots (R40); va and vb share one map (R59). -/
inductive SlotKind where
  | sq | v | mx | gn | me | tx
deriving DecidableEq, Repr

/-- FMT codes of the narrow integers (R93). -/
def isNarrowFmt (f : BitVec 4) : Bool := f == 7 || f == 8 || f == 9

/-- A special register's number (R148). -/
def isSpecialRegister (p : BitVec 12) : Bool :=
  p ≤ 0x001 || (0x008 ≤ p && p ≤ 0x00E) || (0x010 ≤ p && p ≤ 0x018) || (0x020 ≤ p && p ≤ 0x024) ||
  p == 0x030 || p == 0x031 || p == 0x040 || p == 0x041 || (0x048 ≤ p && p ≤ 0x04F) ||
  p == 0x050 || p == 0x051 || p == 0x060 || p == 0x061

/-- No reserved code in one operand's half of an engine format register (R82). -/
def efrHalfOk (b : BitVec 8) : Bool :=
  b.extractLsb' 0 2 != 3 && b.extractLsb' 2 2 != 3 && b.extractLsb' 4 2 != 3 && b.extractLsb' 6 2 == 0

/-- A SETEFR value that decode accepts for target `t` (R82, R162). -/
def efrValueOk (t : BitVec 2) (v : BitVec 16) : Bool :=
  t != 3 && efrHalfOk (v.extractLsb' 0 8) &&
  (if t == 0 then efrHalfOk (v.extractLsb' 8 8) else v.extractLsb' 8 8 == 0)

/-- Format code and scaled bit of a matrix operand (R264, R265). -/
def matFmtOk (f : BitVec 3) (x : BitVec 1) : Bool :=
  f ≤ 4 && (f != 4 || x == 1) && (2 ≤ f || x == 0)

/-- OPC, TY and U of ATOM (R198). -/
def atomOk (o : BitVec 3) (t : BitVec 2) (u : BitVec 1) : Bool :=
  o != 7 && t != 3 && (t != 2 || !(o == 1 || o == 2 || o == 3)) &&
  (u == 0 || ((o == 4 || o == 5) && t != 2))

/-- Two destination fields name one register only if it is S0 (R197). -/
def destPairOk (a b : BitVec 5) : Bool := a != b || a == 0

/-- The upper bits of a vector field that holds a mask number (R233). -/
def maskField (v : BitVec 6) : Bool := v.extractLsb' 3 3 == 0

namespace Instr

/-- Every field the form leaves unused is zero (R4, R58 0x02). -/
def resOk : Instr → Bool
  | vabs _ _ _ _ m k | vexp2 _ _ _ _ m k | vlog2 _ _ _ _ m k | vrcp _ _ _ _ m k | vrsq _ _ _ _ m k
  | vcvt _ _ _ _ _ m k | vsegclr _ _ _ _ m k | vscan _ _ _ _ m k _
  | vrsum _ _ _ _ m k | vrsumSeg _ _ _ _ m k | vrssq _ _ _ _ m k | vrssqSeg _ _ _ _ m k
  | vrmax _ _ _ _ m k | vrmaxSeg _ _ _ _ m k | vrmin _ _ _ _ m k | vrminSeg _ _ _ _ m k
  | vmaxk _ _ _ _ m k | vmaxkSeg _ _ _ _ m k => m == 1 || k == 0
  | vcoal _ d a p z m => m == 0 || (maskField d && maskField a && p == 0 && z == 0)
  | vlen _ _ a p _ m => m == 0 || (maskField a && p == 0)
  | vsplat _ d s _ m v => if m == 1 then maskField d && s == 0 else v == 0
  | ldv _ _ _ f c | ldvc _ _ _ f c | stv _ _ f c _ => isNarrowFmt f || c == 0
  | str _ _ _ p m => m == 0 || p == 0
  | mldb _ _ _ s x => x == 1 || s == 0
  | mma _ _ _ _ _ c x | mmat _ _ _ _ _ c x => x == 1 || c == 0
  | mmaRag _ _ _ _ _ _ c k => k == 1 || c == 0
  | gstat _ n s q => if q == 6 then n == 0 else s == 0
  | _ => true

/-- The width field of a vector operation (R55). -/
def width? : Instr → Option (BitVec 2)
  | vadd w _ _ _ _ _ | vsub w _ _ _ _ _ | vmul w _ _ _ _ _ | vmin w _ _ _ _ _ | vmax w _ _ _ _ _
  | vfma w _ _ _ _ _ _ | vabs w _ _ _ _ _ | vcvt w _ _ _ _ _ _ | vexp2 w _ _ _ _ _ | vlog2 w _ _ _ _ _
  | vrcp w _ _ _ _ _ | vrsq w _ _ _ _ _ | fp32MaskedForms w _ _ _ _ _ _ | fp32ScalarForms w _ _ _ _ _
  | viadd w _ _ _ _ _ | visub w _ _ _ _ _ | vimul w _ _ _ _ _ | vand w _ _ _ _ _ | vor w _ _ _ _ _
  | vxor w _ _ _ _ _ | vshl w _ _ _ _ _ | vshr w _ _ _ _ _ | vshrA w _ _ _ _ _ | vimin w _ _ _ _ _
  | vimax w _ _ _ _ _ | viminU w _ _ _ _ _ | vimaxU w _ _ _ _ _ | int32MaskedForms w _ _ _ _ _ _
  | int32ScalarForms w _ _ _ _ _ | vcmp w _ _ _ _ _ _ _ | vcmpScalar w _ _ _ _ _ _ | vsel w _ _ _ _ _
  | mand w _ _ _ | mor w _ _ _ | mxor w _ _ _ | mnot w _ _ | mcnt w _ _ | vcoal w _ _ _ _ _
  | vlen w _ _ _ _ _ | vsplat w _ _ _ _ _ | viota w _ _ _ | viotaSeg w _ _ _ | vslice w _ _ _ _
  | vcat w _ _ _ _ _ | vpick w _ _ _ _ _ | vsegset w _ _ _ _ | vsegclr w _ _ _ _ _ | vspread w _ _ _ _ _
  | vrsum w _ _ _ _ _ | vrsumSeg w _ _ _ _ _ | vrssq w _ _ _ _ _ | vrssqSeg w _ _ _ _ _
  | vrmax w _ _ _ _ _ | vrmaxSeg w _ _ _ _ _ | vrmin w _ _ _ _ _ | vrminSeg w _ _ _ _ _
  | vscan w _ _ _ _ _ _ | vmaxk w _ _ _ _ _ | vmaxkSeg w _ _ _ _ _ | vexpk w _ _ _ _ _ | vsck w _ _ _ _ _
  | vsckSeg w _ _ _ _ _ => some w
  | _ => none

/-- Width 0b11 is illegal (R55, R58 0x05). -/
def widthOk (i : Instr) : Bool := i.width? != some 3

/-- No reserved code in an operand field (R58 0x09). -/
def valOk : Instr → Bool
  | loopImm _ e | loopReg _ e | looprImm _ e | looprReg _ e => e != 0
  | setrm m => m < 6
  | setefr t v => efrValueOk t v
  | getsp _ p | setsp _ p => isSpecialRegister p
  | cmp c g _ _ | cmpi c g _ _ => c < 6 && g != 0
  | fcmp c g _ _ => c < 5 && g != 0
  | movgToGuard _ g => g != 0
  | bfx _ _ _ p w | bfi _ _ p w => p.toNat + w.toNat + 1 ≤ 64
  | fcvt _ _ v => 1 ≤ v && v ≤ 14
  | vcvt _ _ _ _ v _ _ => 1 ≤ v && v ≤ 8
  | fp32MaskedForms _ _ _ _ _ _ f => f ≤ 4
  | fp32ScalarForms _ _ _ _ _ f => f ≤ 5
  | int32MaskedForms _ _ _ _ _ _ f => f ≤ 12
  | int32ScalarForms _ _ _ _ _ f => f ≤ 13
  | vcmp _ _ _ _ _ _ i c => i == 1 || c != 7
  | vcmpScalar _ _ _ _ _ i c => i == 1 || c != 7
  | vlen _ _ _ _ q _ => q != 3
  | ldv _ _ _ f _ | ldvc _ _ _ f _ | stv _ _ f _ _ => f ≤ 9
  | ldr v _ _ m | str v _ _ _ m => m == 0 || maskField v
  | ldvr _ _ _ _ e x _ _ | stvr _ _ _ _ e x _ _ => x == 0 || e == 1
  | shchk _ g => g != 0
  | shq _ _ _ q => q ≤ 10
  | star _ _ _ f => f ≤ 4
  | fence a | drain a => a ≤ 4
  | xfence a b => a ≤ 6 && b ≤ 6
  | atom _ _ _ o t u | atomN _ _ o t u => atomOk o t u
  | acas _ _ _ _ t => t ≤ 1
  | dqpop d _ t | dqsteal d _ t => destPairOk d t
  | waitm _ _ c _ => c ≤ 5
  | evpop d e | evpopNb d e => destPairOk d e
  | mldb _ _ f _ x => matFmtOk f x
  | mma _ _ _ _ f _ x => matFmtOk f x
  | mmaRag _ _ _ _ _ f _ k => matFmtOk f k
  | mmat _ _ _ _ f _ x => matFmtOk f x && f != 4
  | mmag _ _ _ _ _ f => f ≤ 3
  | mdrv _ _ _ f _ | mdrs _ _ _ _ f | mdrvRag _ _ _ _ _ f => f ≤ 5
  | gstat _ _ _ q => q ≤ 6
  | cpyr _ _ _ _ _ _ e x _ => x == 0 || e == 1
  | xpose _ _ _ k _ => k ≤ 2
  | xcvt _ _ _ _ k _ => 1 ≤ k && k ≤ 10
  | cswr _ _ _ o _ => o ≤ 2
  | _ => true

/-- Well formed: decode accepts the operation by itself. A step without an encoding has no field that
decode could refuse. -/
def wf (i : Instr) : Bool := i.resOk && i.widthOk && i.valOk

end Instr

end Sys2Proof
end

