-- ==== Sys2Proof/Decode.lean ====
section
/-!
DEFINITION. The decoder of one slot's word and the encoder, both written from the encoding tables
(R41, R59, R60, R139, R140, R157, R158, R172, R173, R196, R197, R233, R235, R271, R272, R303, R311, R312, R332, R333).
The slot is not in the word: it is the word's place in the bundle (R40), so decoding takes the slot.
-/

namespace Sys2Proof

/-- A field of a word: `len` bits from bit `lo` up (R2). -/
def fld (w : Word) (lo len : Nat) : BitVec len := w.extractLsb' lo len

/-- The 7-bit major opcode (R59). -/
def major (w : Word) : Nat := (fld w 25 7).toNat

/-- The subcodes of ILLEGAL_ENCODING that one word alone can raise (R58). -/
inductive DecodeError where
  /-- 0x01: unassigned major or minor code. -/
  | unassigned
  /-- 0x02: non-zero reserved field. -/
  | reserved
  /-- 0x05: width 0b11. -/
  | width
  /-- 0x09: reserved value in an operand field. -/
  | value
deriving DecidableEq, Repr

/-- The subcode of a decode error (R58). -/
def DecodeError.sub : DecodeError → BitVec 8
  | .unassigned => 0x01
  | .reserved => 0x02
  | .width => 0x05
  | .value => 0x09

/-- The operation a sq word holds by its opcode and fixed bits (R157, R158). -/
def rawDecodeSq (w : Word) : Except DecodeError Instr :=
  match major w with
  | 0x01 =>
    if fld w 16 9 == 0x0 then .ok (.br (fld w 0 16)) else .error .reserved
  | 0x02 =>
    if fld w 20 5 == 0x0 && fld w 16 1 == 0x0 then .ok (.brg (fld w 18 2) (fld w 17 1) (fld w 0 16)) else .error .reserved
  | 0x03 =>
    if fld w 16 4 == 0x0 then .ok (.brz (fld w 20 5) (fld w 0 16)) else .error .reserved
  | 0x04 =>
    if fld w 16 4 == 0x0 then .ok (.brnz (fld w 20 5) (fld w 0 16)) else .error .reserved
  | 0x05 =>
    if fld w 16 9 == 0x0 then .ok (.call (fld w 0 16)) else .error .reserved
  | 0x06 =>
    if fld w 0 25 == 0x0 then .ok .ret else .error .reserved
  | 0x07 =>
    if fld w 0 20 == 0x0 then .ok (.jmpr (fld w 20 5)) else .error .reserved
  | 0x08 =>
    if fld w 17 8 == 0x0 then .ok (.loopReg (fld w 12 5) (fld w 0 12)) else
    if fld w 24 1 == 0x1 then .ok (.loopImm (fld w 12 12) (fld w 0 12)) else .error .reserved
  | 0x09 =>
    if fld w 17 8 == 0x0 then .ok (.looprReg (fld w 12 5) (fld w 0 12)) else
    if fld w 24 1 == 0x1 then .ok (.looprImm (fld w 12 12) (fld w 0 12)) else .error .reserved
  | 0x0A =>
    if fld w 0 25 == 0x0 then .ok .lbrk else .error .reserved
  | 0x0B =>
    if fld w 0 25 == 0x0 then .ok .retire else .error .reserved
  | 0x0C =>
    if fld w 1 24 == 0x0 then .ok (.fencei (fld w 0 1)) else .error .reserved
  | 0x0D =>
    if fld w 12 13 == 0x0 then .ok (.brswap (fld w 0 12)) else .error .reserved
  | 0x0E =>
    if fld w 0 20 == 0x0 then .ok (.waitt (fld w 20 5)) else .error .reserved
  | 0x0F =>
    if fld w 0 25 == 0x0 then .ok .frame else
    if fld w 0 25 == 0x1 then .ok .frameX else .error .reserved
  | 0x10 =>
    if fld w 8 17 == 0x0 then .ok (.rfmode (fld w 0 8)) else .error .reserved
  | 0x11 =>
    if fld w 3 22 == 0x0 then .ok (.setrm (fld w 0 3)) else .error .reserved
  | 0x12 =>
    if fld w 16 7 == 0x0 then .ok (.setefr (fld w 23 2) (fld w 0 16)) else .error .reserved
  | 0x13 =>
    if fld w 12 8 == 0x0 then .ok (.getsp (fld w 20 5) (fld w 0 12)) else .error .reserved
  | 0x14 =>
    if fld w 20 5 == 0x0 && fld w 12 3 == 0x0 then .ok (.setsp (fld w 15 5) (fld w 0 12)) else .error .reserved
  | 0x1C =>
    if fld w 8 17 == 0x0 then .ok (.trap (fld w 0 8)) else .error .reserved
  | 0x1D =>
    if fld w 0 25 == 0x0 then .ok .sysret else
    if fld w 0 25 == 0x1 then .ok .sysretS else .error .reserved
  | 0x20 =>
    if fld w 0 10 == 0x0 then .ok (.add (fld w 20 5) (fld w 15 5) (fld w 10 5)) else .error .reserved
  | 0x21 => .ok (.addi (fld w 20 5) (fld w 15 5) (fld w 0 15))
  | 0x22 =>
    if fld w 0 10 == 0x0 then .ok (.sub (fld w 20 5) (fld w 15 5) (fld w 10 5)) else .error .reserved
  | 0x23 =>
    if fld w 0 10 == 0x0 then .ok (.mul (fld w 20 5) (fld w 15 5) (fld w 10 5)) else .error .reserved
  | 0x24 =>
    if fld w 9 1 == 0x0 && fld w 0 8 == 0x0 then .ok (.mulh (fld w 20 5) (fld w 15 5) (fld w 10 5) (fld w 8 1)) else .error .reserved
  | 0x25 =>
    if fld w 9 1 == 0x0 && fld w 0 8 == 0x0 then .ok (.div (fld w 20 5) (fld w 15 5) (fld w 10 5) (fld w 8 1)) else .error .reserved
  | 0x26 =>
    if fld w 0 10 == 0x0 then .ok (.and (fld w 20 5) (fld w 15 5) (fld w 10 5)) else .error .reserved
  | 0x27 =>
    if fld w 0 10 == 0x0 then .ok (.or (fld w 20 5) (fld w 15 5) (fld w 10 5)) else .error .reserved
  | 0x28 =>
    if fld w 0 10 == 0x0 then .ok (.xor (fld w 20 5) (fld w 15 5) (fld w 10 5)) else .error .reserved
  | 0x29 =>
    if fld w 0 10 == 0x0 then .ok (.shlReg (fld w 20 5) (fld w 15 5) (fld w 10 5)) else
    if fld w 6 9 == 0x8 then .ok (.shlImm (fld w 20 5) (fld w 15 5) (fld w 0 6)) else .error .reserved
  | 0x2A =>
    if fld w 0 10 == 0x0 then .ok (.shrReg (fld w 20 5) (fld w 15 5) (fld w 10 5)) else
    if fld w 6 9 == 0x8 then .ok (.shrImm (fld w 20 5) (fld w 15 5) (fld w 0 6)) else .error .reserved
  | 0x2B =>
    if fld w 0 10 == 0x0 then .ok (.sarReg (fld w 20 5) (fld w 15 5) (fld w 10 5)) else
    if fld w 6 9 == 0x8 then .ok (.sarImm (fld w 20 5) (fld w 15 5) (fld w 0 6)) else .error .reserved
  | 0x2C =>
    if fld w 0 10 == 0x0 then .ok (.rotlReg (fld w 20 5) (fld w 15 5) (fld w 10 5)) else
    if fld w 6 9 == 0x8 then .ok (.rotlImm (fld w 20 5) (fld w 15 5) (fld w 0 6)) else .error .reserved
  | 0x2D =>
    if fld w 9 1 == 0x0 && fld w 0 8 == 0x0 then .ok (.min (fld w 20 5) (fld w 15 5) (fld w 10 5) (fld w 8 1)) else .error .reserved
  | 0x2E =>
    if fld w 9 1 == 0x0 && fld w 0 8 == 0x0 then .ok (.max (fld w 20 5) (fld w 15 5) (fld w 10 5) (fld w 8 1)) else .error .reserved
  | 0x2F =>
    if fld w 0 10 == 0x0 then .ok (.cmp (fld w 22 3) (fld w 20 2) (fld w 15 5) (fld w 10 5)) else .error .reserved
  | 0x30 => .ok (.cmpi (fld w 22 3) (fld w 20 2) (fld w 15 5) (fld w 0 15))
  | 0x31 =>
    if fld w 2 8 == 0x0 then .ok (.sel (fld w 20 5) (fld w 15 5) (fld w 10 5) (fld w 0 2)) else .error .reserved
  | 0x32 =>
    if fld w 0 15 == 0x0 then .ok (.clz (fld w 20 5) (fld w 15 5)) else .error .reserved
  | 0x33 =>
    if fld w 0 15 == 0x0 then .ok (.popc (fld w 20 5) (fld w 15 5)) else .error .reserved
  | 0x34 =>
    if fld w 13 2 == 0x0 then .ok (.bfx (fld w 20 5) (fld w 15 5) (fld w 12 1) (fld w 6 6) (fld w 0 6)) else .error .reserved
  | 0x35 =>
    if fld w 12 3 == 0x0 then .ok (.bfi (fld w 20 5) (fld w 15 5) (fld w 6 6) (fld w 0 6)) else .error .reserved
  | 0x36 =>
    if fld w 14 6 == 0x0 && fld w 0 12 == 0x0 then .ok (.movgToScalar (fld w 20 5) (fld w 12 2)) else
    if fld w 20 5 == 0x0 && fld w 14 1 == 0x1 && fld w 0 12 == 0x0 then .ok (.movgToGuard (fld w 15 5) (fld w 12 2)) else .error .reserved
  | 0x37 => .ok (.li (fld w 20 5) (fld w 0 20))
  | 0x38 =>
    if fld w 16 2 == 0x0 then .ok (.lih (fld w 20 5) (fld w 18 2) (fld w 0 16)) else .error .reserved
  | 0x40 =>
    if fld w 0 10 == 0x0 then .ok (.fadd (fld w 20 5) (fld w 15 5) (fld w 10 5)) else .error .reserved
  | 0x41 =>
    if fld w 0 10 == 0x0 then .ok (.fsub (fld w 20 5) (fld w 15 5) (fld w 10 5)) else .error .reserved
  | 0x42 =>
    if fld w 0 10 == 0x0 then .ok (.fmul (fld w 20 5) (fld w 15 5) (fld w 10 5)) else .error .reserved
  | 0x43 =>
    if fld w 0 5 == 0x0 then .ok (.ffma (fld w 20 5) (fld w 15 5) (fld w 10 5) (fld w 5 5)) else .error .reserved
  | 0x44 =>
    if fld w 0 10 == 0x0 then .ok (.fmin (fld w 20 5) (fld w 15 5) (fld w 10 5)) else .error .reserved
  | 0x45 =>
    if fld w 0 10 == 0x0 then .ok (.fmax (fld w 20 5) (fld w 15 5) (fld w 10 5)) else .error .reserved
  | 0x46 =>
    if fld w 0 10 == 0x0 then .ok (.fcmp (fld w 22 3) (fld w 20 2) (fld w 15 5) (fld w 10 5)) else .error .reserved
  | 0x47 =>
    if fld w 0 10 == 0x0 then .ok (.fcvt (fld w 20 5) (fld w 15 5) (fld w 10 5)) else .error .reserved
  | 0x48 =>
    if fld w 0 15 == 0x0 then .ok (.frcp (fld w 20 5) (fld w 15 5)) else .error .reserved
  | 0x49 =>
    if fld w 0 15 == 0x0 then .ok (.frsq (fld w 20 5) (fld w 15 5)) else .error .reserved
  | 0x4A =>
    if fld w 0 15 == 0x0 then .ok (.fexp2 (fld w 20 5) (fld w 15 5)) else .error .reserved
  | 0x4B =>
    if fld w 0 15 == 0x0 then .ok (.flog2 (fld w 20 5) (fld w 15 5)) else .error .reserved
  | _ => .error .unassigned

/-- The operation a v word holds by its opcode and fixed bits (R233, R235). -/
def rawDecodeV (w : Word) : Except DecodeError Instr :=
  match major w with
  | 0x01 =>
    if fld w 0 1 == 0x0 then .ok (.vadd (fld w 23 2) (fld w 17 6) (fld w 11 6) (fld w 9 2) (fld w 3 6) (fld w 1 2)) else .error .reserved
  | 0x02 =>
    if fld w 0 1 == 0x0 then .ok (.vsub (fld w 23 2) (fld w 17 6) (fld w 11 6) (fld w 9 2) (fld w 3 6) (fld w 1 2)) else .error .reserved
  | 0x03 =>
    if fld w 0 1 == 0x0 then .ok (.vmul (fld w 23 2) (fld w 17 6) (fld w 11 6) (fld w 9 2) (fld w 3 6) (fld w 1 2)) else .error .reserved
  | 0x04 =>
    if fld w 0 1 == 0x0 then .ok (.vmin (fld w 23 2) (fld w 17 6) (fld w 11 6) (fld w 9 2) (fld w 3 6) (fld w 1 2)) else .error .reserved
  | 0x05 =>
    if fld w 0 1 == 0x0 then .ok (.vmax (fld w 23 2) (fld w 17 6) (fld w 11 6) (fld w 9 2) (fld w 3 6) (fld w 1 2)) else .error .reserved
  | 0x06 => .ok (.vfma (fld w 23 2) (fld w 17 6) (fld w 11 6) (fld w 9 2) (fld w 3 6) (fld w 1 2) (fld w 0 1))
  | 0x07 =>
    if fld w 5 4 == 0x0 && fld w 0 1 == 0x0 then .ok (.vabs (fld w 23 2) (fld w 17 6) (fld w 11 6) (fld w 9 2) (fld w 4 1) (fld w 1 3)) else .error .reserved
  | 0x08 =>
    if fld w 0 1 == 0x0 then .ok (.vcvt (fld w 23 2) (fld w 17 6) (fld w 11 6) (fld w 9 2) (fld w 5 4) (fld w 4 1) (fld w 1 3)) else .error .reserved
  | 0x09 =>
    if fld w 5 4 == 0x0 && fld w 0 1 == 0x0 then .ok (.vexp2 (fld w 23 2) (fld w 17 6) (fld w 11 6) (fld w 9 2) (fld w 4 1) (fld w 1 3)) else .error .reserved
  | 0x0A =>
    if fld w 5 4 == 0x0 && fld w 0 1 == 0x0 then .ok (.vlog2 (fld w 23 2) (fld w 17 6) (fld w 11 6) (fld w 9 2) (fld w 4 1) (fld w 1 3)) else .error .reserved
  | 0x0B =>
    if fld w 5 4 == 0x0 && fld w 0 1 == 0x0 then .ok (.vrcp (fld w 23 2) (fld w 17 6) (fld w 11 6) (fld w 9 2) (fld w 4 1) (fld w 1 3)) else .error .reserved
  | 0x0C =>
    if fld w 5 4 == 0x0 && fld w 0 1 == 0x0 then .ok (.vrsq (fld w 23 2) (fld w 17 6) (fld w 11 6) (fld w 9 2) (fld w 4 1) (fld w 1 3)) else .error .reserved
  | 0x0D => .ok (.fp32MaskedForms (fld w 23 2) (fld w 17 6) (fld w 15 2) (fld w 9 6) (fld w 7 2) (fld w 4 3) (fld w 0 4))
  | 0x0E => .ok (.fp32ScalarForms (fld w 23 2) (fld w 17 6) (fld w 11 6) (fld w 9 2) (fld w 4 5) (fld w 0 4))
  | 0x10 =>
    if fld w 0 1 == 0x0 then .ok (.viadd (fld w 23 2) (fld w 17 6) (fld w 11 6) (fld w 9 2) (fld w 3 6) (fld w 1 2)) else .error .reserved
  | 0x11 =>
    if fld w 0 1 == 0x0 then .ok (.visub (fld w 23 2) (fld w 17 6) (fld w 11 6) (fld w 9 2) (fld w 3 6) (fld w 1 2)) else .error .reserved
  | 0x12 =>
    if fld w 0 1 == 0x0 then .ok (.vimul (fld w 23 2) (fld w 17 6) (fld w 11 6) (fld w 9 2) (fld w 3 6) (fld w 1 2)) else .error .reserved
  | 0x13 =>
    if fld w 0 1 == 0x0 then .ok (.vand (fld w 23 2) (fld w 17 6) (fld w 11 6) (fld w 9 2) (fld w 3 6) (fld w 1 2)) else .error .reserved
  | 0x14 =>
    if fld w 0 1 == 0x0 then .ok (.vor (fld w 23 2) (fld w 17 6) (fld w 11 6) (fld w 9 2) (fld w 3 6) (fld w 1 2)) else .error .reserved
  | 0x15 =>
    if fld w 0 1 == 0x0 then .ok (.vxor (fld w 23 2) (fld w 17 6) (fld w 11 6) (fld w 9 2) (fld w 3 6) (fld w 1 2)) else .error .reserved
  | 0x16 =>
    if fld w 0 1 == 0x0 then .ok (.vshl (fld w 23 2) (fld w 17 6) (fld w 11 6) (fld w 9 2) (fld w 3 6) (fld w 1 2)) else .error .reserved
  | 0x17 =>
    if fld w 0 1 == 0x0 then .ok (.vshr (fld w 23 2) (fld w 17 6) (fld w 11 6) (fld w 9 2) (fld w 3 6) (fld w 1 2)) else .error .reserved
  | 0x18 =>
    if fld w 0 1 == 0x0 then .ok (.vshrA (fld w 23 2) (fld w 17 6) (fld w 11 6) (fld w 9 2) (fld w 3 6) (fld w 1 2)) else .error .reserved
  | 0x19 =>
    if fld w 0 1 == 0x0 then .ok (.vimin (fld w 23 2) (fld w 17 6) (fld w 11 6) (fld w 9 2) (fld w 3 6) (fld w 1 2)) else .error .reserved
  | 0x1A =>
    if fld w 0 1 == 0x0 then .ok (.vimax (fld w 23 2) (fld w 17 6) (fld w 11 6) (fld w 9 2) (fld w 3 6) (fld w 1 2)) else .error .reserved
  | 0x1B =>
    if fld w 0 1 == 0x0 then .ok (.viminU (fld w 23 2) (fld w 17 6) (fld w 11 6) (fld w 9 2) (fld w 3 6) (fld w 1 2)) else .error .reserved
  | 0x1C =>
    if fld w 0 1 == 0x0 then .ok (.vimaxU (fld w 23 2) (fld w 17 6) (fld w 11 6) (fld w 9 2) (fld w 3 6) (fld w 1 2)) else .error .reserved
  | 0x1D => .ok (.int32MaskedForms (fld w 23 2) (fld w 17 6) (fld w 15 2) (fld w 9 6) (fld w 7 2) (fld w 4 3) (fld w 0 4))
  | 0x1E => .ok (.int32ScalarForms (fld w 23 2) (fld w 17 6) (fld w 11 6) (fld w 9 2) (fld w 4 5) (fld w 0 4))
  | 0x20 => .ok (.vcmp (fld w 23 2) (fld w 20 3) (fld w 14 6) (fld w 12 2) (fld w 6 6) (fld w 4 2) (fld w 3 1) (fld w 0 3))
  | 0x21 =>
    if fld w 4 3 == 0x0 then .ok (.vcmpScalar (fld w 23 2) (fld w 20 3) (fld w 14 6) (fld w 12 2) (fld w 7 5) (fld w 3 1) (fld w 0 3)) else .error .reserved
  | 0x22 =>
    if fld w 0 4 == 0x0 then .ok (.vsel (fld w 23 2) (fld w 17 6) (fld w 15 2) (fld w 9 6) (fld w 7 2) (fld w 4 3)) else .error .reserved
  | 0x23 =>
    if fld w 0 14 == 0x0 then .ok (.mand (fld w 23 2) (fld w 20 3) (fld w 17 3) (fld w 14 3)) else .error .reserved
  | 0x24 =>
    if fld w 0 14 == 0x0 then .ok (.mor (fld w 23 2) (fld w 20 3) (fld w 17 3) (fld w 14 3)) else .error .reserved
  | 0x25 =>
    if fld w 0 14 == 0x0 then .ok (.mxor (fld w 23 2) (fld w 20 3) (fld w 17 3) (fld w 14 3)) else .error .reserved
  | 0x26 =>
    if fld w 0 17 == 0x0 then .ok (.mnot (fld w 23 2) (fld w 20 3) (fld w 17 3)) else .error .reserved
  | 0x27 =>
    if fld w 0 15 == 0x0 then .ok (.mcnt (fld w 23 2) (fld w 18 5) (fld w 15 3)) else .error .reserved
  | 0x30 =>
    if fld w 0 7 == 0x0 then .ok (.vcoal (fld w 23 2) (fld w 17 6) (fld w 11 6) (fld w 9 2) (fld w 8 1) (fld w 7 1)) else .error .reserved
  | 0x31 =>
    if fld w 0 7 == 0x0 then .ok (.vlen (fld w 23 2) (fld w 18 5) (fld w 12 6) (fld w 10 2) (fld w 8 2) (fld w 7 1)) else .error .reserved
  | 0x32 =>
    if fld w 0 5 == 0x0 then .ok (.vsplat (fld w 23 2) (fld w 17 6) (fld w 12 5) (fld w 7 5) (fld w 6 1) (fld w 5 1)) else .error .reserved
  | 0x33 =>
    if fld w 0 9 == 0x1 then .ok (.viotaSeg (fld w 23 2) (fld w 17 6) (fld w 11 6) (fld w 9 2)) else
    if fld w 0 7 == 0x0 then .ok (.viota (fld w 23 2) (fld w 17 6) (fld w 12 5) (fld w 7 5)) else .error .reserved
  | 0x34 =>
    if fld w 0 4 == 0x0 then .ok (.vslice (fld w 23 2) (fld w 17 6) (fld w 11 6) (fld w 9 2) (fld w 4 5)) else .error .reserved
  | 0x35 =>
    if fld w 0 1 == 0x0 then .ok (.vcat (fld w 23 2) (fld w 17 6) (fld w 11 6) (fld w 9 2) (fld w 3 6) (fld w 1 2)) else .error .reserved
  | 0x36 =>
    if fld w 0 1 == 0x0 then .ok (.vpick (fld w 23 2) (fld w 17 6) (fld w 11 6) (fld w 9 2) (fld w 3 6) (fld w 1 2)) else .error .reserved
  | 0x37 =>
    if fld w 5 4 == 0x0 && fld w 0 1 == 0x0 then
      if fld w 4 1 == 0x1 then .ok (.vsegset (fld w 23 2) (fld w 17 6) (fld w 11 6) (fld w 9 2) (fld w 1 3))
      else if fld w 23 2 == 0x3 then .error .width else .error .value
    else .error .reserved
  | 0x38 =>
    if fld w 5 4 == 0x0 && fld w 0 1 == 0x0 then .ok (.vsegclr (fld w 23 2) (fld w 17 6) (fld w 11 6) (fld w 9 2) (fld w 4 1) (fld w 1 3)) else .error .reserved
  | 0x39 =>
    if fld w 0 1 == 0x0 then .ok (.vspread (fld w 23 2) (fld w 17 6) (fld w 11 6) (fld w 9 2) (fld w 3 6) (fld w 1 2)) else .error .reserved
  | 0x40 =>
    if fld w 17 1 == 0x0 && fld w 5 4 == 0x0 && fld w 0 1 == 0x0 then .ok (.vrsum (fld w 23 2) (fld w 18 5) (fld w 11 6) (fld w 9 2) (fld w 4 1) (fld w 1 3)) else
    if fld w 5 4 == 0x0 && fld w 0 1 == 0x1 then .ok (.vrsumSeg (fld w 23 2) (fld w 17 6) (fld w 11 6) (fld w 9 2) (fld w 4 1) (fld w 1 3)) else .error .reserved
  | 0x41 =>
    if fld w 17 1 == 0x0 && fld w 5 4 == 0x0 && fld w 0 1 == 0x0 then .ok (.vrssq (fld w 23 2) (fld w 18 5) (fld w 11 6) (fld w 9 2) (fld w 4 1) (fld w 1 3)) else
    if fld w 5 4 == 0x0 && fld w 0 1 == 0x1 then .ok (.vrssqSeg (fld w 23 2) (fld w 17 6) (fld w 11 6) (fld w 9 2) (fld w 4 1) (fld w 1 3)) else .error .reserved
  | 0x42 =>
    if fld w 17 1 == 0x0 && fld w 5 4 == 0x0 && fld w 0 1 == 0x0 then .ok (.vrmax (fld w 23 2) (fld w 18 5) (fld w 11 6) (fld w 9 2) (fld w 4 1) (fld w 1 3)) else
    if fld w 5 4 == 0x0 && fld w 0 1 == 0x1 then .ok (.vrmaxSeg (fld w 23 2) (fld w 17 6) (fld w 11 6) (fld w 9 2) (fld w 4 1) (fld w 1 3)) else .error .reserved
  | 0x43 =>
    if fld w 17 1 == 0x0 && fld w 5 4 == 0x0 && fld w 0 1 == 0x0 then .ok (.vrmin (fld w 23 2) (fld w 18 5) (fld w 11 6) (fld w 9 2) (fld w 4 1) (fld w 1 3)) else
    if fld w 5 4 == 0x0 && fld w 0 1 == 0x1 then .ok (.vrminSeg (fld w 23 2) (fld w 17 6) (fld w 11 6) (fld w 9 2) (fld w 4 1) (fld w 1 3)) else .error .reserved
  | 0x44 =>
    if fld w 5 4 == 0x0 then .ok (.vscan (fld w 23 2) (fld w 17 6) (fld w 11 6) (fld w 9 2) (fld w 4 1) (fld w 1 3) (fld w 0 1)) else .error .reserved
  | 0x50 =>
    if fld w 17 1 == 0x0 && fld w 5 4 == 0x0 && fld w 0 1 == 0x0 then .ok (.vmaxk (fld w 23 2) (fld w 18 5) (fld w 11 6) (fld w 9 2) (fld w 4 1) (fld w 1 3)) else
    if fld w 5 4 == 0x0 && fld w 0 1 == 0x1 then .ok (.vmaxkSeg (fld w 23 2) (fld w 17 6) (fld w 11 6) (fld w 9 2) (fld w 4 1) (fld w 1 3)) else .error .reserved
  | 0x51 =>
    if fld w 0 1 == 0x0 then .ok (.vexpk (fld w 23 2) (fld w 17 6) (fld w 11 6) (fld w 9 2) (fld w 3 6) (fld w 1 2)) else .error .reserved
  | 0x52 =>
    if fld w 0 1 == 0x0 then .ok (.vsck (fld w 23 2) (fld w 17 6) (fld w 11 6) (fld w 9 2) (fld w 3 6) (fld w 1 2)) else
    if fld w 0 1 == 0x1 then .ok (.vsckSeg (fld w 23 2) (fld w 17 6) (fld w 11 6) (fld w 9 2) (fld w 3 6) (fld w 1 2)) else .error .reserved
  | _ => .error .unassigned

/-- The operation a mx word holds by its opcode and fixed bits (R271, R272). -/
def rawDecodeMx (w : Word) : Except DecodeError Instr :=
  match major w with
  | 0x01 =>
    if fld w 0 22 == 0x0 then .ok (.mzero (fld w 22 3)) else .error .reserved
  | 0x02 =>
    if fld w 0 12 == 0x0 then .ok (.mldb (fld w 23 2) (fld w 18 5) (fld w 15 3) (fld w 13 2) (fld w 12 1)) else .error .reserved
  | 0x03 =>
    if fld w 2 11 == 0x0 then .ok (.mgenbPure (fld w 21 4) (fld w 18 3) (fld w 13 5) (fld w 0 2)) else
    if fld w 2 1 == 0x1 then .ok (.mgenbAdd (fld w 21 4) (fld w 18 3) (fld w 13 5) (fld w 8 5) (fld w 3 5) (fld w 0 2)) else .error .reserved
  | 0x04 =>
    if fld w 0 25 == 0x0 then .ok .mswap else .error .reserved
  | 0x05 =>
    if fld w 0 2 == 0x0 then .ok (.mma (fld w 22 3) (fld w 20 2) (fld w 15 5) (fld w 8 7) (fld w 5 3) (fld w 3 2) (fld w 2 1)) else .error .reserved
  | 0x06 =>
    if fld w 0 4 == 0x0 then .ok (.mmat (fld w 22 3) (fld w 20 2) (fld w 15 5) (fld w 10 5) (fld w 7 3) (fld w 5 2) (fld w 4 1)) else .error .reserved
  | 0x07 => .ok (.mmag (fld w 22 3) (fld w 18 4) (fld w 15 3) (fld w 10 5) (fld w 3 7) (fld w 0 3))
  | 0x08 =>
    if fld w 0 25 == 0x1 then .ok .mcopMad else
    if fld w 0 20 == 0x0 then .ok (.mcop (fld w 20 5)) else .error .reserved
  | 0x09 =>
    if fld w 0 7 == 0x0 then .ok (.mdrv (fld w 19 6) (fld w 16 3) (fld w 11 5) (fld w 8 3) (fld w 7 1)) else .error .reserved
  | 0x0A =>
    if fld w 0 7 == 0x0 then .ok (.mdrs (fld w 22 3) (fld w 20 2) (fld w 15 5) (fld w 10 5) (fld w 7 3)) else .error .reserved
  | 0x0B => .ok (.madp (fld w 22 3) (fld w 20 2) (fld w 15 5) (fld w 9 6) (fld w 7 2) (fld w 0 7))
  | 0x0C =>
    if fld w 0 5 == 0x0 then .ok (.madt (fld w 20 5) (fld w 15 5) (fld w 10 5) (fld w 5 5)) else .error .reserved
  | 0x0D =>
    if fld w 0 20 == 0x0 then .ok (.mbase (fld w 20 5)) else .error .reserved
  | 0x0E =>
    if fld w 0 1 == 0x0 then .ok (.mmaRag (fld w 22 3) (fld w 20 2) (fld w 15 5) (fld w 10 5) (fld w 7 3) (fld w 4 3) (fld w 2 2) (fld w 1 1)) else .error .reserved
  | 0x0F => .ok (.mdrvRag (fld w 19 6) (fld w 16 3) (fld w 11 5) (fld w 6 5) (fld w 3 3) (fld w 0 3))
  | _ => .error .unassigned

/-- The operation a gn word holds by its opcode and fixed bits (R303). -/
def rawDecodeGn (w : Word) : Except DecodeError Instr :=
  match major w with
  | 0x01 =>
    if fld w 0 16 == 0x0 then .ok (.gload (fld w 21 4) (fld w 16 5)) else .error .reserved
  | 0x02 =>
    if fld w 0 21 == 0x0 then .ok (.gfree (fld w 21 4)) else .error .reserved
  | 0x03 =>
    if fld w 0 17 == 0x0 then .ok (.gseed (fld w 22 3) (fld w 17 5)) else .error .reserved
  | 0x04 =>
    if fld w 0 1 == 0x0 then .ok (.geval (fld w 19 6) (fld w 15 4) (fld w 12 3) (fld w 7 5) (fld w 2 5) (fld w 1 1)) else .error .reserved
  | 0x05 =>
    if fld w 0 9 == 0x0 then .ok (.gstat (fld w 20 5) (fld w 16 4) (fld w 13 3) (fld w 9 4)) else .error .reserved
  | _ => .error .unassigned

/-- The operation a me word holds by its opcode and fixed bits (R172, R173, R196, R197). -/
def rawDecodeMe (w : Word) : Except DecodeError Instr :=
  match major w with
  | 0x01 => .ok (.lds (fld w 20 5) (fld w 15 5) (fld w 0 15))
  | 0x02 => .ok (.sts (fld w 20 5) (fld w 15 5) (fld w 0 15))
  | 0x03 => .ok (.ldsW (fld w 20 5) (fld w 15 5) (fld w 0 15))
  | 0x04 => .ok (.ldsWu (fld w 20 5) (fld w 15 5) (fld w 0 15))
  | 0x05 => .ok (.ldsH (fld w 20 5) (fld w 15 5) (fld w 0 15))
  | 0x06 => .ok (.ldsHu (fld w 20 5) (fld w 15 5) (fld w 0 15))
  | 0x07 => .ok (.ldsB (fld w 20 5) (fld w 15 5) (fld w 0 15))
  | 0x08 => .ok (.ldsBu (fld w 20 5) (fld w 15 5) (fld w 0 15))
  | 0x09 => .ok (.stsW (fld w 20 5) (fld w 15 5) (fld w 0 15))
  | 0x0A => .ok (.stsH (fld w 20 5) (fld w 15 5) (fld w 0 15))
  | 0x0B => .ok (.stsB (fld w 20 5) (fld w 15 5) (fld w 0 15))
  | 0x10 =>
    if fld w 0 3 == 0x0 then .ok (.ldv (fld w 19 6) (fld w 14 5) (fld w 9 5) (fld w 5 4) (fld w 3 2)) else .error .reserved
  | 0x11 =>
    if fld w 0 3 == 0x0 then .ok (.ldvc (fld w 19 6) (fld w 14 5) (fld w 9 5) (fld w 5 4) (fld w 3 2)) else .error .reserved
  | 0x12 =>
    if fld w 9 5 == 0x0 && fld w 0 1 == 0x0 then .ok (.stv (fld w 19 6) (fld w 14 5) (fld w 5 4) (fld w 3 2) (fld w 1 2)) else .error .reserved
  | 0x13 =>
    if fld w 1 8 == 0x0 then .ok (.ldr (fld w 19 6) (fld w 14 5) (fld w 9 5) (fld w 0 1)) else .error .reserved
  | 0x14 =>
    if fld w 3 6 == 0x0 then .ok (.str (fld w 19 6) (fld w 14 5) (fld w 9 5) (fld w 1 2) (fld w 0 1)) else .error .reserved
  | 0x15 =>
    if fld w 0 1 == 0x0 then .ok (.ldvr (fld w 19 6) (fld w 14 5) (fld w 9 5) (fld w 6 3) (fld w 5 1) (fld w 4 1) (fld w 2 2) (fld w 1 1)) else .error .reserved
  | 0x16 => .ok (.stvr (fld w 19 6) (fld w 14 5) (fld w 9 5) (fld w 6 3) (fld w 5 1) (fld w 4 1) (fld w 2 2) (fld w 0 2))
  | 0x18 =>
    if fld w 20 2 == 0x0 && fld w 0 10 == 0x0 then .ok (.shld (fld w 22 3) (fld w 15 5) (fld w 10 5)) else .error .reserved
  | 0x19 =>
    if fld w 15 7 == 0x0 && fld w 0 10 == 0x0 then .ok (.shwin (fld w 22 3) (fld w 10 5)) else .error .reserved
  | 0x1A =>
    if fld w 0 20 == 0x0 then .ok (.shchk (fld w 22 3) (fld w 20 2)) else .error .reserved
  | 0x1B =>
    if fld w 0 8 == 0x0 then .ok (.shq (fld w 20 5) (fld w 17 3) (fld w 12 5) (fld w 8 4)) else .error .reserved
  | 0x20 => .ok (.waitf (fld w 20 5) (fld w 15 5) (fld w 0 15))
  | 0x21 => .ok (.setf (fld w 20 5) (fld w 15 5) (fld w 0 15))
  | 0x22 => .ok (.clrf (fld w 20 5) (fld w 15 5) (fld w 0 15))
  | 0x23 =>
    if fld w 22 3 == 0x0 then .ok (.mscl (fld w 20 2) (fld w 15 5) (fld w 0 15)) else .error .reserved
  | 0x24 =>
    if fld w 0 4 == 0x0 then .ok (.star (fld w 20 5) (fld w 15 5) (fld w 8 7) (fld w 4 4)) else .error .reserved
  | 0x28 =>
    if fld w 0 22 == 0x0 then .ok (.fence (fld w 22 3)) else .error .reserved
  | 0x29 =>
    if fld w 0 19 == 0x0 then .ok (.xfence (fld w 22 3) (fld w 19 3)) else .error .reserved
  | 0x2A =>
    if fld w 0 22 == 0x0 then .ok (.drain (fld w 22 3)) else .error .reserved
  | 0x30 =>
    if fld w 20 5 == 0x0 && fld w 4 1 == 0x1 && fld w 0 3 == 0x0 then .ok (.atomN (fld w 15 5) (fld w 10 5) (fld w 7 3) (fld w 5 2) (fld w 3 1)) else
    if fld w 4 1 == 0x0 && fld w 0 3 == 0x0 then .ok (.atom (fld w 20 5) (fld w 15 5) (fld w 10 5) (fld w 7 3) (fld w 5 2) (fld w 3 1)) else .error .reserved
  | 0x31 =>
    if fld w 0 3 == 0x0 then .ok (.acas (fld w 20 5) (fld w 15 5) (fld w 10 5) (fld w 5 5) (fld w 3 2)) else .error .reserved
  | 0x32 =>
    if fld w 0 15 == 0x0 then .ok (.rsf (fld w 20 5) (fld w 15 5)) else
    if fld w 3 11 == 0x0 && fld w 0 1 == 0x1 then .ok (.rsfV (fld w 19 6) (fld w 14 5) (fld w 1 2)) else .error .reserved
  | 0x33 =>
    if fld w 0 15 == 0x0 then .ok (.rsb (fld w 20 5) (fld w 15 5)) else
    if fld w 3 11 == 0x0 && fld w 0 1 == 0x1 then .ok (.rsbV (fld w 19 6) (fld w 14 5) (fld w 1 2)) else .error .reserved
  | 0x34 =>
    if fld w 0 4 == 0x0 then .ok (.rso (fld w 20 5) (fld w 15 5) (fld w 10 5) (fld w 4 6)) else
    if fld w 0 1 == 0x1 then .ok (.rsoV (fld w 19 6) (fld w 14 5) (fld w 9 5) (fld w 3 6) (fld w 1 2)) else .error .reserved
  | 0x35 =>
    if fld w 10 10 == 0x0 && fld w 0 4 == 0x8 then .ok (.roopenX (fld w 20 5) (fld w 4 6)) else
    if fld w 0 4 == 0x0 then .ok (.roopen (fld w 20 5) (fld w 15 5) (fld w 10 5) (fld w 4 6)) else .error .reserved
  | 0x36 =>
    if fld w 0 15 == 0x0 then .ok (.binit (fld w 20 5) (fld w 15 5)) else
    if fld w 0 10 == 0x1 then .ok (.binitV (fld w 20 5) (fld w 15 5) (fld w 10 5)) else .error .reserved
  | 0x37 =>
    if fld w 0 15 == 0x0 then .ok (.bfin (fld w 20 5) (fld w 15 5)) else
    if fld w 20 5 == 0x0 && fld w 0 4 == 0x1 then .ok (.bfinV (fld w 15 5) (fld w 10 5) (fld w 4 6)) else .error .reserved
  | 0x38 =>
    if fld w 20 5 == 0x0 && fld w 0 15 == 0x0 then .ok (.bnorm (fld w 15 5)) else
    if fld w 20 5 == 0x0 && fld w 0 10 == 0x1 then .ok (.bnormV (fld w 15 5) (fld w 10 5)) else .error .reserved
  | 0x39 =>
    if fld w 20 5 == 0x0 && fld w 0 5 == 0x0 then .ok (.dqpush (fld w 15 5) (fld w 10 5) (fld w 5 5)) else .error .reserved
  | 0x3A =>
    if fld w 10 5 == 0x0 && fld w 0 5 == 0x0 then .ok (.dqpop (fld w 20 5) (fld w 15 5) (fld w 5 5)) else .error .reserved
  | 0x3B =>
    if fld w 10 5 == 0x0 && fld w 0 5 == 0x0 then .ok (.dqsteal (fld w 20 5) (fld w 15 5) (fld w 5 5)) else .error .reserved
  | 0x3C =>
    if fld w 0 15 == 0x0 then .ok (.bara (fld w 20 5) (fld w 15 5)) else .error .reserved
  | 0x3D =>
    if fld w 20 5 == 0x0 && fld w 0 10 == 0x0 then .ok (.barw (fld w 15 5) (fld w 10 5)) else .error .reserved
  | 0x3E =>
    if fld w 0 15 == 0x0 then .ok (.tgrow (fld w 20 5) (fld w 15 5)) else .error .reserved
  | 0x3F =>
    if fld w 0 15 == 0x0 then .ok (.sdclaim (fld w 20 5) (fld w 15 5)) else .error .reserved
  | 0x40 =>
    if fld w 0 15 == 0x0 then .ok (.sdfree (fld w 20 5) (fld w 15 5)) else .error .reserved
  | 0x41 => .ok (.waitm (fld w 20 5) (fld w 15 5) (fld w 12 3) (fld w 0 12))
  | 0x60 =>
    if fld w 0 15 == 0x0 then .ok (.evpop (fld w 20 5) (fld w 15 5)) else
    if fld w 0 15 == 0x1 then .ok (.evpopNb (fld w 20 5) (fld w 15 5)) else .error .reserved
  | 0x61 =>
    if fld w 20 5 == 0x0 && fld w 0 15 == 0x0 then .ok (.launch (fld w 15 5)) else .error .reserved
  | 0x62 =>
    if fld w 11 14 == 0x0 then .ok (.notify (fld w 0 11)) else .error .reserved
  | _ => .error .unassigned

/-- The operation a tx word holds by its opcode and fixed bits (R311, R312, R332, R333). -/
def rawDecodeTx (w : Word) : Except DecodeError Instr :=
  match major w with
  | 0x01 =>
    if fld w 6 4 == 0x0 && fld w 1 4 == 0x2 then .ok (.cpyZ (fld w 20 5) (fld w 15 5) (fld w 10 5) (fld w 5 1) (fld w 0 1)) else
    if fld w 1 4 == 0x0 then .ok (.cpy (fld w 20 5) (fld w 15 5) (fld w 10 5) (fld w 7 3) (fld w 6 1) (fld w 5 1) (fld w 0 1)) else .error .reserved
  | 0x02 =>
    if fld w 1 2 == 0x0 then .ok (.cpyr (fld w 20 5) (fld w 15 5) (fld w 10 5) (fld w 7 3) (fld w 6 1) (fld w 5 1) (fld w 4 1) (fld w 3 1) (fld w 0 1)) else .error .reserved
  | 0x03 =>
    if fld w 5 5 == 0x0 then .ok (.xpose (fld w 20 5) (fld w 15 5) (fld w 10 5) (fld w 1 4) (fld w 0 1)) else .error .reserved
  | 0x04 => .ok (.xcvt (fld w 20 5) (fld w 15 5) (fld w 10 5) (fld w 5 5) (fld w 1 4) (fld w 0 1))
  | 0x05 =>
    if fld w 1 9 == 0x0 then .ok (.xexp (fld w 20 5) (fld w 15 5) (fld w 10 5) (fld w 0 1)) else .error .reserved
  | 0x06 =>
    if fld w 1 14 == 0x0 then .ok (.imload (fld w 20 5) (fld w 15 5) (fld w 0 1)) else .error .reserved
  | 0x07 =>
    if fld w 0 15 == 0x0 then .ok (.cwaitt (fld w 20 5) (fld w 15 5)) else .error .reserved
  | 0x08 =>
    if fld w 0 15 == 0x0 then .ok (.cpoll (fld w 20 5) (fld w 15 5)) else .error .reserved
  | 0x20 =>
    if fld w 0 9 == 0x0 then .ok (.chdef (fld w 19 6) (fld w 14 5) (fld w 9 5)) else .error .reserved
  | 0x21 =>
    if fld w 1 3 == 0x0 then .ok (.csend (fld w 19 6) (fld w 14 5) (fld w 9 5) (fld w 4 5) (fld w 0 1)) else .error .reserved
  | 0x22 =>
    if fld w 1 3 == 0x0 then .ok (.crecv (fld w 19 6) (fld w 14 5) (fld w 9 5) (fld w 4 5) (fld w 0 1)) else .error .reserved
  | 0x23 =>
    if fld w 1 8 == 0x0 then .ok (.ca2ac (fld w 19 6) (fld w 14 5) (fld w 9 5) (fld w 0 1)) else .error .reserved
  | 0x24 =>
    if fld w 1 8 == 0x0 then .ok (.ca2ap (fld w 19 6) (fld w 14 5) (fld w 9 5) (fld w 0 1)) else .error .reserved
  | 0x25 =>
    if fld w 1 5 == 0x0 then .ok (.cswr (fld w 19 6) (fld w 14 5) (fld w 9 5) (fld w 6 3) (fld w 0 1)) else .error .reserved
  | 0x26 =>
    if fld w 1 8 == 0x0 then .ok (.cdig (fld w 19 6) (fld w 14 5) (fld w 9 5) (fld w 0 1)) else .error .reserved
  | 0x27 =>
    if fld w 1 3 == 0x0 then .ok (.cnrm (fld w 19 6) (fld w 14 5) (fld w 9 5) (fld w 4 5) (fld w 0 1)) else .error .reserved
  | 0x28 =>
    if fld w 0 25 == 0x40000 then .ok .cpauseAll else
    if fld w 0 19 == 0x0 then .ok (.cpause (fld w 19 6)) else .error .reserved
  | 0x29 =>
    if fld w 0 25 == 0x40000 then .ok .cresAll else
    if fld w 0 19 == 0x0 then .ok (.cres (fld w 19 6)) else .error .reserved
  | 0x2A =>
    if fld w 1 8 == 0x0 then .ok (.gagree (fld w 19 6) (fld w 14 5) (fld w 9 5) (fld w 0 1)) else .error .reserved
  | _ => .error .unassigned

/-- Decode's checks on one operation, the lowest subcode first (R58). -/
def checked (i : Instr) : Except DecodeError Instr :=
  if !i.resOk then .error .reserved
  else if !i.widthOk then .error .width
  else if !i.valOk then .error .value
  else .ok i

/-- The raw decoder of a slot (R59). -/
def rawDecode : SlotKind → Word → Except DecodeError Instr
  | .sq => rawDecodeSq
  | .v => rawDecodeV
  | .mx => rawDecodeMx
  | .gn => rawDecodeGn
  | .me => rawDecodeMe
  | .tx => rawDecodeTx

/-- The operation in a slot's word: `none` is the slot's NOP, the all-zero word (R40). Major opcode 0 with
any other bit set is ILLEGAL_ENCODING 0x02 (R58). -/
def decodeSlot (k : SlotKind) (w : Word) : Except DecodeError (Option Instr) :=
  if w == 0 then .ok none
  else if major w == 0 then .error .reserved
  else match rawDecode k w with
    | .error e => .error e
    | .ok i => match checked i with
      | .error e => .error e
      | .ok i => .ok (some i)

/-- The kind of slot an operation stands in; `none` for a step without an encoding. -/
def Instr.slotKind : Instr → Option SlotKind
  | .br .. | .brg .. | .brz .. | .brnz .. | .call .. | .ret .. | .jmpr .. | .loopImm .. | .loopReg ..
  | .looprImm .. | .looprReg .. | .lbrk .. | .retire .. | .fencei .. | .brswap .. | .waitt .. | .frame ..
  | .frameX .. | .rfmode .. | .setrm .. | .setefr .. | .getsp .. | .setsp .. | .trap .. | .sysret ..
  | .sysretS .. | .add .. | .addi .. | .sub .. | .mul .. | .mulh .. | .div .. | .and .. | .or .. | .xor ..
  | .shlReg .. | .shlImm .. | .shrReg .. | .shrImm .. | .sarReg .. | .sarImm .. | .rotlReg ..
  | .rotlImm .. | .min .. | .max .. | .cmp .. | .cmpi .. | .sel .. | .clz .. | .popc .. | .bfx ..
  | .bfi .. | .movgToScalar .. | .movgToGuard .. | .li .. | .lih .. | .fadd .. | .fsub .. | .fmul ..
  | .ffma .. | .fmin .. | .fmax .. | .fcmp .. | .fcvt .. | .frcp .. | .frsq .. | .fexp2 .. | .flog2 .. => some .sq
  | .vadd .. | .vsub .. | .vmul .. | .vmin .. | .vmax .. | .vfma .. | .vabs .. | .vcvt .. | .vexp2 ..
  | .vlog2 .. | .vrcp .. | .vrsq .. | .fp32MaskedForms .. | .fp32ScalarForms .. | .viadd .. | .visub ..
  | .vimul .. | .vand .. | .vor .. | .vxor .. | .vshl .. | .vshr .. | .vshrA .. | .vimin .. | .vimax ..
  | .viminU .. | .vimaxU .. | .int32MaskedForms .. | .int32ScalarForms .. | .vcmp .. | .vcmpScalar ..
  | .vsel .. | .mand .. | .mor .. | .mxor .. | .mnot .. | .mcnt .. | .vcoal .. | .vlen .. | .vsplat ..
  | .viota .. | .viotaSeg .. | .vslice .. | .vcat .. | .vpick .. | .vsegset .. | .vsegclr .. | .vspread ..
  | .vrsum .. | .vrsumSeg .. | .vrssq .. | .vrssqSeg .. | .vrmax .. | .vrmaxSeg .. | .vrmin ..
  | .vrminSeg .. | .vscan .. | .vmaxk .. | .vmaxkSeg .. | .vexpk .. | .vsck .. | .vsckSeg .. => some .v
  | .mzero .. | .mldb .. | .mgenbPure .. | .mgenbAdd .. | .mswap .. | .mma .. | .mmat .. | .mmag ..
  | .mcop .. | .mcopMad .. | .mdrv .. | .mdrs .. | .madp .. | .madt .. | .mbase .. | .mmaRag ..
  | .mdrvRag .. => some .mx
  | .gload .. | .gfree .. | .gseed .. | .geval .. | .gstat .. => some .gn
  | .lds .. | .sts .. | .ldsW .. | .ldsWu .. | .ldsH .. | .ldsHu .. | .ldsB .. | .ldsBu .. | .stsW ..
  | .stsH .. | .stsB .. | .ldv .. | .ldvc .. | .stv .. | .ldr .. | .str .. | .ldvr .. | .stvr ..
  | .shld .. | .shwin .. | .shchk .. | .shq .. | .waitf .. | .setf .. | .clrf .. | .mscl .. | .star ..
  | .fence .. | .xfence .. | .drain .. | .atom .. | .atomN .. | .acas .. | .rsf .. | .rsfV .. | .rsb ..
  | .rsbV .. | .rso .. | .rsoV .. | .roopen .. | .roopenX .. | .binit .. | .binitV .. | .bfin ..
  | .bfinV .. | .bnorm .. | .bnormV .. | .dqpush .. | .dqpop .. | .dqsteal .. | .bara .. | .barw ..
  | .tgrow .. | .sdclaim .. | .sdfree .. | .waitm .. | .evpop .. | .evpopNb .. | .launch .. | .notify .. => some .me
  | .cpy .. | .cpyZ .. | .cpyr .. | .xpose .. | .xcvt .. | .xexp .. | .imload .. | .cwaitt .. | .cpoll ..
  | .chdef .. | .csend .. | .crecv .. | .ca2ac .. | .ca2ap .. | .cswr .. | .cdig .. | .cnrm ..
  | .cpause .. | .cpauseAll .. | .cres .. | .cresAll .. | .gagree .. => some .tx
  | _ => none

/-- The word of an operation, from the encoding tables; 0 for a step without an encoding. -/
def encode : Instr → Word
  | .br o => 0x1#7 ++ 0x0#9 ++ o
  | .brg g t o => 0x2#7 ++ 0x0#5 ++ g ++ t ++ 0x0#1 ++ o
  | .brz a o => 0x3#7 ++ a ++ 0x0#4 ++ o
  | .brnz a o => 0x4#7 ++ a ++ 0x0#4 ++ o
  | .call o => 0x5#7 ++ 0x0#9 ++ o
  | .ret => 0x6#7 ++ 0x0#25
  | .jmpr a => 0x7#7 ++ a ++ 0x0#20
  | .loopImm c e => 0x8#7 ++ 0x1#1 ++ c ++ e
  | .loopReg a e => 0x8#7 ++ 0x0#8 ++ a ++ e
  | .looprImm c e => 0x9#7 ++ 0x1#1 ++ c ++ e
  | .looprReg a e => 0x9#7 ++ 0x0#8 ++ a ++ e
  | .lbrk => 0xA#7 ++ 0x0#25
  | .retire => 0xB#7 ++ 0x0#25
  | .fencei h => 0xC#7 ++ 0x0#24 ++ h
  | .brswap b => 0xD#7 ++ 0x0#13 ++ b
  | .waitt a => 0xE#7 ++ a ++ 0x0#20
  | .frame => 0xF#7 ++ 0x0#25
  | .frameX => 0xF#7 ++ 0x1#25
  | .rfmode m => 0x10#7 ++ 0x0#17 ++ m
  | .setrm m => 0x11#7 ++ 0x0#22 ++ m
  | .setefr t v => 0x12#7 ++ t ++ 0x0#7 ++ v
  | .getsp d p => 0x13#7 ++ d ++ 0x0#8 ++ p
  | .setsp a p => 0x14#7 ++ 0x0#5 ++ a ++ 0x0#3 ++ p
  | .trap n => 0x1C#7 ++ 0x0#17 ++ n
  | .sysret => 0x1D#7 ++ 0x0#25
  | .sysretS => 0x1D#7 ++ 0x1#25
  | .add d a b => 0x20#7 ++ d ++ a ++ b ++ 0x0#10
  | .addi d a i => 0x21#7 ++ d ++ a ++ i
  | .sub d a b => 0x22#7 ++ d ++ a ++ b ++ 0x0#10
  | .mul d a b => 0x23#7 ++ d ++ a ++ b ++ 0x0#10
  | .mulh d a b u => 0x24#7 ++ d ++ a ++ b ++ 0x0#1 ++ u ++ 0x0#8
  | .div d a b u => 0x25#7 ++ d ++ a ++ b ++ 0x0#1 ++ u ++ 0x0#8
  | .and d a b => 0x26#7 ++ d ++ a ++ b ++ 0x0#10
  | .or d a b => 0x27#7 ++ d ++ a ++ b ++ 0x0#10
  | .xor d a b => 0x28#7 ++ d ++ a ++ b ++ 0x0#10
  | .shlReg d a b => 0x29#7 ++ d ++ a ++ b ++ 0x0#10
  | .shlImm d a i => 0x29#7 ++ d ++ a ++ 0x8#9 ++ i
  | .shrReg d a b => 0x2A#7 ++ d ++ a ++ b ++ 0x0#10
  | .shrImm d a i => 0x2A#7 ++ d ++ a ++ 0x8#9 ++ i
  | .sarReg d a b => 0x2B#7 ++ d ++ a ++ b ++ 0x0#10
  | .sarImm d a i => 0x2B#7 ++ d ++ a ++ 0x8#9 ++ i
  | .rotlReg d a b => 0x2C#7 ++ d ++ a ++ b ++ 0x0#10
  | .rotlImm d a i => 0x2C#7 ++ d ++ a ++ 0x8#9 ++ i
  | .min d a b u => 0x2D#7 ++ d ++ a ++ b ++ 0x0#1 ++ u ++ 0x0#8
  | .max d a b u => 0x2E#7 ++ d ++ a ++ b ++ 0x0#1 ++ u ++ 0x0#8
  | .cmp c g a b => 0x2F#7 ++ c ++ g ++ a ++ b ++ 0x0#10
  | .cmpi c g a i => 0x30#7 ++ c ++ g ++ a ++ i
  | .sel d a b g => 0x31#7 ++ d ++ a ++ b ++ 0x0#8 ++ g
  | .clz d a => 0x32#7 ++ d ++ a ++ 0x0#15
  | .popc d a => 0x33#7 ++ d ++ a ++ 0x0#15
  | .bfx d a x p w => 0x34#7 ++ d ++ a ++ 0x0#2 ++ x ++ p ++ w
  | .bfi d a p w => 0x35#7 ++ d ++ a ++ 0x0#3 ++ p ++ w
  | .movgToScalar d g => 0x36#7 ++ d ++ 0x0#6 ++ g ++ 0x0#12
  | .movgToGuard a g => 0x36#7 ++ 0x0#5 ++ a ++ 0x1#1 ++ g ++ 0x0#12
  | .li d i => 0x37#7 ++ d ++ i
  | .lih d p i => 0x38#7 ++ d ++ p ++ 0x0#2 ++ i
  | .fadd d a b => 0x40#7 ++ d ++ a ++ b ++ 0x0#10
  | .fsub d a b => 0x41#7 ++ d ++ a ++ b ++ 0x0#10
  | .fmul d a b => 0x42#7 ++ d ++ a ++ b ++ 0x0#10
  | .ffma d a b c => 0x43#7 ++ d ++ a ++ b ++ c ++ 0x0#5
  | .fmin d a b => 0x44#7 ++ d ++ a ++ b ++ 0x0#10
  | .fmax d a b => 0x45#7 ++ d ++ a ++ b ++ 0x0#10
  | .fcmp c g a b => 0x46#7 ++ c ++ g ++ a ++ b ++ 0x0#10
  | .fcvt d a v => 0x47#7 ++ d ++ a ++ v ++ 0x0#10
  | .frcp d a => 0x48#7 ++ d ++ a ++ 0x0#15
  | .frsq d a => 0x49#7 ++ d ++ a ++ 0x0#15
  | .fexp2 d a => 0x4A#7 ++ d ++ a ++ 0x0#15
  | .flog2 d a => 0x4B#7 ++ d ++ a ++ 0x0#15
  | .vadd w d a p b q => 0x1#7 ++ w ++ d ++ a ++ p ++ b ++ q ++ 0x0#1
  | .vsub w d a p b q => 0x2#7 ++ w ++ d ++ a ++ p ++ b ++ q ++ 0x0#1
  | .vmul w d a p b q => 0x3#7 ++ w ++ d ++ a ++ p ++ b ++ q ++ 0x0#1
  | .vmin w d a p b q => 0x4#7 ++ w ++ d ++ a ++ p ++ b ++ q ++ 0x0#1
  | .vmax w d a p b q => 0x5#7 ++ w ++ d ++ a ++ p ++ b ++ q ++ 0x0#1
  | .vfma w d a p b q c => 0x6#7 ++ w ++ d ++ a ++ p ++ b ++ q ++ c
  | .vabs w d a p m k => 0x7#7 ++ w ++ d ++ a ++ p ++ 0x0#4 ++ m ++ k ++ 0x0#1
  | .vcvt w d a p v m k => 0x8#7 ++ w ++ d ++ a ++ p ++ v ++ m ++ k ++ 0x0#1
  | .vexp2 w d a p m k => 0x9#7 ++ w ++ d ++ a ++ p ++ 0x0#4 ++ m ++ k ++ 0x0#1
  | .vlog2 w d a p m k => 0xA#7 ++ w ++ d ++ a ++ p ++ 0x0#4 ++ m ++ k ++ 0x0#1
  | .vrcp w d a p m k => 0xB#7 ++ w ++ d ++ a ++ p ++ 0x0#4 ++ m ++ k ++ 0x0#1
  | .vrsq w d a p m k => 0xC#7 ++ w ++ d ++ a ++ p ++ 0x0#4 ++ m ++ k ++ 0x0#1
  | .fp32MaskedForms w d p b q k f => 0xD#7 ++ w ++ d ++ p ++ b ++ q ++ k ++ f
  | .fp32ScalarForms w d a p s f => 0xE#7 ++ w ++ d ++ a ++ p ++ s ++ f
  | .viadd w d a p b q => 0x10#7 ++ w ++ d ++ a ++ p ++ b ++ q ++ 0x0#1
  | .visub w d a p b q => 0x11#7 ++ w ++ d ++ a ++ p ++ b ++ q ++ 0x0#1
  | .vimul w d a p b q => 0x12#7 ++ w ++ d ++ a ++ p ++ b ++ q ++ 0x0#1
  | .vand w d a p b q => 0x13#7 ++ w ++ d ++ a ++ p ++ b ++ q ++ 0x0#1
  | .vor w d a p b q => 0x14#7 ++ w ++ d ++ a ++ p ++ b ++ q ++ 0x0#1
  | .vxor w d a p b q => 0x15#7 ++ w ++ d ++ a ++ p ++ b ++ q ++ 0x0#1
  | .vshl w d a p b q => 0x16#7 ++ w ++ d ++ a ++ p ++ b ++ q ++ 0x0#1
  | .vshr w d a p b q => 0x17#7 ++ w ++ d ++ a ++ p ++ b ++ q ++ 0x0#1
  | .vshrA w d a p b q => 0x18#7 ++ w ++ d ++ a ++ p ++ b ++ q ++ 0x0#1
  | .vimin w d a p b q => 0x19#7 ++ w ++ d ++ a ++ p ++ b ++ q ++ 0x0#1
  | .vimax w d a p b q => 0x1A#7 ++ w ++ d ++ a ++ p ++ b ++ q ++ 0x0#1
  | .viminU w d a p b q => 0x1B#7 ++ w ++ d ++ a ++ p ++ b ++ q ++ 0x0#1
  | .vimaxU w d a p b q => 0x1C#7 ++ w ++ d ++ a ++ p ++ b ++ q ++ 0x0#1
  | .int32MaskedForms w d p b q k f => 0x1D#7 ++ w ++ d ++ p ++ b ++ q ++ k ++ f
  | .int32ScalarForms w d a p s f => 0x1E#7 ++ w ++ d ++ a ++ p ++ s ++ f
  | .vcmp w m a p b q i c => 0x20#7 ++ w ++ m ++ a ++ p ++ b ++ q ++ i ++ c
  | .vcmpScalar w m a p s i c => 0x21#7 ++ w ++ m ++ a ++ p ++ s ++ 0x0#3 ++ i ++ c
  | .vsel w d p b q k => 0x22#7 ++ w ++ d ++ p ++ b ++ q ++ k ++ 0x0#4
  | .mand w d a b => 0x23#7 ++ w ++ d ++ a ++ b ++ 0x0#14
  | .mor w d a b => 0x24#7 ++ w ++ d ++ a ++ b ++ 0x0#14
  | .mxor w d a b => 0x25#7 ++ w ++ d ++ a ++ b ++ 0x0#14
  | .mnot w d a => 0x26#7 ++ w ++ d ++ a ++ 0x0#17
  | .mcnt w d a => 0x27#7 ++ w ++ d ++ a ++ 0x0#15
  | .vcoal w d a p z m => 0x30#7 ++ w ++ d ++ a ++ p ++ z ++ m ++ 0x0#7
  | .vlen w d a p q m => 0x31#7 ++ w ++ d ++ a ++ p ++ q ++ m ++ 0x0#7
  | .vsplat w d s n m v => 0x32#7 ++ w ++ d ++ s ++ n ++ m ++ v ++ 0x0#5
  | .viota w d s n => 0x33#7 ++ w ++ d ++ s ++ n ++ 0x0#7
  | .viotaSeg w d a p => 0x33#7 ++ w ++ d ++ a ++ p ++ 0x1#9
  | .vslice w d a p s => 0x34#7 ++ w ++ d ++ a ++ p ++ s ++ 0x0#4
  | .vcat w d a p b q => 0x35#7 ++ w ++ d ++ a ++ p ++ b ++ q ++ 0x0#1
  | .vpick w d a p b q => 0x36#7 ++ w ++ d ++ a ++ p ++ b ++ q ++ 0x0#1
  | .vsegset w d a p k => 0x37#7 ++ w ++ d ++ a ++ p ++ 0x1#5 ++ k ++ 0x0#1
  | .vsegclr w d a p m k => 0x38#7 ++ w ++ d ++ a ++ p ++ 0x0#4 ++ m ++ k ++ 0x0#1
  | .vspread w d a p b q => 0x39#7 ++ w ++ d ++ a ++ p ++ b ++ q ++ 0x0#1
  | .vrsum w d a p m k => 0x40#7 ++ w ++ d ++ 0x0#1 ++ a ++ p ++ 0x0#4 ++ m ++ k ++ 0x0#1
  | .vrsumSeg w d a p m k => 0x40#7 ++ w ++ d ++ a ++ p ++ 0x0#4 ++ m ++ k ++ 0x1#1
  | .vrssq w d a p m k => 0x41#7 ++ w ++ d ++ 0x0#1 ++ a ++ p ++ 0x0#4 ++ m ++ k ++ 0x0#1
  | .vrssqSeg w d a p m k => 0x41#7 ++ w ++ d ++ a ++ p ++ 0x0#4 ++ m ++ k ++ 0x1#1
  | .vrmax w d a p m k => 0x42#7 ++ w ++ d ++ 0x0#1 ++ a ++ p ++ 0x0#4 ++ m ++ k ++ 0x0#1
  | .vrmaxSeg w d a p m k => 0x42#7 ++ w ++ d ++ a ++ p ++ 0x0#4 ++ m ++ k ++ 0x1#1
  | .vrmin w d a p m k => 0x43#7 ++ w ++ d ++ 0x0#1 ++ a ++ p ++ 0x0#4 ++ m ++ k ++ 0x0#1
  | .vrminSeg w d a p m k => 0x43#7 ++ w ++ d ++ a ++ p ++ 0x0#4 ++ m ++ k ++ 0x1#1
  | .vscan w d a p m k x => 0x44#7 ++ w ++ d ++ a ++ p ++ 0x0#4 ++ m ++ k ++ x
  | .vmaxk w d a p m k => 0x50#7 ++ w ++ d ++ 0x0#1 ++ a ++ p ++ 0x0#4 ++ m ++ k ++ 0x0#1
  | .vmaxkSeg w d a p m k => 0x50#7 ++ w ++ d ++ a ++ p ++ 0x0#4 ++ m ++ k ++ 0x1#1
  | .vexpk w d a p b q => 0x51#7 ++ w ++ d ++ a ++ p ++ b ++ q ++ 0x0#1
  | .vsck w d a p b q => 0x52#7 ++ w ++ d ++ a ++ p ++ b ++ q ++ 0x0#1
  | .vsckSeg w d a p b q => 0x52#7 ++ w ++ d ++ a ++ p ++ b ++ q ++ 0x1#1
  | .lds d b o => 0x1#7 ++ d ++ b ++ o
  | .sts d b o => 0x2#7 ++ d ++ b ++ o
  | .ldsW d b o => 0x3#7 ++ d ++ b ++ o
  | .ldsWu d b o => 0x4#7 ++ d ++ b ++ o
  | .ldsH d b o => 0x5#7 ++ d ++ b ++ o
  | .ldsHu d b o => 0x6#7 ++ d ++ b ++ o
  | .ldsB d b o => 0x7#7 ++ d ++ b ++ o
  | .ldsBu d b o => 0x8#7 ++ d ++ b ++ o
  | .stsW d b o => 0x9#7 ++ d ++ b ++ o
  | .stsH d b o => 0xA#7 ++ d ++ b ++ o
  | .stsB d b o => 0xB#7 ++ d ++ b ++ o
  | .ldv v b n f c => 0x10#7 ++ v ++ b ++ n ++ f ++ c ++ 0x0#3
  | .ldvc v b n f c => 0x11#7 ++ v ++ b ++ n ++ f ++ c ++ 0x0#3
  | .stv v b f c p => 0x12#7 ++ v ++ b ++ 0x0#5 ++ f ++ c ++ p ++ 0x0#1
  | .ldr v b n m => 0x13#7 ++ v ++ b ++ n ++ 0x0#8 ++ m
  | .str v b n p m => 0x14#7 ++ v ++ b ++ n ++ 0x0#6 ++ p ++ m
  | .ldvr v i n h e x c k => 0x15#7 ++ v ++ i ++ n ++ h ++ e ++ x ++ c ++ k ++ 0x0#1
  | .stvr v i n h e x c p => 0x16#7 ++ v ++ i ++ n ++ h ++ e ++ x ++ c ++ p
  | .shld h b o => 0x18#7 ++ h ++ 0x0#2 ++ b ++ o ++ 0x0#10
  | .shwin h o => 0x19#7 ++ h ++ 0x0#7 ++ o ++ 0x0#10
  | .shchk h g => 0x1A#7 ++ h ++ g ++ 0x0#20
  | .shq d h i q => 0x1B#7 ++ d ++ h ++ i ++ q ++ 0x0#8
  | .waitf n b o => 0x20#7 ++ n ++ b ++ o
  | .setf n b o => 0x21#7 ++ n ++ b ++ o
  | .clrf n b o => 0x22#7 ++ n ++ b ++ o
  | .mscl m b o => 0x23#7 ++ 0x0#3 ++ m ++ b ++ o
  | .star d a n f => 0x24#7 ++ d ++ a ++ n ++ f ++ 0x0#4
  | .fence a => 0x28#7 ++ a ++ 0x0#22
  | .xfence a b => 0x29#7 ++ a ++ b ++ 0x0#19
  | .drain a => 0x2A#7 ++ a ++ 0x0#22
  | .atom d b v o t u => 0x30#7 ++ d ++ b ++ v ++ o ++ t ++ 0x0#1 ++ u ++ 0x0#3
  | .atomN b v o t u => 0x30#7 ++ 0x0#5 ++ b ++ v ++ o ++ t ++ 0x1#1 ++ u ++ 0x0#3
  | .acas d b e v t => 0x31#7 ++ d ++ b ++ e ++ v ++ t ++ 0x0#3
  | .rsf v b => 0x32#7 ++ v ++ b ++ 0x0#15
  | .rsfV v b p => 0x32#7 ++ v ++ b ++ 0x0#11 ++ p ++ 0x1#1
  | .rsb v b => 0x33#7 ++ v ++ b ++ 0x0#15
  | .rsbV v b p => 0x33#7 ++ v ++ b ++ 0x0#11 ++ p ++ 0x1#1
  | .rso v b i w => 0x34#7 ++ v ++ b ++ i ++ w ++ 0x0#4
  | .rsoV v b i w p => 0x34#7 ++ v ++ b ++ i ++ w ++ p ++ 0x1#1
  | .roopen d b c w => 0x35#7 ++ d ++ b ++ c ++ w ++ 0x0#4
  | .roopenX d w => 0x35#7 ++ d ++ 0x0#10 ++ w ++ 0x8#4
  | .binit e b => 0x36#7 ++ e ++ b ++ 0x0#15
  | .binitV e b n => 0x36#7 ++ e ++ b ++ n ++ 0x1#10
  | .bfin d b => 0x37#7 ++ d ++ b ++ 0x0#15
  | .bfinV b n v => 0x37#7 ++ 0x0#5 ++ b ++ n ++ v ++ 0x1#4
  | .bnorm b => 0x38#7 ++ 0x0#5 ++ b ++ 0x0#15
  | .bnormV b n => 0x38#7 ++ 0x0#5 ++ b ++ n ++ 0x1#10
  | .dqpush b v t => 0x39#7 ++ 0x0#5 ++ b ++ v ++ t ++ 0x0#5
  | .dqpop d b t => 0x3A#7 ++ d ++ b ++ 0x0#5 ++ t ++ 0x0#5
  | .dqsteal d b t => 0x3B#7 ++ d ++ b ++ 0x0#5 ++ t ++ 0x0#5
  | .bara d b => 0x3C#7 ++ d ++ b ++ 0x0#15
  | .barw b p => 0x3D#7 ++ 0x0#5 ++ b ++ p ++ 0x0#10
  | .tgrow d n => 0x3E#7 ++ d ++ n ++ 0x0#15
  | .sdclaim d b => 0x3F#7 ++ d ++ b ++ 0x0#15
  | .sdfree d l => 0x40#7 ++ d ++ l ++ 0x0#15
  | .waitm v b c o => 0x41#7 ++ v ++ b ++ c ++ o
  | .evpop d e => 0x60#7 ++ d ++ e ++ 0x0#15
  | .evpopNb d e => 0x60#7 ++ d ++ e ++ 0x1#15
  | .launch b => 0x61#7 ++ 0x0#5 ++ b ++ 0x0#15
  | .notify n => 0x62#7 ++ 0x0#14 ++ n
  | .mzero a => 0x1#7 ++ a ++ 0x0#22
  | .mldb g a f s x => 0x2#7 ++ g ++ a ++ f ++ s ++ x ++ 0x0#12
  | .mgenbPure n s c f => 0x3#7 ++ n ++ s ++ c ++ 0x0#11 ++ f
  | .mgenbAdd n s c b l f => 0x3#7 ++ n ++ s ++ c ++ b ++ l ++ 0x1#1 ++ f
  | .mswap => 0x4#7 ++ 0x0#25
  | .mma a g s m f c x => 0x5#7 ++ a ++ g ++ s ++ m ++ f ++ c ++ x ++ 0x0#2
  | .mmat a g s p f c x => 0x6#7 ++ a ++ g ++ s ++ p ++ f ++ c ++ x ++ 0x0#4
  | .mmag a n e c m f => 0x7#7 ++ a ++ n ++ e ++ c ++ m ++ f
  | .mcop s => 0x8#7 ++ s ++ 0x0#20
  | .mcopMad => 0x8#7 ++ 0x1#25
  | .mdrv v a r f c => 0x9#7 ++ v ++ a ++ r ++ f ++ c ++ 0x0#7
  | .mdrs a g s r f => 0xA#7 ++ a ++ g ++ s ++ r ++ f ++ 0x0#7
  | .madp a g s v p m => 0xB#7 ++ a ++ g ++ s ++ v ++ p ++ m
  | .madt d i a b => 0xC#7 ++ d ++ i ++ a ++ b ++ 0x0#5
  | .mbase a => 0xD#7 ++ a ++ 0x0#20
  | .mmaRag a g s x h f c k => 0xE#7 ++ a ++ g ++ s ++ x ++ h ++ f ++ c ++ k ++ 0x0#1
  | .mdrvRag v a r x h f => 0xF#7 ++ v ++ a ++ r ++ x ++ h ++ f
  | .gload n a => 0x1#7 ++ n ++ a ++ 0x0#16
  | .gfree n => 0x2#7 ++ n ++ 0x0#21
  | .gseed s a => 0x3#7 ++ s ++ a ++ 0x0#17
  | .geval v n s c l a => 0x4#7 ++ v ++ n ++ s ++ c ++ l ++ a ++ 0x0#1
  | .gstat d n s q => 0x5#7 ++ d ++ n ++ s ++ q ++ 0x0#9
  | .cpy t a b h s f q => 0x1#7 ++ t ++ a ++ b ++ h ++ s ++ f ++ 0x0#4 ++ q
  | .cpyZ t a b f q => 0x1#7 ++ t ++ a ++ b ++ 0x0#4 ++ f ++ 0x2#4 ++ q
  | .cpyr t a b h s f e x q => 0x2#7 ++ t ++ a ++ b ++ h ++ s ++ f ++ e ++ x ++ 0x0#2 ++ q
  | .xpose t d s k q => 0x3#7 ++ t ++ d ++ s ++ 0x0#5 ++ k ++ q
  | .xcvt t d s n k q => 0x4#7 ++ t ++ d ++ s ++ n ++ k ++ q
  | .xexp t d s q => 0x5#7 ++ t ++ d ++ s ++ 0x0#9 ++ q
  | .imload t a q => 0x6#7 ++ t ++ a ++ 0x0#14 ++ q
  | .cwaitt d t => 0x7#7 ++ d ++ t ++ 0x0#15
  | .cpoll d t => 0x8#7 ++ d ++ t ++ 0x0#15
  | .chdef c b d => 0x20#7 ++ c ++ b ++ d ++ 0x0#9
  | .csend c a n d q => 0x21#7 ++ c ++ a ++ n ++ d ++ 0x0#3 ++ q
  | .crecv c a n d q => 0x22#7 ++ c ++ a ++ n ++ d ++ 0x0#3 ++ q
  | .ca2ac c a d q => 0x23#7 ++ c ++ a ++ d ++ 0x0#8 ++ q
  | .ca2ap c a d q => 0x24#7 ++ c ++ a ++ d ++ 0x0#8 ++ q
  | .cswr c v d o q => 0x25#7 ++ c ++ v ++ d ++ o ++ 0x0#5 ++ q
  | .cdig c a n q => 0x26#7 ++ c ++ a ++ n ++ 0x0#8 ++ q
  | .cnrm c a n d q => 0x27#7 ++ c ++ a ++ n ++ d ++ 0x0#3 ++ q
  | .cpause c => 0x28#7 ++ c ++ 0x0#19
  | .cpauseAll => 0x28#7 ++ 0x40000#25
  | .cres c => 0x29#7 ++ c ++ 0x0#19
  | .cresAll => 0x29#7 ++ 0x40000#25
  | .gagree c v d q => 0x2A#7 ++ c ++ v ++ d ++ 0x0#8 ++ q
  | _ => 0

/-- Slots in the order in which a word of the opcode table, which names no slot, is tried. -/
def tableSlots : List SlotKind := [.mx, .gn, .tx, .me, .sq, .v]

/-- The instruction read from a table word: the first slot of `tableSlots` whose decoder accepts it. -/
def decodeTableWord (nbits w : Nat) : Option Instr :=
  if nbits == 32 then
    tableSlots.findSome? fun k =>
      match decodeSlot k (BitVec.ofNat 32 w) with
      | .ok (some i) => some i
      | _ => none
  else none

end Sys2Proof
end

