-- ==== Sys2Proof/Config.lean ====
section
/-!
DEFINITION. What the spec leaves open and the model keeps free: constants without a body, so that no proof
can see their values (assumption log entries 1 to 3, 9 to 12 and 111).
-/

namespace Sys2Proof.Config

/-- The free value number `n` of 64 bits: whatever an undefined field reads as (log entry 3). -/
opaque freeValue : Nat → BitVec 64

/-- Whether the boot ROM finds the firmware's signature good at the `n`-th reset (R365, log entry 1). -/
opaque bootGood : Nat → Bool

/-- Byte `i` of the SHA3-512 digest of the measurement log (R365, R366): the measured firmware is outside the spec. -/
opaque measurement : Nat → BitVec 8

/-- Byte `i` of the ML-DSA-87 identity public key (R366). -/
opaque identityKey : Nat → BitVec 8

/-- Byte `i` of the ML-DSA-87 signature over a report with a given nonce and life-cycle state (R366). -/
opaque attestSignature : List (BitVec 8) → BitVec 2 → Nat → BitVec 8

/-- Which dies' time counters stand one nanosecond ahead: two reads differ by at most 1 (R18). -/
opaque dieAhead : Nat → Bool

/-- Whether the host port trained as CXL rather than PCI Express at the `n`-th reset (R357). -/
opaque trainedCxl : Nat → Bool

/-- Yenath link time in nanoseconds that a packet of `n` payload bytes takes (R367; R16 gives rates only). -/
opaque linkTime : Nat → Nat

/-- While a TLB invalidation runs, whether an access uses the old mapping of a page (R108): by the model's counter of
entries, the cycle, the die and the page (log entry 111). -/
opaque oldMapping : Nat → Nat → Nat → Nat → Bool

/-- For a fetch from a half whose coherent bit is clear, whether the old bundle is returned (R154). -/
opaque staleFetch : Nat → Bool

end Sys2Proof.Config
end

