-- ==== Sys2Proof/Machine/Num.lean ====
section
/-!
DEFINITION. Numbers: the floating-point formats and their rounding (R70 to R78), exact sums, the FP32 functions,
narrow integers and MX blocks (R79 to R83), the binned accumulator's value (R91). All of it is exact arithmetic on
naturals and integers; a real that is not a dyadic is held between two neighbours by an odd last bit.
-/

namespace Sys2Proof.Machine

/-! ## Values -/

/-- A floating value: NaN (sign, signalling, the payload as the 22 bits below FP32's quiet bit), infinity, or the
finite number (-1)^neg m 2^e. -/
inductive FV where
  | nan (neg snan : Bool) (pay : Nat)
  | inf (neg : Bool)
  | num (neg : Bool) (m : Nat) (e : Int)
deriving DecidableEq, Repr

/-- A format of R70: exponent and fraction widths, bias, and whether it is E4M3. -/
structure Fmt where
  ew : Nat
  fw : Nat
  bias : Nat
  sat : Bool
deriving DecidableEq, Repr

/-- FP32 (R70). -/
def fp32 : Fmt := ⟨8, 23, 127, false⟩

/-- BF16 (R70). -/
def bf16 : Fmt := ⟨8, 7, 127, false⟩

/-- FP16 (R70). -/
def fp16 : Fmt := ⟨5, 10, 15, false⟩

/-- E4M3 (R70). -/
def e4m3 : Fmt := ⟨4, 3, 7, true⟩

/-- E5M2 (R70). -/
def e5m2 : Fmt := ⟨5, 2, 15, false⟩

/-- Exception flags in the order of FFLAGS (R78). -/
abbrev Flags := BitVec 5

/-- NV (R78). -/
def fNV : Flags := 16

/-- DZ (R78). -/
def fDZ : Flags := 8

/-- OF (R78). -/
def fOF : Flags := 4

/-- UF (R78). -/
def fUF : Flags := 2

/-- NX (R78). -/
def fNX : Flags := 1

/-- The value of an encoding (R70). -/
def decodeF (f : Fmt) (bits : Nat) : FV :=
  let neg := bits / 2 ^ (f.ew + f.fw) % 2 == 1
  let e := bits / 2 ^ f.fw % 2 ^ f.ew
  let m := bits % 2 ^ f.fw
  let top := 2 ^ f.ew - 1
  if f.sat then
    if e == top && m == 7 then .nan neg false 0
    else if e == 0 then .num neg m (1 - (f.bias : Int) - f.fw)
    else .num neg (m + 2 ^ f.fw) ((e : Int) - f.bias - f.fw)
  else if e == top then
    if m == 0 then .inf neg
    else .nan neg (m / 2 ^ (f.fw - 1) % 2 == 0) (m % 2 ^ (f.fw - 1) * 2 ^ (23 - f.fw))
  else if e == 0 then .num neg m (1 - (f.bias : Int) - f.fw)
  else .num neg (m + 2 ^ f.fw) ((e : Int) - f.bias - f.fw)

/-- The sign bit of a format, in place. -/
def signBit (f : Fmt) (neg : Bool) : Nat := if neg then 2 ^ (f.ew + f.fw) else 0

/-- Infinity of a format. -/
def infBits (f : Fmt) (neg : Bool) : Nat := signBit f neg + (2 ^ f.ew - 1) * 2 ^ f.fw

/-- The largest finite magnitude of a format (R70). -/
def maxBits (f : Fmt) : Nat := if f.sat then 0x7E else (2 ^ f.ew - 1) * 2 ^ f.fw - 1

/-- The canonical NaN (R71). -/
def canonNan (f : Fmt) : Nat := if f.sat then 0x7F else (2 ^ f.ew - 1) * 2 ^ f.fw + 2 ^ (f.fw - 1)

/-- `nan_convert` (R76): the sign, the quiet bit, and the leading payload bits that fit. -/
def nanConvert (f : Fmt) (neg : Bool) (pay : Nat) : Nat :=
  if f.sat then signBit f neg + 0x7F
  else signBit f neg + (2 ^ f.ew - 1) * 2 ^ f.fw + 2 ^ (f.fw - 1) + pay / 2 ^ (23 - f.fw)

/-- Whether the magnitude n, with remainder `rem` of 2^s, goes up to n + 1 (R72). `v` is the noise of R74. -/
def roundsUp (rm : BitVec 3) (v : Nat) (neg : Bool) (n rem s : Nat) : Bool :=
  if rem == 0 then false
  else match rm.toNat with
    | 0 => 2 * rem > 2 ^ s || (2 * rem == 2 ^ s && n % 2 == 1)
    | 1 => false
    | 2 => neg
    | 3 => !neg
    | 4 => 2 * rem ≥ 2 ^ s
    | _ => if neg then !(v * 2 ^ s < (2 ^ s - rem) * 2 ^ 24) else v * 2 ^ s < rem * 2 ^ 24

/-- The overflow result of R73's table; E4M3 saturates. -/
def overflowBits (f : Fmt) (rm : BitVec 3) (neg : Bool) : Nat :=
  if f.sat then signBit f neg + maxBits f
  else match rm.toNat with
    | 1 => signBit f neg + maxBits f
    | 2 => if neg then infBits f neg else maxBits f
    | 3 => if neg then signBit f neg + maxBits f else infBits f neg
    | _ => infBits f neg

/-- `round` of R73 on a finite non-zero magnitude m 2^e. -/
def roundFin (f : Fmt) (rm : BitVec 3) (v : Nat) (neg : Bool) (m : Nat) (e : Int) : Nat × Flags :=
  let top := e + (Nat.log2 m : Int)
  let q : Int := max (top - f.fw) (1 - (f.bias : Int) - f.fw)
  let s := (q - e).toNat
  let n := if q ≤ e then m * 2 ^ (e - q).toNat else m / 2 ^ s
  let rem := if q ≤ e then 0 else m % 2 ^ s
  let y := if roundsUp rm v neg n rem s then n + 1 else n
  let nx : Flags := if rem == 0 then 0 else fNX
  let qmax : Int := (2 ^ f.ew : Int) - (if f.sat then 1 else 2) - f.bias - f.fw
  let mmax := if f.sat then 14 else 2 ^ (f.fw + 1) - 1
  if q > qmax || (q == qmax && y > mmax) then (overflowBits f rm neg, fOF ||| fNX)
  else
    let uf : Flags := if rem != 0 && q == 1 - (f.bias : Int) - f.fw && y < 2 ^ f.fw then fUF else 0
    (signBit f neg + (((q + f.fw + f.bias - 1).toNat) * 2 ^ f.fw + y), nx ||| uf)

/-- `round` of R73. A signalling NaN raises NV (R76). -/
def roundF (f : Fmt) (rm : BitVec 3) (v : Nat) (x : FV) : Nat × Flags :=
  match x with
  | .nan neg sn pay => (nanConvert f neg pay, if sn then fNV else 0)
  | .inf neg => if f.sat then (signBit f neg + 0x7F, fNV) else (infBits f neg, 0)
  | .num neg m e => if m == 0 then (signBit f neg, 0) else roundFin f rm v neg m e

/-- RNE to a format. -/
def rne (f : Fmt) (x : FV) : Nat × Flags := roundF f 0 0 x

/-- A value that an operation returns with its flags. -/
abbrev Res := Nat × Flags

/-- A floating value to an integer in [lo, hi], rounded and saturated (last paragraph of R73). -/
def toInt (rm : BitVec 3) (v : Nat) (lo hi : Int) (x : FV) : Int × Flags :=
  match x with
  | .nan .. => (0, fNV)
  | .inf neg => (if neg then lo else hi, fNV)
  | .num neg m e =>
    let s := (-e).toNat
    let n := if 0 ≤ e then m * 2 ^ e.toNat else m / 2 ^ s
    let rem := if 0 ≤ e then 0 else m % 2 ^ s
    let y := if roundsUp rm v neg n rem s then n + 1 else n
    let i : Int := if neg then -(y : Int) else y
    if i < lo then (lo, fNV) else if hi < i then (hi, fNV) else (i, if rem == 0 then 0 else fNX)

/-- The value of an integer. -/
def ofInt (i : Int) : FV := .num (i < 0) i.natAbs 0

/-! ## Exact sums -/

/-- The signed significand of a finite value at exponent q, which is at or below its own. -/
def alignTo (q : Int) (neg : Bool) (m : Nat) (e : Int) : Int :=
  let a : Int := m * 2 ^ (e - q).toNat
  if neg then -a else a

/-- The lowest exponent of the finite non-zero values of a list. -/
def lowExp (xs : List FV) : Int :=
  xs.foldl (fun q x => match x with | .num _ m e => if m == 0 then q else min q e | _ => q) 1000

/-- The exact sum of the finite values of a list as a significand at `lowExp`. -/
def sumFin (xs : List FV) : Int :=
  let q := lowExp xs
  xs.foldl (fun a x => match x with | .num n m e => if m == 0 then a else a + alignTo q n m e | _ => a) 0

/-- The first NaN of a list, if any. -/
def firstNan (xs : List FV) : Option FV :=
  xs.find? fun x => match x with | .nan .. => true | _ => false

/-- Whether any value is a signalling NaN. -/
def anySnan (xs : List FV) : Bool :=
  xs.any fun x => match x with | .nan _ s _ => s | _ => false

/-- Whether an infinity of a sign occurs. -/
def hasInf (xs : List FV) (neg : Bool) : Bool :=
  xs.any fun x => match x with | .inf n => n == neg | _ => false

/-- Whether a value is a zero of a sign. -/
def isZero (neg : Bool) (x : FV) : Bool :=
  match x with | .num n m _ => n == neg && m == 0 | _ => false

/-- The exact sum of a list, with the zero rule of R85 and R86 (under RD a mixed zero sum is -0); opposite
infinities are reported by `none`. -/
def exactSum (rd : Bool) (xs : List FV) : Option FV :=
  match firstNan xs with
  | some x => some x
  | none =>
    if hasInf xs false && hasInf xs true then none
    else if hasInf xs false then some (.inf false)
    else if hasInf xs true then some (.inf true)
    else
      let i := sumFin xs
      if i == 0 then
        if xs.isEmpty then some (.num false 0 0)
        else if xs.all (isZero true) then some (.num true 0 0)
        else if xs.all (isZero false) then some (.num false 0 0)
        else some (.num rd 0 0)
      else some (.num (i < 0) i.natAbs (lowExp xs))

/-- The canonical NaN with NV. -/
def nanNV (f : Fmt) : Res := (canonNan f, fNV)

/-- Round an exact sum to a format; NV for opposite infinities and for a signalling NaN (R76). DESIGN CHOICE (log entry 136): beside
a NaN addend opposite infinities raise no NV. -/
def roundSum (f : Fmt) (rm : BitVec 3) (v : Nat) (xs : List FV) : Res :=
  match exactSum (rm == 2) xs with
  | none => nanNV f
  | some x =>
    let r := roundF f rm v x
    (r.1, r.2 ||| (if anySnan xs then fNV else 0))

/-- The exact product of two values that are not NaN; `none` for zero times infinity. -/
def mulV (x y : FV) : Option FV :=
  match x, y with
  | .num a m e, .num b n g => some (.num (a != b) (m * n) (e + g))
  | .inf a, .inf b => some (.inf (a != b))
  | .inf a, .num b n _ => if n == 0 then none else some (.inf (a != b))
  | .num a m _, .inf b => if m == 0 then none else some (.inf (a != b))
  | .nan a s p, _ => some (.nan a s p)
  | _, .nan a s p => some (.nan a s p)

/-- Negation. -/
def negV (x : FV) : FV :=
  match x with
  | .nan n s p => .nan n s p
  | .inf n => .inf (!n)
  | .num n m e => .num (!n) m e

/-- a + b (R167, R237). -/
def addF (rm : BitVec 3) (v : Nat) (a b : FV) : Res := roundSum fp32 rm v [a, b]

/-- a - b (R167, R237). -/
def subF (rm : BitVec 3) (v : Nat) (a b : FV) : Res := roundSum fp32 rm v [a, negV b]

/-- a b (R167, R237). -/
def mulF (rm : BitVec 3) (v : Nat) (a b : FV) : Res :=
  match firstNan [a, b] with
  | some x => let r := roundF fp32 rm v x; (r.1, r.2 ||| (if anySnan [a, b] then fNV else 0))
  | none => match mulV a b with
    | none => nanNV fp32
    | some p => roundF fp32 rm v p

/-- a b + c in one rounding (R76, R167). -/
def fmaF (rm : BitVec 3) (v : Nat) (a b c : FV) : Res :=
  let nv : Flags := if anySnan [a, b, c] then fNV else 0
  match firstNan [a, b] with
  | some x => let r := roundF fp32 rm v x; (r.1, r.2 ||| nv)
  | none => match mulV a b with
    | none => match c with
      | .nan n _ p => (nanConvert fp32 n p, fNV)
      | _ => nanNV fp32
    | some p => let r := roundSum fp32 rm v [p, c]; (r.1, r.2 ||| nv)

/-- Whether x < y, for values that are not NaN; -0 below +0 when `zeros` is true. -/
def ltV (zeros : Bool) (x y : FV) : Bool :=
  match x, y with
  | .inf a, .inf b => a && !b
  | .inf a, _ => a
  | _, .inf b => !b
  | .num a m e, .num b n g =>
    let q := min e g
    let i := alignTo q a m e
    let j := alignTo q b n g
    i < j || (zeros && i == 0 && j == 0 && a && !b)
  | _, _ => false

/-- minimum or maximum of R77. -/
def minmaxF (mx : Bool) (a b : FV) : FV × Flags :=
  let nv : Flags := if anySnan [a, b] then fNV else 0
  match firstNan [a, b] with
  | some (.nan n _ p) => (.nan n false p, nv)
  | _ => (if mx then (if ltV true a b then b else a) else (if ltV true b a then b else a), nv)

/-- The FP32 bits of a value that FP32 holds. -/
def bits32 (x : FV) : Nat := (roundF fp32 0 0 x).1

/-- Compare codes of FCMP and VCMP.F32 (R168, R242): EQ NE LT LE GT GE UN in the order 0 to 6. -/
def cmpF (cc : Nat) (a b : FV) : Bool × Flags :=
  let nv : Flags := if anySnan [a, b] then fNV else 0
  let un := (firstNan [a, b]).isSome
  let lt := !un && ltV false a b
  let gt := !un && ltV false b a
  let r := match cc with
    | 0 => !un && !lt && !gt
    | 1 => un || lt || gt
    | 2 => lt
    | 3 => !un && !gt
    | 4 => gt
    | 5 => !un && !lt
    | _ => un
  (r, nv)

/-- 1 / a (R167). -/
def rcpF (rm : BitVec 3) (v : Nat) (a : FV) : Res :=
  match a with
  | .nan .. => roundF fp32 rm v a
  | .inf n => (signBit fp32 n, 0)
  | .num n m e =>
    if m == 0 then (infBits fp32 n, fDZ)
    else
      let k := Nat.log2 m + 120
      let d := 2 ^ k / m
      let odd := if 2 ^ k % m == 0 then 0 else 1
      roundF fp32 rm v (.num n (2 * d + odd) (-e - (k : Int) - 1))

/-- Integer square root by halving the candidate step `fuel` times. -/
def isqrt (fuel n r : Nat) : Nat :=
  match fuel with
  | 0 => r
  | k + 1 => let c := r + 2 ^ k; if c * c ≤ n then isqrt k n c else isqrt k n r

/-- 1 / sqrt(a) (R167). -/
def rsqF (rm : BitVec 3) (v : Nat) (a : FV) : Res :=
  match a with
  | .nan .. => roundF fp32 rm v a
  | .inf false => (0, 0)
  | .inf true => nanNV fp32
  | .num n m e =>
    if m == 0 then (infBits fp32 n, fDZ)
    else if n then nanNV fp32
    else
      let me := if e % 2 == 0 then (m, e) else (2 * m, e - 1)
      let k : Nat := 200
      let sq := 2 ^ (2 * k) / me.1
      let r := isqrt 202 sq 0
      let odd := if r * r * me.1 == 2 ^ (2 * k) then 0 else 1
      roundF fp32 rm v (.num false (2 * r + odd) (-(me.2 / 2) - (k : Int) - 1))

/-! ## 2^x and log2 x (R169, R258) -/

/-- Bits below the point of the fixed-point numbers used here. -/
def fixP : Nat := 256

/-- ln 2 in fixed point. -/
def ln2Fix : Nat := 80260960185991308862233904206310070533990667611589946606122867505419956976171

/-- 1 / ln 2 in fixed point. -/
def invLn2Fix : Nat := 167052672916848388242985626561247531987276682633131050150846402744536260568207

/-- Horner's sum 1 + x/k (1 + x/(k+1) ( ... )) in fixed point. -/
def expSeries (fuel k x : Nat) : Nat :=
  match fuel with
  | 0 => 2 ^ fixP
  | n + 1 => 2 ^ fixP + x * expSeries n (k + 1) x / (k * 2 ^ fixP)

/-- 2^d for a dyadic d = i 2^q: nearest FP32, ties to even (R169). -/
def exp2Dy (i : Int) (q : Int) : Res :=
  let s := (-q).toNat
  let n : Int := if 0 ≤ q then i * (2 : Int) ^ q.toNat else i / ((2 : Int) ^ s)
  let fr : Nat := if 0 ≤ q then 0 else (i % ((2 : Int) ^ s)).toNat
  if n > 200 then (infBits fp32 false, fOF ||| fNX)
  else if n < -200 then (0, fUF ||| fNX)
  else if fr == 0 then roundF fp32 0 0 (.num false 1 n)
  else
    let x := fr * ln2Fix / 2 ^ s
    roundF fp32 0 0 (.num false (2 * expSeries 64 1 x + 1) (n - (fixP : Int) - 1))

/-- FEXP2 (R169). -/
def exp2F (a : FV) : Res :=
  match a with
  | .nan .. => roundF fp32 0 0 a
  | .inf n => (if n then 0 else infBits fp32 false, 0)
  | .num n m e => exp2Dy (if n then -(m : Int) else m) e

/-- The sum t + t^3/3 + t^5/5 ... in fixed point, `p` the current power. -/
def atanhSeries (fuel k p t2 : Nat) : Nat :=
  match fuel with
  | 0 => 0
  | n + 1 => p / k + atanhSeries n (k + 2) (p * t2 / 2 ^ fixP) t2

/-- FLOG2 (R169, R76). -/
def log2F (a : FV) : Res :=
  match a with
  | .nan .. => roundF fp32 0 0 a
  | .inf n => if n then nanNV fp32 else (infBits fp32 false, 0)
  | .num n m e =>
    if m == 0 then (infBits fp32 true, fDZ)
    else if n then nanNV fp32
    else
      let lg := Nat.log2 m
      let top : Int := e + lg
      if m == 2 ^ lg then roundF fp32 0 0 (ofInt top)
      else
        let t := (m - 2 ^ lg) * 2 ^ fixP / (m + 2 ^ lg)
        let ln := 2 * atanhSeries 90 1 t (t * t / 2 ^ fixP)
        let l := ln * invLn2Fix / 2 ^ fixP
        let x : Int := top * (2 : Int) ^ fixP + l
        if x < 0 then roundF fp32 0 0 (.num true (2 * x.natAbs - 1) (-(fixP : Int) - 1))
        else roundF fp32 0 0 (.num false (2 * x.natAbs + 1) (-(fixP : Int) - 1))

/-- x 2^d in one rounding (R259). -/
def scaleF (rm : BitVec 3) (v : Nat) (x : FV) (d : Int) : Res :=
  match x with
  | .num n m e => roundF fp32 rm v (.num n m (e + d))
  | _ => roundF fp32 rm v x

/-! ## Narrow integers and MX blocks -/

/-- The integer of a narrow code under an engine format byte (R83); `none` is NaN. -/
def niValue (w : Nat) (efr : Byte) (code : Nat) : Option Int :=
  let sgn := efr.toNat % 4
  let subst := efr.toNat / 16 % 4
  let c := code % 2 ^ w
  if sgn == 2 then some c
  else if c == 2 ^ (w - 1) then
    match subst with
    | 0 => some 0
    | 1 => some (if sgn == 0 then 0 else -(2 ^ (w - 1) : Int))
    | _ => none
  else if c < 2 ^ (w - 1) then some c
  else if sgn == 0 then some (-(c - 2 ^ (w - 1) : Int))
  else some (c - 2 ^ w : Int)

/-- The code of an integer already in range; zero is all zeros (R83). -/
def niCode (w : Nat) (efr : Byte) (i : Int) : Nat :=
  if efr.toNat % 4 == 0 then (if i < 0 then 2 ^ (w - 1) + i.natAbs else i.natAbs)
  else (i % (2 ^ w : Int)).toNat

/-- Saturate an integer to the range of a narrow format (R83). -/
def niClamp (w : Nat) (efr : Byte) (i : Int) : Int :=
  let lo : Int := if efr.toNat % 4 == 2 then 0 else -(2 ^ (w - 1) - 1 : Int)
  let hi : Int := if efr.toNat % 4 == 2 then 2 ^ w - 1 else 2 ^ (w - 1) - 1
  if i < lo then lo else if hi < i then hi else i

/-- Width in bits of an engine format byte (R82). -/
def efrWidth (efr : Byte) : Nat := match efr.toNat / 4 % 4 with | 0 => 4 | 1 => 6 | _ => 8

/-- The value of a scaled narrow integer: n 2^-(w-2) 2^(e-127); NaN for a NaN element or scale (R79, R83). -/
def niFV (w : Nat) (efr : Byte) (code : Nat) (scale : Byte) : FV :=
  match niValue w efr code with
  | none => .nan false false 0
  | some i =>
    if scale == 0xFF then .nan false false 0
    else .num (i < 0) i.natAbs (2 - (w : Int) + scale.toNat - 127)

/-- A value divided by 2^(e-127). -/
def unscale (x : FV) (scale : Byte) : FV :=
  match x with
  | .num n m e => .num n m (e - (scale.toNat - 127))
  | _ => x

/-- Store one narrow element: the rounded, saturated multiple of the step (R178). -/
def niStore (w : Nat) (efr : Byte) (rm : BitVec 3) (v : Nat) (x : FV) (scale : Byte) : Nat :=
  if scale == 0xFF then 0
  else match unscale x scale with
    | .nan .. => 0
    | .inf n => niCode w efr (niClamp w efr (if n then -(2 ^ 60) else 2 ^ 60))
    | .num n m e =>
      let r := toInt rm v (-(2 ^ 700)) (2 ^ 700) (.num n m (e + w - 2))
      niCode w efr (niClamp w efr r.1)

/-- The value of a vector of FP32 magnitudes' floor(log2), for R81; `none` when all are zero. -/
def amaxLog (xs : List FV) : Option Int :=
  xs.foldl (fun a x => match x with
    | .num _ m e => if m == 0 then a else
        let t := e + (Nat.log2 m : Int)
        match a with | none => some t | some b => some (max b t)
    | _ => a) none

/-- The scale byte of a block and its exponent (R81); `none` if any element is NaN or infinite. -/
def mxScale (emax : Int) (xs : List FV) : Option (Byte × Int) :=
  if xs.any (fun x => match x with | .num .. => false | _ => true) then none
  else
    let e : Int := match amaxLog xs with
      | none => -127
      | some t => max (-127) (min 127 (t - emax))
    some (BitVec.ofInt 8 (e + 127), e)

/-! ## BN3 (R90, R91) -/

/-- A binned accumulator. -/
structure Bn3 where
  dcnt : Nat
  etop : Int
  ovf : Bool
  ninf : Bool
  pinf : Bool
  nan : Bool
  rsv : Nat
  b0 : Int
  b1 : Int
  b2 : Int
deriving DecidableEq, Repr

/-- Deposit an addend (R91). -/
def Bn3.deposit (o : Bn3) (x : FV) : Bn3 :=
  if o.dcnt == 2 ^ 31 then { o with ovf := true }
  else
    let o := { o with dcnt := (o.dcnt + 1) % 2 ^ 32 }
    match x with
    | .nan .. => { o with nan := true }
    | .inf n => if n then { o with ninf := true } else { o with pinf := true }
    | .num n m e =>
      if m != 0 && e + (Nat.log2 m : Int) ≥ o.etop + 1 then { o with ovf := true }
      else
        let sh := e - (o.etop - 95)
        let q := if 0 ≤ sh then m * 2 ^ sh.toNat else m / 2 ^ (-sh).toNat
        let sg : Int := if n then -1 else 1
        { o with b0 := o.b0 + sg * (q % 2 ^ 32 : Nat), b1 := o.b1 + sg * (q / 2 ^ 32 % 2 ^ 32 : Nat),
                 b2 := o.b2 + sg * (q / 2 ^ 64 % 2 ^ 32 : Nat) }

/-- Normalise (R91). -/
def Bn3.normalise (o : Bn3) : Bn3 :=
  let c0 := o.b0 / 2 ^ 32
  let b1 := o.b1 + c0
  let c1 := b1 / 2 ^ 32
  let b2 := o.b2 + c1
  { o with b0 := o.b0 - c0 * 2 ^ 32, b1 := b1 - c1 * 2 ^ 32, b2 := b2, dcnt := 1,
           ovf := o.ovf || b2 ≥ 2 ^ 32 || b2 < -(2 ^ 32) }

/-- Finish (R91). -/
def Bn3.finish (o : Bn3) : Res :=
  if o.nan || o.ovf || (o.pinf && o.ninf) then nanNV fp32
  else if o.pinf then (infBits fp32 false, 0)
  else if o.ninf then (infBits fp32 true, 0)
  else
    let i := o.b0 + o.b1 * 2 ^ 32 + o.b2 * 2 ^ 64
    if i == 0 then (0, 0) else rne fp32 (.num (i < 0) i.natAbs (o.etop - 95))

end Sys2Proof.Machine
end

