-- ==== Sys2Proof/Machine/Tab.lean ====
section
/-!
DEFINITION. Sparse tables: a list of keys and values in one canonical form (keys strictly rising, no entry
equal to the value that an unlisted key reads as). Memory and every large register file are such tables.
-/

namespace Sys2Proof.Machine

/-- A sparse table from natural keys to values. -/
abbrev Tab (α : Type) := List (Nat × α)

namespace Tab

variable {α : Type}

/-- The value at a key; `d` where the key is not listed. -/
def get (d : α) (t : Tab α) (k : Nat) : α :=
  match t with
  | [] => d
  | (j, x) :: r => if j == k then x else get d r k

/-- Remove a key of a canonical table. -/
def del (t : Tab α) (k : Nat) : Tab α :=
  match t with
  | [] => []
  | (j, x) :: r => if k < j then (j, x) :: r else if j == k then r else (j, x) :: del r k

/-- List a key of a canonical table with a value. -/
def put (t : Tab α) (k : Nat) (v : α) : Tab α :=
  match t with
  | [] => [(k, v)]
  | (j, x) :: r =>
    if k < j then (k, v) :: (j, x) :: r else if j == k then (k, v) :: r else (j, x) :: put r k v

/-- Write a key: the entry goes where the value is the default. -/
def set [DecidableEq α] (d : α) (t : Tab α) (k : Nat) (v : α) : Tab α :=
  if v = d then del t k else put t k v

/-- Every key of the table is above `b`, and keys rise. -/
def risingFrom (t : Tab α) (b : Option Nat) : Bool :=
  match t with
  | [] => true
  | (j, _) :: r => (match b with | none => true | some k => decide (k < j)) && risingFrom r (some j)

/-- The canonical form: keys rise and no entry holds the default. -/
def wf [DecidableEq α] (d : α) (t : Tab α) : Bool :=
  risingFrom t none && t.all (fun p => decide (p.2 ≠ d))

end Tab

end Sys2Proof.Machine
end

