-- ==== Sys2Proof/Machine/State.lean ====
section
/-!
DEFINITION. The state of the package: units (cores and cluster controllers), memory, dies, contexts, the
global block, and everything on its way between them. All of it is plain data. Reset is the state that the
wipe of R369 leaves.
-/

namespace Sys2Proof.Machine

/-! ## Storage -/

/-- A piece of register storage, as R373 classes it; scalars by physical number (R151). -/
inductive Stor where
  | s (n : BitVec 5)
  | g (n : BitVec 2)
  | v (n : BitVec 6)
  | m (n : BitVec 3)
  | acc (bank : BitVec 3) (row : Nat)
  | sp (n : BitVec 12)
  | sc (n : BitVec 2)
  | h (n : BitVec 3)
  | gn (n : BitVec 4)
  | sd (n : BitVec 3)
deriving DecidableEq, Repr

/-- A run entry (R87); a mask register's runs hold 0 or 1 in `val` (R88). -/
structure Run where
  val : Word
  cnt : Nat
  b : Bool
deriving DecidableEq, Repr

/-- A loop level (R150); START and END are stream addresses on a command stream. -/
structure Loop where
  count : Word
  index : Word
  first : BitVec 64
  last : BitVec 64
  rot : Bool
deriving DecidableEq, Repr

/-- A shape register (R181): the record's header bytes, its address, the window. -/
structure Shape where
  hdr : List Byte
  addr : BitVec 64
  origin : Word
  count : Nat
  win : List Word
deriving DecidableEq, Repr

/-- The empty shape register: RANK 0 (R181). -/
def Shape.empty : Shape := ⟨List.replicate 64 0, 0, 0, 0, []⟩

/-- A generator image held by the device (R290): name, INFO doubleword, digest and body. -/
structure Image where
  name : BitVec 64
  info : BitVec 64
  digest : List Byte
  uops : List Word
  consts : List Word
  table : List Word
deriving DecidableEq, Repr

/-- A stationary plane (R263): element codes by 128 k + n, the format tag, the EFRM half sampled for narrow
integers, the scale bytes and the scaled bit. -/
structure Plane where
  code : Tab (BitVec 16)
  fb : BitVec 3
  efr : Byte
  scales : List Byte
  scaled : Bool
deriving DecidableEq, Repr

/-- A plane after reset: +0, BF16, unscaled (R263). -/
def Plane.zero : Plane := ⟨[], 0, 0, List.replicate 512 0, false⟩

/-! ## Operations in the slots -/

/-- An operation in a slot queue (R43): its bundle's number and address, its word, its guard and sync bit, and
what the bundle saw at dispatch (rotation base and loop stack, R151, R163; stamp, R156). -/
structure QOp where
  seq : Nat
  addr : BitVec 64
  word : Word
  guard : BitVec 2
  sync : Bool
  stamp : BitVec 10
  rotb : BitVec 4
  loops : List Loop
  born : Nat
deriving DecidableEq, Repr

/-- A wait that an operation at the head of its slot has begun (R31, R182, R214). -/
inductive Hold where
  | none
  /-- a watch or an access numbered `id` is on its way -/
  | wait (id : Nat)
  /-- what the wait was for has come -/
  | done (v : BitVec 64)
deriving DecidableEq, Repr

/-- A slot: its queue, the first cycle in which it is free again, the cycle after its last issue (0: none), the wait its
head has begun (R44, R46), and the cycle after the one in which its head was last tried. -/
structure Slot where
  queue : List QOp
  busy : Nat
  last : Nat
  hold : Hold
  tried : Nat
deriving DecidableEq, Repr

/-- An idle slot. -/
def Slot.idle : Slot := ⟨[], 0, 0, .none, 0⟩

/-- The front end's position: next address, loop stack (innermost first), ROTB and IHALF[0] (R146, R151). -/
structure Front where
  pc : BitVec 64
  loops : List Loop
  rotb : BitVec 4
  half : Bool
deriving DecidableEq, Repr

/-- A dispatched bundle some slot of which has not issued: its number and address, the front end as it stood
before its dispatch and, once its control operation has issued, after it (R32, R135, R140); which slots have
issued with effect (R32); its colliding slots and, once read together, the values of their guards (R56); in Invar mode,
whether its issue has begun, and whether it was dispatched, behind a FRAME, after its stamp had passed (R57, R156). -/
structure Bun where
  seq : Nat
  addr : BitVec 64
  drain : Bool
  stamp : BitVec 10
  before : Front
  after : Option Front
  frame : Bool
  effect : List Nat
  collide : List (Nat × Nat)
  guards : Option (List (Nat × Bool))
  begun : Bool
  missed : Bool
deriving DecidableEq, Repr

/-- A fault found and not yet delivered (R132, R134). -/
structure Pend where
  seq : Nat
  addr : BitVec 64
  slot : Nat
  code : Byte
  sub : Byte
  info0 : BitVec 64
  info1 : BitVec 64
  info2 : BitVec 64
  info3 : BitVec 64
  xinfo : BitVec 27
  path : BitVec 3
  kind : BitVec 2
  time : BitVec 64
  skips : Bool
deriving DecidableEq, Repr

/-! ## Units -/

/-- The task on a dispatch unit (R24 to R35): its context, its group's record address, index, and whether it is
a replay, a member of the launched indices, one of a cluster-shape task's four, retired on this core; its group's
tag and launching controller, which the task's records and events name; the number of its group's launch. -/
structure Task where
  ctx : BitVec 3
  group : BitVec 64
  index : Word
  replay : Bool
  member : Bool
  cluster : Bool
  retired : Bool
  tag : BitVec 16
  ctl : Nat
  num : Nat
deriving DecidableEq, Repr

/-- A pre-emption request (R32, R33): when it came, its limit in ns, whether a gang switch made it. -/
structure Preempt where
  time : BitVec 64
  limit : Word
  gang : Bool
deriving DecidableEq, Repr

/-- An event record (R216). -/
structure Event where
  w0 : BitVec 64
  w1 : BitVec 64
deriving DecidableEq, Repr

/-- The load of the shadow plane in flight (R263, R274, R275): when it ends, the bank group that an MGENB.ADD reads while
it runs, the plane it makes, as far as it is known at issue; `gen` for MGENB, `bad` if it meets its bound; the number of the stream that
reads its rows, and what an MGENB.ADD adds to them: the generated values and alpha. -/
structure MxLoad where
  due : Nat
  group : Option (BitVec 2)
  plane : Plane
  gen : Bool
  bad : Bool
  stream : Option Nat
  vals : List Word
  alpha : Word
deriving DecidableEq, Repr

/-- Reads of memory that an engine of a core makes cycle by cycle (R269, R274, R276, R285, R320), of an operation and its task; `mx` for
the matrix engine. `todo` are the reads to come, in order: the cycle, the place, the bytes; `now` the places read in this cycle; `got` the
bytes of each read made, the last first; an MMAT holds all banks of the group at `hold` up to a cycle (R269). -/
structure Stream where
  id : Nat
  unit : Nat
  seq : Nat
  task : Option Task
  mx : Bool
  todo : List (Nat × Nat × Nat)
  now : List (Nat × Nat)
  got : List (List Byte)
  hold : Nat × Nat
deriving DecidableEq, Repr

/-- Special registers and flags of a unit (R148). -/
structure Spr where
  rm : BitVec 3
  efrm : BitVec 16
  efrv : BitVec 16
  efrt : BitVec 16
  fflags : BitVec 5
  srseed : BitVec 64
  rfmode : Byte
  coherent : BitVec 2
  sup : Bool
  epc : BitVec 64
  frec : List (BitVec 64)
  tscr0 : BitVec 64
  tscr1 : BitVec 64
  sfc : BitVec 11
  inv : Bool
deriving DecidableEq, Repr

/-- Special registers after reset and at task entry (R146, R147, R148). -/
def Spr.reset : Spr :=
  ⟨0, 0x0808, 0x0008, 0x0008, 0, 0, 0xFF, 3, false, 0, List.replicate 8 0, 0, 0, 0, false⟩

/-- The engines' registers of a core (R80, R181, R221, R263, R301). -/
structure Eng where
  v : Tab (List Run)
  m : Tab (List Run)
  sc : Tab (List Byte)
  h : Tab Shape
  gn : Tab (Option Image)
  sd : Tab (BitVec 64)
  active : Plane
  shadow : Plane
  cellop : Word
  load : Option MxLoad
  genUses : List (BitVec 4 × Nat × Nat)
deriving DecidableEq, Repr

/-- Engine registers, empty. -/
def Eng.reset : Eng := ⟨[], [], [], [], [], [], .zero, .zero, 0, none, []⟩

/-- Dispatch bookkeeping of a unit; `back` is the front end of R135 to which SYSRET returns, `moved` says that SFC has
advanced into this cycle, or a FRAME has set it (R225). Of operations that issued and met a fault later (R134), by slot and bundle:
`undone` count as not issued; `base` is the bundle of the fault whose handler runs; `gaps` are those among the operations that SYSRET
discards, by their distance from `base` and, once it has returned, by bundle (true: found while the handler ran, so that the SKIP of
EPC counts it); `ahead` are the operations discarded while an earlier one of their slot has still to issue. These four are the
MODEL's own (log entry 127). -/
structure Disp where
  seq : Nat
  last : Nat
  wait : Option Nat
  closed : Bool
  buns : List Bun
  marks : List (Nat × Nat × Stor)
  ports : List (BitVec 2 × BitVec 6 × Nat × Nat)
  skips : List Nat
  redo : List (Nat × Front)
  back : Option Front
  mldb : Option (BitVec 2)
  wake : List (BitVec 3 × Nat)
  moved : Bool
  pend : Option Pend
  earliest : Nat
  undone : List (Nat × Nat)
  base : Nat
  gaps : List (Nat × Nat × Bool)
  ahead : List (Nat × Nat)
deriving DecidableEq, Repr

/-- Nothing dispatched. -/
def Disp.reset : Disp := ⟨0, 0, none, false, [], [], [], List.replicate 8 0, [], none, none, [], false, none, 0, [], 0, [], []⟩

/-- A core (identifiers 0 to 383) or a cluster controller (384 + g): R8, R9, R10, R146. `on` says that it runs:
a task on a core, a started controller; `stream` that a controller fetches a command stream (R22); `held` and `owed` are
fault events and group completions that wait for room in its queue (R30). -/
structure Unit where
  on : Bool
  stream : Bool
  s : Tab (BitVec 64)
  g : BitVec 4
  front : Front
  spr : Spr
  eng : Eng
  disp : Disp
  slots : Tab Slot
  tok : BitVec 16
  ring : Tab (BitVec 16 × BitVec 14)
  task : Option Task
  preempt : Option Preempt
  saved : List (Task × BitVec 64)
  freed : Option Task
  frozen : Bool
  events : List Event
  held : List Event
  owed : List Event
  start : BitVec 64
deriving DecidableEq, Repr

/-- A front end at code address 0. -/
def Front.reset : Front := ⟨0, [], 0, false⟩

/-- An idle unit after reset (R369). -/
def Unit.idle : Unit :=
  ⟨false, false, [], 0, .reset, .reset, .reset, .reset, [], 0, [], none, none, [], none, false, [], [], [], 0⟩

/-! ## Results and accesses on their way -/

/-- What an exposed result does when it lands (R48, R49). -/
inductive Land where
  | scalar (n : BitVec 5) (v : BitVec 64) (flags : BitVec 5)
  | guard (n : BitVec 2) (v : Bool) (flags : BitVec 5)
  | rm (v : BitVec 3)
  | efr (tgt : BitVec 2) (v : BitVec 16)
  | spr (n : BitVec 12) (v : BitVec 64)
  | rfmode (mask : Byte)
  | scale (n : BitVec 2) (bytes : List Byte)
  | flags (f : BitVec 5)
  | mzero (bank : BitVec 3)
deriving DecidableEq, Repr

/-- An exposed result on its way (R44): the unit, its bundle, the cycle in which it lands. -/
structure Landing where
  unit : Nat
  seq : Nat
  addr : BitVec 64
  slot : Nat
  issued : Nat
  due : Nat
  what : Land
deriving DecidableEq, Repr

/-- Where a streamed row stands among the reads of its stream (R276, R285): read k; the elements of some bytes at an offset of 128
reads, the transposed row of an MMAT; row i of a run of an MADP whose adapter of rank rho is read from `first` on, A then B, and then its
activations. -/
inductive Pick where
  | row (k : Nat)
  | column (first off size : Nat)
  | adapter (first rho i : Nat)
deriving DecidableEq, Repr

/-- How an accumulator row is computed when it lands (R266, R278, R285): the operation, the streamed row's element codes
with their format and scale bytes, the plane it meets, the cells that accumulate, and the flags raised before (`none`:
its task is gone and the row raises none); `src` the stream that reads the row, and where, if one does. -/
structure RowWork where
  op : BitVec 2
  codes : List (BitVec 16)
  fa : BitVec 3
  efr : Byte
  scales : Option (List Byte)
  plane : Plane
  cells : List Bool
  fl : Option (BitVec 5)
  src : Option (Nat × Pick)
deriving DecidableEq, Repr

/-- An accumulator row on its way (R267), with the task that sent it. -/
structure RowLanding where
  unit : Nat
  task : Option Task
  seq : Nat
  addr : BitVec 64
  issued : Nat
  due : Nat
  bank : BitVec 3
  row : Nat
  work : RowWork
deriving DecidableEq, Repr

/-- A sync-engine request at its port (R198 to R213, R217); a LAUNCH is not `live` once its controller has stopped: it raises no fault
then. -/
inductive Req where
  | atom (opc : BitVec 3) (ty : BitVec 2) (uns : Bool) (x : BitVec 64)
  | acas (ty : BitVec 2) (e x : BitVec 64)
  | rsf (x : Word)
  | rsb (x : Word)
  | rso (w : BitVec 6) (ident x : Word)
  | binit (etop : BitVec 16)
  | bnorm
  | bfin (vec : Bool) (n : Nat) (got : List (Nat × Word)) (fl : BitVec 5)
  | push (x : BitVec 64)
  | pop
  | steal
  | bara
  | roopen (w : BitVec 6) (n : Nat) (at' : Bool)
  | roclose (w : BitVec 6) (at' : Bool)
  | claim
  | free (l : BitVec 64)
  | grow (n : BitVec 64)
  | launch (live : Bool)
deriving DecidableEq, Repr

/-- A value for a presence-tracked register. -/
inductive Val where
  | scalar (x : BitVec 64)
  | guard (b : Bool)
  | runs (r : List Run)
  | shape (h : Shape)
  | image (i : Option Image)
  | nothing
deriving DecidableEq, Repr

/-- How the bytes of a load become a value (R175 to R185): `row` is the number of elements of an outer row, `parts` the
lengths of the segments, 0 for a null run, `va` what a fault of a stream of run entries names. -/
inductive Conv where
  | scalar (bytes : Nat) (signed : Bool)
  | elems (fmt : Nat) (merge : Bool) (efrv : BitVec 16) (scales : List Byte) (row : Nat) (parts : List Nat)
  | entries (mask : Bool) (va : BitVec 64)
  | ragged (parts : List Nat) (va : BitVec 64)
  | gen (held : Word)
deriving DecidableEq, Repr

/-- An access, a request or a presence-tracked result on its way. -/
inductive Fly where
  /-- a result whose value is fixed: register writes and the flags ORed as they become present -/
  | result (ws : List (Stor × Val)) (flags : BitVec 5)
  /-- a load: the bytes of the granules whose reads have performed; the rest is sampled when it arrives (R117, R118) -/
  | load (dst : Stor) (conv : Conv) (got : List Host.Cell)
  /-- a store of bytes to the spans, in order -/
  | store (bytes : List Byte)
  /-- SETF (true) or CLRF (false) of tiles (R187) -/
  | bits (tiles : List Nat) (full : Bool)
  /-- a request that has not reached its port; `dst` the registers its results go to -/
  | req (r : Req) (va : BitVec 64) (dst : List Stor)
  /-- an accumulator store whose rows stand on another core (R189) -/
  | star (fmt : BitVec 4) (rm : BitVec 3) (seed : BitVec 64) (bank row n src : Nat)
  /-- a channel descriptor on its way to entry `ch`, its status to a scalar (R335); `started`: its tiles have been found full, and the
  read has set out (R100) -/
  | chdef (ch : BitVec 6) (dst : BitVec 5) (started : Bool)
  /-- what a collective call writes into its core's memory by itself: the call, the bytes, the tiles with the words it places in each -/
  | coStore (call : Nat) (bytes : List Byte) (tiles : List (Nat × Nat))
  /-- an evaluation that will meet its bound (R297): the vector register it would have written, if it is GEVAL -/
  | bound (vd : Option (BitVec 6))
  /-- a tile of an MDRS (R282): its bytes until they are written, the tile to set, the operation's flags -/
  | drain (bytes : List Byte) (tile : Nat) (fl : BitVec 5)
  /-- an ordered snapshot (R182): attempt, stage (0 GEN, 1 header and window, 3 a window whose tiles were empty, 2 GEN; with 4 added while
  the stage's tiles are empty, R100), what has been read, the bytes of the present stage that have -/
  | snap (dst : BitVec 3) (va : BitVec 64) (origin : BitVec 64) (attempt stage : Nat) (g1 : Word) (hdr : List Byte)
      (win : List Word) (got : List Host.Cell)
deriving DecidableEq, Repr

/-- One entry of the list of accesses and results in flight, in issue order. `spans` are the bytes of memory it
touches, as places and lengths; `due` is the earliest cycle of the step that ends it; `turn` numbers a parked request in
the order of parking (R113). -/
structure Flight where
  id : Nat
  unit : Nat
  seq : Nat
  addr : BitVec 64
  slot : Nat
  path : BitVec 3
  issued : Nat
  due : Nat
  reads : Bool
  writes : Bool
  spans : List (Nat × Nat)
  task : Option Task
  sup : Bool
  bad : Option Pend
  parked : Bool
  turn : Nat
  what : Fly
deriving DecidableEq, Repr

/-- A wait at a memory port (R210, R214): the word watched, the compare, whether it stands at the port, whether it has
been satisfied, the earliest cycle of its answer, and the accesses that the host had sent by then (R23). -/
structure Watch where
  id : Nat
  unit : Nat
  slot : Nat
  place : Nat
  bytes : Nat
  cc : BitVec 3
  x : BitVec 64
  armed : Bool
  met : Bool
  due : Nat
  sent : Nat
deriving DecidableEq, Repr

/-- One row of a transfer: source and destination device addresses and bytes (R316). -/
structure XRow where
  src : BitVec 64
  dst : BitVec 64
  bytes : Nat
deriving DecidableEq, Repr

/-- What a transform makes of its source bytes (R321 to R323): XPOSE with elements of `z` bytes; XCVT of n elements under conversion k
with what it samples at issue (EFRT, RM, SRSEED) and its destination offset; XEXP, the block's header read at issue. -/
inductive XWork where
  | xpose (z : Nat)
  | xcvt (k n : Nat) (efr : Byte) (rm : BitVec 3) (seed : BitVec 64) (dst : Nat)
  | xexp (hdr : List Byte) (src dst : Nat)
deriving DecidableEq, Repr

/-- What a transfer operation does with its bytes (R316 to R326). -/
inductive XKind where
  | copy
  | block
  | transform
  | imload (half : Bool)
deriving DecidableEq, Repr

/-- A transfer operation in flight (R313, R317): the rows still to move, the tiles it cleared with the number of writes
of their bits then, the tiles still to set, its write flights, what it samples at issue, the source bytes it has read ahead, its outcome so far; `cross` is a
segment, its boundary and how many rows at the end lie beyond it and are never made; `work` what a transform computes from the stream
that reads its source. -/
structure Xfer where
  id : Nat
  unit : Nat
  seq : Nat
  addr : BitVec 64
  task : Option Task
  tok : BitVec 16
  post : Bool
  sup : Bool
  kind : XKind
  rows : List XRow
  tiles : List (Nat × Nat)
  left : List Nat
  writes : List Nat
  due : Nat
  issued : Nat
  buf : List Byte
  ahead : List Host.Cell
  flg : BitVec 5
  code : Byte
  finger : Option (BitVec 64)
  fmt : Nat
  packed : Bool
  fpd : Bool
  elems : List Byte
  cross : Option (Nat × Nat × Nat)
  recd : Bool
  work : Option (Nat × XWork)
deriving DecidableEq, Repr

/-! ## Dies, contexts, groups -/

/-- A budget register (R367). -/
structure Budget where
  frz : Bool
  use : BitVec 31
  limit : Word
deriving DecidableEq, Repr

/-- A budget register after reset. -/
def Budget.reset : Budget := ⟨false, 0, 0xFFFFFFFF⟩

/-- An open ordered-reduction window at a port (R205, R206). -/
structure Win where
  place : Nat
  opened : Bool
  expect : Nat
  queue : List (Nat × Word × Word)
deriving DecidableEq, Repr

/-- A lease (R212). -/
structure Lease where
  name : BitVec 64
  seed : BitVec 64
  lo : List Word
  hi : List Word
deriving DecidableEq, Repr

/-- A translation cached by a die (R107): the page's first virtual address, its size, its frame and permissions. -/
structure TlbEntry where
  ctx : BitVec 3
  va : Nat
  size : Nat
  pa : Nat
  rd : Bool
  wr : Bool
  x : Bool
deriving DecidableEq, Repr

/-- A die's own state (R107, R359, R362, R367): TLB, code loader, budgets and what they froze, and the load under way: its
status, the first bundle's key, the bundles. -/
structure Die where
  tlb : List TlbEntry
  icla : BitVec 64
  iclc : BitVec 64
  bbper : BitVec 16
  bbnext : BitVec 64
  budgets : Tab Budget
  frozenColl : Bool
  frozenHost : Bool
  frozenTx : List Nat
  load : Option (Byte × Nat × List (BitVec 256))
deriving DecidableEq, Repr

/-- A die after reset. -/
def Die.reset : Die := ⟨[], 0, 0, 1000, 1000000, [], false, false, [], none⟩

/-- A call in flight on a channel (R336): its kind (1 CSEND, 2 CRECV, 3 CA2AC, 4 CA2AP, 5 CSWR, 6 CDIG, 7 CNRM, 8 GAGREE)
and sequence, its signature and operands, the next packet, the words still awaited in each destination tile, the arm notices
it has (tile or rank, sender, address, packets sent), the counts of an all-to-all, what members have sent (for CA2AP its two
buffers), the source bytes it has read ahead, the words a norm has taken (for CA2AP the record's RP), its outcome; `own` are tiles it cleared with the number of
writes of their bits then (R100), `behind` that it was issued while its entry was paused (R351), `refused` that a receiving port has found
a packet of it at fault (R338, R344). -/
structure Call where
  id : Nat
  ctx : BitVec 3
  ch : BitVec 6
  die : Nat
  unit : Nat
  bun : Nat
  addr : BitVec 64
  task : Option Task
  sup : Bool
  kind : Nat
  seq : Word
  sig : Word
  post : Bool
  dst : Option (BitVec 5)
  base : BitVec 64
  n : Nat
  next : Nat
  tiles : List (Nat × Nat)
  own : List (Nat × Nat)
  behind : Bool
  notices : List (Nat × Nat × BitVec 64 × Nat)
  counts : List Word
  rcv : List Word
  got : List (Nat × BitVec 64)
  ahead : List Host.Cell
  cap : List Word
  flg : BitVec 5
  status : Byte
  value : Word
  count : Nat
  fin : Bool
  refused : Bool
deriving DecidableEq, Repr

/-- A channel-table entry (R334, R336). -/
structure Chan where
  defd : Bool
  die : Nat
  desc : List (BitVec 64)
  sseq : Word
  rseq : Word
  armed : Nat
  paused : Bool
  aborted : Bool
  stale : Bool
deriving DecidableEq, Repr

/-- An undefined channel. -/
def Chan.none : Chan := ⟨false, 0, List.replicate 4 0, 0, 0, 0, false, false, false⟩

/-- A packet in the fabric (R331, R337 to R350). -/
structure Packet where
  call : Nat
  ctx : BitVec 3
  handle : BitVec 16
  version : Word
  src : Nat
  dst : Nat
  srcDie : Option Nat
  dstDie : Option Nat
  kind : Nat
  ch : BitVec 6
  seq : Word
  tile : Nat
  off : Nat
  sig : Word
  tmo : Word
  va : BitVec 64
  words : List Word
deriving DecidableEq, Repr

/-- A reduction slot or agreement round in the switch (R349, R350). -/
structure SwSlot where
  round : Bool
  handle : BitVec 16
  seq : Word
  sig : Word
  n : Nat
  start : BitVec 64
  tmo : Word
  parts : List Packet
deriving DecidableEq, Repr

/-- What the fabric manager has told the switch of a handle (R331): N, the dies of the package whose ports are members, and those that
are candidates for a round. -/
structure SwBind where
  n : Nat
  members : List Nat
  candidates : List Nat
deriving DecidableEq, Repr

/-- The Yenath switch: slots, the highest sequence freed of each handle, current version (R349, R350), bindings by handle (R331; none:
as the port tables of the package have them, log entry 68). -/
structure Switch where
  slots : List SwSlot
  freed : Tab (Option Word)
  version : Tab (Option Word)
  bound : Tab (Option SwBind)
deriving DecidableEq, Repr

/-- A live group (R24, R26, R28): what LAUNCH read, the pending replays, and a number of the LAUNCH, which tells the groups launched
from one record apart. The counted fields stay in the record. -/
structure Group where
  ctx : BitVec 3
  recd : BitVec 64
  place : Nat
  entry : BitVec 13
  args : BitVec 64
  saveBase : BitVec 64
  stride : Word
  clset : BitVec 96
  cluster : Bool
  cores : Bool
  replay : Bool
  tev : Bool
  doneAddr : BitVec 64
  tag : BitVec 16
  ctl : Nat
  count0 : Word
  begun : Bool
  replays : List Word
  growing : Nat
  num : Nat
deriving DecidableEq, Repr

/-- A resident context's saved state (R37): units, scratchpads and accumulators by place, vaults by die and window offset,
full/empty bits, instruction stores, parked requests, paused transfers, groups and calls, and the register image of each
core and controller (R142); the rest is in the context. -/
structure Saved where
  units : Tab Unit
  mem : List Host.Cell
  vault : List Host.Cell
  tiles : Tab (Bool × Nat)
  code : Tab (BitVec 256)
  codeOld : Tab (BitVec 256)
  flights : List Flight
  xfers : List Xfer
  groups : List Group
  calls : List Call
  images : List (Nat × List Byte)
deriving DecidableEq, Repr

/-- A context's registers and tables (R21, R357 to R361); `reging` is the outcome of a registration under way, `retry` the
dies whose PARKREP waits for the context to run, `fresh` that it has not run since its creation. -/
structure Ctx where
  state : BitVec 2
  err : Bool
  spart : BitVec 64
  vwin : Tab (BitVec 64)
  ptroot : BitVec 64
  tlbinv : BitVec 64
  hwin : Tab (BitVec 128)
  hmwin : BitVec 128
  tctl : BitVec 14
  plimit : Word
  flbase : BitVec 64
  flctl : BitVec 64
  grega : BitVec 64
  gregc : BitVec 64
  reging : Option (Byte × Option Image)
  registry : List Image
  csctl : Tab (BitVec 128)
  ports : Tab (BitVec 128)
  chans : Tab Chan
  wins : Tab (Option Win)
  leases : Tab (Option Lease)
  adapters : Tab (BitVec 128)
  btag : Tab (BitVec 16)
  axr : Tab (BitVec 5)
  fatal : Bool
  retry : List Nat
  saved : Option Saved
  fresh : Bool
deriving DecidableEq, Repr

/-- A context after reset or creation (R359, R361). -/
def Ctx.reset : Ctx :=
  ⟨0, false, 0, [], 0, 0, [], 0, 0, 2000000, 0, 4, 0, 0, none, [], [], [], [], [], [], [], [], [], false, [], none, true⟩

/-- The global block and the package's own registers (R36, R359, R363 to R366); of a switch under way, the dies whose
counters have reached the instant and the incoming context as it stood at the instant (`swIn`; R36, R37); the table entries
in HBM that cannot be read without an uncorrectable error (R110). -/
structure Glob where
  running : Option (BitVec 3)
  switchat : BitVec 64
  swctl : Byte
  swStep : Nat
  swTime : BitVec 64
  swBad : Bool
  swDies : List Nat
  swIn : Option (BitVec 3)
  apctx : BitVec 3
  apbase : BitVec 64
  life : BitVec 2
  bootfail : Bool
  bootdone : Bool
  boots : Nat
  svctl : BitVec 64
  attctl : BitVec 2
  attnonce : List Byte
  attrep : List Byte
  keyed : Bool
  msix : Tab (BitVec 128)
  msixPending : List Nat
  msixEnable : Bool
  hostWrites : Nat
  links : List (Nat × Nat)
  badEntries : List Nat
  earlyTrap : Bool
deriving DecidableEq, Repr

/-- A message the device sends the host, its answer to a host request, or its report of a failed link (R13) or of a fatal
context (R114) to system software: the MODEL's record of what leaves. -/
inductive HostMsg where
  | vector (n : Nat)
  | data (v : BitVec 64)
  | unsupported
  | poison
  | snoop
  | linkFailed (a b : Nat)
  | fatal (c : BitVec 3)
deriving DecidableEq, Repr

/-! ## The MODEL's own fields -/

/-- The data of an event step: which unit, entry or die, and the words a host request carries. -/
structure EvArg where
  n : Nat
  m : Nat
  off : Nat
  wide : Bool
  wr : Bool
  v : BitVec 64
deriving DecidableEq, Repr

/-- No data. -/
def EvArg.zero : EvArg := ⟨0, 0, 0, false, false, 0⟩

/-- One choice of what happens next: a clock cycle, a slot's head, an event step of the opcode table, a row or
packet of a transfer or call in flight, one granule of a wider access, of packet n or of what unit u reads within this cycle, a read by
the host, a packet from another member, a binding that the fabric manager sends the switch, an uncorrectable error of a doubleword of HBM. -/
inductive Move where
  | tick
  | slot (u k : Nat)
  | event (i : Instr) (a : EvArg)
  | progress (n : Nat)
  | part (n g : Nat)
  | split (n g : Nat)
  | operand (u p : Nat)
  | packet (p : Packet)
  | bind (h : BitVec 16) (b : SwBind)
  | hostRead (off : Nat) (wide : Bool)
  | memoryError (pa : Nat)
deriving DecidableEq, Repr

/-- The operation being issued: its unit, its slot, its queue entry. -/
structure Cur where
  unit : Nat
  slot : Nat
  op : QOp
deriving DecidableEq, Repr

/-- A queue entry that holds a NOP. -/
def QOp.nop : QOp := ⟨0, 0, 0, 0, false, 0, 0, [], 0⟩

/-- The state of the package; `lately` are the tiles whose bits have become full in this cycle (R100; log entry 126), `seen` the bytes
that units have read ahead in this cycle (R117; log entry 107): both are the MODEL's own fields. -/
structure State where
  units : Tab Unit
  mem : List Host.Cell
  tiles : Tab (Bool × Nat)
  lately : List Nat
  seen : List (Nat × Host.Cell)
  code : Tab (BitVec 256)
  codeOld : Tab (BitVec 256)
  dies : Tab Die
  ctxs : Tab Ctx
  glob : Glob
  groups : List Group
  landings : List Landing
  rows : List RowLanding
  streams : List Stream
  flights : List Flight
  watches : List Watch
  xfers : List Xfer
  calls : List Call
  fabric : List Packet
  switch : Switch
  cycle : Nat
  time : BitVec 64
  ids : Nat
  fresh : Nat
  hostOut : List HostMsg
  agenda : List Move
  cur : Cur
  arg : EvArg
deriving DecidableEq, Repr

/-- The global block after reset: registers zero, MSI-X masked by its table's default (R359, R364). -/
def Glob.reset : Glob :=
  { running := none, switchat := 0, swctl := 0, swStep := 0, swTime := 0, swBad := false, swDies := [], swIn := none, apctx := 0, apbase := 0,
    life := 0, bootfail := false, bootdone := false, boots := 0, svctl := 0, attctl := 0,
    attnonce := List.replicate 32 0, attrep := [], keyed := false, msix := [], msixPending := [],
    msixEnable := false, hostWrites := 0, links := [], badEntries := [], earlyTrap := false }

/-- The machine right after reset (R369): all memories and registers zero, every tile full, no context resident. -/
def State.reset : State :=
  { units := [], mem := [], tiles := [], lately := [], seen := [], code := [], codeOld := [], dies := [], ctxs := [], glob := .reset, groups := [],
    landings := [], rows := [], streams := [], flights := [], watches := [], xfers := [], calls := [], fabric := [],
    switch := ⟨[], [], [], []⟩, cycle := 0, time := 0, ids := 0, fresh := 0, hostOut := [], agenda := [],
    cur := ⟨0, 1, .nop⟩, arg := .zero }

/-- Why the machine stops with a fault. The spec's own faults are not here: they are taken (R134, R135). -/
inductive Fault where
  /-- Raised by `step` when the agenda names a unit that the package does not have (R8): the agenda is the model's
  schedule, so no run of the hardware is lost. Safe. -/
  | absentUnit
deriving DecidableEq, Repr

/-- Why the model gives no meaning. -/
inductive Refusal where
  /-- Raised by `exec` for an instruction whose meaning is not written yet, by its mnemonic. Safe. -/
  | notModelled (mnemonic : String)
deriving DecidableEq, Repr

end Sys2Proof.Machine
end

