-- ==== Sys2Proof/Machine/Gen.lean ====
section
/-!
DEFINITION. Digests (SHA3-256 of R291, CRC-64 of R326), little-endian bytes, generator images and their
evaluation (R290 to R300), the rounding noise (R74).
-/

namespace Sys2Proof.Machine

/-! ## Bytes -/

/-- The number that bytes hold, the first the least significant (R2). -/
def leNat (bs : List Byte) : Nat := bs.foldr (fun b a => b.toNat + 256 * a) 0

/-- The low `n` bytes of a number, the least significant first (R2). -/
def leBytes (n x : Nat) : List Byte :=
  match n with
  | 0 => []
  | k + 1 => BitVec.ofNat 8 x :: leBytes k (x / 256)

/-- Split a list into pieces of `k` elements; `fuel` bounds the pieces. -/
def chunks {α : Type} (fuel k : Nat) (xs : List α) : List (List α) :=
  match fuel with
  | 0 => []
  | n + 1 => if xs.isEmpty then [] else xs.take k :: chunks n k (xs.drop k)

/-- The little-endian words of `k` bytes that a byte list holds. -/
def leWords (k : Nat) (bs : List Byte) : List Nat := (chunks bs.length k bs).map leNat

/-! ## SHA3-256 and CRC-64 -/

/-- The round constants of Keccak-f[1600]. -/
def keccakRC : List (BitVec 64) :=
  [0x1, 0x8082, 0x800000000000808A, 0x8000000080008000, 0x808B, 0x80000001, 0x8000000080008081, 0x8000000000008009, 0x8A, 0x88, 0x80008009, 0x8000000A,
   0x8000808B, 0x800000000000008B, 0x8000000000008089, 0x8000000000008003, 0x8000000000008002, 0x8000000000000080, 0x800A, 0x800000008000000A, 0x8000000080008081, 0x8000000000008080, 0x80000001, 0x8000000080008008]

/-- The rotation of lane x + 5 y. -/
def keccakRot : List Nat := [0, 1, 62, 28, 27, 36, 44, 6, 55, 20, 3, 10, 43, 25, 39, 41, 45, 15, 21, 8, 18, 2, 61, 56, 14]

/-- One round on the 25 lanes. -/
def keccakRound (a : List (BitVec 64)) (rc : BitVec 64) : List (BitVec 64) :=
  let ln := fun (l : List (BitVec 64)) (i : Nat) => l.getD i 0
  let c := (List.range 5).map fun x => ln a x ^^^ ln a (x + 5) ^^^ ln a (x + 10) ^^^ ln a (x + 15) ^^^ ln a (x + 20)
  let d := (List.range 5).map fun x => ln c ((x + 4) % 5) ^^^ (ln c ((x + 1) % 5)).rotateLeft 1
  let r := (List.range 25).map fun i => (ln a i ^^^ ln d (i % 5)).rotateLeft (keccakRot.getD i 0)
  -- lane (x, y) of the permuted state comes from lane (x + 3 y, x) of the rotated one
  let b := (List.range 25).map fun i => ln r ((i % 5 + 3 * (i / 5)) % 5 + 5 * (i % 5))
  (List.range 25).map fun i =>
    let y := i / 5 * 5
    ln b i ^^^ (~~~(ln b (y + (i + 1) % 5)) &&& ln b (y + (i + 2) % 5)) ^^^ (if i == 0 then rc else 0)

/-- Absorb one block of 136 bytes. -/
def keccakAbsorb (a : List (BitVec 64)) (blk : List Byte) : List (BitVec 64) :=
  let ws := (leWords 8 blk).map (BitVec.ofNat 64)
  keccakRC.foldl keccakRound ((List.range 25).map fun i => a.getD i 0 ^^^ ws.getD i 0)

/-- SHA3-256 of a byte list (R291). -/
def sha3 (bs : List Byte) : List Byte :=
  let k := 136 - bs.length % 136
  let pad : List Byte := if k == 1 then [0x86] else 0x06 :: (List.replicate (k - 2) 0 ++ [0x80])
  let blocks := chunks (bs.length / 136 + 1) 136 (bs ++ pad)
  let a := blocks.foldl keccakAbsorb (List.replicate 25 0)
  ((a.take 4).map fun w => leBytes 8 w.toNat).flatten

/-- One bit of the CRC-64 of R326. -/
def crcBit (c : BitVec 64) (b : Bool) : BitVec 64 :=
  let t := c.msb != b
  let c := c <<< 1
  if t then c ^^^ 0x42F0E1EBA9EA3693 else c

/-- CRC-64, ECMA-182 polynomial, initial value 0, most significant bit first (R326). -/
def crc64 (bs : List Byte) : BitVec 64 :=
  bs.foldl (fun c b => (List.range 8).foldl (fun c i => crcBit c (b.getLsbD (7 - i))) c) 0

/-! ## Generator images (R290 to R293) -/

/-- Fields of a micro-operation (R292). -/
structure Uop where
  opc : Nat
  d : Nat
  a : Nat
  b : Nat
  c : Nat
  q : Nat
  n : Bool
  f : Bool
  rsv : Bool
  imm : Nat
deriving DecidableEq, Repr

/-- A micro-operation's fields (R292). -/
def uop (w : Word) : Uop :=
  let x := w.toNat
  ⟨x / 2 ^ 27, x / 2 ^ 23 % 16, x / 2 ^ 19 % 16, x / 2 ^ 15 % 16, x / 2 ^ 11 % 16, x / 2 ^ 9 % 4,
   x / 256 % 2 == 1, x / 128 % 2 == 1, x / 64 % 2 == 1, x % 64⟩

/-- Whether a micro-operation of index i is well formed (R293). -/
def Uop.wf (u : Uop) (i nconst : Nat) (tab : Bool) : Bool :=
  let z := fun (d a b c q n f m : Bool) =>
    !u.rsv && (d || u.d == 0) && (a || u.a == 0) && (b || u.b == 0) && (c || u.c == 0) && (q || u.q == 0)
      && (n || !u.n) && (f || !u.f) && (m || u.imm == 0)
  match u.opc with
  | 0x01 | 0x02 | 0x03 | 0x04 | 0x05 | 0x09 | 0x0A | 0x13 | 0x14 => z true true true false false false false false
  | 0x06 | 0x07 | 0x08 =>
    if u.f then z true true false false false false true true && u.imm < 32
    else z true true true false false false false false
  | 0x0B => z true true true false false false false false && u.d != u.a && u.d != u.b && u.a != u.b
  | 0x0C => z true true true false false false false false && u.d < 4
  | 0x0D => z true true true false false false true false && u.d < 4
  | 0x0E => z true true true false true false false false
  | 0x0F => z true false false true false false false false && u.c < nconst
  | 0x10 => z true true false false false false false false && tab
  | 0x11 | 0x12 => z true true false false false false false false
  | 0x15 => z true true true true false false false false
  | 0x16 => z false false false false true true false true && u.imm != 0 && u.imm ≤ i
  | 0x17 =>
    if u.f then z false true false false true true true false else z false true false false false false false false
  | _ => false

/-- BOUND, NUOP, NCONST and TAB of an image's INFO doubleword (R290). -/
def Image.bound (g : Image) : Nat := g.info.toNat % 512

/-- NUOP (R290). -/
def Image.nuop (g : Image) : Nat := g.info.toNat / 512 % 128

/-- NCONST (R290). -/
def Image.nconst (g : Image) : Nat := g.info.toNat / 2 ^ 16 % 32

/-- TAB (R290). -/
def Image.tab (g : Image) : Bool := g.info.toNat / 2 ^ 21 % 2 == 1

/-- The length in bytes that a header's counts give an image (R290). -/
def Image.bytes (g : Image) : Nat := 64 + 4 * (g.nuop + g.nconst) + (if g.tab then 256 else 0)

/-- The image that a header and its body make. -/
def Image.ofBytes (bs : List Byte) : Image :=
  let ds := leWords 8 (bs.take 64)
  let g : Image := ⟨BitVec.ofNat 64 (ds.getD 0 0), BitVec.ofNat 64 (ds.getD 1 0), (bs.take 64).drop 32, [], [], []⟩
  let ws := (leWords 4 (bs.drop 64)).map (BitVec.ofNat 32)
  { g with uops := ws.take g.nuop, consts := (ws.drop g.nuop).take g.nconst,
           table := if g.tab then (ws.drop (g.nuop + g.nconst)).take 64 else [] }

/-- Whether the header's fields lie in their ranges (R291). -/
def imageHeaderOk (bs : List Byte) : Bool :=
  let g := Image.ofBytes (bs.take 64)
  let name := leBytes 8 g.name.toNat
  name.all (fun b => 0x20 ≤ b.toNat && b.toNat ≤ 0x7E) && decide ((name.headD 0).toNat ≠ 0x20)
    && 1 ≤ g.bound && g.bound ≤ 256 && 1 ≤ g.nuop && g.nuop ≤ 64 && g.nconst ≤ 16
    && g.info.toNat / 2 ^ 22 == 0 && (bs.take 32).drop 16 == List.replicate 16 0

/-- Whether the micro-operations of an image are well formed and end in an unconditional OUT (R291, R293). -/
def Image.bodyOk (g : Image) : Bool :=
  (g.uops.zipIdx.all fun p => (uop p.1).wf p.2 g.nconst g.tab)
    && (match g.uops.getLast? with | some w => (uop w).opc == 0x17 && !(uop w).f | none => false)

/-- Whether DIGEST matches the image's bytes (R291). -/
def imageDigestOk (bs : List Byte) : Bool := sha3 (bs.take 32 ++ bs.drop 64) == (bs.take 64).drop 32

/-- SRNOISE's name (R300). -/
def srNoiseName : BitVec 64 := 0x204553494F4E5253

/-- SRNOISE's micro-operations (R300). -/
def srNoiseUops : List Word := [0x1B010000, 0x1B898000, 0x5B3A0000, 0x1B328000, 0x5B3A0000, 0x5B3A0000, 0xB8300000]

/-- SRNOISE's INFO doubleword: bound 7, 7 micro-operations, no constants, no table (R290, R300). -/
def srNoiseInfo : BitVec 64 := 7 + 512 * 7

/-- SRNOISE's digest, that of R291 over its header and body. -/
def srNoiseDigest : List Byte :=
  sha3 (leBytes 8 srNoiseName.toNat ++ leBytes 8 srNoiseInfo.toNat ++ List.replicate 16 0
    ++ (srNoiseUops.map fun w => leBytes 4 w.toNat).flatten)

/-- The built-in image SRNOISE (R300). -/
def srNoise : Image := ⟨srNoiseName, srNoiseInfo, srNoiseDigest, srNoiseUops, [], []⟩

/-! ## Evaluation (R294) -/

/-- A lane's registers and predicates. -/
structure Lane where
  g : List Word
  q : BitVec 4
deriving DecidableEq, Repr

/-- A lane at the start of an evaluation (R294). -/
def Lane.start (c0 c1 c2 c3 : Word) (seed : BitVec 64) : Lane :=
  ⟨[c0, c1, c2, c3, seed.setWidth 32, (seed >>> 32).setWidth 32] ++ List.replicate 10 0, 0⟩

/-- What a micro-operation does next: go on at an index, or end with a value. -/
inductive LaneNext where
  | go (i : Nat)
  | out (w : Word)
deriving DecidableEq, Repr

/-- Execute one micro-operation at index i (R293). -/
def execUop (g : Image) (l : Lane) (i : Nat) : Lane × LaneNext :=
  let u := uop (g.uops.getD i 0)
  let a := l.g.getD u.a 0
  let b := l.g.getD u.b 0
  let c := l.g.getD u.c 0
  let qs := l.q.getLsbD u.q
  let wr := fun (x : Word) => ((⟨l.g.set u.d x, l.q⟩ : Lane), LaneNext.go (i + 1))
  let fp := fun (r : Res) => wr (BitVec.ofNat 32 r.1)
  let va := decodeF fp32 a.toNat
  let vb := decodeF fp32 b.toNat
  let sh := if u.f then u.imm else b.toNat % 32
  let setq := fun (t : Bool) =>
    ((⟨l.g, if t then l.q ||| (1#4 <<< u.d) else l.q &&& ~~~(1#4 <<< u.d)⟩ : Lane), LaneNext.go (i + 1))
  match u.opc with
  | 0x01 => wr (a + b)
  | 0x02 => wr (a - b)
  | 0x03 => wr (a ^^^ b)
  | 0x04 => wr (a &&& b)
  | 0x05 => wr (a ||| b)
  | 0x06 => wr (a <<< sh)
  | 0x07 => wr (a >>> sh)
  | 0x08 => wr (a.rotateLeft sh)
  | 0x09 => wr (a * b)
  | 0x0A => wr (BitVec.ofNat 32 (a.toNat * b.toNat / 2 ^ 32))
  | 0x0B =>
    let x := l.g.getD u.d 0
    let p := x.toNat * 0x9B1F4C63
    let g1 := l.g.set u.d (BitVec.ofNat 32 (p / 2 ^ 32) ^^^ b ^^^ a)
    ((⟨(g1.set u.a (BitVec.ofNat 32 p)).set u.b (b + 0x7F4A7C15), l.q⟩ : Lane), .go (i + 1))
  | 0x0C => setq (a == b)
  | 0x0D => setq (if u.f then a.slt b else a.ult b)
  | 0x0E => wr (if qs then a else b)
  | 0x0F => wr (g.consts.getD u.c 0)
  | 0x10 => wr (g.table.getD (a.toNat % 64) 0)
  | 0x11 => fp (rne fp32 (.num false (a.toNat / 256) (-24)))
  | 0x12 => fp (rne fp32 (ofInt a.toInt))
  | 0x13 => fp (addF 0 0 va vb)
  | 0x14 => fp (mulF 0 0 va vb)
  | 0x15 => fp (fmaF 0 0 va vb (decodeF fp32 c.toNat))
  | 0x16 => (l, .go (if qs != u.n then i - u.imm else i + 1))
  | _ => (l, if !u.f || qs != u.n then .out a else .go (i + 1))

/-- Run at most `fuel` steps from index i: the value, or the index of the step that would pass the bound (R294, R297). -/
def runLane (fuel : Nat) (g : Image) (l : Lane) (i : Nat) : Except Nat Word :=
  match fuel with
  | 0 => .error i
  | n + 1 =>
    match execUop g l i with
    | (_, .out w) => .ok w
    | (l', .go j) => runLane n g l' j

/-- An evaluation (R294). -/
def evalGen (g : Image) (seed : BitVec 64) (c0 c1 c2 c3 : Word) : Except Nat Word :=
  runLane g.bound g (.start c0 c1 c2 c3 seed) 0

/-- The 24-bit noise of SR rounding at a destination's coordinates (R74, R300). -/
def noise (seed : BitVec 64) (c0 c1 c2 c3 : Word) : Nat :=
  match evalGen srNoise seed c0 c1 c2 c3 with
  | .ok w => w.toNat / 256
  | .error _ => 0

/-- The pace P of an image: ceil(max(16, B) / 16) (R295). -/
def Image.pace (g : Image) : Nat := (max 16 g.bound + 15) / 16

/-- The cycle, counted from the first, in which evaluation i is admitted. DEDUCED (log entry 150): of a rate of 128 / P that is no whole
number, evaluation i is admitted in the cycle that completes it, so that n take the ceil(n P / 128) cycles of R306 (R295). -/
def Image.admission (g : Image) (i : Nat) : Nat := ((i + 1) * g.pace + 127) / 128 - 1

end Sys2Proof.Machine
end

