-- ==== Sys2Proof/Machine/Ops.lean ====
section
/-!
DEFINITION. Operations over the state: units and their registers, memory and its places, translation and checks,
budgets, events and the fault log, taking an exception and returning from one, leaving a task.
-/

namespace Sys2Proof.Machine

/-! ## Units (R7, R8) -/

/-- Whether a unit number is a cluster controller's. -/
def isCtl (u : Nat) : Bool := 384 ≤ u

/-- The die of a unit (R8). -/
def dieOf (u : Nat) : Nat := if isCtl u then (u - 384) / 4 else u / 16

/-- The global cluster of a unit (R8). -/
def clusterOf (u : Nat) : Nat := if isCtl u then u - 384 else u / 4

/-- The core number within the die (R8). -/
def coreIn (u : Nat) : Nat := u % 16

/-- The controller of a global cluster (R8). -/
def ctlOf (g : Nat) : Nat := 384 + g

/-- The cores of a global cluster. -/
def coresOf (g : Nat) : List Nat := [4 * g, 4 * g + 1, 4 * g + 2, 4 * g + 3]

/-- Whether the package has the unit (R8). -/
def unitOk (u : Nat) : Bool := u < 480

namespace State

/-- A unit of the package. -/
def unit (s : State) (u : Nat) : Unit := Tab.get .idle s.units u

/-- Replace a unit. -/
def setUnit (s : State) (u : Nat) (x : Unit) : State := { s with units := Tab.set .idle s.units u x }

/-- Change a unit. -/
def modUnit (s : State) (u : Nat) (f : Unit → Unit) : State := s.setUnit u (f (s.unit u))

/-- A die. -/
def die (s : State) (d : Nat) : Die := Tab.get .reset s.dies d

/-- Change a die. -/
def modDie (s : State) (d : Nat) (f : Die → Die) : State := { s with dies := Tab.set .reset s.dies d (f (s.die d)) }

/-- A context. -/
def ctx (s : State) (c : Nat) : Ctx := Tab.get .reset s.ctxs c

/-- Change a context. -/
def modCtx (s : State) (c : Nat) (f : Ctx → Ctx) : State := { s with ctxs := Tab.set .reset s.ctxs c (f (s.ctx c)) }

/-- Change the global block. -/
def modGlob (s : State) (f : Glob → Glob) : State := { s with glob := f s.glob }

/-- A fresh number for an entry of the lists in flight, and the state that has used it. -/
def newId (s : State) : State := { s with ids := s.ids + 1 }

/-- The package time of a die (R18). -/
def timeOf (s : State) (d : Nat) : BitVec 64 := if Config.dieAhead d then s.time + 1 else s.time

/-- The next free value, and the counter's advance (`Config.freeValue`). -/
def nextFree (s : State) : BitVec 64 × State := (Config.freeValue s.fresh, { s with fresh := s.fresh + 1 })

end State

/-! ## The unit that issues -/

/-- The number of the issuing unit. -/
def State.u (s : State) : Nat := s.cur.unit

/-- The issuing unit. -/
def State.me (s : State) : Unit := s.unit s.cur.unit

/-- The physical number of a scalar register under a rotation base (R151). -/
def physS (rotb : BitVec 4) (n : BitVec 5) : BitVec 5 :=
  if n.toNat < 16 then n else BitVec.ofNat 5 (16 + (n.toNat - 16 + rotb.toNat) % 16)

/-- A physical scalar of a unit; S0 reads 0 (R146). -/
def Unit.sreg (x : Unit) (n : BitVec 5) : BitVec 64 := if n == 0 then 0 else Tab.get 0 x.s n.toNat

/-- Write a physical scalar; a write to S0 is no write (R146). -/
def Unit.setS (x : Unit) (n : BitVec 5) (v : BitVec 64) : Unit :=
  if n == 0 then x else { x with s := Tab.set 0 x.s n.toNat v }

/-- A guard; G0 is always true (R146). -/
def Unit.guard (x : Unit) (n : BitVec 2) : Bool := n == 0 || x.g.getLsbD n.toNat

/-- Write a guard; G0 cannot be written (R146). -/
def Unit.setG (x : Unit) (n : BitVec 2) (b : Bool) : Unit :=
  if n == 0 then x
  else { x with g := if b then x.g ||| (1#4 <<< n.toNat) else x.g &&& ~~~(1#4 <<< n.toNat) }

/-- A scalar operand of the issuing operation, by its logical name (R151). -/
def State.rs (s : State) (n : BitVec 5) : BitVec 64 := s.me.sreg (physS s.cur.op.rotb n)

/-- The storage that a scalar field of the issuing operation names. -/
def State.ps (s : State) (n : BitVec 5) : BitVec 5 := physS s.cur.op.rotb n

/-- A guard read by the issuing operation. -/
def State.rg (s : State) (n : BitVec 2) : Bool := s.me.guard n

/-- The FP32 value in a scalar's low word (R167). -/
def State.rf (s : State) (n : BitVec 5) : FV := decodeF fp32 ((s.rs n).toNat % 2 ^ 32)

/-- A vector register's runs. -/
def Unit.vreg (x : Unit) (n : BitVec 6) : List Run := Tab.get [] x.eng.v n.toNat

/-- A mask register's runs. -/
def Unit.mreg (x : Unit) (n : BitVec 3) : List Run := Tab.get [] x.eng.m n.toNat

/-- A scale register's 512 bytes (R80). -/
def Unit.scale (x : Unit) (n : BitVec 2) : List Byte := Tab.get (List.replicate 512 0) x.eng.sc n.toNat

/-- A shape register (R181). -/
def Unit.shape (x : Unit) (n : BitVec 3) : Shape := Tab.get .empty x.eng.h n.toNat

/-- A residency slot (R301). -/
def Unit.gslot (x : Unit) (n : BitVec 4) : Option Image := Tab.get none x.eng.gn n.toNat

/-- A seed register (R301). -/
def Unit.seed (x : Unit) (n : BitVec 3) : BitVec 64 := Tab.get 0 x.eng.sd n.toNat

/-- A slot of a unit. -/
def Unit.slot (x : Unit) (k : Nat) : Slot := Tab.get .idle x.slots k

/-- Change a slot of a unit. -/
def Unit.modSlot (x : Unit) (k : Nat) (f : Slot → Slot) : Unit :=
  { x with slots := Tab.set .idle x.slots k (f (x.slot k)) }

/-- Change the engines' registers. -/
def Unit.modEng (x : Unit) (f : Eng → Eng) : Unit := { x with eng := f x.eng }

/-- Change the special registers. -/
def Unit.modSpr (x : Unit) (f : Spr → Spr) : Unit := { x with spr := f x.spr }

/-- Change the dispatch bookkeeping. -/
def Unit.modDisp (x : Unit) (f : Disp → Disp) : Unit := { x with disp := f x.disp }

/-- Write a value to a presence-tracked register; a shape, vector or mask register's default empties its entry. -/
def Unit.put (x : Unit) (d : Stor) (v : Val) : Unit :=
  match d, v with
  | .s n, .scalar y => x.setS n y
  | .g n, .guard b => x.setG n b
  | .v n, .runs r => x.modEng fun e => { e with v := Tab.set [] e.v n.toNat r }
  | .m n, .runs r => x.modEng fun e => { e with m := Tab.set [] e.m n.toNat r }
  | .h n, .shape h => x.modEng fun e => { e with h := Tab.set .empty e.h n.toNat h }
  | .gn n, .image i => x.modEng fun e => { e with gn := Tab.set none e.gn n.toNat i }
  | .sd n, .scalar y => x.modEng fun e => { e with sd := Tab.set 0 e.sd n.toNat y }
  | _, _ => x

/-- Whether a unit is the supervisor controller (R363). -/
def State.isSup (s : State) (u : Nat) : Bool :=
  isCtl u && s.glob.svctl.getLsbD 15 && (s.glob.svctl.toNat % 128 == u - 384)

/-- The context a unit acts for: its task's, the running one for a controller, SVCTL.CTX for the supervisor
controller (R21, R363). -/
def State.ctxOf (s : State) (u : Nat) : BitVec 3 :=
  if s.isSup u then (s.glob.svctl >>> 8).setWidth 3
  else match (s.unit u).task with
    | some t => t.ctx
    | none => s.glob.running.getD 0

/-! ## Memory -/

/-- The kinds of access (R106, R132). -/
inductive Acc where
  | rd
  | wr
  | rw
  | fetch
deriving DecidableEq, Repr

/-- KIND of a fault record (R132). -/
def Acc.kind (a : Acc) : BitVec 2 := match a with | .rd => 1 | .wr => 2 | .rw => 2 | .fetch => 3

/-- Path codes (R125). -/
def pSL : BitVec 3 := 0

/-- Matrix operand reads (R98). -/
def pMX : BitVec 3 := 1

/-- Accumulator drains (R98). -/
def pAC : BitVec 3 := 2

/-- Transfer engine (R98). -/
def pTR : BitVec 3 := 3

/-- Collective engine (R98). -/
def pCO : BitVec 3 := 4

/-- Sync engine (R98). -/
def pAT : BitVec 3 := 5

/-- Host-initiated (R98). -/
def pHI : BitVec 3 := 6

/-- No path (R132). -/
def pNone : BitVec 3 := 7

/-- Places: one number for every byte of the package and of host memory. HBM by its physical address. -/
def hbmPlace (pa : Nat) : Nat := pa

/-- A byte of a vault die (R101). -/
def vaultPlace (d p : Nat) : Nat := 2 ^ 64 + d * 2 ^ 29 + p

/-- A byte of a scratchpad (R97). -/
def scratchPlace (core off : Nat) : Nat := 2 * 2 ^ 64 + core * 2 ^ 23 + off

/-- A byte of host memory (R96). -/
def hostPlace (ha : Nat) : Nat := 3 * 2 ^ 64 + ha

/-- A byte of an accumulator row (R97). -/
def accPlace (core off : Nat) : Nat := 4 * 2 ^ 64 + core * 2 ^ 19 + off

/-- The space of a place. -/
def spaceOf (p : Nat) : Nat := p / 2 ^ 64

/-- The die that holds a place; the host port's die for host memory. -/
def placeDie (p : Nat) : Nat :=
  match spaceOf p with
  | 0 => p / 2 ^ 36
  | 1 => p % 2 ^ 64 / 2 ^ 29
  | 2 => p % 2 ^ 64 / 2 ^ 23 / 16
  | 4 => p % 2 ^ 64 / 2 ^ 19 / 16
  | _ => 0

/-- One byte of memory: an unlisted byte reads 0 (R369). -/
def rdByte (m : List Host.Cell) (p : Nat) : Byte := Tab.get 0 m p

/-- Write one byte of memory. -/
def wrByte (m : List Host.Cell) (p : Nat) (b : Byte) : List Host.Cell := Tab.set 0 m p b

/-- `n` bytes from a place up. -/
def rdBytes (m : List Host.Cell) (p n : Nat) : List Byte := (List.range n).map fun i => rdByte m (p + i)

/-- Write bytes from a place up. -/
def wrBytes (m : List Host.Cell) (p : Nat) (bs : List Byte) : List Host.Cell :=
  match bs with
  | [] => m
  | b :: r => wrBytes (wrByte m p b) (p + 1) r

/-- The canonical form of memory. -/
def Memory.wf (m : List Host.Cell) : Bool := Tab.wf 0 m

/-- A doubleword of memory. -/
def rd64 (m : List Host.Cell) (p : Nat) : BitVec 64 := BitVec.ofNat 64 (leNat (rdBytes m p 8))

/-- A word of memory. -/
def rd32 (m : List Host.Cell) (p : Nat) : Word := BitVec.ofNat 32 (leNat (rdBytes m p 4))

/-- The bytes of a list of spans, in order. -/
def rdSpans (m : List Host.Cell) (sp : List (Nat × Nat)) : List Byte := (sp.map fun x => rdBytes m x.1 x.2).flatten

/-- Write bytes to a list of spans, in order. -/
def wrSpans (m : List Host.Cell) (sp : List (Nat × Nat)) (bs : List Byte) : List Host.Cell :=
  match sp with
  | [] => m
  | (p, n) :: r => wrSpans (wrBytes m p (bs.take n)) r (bs.drop n)

/-- The compares of WAITM (R214); code 6 is BARW's "phase differs" on 32 bits (R210). -/
def watchHolds (cc : BitVec 3) (w x : BitVec 64) : Bool :=
  match cc.toNat with
  | 0 => w == x
  | 1 => w != x
  | 2 => w.ult x
  | 3 => !w.ult x
  | 4 => w.slt x
  | 5 => !w.slt x
  | _ => w.setWidth 32 != x.setWidth 32

/-- Examine a watch that stands at its port against memory (R214). -/
def Watch.check (m : List Host.Cell) (ids : Nat) (w : Watch) : Watch :=
  if w.armed && !w.met && watchHolds w.cc (BitVec.ofNat 64 (leNat (rdBytes m w.place w.bytes))) w.x then
    { w with met := true, sent := ids }
  else w

/-- Whether two ranges of bytes meet. -/
def overlaps (p n q k : Nat) : Bool := p < q + k && q < p + n

/-- Write bytes to memory at a port: the ports examine the watched words written (R214). -/
def State.write (s : State) (p : Nat) (bs : List Byte) : State :=
  let m := wrBytes s.mem p bs
  { s with mem := m,
           watches := s.watches.map fun w => if overlaps w.place w.bytes p bs.length then w.check m s.ids else w }

/-- Write bytes to spans, all in one step. DESIGN CHOICE (log entry 107): a store wider than a granule may perform in parts before
this (`State.performPart`), and so may a tile of an MDRS, the words of a packet (`State.splitPacket`), the reads of transfers and calls
(`State.part`) and the operands of the matrix engine (`State.operandPart`); records written perform whole (R117, R127). -/
def State.writeSpans (s : State) (sp : List (Nat × Nat)) (bs : List Byte) : State :=
  match sp with
  | [] => s
  | (p, n) :: r => (s.write p (bs.take n)).writeSpans r (bs.drop n)

/-! ## Tiles (R100) -/

/-- The tile number of a scratchpad place, over all cores. -/
def tileOf (p : Nat) : Nat := p % 2 ^ 64 / 4096

/-- The tiles that a scratchpad range touches. -/
def tilesOf (p n : Nat) : List Nat :=
  if spaceOf p == 2 && n != 0 then
    (List.range ((p % 2 ^ 64 + n - 1) / 4096 - p % 2 ^ 64 / 4096 + 1)).map fun i => tileOf p + i
  else []

/-- The tiles of a list of spans. -/
def tilesOfSpans (sp : List (Nat × Nat)) : List Nat := (sp.map fun x => tilesOf x.1 x.2).flatten.eraseDups

/-- A tile's bit, and how often it has been written. -/
def State.tile (s : State) (t : Nat) : Bool × Nat := Tab.get (true, 0) s.tiles t

/-- Whether a tile is full (R100). -/
def State.isFull (s : State) (t : Nat) : Bool := (s.tile t).1

/-- Whether a read finds a tile full: a read that waits is examined again in the cycle after the bit is set (R100). DESIGN CHOICE
(log entry 126): so is one that reaches the tile for the first time in the cycle of the set. -/
def State.present (s : State) (t : Nat) : Bool := s.isFull t && !s.lately.contains t

/-- Write a tile's full/empty bit. -/
def State.setTile (s : State) (t : Nat) (b : Bool) : State :=
  { s with tiles := Tab.set (true, 0) s.tiles t (b, (s.tile t).2 + 1),
           lately := if b && !s.isFull t then t :: s.lately else s.lately }

/-- Write the bits of tiles. -/
def State.setTiles (s : State) (ts : List Nat) (b : Bool) : State := ts.foldl (fun s t => s.setTile t b) s

/-- Whether a read finds every tile of a list full. -/
def State.allFull (s : State) (ts : List Nat) : Bool := ts.all s.present

/-! ## Messages to the host, and its writes -/

/-- A message to the host. -/
def State.say (s : State) (x : HostMsg) : State := { s with hostOut := s.hostOut ++ [x] }

/-! ## Translation and address checks (R96 to R110) -/

/-- A fault that an operation meets: code, subcode and the engine words of its record (R132, R133). -/
structure Flt where
  code : Byte
  sub : Byte
  info0 : BitVec 64
  info1 : BitVec 64
  info2 : BitVec 64
  info3 : BitVec 64
  xinfo : BitVec 27
  path : BitVec 3
  kind : BitVec 2
deriving DecidableEq, Repr

/-- A fault with INFO0 only. -/
def Flt.of (code sub : Byte) (info0 : BitVec 64) : Flt := ⟨code, sub, info0, 0, 0, 0, 0, pNone, 0⟩

/-- PROTECTION with a subcode (R136). -/
def prot (sub : Byte) (info0 : BitVec 64) : Flt := .of 0x19 sub info0

/-- ALIGNMENT: the address and the access size (R116, R133). -/
def align (va : BitVec 64) (size : Nat) : Flt := { Flt.of 0x1A 0 va with xinfo := BitVec.ofNat 27 size }

/-- An access fault with its path and kind. -/
def Flt.on (f : Flt) (path : BitVec 3) (a : Acc) : Flt := { f with path := path, kind := a.kind }

/-- The index bits of a level (R104). -/
def ptIndex (lvl va : Nat) : Nat :=
  match lvl with
  | 4 => va / 2 ^ 48 % 256
  | 3 => va / 2 ^ 39 % 512
  | 2 => va / 2 ^ 30 % 512
  | 1 => va / 2 ^ 21 % 512
  | _ => va / 2 ^ 16 % 32

/-- The page size of a leaf at a level (R104). -/
def pageSize (lvl : Nat) : Nat := match lvl with | 0 => 2 ^ 16 | 1 => 2 ^ 21 | _ => 2 ^ 30

/-- Whether a page-table entry is malformed at a level (R105). -/
def pteBad (lvl e : Nat) : Bool :=
  let ty := e % 4
  let addr := e / 4096 % 2 ^ 29 * 4096
  e / 2 ^ 41 != 0 || e / 32 % 128 != 0 || ty == 3 || (ty == 1 && lvl == 0) || (ty == 2 && lvl ≥ 3)
    || (ty == 2 && addr % pageSize lvl != 0)
    || addr / 2 ^ 36 ≥ 24 || addr % 2 ^ 36 ≥ 48 * 2 ^ 30

/-- A walk's end: a leaf's entry and level, or the subcode at which it stopped (R106); 16 where the entry lies beyond a
failed link. -/
structure WalkEnd where
  sub : Nat
  entry : Nat
  eaddr : Nat
  lvl : Nat
deriving DecidableEq, Repr

/-- Walk the page tables from a table at a level down (R106): `cut` tells the stacks beyond a failed link (R13), `bad` the
entries that cannot be read (R110). DESIGN CHOICE (log entry 106): a root whose stack or offset HBM does not have, which R103 does not
exclude, is read as unlisted bytes, zero; and a table read that needs a failed link raises PROTECTION 0x01 as any access. -/
def walk (m : List Host.Cell) (cut : Nat → Bool) (bad : List Nat) (lvl t va : Nat) : WalkEnd :=
  let a := t + 8 * ptIndex lvl va
  let e := (rd64 m (hbmPlace a)).toNat
  if cut (a / 2 ^ 36) then ⟨16, e, a, lvl⟩
  else if bad.contains a then ⟨5, e, a, lvl⟩
  else if pteBad lvl e then ⟨3, e, a, lvl⟩
  else if e % 4 == 0 then ⟨1, e, a, lvl⟩
  else if e % 4 == 2 then ⟨0, e, a, lvl⟩
  else match lvl with
    | 0 => ⟨3, e, a, 0⟩
    | l + 1 => walk m cut bad l (e / 4096 % 2 ^ 29 * 4096) va

/-- Whether a leaf's bits permit an access; a returning atomic needs both RD and W (R106). -/
def permits (a : Acc) (rd wr x : Bool) : Bool :=
  match a with | .rd => rd | .wr => wr | .rw => rd && wr | .fetch => x

/-- The root of a context's page tables (R103). -/
def ptRoot (c : Ctx) : Nat := c.ptroot.toNat / 4096 % 2 ^ 29 * 4096

/-- Whether TLBINV's page and an entry meet (R108). -/
def tlbDropped (inv : BitVec 64) (e : TlbEntry) : Bool :=
  let page := inv.toNat / 2 ^ 16 * 256 % 2 ^ 56
  e.ctx == inv.setWidth 3 && (inv.getLsbD 6 || overlaps e.va e.size page (2 ^ 16))

/-- The cached translation of an address on a die, if the die uses one. While an invalidation that drops it runs, the
old or the new mapping may be used (R107, R108). -/
def State.tlbHit (s : State) (d : Nat) (c : BitVec 3) (va : Nat) : Option TlbEntry :=
  match (s.die d).tlb.find? fun e => e.ctx == c && e.va ≤ va && va < e.va + e.size with
  | none => none
  | some e =>
    let inv := (s.ctx c.toNat).tlbinv
    if inv.getLsbD 7 && tlbDropped inv e && !Config.oldMapping s.ids s.cycle d (va / 65536) then none else some e

/-- The dies a route passes, in dimension order: along the row, then along the column (R13). -/
def route (a b : Nat) : List Nat :=
  let ca := a % 6
  let cb := b % 6
  let row := if ca ≤ cb then (List.range (cb - ca + 1)).map fun i => a / 6 * 6 + (ca + i)
    else (List.range (ca - cb + 1)).map fun i => a / 6 * 6 + (ca - i)
  let ra := a / 6
  let rb := b / 6
  let col := if ra ≤ rb then (List.range (rb - ra)).map fun i => (ra + 1 + i) * 6 + cb
    else (List.range (ra - rb)).map fun i => (ra - 1 - i) * 6 + cb
  row ++ col

/-- Hops between two dies (R13). -/
def hops (a b : Nat) : Nat := (route a b).length - 1

/-- Whether the route between two dies needs a failed link (R13). -/
def State.routeBad (s : State) (a b : Nat) : Bool :=
  let r := route a b
  (r.zip (r.drop 1)).any fun p => s.glob.links.contains p || s.glob.links.contains (p.2, p.1)

/-- A write of the host to a register outside the global block, on a die for a register of its block: in BOOTFAIL it completes
with Unsupported Request (R365). DESIGN CHOICE (log entry 99): one whose route from the host port's die needs a failed link (R13) is
discarded; it belongs to no context, and nothing is logged. -/
def State.hostReg (s : State) (d : Nat) (f : State → State) : State :=
  if s.glob.bootfail then s.say .unsupported else if s.routeBad 0 d then s else f s

/-- Walk the tables of a context from a die. -/
def State.walkFrom (s : State) (d : Nat) (c : BitVec 3) (va : Nat) : WalkEnd :=
  walk s.mem (s.routeBad d) s.glob.badEntries 4 (ptRoot (s.ctx c.toNat)) va

/-- Translate one HBM page's address: the physical address, and the entry to cache (R106, R107). DESIGN CHOICE (log entry 105): of a
forbidden access that hits the TLB, where no walk was made, INFO1 and the level are those of a walk of the present tables. -/
def State.xlatePage (s : State) (d : Nat) (c : BitVec 3) (va : Nat) (a : Acc) :
    Except Flt (Nat × Option TlbEntry) :=
  let w := s.walkFrom d c va
  let fl := fun (sub : Nat) => Except.error (if sub == 16 then prot 1 (BitVec.ofNat 64 va) else
    { Flt.of 0x18 (BitVec.ofNat 8 sub) (BitVec.ofNat 64 va) with
      info1 := BitVec.ofNat 64 w.eaddr, xinfo := BitVec.ofNat 27 w.lvl })
  match s.tlbHit d c va with
  | some e => if permits a e.rd e.wr e.x then .ok (e.pa + (va - e.va), none) else fl 2
  | none =>
    if w.sub != 0 then fl w.sub
    else
      let rd := w.entry / 4 % 2 == 1
      let wr := w.entry / 8 % 2 == 1
      let x := w.entry / 16 % 2 == 1
      let size := pageSize w.lvl
      let pa := w.entry / 4096 % 2 ^ 29 * 4096
      if permits a rd wr x then .ok (pa + va % size, some ⟨c, va - va % size, size, pa, rd, wr, x⟩) else fl 2

/-- Remember a translation in a die's TLB (R107). DESIGN CHOICE (log entry 104): of 16,384 entries the oldest makes room. -/
def State.tlbAdd (s : State) (d : Nat) (es : List TlbEntry) : State :=
  s.modDie d fun x =>
    let l := x.tlb ++ es.filter fun e => !x.tlb.contains e
    { x with tlb := l.drop (l.length - 16384) }

/-- The pieces of a range, one for each 64 KiB page it touches. -/
def pageParts (va n : Nat) : List (Nat × Nat) :=
  if n == 0 then []
  else (List.range ((va + n - 1) / 65536 - va / 65536 + 1)).map fun i =>
    let lo := max va ((va / 65536 + i) * 65536)
    let hi := min (va + n) ((va / 65536 + i + 1) * 65536)
    (lo, hi - lo)

/-- Whether a path reaches a space (R98); `star` is STAR's read of accumulator rows. -/
def pathOk (path : BitVec 3) (space : Nat) (a : Acc) (star : Bool) : Bool :=
  match path.toNat, space with
  | 0, 4 => star && a == .rd
  | 0, _ => space ≤ 3
  | 1, 1 => true
  | 1, 2 => true
  | 2, 2 => true
  | 3, 4 => a == .rd
  | 3, _ => space ≤ 3
  | 4, 1 => true
  | 4, 2 => true
  | 5, _ => space ≤ 2
  | 6, _ => space ≤ 2
  | _, _ => false

/-- What a checked access reaches: its spans, and translations to cache. -/
structure Reach where
  spans : List (Nat × Nat)
  tlb : List TlbEntry
deriving DecidableEq, Repr

/-- One page of an HBM range: translated, and its stack not beyond a failed link (R13, R106). -/
def State.reachPage (s : State) (d : Nat) (c : BitVec 3) (a : Acc) (p : Nat × Nat) : Except Flt Reach :=
  if p.1 ≥ 2 ^ 56 then .error (Flt.of 0x18 4 (BitVec.ofNat 64 p.1))
  else match s.xlatePage d c p.1 a with
    | .error f => .error f
    | .ok (pa, e) =>
      if s.routeBad d (pa / 2 ^ 36) then .error (prot 1 (BitVec.ofNat 64 p.1)) else .ok ⟨[(hbmPlace pa, p.2)], e.toList⟩

/-- Two ranges checked together: the lower code is reported (R38, R110); DEDUCED (log entry 40): of equal codes the lower subcode, and of
equal subcodes the first. -/
def bothReach (r q : Except Flt Reach) : Except Flt Reach :=
  match r, q with
  | .ok r, .ok q => .ok ⟨r.spans ++ q.spans, r.tlb ++ q.tlb⟩
  | .ok _, .error f => .error f
  | .error f, .ok _ => .error f
  | .error f, .error g => .error (if g.code.toNat < f.code.toNat || (g.code == f.code && g.sub.toNat < f.sub.toNat) then g else f)

/-- Check an HBM range page by page (R106, R110). -/
def State.reachHbm (s : State) (d : Nat) (c : BitVec 3) (va n : Nat) (a : Acc) : Except Flt Reach :=
  (pageParts va n).foldl (fun r p => bothReach r (s.reachPage d c a p)) (.ok ⟨[], []⟩)

/-- Check a scratchpad or accumulator address: the core that holds it, or the subcode (R97). -/
def holderOf (u : Nat) (acc : Bool) (va : Nat) : Except Byte Nat :=
  let d := va / 2 ^ 29 % 32
  let loc := va / 2 ^ 28 % 2 == 1
  let core := va / 2 ^ 23 % 16
  if d ≥ 24 then .error 1
  else if loc && u ≥ 384 then .error 1
  else if va / 2 ^ 34 % 2 ^ 26 != 0 || va / 2 ^ 27 % 2 != 0 || (loc && (d != 0 || core != 0))
      || (acc && va / 2 ^ 19 % 16 != 0) then .error 3
  else .ok (if loc then u else d * 16 + core)

/-- Check a scratchpad or accumulator address as a die reaches it: the core that holds it, or the lowest subcode that holds, an absent
unit's where the route to the die that it names has failed (R13, R97). -/
def State.holder (s : State) (u d : Nat) (acc : Bool) (va : Nat) : Except Byte Nat :=
  match holderOf u acc va with
  | .ok core => if s.routeBad d (core / 16) then .error 1 else .ok core
  | .error sub => .error (if va / 2 ^ 28 % 2 == 0 && va / 2 ^ 29 % 32 < 24 && s.routeBad d (va / 2 ^ 29 % 32) then 1 else sub)

/-- Whether enabled windows permit every host page from `p` to `last`, eight windows at most in turn (R109). -/
def hostPages (ws : Tab (BitVec 128)) (wr : Bool) (fuel p last : Nat) : Bool :=
  match fuel with
  | 0 => false
  | k + 1 =>
    last < p || match ws.find? fun h => h.2.getLsbD 0 && (!wr || h.2.getLsbD 1) && decide (h.2.toNat / 4096 % 2 ^ 48 ≤ p)
        && decide (p ≤ h.2.toNat / 2 ^ 76 % 2 ^ 48) with
      | some h => hostPages ws wr k (h.2.toNat / 2 ^ 76 % 2 ^ 48 + 1) last
      | none => false

/-- Translate and check an access of `n` bytes by unit `u` (die `d`) for context `c` on a path: every byte it touches,
or the fault it raises (R96 to R110). Among PROTECTION's subcodes the lowest is reported (DEDUCED, log entry 40). -/
def State.reach (s : State) (u d : Nat) (c : BitVec 3) (path : BitVec 3) (a : Acc) (star : Bool) (va : BitVec 64)
    (n : Nat) : Except Flt Reach :=
  let x := va.toNat
  let sp := x / 2 ^ 60
  let bad := fun (sub : Byte) => Except.error ((prot sub va).on path a)
  let one := fun (p : Nat) => Except.ok (⟨[(p, n)], []⟩ : Reach)
  let r : Except Flt Reach := match sp with
    | 0 =>
      if x % 2 ^ 60 / 2 ^ 56 != 0 then .error (Flt.of 0x18 4 va)
      else match s.reachHbm d c (x % 2 ^ 56) n a with
        | .error f => .error f
        | .ok r => if pathOk path 0 a star then .ok r else bad 4
    | 1 =>
      let t := x / 2 ^ 29 % 32
      let off := x % 2 ^ 29
      let w := (Tab.get 0 (s.ctx c.toNat).vwin t).toNat
      let p := w % 512 * 2 ^ 20 + off
      if t ≥ 24 || s.routeBad d t then bad 1
      else if x / 2 ^ 34 % 2 ^ 26 != 0 then bad 3
      else if !pathOk path 1 a star || (path == pMX && t != d) then bad 4
      else if off + n > w / 2 ^ 32 % 1024 * 2 ^ 20 || off ≥ w / 2 ^ 32 % 1024 * 2 ^ 20 then bad 5
      else if path == pMX && !(p / 2 ^ 25 == coreIn u && (p + n - 1) / 2 ^ 25 == coreIn u) then bad 4
      else one (vaultPlace t p)
    | 2 =>
      match s.holder u d false x with
      | .error sub => bad sub
      | .ok core =>
        if x % 2 ^ 23 + n > 2 ^ 23 then bad 3
        else if !pathOk path 2 a star || ((path == pMX || path == pAC) && core != u) then bad 4
        else one (scratchPlace core (x % 2 ^ 23))
    | 3 =>
      if s.routeBad d 0 then bad 1
      else if !pathOk path 3 a star then bad 4
      else if hostPages (s.ctx c.toNat).hwin (a == .wr || a == .rw) 9 (x % 2 ^ 60 / 4096) ((x % 2 ^ 60 + (n - 1)) / 4096) then
        one (hostPlace (x % 2 ^ 60))
      else bad 5
    | 4 =>
      match s.holder u d true x with
      | .error sub => bad sub
      | .ok core =>
        if x % 2 ^ 19 + n > 2 ^ 19 then bad 3
        else if !pathOk path 4 a star then bad 4
        else one (accPlace core (x % 2 ^ 19))
    | _ => bad 2
  match r with
  | .error f => .error (f.on path a)
  | .ok r => .ok r

/-- Check several ranges; of their faults the one that `bothReach` names is reported (R38, R192). -/
def State.reachAll (s : State) (u d : Nat) (c : BitVec 3) (path : BitVec 3) (a : Acc) (star : Bool)
    (rs : List (BitVec 64 × Nat)) : Except Flt Reach :=
  rs.foldl (fun r p => bothReach r (s.reach u d c path a star p.1 p.2)) (.ok ⟨[], []⟩)

/-- The checks of an access of the issuing operation: its addresses, then its alignment (R111, R116). -/
def State.access (s : State) (path : BitVec 3) (a : Acc) (star : Bool) (size : Nat) (rs : List (BitVec 64 × Nat)) :
    Except Flt Reach :=
  match s.reachAll s.u (dieOf s.u) (s.ctxOf s.u) path a star rs with
  | .error f => .error f
  | .ok r =>
    match rs.find? fun p => p.1.toNat % size != 0 with
    | some p => .error ((align p.1 size).on path a)
    | none => .ok r

/-! ## Latencies (R12, R107, R174) -/

/-- The core whose home vault a vault place lies in (R8). -/
def vaultCore (p : Nat) : Nat := p % 2 ^ 64 / 2 ^ 29 * 16 + p % 2 ^ 29 / 2 ^ 25

/-- Whether a place is direct to a core: its own scratchpad or home vault (R119). -/
def isDirect (u p : Nat) : Bool :=
  !isCtl u && ((spaceOf p == 2 && p % 2 ^ 64 / 2 ^ 23 == u) || (spaceOf p == 1 && vaultCore p == u))

/-- Places of a range of bytes, one at least in every home vault and scratchpad that it touches: its first and last byte and one every
32 MiB between them (R8). -/
def spanPoints (p : Nat × Nat) : List Nat :=
  if p.2 == 0 then [p.1] else (List.range ((p.2 - 1) / 2 ^ 25 + 1)).map (fun i => p.1 + i * 2 ^ 25) ++ [p.1 + p.2 - 1]

/-- Whether a range of bytes meets what is direct to a core. -/
def meetsDirect (u : Nat) (p : Nat × Nat) : Bool := (spanPoints p).any (isDirect u)

/-- The term of R12 for another die. -/
def dieTerm (a b : Nat) : Nat := if a == b then 0 else 400 + 30 * (hops a b - 1)

/-- Load-to-use latency from a unit to a place (R12, R107, R174): the earliest a result can be present. -/
def latency (u p : Nat) : Nat :=
  let d := dieOf u
  match spaceOf p with
  | 0 => 350 + dieTerm d (placeDie p)
  | 1 => if vaultCore p == u && !isCtl u then 48 else if placeDie p == d then 140 else dieTerm d (placeDie p)
  | 3 => 2000
  | 2 =>
    let c := p % 2 ^ 64 / 2 ^ 23
    if c == u then 12 else if c / 4 == clusterOf u then 40 else if c / 16 == d then 140 else dieTerm d (c / 16)
  | _ =>
    let c := p % 2 ^ 64 / 2 ^ 19
    if c == u then 12 else if c / 4 == clusterOf u then 40 else if c / 16 == d then 140 else dieTerm d (c / 16)

/-- Bytes a path to a place moves in a cycle (R174). -/
def pathWidth (u p : Nat) : Nat := if isDirect u p then 512 else if spaceOf p == 3 then 64 else 256

/-- Round a quotient up. -/
def ceilDiv (a b : Nat) : Nat := (a + b - 1) / b

/-- Occupancy of a memory operation (R174). -/
def occupancy (u : Nat) (sp : List (Nat × Nat)) (entries : Nat) : Nat :=
  let on := fun (w : Nat) => ceilDiv (sp.foldl (fun (a : Nat) (x : Nat × Nat) => if pathWidth u x.1 == w then a + x.2 else a) 0) w
  max (max 1 (ceilDiv entries 16)) (on 512 + on 256 + on 64)

/-- The longest latency of a list of spans. -/
def spanLatency (u : Nat) (sp : List (Nat × Nat)) : Nat := sp.foldl (fun l x => max l (latency u x.1)) 0

/-- Levels walked for the translations that a check found in no TLB, the longest walk of them (R107). -/
def Reach.levels (r : Reach) : Nat :=
  r.tlb.foldl (fun m e => max m (if e.size == 2 ^ 16 then 5 else if e.size == 2 ^ 21 then 4 else 3)) 0

/-- The longest latency of a checked access: a miss adds one HBM read for each level walked (R107). DESIGN CHOICE (log entry 116): such
a read counts as one of the stack beside the die, the least that it can be. -/
def Reach.latency (r : Reach) (u : Nat) : Nat := spanLatency u r.spans + 350 * r.levels

/-- The image that a name gives in a context: the built-in one or a registered one (R299, R300, R304). -/
def State.imageNamed (s : State) (c : BitVec 3) (name : BitVec 64) : Option Image :=
  if name == srNoiseName then some srNoise else (s.ctx c.toNat).registry.find? fun g => g.name == name

/-- The time of a copy of an image from the registry to a slot of a unit (R304). -/
def copyTime (u : Nat) (g : Image) : Nat := 350 + dieTerm 0 (dieOf u) + ceilDiv g.bytes 256

/-! ## Budgets (R367, R368) -/

/-- A budget register's key: master and resource. -/
def budgetKey (m r : Nat) : Nat := 4 * m + r

/-- What spans use of vault port cycles and of HBM (64-byte units) (R367), counted over one access. -/
def spanUse (sp : List (Nat × Nat)) (r : Nat) : Nat :=
  let bytes := fun (k : Nat) => sp.foldl (fun (a : Nat) (x : Nat × Nat) => if spaceOf x.1 == k then a + x.2 else a) 0
  if r == 0 then ceilDiv (bytes 1) 512 else if r == 1 then ceilDiv (bytes 0) 64 else 0

/-- Whether a use stays within a budget (R368). -/
def Budget.fits (b : Budget) (n : Nat) : Bool := b.limit == 0xFFFFFFFF || n == 0 || b.use.toNat + n ≤ b.limit.toNat

/-- Add a use, saturating (R367). -/
def Budget.add (b : Budget) (n : Nat) : Budget := { b with use := BitVec.ofNat 31 (min (2 ^ 31 - 1) (b.use.toNat + n)) }

/-- A budget register of a die. -/
def State.budget (s : State) (d m r : Nat) : Budget := Tab.get .reset (s.die d).budgets (budgetKey m r)

/-- Change a budget register. -/
def State.modBudget (s : State) (d m r : Nat) (f : Budget → Budget) : State :=
  s.modDie d fun x => { x with budgets := Tab.set .reset x.budgets (budgetKey m r) (f (s.budget d m r)) }

/-- The first resource, of those listed with amounts, whose budget an access would pass (R368). -/
def State.overBudget (s : State) (d m : Nat) (use : List (Nat × Nat)) : Option Nat :=
  (use.find? fun p => !(s.budget d m p.1).fits p.2).map (·.1)

/-- Count the use of an access (R367). -/
def State.charge (s : State) (d m : Nat) (use : List (Nat × Nat)) : State :=
  use.foldl (fun s p => if p.2 == 0 then s else s.modBudget d m p.1 (·.add p.2)) s

/-- The vault and HBM use of spans. -/
def useOf (sp : List (Nat × Nat)) : List (Nat × Nat) := [(0, spanUse sp 0), (1, spanUse sp 1)]

/-! ## Records, log and events (R132, R141, R216) -/

/-- Whether a task is one of a group. -/
def Task.isOf (t : Task) (g : Group) : Bool := t.ctx == g.ctx && t.group == g.recd && t.num == g.num

/-- Whether two records are of one index of one group, whatever the attempt and the core. -/
def Task.same (a b : Task) : Bool := a.ctx == b.ctx && a.group == b.group && a.num == b.num && a.index == b.index

/-- Whether two records are of one launch of a group. -/
def Group.same (a b : Group) : Bool := a.ctx == b.ctx && a.recd == b.recd && a.num == b.num

/-- The group of a task, if it is live. -/
def State.groupOf (s : State) (t : Task) : Option Group := s.groups.find? t.isOf

/-- BUNDLE of a code address: [12] half, [11:0] bundle; zero on a stream. R132 says so of the fetch fault of a stream; DEDUCED
(log entry 109): the same holds of a precise fault of an operation that came from a stream, which has no bundle number. -/
def bundleField (stream : Bool) (addr : BitVec 64) : Nat := if stream then 0 else addr.toNat % 2 ^ 13

/-- The fields of a record that say who raised it. -/
structure Who where
  unit : Nat
  ctx : BitVec 3
  task : Option Task
  slot : Nat
  async : Bool
  sup : Bool
  stream : Bool
  addr : BitVec 64
  resume : BitVec 64
deriving DecidableEq, Repr

/-- The die whose counter stamps a record: the unit's; DESIGN CHOICE (log entry 100): for a host access, which names no unit (0x1FF),
die 0, where the host port is (R15). -/
def stampDie (u : Nat) : Nat := if unitOk u then dieOf u else 0

/-- A fault record (R132), as 512 bits. -/
def State.mkRecord (s : State) (w : Who) (f : Flt) : BitVec 512 :=
  let tag : Nat := match w.task with
    | some t => t.tag.toNat
    | none => 0
  let rpl : Nat := match w.task with | some t => if t.replay then 1 else 0 | none => 0
  let idx : Nat := match w.task with | some t => t.index.toNat | none => 0xFFFFFFFF
  let lo := f.code.toNat + f.sub.toNat * 2 ^ 8 + (if w.sup then 2 ^ 16 else 0) + rpl * 2 ^ 18
    + bundleField w.stream w.addr * 2 ^ 19 + (if w.async then 2 ^ 32 else 0) + w.slot % 8 * 2 ^ 33
    + w.ctx.toNat * 2 ^ 36 + (if unitOk w.unit then w.unit else 0x1FF) * 2 ^ 39 + tag * 2 ^ 48
  let hi := f.xinfo.toNat + f.kind.toNat * 2 ^ 27 + f.path.toNat * 2 ^ 29 + idx * 2 ^ 32
  BitVec.ofNat 512 (lo + hi * 2 ^ 64 + (s.timeOf (stampDie w.unit)).toNat * 2 ^ 128 + w.resume.toNat * 2 ^ 192
    + f.info0.toNat * 2 ^ 256 + f.info1.toNat * 2 ^ 320 + f.info2.toNat * 2 ^ 384 + f.info3.toNat * 2 ^ 448)

/-- A controller's event queue has room (R30). -/
def State.eventRoom (s : State) (u : Nat) : Bool := (s.unit u).events.length < 256

/-- Put an event in a controller's queue. -/
def State.postEvent (s : State) (u : Nat) (e : Event) : State :=
  s.modUnit u fun x => { x with events := x.events ++ [e] }

/-- Post a group's completion event, behind those that already wait for room in the queue (R30). -/
def State.postDone (s : State) (u : Nat) (e : Event) : State :=
  if s.eventRoom u && (s.unit u).owed.isEmpty then s.postEvent u e
  else s.modUnit u fun x => { x with owed := x.owed ++ [e] }

/-- Count a lost record in FLCTL, saturating (R30, R141). -/
def flLost (v : BitVec 64) : BitVec 64 := if v.toNat / 2 ^ 48 == 0xFFFF then v else v + (1#64 <<< 48)

/-- The ring size of FLCTL: values 0 to 3 read as 4 (R141). -/
def flSize (v : BitVec 64) : Nat := 2 ^ (max 4 (v.toNat % 16))

/-- A fault event in a controller's queue, or held by the die's fault unit; `none` where both are full (R30). -/
def Unit.takeFault (x : Unit) (e : Event) : Option Unit :=
  if x.events.length < 256 && x.held.isEmpty then some { x with events := x.events ++ [e] }
  else if x.held.length < 4096 then some { x with held := x.held ++ [e] }
  else none

/-- A controller's unit as a context holds it: live, or saved while the context does not run; the supervisor controller,
which belongs to no context, is live (R37, R363). -/
def State.ctlHome (s : State) (c u : Nat) : Option Saved :=
  if s.isSup u || s.glob.running.any (fun r => r.toNat == c) then none else (s.ctx c).saved

/-- Post a fault event of a context: in the controller's queue, live or saved, or held by the die's fault unit, or lost. -/
def State.postFault (s : State) (c : Nat) (u : Nat) (e : Event) : State :=
  let lost := s.modCtx c fun x => { x with flctl := flLost x.flctl }
  match s.ctlHome c u with
  | none => match (s.unit u).takeFault e with
    | some x => s.setUnit u x
    | none => lost
  | some v => match (Tab.get .idle v.units u).takeFault e with
    | some x => s.modCtx c fun y => { y with saved := some { v with units := Tab.set .idle v.units u x } }
    | none => lost

/-- The controller that a fault's event goes to (R135); the controllers of a context that has not run have not been started (R360). -/
def State.faultCtl (s : State) (w : Who) : Option Nat :=
  match w.task with
  | some t => if isCtl t.ctl && unitOk t.ctl then some t.ctl else none
  | none =>
    if isCtl w.unit && unitOk w.unit then some w.unit
    else
      let v := (Tab.get 0 (s.ctx w.ctx.toNat).csctl 0).toNat
      let u := 384 + v / 2 ^ 64 % 128
      let ran := s.glob.running == some w.ctx || (s.ctx w.ctx.toNat).saved.any fun k => (Tab.get .idle k.units u).on
      if v % 2 == 1 && ran then some u else none

/-- A type 0x5 event (R216). -/
def faultEvent (w : Who) (tag : Nat) (f : Flt) (drop : Bool) (idx : Nat) : Event :=
  let id : Nat := match w.task with | some t => t.index.toNat | none => 0xFFFFFFFF
  ⟨BitVec.ofNat 64 (id + tag * 2 ^ 32 + 5 * 2 ^ 60),
   BitVec.ofNat 64 ((f.code.toNat + f.sub.toNat * 256) * 2 ^ 16 + idx * 2 ^ 32 + (if drop then 2 ^ 48 else 0)
     + (if unitOk w.unit then w.unit else 0x1FF) * 2 ^ 55)⟩

/-- Write a record to the context's fault log and post its event (R112, R135, R141). -/
def State.logRecord (s : State) (w : Who) (f : Flt) (r : BitVec 512) : State :=
  let c := s.ctx w.ctx.toNat
  let fl := c.flctl
  let wi := fl.toNat / 2 ^ 32 % 2 ^ 16
  let ri := fl.toNat / 2 ^ 16 % 2 ^ 16
  let full := (wi + 2 ^ 16 - ri) % 2 ^ 16 == flSize fl
  let at' := c.flbase + BitVec.ofNat 64 (64 * (wi % flSize fl))
  let dest := if at'.toNat / 2 ^ 60 ≤ 1 then s.reach 0x1FF (stampDie w.unit) w.ctx pHI .wr false at' 64
    else .error (prot 4 at')
  let tag : Nat := match w.task with
    | some t => t.tag.toNat
    | none => 0
  let post := fun (s : State) (drop : Bool) =>
    match s.faultCtl w with
    | some u => s.postFault w.ctx.toNat u (faultEvent w tag f drop wi)
    | none => s
  match full, dest with
  | false, .ok q =>
    let s := s.writeSpans q.spans (leBytes 64 r.toNat)
    let s := s.modCtx w.ctx.toNat fun x =>
      { x with flctl := BitVec.ofNat 64 (fl.toNat - wi * 2 ^ 32 + (wi + 1) % 2 ^ 16 * 2 ^ 32) }
    post s false
  | _, _ => post (s.modCtx w.ctx.toNat fun x => { x with flctl := flLost x.flctl }) true

/-- Log a fault (R112). -/
def State.logFault (s : State) (w : Who) (f : Flt) : State := s.logRecord w f (s.mkRecord w f)

/-- The issuing operation as the source of an asynchronous fault. -/
def State.whoCur (s : State) (async : Bool) : Who :=
  ⟨s.u, s.ctxOf s.u, s.me.task, s.cur.slot, async, s.me.spr.sup, s.me.stream, s.cur.op.addr, 0⟩

/-- Whether a transfer operation has still to complete, to perform a write or to set a tile (R129, R313, R317). -/
def State.xferOpen (s : State) (x : Xfer) : Bool :=
  !x.recd || !x.left.isEmpty || s.flights.any fun f => x.writes.contains f.id

/-! ## Issue bookkeeping (R44, R51) -/

/-- The number of the oldest bundle whose operation of slot k has not issued; the next bundle's if none waits (R45). -/
def Unit.headSeq (x : Unit) (k : Nat) : Nat :=
  match (x.slot k).queue with
  | [] => x.disp.seq
  | o :: _ => o.seq

/-- The slots a unit has (R9, R40). -/
def slotsOf (u : Nat) : List Nat := if isCtl u then [1, 6] else [1, 2, 3, 4, 5, 6, 7]

/-- Remove the pending marks of one slot's operation. -/
def Disp.unmark (d : Disp) (seq k : Nat) (p : Stor → Bool) : Disp :=
  { d with marks := d.marks.filter fun m => !(m.1 == seq && m.2.1 == k && p m.2.2) }

/-- Whether an access or evaluation may still raise a precise fault when its data or its port is reached (R134, R192). -/
def Flight.mayFault (f : Flight) : Bool :=
  match f.what with
  | .load .. => true
  | .snap .. => true
  | .bound .. => true
  | .req (.grow _) .. => true
  | .req (.launch live) .. => live
  | _ => false

/-- The oldest bundle whose fault may still be found: one not issued by every slot, or one of an access or evaluation in
flight (R134). -/
def State.oldestOpen (s : State) (u : Nat) : Nat :=
  let x := s.unit u
  let lo := (slotsOf u).foldl (fun m k => min m (x.headSeq k)) x.disp.seq
  s.flights.foldl (fun m f => if f.unit == u && f.task == x.task && f.mayFault then min m f.seq else m) lo

/-- The oldest bundle marked D of which, and of all later ones, nothing has issued with effect (R32). -/
def drainBundle (bs : List Bun) : Option Bun :=
  match bs with
  | [] => none
  | b :: r => if b.drain && (b :: r).all (·.effect.isEmpty) then some b else drainBundle r

/-- Forget the bundles before number n, whose records no fault can need (R135), but for those from the bundle that a pre-emption
would choose as its drain point (R32). -/
def Unit.trim (x : Unit) (n : Nat) : Unit :=
  x.modDisp fun d =>
    let m := match drainBundle d.buns with | some b => min n b.seq | none => n
    { d with buns := d.buns.filter fun b => m ≤ b.seq }

/-- The issuing operation leaves its queue and occupies its slot for `occ` cycles (R44). `eff` says that it had an
effect (R32). -/
def State.issuedAs (s : State) (occ : Nat) (eff : Bool) : State :=
  let k := s.cur.slot
  let q := s.cur.op.seq
  let s := s.modUnit s.u fun x =>
    let x := x.modSlot k fun sl =>
      { queue := sl.queue.drop 1, busy := s.cycle + max 1 occ, last := s.cycle + 1, hold := .none, tried := 0 }
    x.modDisp fun d => { d with buns := d.buns.map fun b =>
      if b.seq == q && eff then { b with effect := k :: b.effect } else b }
  s.modUnit s.u fun x => x.trim (s.oldestOpen s.u)

/-- Issue with full effect. -/
def State.issued (s : State) (occ : Nat) : State := s.issuedAs occ true

/-- Clear the marks of the issuing operation that a test selects. -/
def State.unmark (s : State) (p : Stor → Bool) : State :=
  s.modUnit s.u fun x => x.modDisp fun d => d.unmark s.cur.op.seq s.cur.slot p

/-- Note the wait that the head of the issuing slot has begun; it stays at the head. -/
def State.holding (s : State) (h : Hold) : State :=
  s.modUnit s.u fun x => x.modSlot s.cur.slot fun sl => { sl with hold := h }

/-- An exposed result of the issuing operation, landing `lat` cycles on (R44). -/
def State.land (s : State) (lat : Nat) (w : Land) : State :=
  { s with landings := s.landings ++
      [⟨s.u, s.cur.op.seq, s.cur.op.addr, s.cur.slot, s.cycle, s.cycle + lat, w⟩] }

/-- A flight of the issuing operation. -/
def State.flight (s : State) (path : BitVec 3) (due : Nat) (rd wr : Bool) (sp : List (Nat × Nat)) (w : Fly) : Flight :=
  ⟨s.ids, s.u, s.cur.op.seq, s.cur.op.addr, s.cur.slot, path, s.cycle, due, rd, wr, sp, s.me.task, s.me.spr.sup, none,
    false, 0, w⟩

/-- Send a flight of the issuing operation on its way. -/
def State.fly (s : State) (f : Flight) : State := { s with flights := s.flights ++ [f], ids := s.ids + 1 }

/-- A presence-tracked result whose values are fixed, present `lat` cycles on. -/
def State.result (s : State) (lat : Nat) (ws : List (Stor × Val)) (fl : Flags) : State :=
  s.fly (s.flight pNone (s.cycle + lat) false false [] (.result ws fl))

/-! ## Taking an exception (R134, R135) -/

/-- Note a precise fault of the issuing operation: it has no effect and stays at its head; an older bundle's fault, or a
lower slot's of the same bundle, is the one kept (R134). -/
def State.raiseAt (s : State) (u seq : Nat) (addr : BitVec 64) (slot : Nat) (skips : Bool) (f : Flt) : State :=
  let p : Pend := ⟨seq, addr, slot, f.code, f.sub, f.info0, f.info1, f.info2, f.info3, f.xinfo, f.path, f.kind,
    s.timeOf (dieOf u), skips⟩
  s.modUnit u fun x => x.modDisp fun d =>
    match d.pend with
    | some o => if o.seq < seq || (o.seq == seq && o.slot ≤ slot) then d else { d with pend := some p }
    | none => { d with pend := some p }

/-- Raise a precise fault of the issuing operation. -/
def State.raise (s : State) (f : Flt) : State :=
  s.raiseAt s.u s.cur.op.seq s.cur.op.addr s.cur.slot true f

/-- A fault of an operation that has issued is found: it is raised at the operation's bundle, or, where the handler of an earlier
fault runs already, discarded; in either case the operation counts as not issued, and raises it again when it executes again (R134).
DESIGN CHOICE (log entry 127): which operations count so is kept beside the queues, because SKIPj is a count. -/
def State.raiseLate (s : State) (f : Flight) (flt : Flt) : State :=
  if (s.unit f.unit).spr.sup && !f.sup then
    s.modUnit f.unit fun x => x.modDisp fun d => { d with gaps := d.gaps ++ [(f.slot, f.seq - d.base, true)] }
  else
    (s.modUnit f.unit fun x => x.modDisp fun d => { d with undone := (f.slot, f.seq) :: d.undone }).raiseAt f.unit f.seq f.addr
      f.slot true flt

/-- The fault of a pending record. -/
def Pend.flt (p : Pend) : Flt := ⟨p.code, p.sub, p.info0, p.info1, p.info2, p.info3, p.xinfo, p.path, p.kind⟩

/-- How many operations of slot j from bundle n on have issued (R134): those gone from its queue but for the ones whose fault was
discarded, and those that an earlier SYSRET has discarded ahead of the queue or has still to discard (R140). -/
def Unit.issuedFrom (x : Unit) (n j : Nat) : Nat :=
  x.headSeq j - n - (x.disp.undone.filter fun e => e.1 == j && decide (n ≤ e.2)).length
    + (x.disp.ahead.filter fun e => e.1 == j && decide (x.headSeq j ≤ e.2)).length + x.disp.skips.getD j 0

/-- SKIPj (R134). DESIGN CHOICE (log entry 108): R134 gives the count 0 to 16; of more than 16, which a fault found late can meet, 16
are recorded. -/
def Unit.skipOf (x : Unit) (p : Pend) (j : Nat) : Nat := if p.skips && j != p.slot then min 16 (x.issuedFrom p.seq j) else 0

/-- The operations from bundle n on that count as not issued though a later one of their slot has issued (R134, R140). -/
def Unit.gapsFrom (x : Unit) (n : Nat) : List (Nat × Nat × Bool) :=
  (x.disp.undone.filterMap fun e => if n ≤ e.2 then some (e.1, e.2 - n, false) else none)
    ++ (x.slots.map fun k => k.2.queue.filterMap fun o =>
      if n ≤ o.seq && (x.disp.skips.getD k.1 0 != 0 || x.disp.ahead.any fun e => e.1 == k.1 && decide (o.seq < e.2))
      then some (k.1, o.seq - n, false) else none).flatten
    ++ x.disp.gaps.filterMap fun e => if x.disp.seq ≤ e.2.1 then some (e.1, e.2.1 - n, false) else none

/-- RESUME in the layout of EPC (R137). -/
def Unit.resume (x : Unit) (u : Nat) (p : Pend) : BitVec 64 :=
  BitVec.ofNat 64 (bundleField x.stream p.addr * 2 ^ 51 + p.slot % 8 * 2 ^ 48
    + (slotsOf u).foldl (fun a j => a + x.skipOf p j * 2 ^ (5 * j - 5)) 0)

/-- Empty the slot queues: the operations in them issue nothing and the marks they set are cleared (R32, R134). -/
def Unit.flush (x : Unit) (u : Nat) : Unit :=
  let queued := (slotsOf u).map fun k => ((x.slot k).queue.map fun o => (o.seq, k))
  let qs := queued.flatten
  let x := (slotsOf u).foldl (fun x k => x.modSlot k fun sl => { sl with queue := [], hold := .none }) x
  x.modDisp fun d => { d with
    marks := d.marks.filter (fun m => !qs.contains (m.1, m.2.1)), buns := [], wait := none, undone := [], ahead := [] }

/-- The front end as it stood before bundle n dispatched. -/
def Unit.frontBefore (x : Unit) (n : Nat) : Front :=
  match x.disp.buns.find? fun b => n ≤ b.seq with
  | some b => b.before
  | none => x.front

/-- Control effects of the bundles from n on whose control operation has issued, by their distance from n, with those that an
earlier SYSRET has still to apply again (R140). -/
def Unit.redoFrom (x : Unit) (n : Nat) : List (Nat × Front) :=
  (x.disp.buns.filterMap fun b => if n ≤ b.seq then b.after.map fun f => (b.seq - n, f) else none)
    ++ x.disp.redo.filterMap fun r => if x.disp.seq ≤ r.1 then some (r.1 - n, r.2) else none

/-- A unit stops: nothing dispatched, no task. Registers stay until the next task's entry resets them, and a load of the shadow plane and
evaluations in flight go on (R134, R296). -/
def Unit.halt (x : Unit) (u : Nat) : Unit :=
  let x := x.flush u
  { x with on := false, task := none, preempt := none, disp := .reset,
           spr := { x.spr with sup := false } }

/-- Whether an exposed result still takes effect when its unit's register state is discarded: accumulators and registers
of the context or the package (R33, R134). -/
def Land.outlives (w : Land) : Bool :=
  match w with
  | .mzero _ => true
  | .spr n _ => n == 0x030 || n == 0x031 || n == 0x060 || n == 0x061
  | _ => false

/-- What becomes of a flight whose unit discards its register state: results and loads go, requests still perform, and an evaluation
ends where it meets its bound. -/
def Flight.orphan (f : Flight) : Option Flight :=
  match f.what with
  | .result .. => none
  | .load .. => none
  | .bound _ => some { f with what := .bound none }
  | .drain b t _ => some { f with what := .drain b t 0 }
  | .snap .. => none
  | .req (.launch _) va _ => some { f with what := .req (.launch false) va [] }
  | .req r va _ => some { f with what := .req r va [] }
  | .chdef ch _ b => some { f with what := .chdef ch 0 b }
  | _ => some f

/-- Drop the register results of a unit that are still on their way: its register state is discarded (R33). -/
def State.dropResults (s : State) (u : Nat) : State :=
  { s with landings := s.landings.filter fun l => l.unit != u || l.what.outlives,
           rows := s.rows.map fun r => if r.unit == u then { r with work := { r.work with fl := none } } else r,
           flights := s.flights.filterMap fun f => if f.unit == u then f.orphan else some f,
           watches := s.watches.filter (·.unit != u) }

/-- A doubleword field of a live group's record: COUNT, NEXT, RETIRED at bytes 32, 28, 24; STATUS's word at 8 (R24). -/
def State.gword (s : State) (g : Group) (off : Nat) : Word := rd32 s.mem (g.place + off)

/-- Write a word of a group record. DESIGN CHOICE (log entry 128): no link is checked, because R13 does not say who would raise the
fault of such an update; NEXT, RETIRED, FIRSTFAIL and STATUS are written beyond a link that failed after LAUNCH too. -/
def State.setGword (s : State) (g : Group) (off : Nat) (v : Word) : State := s.write (g.place + off) (leBytes 4 v.toNat)

/-- Change a live group. -/
def State.modGroup (s : State) (g : Group) (f : Group → Group) : State :=
  { s with groups := s.groups.map fun x => if x.same g then f x else x }

/-- Write STATUS of a record: bits [76:75] (R24). -/
def State.setStatus (s : State) (g : Group) (st : BitVec 2) : State :=
  let w := (s.gword g 8).toNat
  s.setGword g 8 (BitVec.ofNat 32 (w / 2 ^ 13 * 2 ^ 13 + st.toNat * 2 ^ 11 + w % 2 ^ 11))

/-- A type 0x3 event (R216). -/
def groupEvent (g : Group) (st : BitVec 2) (u : Nat) : Event :=
  ⟨BitVec.ofNat 64 (g.recd.toNat / 2 ^ 6 % 2 ^ 28 + g.tag.toNat * 2 ^ 32 + 3 * 2 ^ 60),
   BitVec.ofNat 64 (st.toNat + u * 2 ^ 55)⟩

/-- The source of a fault of a group's completion. -/
def groupWho (g : Group) : Who := ⟨g.ctl, g.ctx, none, 0, true, false, false, 0, 0⟩

/-- A group completes when RETIRED = COUNT with no TGROW in flight: STATUS, the completion word, the event (R29). DESIGN CHOICE
(log entry 101): a completion word whose address fails its check or is not a multiple of 8 is logged (R112, R116) and not written, and
the group completes. -/
def State.complete (s : State) (g : Group) : State :=
  if s.gword g 24 == s.gword g 32 && g.growing == 0 then
    let st : BitVec 2 := if s.gword g 4 == 0xFFFFFFFF then 1 else 2
    let s := s.setStatus g st
    let s := if g.doneAddr == 0 then s
      else match s.reach 0x1FF (dieOf g.ctl) g.ctx pSL .wr false g.doneAddr 8 with
        | .ok r => if g.doneAddr.toNat % 8 != 0 then s.logFault (groupWho g) ((align g.doneAddr 8).on pSL .wr)
          else s.writeSpans r.spans (leBytes 8 (st.toNat + (s.gword g 24).toNat * 2 ^ 32))
        | .error f => s.logFault (groupWho g) f
    let s := { s with groups := s.groups.filter fun x => !x.same g }
    s.postDone g.ctl (groupEvent g st g.ctl)
  else s

/-- A task's final attempt is over: RETIRED rises, FIRSTFAIL keeps the lowest failed index (R29, R33). -/
def State.retireTask (s : State) (g : Group) (index : Word) (failed : Bool) : State :=
  let s := s.setGword g 24 (s.gword g 24 + 1)
  let s := if failed then s.setGword g 4 (if index.ult (s.gword g 4) then index else s.gword g 4) else s
  match s.groups.find? (·.same g) with
  | some g => s.complete g
  | none => s

/-- The units that run a task: its core, or the four cores of its cluster (R27). -/
def taskUnits (u : Nat) (t : Task) : List Nat := if t.cluster then coresOf (clusterOf u) else [u]

/-- Abandon a unit's task (R33): its state is discarded; a replay is made pending, or the task has failed. -/
def State.abandon (s : State) (u : Nat) : State :=
  match (s.unit u).task with
  | none => s
  | some t =>
    let us := taskUnits u t
    let s := us.foldl (fun s v => (s.dropResults v).modUnit v fun x => { x.halt v with freed := none }) s
    match s.groupOf t with
    | none => s
    | some g =>
      if g.replay && !t.replay then s.modGroup g fun g => { g with replays := g.replays ++ [t.index] }
      else s.retireTask g t.index true

/-- A controller stops at the faulting bundle; supervisor software starts it again (R112, R135). -/
def State.stopCtl (s : State) (u : Nat) (addr : BitVec 64) : State :=
  let s := (s.dropResults u).modUnit u fun x => { x.halt u with start := addr }
  if s.isSup u then s
  else
    let c := (s.ctxOf u).toNat
    s.modCtx c fun x => { x with csctl := (x.csctl.map fun p =>
      if p.2.toNat / 2 ^ 64 % 128 == u - 384 then (p.1, p.2 &&& ~~~(1#128)) else p).filter fun p => p.2 != 0 }

/-- TAKING AN EXCEPTION (R135): a user-mode task with TCTL.EN = 1 enters its handler with FREC and EPC written, in
supervisor mode, the front end as before bundle n; a task otherwise is logged and abandoned (in supervisor mode the
held record is logged first); a controller is logged and stops. DESIGN CHOICE (log entry 143): in the handler IHALF[0] is bit 12 of TVEC,
the half that is executed, where R135 also returns it to the half before bundle n. DESIGN CHOICE (log entry 144): the record is written
here, behind those of faults found while it waited for older bundles, with the TIME of its detection. -/
def State.deliver (s : State) (u : Nat) (p : Pend) : State :=
  let x := s.unit u
  let f := p.flt
  let res := x.resume u p
  let w : Who := ⟨u, s.ctxOf u, x.task, p.slot, false, x.spr.sup, x.stream, p.addr, res⟩
  let r := s.mkRecord w f
  let r := BitVec.ofNat 512 (r.toNat % 2 ^ 128 + p.time.toNat * 2 ^ 128 + r.toNat / 2 ^ 192 * 2 ^ 192)
  let s := s.modUnit u fun x => x.modDisp fun d => { d with pend := none }
  if isCtl u then (s.logRecord w f r).stopCtl u p.addr
  else
    let tctl := (s.ctx w.ctx.toNat).tctl
    if x.task.isSome && !x.spr.sup && tctl.getLsbD 13 && f.code != 0x22 && f.code != 0x31 then
      let fr := x.frontBefore p.seq
      let redo := x.redoFrom p.seq
      let gaps := (x.gapsFrom p.seq).filter fun e => e.1 != p.slot
      s.modUnit u fun x =>
        let x := x.flush u
        let x := x.modDisp fun d => { d with
          redo := redo, back := some fr, pend := none, skips := List.replicate 8 0, closed := false, base := p.seq, gaps := gaps }
        let x := x.modSpr fun y => { y with
          sup := true, epc := res, frec := (List.range 8).map fun i => BitVec.ofNat 64 (r.toNat / 2 ^ (64 * i)) }
        { x with front := { fr with pc := (tctl.setWidth 13).setWidth 64, half := tctl.getLsbD 12 } }
    else
      let s := if x.spr.sup then
          let held := (List.range 8).foldl (fun a i => a + (x.spr.frec.getD i 0).toNat * 2 ^ (64 * i)) 0
          s.logRecord { w with sup := false } { f with code := BitVec.ofNat 8 held, sub := BitVec.ofNat 8 (held / 256) }
            (BitVec.ofNat 512 held)
        else s
      (s.logRecord w f r).abandon u

/-- Whether a pending fault can be delivered: every slot has issued its operations before bundle n, and no load or
evaluation of an earlier bundle will still fault (R134). -/
def State.deliverable (s : State) (u : Nat) (p : Pend) : Bool :=
  (slotsOf u).all (fun k => p.seq ≤ (s.unit u).headSeq k)
    && s.flights.all fun f => !(f.unit == u && f.seq < p.seq && f.task == (s.unit u).task && f.mayFault)

/-- The front end to which SYSRET returns: that of R135, or, where no fault has entered the handler, the present one. -/
def State.backOf (s : State) (u : Nat) : Front := (s.unit u).disp.back.getD (s.unit u).front

/-- RETURN FROM AN EXCEPTION (R140): user mode, the front end at EPC's bundle with the loop stack and ROTB of R135, the
operations to discard. The operations of SYSRET's own bundle in other slots are dispatched, and issue as they can (R44). DESIGN CHOICE
(log entry 142): where software has made EPC's BUNDLE name the other half, it is that half which is executed, and not that of R135. -/
def State.sysret (s : State) (u : Nat) (skipOne : Bool) : State :=
  s.modUnit u fun x =>
    let p := x.spr.epc.toNat
    let slot := p / 2 ^ 48 % 8
    let sk := (List.range 8).map fun j =>
      if j == 0 then 0 else p / 2 ^ (5 * j - 5) % 32 - (x.disp.gaps.filter fun e => e.1 == j && e.2.2).length
        + (if skipOne && j == slot then 1 else 0)
    let b := p / 2 ^ 51
    let x := x.modSpr fun y => { y with sup := false }
    let x := x.modDisp fun d => { d with
      skips := sk, redo := d.redo.map fun r => (r.1 + d.seq, r.2), back := none, wait := none, earliest := s.cycle + 1,
      gaps := d.gaps.map fun e => (e.1, e.2.1 + d.seq, e.2.2) }
    { x with front := { s.backOf u with pc := BitVec.ofNat 64 b, half := b / 4096 == 1 } }

end Sys2Proof.Machine
end

