-- ==== Sys2Proof/Machine/Operands.lean ====
section
/-!
DEFINITION. Operands: which storage each operation reads and writes (R49, R51, R56), the read ports, accumulator
banks and lane groups its fields name (R52 to R55), and the address operands of the memory formats (R60, R173).
-/

namespace Sys2Proof.Machine

open Sys2Proof.Instr

/-- A bit as a Boolean. -/
def bit1 (b : BitVec 1) : Bool := b == 1

/-- RM, SRSEED: what a rounding operation samples (R72, R74). -/
def rmSp : Stor := .sp 0x010

/-- EFRM, EFRV, EFRT (R82). -/
def efrSp (t : Nat) : Stor := .sp (BitVec.ofNat 12 (0x011 + t))

/-- The mask that a masked form reads (R234). -/
def maskOf (m : BitVec 1) (k : BitVec 3) : List Stor := if m == 1 then [.m k] else []

/-- A vector field, or the mask number in its low bits (R233). -/
def vOrM (m : BitVec 1) (v : BitVec 6) : Stor := if m == 1 then .m (v.setWidth 3) else .v v

/-- The first source of a scalar form is the vector or, for the last code, the scalar; both are read (R237). -/
def narrowScale (f : BitVec 4) (c : BitVec 2) : List Stor := if isNarrowFmt f then [.sc c, efrSp 1] else []

/-- Whether a store to a format rounds its elements under RM: the floating formats but FP32, and narrow integers (R73, R81). -/
def roundsTo (f : Nat) : Bool := (1 ≤ f && f ≤ 4) || (7 ≤ f && f ≤ 9)

/-- The scalars that an operation reads, by logical name. -/
def scalarReads : Instr → List (BitVec 5)
  | brz a _ | brnz a _ | jmpr a | loopReg a _ | looprReg a _ | waitt a | setsp a _ | addi _ a _ | shlImm _ a _
  | shrImm _ a _ | sarImm _ a _ | rotlImm _ a _ | cmpi _ _ a _ | clz _ a | popc _ a | bfx _ a _ _ _ | movgToGuard a _
  | fcvt _ a _ | frcp _ a | frsq _ a | fexp2 _ a | flog2 _ a => [a]
  | ret => [15]
  | add _ a b | sub _ a b | mul _ a b | mulh _ a b _ | div _ a b _ | .and _ a b | .or _ a b | .xor _ a b
  | shlReg _ a b | shrReg _ a b | sarReg _ a b | rotlReg _ a b | .min _ a b _ | .max _ a b _ | .cmp _ _ a b
  | sel _ a b _ | fadd _ a b | fsub _ a b | fmul _ a b | fmin _ a b | fmax _ a b | fcmp _ _ a b => [a, b]
  | ffma _ a b c => [a, b, c]
  | bfi d a _ _ => [a, d]
  | lih d _ _ => [d]
  | fp32ScalarForms _ _ _ _ s _ | int32ScalarForms _ _ _ _ s _ | vcmpScalar _ _ _ _ s _ _ | vslice _ _ _ _ s => [s]
  | vsplat _ _ s n m _ => if m == 1 then [n] else [s, n]
  | viota _ _ s n => [s, n]
  | lds _ b _ | ldsW _ b _ | ldsWu _ b _ | ldsH _ b _ | ldsHu _ b _ | ldsB _ b _ | ldsBu _ b _ => [b]
  | sts d b _ | stsW d b _ | stsH d b _ | stsB d b _ => [d, b]
  | ldv _ b n _ _ | ldvc _ b n _ _ | ldr _ b n _ => [b, n]
  | stv _ b _ _ _ | str _ b _ _ _ => [b]
  | ldvr _ i n _ _ _ _ _ | stvr _ i n _ _ _ _ _ => [i, n]
  | shld _ b o => [b, o]
  | shwin _ o => [o]
  | shq _ _ i _ => [i]
  | waitf _ b _ | setf _ b _ | clrf _ b _ | mscl _ b _ => [b]
  | .star d a _ _ => [d, a]
  | atom _ b v _ _ _ | atomN b v _ _ _ => [b, v]
  | acas _ b e v _ => [b, e, v]
  | rsf v b | rsb v b => [v, b]
  | rsfV _ b _ | rsbV _ b _ => [b]
  | rso v b i _ => [v, b, i]
  | rsoV _ b i _ _ => [b, i]
  | roopen _ b c _ => [b, c]
  | binit e b => [e, b]
  | binitV e b n => [e, b, n]
  | bfin _ b | bnorm b | dqpop _ b _ | dqsteal _ b _ | bara _ b | sdclaim _ b | launch b => [b]
  | bfinV b n _ | bnormV b n => [b, n]
  | dqpush b v _ => [b, v]
  | barw b p => [b, p]
  | tgrow _ n => [n]
  | sdfree _ l => [l]
  | waitm v b _ _ => [v, b]
  | mldb _ a _ _ _ => [a]
  | mgenbPure _ _ c _ => [c]
  | mgenbAdd _ _ c b l _ => [c, b, l]
  | mma _ _ s _ _ _ _ => [s]
  | mmat _ _ s p _ _ _ => [s, p]
  | mmag _ _ _ c _ _ => [c]
  | mcop s => [s]
  | mdrv _ _ r _ _ => [r]
  | mdrs _ _ s r _ => [s, r]
  | madp _ _ s _ _ _ => [s]
  | madt _ i a b => [i, a, b]
  | mbase a => [a]
  | mmaRag _ _ s x _ _ _ _ => [s, x]
  | mdrvRag _ _ r x _ _ => [r, x]
  | gload _ a | gseed _ a => [a]
  | geval _ _ _ c l _ => [c, l]
  | cpy t a b _ _ f _ => if f == 1 then [t, a, b] else [a, b]
  | cpyZ t a b f _ => if f == 1 then [t, a, b] else [a, b]
  | cpyr t a b _ _ f _ _ _ => if f == 1 then [t, a, b] else [a, b]
  | xpose _ d s _ _ => [d, s]
  | xcvt _ d s n _ _ => [d, s, n]
  | xexp _ d s _ => [d, s]
  | imload _ a _ => [a]
  | cwaitt _ t | cpoll _ t => [t]
  | chdef _ b _ => [b]
  | csend _ a n _ _ | crecv _ a n _ _ | cdig _ a n _ | cnrm _ a n _ _ => [a, n]
  | ca2ac _ a _ _ | ca2ap _ a _ _ => [a]
  | cswr _ v _ _ _ | gagree _ v _ _ => [v]
  | _ => []

/-- Whether FN of a masked or scalar form is VMIN or VMAX, which do not round (R237). -/
def extremum (f : BitVec 4) : Bool := f == 3 || f == 4

/-- The other storage that an operation reads (its guard apart). -/
def otherReads : Instr → List Stor
  | brg g _ _ | sel _ _ _ g | movgToScalar _ g => [.g g]
  | getsp _ p => [.sp p]
  | fadd .. | fsub .. | fmul .. | ffma .. | frcp .. | frsq .. => [rmSp]
  | fcvt _ _ v => if v ≤ 8 || v == 11 || v == 12 then [rmSp] else []
  | vadd _ _ a _ b _ | vsub _ _ a _ b _ | vmul _ _ a _ b _ | vsck _ _ a _ b _ | vsckSeg _ _ a _ b _ =>
    [.v a, .v b, rmSp]
  | vmin _ _ a _ b _ | vmax _ _ a _ b _ | viadd _ _ a _ b _ | visub _ _ a _ b _ | vimul _ _ a _ b _ | vand _ _ a _ b _
  | vor _ _ a _ b _ | vxor _ _ a _ b _ | vshl _ _ a _ b _ | vshr _ _ a _ b _ | vshrA _ _ a _ b _ | vimin _ _ a _ b _
  | vimax _ _ a _ b _ | viminU _ _ a _ b _ | vimaxU _ _ a _ b _ | vcmp _ _ a _ b _ _ _ | vcat _ _ a _ b _
  | vpick _ _ a _ b _ | vspread _ _ a _ b _ | vexpk _ _ a _ b _ => [.v a, .v b]
  | vfma _ d a _ b _ _ => [.v a, .v b, .v d, rmSp]
  | vabs _ _ a _ m k | vexp2 _ _ a _ m k | vlog2 _ _ a _ m k => .v a :: maskOf m k
  | vrcp _ _ a _ m k | vrsq _ _ a _ m k => .v a :: rmSp :: maskOf m k
  | vcvt _ _ a _ v m k => .v a :: (if v == 8 then [] else [rmSp]) ++ (if 7 ≤ v then [efrSp 1] else []) ++ maskOf m k
  | fp32MaskedForms _ d _ b _ k f => [.v d, .v b, .m k] ++ if extremum f then [] else [rmSp]
  | int32MaskedForms _ d _ b _ k _ | vsel _ d _ b _ k => [.v d, .v b, .m k]
  | fp32ScalarForms _ _ a _ _ f => .v a :: if extremum f then [] else [rmSp]
  | int32ScalarForms _ _ a _ _ _ | vcmpScalar _ _ a _ _ _ _ | viotaSeg _ _ a _ | vslice _ _ a _ _ => [.v a]
  | mand _ _ a b | mor _ _ a b | mxor _ _ a b => [.m a, .m b]
  | mnot _ _ a | mcnt _ _ a => [.m a]
  | vcoal _ _ a _ _ m | vlen _ _ a _ _ m => [vOrM m a]
  | vsegset _ _ a _ k => [.v a, .m k]
  | vsegclr _ _ a _ m k => .v a :: maskOf m k
  | vrsum _ _ a _ m k | vrsumSeg _ _ a _ m k | vrssq _ _ a _ m k | vrssqSeg _ _ a _ m k | vscan _ _ a _ m k _ =>
    .v a :: rmSp :: maskOf m k
  | vrmax _ _ a _ m k | vrmaxSeg _ _ a _ m k | vrmin _ _ a _ m k | vrminSeg _ _ a _ m k | vmaxk _ _ a _ m k
  | vmaxkSeg _ _ a _ m k => .v a :: maskOf m k
  | ldv _ _ _ f c | ldvc _ _ _ f c => narrowScale f c
  | stv v _ f c _ => .v v :: (if roundsTo f.toNat then [rmSp] else []) ++ narrowScale f c
  | str v _ _ _ m => [vOrM m v]
  | ldvr _ _ _ h _ _ _ _ | shq _ h _ _ | shchk h _ | shwin h _ => [.h h]
  | stvr v _ _ h _ _ _ _ => [.v v, .h h]
  | .star _ _ _ f => if f == 0 then [] else [rmSp]
  | rsfV v _ _ | rsbV v _ _ | rsoV v _ _ _ _ => [.v v]
  | mldb _ _ f s x => (if f == 4 then [efrSp 0] else []) ++ (if x == 1 then [.sc s] else [])
  | mgenbPure n s _ _ | mgenbAdd n s _ _ _ _ => [.gn n, .sd s]
  | mmag _ n e _ _ _ => [.gn n, .sd e]
  | mma _ _ _ _ f c x | mmat _ _ _ _ f c x => (if f == 4 then [efrSp 0] else []) ++ (if x == 1 then [.sc c] else [])
  | mmaRag _ _ _ _ h f c k => .h h :: (if f == 4 then [efrSp 0] else []) ++ (if k == 1 then [.sc c] else [])
  | mdrv _ _ _ f _ | mdrs _ _ _ _ f => if f == 0 then [] else [rmSp]
  | mdrvRag _ _ _ _ h f => .h h :: if f == 0 then [] else [rmSp]
  | madp _ _ _ v _ _ => [.v v]
  | geval _ n s _ _ _ => [.gn n, .sd s]
  | gstat _ n s q => if q == 6 then [.sd s] else [.gn n]
  | cpy _ _ _ h _ _ _ | cpyr _ _ _ h _ _ _ _ _ => [.h h]
  | xcvt _ _ _ _ k _ => (if (1 ≤ k.toNat && k.toNat ≤ 4) || k == 9 then [rmSp] else []) ++ (if 9 ≤ k.toNat then [efrSp 2] else [])
  | _ => []

/-- The scalars that an operation writes, by logical name: first those of the sq slot, then the others'. -/
def scalarWrites : Instr → List (BitVec 5)
  | call _ => [15]
  | getsp d _ | add d _ _ | addi d _ _ | sub d _ _ | mul d _ _ | mulh d _ _ _ | div d _ _ _ | .and d _ _ | .or d _ _
  | .xor d _ _ | shlReg d _ _ | shlImm d _ _ | shrReg d _ _ | shrImm d _ _ | sarReg d _ _ | sarImm d _ _
  | rotlReg d _ _ | rotlImm d _ _ | .min d _ _ _ | .max d _ _ _ | sel d _ _ _ | clz d _ | popc d _ | bfx d _ _ _ _
  | bfi d _ _ _ | movgToScalar d _ | li d _ | lih d _ _ | fadd d _ _ | fsub d _ _ | fmul d _ _ | ffma d _ _ _
  | fmin d _ _ | fmax d _ _ | fcvt d _ _ | frcp d _ | frsq d _ | fexp2 d _ | flog2 d _ => [d]
  | mcnt _ d _ | vlen _ d _ _ _ _ | vrsum _ d _ _ _ _ | vrssq _ d _ _ _ _ | vrmax _ d _ _ _ _ | vrmin _ d _ _ _ _
  | vmaxk _ d _ _ _ _ => [d]
  | lds d _ _ | ldsW d _ _ | ldsWu d _ _ | ldsH d _ _ | ldsHu d _ _ | ldsB d _ _ | ldsBu d _ _ | shq d _ _ _ => [d]
  | str _ _ n _ _ => [n]
  | atom d _ _ _ _ _ | acas d _ _ _ _ | roopen d _ _ _ | roopenX d _ | bfin d _ | bara d _ | tgrow d _ | sdclaim d _
  | sdfree d _ => [d]
  | dqpush _ _ t => [t]
  | dqpop d _ t | dqsteal d _ t => [d, t]
  | evpop d e | evpopNb d e => [d, e]
  | madt d _ _ _ | gstat d _ _ _ => [d]
  | cpy t _ _ _ _ _ _ | cpyZ t _ _ _ _ | cpyr t _ _ _ _ _ _ _ _ | xpose t _ _ _ _ | xcvt t _ _ _ _ _ | xexp t _ _ _
  | imload t _ _ => [t]
  | cwaitt d _ | cpoll d _ | chdef _ _ d | csend _ _ _ d _ | crecv _ _ _ d _ | ca2ac _ _ d _ | ca2ap _ _ d _
  | cswr _ _ d _ _ | cnrm _ _ _ d _ | gagree _ _ d _ => [d]
  | _ => []

/-- The other registers that an operation writes. -/
def otherWrites : Instr → List Stor
  | .cmp _ g _ _ | cmpi _ g _ _ | fcmp _ g _ _ | movgToGuard _ g | shchk _ g => [.g g]
  | vadd _ d _ _ _ _ | vsub _ d _ _ _ _ | vmul _ d _ _ _ _ | vmin _ d _ _ _ _ | vmax _ d _ _ _ _ | vfma _ d _ _ _ _ _
  | vabs _ d _ _ _ _ | vcvt _ d _ _ _ _ _ | vexp2 _ d _ _ _ _ | vlog2 _ d _ _ _ _ | vrcp _ d _ _ _ _ | vrsq _ d _ _ _ _
  | fp32MaskedForms _ d _ _ _ _ _ | fp32ScalarForms _ d _ _ _ _ | viadd _ d _ _ _ _ | visub _ d _ _ _ _
  | vimul _ d _ _ _ _ | vand _ d _ _ _ _ | vor _ d _ _ _ _ | vxor _ d _ _ _ _ | vshl _ d _ _ _ _ | vshr _ d _ _ _ _
  | vshrA _ d _ _ _ _ | vimin _ d _ _ _ _ | vimax _ d _ _ _ _ | viminU _ d _ _ _ _ | vimaxU _ d _ _ _ _
  | int32MaskedForms _ d _ _ _ _ _ | int32ScalarForms _ d _ _ _ _ | vsel _ d _ _ _ _ | viota _ d _ _ | viotaSeg _ d _ _
  | vslice _ d _ _ _ | vcat _ d _ _ _ _ | vpick _ d _ _ _ _ | vsegset _ d _ _ _ | vsegclr _ d _ _ _ _
  | vspread _ d _ _ _ _ | vrsumSeg _ d _ _ _ _ | vrssqSeg _ d _ _ _ _ | vrmaxSeg _ d _ _ _ _ | vrminSeg _ d _ _ _ _
  | vscan _ d _ _ _ _ _ | vmaxkSeg _ d _ _ _ _ | vexpk _ d _ _ _ _ | vsck _ d _ _ _ _ | vsckSeg _ d _ _ _ _ => [.v d]
  | vcmp _ m _ _ _ _ _ _ | vcmpScalar _ m _ _ _ _ _ => [.m m]
  | mand _ d _ _ | mor _ d _ _ | mxor _ d _ _ | mnot _ d _ => [.m d]
  | vcoal _ d _ _ _ m | vsplat _ d _ _ m _ => [vOrM m d]
  | ldv v _ _ _ _ | ldvc v _ _ _ _ | ldvr v _ _ _ _ _ _ _ | bfinV _ _ v => [.v v]
  | ldr v _ _ m => [vOrM m v]
  | shld h _ _ | shwin h _ => [.h h]
  | mscl m _ _ => [.sc m]
  | mdrv v _ _ _ _ | mdrvRag v _ _ _ _ _ | geval v _ _ _ _ _ => [.v v]
  | gload n _ | gfree n => [.gn n]
  | gseed s _ => [.sd s]
  | setrm _ => [rmSp]
  | setefr t _ => [efrSp t.toNat]
  | setsp _ p => [.sp p]
  | rfmode _ => [.sp 0x017]
  | _ => []

/-- Every register an operation reads under a rotation base. -/
def readsOf (i : Instr) (rotb : BitVec 4) : List Stor := (scalarReads i).map (fun n => .s (physS rotb n)) ++ otherReads i

/-- Every register an operation writes under a rotation base; a write to S0 is no write (R146). -/
def writesOf (i : Instr) (rotb : BitVec 4) : List Stor :=
  ((scalarWrites i).filter (· != 0)).map (fun n => .s (physS rotb n)) ++ otherWrites i

/-- Whether a write by a slot is presence-tracked (R49): not those of sq, not MSCL's, not the exposed registers, not one of G0, which
cannot be written (R146). -/
def trackedBy (k : Nat) (d : Stor) : Bool :=
  k != 1 && match d with | .sc _ => false | .g n => n != 0 | .sp _ => false | .acc .. => false | _ => true

/-- Whether a kind of storage can carry a pending mark (R49). -/
def trackable (d : Stor) : Bool := match d with | .sc _ => false | .g n => n != 0 | .sp _ => false | .acc .. => false | _ => true

/-- Read ports and the vector registers read on them (R52). -/
def portsOf : Instr → List (BitVec 2 × BitVec 6)
  | vadd _ _ a p b q | vsub _ _ a p b q | vmul _ _ a p b q | vmin _ _ a p b q | vmax _ _ a p b q | viadd _ _ a p b q
  | visub _ _ a p b q | vimul _ _ a p b q | vand _ _ a p b q | vor _ _ a p b q | vxor _ _ a p b q | vshl _ _ a p b q
  | vshr _ _ a p b q | vshrA _ _ a p b q | vimin _ _ a p b q | vimax _ _ a p b q | viminU _ _ a p b q
  | vimaxU _ _ a p b q | vcmp _ _ a p b q _ _ | vcat _ _ a p b q | vpick _ _ a p b q | vspread _ _ a p b q
  | vexpk _ _ a p b q | vsck _ _ a p b q | vsckSeg _ _ a p b q => [(p, a), (q, b)]
  | vfma _ d a p b q c => [(p, a), (q, b), (if c == 1 then 3 else 2, d)]
  | vabs _ _ a p _ _ | vcvt _ _ a p _ _ _ | vexp2 _ _ a p _ _ | vlog2 _ _ a p _ _ | vrcp _ _ a p _ _ | vrsq _ _ a p _ _
  | fp32ScalarForms _ _ a p _ _ | int32ScalarForms _ _ a p _ _ | vcmpScalar _ _ a p _ _ _ | viotaSeg _ _ a p
  | vslice _ _ a p _ | vsegset _ _ a p _ | vsegclr _ _ a p _ _ | vrsum _ _ a p _ _ | vrsumSeg _ _ a p _ _
  | vrssq _ _ a p _ _ | vrssqSeg _ _ a p _ _ | vrmax _ _ a p _ _ | vrmaxSeg _ _ a p _ _ | vrmin _ _ a p _ _
  | vrminSeg _ _ a p _ _ | vscan _ _ a p _ _ _ | vmaxk _ _ a p _ _ | vmaxkSeg _ _ a p _ _ => [(p, a)]
  | fp32MaskedForms _ d p b q _ _ | int32MaskedForms _ d p b q _ _ | vsel _ d p b q _ => [(p, d), (q, b)]
  | vcoal _ _ a p _ m | vlen _ _ a p _ m => if m == 1 then [] else [(p, a)]
  | stv v _ _ _ p | stvr v _ _ _ _ _ _ p | rsfV v _ p | rsbV v _ p | rsoV v _ _ _ p => [(p, v)]
  | str v _ _ p m => if m == 1 then [] else [(p, v)]
  | madp _ _ _ v p _ => [(p, v)]
  | _ => []

/-- The accumulator bank an operation names by a field (R54). -/
def bankOf : Instr → Option (BitVec 3)
  | mzero a | mma a _ _ _ _ _ _ | mmat a _ _ _ _ _ _ | mmag a _ _ _ _ _ | mdrv _ a _ _ _ | mdrs a _ _ _ _
  | madp a _ _ _ _ _ | mmaRag a _ _ _ _ _ _ _ | mdrvRag _ a _ _ _ _ => some a
  | _ => none

/-- Lane groups of a vector operation (R55); the reserved width names none, and is a fault of its own slot alone (R58). -/
def groupsOf (i : Instr) : Nat := match i.width? with | some 0 => 1 | some 1 => 2 | some 2 => 4 | _ => 0

/-- Run lanes of a width (R55, R227). -/
def lanes (w : BitVec 2) : Nat := 4 * 2 ^ w.toNat

/-- The registers of register-file clusters that an operation touches (R225). -/
def touches (i : Instr) : List (BitVec 6) :=
  ((otherReads i) ++ (otherWrites i)).filterMap fun d => match d with | .v n => some n | _ => none

/-- The control operations of R149. -/
def isControl : Instr → Bool
  | br _ | brg _ _ _ | brz _ _ | brnz _ _ | call _ | ret | jmpr _ | loopImm _ _ | loopReg _ _ | looprImm _ _
  | looprReg _ _ | lbrk | retire | brswap _ | trap _ | sysret | sysretS => true
  | setsp _ p => p == 0
  | _ => false

/-- Operations that carry an implied sync bit (R124, R125, R140, R156, R161, R162). -/
def impliedSync : Instr → Bool
  | sysret | sysretS | frame | frameX | retire | rfmode _ | drain _ | xfence _ _ => true
  | _ => false

/-- Whether a unit of a kind may run an operation (R58 0x07, R148, R162, R191, R196). -/
def availableOn (ctl stream : Bool) : Instr → Bool
  | evpop _ _ | evpopNb _ _ | launch _ | notify _ => ctl
  | getsp _ p => ctl || p != 0x031
  | setsp _ p => ctl || p != 0x031
  | ldv .. | ldvc .. | stv .. | ldr .. | str .. | ldvr .. | stvr .. | shld .. | shwin .. | shchk .. | shq .. | mscl ..
  | tgrow .. | bara .. | barw .. | rfmode _ | setefr _ _ | frame | frameX => !ctl
  | fencei _ | brswap _ => !(ctl && stream)
  | i => !ctl || match i.slotKind with | some .sq => true | some .me => true | _ => false

/-- The kind of slot k (R40). -/
def slotKindOf (k : Nat) : SlotKind :=
  match k with | 1 => .sq | 2 => .v | 3 => .v | 4 => .mx | 5 => .gn | 6 => .me | _ => .tx

/-- The operation a queue entry holds; `none` is a NOP. Words in queues have passed decode. -/
def QOp.instr (k : Nat) (o : QOp) : Option Instr :=
  match decodeSlot (slotKindOf k) o.word with
  | .ok i => i
  | .error _ => none

/-! ## Address operands -/

/-- Base plus a signed offset (R60, R173). -/
def State.ea (s : State) (b : BitVec 5) {n : Nat} (off : BitVec n) : BitVec 64 := s.rs b + off.signExtend 64

/-- Element size in bits of a format code (R93). -/
def fmtBits (f : Nat) : Nat :=
  match f with | 0 => 32 | 1 => 16 | 2 => 16 | 3 => 8 | 4 => 8 | 5 => 32 | 6 => 8 | 7 => 8 | 8 => 6 | 9 => 4 | _ => 64

/-- The floating format of a format code 0 to 4 (R93). -/
def fmtOf (f : Nat) : Fmt := match f with | 0 => fp32 | 1 => bf16 | 2 => fp16 | 3 => e4m3 | _ => e5m2

/-- Bytes of a narrow block of 32 elements (R80). -/
def blockBytes (f : Nat) : Nat := fmtBits f * 4

/-- Fields of a shape record's header (R92). -/
def hdrField (h : List Byte) (off n : Nat) : Nat := leNat ((h.drop off).take n)

/-- GEN. -/
def Shape.gen (h : Shape) : Nat := hdrField h.hdr 0 4

/-- RANK; 0 is an empty register (R181). -/
def Shape.rank (h : Shape) : Nat := hdrField h.hdr 4 1 % 8

/-- FMT. -/
def Shape.fmt (h : Shape) : Nat := hdrField h.hdr 5 1

/-- NSEQ. -/
def Shape.nseq (h : Shape) : Nat := hdrField h.hdr 8 4

/-- An inner dimension, an unused one counting as 1. -/
def Shape.dim (h : Shape) (k : Nat) : Nat := if k < h.rank then hdrField h.hdr (12 + 4 * k) 4 else 1

/-- PITCH. -/
def Shape.pitch (h : Shape) : Nat := hdrField h.hdr 32 8

/-- BASE. -/
def Shape.base (h : Shape) : Nat := hdrField h.hdr 40 8

/-- Elements of an outer row: D1 D2 D3 (R184). -/
def Shape.rowEl (h : Shape) : Nat := h.dim 1 * h.dim 2 * h.dim 3

/-- Boundary b(j), if the window holds it (R181). -/
def Shape.bound (h : Shape) (j : Nat) : Option Nat :=
  if h.origin.toNat ≤ j && j < h.origin.toNat + h.count then (h.win[j - h.origin.toNat]?).map (·.toNat) else none

/-- Whether a header's fields are well formed (R94). -/
def headerOk (h : List Byte) : Bool :=
  let f := hdrField h
  let rank := f 4 1 % 8
  let dims := fun (k : Nat) => f (12 + 4 * k) 4
  f 48 8 == 0 && f 56 8 == 0 && f 28 4 == 0 && f 12 4 == 0 && f 6 2 == 0 && f 4 1 / 8 == 0
    && 1 ≤ rank && rank ≤ 4
    && (1 < rank) == decide (dims 1 ≠ 0) && (2 < rank) == decide (dims 2 ≠ 0) && (3 < rank) == decide (dims 3 ≠ 0)
    && f 5 1 ≤ 10 && f 8 4 ≤ 2 ^ 24 && f 32 8 != 0

/-- Whether window entries never decrease and start at 0 when they hold b(0) (R94). -/
def windowOk (origin : Nat) (w : List Word) : Bool :=
  (origin != 0 || w.headD 0 == 0) && (w.zip (w.drop 1)).all fun p => p.1.toNat ≤ p.2.toNat

end Sys2Proof.Machine
end

