-- ==== Sys2Proof/Machine/Flags.lean ====
section
/-!
DEFINITION. Flags and exposed registers: FFLAGS (R78), the special registers as GETSP reads them (R148), what an
exposed result does when it lands (R48, R49), register-file clusters (R224 to R226), the switch registers (R36).
-/

namespace Sys2Proof.Machine

/-- OR flags into FFLAGS (R78). -/
def Spr.flag (p : Spr) (f : Flags) : Spr := { p with fflags := p.fflags ||| f }

/-! ## Register-file clusters -/

/-- The register-file cluster of a vector register (R224). -/
def rfCluster (n : BitVec 6) : Nat := n.toNat / 8

/-- CLUSTER_ASLEEP of a touch of vector registers: 0x01 gated, 0x02 within the wake window (R225). -/
def Unit.asleep (x : Unit) (ns : List (BitVec 6)) : Option Flt :=
  let info := fun (n : BitVec 6) => BitVec.ofNat 64 (0x03 * 2 ^ 16 + n.toNat)
  match ns.find? fun n => !x.spr.rfmode.getLsbD (rfCluster n) with
  | some n => some (Flt.of 0x04 1 (info n))
  | none => match ns.find? fun n => x.disp.wake.any fun w => w.1.toNat == rfCluster n with
    | some n => some (Flt.of 0x04 2 (info n))
    | none => none

/-- The touch check of the issuing operation (R225). -/
def State.asleep (s : State) (i : Instr) : Option Flt := s.me.asleep (touches i)

/-- RFMODE takes a mask: gated clusters lose their registers, woken ones open a window of 64 ticks (R224, R225). -/
def Unit.setRfmode (x : Unit) (mask : Byte) : Unit :=
  let old := x.spr.rfmode
  let woken := (List.range 8).filter fun i => mask.getLsbD i && !old.getLsbD i
  let x := x.modSpr fun p => { p with rfmode := mask }
  let x := x.modEng fun e => { e with v := e.v.filter fun p => mask.getLsbD (p.1 / 8) }
  x.modDisp fun d => { d with
    wake := (d.wake.filter fun w => mask.getLsbD w.1.toNat) ++ woken.map fun i => (BitVec.ofNat 3 i, 64) }

/-! ## The switch registers (R36) -/

/-- STATE of SWCTL. -/
def Glob.swState (g : Glob) : Nat := g.swctl.toNat / 64

/-- A write of SWITCHAT: ignored while a switch runs (R36). -/
def Glob.writeSwitchat (g : Glob) (v : BitVec 64) : Glob := if g.swState == 2 then g else { g with switchat := v }

/-- A write of SWCTL: ignored while a switch runs; ARM set arms and clears ERR, ARM clear cancels (R36). -/
def Glob.writeSwctl (g : Glob) (v : Byte) : Glob :=
  if g.swState == 2 then g
  else
    let tgt := v.toNat % 8 + v.toNat / 16 % 2 * 16
    if v.getLsbD 5 then { g with swctl := BitVec.ofNat 8 (tgt + 32 + 64) }
    else
      let st := if g.swState == 1 then 0 else g.swState
      { g with swctl := BitVec.ofNat 8 (tgt + g.swctl.toNat / 8 % 2 * 8 + st * 64) }

/-! ## Special registers (R148) -/

/-- Index of loop level k of an operation's loop stack, outermost first; 0 when not open (R148, R163). -/
def loopIndex (l : List Loop) (k : Nat) : Word :=
  match l.reverse[k]? with
  | some x => x.index
  | none => 0

/-- The value of a special register for GETSP, at issue (R148, R163). DESIGN CHOICE (log entry 138): CCORE of a controller reads 0. -/
def State.getSp (s : State) (p : BitVec 12) : BitVec 64 :=
  let x := s.me
  let c := s.ctx (s.ctxOf s.u).toNat
  let o := s.cur.op
  let n := p.toNat
  match n with
  | 0x000 => o.rotb.setWidth 64
  | 0x001 => BitVec.ofNat 64 o.loops.length
  | 0x00E => match o.loops with | l :: _ => l.index.setWidth 64 | [] => 0
  | 0x010 => x.spr.rm.setWidth 64
  | 0x011 => x.spr.efrm.setWidth 64
  | 0x012 => x.spr.efrv.setWidth 64
  | 0x013 => x.spr.efrt.setWidth 64
  | 0x014 => x.spr.sfc.setWidth 64
  | 0x015 => x.spr.fflags.setWidth 64
  | 0x016 => x.spr.srseed
  | 0x017 => x.spr.rfmode.setWidth 64
  | 0x018 => BitVec.ofNat 64 (x.spr.coherent.toNat * 2 + (if x.front.half then 1 else 0))
  | 0x020 => s.timeOf (dieOf s.u)
  | 0x021 => BitVec.ofNat 64 s.u
  | 0x022 => BitVec.ofNat 64 (if isCtl s.u then 0 else s.u % 4)
  | 0x023 => match x.task with | some t => t.index.setWidth 64 | none => 0xFFFFFFFF
  | 0x024 => (s.ctxOf s.u).setWidth 64
  | 0x030 => c.plimit.setWidth 64
  | 0x040 => c.tctl.setWidth 64
  | 0x041 => x.spr.epc
  | 0x050 => x.spr.tscr0
  | 0x051 => x.spr.tscr1
  | 0x060 => s.glob.switchat
  | 0x061 => s.glob.swctl.setWidth 64
  | _ =>
    if 0x008 ≤ n && n ≤ 0x00D then (loopIndex o.loops (n - 8)).setWidth 64
    else if 0x048 ≤ n && n ≤ 0x04F then x.spr.frec.getD (n - 0x048) 0
    else 0

/-- The access checks of GETSP and SETSP (R148): supervisor-only registers, PREQ's direction, SWAT and SWCT. -/
def State.spFault (s : State) (p : BitVec 12) : Option Flt :=
  let n := p.toNat
  if (n == 0x060 || n == 0x061) && !s.isSup s.u then some (prot 7 (p.setWidth 64))
  else if (n == 0x030 || (0x040 ≤ n && n ≤ 0x051)) && !(s.me.spr.sup || s.isSup s.u) then some (prot 7 (p.setWidth 64))
  else none

/-- Set PLIMIT of a context (R33). -/
def Ctx.setPlimit (c : Ctx) (v : BitVec 64) : Ctx := { c with plimit := v.setWidth 32 }

/-- A SETSP takes its effect; a write of an RO register is ignored (R148, R163). -/
def State.setSp (s : State) (u : Nat) (p : BitVec 12) (v : BitVec 64) : State :=
  match p.toNat with
  | 0x015 => s.modUnit u fun x => x.modSpr fun y => { y with fflags := y.fflags &&& ~~~(v.setWidth 5) }
  | 0x016 => s.modUnit u fun x => x.modSpr fun y => { y with srseed := v }
  | 0x030 => s.modCtx (s.ctxOf u).toNat (·.setPlimit v)
  | 0x041 => s.modUnit u fun x =>
    (x.modSpr fun y => { y with epc := v &&& 0xFFFF0007FFFFFFFF }).modDisp fun d => { d with redo := [], gaps := [] }
  | 0x050 => s.modUnit u fun x => x.modSpr fun y => { y with tscr0 := v }
  | 0x051 => s.modUnit u fun x => x.modSpr fun y => { y with tscr1 := v }
  | 0x060 => s.modGlob (·.writeSwitchat v)
  | 0x061 => s.modGlob (·.writeSwctl (v.setWidth 8))
  | _ => s

/-! ## Landing (R48) -/

/-- FFLAGS (R78). -/
def flagsSp : Stor := .sp 0x015

/-- The exposed storage that a landing writes; a write to S0 or G0 is no write (R146). -/
def Land.dst (w : Land) : Option Stor :=
  match w with
  | .scalar 0 _ _ => none
  | .guard 0 _ _ => none
  | .scalar n _ _ => some (.s n)
  | .guard n _ _ => some (.g n)
  | .rm _ => some rmSp
  | .efr t _ => some (efrSp t.toNat)
  | .spr n _ => some (.sp n)
  | .rfmode _ => some (.sp 0x017)
  | .scale n _ => some (.sc n)
  | .flags _ => none
  | .mzero b => some (.acc b 0)

/-- The flags that an exposed result raises as it lands (R78). -/
def Land.raises (w : Land) : Flags :=
  match w with
  | .scalar _ _ f => f
  | .guard _ _ f => f
  | .flags f => f
  | _ => 0

/-- Everything that a landing writes, FFLAGS included where it raises a flag. -/
def Land.dsts (w : Land) : List Stor := w.dst.toList ++ if w.raises == 0 then [] else [flagsSp]

/-- Zero an accumulator bank of a core (R273). -/
def State.zeroBank (s : State) (u : Nat) (b : BitVec 3) : State :=
  let lo := accPlace u (b.toNat * 65536)
  { s with mem := s.mem.filter fun c => !(lo ≤ c.1 && c.1 < lo + 65536) }

/-- What an exposed result does when it lands. -/
def State.landNow (s : State) (l : Landing) : State :=
  match l.what with
  | .scalar n v f => s.modUnit l.unit fun x => (x.setS n v).modSpr (·.flag f)
  | .guard n b f => s.modUnit l.unit fun x => (x.setG n b).modSpr (·.flag f)
  | .rm v => s.modUnit l.unit fun x => x.modSpr fun y => { y with rm := v }
  | .efr t v => s.modUnit l.unit fun x => x.modSpr fun y =>
      match t.toNat with
      | 0 => { y with efrm := v }
      | 1 => { y with efrv := v }
      | _ => { y with efrt := v }
  | .spr p v => s.setSp l.unit p v
  | .rfmode m => s.modUnit l.unit (·.setRfmode m)
  | .scale n bs => s.modUnit l.unit fun x => x.modEng fun e =>
      { e with sc := Tab.set (List.replicate 512 0) e.sc n.toNat bs }
  | .flags f => s.modUnit l.unit fun x => x.modSpr (·.flag f)
  | .mzero b => s.zeroBank l.unit b

end Sys2Proof.Machine
end

