-- ==== Sys2Proof/Machine/Channels.lean ====
section
/-!
DEFINITION. What the collective engine's calls share: handles and their bindings (R331, R359), the channel table (R334 to
R336), packets and signatures (R343), the end of a call (R333), aborts (R345).
-/

namespace Sys2Proof.Machine

/-! ## Handles (R331, R359) -/

/-- The entry of the port handle table that binds a handle to a die's port for a context. -/
def State.binding (s : State) (c d : Nat) (h : BitVec 16) : Option (BitVec 128) :=
  ((List.range 32).map fun i => Tab.get 0 (s.ctx c).ports (32 * d + i)).find? fun e =>
    e.getLsbD 63 && e.setWidth 16 == h

/-- N of a binding. -/
def bindN (e : BitVec 128) : Nat := e.toNat / 2 ^ 32 % 2 ^ 13

/-- RANK of a binding; 0x1FFF is a candidate. -/
def bindRank (e : BitVec 128) : Nat := e.toNat / 2 ^ 16 % 2 ^ 13

/-- VERSION of a binding; 0 for a handle in normal mode. -/
def bindVersion (e : BitVec 128) : Word := if e.getLsbD 62 then BitVec.ofNat 32 (e.toNat / 2 ^ 64) else 0

/-- The die of this package that holds a rank of a handle, if one does. -/
def State.rankDie (s : State) (c : Nat) (h : BitVec 16) (r : Nat) : Option Nat :=
  (List.range 24).find? fun d => match s.binding c d h with | some e => bindRank e == r | none => false

/-! ## Channel entries (R334) -/

/-- A descriptor as a number. -/
def Chan.bits (c : Chan) : Nat := c.desc.foldr (fun d a => d.toNat + 2 ^ 64 * a) 0

/-- A field of a descriptor. -/
def descField (b lo n : Nat) : Nat := b / 2 ^ lo % 2 ^ n

/-- HANDLE. -/
def Chan.handle (c : Chan) : BitVec 16 := BitVec.ofNat 16 (descField c.bits 48 16)

/-- PEER. -/
def Chan.peer (c : Chan) : Nat := descField c.bits 64 12

/-- KIND: 0 SEND, 1 RECV, 2 GROUP. -/
def Chan.kind (c : Chan) : Nat := descField c.bits 94 2

/-- FMT. -/
def Chan.fmt (c : Chan) : Nat := descField c.bits 96 8

/-- DEPTH. -/
def Chan.depth (c : Chan) : Nat := descField c.bits 104 5 + 1

/-- ROP. -/
def Chan.rop (c : Chan) : Nat := descField c.bits 112 4

/-- LEN. -/
def Chan.len (c : Chan) : Nat := descField c.bits 131 13

/-- LINK. -/
def Chan.link (c : Chan) : Nat := descField c.bits 144 6

/-- TMO, in microseconds. -/
def Chan.tmo (c : Chan) : Word := BitVec.ofNat 32 (descField c.bits 160 32)

/-- RPT. -/
def Chan.rpt (c : Chan) : BitVec 64 := BitVec.ofNat 64 (descField c.bits 192 64)

/-- Whether a descriptor's fields lie in their ranges and combine as R334 allows, PEER against N and the own rank apart. -/
def descOk (b : Nat) : Bool :=
  let f := descField b
  let fmt := f 96 8
  let rop := f 112 4
  let len := f 131 13
  let kind := f 94 2
  f 0 48 == 0 && f 76 18 == 0 && f 109 3 == 0 && f 116 15 == 0 && f 150 10 == 0
    && kind != 3 && fmt ≤ 6 && rop ≤ 4 && 64 ≤ len && len ≤ 4096 && len % 64 == 0
    && (rop == 0 || (fmt == 0 && (rop == 1 || rop == 3 || rop == 4)) || (fmt == 5 && 2 ≤ rop))
    && (f 64 12 != 0xFFF || kind == 1) && (kind != 2 || f 64 12 == 0)

/-- Whether PEER fits a binding (R334). -/
def peerOk (b : Nat) (e : BitVec 128) : Bool :=
  let p := descField b 64 12
  descField b 94 2 == 2 || p == 0xFFF || (p < bindN e && p != bindRank e)

/-- A channel entry of a context. -/
def State.chan (s : State) (c : Nat) (ch : BitVec 6) : Chan := Tab.get .none (s.ctx c).chans ch.toNat

/-- Change a channel entry. -/
def State.modChan (s : State) (c : Nat) (ch : BitVec 6) (f : Chan → Chan) : State :=
  s.modCtx c fun x => { x with chans := Tab.set .none x.chans ch.toNat (f (Tab.get .none x.chans ch.toNat)) }

/-- Write an entry from the 32 bytes of a descriptor (R335): the status that CHDEF returns. -/
def State.define (s : State) (c d : Nat) (ch : BitVec 6) (bytes : List Byte) : State × Nat :=
  let b := leNat bytes
  if !descOk b then (s, 2)
  else match s.binding c d (BitVec.ofNat 16 (descField b 48 16)) with
    | none => (s, 3)
    | some e =>
      if !peerOk b e then (s, 2)
      else (s.modChan c ch fun _ =>
        ⟨true, d, (leWords 8 bytes).map (BitVec.ofNat 64), 0, 0, 0, false, false, false⟩, 0)

/-- The entry that the issuing operation names. -/
def State.myChan (s : State) (ch : BitVec 6) : Chan := s.chan (s.ctxOf s.u).toNat ch

/-- The binding of an entry's handle; all zero where there is none. -/
def State.bindOf (s : State) (c : BitVec 3) (x : Chan) : BitVec 128 := (s.binding c.toNat x.die x.handle).getD 0

/-- A GROUP channel of 4-byte elements (R340). -/
def Chan.a2aOk (x : Chan) : Bool := x.kind == 2 && (x.fmt == 0 || x.fmt == 5)

/-- What an all-to-all record of n ranks reaches: 64-aligned, in a space of the path (R340). -/
def State.a2aReach (s : State) (u d : Nat) (c : BitVec 3) (va : BitVec 64) (n : Nat) : Except Flt Reach :=
  match s.reach u d c pCO .rd false va (64 + 12 * n) with
  | .error f => .error f
  | .ok q => if va.toNat % 64 != 0 then .error ((align va 64).on pCO .rd) else .ok q

/-! ## Packets (R331, R343) -/

/-- Kinds of packets: an arm notice (R337). -/
def pkArm : Nat := 0

/-- A tile's words (R339). -/
def pkTile : Nat := 1

/-- A count of an all-to-all (R341). -/
def pkCount : Nat := 2

/-- The payload of an all-to-all. -/
def pkPay : Nat := 3

/-- A norm partial (R342). -/
def pkNorm : Nat := 4

/-- A contribution to a reduction in the switch (R348). -/
def pkSwr : Nat := 5

/-- A digest (R347). -/
def pkDig : Nat := 6

/-- An abort (R345). -/
def pkAbort : Nat := 7

/-- A contribution to an agreement round (R350). -/
def pkAgree : Nat := 8

/-- A call signature (R343). -/
def signature (cls rop fmt count : Nat) : Word := BitVec.ofNat 32 (cls * 2 ^ 28 + rop * 2 ^ 24 + fmt * 2 ^ 16 + count % 2 ^ 16)

/-- Put a packet into the fabric. -/
def State.send (s : State) (p : Packet) : State := { s with fabric := s.fabric ++ [p] }

/-- A packet of a call to a rank. -/
def State.packetTo (s : State) (c : Call) (e : BitVec 128) (r kind tile off : Nat) (va : BitVec 64) (ws : List Word) :
    Packet :=
  let ch := s.chan c.ctx.toNat c.ch
  ⟨c.id, c.ctx, ch.handle, bindVersion e, bindRank e, r, some c.die, s.rankDie c.ctx.toNat ch.handle r, kind, c.ch, c.seq,
    tile, off, c.sig, ch.tmo, va, ws⟩

/-- Send an abort packet to every member of a handle (R345). `why`: 0 a port found a mismatch, 1 the switch did, 2 a gang
switch abandoned a core whose call had not ended (R352); `from'` is the call and die of the port that sends it, if one does. -/
def State.sendAbort (s : State) (from' : Nat × Option Nat) (c : BitVec 3) (h : BitVec 16) (n rank : Nat) (ch : BitVec 6) (seq expected got : Word)
    (version : Word) (why : Nat) : State :=
  (List.range n).foldl (fun s r => s.send
    ⟨from'.1, c, h, version, rank, r, from'.2, s.rankDie c.toNat h r, pkAbort, ch, seq, 0, 0, expected, 0, 0,
      [got, BitVec.ofNat 32 why]⟩) s

/-! ## The end of a call (R333) -/

/-- The source of an asynchronous fault of a call. -/
def Call.who (c : Call) : Who := ⟨c.unit, c.ctx, c.task, 7, true, c.sup, false, c.addr, 0⟩

/-- Whether a call delivers a result to its destination (R333). -/
def Call.bears (c : Call) : Bool := c.kind == 3 || c.kind == 5 || c.kind == 7 || c.kind == 8

/-- A call by its number. -/
def State.call? (s : State) (id : Nat) : Option Call := s.calls.find? fun c => c.id == id

/-- Change a call. -/
def State.modCall (s : State) (id : Nat) (f : Call → Call) : State :=
  { s with calls := s.calls.map fun c => if c.id == id then f c else c }

/-- Whether a call of a channel is in flight. -/
def State.inFlight (s : State) (c : BitVec 3) (ch : BitVec 6) : Bool := s.calls.any fun k => k.ctx == c && k.ch == ch

/-- The result doubleword (R333). -/
def Call.result (c : Call) : BitVec 64 :=
  BitVec.ofNat 64 (c.value.toNat + c.status.toNat * 2 ^ 32 + c.count % 2 ^ 13 * 2 ^ 40)

/-- The completion event (R216, R333). -/
def Call.event (c : Call) : Event :=
  ⟨BitVec.ofNat 64 (c.seq.toNat + c.ch.toNat * 2 ^ 32 + 2 * 2 ^ 60),
   BitVec.ofNat 64 (c.status.toNat + c.flg.toNat * 2 ^ 8 + c.unit * 2 ^ 55)⟩

/-- Whether a call of the same engine that finished earlier holds its event for want of room: the engine waits (R30). -/
def State.heldCall (s : State) (c : Call) : Bool :=
  (s.calls.takeWhile fun k => k.id != c.id).any fun k => k.fin && k.post && k.die == c.die

/-- A finished call leaves: its event, when the queue has room and in the order of completion (R30), and its result. -/
def State.closeCall (s : State) (id : Nat) : State :=
  match s.call? id with
  | none => s
  | some c =>
    let q := ctlOf (clusterOf c.unit)
    if !c.fin || s.heldCall c || (c.post && !s.eventRoom q) then s
    else
      let s := if c.post then s.postEvent q c.event else s
      let s := match c.dst with
        | some d => if c.bears then
            { s with flights := s.flights ++ [(⟨s.ids, c.unit, c.bun, c.addr, 7, pNone, s.cycle, s.cycle + 1, false, false,
                [], c.task, c.sup, none, false, 0, .result [(.s d, .scalar c.result)] 0⟩ : Flight)], ids := s.ids + 1 }
          else s
        | none => s
      { s with calls := s.calls.filter fun k => k.id != id }

/-- Whether a call's report is written into tiles of its own core (R355). -/
def State.reportLocal (s : State) (c : Call) : Bool :=
  let va := (s.chan c.ctx.toNat c.ch).rpt
  va != 0 && va.toNat / 2 ^ 60 == 2 && match holderOf c.unit false va.toNat with | .ok u => u == c.unit | .error _ => false

/-- Whether a call has read its local sources and made its writes into its core's tiles (R125), a report among them (R355). -/
def State.callLocal (s : State) (c : Call) : Bool :=
  c.fin || match c.kind with
    | 1 => c.n * ((s.chan c.ctx.toNat c.ch).len / 64) ≤ c.next
    | 5 | 8 => !s.reportLocal c
    | 6 => 0 < c.next
    | _ => false

/-- Whether a call has an access of memory still to make (R35, R130): DEDUCED (log entry 147), a CSWR or GAGREE makes none but its
report. -/
def State.callAccesses (s : State) (c : Call) : Bool :=
  !c.fin && ((c.kind != 5 && c.kind != 8) || (s.chan c.ctx.toNat c.ch).rpt != 0)

/-- End a call with a status; tiles it had armed and that still await words no longer count as armed (R336). Finished calls
stand last, in the order in which they finished. -/
def State.endCall (s : State) (id : Nat) (status : Byte) (value : Word) (count : Nat) (flg : BitVec 5) : State :=
  match s.call? id with
  | none => s
  | some c =>
    if c.fin then s
    else
      let s : State := { s with calls := (s.calls.filter fun k => k.id != id) ++
        [{ c with status := status, value := value, count := count, flg := c.flg ||| flg, fin := true }] }
      (s.modChan c.ctx.toNat c.ch fun x =>
        { x with armed := x.armed - (if c.kind == 2 || c.kind == 7 then c.tiles.countP fun t => t.2 != 0 else 0) }).closeCall id

/-- A failed address check of a call: logged, status 0x06 (R336). -/
def State.callFault (s : State) (id : Nat) (f : Flt) : State :=
  match s.call? id with
  | none => s
  | some c => (s.logFault c.who f).endCall id 6 0 0 0

/-! ## Aborts (R345) -/

/-- End with status 0x02 the calls in flight of a context that a test selects, those that a gang switch saved included; what they
have contributed to slots of the switch is taken back, so that no slot completes for others with it, and a slot or round left with no
contribution is gone (R345, R350, R354). -/
def State.endCalls (s : State) (c : BitVec 3) (p : Call → Bool) : State :=
  let live := s.calls.filter fun k => k.ctx == c && !k.fin && p k
  let kept := match (s.ctx c.toNat).saved with | some v => v.calls.filter fun k => !k.fin && p k | none => []
  let ids := (live ++ kept).map (·.id)
  let s := live.foldl (fun s k => s.endCall k.id 2 0 0 0) s
  let s := if kept.isEmpty then s else s.modCtx c.toNat fun x => { x with saved := x.saved.map fun v =>
    { v with calls := v.calls.map fun k => if !k.fin && p k then { k with fin := true, status := 2 } else k } }
  { s with switch := { s.switch with slots := s.switch.slots.filterMap fun x =>
      let l := x.parts.filter fun q => !(q.srcDie.isSome && ids.contains q.call)
      if l.isEmpty then none else some { x with parts := l } } }

/-- Mark the entries bound to a handle on a die and end their calls with status 0x02. -/
def State.abortEntries (s : State) (c : BitVec 3) (d : Nat) (h : BitVec 16) : State :=
  let chs := (List.range 64).map (BitVec.ofNat 6)
  let hit := chs.filter fun ch => let x := s.chan c.toNat ch; x.defd && x.die == d && x.handle == h
  let s := hit.foldl (fun s ch => s.modChan c.toNat ch fun x => { x with aborted := true }) s
  s.endCalls c fun k => hit.contains k.ch

/-- COLL_MISMATCH, or what stands in its place, at a member (R345, R352, R353). -/
def abortFault (p : Packet) (own : Nat) (ch : BitVec 6) : Flt :=
  let why := (p.words.getD 1 0).toNat
  let key := BitVec.ofNat 64 (p.handle.toNat + ch.toNat * 2 ^ 16 + p.seq.toNat * 2 ^ 32)
  if why == 2 then Flt.of 0x29 3 key
  else { Flt.of 0x28 (if why == 0 && own == p.src then 1 else 2)
           (BitVec.ofNat 64 (p.sig.toNat + (p.words.getD 0 0).toNat * 2 ^ 32)) with
         info1 := key, info2 := BitVec.ofNat 64 p.src }

/-- The channel that an abort's record names at a member (R353): at the member whose port sends it that of its call, else that of the
member's call of that number on the handle, of its oldest call on it, its lowest entry bound to it, or the one that the packet names. -/
def State.abortChannel (s : State) (d : Nat) (p : Packet) : BitVec 6 :=
  let on := fun (ch : BitVec 6) => let x := s.chan p.ctx.toNat ch; x.defd && x.die == d && x.handle == p.handle
  let calls := s.calls.filter fun k => k.ctx == p.ctx && k.die == d && on k.ch
  if p.srcDie == some d then p.ch
  else match calls.find? fun k => k.seq == p.seq, calls with
    | some k, _ => k.ch
    | none, k :: _ => k.ch
    | none, [] => (((List.range 64).map (BitVec.ofNat 6)).find? on).getD p.ch

/-- The source of a fault that a port finds for a handle: the oldest call on it, else no task. -/
def State.handleWho (s : State) (c : BitVec 3) (d : Nat) (h : BitVec 16) : Who :=
  match s.calls.find? fun k => k.ctx == c && k.die == d && (s.chan c.toNat k.ch).handle == h with
  | some k => k.who
  | none => ⟨0x1FF, c, none, 0, true, false, false, 0, 0⟩

/-- An abort packet arrives at a die. -/
def State.receiveAbort (s : State) (d : Nat) (p : Packet) : State :=
  let own := match s.binding p.ctx.toNat d p.handle with | some e => bindRank e | none => 0x1FFF
  let w := s.handleWho p.ctx d p.handle
  (s.abortEntries p.ctx d p.handle).logFault w (abortFault p own (s.abortChannel d p))

/-- A call's handle is aborted by its own port: an abort packet goes to every member. -/
def State.abortCall (s : State) (c : Call) (expected got : Word) (why : Nat) : State :=
  let h := (s.chan c.ctx.toNat c.ch).handle
  match s.binding c.ctx.toNat c.die h with
  | some e => s.sendAbort (c.id, some c.die) c.ctx h (bindN e) (bindRank e) c.ch c.seq expected got (bindVersion e) why
  | none => s.abortEntries c.ctx c.die h

/-- A handle is aborted with no mismatch found (R114, R368): what INFO0 holds is a free value. -/
def State.forceAbort (s : State) (c : Call) : State :=
  let r := s.nextFree
  r.2.abortCall c (r.1.setWidth 32) ((r.1 >>> 32).setWidth 32) 1

end Sys2Proof.Machine
end

