-- ==== Sys2Proof/Machine/Streams.lean ====
section
/-!
DEFINITION. Reads that an engine of a core makes cycle by cycle (R269, R274, R276, R285, R320), and the banks of a scratchpad that they
occupy (R99, R269).
-/

namespace Sys2Proof.Machine

/-- Memory as a unit reads it: what it has read ahead in this cycle as it stood then (R117). -/
def State.mxMem (s : State) (u : Nat) : List Host.Cell :=
  s.seen.foldl (fun m c => if c.1 == u then wrByte m c.2.1 c.2.2 else m) s.mem

/-! ## Reads cycle by cycle -/

/-- A stream makes the reads of the present cycle, in a memory. -/
def Stream.run (r : Stream) (m : List Host.Cell) (cycle : Nat) : Stream :=
  let due := r.todo.takeWhile fun q => q.1 ≤ cycle
  { r with todo := r.todo.drop due.length, now := due.map (·.2),
           got := due.foldl (fun g q => rdBytes m q.2.1 q.2.2 :: g) r.got }

/-- The bytes of read k of a stream; of one still to be made, as memory stands now. -/
def Stream.chunk (r : Stream) (m : List Host.Cell) (k : Nat) : List Byte :=
  if k < r.got.length then r.got.getD (r.got.length - 1 - k) []
  else match r.todo[k - r.got.length]? with | some q => rdBytes m q.2.1 q.2.2 | none => []

/-- A stream by its number. -/
def State.stream? (s : State) (id : Nat) : Option Stream := s.streams.find? fun r => r.id == id

/-- The bytes of read k of stream `id`. -/
def State.chunk (s : State) (id k : Nat) : List Byte :=
  match s.stream? id with | some r => r.chunk (s.mxMem r.unit) k | none => []

/-- A stream of the issuing operation sets out: its first reads are those of this cycle. -/
def State.beginStream (s : State) (mx : Bool) (todo : List (Nat × Nat × Nat)) (hold : Nat × Nat) : State :=
  let r : Stream := ⟨s.ids, s.u, s.cur.op.seq, s.me.task, mx, todo, [], [], hold⟩
  { s with streams := s.streams ++ [r.run (s.mxMem s.u) s.cycle], ids := s.ids + 1 }

/-- Whether something still needs a stream: it has reads to make or occupies banks, or a row, a load or a transform has still to take what
it has read. -/
def State.needs (s : State) (r : Stream) : Bool :=
  !r.todo.isEmpty || !r.now.isEmpty || decide (s.cycle < r.hold.2) || (s.rows.any fun w => w.work.src.any (·.1 == r.id))
    || (s.unit r.unit).eng.load.any (fun l => l.stream == some r.id) || s.xfers.any fun x => x.work.any (·.1 == r.id)

/-- The reads of the present cycle are made, and streams that nothing needs are gone. -/
def State.streamReads (s : State) : State :=
  let s : State := { s with streams := s.streams.map fun r => r.run (s.mxMem r.unit) s.cycle }
  { s with streams := s.streams.filter s.needs }

/-- Whether the matrix engine has still to make a read of an operation of a unit's task in a bundle before n (R119). -/
def State.mxOpen (s : State) (u n : Nat) : Bool :=
  s.streams.any fun r => r.mx && r.unit == u && r.task == (s.unit u).task && decide (r.seq < n) && !r.todo.isEmpty

/-- Whether an MGENB.ADD of a unit reads a bank group (R270). -/
def State.addReads (s : State) (u : Nat) (g : BitVec 2) : Bool :=
  (s.unit u).eng.load.any fun l => l.group == some g && l.stream.any fun id => (s.stream? id).any fun r => !r.todo.isEmpty || !r.now.isEmpty

/-! ## Banks (R99, R269) -/

/-- The bank group of a place of a scratchpad, over all scratchpads. -/
def bankGroup (p : Nat) : Nat := p / 2 ^ 21

/-- Whether a range of bytes of a scratchpad has a line in a bank. -/
def bankIn (b : Nat) (p : Nat × Nat) : Bool :=
  p.2 != 0 && (let lo := p.1 / 64; (b + 16 - lo % 16) % 16 ≤ (p.1 + p.2 - 1) / 64 - lo)

/-- Whether two ranges of bytes of scratchpads, each within a bank group, have lines in one bank. -/
def banksMeet (a b : Nat × Nat) : Bool :=
  spaceOf a.1 == 2 && bankGroup a.1 == bankGroup b.1 && (List.range 16).any fun k => bankIn k a && bankIn k b

/-- Whether a matrix read occupies in this cycle a bank of a range of bytes (R269). -/
def State.bankBusy (s : State) (p : Nat × Nat) : Bool :=
  s.streams.any fun r => r.mx && ((r.now.any fun q => banksMeet q p)
    || (decide (s.cycle < r.hold.2) && spaceOf p.1 == 2 && bankGroup r.hold.1 == bankGroup p.1))

end Sys2Proof.Machine
end

