-- ==== Sys2Proof/Machine/Sources.lean ====
section
/-!
DEFINITION. Operands in memory: the ranges that vector, raw and ragged loads name (R176 to R185), the spans of matrix operands
(R269 to R287), and the tiles in which an operation's operands stand (R49).
-/

namespace Sys2Proof.Machine

/-! ## Elements and runs (R80, R92, R221) -/

/-- Bytes of `n` elements of a format, the last byte or 3-byte group whole when `whole` (R178). -/
def packedBytes (fmt n : Nat) (whole : Bool) : Nat :=
  if fmt == 8 && whole then 3 * ceilDiv n 4 else ceilDiv (n * fmtBits fmt) 8

/-- The logical length of a list of runs. -/
def runsLen (rs : List Run) : Nat := (rs.map (·.cnt)).sum

/-- Runs with the logical index of their first element. -/
def indexed (pos : Nat) (rs : List Run) : List (Nat × Run) :=
  match rs with
  | [] => []
  | r :: t => (pos, r) :: indexed (pos + r.cnt) t

/-! ## Ranges of loads and stores (R176, R181, R185) -/

/-- PROTECTION 0x10 with the count that is out of bounds (R192). -/
def outOfBounds (n : Nat) : Flt := prot 0x10 (BitVec.ofNat 64 n)

/-- Alignment of elements of a format: the block for narrow integers, else the element (R116, R176). -/
def elemAlign (fmt : Nat) : Nat := if 7 ≤ fmt && fmt ≤ 9 then blockBytes fmt else fmtBits fmt / 8

/-- SHAPE_WINDOW: shape register and sequence index in INFO0, origin and size in INFO1 (R133, R185). -/
def windowFault (hn : BitVec 3) (h : Shape) (j : Nat) : Flt :=
  { Flt.of 0x0B 0 (BitVec.ofNat 64 (hn.toNat * 2 ^ 32 + j % 2 ^ 32)) with
    info1 := BitVec.ofNat 64 (h.origin.toNat * 2 ^ 32 + h.count) }

/-- Elements of an outer row; a row of format `run` is one entry (R185). -/
def Shape.elems (h : Shape) : Nat := if h.fmt == 10 then 1 else h.rowEl

/-- The rows of n sequences from i: the first row and how many (R185, E = 0). -/
def Shape.seqRows (h : Shape) (hn : BitVec 3) (fuel j n : Nat) : Except Flt (List (Nat × Nat)) :=
  match fuel, n with
  | 0, _ => .error (windowFault hn h j)
  | _, 0 => .ok []
  | k + 1, n + 1 =>
    match h.bound j, h.bound (j + 1) with
    | some a, some b => match h.seqRows hn k (j + 1) n with
      | .ok r => .ok ((a, b - a) :: r)
      | .error f => .error f
    | none, _ => .error (windowFault hn h j)
    | _, none => .error (windowFault hn h (j + 1))

/-- Whether every boundary from k on that equals the span's end stands in the window (R185). -/
def Shape.tailOk (h : Shape) (fuel k e : Nat) : Option Nat :=
  match fuel with
  | 0 => none
  | f + 1 =>
    if h.nseq < k then none
    else match h.bound k with
      | none => some k
      | some b => if b == e then h.tailOk f (k + 1) e else none

/-- The rows of each sequence selected in row mode from sequence j, whose first row is b, up to row e (R185, E = 1). -/
def Shape.spanRows (h : Shape) (hn : BitVec 3) (fuel j b e : Nat) : Except Flt (List (Nat × Nat)) :=
  match fuel with
  | 0 => .error (windowFault hn h j)
  | k + 1 =>
    if h.nseq ≤ j then .error (outOfBounds e)
    else match h.bound (j + 1) with
      | none => .error (windowFault hn h (j + 1))
      | some c =>
        if c < e then match h.spanRows hn k (j + 1) c e with
          | .ok r => .ok ((b, c - b) :: r)
          | .error f => .error f
        else match (if c == e then h.tailOk 600 (j + 2) e else none) with
          | some m => .error (windowFault hn h m)
          | none => .ok [(b, e - b)]

/-- The rows that a ragged operation covers, or its fault (R185): SEGMENT_CROSS before SHAPE_WINDOW before PROTECTION. -/
def Shape.select (h : Shape) (hn : BitVec 3) (row nx : Bool) (i n : Nat) : Except Flt (List (Nat × Nat)) :=
  if n == 0 then .ok []
  else if !row then h.seqRows hn 600 i n
  else match h.bound i with
    | none => .error (windowFault hn h i)
    | some b =>
      let cross := match h.bound (i + 1) with | some c => nx && c < b + n | none => false
      if cross then
        .error { Flt.of 0x0A 0 (BitVec.ofNat 64 i) with info1 := BitVec.ofNat 64 ((h.bound (i + 1)).getD 0) }
      else h.spanRows hn 600 i b (b + n)

/-- The byte ranges of rows: each row's address and bytes (R92). -/
def Shape.ranges (h : Shape) (bytes : Nat) (rows : List (Nat × Nat)) : List (BitVec 64 × Nat) :=
  if bytes == 0 then []
  else (rows.map fun p => (List.range p.2).map fun k =>
    (BitVec.ofNat 64 (h.base + (p.1 + k) * h.pitch), bytes)).flatten

/-- ALIGNMENT of a narrow-integer record's BASE and PITCH (R185). -/
def Shape.misaligned (h : Shape) : Option Flt :=
  if 7 ≤ h.fmt && h.fmt ≤ 9 && (h.base % blockBytes h.fmt != 0 || h.pitch % blockBytes h.fmt != 0) then
    some (align (BitVec.ofNat 64 h.base) (blockBytes h.fmt))
  else none

/-- Element alignment of a record's rows. -/
def Shape.rowAlign (h : Shape) : Nat := if h.fmt == 10 then 8 else if 7 ≤ h.fmt then 1 else fmtBits h.fmt / 8

/-- LENGTH_MISMATCH (R133). -/
def lengthMismatch (a b : Nat) : Flt := { Flt.of 0x09 0 (BitVec.ofNat 64 a) with info1 := BitVec.ofNat 64 b }

/-! ## Matrix operands (R263 to R287) -/

/-- Bits of a format code; `efr` gives the width of narrow integers. -/
def mxBits (f : BitVec 3) (efr : Byte) : Nat := match f.toNat with | 0 => 16 | 1 => 16 | 4 => efrWidth efr | _ => 8

/-- Bytes of a row of 128 elements: z of R274. -/
def mxRow (f : BitVec 3) (efr : Byte) : Nat := 16 * mxBits f efr

/-- Rows of A that each cell serves per cycle, as a fraction (R264); `none` for a pair not in the table. -/
def mxPair (fa : BitVec 3) (wa : Nat) (fb : BitVec 3) (wb : Nat) : Option (Nat × Nat) :=
  let slices := fun (f : BitVec 3) (w : Nat) => if f == 4 then ceilDiv w 2 else 4
  match fa.toNat, fb.toNat with
  | 0, 0 => some (1, 1)
  | 1, 1 => some (1, 2)
  | a, b =>
    if (a == 2 || a == 3) && (b == 2 || b == 3) then some (4, 1)
    else if (a == 0 || a == 4) && (b == 0 || b == 4) then some (4 / slices fa wa * (4 / slices fb wb), 1)
    else none

/-- The place of a bank group's offset in the own scratchpad (R99). -/
def groupPlace (u : Nat) (g : BitVec 2) (off : Nat) : Nat := scratchPlace u (g.toNat * 2 ^ 21 + off)

/-- The byte offset that a base register holds. -/
def mxOff (sa : BitVec 64) : Nat := sa.toNat % 2 ^ 21

/-- The faults of a matrix operand's span: past the group, then alignment. -/
def operandFaults (sa : BitVec 64) (span : Nat) (a : Acc) : List Flt :=
  (if mxOff sa + span > 2 ^ 21 then [(prot 0x10 sa).on (if a == .wr then pAC else pMX) a] else [])
    ++ (if mxOff sa % 64 != 0 then [(align sa 64).on (if a == .wr then pAC else pMX) a] else [])

/-- The pair rate of the issuing operation against the active plane. -/
def State.pairRate (s : State) (fa : BitVec 3) : Option (Nat × Nat) :=
  mxPair fa (efrWidth (s.me.spr.efrm.setWidth 8)) s.me.eng.active.fb (efrWidth s.me.eng.active.efr)

/-- SHAPE_WINDOW at an edge of a window. -/
def windowEdge (h : BitVec 3) (x : Shape) (j : Nat) : Flt :=
  { Flt.of 0x0B 0 (BitVec.ofNat 64 (h.toNat * 2 ^ 32 + j)) with
    info1 := BitVec.ofNat 64 (x.origin.toNat * 2 ^ 32 + x.count) }

/-- What the snapshot cannot settle about index ranges, or an empty register (R277). -/
def memberFaults (h : BitVec 3) (x : Shape) (ranges : List (Nat × Nat)) : List Flt :=
  if x.rank == 0 then [prot 0x11 (h.setWidth 64)]
  else
    let lo := (x.win.headD 0).toNat
    let hi := (x.win.getLastD 0).toNat
    let last := x.origin.toNat + x.count - 1
    (ranges.filterMap fun r =>
      if r.1 < lo then some (windowEdge h x x.origin.toNat)
      else if hi ≤ r.2 && last != x.nseq then some (windowEdge h x last)
      else none).take 1

/-- Row and column origins of Sx. -/
def ragOrigins (sx : BitVec 64) : Nat × Nat := (sx.toNat % 2 ^ 24, sx.toNat / 2 ^ 24 % 2 ^ 24)

/-- An entry of the adapter directory of a die and context. -/
def State.adapter (s : State) (c : BitVec 3) (d id : Nat) : BitVec 128 := Tab.get 0 (s.ctx c.toNat).adapters (d * 256 + id)

/-- Fields of an entry (R283). -/
def adField (e : BitVec 128) (lo n : Nat) : Nat := e.toNat / 2 ^ lo % 2 ^ n

/-- ADAPTER_STALE of a run of MADP, if any (R285). -/
def State.stale (s : State) (v : Word) : Option Flt :=
  let id := v.toNat % 256
  let want := v.toNat / 256 % 256
  let e := s.adapter (s.ctxOf s.u) (dieOf s.u) id
  let held := adField e 16 8
  let f := fun (sub : Byte) => some (Flt.of 0x12 sub (BitVec.ofNat 64 (id + want * 256 + held * 65536)))
  if adField e 31 1 == 0 then f 2 else if held != want then f 1 else none

/-- The spans of an adapter's A and B in the issuing core's home vault. -/
def State.adapterSpans (s : State) (e : BitVec 128) : List (Nat × Nat) :=
  let n := 256 * (adField e 24 6 + 1)
  [adField e 32 25, adField e 64 25].map fun off => (vaultPlace (dieOf s.u) (coreIn s.u * 2 ^ 25 + off), n)

/-- PROTECTION 0x05 of a home-vault span outside the context's window (R101). -/
def State.homeFault (s : State) (sp : Nat × Nat) : Option Flt :=
  let d := dieOf s.u
  let w := (Tab.get 0 (s.ctx (s.ctxOf s.u).toNat).vwin d).toNat
  let lo := w % 512 * 2 ^ 20
  let p := sp.1 % 2 ^ 29
  if lo ≤ p && p + sp.2 ≤ lo + w / 2 ^ 32 % 1024 * 2 ^ 20 then none
  else some ((prot 5 (BitVec.ofNat 64 (2 ^ 60 + d * 2 ^ 29 + (p + 2 ^ 29 - lo) % 2 ^ 29))).on pMX .rd)

/-! ## What an operation waits for (R49, R57, R100) -/

/-- The element size and the ranges of memory that a load of the me slot reads as it issues; none where a fault of its registers
comes first. -/
def State.loadRanges (s : State) (i : Instr) : Nat × List (BitVec 64 × Nat) :=
  let elems := fun (b n : BitVec 5) (f : BitVec 4) =>
    let k := (s.rs n).toNat
    if k == 0 || 2 ^ 24 ≤ k || (isNarrowFmt f && 16384 < k) then (1, [])
    else (elemAlign f.toNat, [(s.rs b, packedBytes f.toNat k false)])
  match i with
  | .lds _ b o => (8, [(s.ea b o, 8)])
  | .ldsW _ b o | .ldsWu _ b o => (4, [(s.ea b o, 4)])
  | .ldsH _ b o | .ldsHu _ b o => (2, [(s.ea b o, 2)])
  | .ldsB _ b o | .ldsBu _ b o => (1, [(s.ea b o, 1)])
  | .ldv _ b n f _ | .ldvc _ b n f _ => elems b n f
  | .ldr _ b n m =>
    let k := (s.rs n).toNat
    let size := if bit1 m then 4 else 8
    if k == 0 || 4096 < k then (1, []) else (size, [(s.rs b, size * k)])
  | .ldvr _ i n h e x _ _ =>
    let r := s.me.shape h
    if r.rank == 0 || r.misaligned.isSome then (1, [])
    else match r.select h (bit1 e) (bit1 x) (s.rs i).toNat (s.rs n).toNat with
      | .error _ => (1, [])
      | .ok rows => (r.rowAlign, r.ranges (packedBytes r.fmt r.elems false) rows)
  | .shld _ b _ => (64, [(s.rs b, 64)])
  | .shwin h _ => if (s.me.shape h).rank == 0 then (1, []) else (64, [((s.me.shape h).addr, 64)])
  | .shchk h _ => if (s.me.shape h).rank == 0 then (1, []) else (4, [((s.me.shape h).addr, 4)])
  | .mscl _ b o => (512, [(s.ea b o, 512)])
  | _ => (1, [])

/-- The spans of a matrix operation's operands in memory as it issues; none where a fault of it comes first. -/
def State.matrixSpans (s : State) (i : Instr) : List (Nat × Nat) :=
  let at' := fun (sa : BitVec 64) (g : BitVec 2) (span : Nat) (ok : Bool) (more : List (Nat × Nat)) =>
    if ok && (operandFaults sa span .rd).isEmpty then (groupPlace s.u g (mxOff sa), span) :: more else []
  let efr : Byte := s.me.spr.efrm.setWidth 8
  let streams := fun (f : BitVec 3) (g : BitVec 2) => (s.pairRate f).isSome && !s.addReads s.u g
  match i with
  | .mldb g a f _ _ => at' (s.rs a) g (128 * mxRow f (s.me.spr.efrm.extractLsb' 8 8)) true []
  | .mgenbAdd n _ _ b _ f =>
    at' (s.rs b) ((s.rs b).extractLsb' 21 2) (128 * mxRow (f.setWidth 3) 0) (s.me.gslot n).isSome []
  | .mma _ g b m f _ _ => at' (s.rs b) g ((m.toNat + 1) * mxRow f efr) (streams f g) []
  | .mmat _ g b p f _ _ =>
    let pitch := (s.rs p).toNat % 2 ^ 16
    at' (s.rs b) g (128 * 64 * pitch) (streams f g && pitch % 2 == 1) []
  | .mmaRag _ g b x h f _ _ =>
    let sx := s.rs x
    let (ro, co) := ragOrigins sx
    let m := sx.toNat / 2 ^ 48 % 2 ^ 7 + 1
    at' (s.rs b) g (m * mxRow f efr)
      (streams f g && (memberFaults h (s.me.shape h) [(ro, ro + m - 1), (co, co + 127)]).isEmpty) []
  | .madp _ g b v _ m =>
    let runs := s.me.vreg v
    let live := (indexed 0 runs).filter fun q => q.2.cnt != 0
    let spans := (live.map fun q =>
      s.adapterSpans (s.adapter (s.ctxOf s.u) (dieOf s.u) (q.2.val.toNat % 256))).flatten
    at' (s.rs b) g ((m.toNat + 1) * 256) (runsLen runs == m.toNat + 1 && !s.addReads s.u g
      && (live.all fun q => (s.stale q.2.val).isNone) && spans.all fun p => (s.homeFault p).isNone) spans
  | _ => []

/-- The spans of the record that a CA2AP reads as it issues, where it may issue and its entry is not aborted (R341, R345). -/
def State.recordSpans (s : State) (i : Instr) : List (Nat × Nat) :=
  match i with
  | .ca2ap ch a _ _ =>
    let x := s.myChan ch
    if x.defd && x.die == dieOf s.u && x.a2aOk && !x.stale && !x.aborted then
      match s.a2aReach s.u (dieOf s.u) (s.ctxOf s.u) (s.rs a) (bindN (s.bindOf (s.ctxOf s.u) x)) with
      | .ok q => q.spans
      | .error _ => []
    else []
  | _ => []

/-- The tiles in which the issuing operation's operands stand: an operand is present while they are full (R49). -/
def State.operandTiles (s : State) (i : Instr) : List Nat :=
  let l := s.loadRanges i
  let loads := match s.access pSL .rd false l.1 l.2 with
    | .ok r => r.spans
    | .error _ => []
  tilesOfSpans (loads ++ s.matrixSpans i ++ s.recordSpans i)

end Sys2Proof.Machine
end

