-- ==== Sys2Proof/Machine/Issue.lean ====
section
/-!
DEFINITION. Fetch, decode, dispatch and the conditions of issue (R40 to R58, R149 to R156, R374).
-/

namespace Sys2Proof.Machine

/-! ## Loop ends (R151) -/

/-- Bytes or bundles from one bundle to the next: a stream counts bytes (R22, R150). -/
def codeStep (stream : Bool) : BitVec 64 := if stream then 32 else 1

/-- The loop-end rule at bundle e, over the levels from the innermost outwards (R151). -/
def loopEnd (step e : BitVec 64) (rotb : BitVec 4) (ls : List Loop) : BitVec 64 × BitVec 4 × List Loop :=
  match ls with
  | [] => (e + step, rotb, [])
  | l :: r =>
    if l.last == e then
      let rotb := if l.rot then rotb - 1 else rotb
      let ix := l.index + 1
      if ix.ult l.count then (l.first, rotb, { l with index := ix } :: r) else loopEnd step e rotb r
    else (e + step, rotb, l :: r)

/-- The front end after a bundle that no control operation of it redirects. -/
def Front.after (f : Front) (stream : Bool) (e : BitVec 64) : Front :=
  let r := loopEnd (codeStep stream) e f.rotb f.loops
  { f with pc := r.1, rotb := r.2.1, loops := r.2.2 }

/-! ## Fetch -/

/-- Bundles in a half of a unit's store (R9, R10). -/
def halfSize (u : Nat) : Nat := if isCtl u then 1024 else 4096

/-- The key of a bundle of a unit's store. -/
def codeKey (u : Nat) (addr : Nat) : Nat := u * 8192 + addr

/-- The bundle number within the half executed. -/
def Front.index (f : Front) : Nat := f.pc.toNat - (if f.half then 4096 else 0)

/-- Whether the next bundle lies in the half executed (R374). -/
def Front.inHalf (f : Front) (u : Nat) : Bool := decide ((if f.half then 4096 else 0) ≤ f.pc.toNat) && f.index < halfSize u

/-- A bundle of the store; while the half's coherent bit is clear, its old or its new contents (R154). -/
def State.codeAt (s : State) (u addr : Nat) (coherent : Bool) : BitVec 256 :=
  let k := codeKey u addr
  match (if coherent then none else s.codeOld.find? fun p => p.1 == k) with
  | some p => if Config.staleFetch s.fresh then p.2 else Tab.get 0 s.code k
  | none => Tab.get 0 s.code k

/-- Slot k's word of a bundle (R40). -/
def bundleWord (b : BitVec 256) (k : Nat) : Word := b.extractLsb' (32 * k) 32

/-! ## Decode of a whole bundle (R43, R58) -/

/-- A bundle's operations by slot. -/
abbrev Ops := List (Nat × Instr)

/-- The guard selector of a slot (R41). -/
def hdrGuard (h : Word) (k : Nat) : BitVec 2 := h.extractLsb' (2 * k - 2) 2

/-- The sync bit of a slot (R41). -/
def hdrSync (h : Word) (k : Nat) : Bool := h.getLsbD (23 + k)

/-- The branch offset of a branch, in bundles (R159). -/
def branchOff? : Instr → Option (BitVec 16)
  | .br o | .brg _ _ o | .brz _ o | .brnz _ o | .call o => some o
  | _ => none

/-- END of a loop operation (R160). -/
def loopEnd? : Instr → Option (BitVec 12)
  | .loopImm _ e | .loopReg _ e | .looprImm _ e | .looprReg _ e => some e
  | _ => none

/-- Whether a branch target or a loop's END leaves the half (R159, R160). -/
def targetBad (u : Nat) (stream : Bool) (idx : Nat) (i : Instr) : Bool :=
  if stream then false
  else match branchOff? i with
    | some o => let t : Int := (idx : Int) + o.toInt; t < 0 || (halfSize u : Int) ≤ t
    | none => match loopEnd? i with
      | some e => halfSize u ≤ idx + e.toNat
      | none => false

/-- The operation that a slot's word names, whether or not its fields hold values that it allows (R58); VSEGSET is one that
wants M = 1 (R252). -/
def namedOp (k : Nat) (w : Word) : Option Instr :=
  match rawDecode (slotKindOf k) w with
  | .ok i => some i
  | .error .width | .error .value => (rawDecode (slotKindOf k) (w ||| 16)).toOption
  | .error .unassigned | .error .reserved => none

/-- Subcodes and slot of one operation's own decode faults. -/
def ownFault (u : Nat) (stream : Bool) (idx k : Nat) (w : Word) : List (Nat × Nat) :=
  (match decodeSlot (slotKindOf k) w with
    | .error e => [(e.sub.toNat, k)]
    | .ok _ => [])
  ++ match namedOp k w with
    | none => []
    | some i =>
      (if availableOn (isCtl u) stream i then [] else [(7, k)]) ++ (if targetBad u stream idx i then [(9, k)] else [])

/-- Whether a slot reads a register, its guard selector included: a NOP's selector is read too (R42). -/
def slotReads (h : Word) (rotb : BitVec 4) (ops : Ops) (k : Nat) (d : Stor) : Bool :=
  (ops.any fun p => p.1 == k && (readsOf p.2 rotb).contains d) || (hdrGuard h k != 0 && d == .g (hdrGuard h k))

/-- Faults that need two slots of the bundle: ports, banks, lane groups, reads against tracked writes, and the bank group
of the last MLDB (R51, R52, R54, R55, R270). -/
def crossFaults (h : Word) (rotb : BitVec 4) (mldb : Option (BitVec 2)) (ops : Ops) : List (Nat × Nat) :=
  let ports := (ops.map fun p => (portsOf p.2).map fun q => (p.1, q)).flatten
  let f3 := ports.filterMap fun a =>
    if ports.any fun b => a.2.1 == b.2.1 && a.2.2 != b.2.2 then some (3, a.1) else none
  let f4 := ops.filterMap fun a => match bankOf a.2 with
    | some b => if ops.any fun c => c.1 != a.1 && bankOf c.2 == some b then some (4, a.1) else none
    | none => none
  let grp := ops.filter fun p => p.1 == 2 || p.1 == 3
  let f5 := if (grp.map fun p => groupsOf p.2).foldl (· + ·) 0 > 4 then
    match grp with | p :: _ => [(5, p.1)] | [] => [] else []
  let f6 := ops.filterMap fun a =>
    let g := match a.2 with
      | .mma _ g _ _ _ _ _ | .mmat _ g _ _ _ _ _ | .mmaRag _ g _ _ _ _ _ _ | .madp _ g _ _ _ _ => some g
      | _ => none
    if g.isSome && g == mldb then some (6, a.1) else none
  let f8 := (ops.map fun a => ((writesOf a.2 rotb).filter (trackedBy a.1)).filterMap fun d =>
    match [1, 2, 3, 4, 5, 6, 7].find? fun k => k != a.1 && slotReads h rotb ops k d with
    | some k => some (8, min a.1 k)
    | none => none).flatten
  f3 ++ f4 ++ f5 ++ f6 ++ f8

/-- The lowest subcode, and of equal ones the lowest slot (R58). -/
def worst (fs : List (Nat × Nat)) : Option (Nat × Nat) :=
  fs.foldl (fun a f => match a with
    | none => some f
    | some b => if f.1 < b.1 || (f.1 == b.1 && f.2 < b.2) then some f else a) none

/-- Decode a bundle for a unit: its operations, or the subcode and slot of ILLEGAL_ENCODING. -/
def decodeBundle (u : Nat) (stream : Bool) (idx : Nat) (rotb : BitVec 4) (mldb : Option (BitVec 2)) (b : BitVec 256) :
    Except (Nat × Nat) Ops :=
  let ks := [1, 2, 3, 4, 5, 6, 7]
  let own := (ks.map fun k => ownFault u stream idx k (bundleWord b k)).flatten
  let ops := ks.filterMap fun k => (namedOp k (bundleWord b k)).map fun i => (k, i)
  match worst (own ++ crossFaults (bundleWord b 0) rotb mldb ops) with
  | some f => .error f
  | none => .ok ops

/-- Pairs of slots that name one destination register (R56). -/
def collisions (rotb : BitVec 4) (ops : Ops) : List (Nat × Nat) :=
  (ops.map fun a => ops.filterMap fun b =>
    if a.1 < b.1 && (writesOf a.2 rotb).any fun d => (writesOf b.2 rotb).contains d then some (a.1, b.1)
    else none).flatten

/-! ## Dispatch (R43, R45, R149) -/

/-- The oldest bundle that a slot has not issued (R45). -/
def Unit.oldest (x : Unit) (u : Nat) : Nat := (slotsOf u).foldl (fun m k => min m (x.headSeq k)) x.disp.seq

/-- The oldest bundle that a slot had not issued when the cycle began (R45). -/
def Unit.oldestAt (x : Unit) (u cycle : Nat) : Nat :=
  (slotsOf u).foldl (fun m k => min m (if cycle < (x.slot k).last then x.headSeq k - 1 else x.headSeq k)) x.disp.seq

/-- Whether a FRAME of a dispatched bundle has still to issue. -/
def Unit.framePending (x : Unit) : Bool :=
  (x.slot 1).queue.any fun o => match o.instr 1 with | some .frame => true | some .frameX => true | _ => false

/-- Whether a unit may dispatch in this cycle: it runs, is not frozen, no control operation is awaited, no fault is
pending, nothing has dispatched in this cycle, and the slip bound holds; in BOOTFAIL no core runs, and no controller, a narrow core
(R9, R43, R45, R134, R149, R365). -/
def State.mayDispatch (s : State) (u : Nat) : Bool :=
  let x := s.unit u
  x.on && !x.frozen && !s.glob.bootfail && x.disp.wait == none && x.disp.pend == none && !x.disp.closed
    && x.disp.last ≤ s.cycle && x.disp.earliest ≤ s.cycle && x.disp.seq - x.oldestAt u s.cycle < 16

/-- Every dispatched operation of a unit has issued. -/
def Unit.allIssued (x : Unit) (u : Nat) : Bool := x.oldest u == x.disp.seq

/-- What a fetch gives: a bundle with the translations to cache, or a fault. DEDUCED (log entry 109): R132 names no PATH for a
command-stream fetch, and the record holds 0b111, none. -/
def State.fetch (s : State) (u : Nat) : Except Flt (BitVec 256 × List TlbEntry) :=
  let x := s.unit u
  if x.stream then
    match s.reach u (dieOf u) (s.ctxOf u) pSL .fetch false x.front.pc 32 with
    | .error f => .error { f with path := pNone, info0 := x.front.pc }
    | .ok r => .ok (BitVec.ofNat 256 (leNat (rdSpans (s.mxMem u) r.spans)), r.tlb)
  else
    .ok (s.codeAt u x.front.pc.toNat (x.spr.coherent.getLsbD (if x.front.half then 1 else 0)), [])

/-- Pending marks that a bundle's operations set (R43, R146). -/
def marksOf (seq : Nat) (rotb : BitVec 4) (ops : Ops) : List (Nat × Nat × Stor) :=
  (ops.map fun p => ((writesOf p.2 rotb).filter (trackedBy p.1)).map fun d => (seq, p.1, d)).flatten

/-- The last MLDB dispatched after a bundle (R270). -/
def mldbAfter (m : Option (BitVec 2)) (ops : Ops) : Option (BitVec 2) :=
  match ops.find? fun p => p.1 == 4 with
  | some (_, .mldb g _ _ _ _) => some g
  | some (_, .mswap) => none
  | _ => m

/-- Place a decoded bundle in the slot queues (R43): operations to discard under SKIP are left out (R140), and a
control operation left out applies its recorded effect again. -/
def Unit.enqueue (x : Unit) (u cycle : Nat) (b : BitVec 256) (ops : Ops) (missed : Bool) : Unit :=
  let d := x.disp
  let h := bundleWord b 0
  let f := x.front
  let seq := d.seq
  let skip := fun (k : Nat) => d.skips.getD k 0 != 0 && !d.gaps.any fun e => e.1 == k && e.2.1 == seq
  let live := ops.filter fun p => !skip p.1
  let op := fun (k : Nat) => (⟨seq, f.pc, bundleWord b k, hdrGuard h k,
    hdrSync h k || (live.any fun p => p.1 == k && impliedSync p.2), h.extractLsb' 14 10, f.rotb, f.loops, cycle⟩ : QOp)
  let x := (slotsOf u).foldl (fun x k =>
    if skip k then x else x.modSlot k fun sl => { sl with queue := sl.queue ++ [op k] }) x
  let ctl := live.any fun p => p.1 == 1 && isControl p.2
  let gone := ops.any fun p => p.1 == 1 && isControl p.2 && skip 1
  let redo := d.redo.find? fun r => r.1 == seq
  let fell := f.after x.stream f.pc
  let next := if ctl then f else match gone, redo with | true, some r => r.2 | _, _ => fell
  let bun : Bun := ⟨seq, f.pc, h.getLsbD 31, h.extractLsb' 14 10, f, if gone then some next else none,
    live.any (fun p => p.2 == .frame || p.2 == .frameX), (ops.map (·.1)).filter skip, collisions f.rotb live, none, false, missed⟩
  let x := { x with front := next }
  x.modDisp fun d => { d with
    seq := seq + 1, last := cycle + 1, wait := if ctl then some seq else none, buns := d.buns ++ [bun],
    marks := d.marks ++ marksOf seq f.rotb live, mldb := mldbAfter d.mldb live,
    closed := d.closed, skips := d.skips.mapIdx fun k n => if skip k then n - 1 else n,
    ahead := d.ahead ++ ((slotsOf u).filter fun k => skip k && !(x.slot k).queue.isEmpty).map fun k => (k, seq) }

/-- The fault of a bundle that does not dispatch (R43, R57, R374): nothing of it issues and every SKIP is 0. -/
def State.raiseFront (s : State) (u : Nat) (slot : Nat) (addr : BitVec 64) (f : Flt) : State :=
  s.raiseAt u (s.unit u).disp.seq addr slot false f

/-- INFO0 of SCHED_OVERRUN (R133). -/
def schedFault (sub : Byte) (sfc : BitVec 11) (stamp : BitVec 10) : Flt :=
  Flt.of 0x20 sub (BitVec.ofNat 64 (sfc.toNat * 2 ^ 32 + stamp.toNat))

/-- Whether dispatch does anything for a unit in this cycle: a bundle or a fault of its fetch, unless a pre-emption holds the
bundle or operations before a faulting fetch have still to issue (R32, R43, R57). -/
def State.dispatches (s : State) (u : Nat) : Bool :=
  let x := s.unit u
  s.mayDispatch u && ((!x.stream && !x.front.inHalf u) || match s.fetch u with
    | .error _ => x.allIssued u
    | .ok (b, _) => !((bundleWord b 0).getLsbD 31 && x.preempt.isSome && !x.spr.sup && x.disp.skips.all (· == 0)))

/-- Dispatch the next bundle of a unit (R43), if it may dispatch; a bundle marked D waits for a pre-emption requested (R32). -/
def State.dispatch (s : State) (u : Nat) : State :=
  if !s.mayDispatch u then s
  else
    let x := s.unit u
    let f := x.front
    if !x.stream && !f.inHalf u then
      s.raiseFront u 0 (BitVec.ofNat 64 ((if f.half then 4096 else 0) + halfSize u - 1)) (prot 0x0D f.pc)
    else match s.fetch u with
      | .error flt =>
        let w : Who := ⟨u, s.ctxOf u, none, 0, true, s.isSup u, true, f.pc, 0⟩
        if x.allIssued u then (s.logFault w flt).stopCtl u f.pc else s
      | .ok (b, tlb) =>
        let s' := s
        let s := { (s.tlbAdd (dieOf u) tlb) with fresh := s.fresh + 1 }
        let h := bundleWord b 0
        let ops? := decodeBundle u x.stream f.index f.rotb x.disp.mldb b
        let frame := match ops? with
          | .ok ops => ops.any fun p => p.2 == .frame || p.2 == .frameX
          | .error _ => false
        let stamp : BitVec 10 := h.extractLsb' 14 10
        if h.getLsbD 31 && x.preempt.isSome && !x.spr.sup && x.disp.skips.all (· == 0) then s'
        else match ops? with
          | .error (sub, k) =>
            s.raiseFront u k f.pc (Flt.of 1 (BitVec.ofNat 8 sub) ((bundleWord b k).setWidth 64))
          | .ok ops =>
            let missed := x.spr.inv && !x.spr.sup && !frame && decide (stamp.toNat < x.spr.sfc.toNat)
            if missed && !x.framePending then s.raiseFront u 0 f.pc (schedFault 4 x.spr.sfc stamp)
            else s.modUnit u fun x => x.enqueue u s.cycle b ops missed

/-! ## Control operations (R149) -/

/-- The issuing control operation has decided the next bundle: the front end goes on from `f` in the next cycle. -/
def State.redirect (s : State) (f : Front) : State :=
  s.modUnit s.u fun x =>
    let x := { x with front := f }
    x.modDisp fun d => { d with
      wait := none, earliest := s.cycle + 1,
      buns := d.buns.map fun b => if b.seq == s.cur.op.seq then { b with after := some f } else b }

/-- The control operation falls through: the loop-end step of its bundle follows (R151). -/
def State.fallThrough (s : State) : State :=
  let x := s.me
  s.redirect (x.front.after x.stream s.cur.op.addr)

/-- The control operation transfers control to a code address. -/
def State.goTo (s : State) (t : BitVec 64) : State := s.redirect { s.me.front with pc := t }

/-! ## Conditions of issue (R44, R46, R51, R53) -/

/-- Whether every other slot has issued what a sync bit of bundle n waits for (R46). -/
def Unit.syncMet (x : Unit) (u cycle k n : Nat) : Bool :=
  (slotsOf u).all fun j =>
    j == k || n < x.headSeq j || (x.headSeq j == n && (x.slot j).last ≤ cycle)

/-- Whether a register carries a pending mark of an earlier bundle (R51). -/
def Disp.marked (d : Disp) (seq : Nat) (r : Stor) : Bool := d.marks.any fun m => decide (m.1 < seq) && m.2.2 == r

/-- Whether a read of an earlier bundle, or this one's, holds one of an operation's ports for another bundle (R53). -/
def Disp.portHeld (d : Disp) (cycle seq : Nat) (ps : List (BitVec 2 × BitVec 6)) : Bool :=
  ps.any fun p => d.ports.any fun h => h.1 == p.1 && decide (cycle < h.2.2.1) && h.2.2.2 != seq

/-- The slots that issue accesses of an XFENCE path b (R125). -/
def xfenceSlots (b : Nat) : List Nat :=
  match b with | 0 => [6] | 1 => [4] | 2 => [4] | 3 => [7] | 4 => [7] | 5 => [6] | _ => [4, 6, 7]

/-- Whether an earlier bundle's DRAIN or XFENCE that has not issued holds slot k's operation of bundle n (R124, R125). -/
def Unit.fenceHolds (x : Unit) (k n : Nat) : Bool :=
  k != 6 && (x.slot 6).queue.any fun o => decide (o.seq < n) && match o.instr 6 with
    | some (.drain _) => true
    | some (.xfence _ b) => (xfenceSlots b.toNat).contains k
    | _ => false

/-- Whether an RFMODE of an earlier bundle that has not taken effect changes a cluster the operation touches (R226). -/
def State.rfHolds (s : State) (u n : Nat) (i : Instr) : Bool :=
  let x := s.unit u
  let hits := fun (m : Byte) => (touches i).any fun v =>
    x.spr.rfmode.getLsbD (rfCluster v) != m.getLsbD (rfCluster v)
  ((x.slot 1).queue.any fun o => decide (o.seq < n) && match o.instr 1 with | some (.rfmode m) => hits m | _ => false)
    || s.landings.any fun l => l.unit == u && decide (l.seq < n) && match l.what with | .rfmode m => hits m | _ => false

/-- Registers that a flight writes when it arrives. -/
def Flight.dsts (f : Flight) : List Stor :=
  match f.what with
  | .result ws _ => ws.map (·.1)
  | .load d _ _ => [d]
  | .snap h _ _ _ _ _ _ _ _ => [.h h]
  | .req _ _ ds => ds
  | .chdef _ d _ => [.s d]
  | .bound (some v) => [.v v]
  | _ => []

/-- Whether a write of bundle m to a register may take effect: no earlier mark on it, no operation of an earlier bundle
still to read it, a NOP's selector included (R42), no exposed write of an earlier bundle still to issue or to land (R51). -/
def State.mayWrite (s : State) (u m : Nat) (d : Stor) : Bool :=
  let x := s.unit u
  !x.disp.marked m d
    && !(slotsOf u).any (fun k => (x.slot k).queue.any fun o => decide (o.seq < m) && ((o.guard != 0 && d == .g o.guard) || match o.instr k with
        | some i => (readsOf i o.rotb).contains d || (k == 1 && (writesOf i o.rotb).contains d)
        | none => false))
    && !s.landings.any fun l => l.unit == u && decide (l.seq < m) && l.what.dst == some d

/-- Whether the unit still runs the task that sent a flight. -/
def State.current (s : State) (f : Flight) : Bool := f.task == (s.unit f.unit).task && (s.unit f.unit).on

/-- The flags that a flight raises as it ends, as far as they are known (R78). -/
def Fly.raises (w : Fly) : Flags :=
  match w with
  | .result _ fl => fl
  | .drain _ _ fl => fl
  | .req (.bfin _ _ _ fl) _ _ => fl
  | _ => 0

/-- Whether a result of fixed latency that raises flags is due, and nothing holds its write: the flags are in FFLAGS within this
cycle (R78, R171). -/
def State.flagsDue (s : State) (f : Flight) : Bool :=
  f.path == pNone && decide (f.due ≤ s.cycle) && s.current f && f.what.raises != 0
    && (match f.what with | .result .. => true | _ => false) && f.dsts.all (s.mayWrite f.unit f.seq)

/-- Whether a write of FFLAGS by an earlier bundle than n is due and has still to land (R48). -/
def State.flagsHeld (s : State) (u n : Nat) : Bool :=
  s.landings.any fun l => l.unit == u && decide (l.due ≤ s.cycle) && decide (l.seq < n) && l.what.dst == some flagsSp

/-- Whether landing `l` of the list may land now: it is due, and no due landing of an earlier bundle to the same storage
stands before it, a flag of mx, va or vb included, so that of two in one cycle the later bundle's write stands (R48, R171). -/
def State.mayLand (s : State) (l : Landing) : Bool :=
  decide (l.due ≤ s.cycle) && !(s.landings.any fun k =>
    k.unit == l.unit && decide (k.due ≤ s.cycle) && decide (k.seq < l.seq) && k.what.dsts.any fun d => l.what.dsts.contains d)
    && !(l.what.dsts.contains flagsSp
      && ((s.rows.any fun r => r.unit == l.unit && decide (r.due ≤ s.cycle) && decide (r.seq < l.seq) && r.work.fl.isSome)
        || s.flights.any fun f => f.unit == l.unit && decide (f.seq < l.seq) && s.flagsDue f))

/-- Whether the unit still has a result that lands in this cycle, the flags of va and vb included. -/
def State.landsNow (s : State) (u : Nat) : Bool :=
  (s.landings.any fun l => l.unit == u && l.due ≤ s.cycle) || (s.rows.any fun r => r.unit == u && r.due ≤ s.cycle)
    || s.flights.any fun f => f.unit == u && s.flagsDue f

/-- Whether an operation that holds me until it is done is under way: SHLD, SHWIN (R174), TGROW (R211), LAUNCH (R217). -/
def State.snapping (s : State) (u : Nat) : Bool :=
  s.flights.any fun f => f.unit == u && f.task == (s.unit u).task && match f.what with
    | .snap .. => true
    | .req (.grow _) .. => true
    | .req (.launch live) .. => live
    | _ => false

/-- The value of a slot's guard for an operation: that read together with a colliding slot's, else the guard as it stands
(R42, R56). -/
def Unit.guardOf (x : Unit) (k : Nat) (o : QOp) : Bool :=
  match (x.disp.buns.find? fun b => b.seq == o.seq).bind fun b => b.guards.bind fun l => l.find? fun p => p.1 == k with
  | some p => p.2
  | none => x.guard o.guard

/-- Whether a slot's guard has been read, together with a colliding slot's (R56). -/
def Unit.guardRead (x : Unit) (k : Nat) (o : QOp) : Bool :=
  x.disp.buns.any fun b => b.seq == o.seq && b.guards.any fun l => l.any fun p => p.1 == k

/-- Whether a slot's guard is still to be read and carries a pending mark. -/
def Unit.guardMarked (x : Unit) (k : Nat) (o : QOp) : Bool :=
  o.guard != 0 && x.disp.marked o.seq (.g o.guard) && !x.guardRead k o

/-- Whether the guards of an operation's bundle with colliding slots have still to be read together (R56). -/
def Unit.unread (x : Unit) (o : QOp) : Bool :=
  x.disp.buns.any fun b => b.seq == o.seq && !b.collide.isEmpty && b.guards.isNone

/-- Whether an operation is one of a colliding pair's bundle, whose slots carry sync bits (R56). -/
def Unit.colliding (x : Unit) (o : QOp) : Bool := x.disp.buns.any fun b => b.seq == o.seq && !b.collide.isEmpty

/-- Whether an operand is absent: a mark of an earlier bundle on a register read, or on one that an exposed producer writes
(R51). -/
def Unit.absent (x : Unit) (k : Nat) (o : QOp) (i : Instr) : Bool :=
  (readsOf i o.rotb).any (fun r => trackable r && x.disp.marked o.seq r)
    || (writesOf i o.rotb).any fun r => !trackedBy k r && trackable r && x.disp.marked o.seq r

/-- Whether a unit's transfer operations in flight are as many as may be (R313). -/
def State.queueFull (s : State) (u : Nat) : Bool := 64 ≤ (s.xfers.filter fun x => x.unit == u && !x.recd).length

/-- Operations that take an entry of the transfer queue (R313). -/
def takesToken : Instr → Bool
  | .cpy .. | .cpyZ .. | .cpyr .. | .imload .. | .xpose .. | .xcvt .. | .xexp .. => true
  | _ => false

/-- A block's header: well formed (its reserved fields, MAGIC and FMT), and its fields. -/
structure BlockHdr where
  ok : Bool
  len : Nat
  nruns : Nat
  fmt : Nat
  expt : Nat
deriving DecidableEq, Repr

/-- Read a block's header. -/
def blockHdr (bs : List Byte) : BlockHdr :=
  let x := leNat (bs.take 32)
  let fmt := x / 2 ^ 16 % 256
  let len := x / 2 ^ 64 % 2 ^ 32
  ⟨x % 256 == 0xC7 && x / 2 ^ 10 % 2 ^ 6 == 0 && x / 2 ^ 24 % 256 == 0 && x / 2 ^ 56 % 256 == 0 && x / 2 ^ 96 == 0
     && fmt ≤ 6 && len < 2 ^ 24, len, x / 2 ^ 32 % 2 ^ 24, fmt, x / 2 ^ 8 % 4⟩

/-- Source and destination bytes of XCVT. -/
def xcvtSizes (k n w : Nat) : Nat × Nat :=
  if 1 ≤ k && k ≤ 4 then (4 * n, n * fmtBits k / 8)
  else if 5 ≤ k && k ≤ 8 then (n * fmtBits (k - 4) / 8, 4 * n)
  else if k == 9 then (4 * n, n * w / 8 + n / 32)
  else (n * w / 8 + n / 32, 4 * n)

/-- The ranges of the own scratchpad that a transform reads, which must stand in full tiles when it issues (R320, R322, R323):
offsets and lengths. A block is read whole only where its header stands and names it. -/
def State.transformSource (s : State) (u : Nat) (o : QOp) (i : Instr) : List (Nat × Nat) :=
  let x := s.unit u
  let off := fun (a : BitVec 5) => (x.sreg (physS o.rotb a)).toNat % 2 ^ 23
  match i with
  | .xpose _ _ a _ _ => [(off a, 4096)]
  | .xcvt _ _ a n k _ =>
    let c := (x.sreg (physS o.rotb n)).toNat % 2 ^ 32
    if 4096 < c || (9 ≤ k.toNat && c % 32 != 0) then []
    else [(off a, (xcvtSizes k.toNat c (efrWidth (x.spr.efrt.setWidth 8))).1)]
  | .xexp _ d a _ =>
    let h := blockHdr (rdBytes s.mem (scratchPlace u (off a)) 32)
    let total := 32 + 8 * h.nruns
    if h.ok && off a % 32 == 0 && off d % 64 == 0 && off a + total ≤ 2 ^ 23 then [(off a, 32), (off a, total)]
    else [(off a, 32)]
  | _ => []

/-- Whether a unit is in Invar mode, held to its stamps (R57, R156). -/
def Unit.invar (x : Unit) : Bool := x.spr.inv && !x.spr.sup

/-- The wait of an operation at its issue that SCHED_OVERRUN names in Invar mode: 1 for an empty source tile (R49), 2 for a full
transfer queue, and for an MZERO the rows of earlier bundles (R273, R313, R320). Outside Invar mode the meaning of a load or a matrix
operation waits for its tiles itself. -/
def State.issueWait (s : State) (u : Nat) (o : QOp) (i : Instr) : List Nat :=
  (if ((s.transformSource u o i).all fun p => s.allFull (tilesOf (scratchPlace u p.1) (min p.2 (2 ^ 23 - p.1))))
      && (!(s.unit u).invar || s.allFull (({ s with cur := ⟨u, 1, o⟩ } : State).operandTiles i)) then [] else [1])
  ++ (if takesToken i && s.queueFull u then [2] else [])
  ++ match i with
    | .mzero a => if s.rows.any fun r => r.unit == u && r.bank == a && decide (r.seq < o.seq) then [2] else []
    | _ => []

/-- Why the head of a slot may not issue now: 1 operand absent, 2 slot occupied, 3 port held, 4 any other wait (R44, R57). -/
def State.blocks (s : State) (u k : Nat) (o : QOp) : List Nat :=
  let x := s.unit u
  let live : Option Instr := if !x.guardMarked k o && x.guardOf k o then o.instr k else none
  let own := match live with | some i => s.issueWait u o i | none => []
  (if x.guardMarked k o || live.any (x.absent k o) || own.contains 1 then [1] else [])
  ++ (if s.cycle < (x.slot k).busy || (k == 6 && s.snapping u) || own.contains 2 then [2] else [])
  ++ (if live.any fun i => x.disp.portHeld s.cycle o.seq (portsOf i) then [3] else [])
  ++ (if !x.on || x.frozen || s.cycle < o.born || s.landsNow u
        || (match x.disp.pend with | some p => decide (p.seq ≤ o.seq) | none => false)
        || ((o.sync || x.colliding o) && !x.syncMet u s.cycle k o.seq) || x.unread o
        || live.any (fun i => x.fenceHolds k o.seq || s.rfHolds u o.seq i) then [4] else [])

/-- The first reason why the head of a slot may not issue now. -/
def State.blocked (s : State) (u k : Nat) (o : QOp) : Option Nat := (s.blocks u k o).head?

/-- Whether, in Invar mode, every operation of a bundle can issue now (R57). -/
def State.bundleReady (s : State) (u n : Nat) : Bool :=
  let x := s.unit u
  (slotsOf u).all fun j => n < x.headSeq j || match (x.slot j).queue with
    | [] => true
    | o :: _ => o.seq == n && s.blocked u j o == none

/-- Whether Invar mode lets an operation issue in this cycle: SFC equals its stamp and the whole bundle can issue; the
bundle that holds FRAME issues as soon as it can (R57, R156). What waits by a rule of its own goes on later (R156). -/
def State.stampMet (s : State) (u : Nat) (o : QOp) : Bool :=
  let x := s.unit u
  if !x.invar then true
  else match x.disp.buns.find? fun b => b.seq == o.seq with
    | none => false
    | some b => b.begun || ((b.frame || (!b.missed && o.stamp.toNat == x.spr.sfc.toNat)) && s.bundleReady u o.seq)

/-- Whether another slot's head of an earlier bundle that may issue in this cycle, and has not been tried in it, claims a
read port of this operation: the read of the later bundle is the one delayed (R53). -/
def State.portLoses (s : State) (u k : Nat) (o : QOp) (i : Instr) : Bool :=
  let x := s.unit u
  let ps := portsOf i
  !ps.isEmpty && (slotsOf u).any fun j => j != k && match (x.slot j).queue with
    | [] => false
    | e :: _ => decide (e.seq < o.seq) && (x.slot j).tried ≤ s.cycle && match e.instr j with
      | none => false
      | some ei => x.guardOf j e && (portsOf ei).any (fun p => ps.any fun q => p.1 == q.1)
          && s.blocked u j e == none && s.stampMet u e

/-- Whether, for slot k of bundle n, a lower slot of that bundle has still to be tried in this cycle, in which it may issue, or an evaluation
issued in one is found now to meet its bound: of the faults of one bundle in one cycle the lowest slot's is the one reported (R134). -/
def State.lowerReady (s : State) (u k n : Nat) : Bool :=
  let x := s.unit u
  ((slotsOf u).any fun j => decide (j < k) && match (x.slot j).queue with
    | [] => false
    | e :: _ => e.seq == n && decide ((x.slot j).tried ≤ s.cycle) && s.blocked u j e == none && s.stampMet u e
        && !(x.guardOf j e && (e.instr j).any (s.portLoses u j e)))
  || s.flights.any fun f => f.unit == u && f.seq == n && decide (f.slot < k) && f.bad.isSome && decide (f.due ≤ s.cycle)
      && s.current f && match f.what with | .bound _ => true | _ => false

/-- INFO0 of a fault that names storage (R373). -/
def storWord (d : Stor) : BitVec 64 :=
  let w := fun (c n : Nat) => BitVec.ofNat 64 (c * 2 ^ 16 + n)
  match d with
  | .s n => w 1 n.toNat
  | .g n => w 2 n.toNat
  | .v n => w 3 n.toNat
  | .m n => w 4 n.toNat
  | .acc b r => BitVec.ofNat 64 (5 * 2 ^ 16 + b.toNat + 128 * r * 2 ^ 32)
  | .sp n => w 6 n.toNat
  | .sc n => w 7 n.toNat
  | .h n => w 8 n.toNat
  | .gn n => w 9 n.toNat
  | .sd n => w 0xA n.toNat

/-- EARLY_READ of a read of some exposed storage by bundle n, when the trap is in force: a producer of an earlier bundle has
not landed (R50). DESIGN CHOICE (log entry 102): of several such producers the record names the one first in the list of landings. -/
def State.earlyOf (s : State) (u n : Nat) (rs : List Stor) : Option Flt :=
  if !s.glob.earlyTrap then none
  else match s.landings.find? fun l => l.unit == u && decide (l.seq < n) && l.what.dst.any rs.contains with
    | none => none
    | some l => some { Flt.of 0x05 0 (storWord (l.what.dst.getD (.s 0))) with
        info1 := BitVec.ofNat 64 (bundleField false l.addr) }

/-- EARLY_READ of an operation's guard, which a NOP's selector reads too (R42, R50). -/
def State.earlyGuard (s : State) (u : Nat) (o : QOp) : Option Flt :=
  if o.guard == 0 then none else s.earlyOf u o.seq [.g o.guard]

/-- The exposed storage that an operation reads as the state decides: what a ragged load or store samples for the format of
its shape register (R84, R185, R186), and SRSEED under stochastic rounding (R74). -/
def Unit.sampled (x : Unit) (i : Instr) (rotb : BitVec 4) : List Stor :=
  let narrow := fun (h : BitVec 3) => 7 ≤ (x.shape h).fmt && (x.shape h).fmt ≤ 9
  let shaped : List Stor := match i with
    | .ldvr _ _ _ h _ _ c _ => if narrow h then [.sc c, efrSp 1] else []
    | .stvr _ _ _ h _ _ c _ => (if roundsTo (x.shape h).fmt then [rmSp] else []) ++ (if narrow h then [.sc c, efrSp 1] else [])
    | _ => []
  let rs := readsOf i rotb ++ shaped
  rs ++ if x.spr.rm == 5 && rs.contains rmSp then [.sp 0x016] else []

/-- EARLY_READ of the issuing operation's operands (R50). -/
def State.earlyRead (s : State) (u : Nat) (o : QOp) (i : Instr) : Option Flt :=
  s.earlyOf u o.seq ((s.unit u).sampled i o.rotb)

/-- EARLY_READ of accumulator rows that an earlier bundle's pass or MZERO has still to land (R50, R268). -/
def State.earlyRows (s : State) (u seq : Nat) (bank : BitVec 3) (r0 n : Nat) : Option Flt :=
  if !s.glob.earlyTrap then none
  else
    let hits := (s.rows.filterMap fun r =>
        if r.unit == u && decide (r.seq < seq) && r.bank == bank && r0 ≤ r.row && r.row < r0 + n
        then some (r.row, r.addr) else none)
      ++ s.landings.filterMap fun l =>
        if l.unit == u && decide (l.seq < seq) && l.what == .mzero bank then some (r0, l.addr) else none
    match hits with
    | [] => none
    | h :: t =>
      let b := t.foldl (fun b x => if x.1 < b.1 then x else b) h
      some { Flt.of 0x05 0 (storWord (.acc bank b.1)) with info1 := BitVec.ofNat 64 (bundleField false b.2) }

/-! ## Collisions (R56) -/

/-- Whether the guards of a bundle's colliding slots can be read together now: each stands at its head with its sync
condition met and its guard present (R56). DESIGN CHOICE (log entry 135): in Invar mode too they are read then, before the stamp. -/
def State.pairsReady (s : State) (u : Nat) (b : Bun) : Bool :=
  let x := s.unit u
  let here := fun (k : Nat) => match (x.slot k).queue with
    | o :: _ => o.seq == b.seq && o.born ≤ s.cycle && x.syncMet u s.cycle k b.seq && !x.guardMarked k o
    | [] => false
  !b.collide.isEmpty && b.guards.isNone && x.on && !x.frozen && !s.landsNow u
    && !(match x.disp.pend with | some p => decide (p.seq ≤ b.seq) | none => false)
    && b.collide.all fun p => here p.1 && here p.2

/-- The guards of a bundle's colliding slots as they stand. -/
def Unit.pairGuards (x : Unit) (b : Bun) : List (Nat × Bool) :=
  (b.collide.map fun p => [p.1, p.2]).flatten.map fun k =>
    (k, match (x.slot k).queue with | o :: _ => x.guard o.guard | [] => false)

/-- WRITE_COLLISION of two slots (R56, R133, R373). -/
def State.collisionFault (s : State) (u : Nat) (p : Nat × Nat) : Flt :=
  let x := s.unit u
  let ws := fun (k : Nat) => match (x.slot k).queue with
    | o :: _ => match o.instr k with | some i => writesOf i o.rotb | none => []
    | [] => []
  let d := (ws p.1).find? fun d => (ws p.2).contains d
  { Flt.of 0x03 0 ((d.map storWord).getD 0) with xinfo := BitVec.ofNat 27 (p.1 * 8 + p.2) }

/-! ## The issue step -/

/-- What becomes of an attempt to issue the head of a slot. -/
inductive Attempt where
  /-- nothing happens, or a NOP, a false guard or a fault found before the operation runs -/
  | settled (s : State)
  /-- the operation runs: its meaning is taken in this state; a fault that it raises, unless it waits, in place of its
  effect -/
  | run (i : Instr) (s : State) (touch : Option Flt)
deriving Repr

/-- A NOP or a false-guarded operation issues: its marks are cleared, and a control operation falls through (R42, R149); LOOP and
LOOPR go on at the next bundle with no loop-end step (R151, R160). -/
def State.issueNothing (s : State) (i : Option Instr) : State :=
  let s := s.unmark fun _ => true
  let s := match i with
    | some i =>
      if s.cur.slot == 1 && isControl i then
        if (loopEnd? i).isSome then s.goTo (s.cur.op.addr + codeStep s.me.stream) else s.fallThrough
      else s
    | none => s
  s.issuedAs 1 false

/-- The guards of colliding slots are read together (R56): an early read of one of them, or two true ones of a pair, is the
bundle's fault, the one of the lowest slot and of one slot the lower code, a touch of a gated cluster by the guarded operation among
them (R38, R134). -/
def State.readPairs (s : State) (u : Nat) (b : Bun) : State :=
  let x := s.unit u
  let gs := x.pairGuards b
  let early := (slotsOf u).findSome? fun k => if !gs.any (·.1 == k) then none else match (x.slot k).queue with
    | o :: _ => (s.earlyGuard u o).map fun f =>
      (k, if gs.contains (k, true) then ((o.instr k).bind fun i => x.asleep (touches i)).getD f else f)
    | [] => none
  let on := fun (k : Nat) => gs.contains (k, true)
  match early, b.collide.find? fun p => on p.1 && on p.2 with
  | some e, some p =>
    if e.1 < p.1 then s.raiseAt u b.seq b.addr e.1 false e.2 else s.raiseAt u b.seq b.addr p.1 false (s.collisionFault u p)
  | some e, none => s.raiseAt u b.seq b.addr e.1 false e.2
  | none, some p => s.raiseAt u b.seq b.addr p.1 false (s.collisionFault u p)
  | none, none => s.modUnit u fun x => x.modDisp fun d =>
      { d with buns := d.buns.map fun c => if c.seq == b.seq then { c with guards := some gs } else c }

/-- The head of slot k of a bundle is tried: in Invar mode the bundle's issue has begun, and its stamp is not compared again (R57,
R156). -/
def State.tried (s : State) (u k seq : Nat) : State :=
  s.modUnit u fun x => (x.modSlot k fun sl => { sl with tried := s.cycle + 1 }).modDisp fun d =>
    { d with buns := d.buns.map fun b => if b.seq == seq then { b with begun := b.begun || x.invar } else b }

/-- Try to issue the head of slot k of unit u (R44). -/
def State.attempt (s : State) (u k : Nat) : Attempt :=
  let x := s.unit u
  match (x.slot k).queue with
  | [] => .settled s
  | o :: _ =>
    match x.disp.buns.find? fun b => b.seq == o.seq && s.pairsReady u b with
    | some b => .settled (s.readPairs u b)
    | none =>
      let i := o.instr k
      if s.blocked u k o != none || !s.stampMet u o then .settled s
      else
        let run := x.guardOf k o
        let guard := if x.guardRead k o then none else s.earlyGuard u o
        if run && i.any (s.portLoses u k o) then .settled s
        else
          let s := s.tried u k o.seq
          let s := { s with cur := ⟨u, k, o⟩ }
          match i, run, guard with
          | some i, true, g =>
            let touch := if x.spr.rfmode == 0xFF && x.disp.wake.isEmpty then none else s.asleep i
            .run i s ((touch.orElse fun _ => g).orElse fun _ => s.earlyRead u o i)
          | _, _, some f => .settled (s.raise f)
          | i, _, none => .settled (s.issueNothing i)

/-- After the meaning of a head: `t` is the state it ran in, `t'` the state it left. A touch of a gated cluster or an early
read is a fault of the issue, so it is raised only once the operation does not wait (R50, R225). -/
def State.afterRun (t t' : State) (touch : Option Flt) : State :=
  match touch with
  | none => t'
  | some f =>
    let x := t'.unit t.u
    let waits := t.cur.op.seq == x.headSeq t.cur.slot && match x.disp.pend with
      | some p => decide (t.cur.op.seq < p.seq)
      | none => true
    if waits then t' else t.raise f

/-- Whether what leads from one state to another raises a fault of a unit that a lower slot of its bundle may still take the place of in
this cycle (R134). -/
def State.outranked (s t : State) (u : Nat) : Bool :=
  match (t.unit u).disp.pend with
  | some p => (s.unit u).disp.pend != some p && s.lowerReady u p.slot p.seq
  | none => false

/-- What leads to a state happens, but a fault waits until the lower slots of its bundle have been tried in this cycle (R134). -/
def State.unlessOutranked (s t : State) (u : Nat) : State := if s.outranked t u then s else t

/-- Hold the read ports of the issuing operation for its occupancy (R53). -/
def State.holdPorts (s : State) (i : Instr) (occ : Nat) : State :=
  s.modUnit s.u fun x => x.modDisp fun d => { d with
    ports := (d.ports.filter fun h => s.cycle < h.2.2.1) ++
      (portsOf i).map fun p => (p.1, p.2, s.cycle + max 1 occ, s.cur.op.seq) }

end Sys2Proof.Machine
end

