-- ==== Sys2Proof/Machine/Elements.lean ====
section
/-!
DEFINITION. Elements in memory and run values: the conversions of vector loads and stores (R177, R178), packing of narrow
integers (R80), run streams (R87 to R89).
-/

namespace Sys2Proof.Machine

/-! ## Packing (R80, R92) -/

/-- `n` element codes of `bits` bits, packed from bit 0 of the bytes up. -/
def unpack (bits n : Nat) (bytes : List Byte) : List Nat :=
  let x := leNat bytes
  (List.range n).map fun i => x / 2 ^ (bits * i) % 2 ^ bits

/-- Pack element codes into `len` bytes. -/
def pack (bits len : Nat) (codes : List Nat) : List Byte :=
  leBytes len (codes.foldr (fun c a => c % 2 ^ bits + 2 ^ bits * a) 0)

/-! ## One element (R177, R178) -/

/-- The run value of an element (R177). DESIGN CHOICE (log entry 141): a scaled narrow code beyond the range of FP32, which R177 calls
exact, becomes an infinity. -/
def elemValue (fmt : Nat) (efr scale : Byte) (c : Nat) : Word :=
  if fmt == 0 || fmt == 5 then BitVec.ofNat 32 c
  else if fmt ≤ 4 then BitVec.ofNat 32 (roundF fp32 0 0 (decodeF (fmtOf fmt) c)).1
  else if fmt == 6 then (BitVec.ofNat 8 c).signExtend 32
  else BitVec.ofNat 32 (bits32 (niFV (fmtBits fmt) efr c scale))

/-- The element code that a store writes for a run value (R178). -/
def elemCode (fmt : Nat) (efr scale : Byte) (rm : BitVec 3) (v : Nat) (x : Word) : Nat :=
  if fmt == 0 || fmt == 5 then x.toNat
  else if fmt ≤ 4 then (roundF (fmtOf fmt) rm v (decodeF fp32 x.toNat)).1
  else if fmt == 6 then ((max (-128) (min 127 x.toInt)) % 256).toNat
  else niStore (fmtBits fmt) efr rm v (decodeF fp32 x.toNat) scale

/-! ## Lists of runs (R87 to R89, R221, R222) -/

/-- A null run (R89). -/
def nullRun : Run := ⟨0, 0, true⟩

/-- The first run carries B = 1 (R89). -/
def firstB (rs : List Run) : List Run := match rs with | [] => [] | r :: t => { r with b := true } :: t

/-- Merge adjacent equal values, none across a start of a segment. -/
def mergeRuns (rs : List Run) : List Run :=
  rs.foldr (fun r acc => match acc with
    | n :: t => if !n.b && r.val == n.val && r.cnt != 0 then { r with cnt := r.cnt + n.cnt } :: t else r :: acc
    | [] => [r]) []

/-- Cut values into segments of given lengths; a length of 0 is a null run. -/
def cutParts (parts : List Nat) (vs : List Word) : List Run :=
  match parts with
  | [] => []
  | n :: r =>
    (if n == 0 then [nullRun] else firstB ((vs.take n).map fun v => ⟨v, 1, false⟩)) ++ cutParts r (vs.drop n)

/-- A run entry (R87), or a mask entry (R88): the run and whether a reserved field is not zero. -/
def entryOf (mask : Bool) (x : Nat) : Run × Bool :=
  if mask then (⟨BitVec.ofNat 32 (x / 2 ^ 24 % 2), x % 2 ^ 24, x / 2 ^ 25 % 2 == 1⟩, x / 2 ^ 26 != 0)
  else (⟨BitVec.ofNat 32 x, x / 2 ^ 32 % 2 ^ 24, x / 2 ^ 56 % 2 == 1⟩, x / 2 ^ 57 != 0)

/-- The entry of a run (R87, R88); a null run's VAL is 0. -/
def entryBits (mask : Bool) (r : Run) : Nat :=
  let v := if r.cnt == 0 then 0 else r.val.toNat
  if mask then r.cnt + v % 2 * 2 ^ 24 + (if r.b then 2 ^ 25 else 0)
  else v + r.cnt * 2 ^ 32 + (if r.b then 2 ^ 56 else 0)

/-- Whether an entry without B stands directly after a null run. -/
def orphan (rs : List Run) : Bool := (rs.zip (rs.drop 1)).any fun p => p.1.cnt == 0 && !p.2.b

/-- Whether a stream of entries is malformed (R89). -/
def streamBad (es : List (Run × Bool)) : Bool :=
  let rs := es.map (·.1)
  es.any (fun e => e.2 || (e.1.cnt == 0 && !e.1.b)) || orphan rs || 2 ^ 24 ≤ runsLen rs

/-- A stream as a register holds it: B of entry 0 is 1, VAL of null runs 0 (R180, R222). -/
def heldRuns (rs : List Run) : List Run := firstB (rs.map fun r => if r.cnt == 0 then { r with val := 0 } else r)

/-- Force B to 1 at each start of a sequence and to 0 elsewhere (R185). -/
def forceParts (parts : List Nat) (rs : List Run) : List Run :=
  match parts with
  | [] => []
  | n :: r =>
    (if n == 0 then [nullRun] else firstB ((rs.take n).map fun x => { x with b := false })) ++ forceParts r (rs.drop n)

/-! ## Loads -/

/-- RUN_OVERFLOW (R133). -/
def runOverflow (n : Nat) : Flt := Flt.of 0x08 0 (BitVec.ofNat 64 n)

/-- A list of runs as a result, or RUN_OVERFLOW. -/
def runsOut (rs : List Run) : Except Flt Val := if 4096 < rs.length then .error (runOverflow rs.length) else .ok (.runs rs)

/-- The element codes of outer rows of `row` elements each. -/
def rowCodes (fmt row : Nat) (bytes : List Byte) : List Nat :=
  let k := packedBytes fmt row false
  if k == 0 then [] else ((chunks bytes.length k bytes).map fun r => unpack (fmtBits fmt) row r).flatten

/-- What the bytes of a load become (R175 to R185, SHCHK of R183). DESIGN CHOICE (log entry 146): INFO0 of a malformed run stream is the
address of LDR's stream, or of LDVR's shape record; that of runs too long for a register their length. -/
def Conv.value (c : Conv) (bytes : List Byte) : Except Flt Val :=
  match c with
  | .scalar n sgn =>
    let x := leNat bytes
    .ok (.scalar (if sgn && 2 ^ (8 * n - 1) ≤ x then BitVec.ofInt 64 ((x : Int) - 2 ^ (8 * n)) else BitVec.ofNat 64 x))
  | .elems fmt merge efrv scales row parts =>
    let codes := rowCodes fmt row bytes
    let vs := codes.mapIdx fun i x => elemValue fmt (efrv.setWidth 8) (scales.getD (i / 32) 0) x
    let rs := cutParts parts vs
    runsOut (if merge then mergeRuns rs else rs)
  | .entries mask va =>
    let es := (leWords (if mask then 4 else 8) bytes).map (entryOf mask)
    if streamBad es then .error (prot 6 va) else runsOut (heldRuns (es.map (·.1)))
  | .ragged parts va =>
    let es := (leWords 8 bytes).map (entryOf false)
    let rs := (forceParts parts (es.map (·.1))).map fun r => if r.cnt == 0 then { r with val := 0 } else r
    if es.any (fun e => e.2 || (e.1.cnt == 0 && !e.1.b)) || rs.any (fun r => r.cnt == 0 && !r.b) || orphan rs
      then .error (prot 6 va)
    else if 2 ^ 24 ≤ runsLen rs then .error (outOfBounds (runsLen rs))
    else runsOut rs
  | .gen held => .ok (.guard (BitVec.ofNat 32 (leNat bytes) != held))

/-! ## Stores -/

/-- Cut runs at every block boundary of the logical index (R178). -/
def cutBlocks (fuel pos : Nat) (rs : List Run) : List (Nat × Run) :=
  match fuel, rs with
  | 0, _ => []
  | _, [] => []
  | k + 1, r :: t =>
    let room := 32 - pos % 32
    if r.cnt == 0 then cutBlocks k pos t
    else if r.cnt ≤ room then (pos, r) :: cutBlocks k (pos + r.cnt) t
    else (pos, { r with cnt := room }) :: cutBlocks k (pos + room) ({ r with cnt := r.cnt - room } :: t)

/-- The element codes that a vector store writes, in logical order; each run, or piece of a run, is converted once. -/
def storeCodes (fmt : Nat) (efrv : BitVec 16) (scales : List Byte) (rm : BitVec 3) (seed : BitVec 64)
    (rs : List Run) : List Nat :=
  let narrow := 7 ≤ fmt && fmt ≤ 9
  let ps := if narrow then cutBlocks (rs.length + runsLen rs / 32 + 2) 0 rs else indexed 0 rs
  (ps.map fun p =>
    let v := if rm == 5 then noise seed (BitVec.ofNat 32 p.1) 0 0 0 else 0
    List.replicate p.2.cnt (elemCode fmt (efrv.setWidth 8) (scales.getD (p.1 / 32) 0) rm v p.2.val)).flatten

/-- The bytes of outer rows of `row` elements each. -/
def rowBytesOf (fmt row : Nat) (codes : List Nat) : List Byte :=
  if row == 0 then []
  else ((chunks codes.length row codes).map fun c => pack (fmtBits fmt) (packedBytes fmt c.length true) c).flatten

end Sys2Proof.Machine
end

