-- ==== Sys2Proof/Machine/Traffic.lean ====
section
/-!
DEFINITION. Accesses and results on their way: in which order they perform (R119 to R121, R126), when results land and
arrive (R44, R48, R51), ordered snapshots (R182), and the steps of the package that end them.
-/

namespace Sys2Proof.Machine

/-! ## Budgets at issue (R368) -/

/-- Freeze a master of a die on a resource: FRZ, the log entry, the master stops. -/
def State.freeze (s : State) (d m r : Nat) (w : Who) : State :=
  let b := s.budget d m r
  let f : Flt := { Flt.of 0x31 (BitVec.ofNat 8 (r + 1)) (b.limit.setWidth 64) with info1 := b.use.setWidth 64 }
  let s := s.logFault w f
  let s := s.modBudget d m r fun b => { b with frz := true }
  if m < 16 then s.modUnit (16 * d + m) fun x => { x with frozen := true }
  else if m < 32 then s.modDie d fun x => { x with frozenTx := (m - 16) :: x.frozenTx }
  else if m == 32 then s.modDie d fun x => { x with frozenColl := true }
  else s.modDie d fun x => { x with frozenHost := true }

/-- Go on with an access of the issuing core: it waits for its tiles if it reads them (R100), it freezes its master
rather than pass a budget (R368), and its use is counted (R367). Controllers are no masters. -/
def State.grant (s : State) (r : Reach) (wait : Bool) (k : State → State) : State :=
  if wait && !s.allFull (tilesOfSpans r.spans) then s
  else
    let d := dieOf s.u
    let s := s.tlbAdd d r.tlb
    if isCtl s.u then k s
    else match s.overBudget d (coreIn s.u) (useOf r.spans) with
      | some res => s.freeze d (coreIn s.u) res (s.whoCur true)
      | none => k (s.charge d (coreIn s.u) (useOf r.spans))

/-- Go on with an access of a die's collective engine unless its budget freezes it: `sp` the bytes of memory it touches,
`link` the payload of the packet it sends. -/
def State.coAdmit (s : State) (d : Nat) (w : Who) (sp : List (Nat × Nat)) (link : Option Nat) (k : State → State) : State :=
  let use := useOf sp ++ match link with | some n => [(2, Config.linkTime n)] | none => []
  match s.overBudget d 32 use with
  | some r => if (s.die d).frozenColl then s else s.freeze d 32 r w
  | none => k (s.charge d 32 use)

/-! ## Order (R119, R120, R126, R187) -/

/-- Whether two span lists share an 8-byte granule. -/
def granulesMeet (a b : List (Nat × Nat)) : Bool :=
  a.any fun x => b.any fun y => x.2 != 0 && y.2 != 0 &&
    decide (x.1 / 8 ≤ (y.1 + y.2 - 1) / 8) && decide (y.1 / 8 ≤ (x.1 + x.2 - 1) / 8)

/-- Whether a flight has still to perform an access. -/
def Flight.open (f : Flight) : Bool := (f.reads || f.writes) && !f.parked

/-- SL and AT count as one path for R120. -/
def Flight.pathClass (f : Flight) : BitVec 3 := if f.path == pAT then pSL else f.path

/-- Whether a flight is a direct access (R119). -/
def Flight.direct (f : Flight) : Bool := (f.path == pSL || f.path == pMX) && f.spans.any (meetsDirect f.unit)

/-- Whether an operation reads matrix operands from memory (R98). -/
def readsOperands : Instr → Bool
  | .mldb .. | .mgenbAdd .. | .mma .. | .mmat .. | .mmaRag .. | .madp .. => true
  | _ => false

/-- Whether an operation of the memory slot may make a direct access (R119). -/
def memoryAccess : Instr → Bool
  | .lds .. | .ldsW .. | .ldsWu .. | .ldsH .. | .ldsHu .. | .ldsB .. | .ldsBu .. | .sts .. | .stsW .. | .stsH ..
  | .stsB .. | .ldv .. | .ldvc .. | .stv .. | .ldr .. | .str .. | .ldvr .. | .stvr .. | .shld .. | .shwin .. | .shchk ..
  | .mscl .. | .star .. => true
  | _ => false

/-- Whether an operation that has not issued, of slot k and a bundle up to n, satisfies a test. -/
def Unit.queued (x : Unit) (k n : Nat) (p : Instr → Bool) : Bool :=
  (x.slot k).queue.any fun o => decide (o.seq ≤ n) && match o.instr k with | some i => p i | none => false

/-- The tiles of a bit write. -/
def Fly.bitTiles (w : Fly) : List Nat := match w with | .bits ts _ => ts | _ => []

/-- The rows of another core that an accumulator store has still to read (R189). -/
def Fly.rows (w : Fly) : List (Nat × Nat) :=
  match w with
  | .star _ _ _ bank row n src => [(accPlace src (bank * 65536 + row * 512), n * 512)]
  | _ => []

/-- Whether a flight is a SETF, which waits for earlier stores to its tiles (R126, R187). -/
def Fly.fills (w : Fly) : Bool := match w with | .bits _ b => b | _ => false

/-- The flights before one in issue order, of its unit. -/
def State.before (s : State) (f : Flight) : List Flight :=
  (s.flights.takeWhile fun g => g.id != f.id).filter fun g => g.unit == f.unit

/-- The first cycle in which a direct access of a unit issued now can perform (R174). -/
def State.directAt (s : State) (u : Nat) (sp : List (Nat × Nat)) : Nat :=
  s.cycle + ((sp.filter (meetsDirect u)).map fun p => latency u p.1).foldl min 48

/-- Whether a direct access of the issuing me operation is held in its slot (R119): it would perform before a direct access of an
earlier bundle may, or an earlier bundle's matrix operand read has still to issue or, cycle by cycle, to be made (R274). Accesses of me
that cannot overtake one another are not held (DEDUCED, log entry 113): in the trace of chapter 8 stores to the home vault issue every
four cycles. -/
def State.directHeld (s : State) (sp : List (Nat × Nat)) : Bool :=
  let n := s.cur.op.seq
  sp.any (meetsDirect s.u)
    && ((s.flights.any fun f => f.unit == s.u && f.open && f.direct && f.task == s.me.task && decide (f.seq < n)
        && decide (s.directAt s.u sp < f.due))
      || (n != 0 && s.me.queued 4 (n - 1) readsOperands) || s.mxOpen s.u n)

/-- Whether a direct read that an me operation makes in the step of its issue must wait: it is held, or a direct access of an
earlier bundle (R119), or an earlier access of the core on SL or AT to its granules (R120), has still to perform. -/
def State.readHeld (s : State) (sp : List (Nat × Nat)) : Bool :=
  s.directHeld sp
    || (sp.any (meetsDirect s.u)
      && s.flights.any fun f => f.unit == s.u && f.open && f.direct && f.task == s.me.task && decide (f.seq < s.cur.op.seq))
    || s.flights.any fun f => f.unit == s.u && f.open && f.pathClass == pSL && granulesMeet f.spans sp

/-- Whether a call may read its sources: each tile is full, or one that the call itself emptied and whose bit nothing has written
since (R100). -/
def State.callReady (s : State) (own : List (Nat × Nat)) (sp : List (Nat × Nat)) : Bool :=
  (tilesOfSpans sp).all fun t => s.present t || own.contains (t, (s.tile t).2)

/-- The spans of a range that a call's engine reaches. -/
def State.callSpans (s : State) (k : Call) (a : Acc) (va : BitVec 64) (n : Nat) : List (Nat × Nat) :=
  match s.reach k.unit k.die k.ctx pCO a false va n with | .ok q => q.spans | .error _ => []

/-- The accesses that a call in flight has still to make on path CO: the spans of each, and whether it writes. DEDUCED (log entry 148):
a read that waits for an empty tile (R100), or whose arm notice has not come (R338, R341), is not issued yet. -/
def State.coPending (s : State) (k : Call) : List (Bool × List (Nat × Nat)) :=
  let x := s.chan k.ctx.toNat k.ch
  let e := s.bindOf k.ctx x
  let buf := fun (i : Nat) => match k.got.find? (·.1 == i) with | some g => g.2 | none => 0
  let share := fun (first n : Nat) => s.callSpans k .rd (buf 0 + BitVec.ofNat 64 (4 * first)) (4 * n)
  let sum := fun (ws : List Word) => ws.foldl (fun a w => a + w.toNat) 0
  let own := bindRank e
  let report := (s.chan k.ctx.toNat k.ch).rpt
  let reads := match k.kind with
    | 1 => (List.range k.n).filterMap fun i =>
      if k.next / (x.len / 64) ≤ i && k.notices.any (·.1 == i) then
        some (s.callSpans k .rd (k.base + BitVec.ofNat 64 (4096 * i)) x.len) else none
    | 3 => if k.next == 0 then [s.callSpans k .rd k.base (64 + 12 * k.n)] else []
    | 4 => (if k.next ≤ k.counts.length then [share (sum (k.counts.take own)) (k.counts.getD own 0).toNat] else [])
      ++ k.notices.filterMap fun (t : Nat × Nat × BitVec 64 × Nat) => if 16 * t.2.2.2 < (k.counts.getD t.1 0).toNat then
        some (share (sum (k.counts.take t.1)) (k.counts.getD t.1 0).toNat) else none
    | 6 => if k.next == 0 then [s.callSpans k .rd k.base k.n] else []
    | _ => []
  let writes := match k.kind with
    | 2 | 7 => k.tiles.filterMap fun (t : Nat × Nat) => if t.2 != 0 then some [(t.1, x.len)] else none
    | 3 => [s.callSpans k .wr (k.base + BitVec.ofNat 64 (64 + 4 * k.n)) (8 * k.n)]
    | 4 => if k.n != 0 then [s.callSpans k .wr (buf 1) (4 * sum k.rcv)] else []
    | 5 => if report != 0 then [s.callSpans k .wr report (8 * ceilDiv (bindN e) 64)] else []
    | 8 => if report != 0 then [s.callSpans k .wr report 8] else []
    | _ => []
  if k.fin then [] else (reads.filter (s.callReady k.own)).map (fun p => (false, p)) ++ writes.map fun p => (true, p)

/-- The number that orders an access of path CO: that of its call. -/
def Flight.coKey (f : Flight) : Nat := match f.what with | .coStore c _ _ => c | _ => f.id

/-- Whether an access of a core on path CO, of the operation numbered `key`, waits for one to the same granule of an operation issued
before it, one of the two a write (R120). -/
def State.coHeld (s : State) (u key : Nat) (wr : Bool) (sp : List (Nat × Nat)) : Bool :=
  (s.calls.any fun k => k.unit == u && decide (k.id < key) && (s.coPending k).any fun p => (wr || p.1) && granulesMeet p.2 sp)
  || s.flights.any fun f => f.unit == u && f.path == pCO && f.open && decide (f.coKey < key) && (wr || f.writes) && granulesMeet f.spans sp

/-- The memory port that owns a place, by its number for AXR (R201, R359): its die, and 0 to 15 a vault, 16 the HBM
controller, 17 to 32 a scratchpad. -/
def portOf (p : Nat) : Nat :=
  let n := match spaceOf p with
    | 0 => 16
    | 1 => vaultCore p % 16
    | _ => 17 + p % 2 ^ 64 / 2 ^ 23 % 16
  64 * placeDie p + n

/-- Whether two host accesses go to one memory port, where they perform in the host's order (R131). -/
def hostOrdered (f g : Flight) : Bool :=
  f.path == pHI && g.path == pHI && f.spans.any fun p => g.spans.any fun q => portOf p.1 == portOf q.1

/-- Whether a flight may perform now, matrix reads of its banks apart: earlier accesses of its path to its granules (R120), direct
accesses of earlier bundles, matrix reads of its bundle and before a direct write (R119), for a SETF earlier stores to its tiles (R126),
and earlier bit writes of its tiles have performed. -/
def State.mayPerform (s : State) (f : Flight) : Bool :=
  let x := s.unit f.unit
  decide (f.due ≤ s.cycle) && !(s.before f).any (fun g => g.open &&
      ((g.pathClass == f.pathClass && f.path != pCO && (granulesMeet g.spans f.spans || granulesMeet g.what.rows f.what.rows))
        || hostOrdered f g
        || (f.direct && g.direct && decide (g.seq < f.seq))
        || (!f.what.bitTiles.isEmpty && g.path == pSL && g.writes
            && (g.what.bitTiles ++ if f.what.fills then tilesOfSpans g.spans else []).any fun t => f.what.bitTiles.contains t)))
    && !(f.direct && f.writes && f.task == x.task && (x.queued 4 f.seq readsOperands || s.mxOpen f.unit (f.seq + 1)))
    && !(f.path == pCO && s.coHeld f.unit f.coKey f.writes f.spans)

/-- Whether the matrix slot may read operands from memory for bundle n: the direct accesses of earlier bundles have issued and performed
(R119). -/
def State.operandsReady (s : State) (u n : Nat) : Bool :=
  !(s.flights.any fun f => f.unit == u && f.open && f.direct && f.task == (s.unit u).task && decide (f.seq < n))
    && !(n != 0 && (s.unit u).queued 6 (n - 1) memoryAccess)

/-! ## Results (R51) -/

/-- Whether a flight may arrive. -/
def State.mayArrive (s : State) (f : Flight) : Bool :=
  decide (f.due ≤ s.cycle) && (!s.current f || f.dsts.all (s.mayWrite f.unit f.seq))
    && match f.what with
      | .result _ fl => fl == 0 || !s.flagsHeld f.unit f.seq
      | .load .. => !f.open || s.mayPerform f
      | .snap .. => s.mayPerform f
      | .chdef .. => f.bad.isSome || s.mayPerform f
      | _ => false

/-- Remove a flight. -/
def State.dropFlight (s : State) (f : Flight) : State := { s with flights := s.flights.filter fun g => g.id != f.id }

/-- Change a flight. -/
def State.modFlight (s : State) (f : Flight) (h : Flight → Flight) : State :=
  { s with flights := s.flights.map fun g => if g.id == f.id then h g else g }

/-- Write the results of a flight and clear its marks on them; registers of a unit that runs another task are left. -/
def State.writeBack (s : State) (f : Flight) (ws : List (Stor × Val)) (fl : Flags) : State :=
  if s.current f then
    s.modUnit f.unit fun x =>
      let x := ws.foldl (fun x w => x.put w.1 w.2) x
      (x.modDisp fun d => d.unmark f.seq f.slot fun r => (ws.map (·.1)).contains r).modSpr (·.flag fl)
  else s

/-- A fault that data reveals (stage 3 of R192): precise, the destination unchanged, its mark cleared. -/
def State.lateFault (s : State) (f : Flight) (flt : Flt) : State :=
  let s := s.dropFlight f
  if s.current f then
    let s := s.modUnit f.unit fun x => x.modDisp fun d => d.unmark f.seq f.slot fun _ => true
    s.raiseLate f (flt.on f.path .rd)
  else s

/-- The parts of spans that no multiple of g divides. -/
def spanParts (g : Nat) (sp : List (Nat × Nat)) : List (Nat × Nat) :=
  (sp.map fun x => if x.2 == 0 then [] else
    (List.range ((x.1 + x.2 - 1) / g - x.1 / g + 1)).map fun i =>
      let lo := max x.1 ((x.1 / g + i) * g)
      (lo, min (x.1 + x.2) ((x.1 / g + i + 1) * g) - lo)).flatten

/-- The parts of spans that lie in one granule each. -/
def granuleParts (sp : List (Nat × Nat)) : List (Nat × Nat) := spanParts 8 sp

/-- Bytes read, by their addresses. -/
def cellsOf (m : List Host.Cell) (p : Nat × Nat) : List Host.Cell := (rdBytes m p.1 p.2).mapIdx fun i b => (p.1 + i, b)

/-- The parts of spans, one granule each, of which nothing has been read. -/
def unreadParts (got : List Host.Cell) (sp : List (Nat × Nat)) : List (Nat × Nat) :=
  (granuleParts sp).filter fun p => !got.any fun b => b.1 == p.1

/-- Whether the matrix engine is reading in some scratchpad in this cycle (R269). -/
def State.mxReading (s : State) : Bool := s.streams.any fun r => r.mx && (!r.now.isEmpty || decide (s.cycle < r.hold.2))

/-- Whether a matrix read occupies in this cycle a bank of what has still to be read of spans (R269). -/
def State.banksHold (s : State) (got : List Host.Cell) (sp : List (Nat × Nat)) : Bool :=
  s.mxReading && (unreadParts got sp).any s.bankBusy

/-- What has been read of spans once the parts whose banks are free have been read too (R269). -/
def State.readFree (s : State) (got : List Host.Cell) (sp : List (Nat × Nat)) : List Host.Cell :=
  got ++ (((unreadParts got sp).filter fun p => !s.bankBusy p).map (cellsOf s.mem)).flatten

/-- The bytes read of spans after one more granule of them, that of part g of those not read yet, has been read (R117). -/
def readAhead (m got : List Host.Cell) (sp : List (Nat × Nat)) (g : Nat) : List Host.Cell :=
  let ps := (granuleParts sp).filter fun p => !got.any fun b => b.1 == p.1
  match ps[g]? with
  | none => got
  | some p => got ++ ((ps.filter fun q => q.1 / 8 == p.1 / 8).map (cellsOf m)).flatten

/-- The bytes read of spans after one more granule of them, unless a matrix read occupies its bank (R117, R269). -/
def State.readPart (s : State) (got : List Host.Cell) (sp : List (Nat × Nat)) (g : Nat) : List Host.Cell :=
  if s.mxReading && ((unreadParts got sp)[g]?).any s.bankBusy then got else readAhead s.mem got sp g

/-- Whether every granule of spans has been read. -/
def allRead (got : List Host.Cell) (sp : List (Nat × Nat)) : Bool := (granuleParts sp).all fun p => got.any fun b => b.1 == p.1

/-- The bytes of spans, of those that have been read the bytes as they stood then. -/
def loadBytes (m got : List Host.Cell) (sp : List (Nat × Nat)) : List Byte :=
  rdSpans (got.foldl (fun m c => wrByte m c.1 c.2) m) sp

/-- The last read of a load performs: its value is fixed. -/
def State.sample (s : State) (f : Flight) (d : Stor) (c : Conv) (got : List Host.Cell) : State :=
  match c.value (loadBytes s.mem got f.spans) with
  | .error e => s.lateFault f e
  | .ok v => s.modFlight f fun g => { g with reads := false, what := .result [(d, v)] 0 }

/-! ## Asynchronous faults (R112 to R114) -/

/-- The context of a flight. -/
def State.flightCtx (s : State) (f : Flight) : BitVec 3 := match f.task with | some t => t.ctx | none => s.ctxOf f.unit

/-- The source of an asynchronous fault of a flight. -/
def State.flightWho (s : State) (f : Flight) : Who :=
  ⟨f.unit, s.flightCtx f, f.task, f.slot, true, f.sup, (s.unit f.unit).stream, f.addr, 0⟩

/-- Entries of a die's parking area that a context uses (R113). -/
def State.parkUse (s : State) (d : Nat) (c : BitVec 3) : Nat :=
  (s.flights.filter fun f => f.parked && dieOf f.unit == d && s.flightCtx f == c).length

/-- Whether supervisor software can repair a fault: TRANSLATION, and PROTECTION outside a window (R112). -/
def Flt.repairable (f : Flt) : Bool := f.code == 0x18 || (f.code == 0x19 && f.sub == 5)

/-- A context becomes fatal (R114): its units stop at once, its open groups are failed, its collectives aborted, and it is
reported. DESIGN CHOICE (log entry 114): R114 names no register or vector for the report to system software, and the model records a
message of its own. -/
def State.fatal (s : State) (c : BitVec 3) : State :=
  let us := (List.range 480).filter fun u =>
    ((s.unit u).on || (s.unit u).task.isSome) && s.ctxOf u == c && !s.isSup u
  let s := us.foldl (fun s u =>
    if isCtl u then s.stopCtl u (s.unit u).front.pc
    else (s.dropResults u).modUnit u fun x => { x.halt u with freed := none }) s
  let s := (s.groups.filter fun g => g.ctx == c).foldl (fun s g => s.setStatus g 2) s
  let s := { s with groups := s.groups.filter fun g => g.ctx != c }
  let s := (s.calls.filter fun k => k.ctx == c).foldl State.forceAbort s
  let s := s.modCtx c.toNat fun x => { x with fatal := true }
  s.say (.fatal c)

/-- A flight's asynchronous fault: logged; a repairable one is parked, or finds the area full; any other is discarded. -/
def State.asyncFault (s : State) (f : Flight) (flt : Flt) : State :=
  let c := s.flightCtx f
  let d := dieOf f.unit
  let full := 256 ≤ s.parkUse d c
  let s := (s.logFault (s.flightWho f) flt).newId
  if !flt.repairable then s.dropFlight f
  else if full then (s.dropFlight f).fatal c
  else s.modFlight f fun g => { g with parked := true, turn := s.ids }

/-! ## Messages to the host (R364) -/

/-- An MSI-X entry: masked until the host writes it. -/
def Glob.vector (g : Glob) (n : Nat) : BitVec 128 := Tab.get (1#128 <<< 96) g.msix n

/-- Send a vector, or set its pending bit. -/
def Glob.post (g : Glob) (n : Nat) : Glob × List HostMsg :=
  if g.msixEnable && !(g.vector n).getLsbD 96 then (g, [.vector n])
  else ({ g with msixPending := if g.msixPending.contains n then g.msixPending else n :: g.msixPending }, [])

/-- The device sends MSI-X vector n. -/
def State.sendVector (s : State) (n : Nat) : State :=
  let r := s.glob.post n
  { s with glob := r.1, hostOut := s.hostOut ++ r.2 }

/-! ## Snapshots of shape records (R182, R183) -/

/-- The window of a snapshot, which its header bounds (R182). -/
def State.snapWindow (s : State) (f : Flight) (va origin : BitVec 64) (hdr : List Byte) : Except Flt Reach :=
  let k := min 512 (hdrField hdr 8 4 + 1 - origin.toNat)
  s.reach f.unit (dieOf f.unit) (s.ctxOf f.unit) pSL .rd false (va + 64 + BitVec.ofNat 64 (4 * origin.toNat)) (4 * k)

/-- A stage of an ordered snapshot: GEN, header and window, GEN again. A read whose tiles are empty waits, is examined again in the cycle
after they are full, and then takes its path's latency (R100); it waits for the core's own earlier accesses to its granules (R120) and for
matrix reads of its banks (R269). -/
def State.snapStep (s : State) (f : Flight) (h : BitVec 3) (va origin : BitVec 64) (attempt stage : Nat) (g1 : Word)
    (hdr : List Byte) (win : List Word) (got : List Host.Cell) : State :=
  let bytes := loadBytes s.mem got f.spans
  let gen : Word := BitVec.ofNat 32 (leNat (bytes.take 4))
  let lat := spanLatency f.unit f.spans
  let at' := fun (s : State) (due att st : Nat) (g1 : Word) (hdr : List Byte) (win : List Word) (got : List Host.Cell) =>
    s.modFlight f fun g => { g with due := due, what := .snap h va origin att st g1 hdr win got }
  let next := fun (s : State) (lat att st : Nat) (g1 : Word) (hdr : List Byte) (win : List Word) =>
    if s.allFull (tilesOfSpans f.spans) then at' s (s.cycle + lat) att st g1 hdr win []
    else at' s (s.cycle + 1) att (st + 4) g1 hdr win []
  let window := fun (r : Reach) (hdr : List Byte) (lat : Nat) =>
    if !s.mayPerform { f with spans := r.spans } then s
    else if s.banksHold got r.spans then at' s f.due attempt stage g1 hdr win (s.readFree got r.spans)
    else
      let w := (leWords 4 (loadBytes s.mem got r.spans)).map (BitVec.ofNat 32)
      next (s.tlbAdd (dieOf f.unit) r.tlb) (lat + occupancy f.unit (f.spans ++ r.spans) 0 - 1) attempt 2 g1 hdr w
  if stage ≤ 2 && s.banksHold got f.spans then s
  else match stage with
  | 0 => next s lat attempt 1 gen [] []
  | 1 =>
    if hdrField bytes 8 4 < origin.toNat then
      s.lateFault f { Flt.of 0x0B 0 (BitVec.ofNat 64 (h.toNat * 2 ^ 32 + origin.toNat % 2 ^ 32)) with
        info1 := origin <<< 32 }
    else
      match s.snapWindow f va origin bytes with
      | .error e => s.lateFault f e
      | .ok r =>
        if s.allFull (tilesOfSpans r.spans) then window r bytes (max lat (spanLatency f.unit r.spans) + 350 * r.levels)
        else at' s (s.cycle + 1) attempt 7 g1 bytes [] []
  | 2 =>
    if g1.getLsbD 0 == false && g1 == gen then
      if headerOk hdr && windowOk origin.toNat win then
        let v : Shape := ⟨hdr, va, origin.setWidth 32, win.length, win⟩
        (s.dropFlight f).writeBack f [(.h h, .shape v)] 0
      else s.lateFault f (prot 6 va)
    else if attempt ≥ 5 then
      s.lateFault f { Flt.of 0x0C 0 va with info1 := BitVec.ofNat 64 (g1.toNat * 2 ^ 32 + gen.toNat) }
    else next s lat (attempt + 1) 0 0 [] []
  | 3 | 7 =>
    match s.snapWindow f va origin hdr with
    | .error e => s.lateFault f e
    | .ok r =>
      if stage == 3 then window r hdr lat
      else if s.allFull (tilesOfSpans r.spans) then
        at' s (s.cycle + spanLatency f.unit r.spans + 350 * r.levels) attempt 3 g1 hdr [] []
      else s
  | _ => if s.allFull (tilesOfSpans f.spans) then at' s (s.cycle + lat) attempt (stage - 4) g1 hdr win [] else s

/-! ## The steps -/

/-- Whether a result is the copy of an image, which GLOAD_COPY_COMPLETE ends (R304). -/
def Flight.isCopy (f : Flight) : Bool := match f.what with | .result [(.gn _, .image (some _))] _ => true | _ => false

/-- PRESENCE_RESULT_ARRIVES of flight n. -/
def execPresenceResultArrives (s : State) : Host.Outcome State Fault Refusal :=
  match s.flights[s.arg.n]? with
  | none => .next s
  | some f =>
    if !s.mayArrive f || f.isCopy then .next s
    else match f.what with
      | .result ws fl => .next ((s.dropFlight f).writeBack f ws fl)
      | .load d c got =>
        if f.open && s.banksHold got f.spans then
          .next (s.modFlight f fun x => { x with what := .load d c (s.readFree got f.spans) })
        else match c.value (loadBytes s.mem got f.spans) with
        | .error e => .next (s.unlessOutranked (s.lateFault f e) f.unit)
        | .ok v => .next ((s.dropFlight f).writeBack f [(d, v)] 0)
      | .chdef ch d started =>
        let s' := s.dropFlight f
        let die := dieOf f.unit
        match f.bad with
        | some p => .next ((s'.logFault (s.flightWho f) p.flt).writeBack f [(.s d, .scalar 4)] 0)
        | none =>
          if !started then
            if s.allFull (tilesOfSpans f.spans) && !(s.die die).frozenColl then
              .next (s.coAdmit die (s.flightWho f) f.spans none fun s => s.modFlight f fun g =>
                { g with due := s.cycle + spanLatency f.unit f.spans, what := .chdef ch d true })
            else .next s
          else if s.banksHold [] f.spans then .next s
          else
            let r := s'.define (s.flightCtx f).toNat die ch (rdSpans (s.mxMem f.unit) f.spans)
            .next (r.1.writeBack f [(.s d, .scalar (BitVec.ofNat 64 r.2))] 0)
      | .snap h va o a st g1 hdr win got =>
        if s.current f then .next (s.unlessOutranked (s.snapStep f h va o a st g1 hdr win got) f.unit) else .next (s.dropFlight f)
      | _ => .next s

/-- EXPOSED_RESULT_LANDS of landing n; a write of PREQ takes its effect in PREQ. -/
def execExposedResultLands (s : State) : Host.Outcome State Fault Refusal :=
  match s.landings[s.arg.n]? with
  | none => .next s
  | some l =>
    if !s.mayLand l || l.what.dst == some (.sp 0x031) then .next s
    else .next (({ s with landings := s.landings.eraseIdx s.arg.n } : State).landNow l)

/-- The bytes that an accumulator store writes: rows of a bank converted to a format (R189). -/
def starBytes (m : List Host.Cell) (src bank row n : Nat) (fmt : Nat) (rm : BitVec 3) (seed : BitVec 64) : List Byte :=
  ((List.range n).map fun r =>
    let bits := leWords 4 (rdBytes m (accPlace src (bank * 65536 + (row + r) * 512)) 512)
    (bits.mapIdx fun c x =>
      let v := if rm == 5 then
          noise seed (BitVec.ofNat 32 c) (BitVec.ofNat 32 (row + r)) (BitVec.ofNat 32 bank) 0x40000000 else 0
      leBytes (fmtBits fmt / 8) (elemCode fmt 0 0 rm v (BitVec.ofNat 32 x))).flatten).flatten

/-- Whether an access of a flight waits for matrix reads of its banks: paths SL, AC, TR and CO (R269). -/
def Flight.yields (f : Flight) : Bool := f.path == pSL || f.path == pAC || f.path == pTR || f.path == pCO

/-- Whether a write has a part that waits for a matrix read of its bank. -/
def State.writeWaits (s : State) (f : Flight) : Bool := f.yields && s.banksHold [] f.spans

/-- A write performs where no matrix read occupies its bank; the rest waits (R269). -/
def State.writeFree (s : State) (f : Flight) (bs : List Byte) (w : List Byte → Fly) : State :=
  let r := (granuleParts f.spans).foldl (fun (a : State × List (Nat × Nat) × List Byte × List Byte) p =>
    let b := a.2.2.2.take p.2
    let rest := a.2.2.2.drop p.2
    if s.bankBusy p then (a.1, a.2.1 ++ [p], a.2.2.1 ++ b, rest) else (a.1.write p.1 b, a.2.1, a.2.2.1, rest)) (s, [], [], bs)
  r.1.modFlight f fun x => { x with spans := r.2.1, what := w r.2.2.1 }

/-- What a collective call does once what it writes by itself stands in memory: a CA2AC ends with the sum of its counts, a CA2AP has its
own share, a CSWR or GAGREE its report (R341, R355). -/
def State.coDone (s : State) (call : Nat) (tiles : List (Nat × Nat)) : State :=
  match s.call? call with
  | none => s
  | some k =>
    if k.fin then s
    else match k.kind with
    | 3 => (s.setTiles (tiles.map (·.1)) true).endCall call 1 (BitVec.ofNat 32 (((List.range k.n).map fun r =>
        match k.got.find? (·.1 == r) with | some g => g.2.toNat % 2 ^ 32 | none => 0).sum)) 0 0
    | 4 =>
      let after := k.tiles.map fun t => match tiles.find? (·.1 == t.1) with | some h => (t.1, t.2 - h.2) | none => t
      let full := (k.tiles.zip after).filterMap fun p => if p.1.2 != 0 && p.2.2 == 0 then some p.1.1 else none
      (s.setTiles full true).modCall call fun k => { k with tiles := after, n := k.n - k.value.toNat, next := k.next + 1, value := 0 }
    | _ => s.modCall call fun k => { k with rcv := [] }

/-- WRITE_PERFORMED of flight n: a store, a bit write, or the arrival of an accumulator store's data at memory. -/
def execWritePerformed (s : State) : Host.Outcome State Fault Refusal :=
  match s.flights[s.arg.n]? with
  | none => .next s
  | some f =>
    if !s.mayPerform f then .next s
    else match f.what with
      | .store bs => .next (if s.writeWaits f then s.writeFree f bs .store else (s.dropFlight f).writeSpans f.spans bs)
      | .coStore c bs ts => .next (if s.writeWaits f then s.writeFree f bs fun bs => .coStore c bs ts
          else ((s.dropFlight f).writeSpans f.spans bs).coDone c ts)
      | .bits ts full => .next ((s.dropFlight f).setTiles ts full)
      | .drain bs t fl =>
        if !f.writes then .next s
        else if s.writeWaits f then .next (s.writeFree f bs fun bs => .drain bs t fl)
        else .next ((s.writeSpans f.spans bs).modFlight f fun g => { g with writes := false, what := .drain [] t fl })
      | .star fmt rm seed bank row n src =>
        let bs := starBytes s.mem src bank row n fmt.toNat rm seed
        .next (if s.writeWaits f then s.writeFree f bs .store else (s.dropFlight f).writeSpans f.spans bs)
      | _ => .next s

/-- The part that an access performs before the others: the first that lies in the granule of part `g`, where there is another. -/
def nextPart (g : Nat) (ps : List (Nat × Nat)) : Option Nat :=
  if ps.length ≤ 1 then none else (ps[g]?).bind fun p => ps.findIdx? fun q => q.1 / 8 == p.1 / 8

/-- What an ordered snapshot has read after one more granule of its header, or of its window once the header is read (R117, R182). -/
def State.snapAhead (s : State) (f : Flight) (g stage : Nat) (va origin : BitVec 64) (hdr : List Byte) (got : List Host.Cell) : List Host.Cell :=
  if stage == 1 && !allRead got f.spans then s.readPart got f.spans g
  else match s.snapWindow f va origin (if stage == 1 then loadBytes s.mem got f.spans else hdr) with
    | .error _ => got
    | .ok r =>
      if (stage == 1 && !s.allFull (tilesOfSpans r.spans)) || !s.mayPerform { f with spans := r.spans } then got
      else s.readPart got r.spans g

/-- A store or a drain performs the write of one granule (R117). -/
def State.writePart (s : State) (f : Flight) (g : Nat) (bs : List Byte) (w : List Byte → Fly) : State :=
  let ps := granuleParts f.spans
  match nextPart g ps with
  | none => s
  | some i =>
    let p := ps.getD i (0, 0)
    let off := ((ps.take i).map (·.2)).sum
    if f.yields && s.mxReading && s.bankBusy p then s
    else (s.write p.1 ((bs.drop off).take p.2)).modFlight f fun x =>
      { x with spans := ps.eraseIdx i, what := w (bs.take off ++ bs.drop (off + p.2)) }

/-- One granule of an access wider than a granule performs, before the step in which the rest does (R117, R118). -/
def State.performPart (s : State) (f : Flight) (g : Nat) : State :=
  match f.what with
  | .load d c got =>
    if f.open && s.mayPerform { f with due := 0 } then
      s.modFlight f fun x => { x with what := .load d c (s.readPart got f.spans g) }
    else s
  | .snap h va o a st g1 hdr win got =>
    if (st == 1 || st == 3) && s.current f && s.mayPerform f then
      s.modFlight f fun x => { x with what := .snap h va o a st g1 hdr win (s.snapAhead f g st va o hdr got) }
    else s
  | .store bs => if s.mayPerform f then s.writePart f g bs .store else s
  | .coStore c bs ts => if s.mayPerform f then s.writePart f g bs fun bs => .coStore c bs ts else s
  | .drain bs t fl => if f.writes && s.mayPerform f then s.writePart f g bs fun bs => .drain bs t fl else s
  | _ => s

/-- A flight's access performs before the step that ends it: the reads that a load has still to make, and its value is fixed; the
rows that a STAR brings from another core (R118, R189). -/
def State.performRead (s : State) (f : Flight) : State :=
  match f.what with
  | .load d c got => if !(f.open && s.mayPerform { f with due := 0 }) then s
    else if s.banksHold got f.spans then s.modFlight f fun x => { x with what := .load d c (s.readFree got f.spans) }
    else s.unlessOutranked (s.sample f d c got) f.unit
  | .star fmt rm seed bank row n src =>
    if decide (f.due ≤ s.cycle) && !(s.before f).any (fun g => granulesMeet g.what.rows f.what.rows) then
      s.modFlight f fun g => { g with what := .store (starBytes s.mem src bank row n fmt.toNat rm seed) }
    else s
  | _ => s

end Sys2Proof.Machine
end

