-- ==== Sys2Proof/Machine/Memory.lean ====
section
/-!
DEFINITION. The memory half of the me slot: scalar, vector, raw and ragged loads and stores, shape registers, tile bits,
scale loads, accumulator stores and fences (R172 to R192, R122 to R125).
-/

namespace Sys2Proof.Machine

/-- Of several faults the lowest code (R38); DEDUCED (log entry 40): of equal codes the lowest subcode, and of equal subcodes the first. -/
def lowestFault (fs : List Flt) : Option Flt :=
  fs.foldl (fun a f => match a with
    | none => some f
    | some g => if f.code.toNat < g.code.toNat || (f.code == g.code && f.sub.toNat < g.sub.toNat) then some f else a) none

/-- The fault of a check. -/
def faultOf {α : Type} (r : Except Flt α) : List Flt := match r with | .error f => [f] | .ok _ => []

/-! ## Loads and stores of checked ranges (R111, R174) -/

/-- Load ranges into a register; a direct access is held in its slot (R119). `extra` is added to the cycle in which the result
is present: a load of no bytes reads no memory, and its result is present c + 1 cycles on (R174). -/
def State.loadFrom (s : State) (size : Nat) (rs : List (BitVec 64 × Nat)) (entries extra : Nat) (d : Stor) (c : Conv) :
    State :=
  match s.access pSL .rd false size rs with
  | .error f => s.raise f
  | .ok r =>
    if s.directHeld r.spans then s
    else s.grant r true fun s =>
      let occ := occupancy s.u r.spans entries
      (s.fly (s.flight pSL (s.cycle + r.latency s.u + occ - 1 + extra) true false r.spans (.load d c []))).issued occ

/-- Store bytes to ranges; `ports` are the read ports that the operation holds. -/
def State.storeTo (s : State) (i : Instr) (size : Nat) (rs : List (BitVec 64 × Nat)) (entries : Nat) (bytes : List Byte)
    (after : State → Nat → State) : State :=
  match s.access pSL .wr false size rs with
  | .error f => s.raise f
  | .ok r =>
    if s.directHeld r.spans then s
    else s.grant r false fun s =>
      let occ := occupancy s.u r.spans entries
      let s := if r.spans.isEmpty then s
        else s.fly (s.flight pSL (s.cycle + r.latency s.u) false true r.spans (.store bytes))
      ((after s occ).issued occ).holdPorts i occ

/-- Scalar load of `n` bytes (R175). -/
def State.loadScalar (s : State) (n : Nat) (sgn : Bool) (d b : BitVec 5) (o : BitVec 15) : State :=
  s.loadFrom n [(s.ea b o, n)] 0 0 (.s (s.ps d)) (.scalar n sgn)

/-- Scalar store of the low `n` bytes (R175). -/
def State.storeScalar (s : State) (i : Instr) (n : Nat) (d b : BitVec 5) (o : BitVec 15) : State :=
  s.storeTo i n [(s.ea b o, n)] 0 (leBytes n (s.rs d).toNat) fun s _ => s

/-- LDS. -/
def execLds (d b : BitVec 5) (o : BitVec 15) (s : State) : Host.Outcome State Fault Refusal :=
  .next (s.loadScalar 8 false d b o)

/-- LDS.W. -/
def execLdsW (d b : BitVec 5) (o : BitVec 15) (s : State) : Host.Outcome State Fault Refusal :=
  .next (s.loadScalar 4 true d b o)

/-- LDS.WU. -/
def execLdsWu (d b : BitVec 5) (o : BitVec 15) (s : State) : Host.Outcome State Fault Refusal :=
  .next (s.loadScalar 4 false d b o)

/-- LDS.H. -/
def execLdsH (d b : BitVec 5) (o : BitVec 15) (s : State) : Host.Outcome State Fault Refusal :=
  .next (s.loadScalar 2 true d b o)

/-- LDS.HU. -/
def execLdsHu (d b : BitVec 5) (o : BitVec 15) (s : State) : Host.Outcome State Fault Refusal :=
  .next (s.loadScalar 2 false d b o)

/-- LDS.B. -/
def execLdsB (d b : BitVec 5) (o : BitVec 15) (s : State) : Host.Outcome State Fault Refusal :=
  .next (s.loadScalar 1 true d b o)

/-- LDS.BU. -/
def execLdsBu (d b : BitVec 5) (o : BitVec 15) (s : State) : Host.Outcome State Fault Refusal :=
  .next (s.loadScalar 1 false d b o)

/-- STS. -/
def execSts (d b : BitVec 5) (o : BitVec 15) (s : State) : Host.Outcome State Fault Refusal :=
  .next (s.storeScalar (.sts d b o) 8 d b o)

/-- STS.W. -/
def execStsW (d b : BitVec 5) (o : BitVec 15) (s : State) : Host.Outcome State Fault Refusal :=
  .next (s.storeScalar (.stsW d b o) 4 d b o)

/-- STS.H. -/
def execStsH (d b : BitVec 5) (o : BitVec 15) (s : State) : Host.Outcome State Fault Refusal :=
  .next (s.storeScalar (.stsH d b o) 2 d b o)

/-- STS.B. -/
def execStsB (d b : BitVec 5) (o : BitVec 15) (s : State) : Host.Outcome State Fault Refusal :=
  .next (s.storeScalar (.stsB d b o) 1 d b o)

/-! ## Vector loads and stores (R176 to R179) -/

/-- LDV and LDVC. -/
def State.loadVector (s : State) (merge : Bool) (v : BitVec 6) (b n : BitVec 5) (f : BitVec 4) (c : BitVec 2) : State :=
  let k := (s.rs n).toNat
  if 2 ^ 24 ≤ k || (isNarrowFmt f && 16384 < k) then s.raise (outOfBounds k)
  else
    let conv : Conv := .elems f.toNat merge s.me.spr.efrv (if isNarrowFmt f then s.me.scale c else []) k
      (if k == 0 then [] else [k])
    s.loadFrom (elemAlign f.toNat) (if k == 0 then [] else [(s.rs b, packedBytes f.toNat k false)]) k
      (if k == 0 then 2 else 0) (.v v) conv

/-- LDV. -/
def execLdv (v : BitVec 6) (b n : BitVec 5) (f : BitVec 4) (c : BitVec 2) (s : State) :
    Host.Outcome State Fault Refusal := .next (s.loadVector false v b n f c)

/-- LDVC. -/
def execLdvc (v : BitVec 6) (b n : BitVec 5) (f : BitVec 4) (c : BitVec 2) (s : State) :
    Host.Outcome State Fault Refusal := .next (s.loadVector true v b n f c)

/-- STV (R178). -/
def execStv (v : BitVec 6) (b : BitVec 5) (f : BitVec 4) (c p : BitVec 2) (s : State) :
    Host.Outcome State Fault Refusal :=
  let rs := s.me.vreg v
  let k := runsLen rs
  if isNarrowFmt f && 16384 < k then .next (s.raise (outOfBounds k))
  else
    let spr := s.me.spr
    let codes := storeCodes f.toNat spr.efrv (s.me.scale c) spr.rm spr.srseed rs
    let bytes := rowBytesOf f.toNat k codes
    .next (s.storeTo (.stv v b f c p) (elemAlign f.toNat) (if k == 0 then [] else [(s.rs b, bytes.length)]) rs.length
      bytes fun s _ => s)

/-! ## Raw run streams (R180) -/

/-- LDR. -/
def execLdr (v : BitVec 6) (b n : BitVec 5) (m : BitVec 1) (s : State) : Host.Outcome State Fault Refusal :=
  let k := (s.rs n).toNat
  let size := if bit1 m then 4 else 8
  if 4096 < k then .next (s.raise (runOverflow k))
  else .next (s.loadFrom size (if k == 0 then [] else [(s.rs b, size * k)]) k (if k == 0 then 2 else 0) (vOrM m v)
    (.entries (bit1 m) (s.rs b)))

/-- STR: the entries as they stand; their count is present c + 1 cycles on (R174). -/
def execStr (v : BitVec 6) (b n : BitVec 5) (p : BitVec 2) (m : BitVec 1) (s : State) :
    Host.Outcome State Fault Refusal :=
  let rs := if bit1 m then s.me.mreg (v.setWidth 3) else s.me.vreg v
  let size := if bit1 m then 4 else 8
  let bytes := (rs.map fun r => leBytes size (entryBits (bit1 m) r)).flatten
  .next (s.storeTo (.str v b n p m) size (if rs.isEmpty then [] else [(s.rs b, bytes.length)]) rs.length bytes
    fun s occ => s.result (occ + 1) [(.s (s.ps n), .scalar (BitVec.ofNat 64 rs.length))] 0)

/-! ## Shape registers (R181 to R184) -/

/-- An empty shape register (R181). -/
def emptyShape (h : BitVec 3) : Flt := prot 0x11 (h.setWidth 64)

/-- Begin an ordered snapshot of the record at an address (R182). -/
def State.snapshot (s : State) (h : BitVec 3) (va origin : BitVec 64) : State :=
  match s.access pSL .rd false 64 [(va, 64)] with
  | .error f => s.raise f
  | .ok r =>
    if s.directHeld r.spans then s
    else s.grant r true fun s =>
      (s.fly (s.flight pSL (s.cycle + r.latency s.u) true false r.spans (.snap h va origin 1 0 0 [] [] []))).issued 1

/-- SHLD. -/
def execShld (h : BitVec 3) (b o : BitVec 5) (s : State) : Host.Outcome State Fault Refusal :=
  .next (s.snapshot h (s.rs b) (s.rs o))

/-- SHWIN. -/
def execShwin (h : BitVec 3) (o : BitVec 5) (s : State) : Host.Outcome State Fault Refusal :=
  let r := s.me.shape h
  if r.rank == 0 then .next (s.raise (emptyShape h)) else .next (s.snapshot h r.addr (s.rs o))

/-- SHCHK. -/
def execShchk (h : BitVec 3) (g : BitVec 2) (s : State) : Host.Outcome State Fault Refusal :=
  let r := s.me.shape h
  if r.rank == 0 then .next (s.raise (emptyShape h))
  else .next (s.loadFrom 4 [(r.addr, 4)] 0 1 (.g g) (.gen (BitVec.ofNat 32 r.gen)))

/-- What SHQ reads (R184). -/
def Shape.query (h : Shape) (hn : BitVec 3) (q i : Nat) : Except Flt Nat :=
  let b := fun (j : Nat) => match h.bound j with | some x => .ok x | none => .error (windowFault hn h j)
  match q with
  | 0 => .ok h.nseq
  | 1 => .ok h.gen
  | 2 => .ok h.origin.toNat
  | 3 => .ok h.count
  | 4 => b i
  | 5 => match b i, b (i + 1) with
    | .ok x, .ok y => .ok (y - x)
    | .error f, _ => .error f
    | _, .error f => .error f
  | 6 => match b i, b (i + 1) with
    | .ok x, .ok y => .ok ((y - x) * h.rowEl)
    | .error f, _ => .error f
    | _, .error f => .error f
  | 7 => .ok h.base
  | 8 => .ok h.pitch
  | 9 => .ok h.rowEl
  | _ => .ok (h.fmt * 256 + h.rank)

/-- SHQ. -/
def execShq (d : BitVec 5) (h : BitVec 3) (i : BitVec 5) (q : BitVec 4) (s : State) :
    Host.Outcome State Fault Refusal :=
  let r := s.me.shape h
  if r.rank == 0 then .next (s.raise (emptyShape h))
  else match r.query h q.toNat (s.rs i).toNat with
    | .error f => .next (s.raise f)
    | .ok v => .next ((s.result 2 [(.s (s.ps d), .scalar (BitVec.ofNat 64 v))] 0).issued 1)

/-! ## Ragged loads and stores (R185, R186) -/

/-- Address faults of stage 2: those of the spaces first, then alignment (R192). -/
def State.stage2 (s : State) (a : Acc) (rs : List (BitVec 64 × Nat)) (size : Nat) (al : Option Flt) : Option Flt :=
  lowestFault (faultOf (s.access pSL a false size rs) ++ (al.map fun f => f.on pSL a).toList)

/-- LDVR. -/
def execLdvr (v : BitVec 6) (i n : BitVec 5) (h : BitVec 3) (e x : BitVec 1) (c : BitVec 2) (k : BitVec 1) (s : State) :
    Host.Outcome State Fault Refusal :=
  let r := s.me.shape h
  if r.rank == 0 then .next (s.raise (emptyShape h))
  else match r.select h (bit1 e) (bit1 x) (s.rs i).toNat (s.rs n).toNat with
    | .error f => .next (s.raise f)
    | .ok rows =>
      let narrow := 7 ≤ r.fmt && r.fmt ≤ 9
      let parts := rows.map fun p => p.2 * r.elems
      let total := parts.sum
      if r.fmt != 10 && (2 ^ 24 ≤ total || (narrow && 16384 < total)) then .next (s.raise (outOfBounds total))
      else
        let rs := r.ranges (packedBytes r.fmt r.elems false) rows
        match s.stage2 .rd rs r.rowAlign (if rows.isEmpty then none else r.misaligned) with
        | some f => .next (s.raise f)
        | none =>
          let conv : Conv := if r.fmt == 10 then .ragged parts r.addr
            else .elems r.fmt (bit1 k) s.me.spr.efrv (if narrow then s.me.scale c else []) r.elems parts
          .next (s.loadFrom 1 rs total (if rs.isEmpty then 2 else 0) (.v v) conv)

/-- The lengths of the segments of a register (R5, R222). -/
def segLengths (rs : List Run) : List Nat :=
  rs.foldr (fun r acc => match acc with
    | [] => [r.cnt]
    | n :: t => if r.b then 0 :: (r.cnt + n) :: t else (r.cnt + n) :: t) [0] |>.drop 1

/-- LENGTH_MISMATCH of a sequence-mode STVR whose source has not n segments, which needs no shape (R186). -/
def segsFault (row : Bool) (n : Nat) (rs : List Run) : List Flt :=
  if !row && (segLengths rs).length != n then [lengthMismatch (segLengths rs).length n] else []

/-- The stage 1 faults of STVR (R186). -/
def Shape.storeFault (r : Shape) (h : BitVec 3) (row nx : Bool) (i n : Nat) (rs : List Run) : Option Flt :=
  let segs := segLengths rs
  let len := runsLen rs
  let lens : List Flt :=
    if row then (if len != n * r.rowEl then [lengthMismatch len (n * r.rowEl)] else [])
    else if segs.length != n then segsFault row n rs
    else ((segs.mapIdx fun k g => match r.bound (i + k), r.bound (i + k + 1) with
      | some a, some b => if g != (b - a) * r.rowEl then [lengthMismatch g ((b - a) * r.rowEl)] else []
      | _, _ => []).flatten).take 1
  let big := if 7 ≤ r.fmt && r.fmt ≤ 9 && 16384 < len then [outOfBounds len] else []
  let run := if r.fmt == 10 then [prot 0x12 r.addr] else []
  lowestFault (lens ++ faultOf (r.select h row nx i n) ++ big ++ run)

/-- STVR: every check is made before any write. -/
def execStvr (v : BitVec 6) (i n : BitVec 5) (h : BitVec 3) (e x : BitVec 1) (c p : BitVec 2) (s : State) :
    Host.Outcome State Fault Refusal :=
  let r := s.me.shape h
  let rs := s.me.vreg v
  match if r.rank == 0 then lowestFault (segsFault (bit1 e) (s.rs n).toNat rs ++ [emptyShape h])
      else r.storeFault h (bit1 e) (bit1 x) (s.rs i).toNat (s.rs n).toNat rs with
    | some f => .next (s.raise f)
    | none => match r.select h (bit1 e) (bit1 x) (s.rs i).toNat (s.rs n).toNat with
      | .error f => .next (s.raise f)
      | .ok rows =>
        let bytes := packedBytes r.fmt r.elems true
        let out := r.ranges bytes rows
        match s.stage2 .wr out r.rowAlign r.misaligned with
        | some f => .next (s.raise f)
        | none =>
          let spr := s.me.spr
          let codes := storeCodes r.fmt spr.efrv (s.me.scale c) spr.rm spr.srseed rs
          .next (s.storeTo (.stvr v i n h e x c p) 1 out rs.length (rowBytesOf r.fmt r.elems codes) fun s _ => s)

/-! ## Tile bits and scale registers (R187, R188) -/

/-- The tiles that WAITF, SETF and CLRF name: the reach of the tiles' bytes (R187). DEDUCED (log entry 103): an address of an
undefined space, for which R96 has subcode 0x02, raises 0x04 as R187 says of every address outside scratchpad space. DESIGN CHOICE (log
entry 146): INFO0 of every address fault is Sb + OFF. -/
def State.tileReach (s : State) (n : BitVec 5) (va : BitVec 64) (a : Acc) : Except Flt Reach :=
  let base := va - BitVec.ofNat 64 (va.toNat % 4096)
  if va.toNat / 2 ^ 60 != 2 then .error ((prot 4 va).on pSL a)
  else match s.reachAll s.u (dieOf s.u) (s.ctxOf s.u) pSL a false [(base, 4096 * (n.toNat + 1))] with
    | .error f => .error { f with info0 := va }
    | .ok r => .ok r

/-- Whether a bit write of the unit to one of some tiles is still on its way (R120, R187). -/
def State.bitsFlying (s : State) (u : Nat) (ts : List Nat) : Bool :=
  s.flights.any fun f => f.unit == u && f.what.bitTiles.any ts.contains

/-- WAITF holds me until every named tile is full, the core's own earlier bit writes included. -/
def execWaitf (n b : BitVec 5) (o : BitVec 15) (s : State) : Host.Outcome State Fault Refusal :=
  match s.tileReach n (s.ea b o) .rd with
  | .error f => .next (s.raise f)
  | .ok r =>
    let ts := tilesOfSpans r.spans
    if ts.all s.isFull && !s.bitsFlying s.u ts then .next (s.issued 1) else .next s

/-- A bit write travels to the scratchpad as a store does. -/
def State.writeBits (s : State) (n b : BitVec 5) (o : BitVec 15) (full : Bool) : State :=
  match s.tileReach n (s.ea b o) .wr with
  | .error f => s.raise f
  | .ok r =>
    let f := s.flight pSL (s.cycle + spanLatency s.u r.spans) false true [] (.bits (tilesOfSpans r.spans) full)
    (s.fly f).issued 1

/-- SETF. -/
def execSetf (n b : BitVec 5) (o : BitVec 15) (s : State) : Host.Outcome State Fault Refusal :=
  .next (s.writeBits n b o true)

/-- CLRF. -/
def execClrf (n b : BitVec 5) (o : BitVec 15) (s : State) : Host.Outcome State Fault Refusal :=
  .next (s.writeBits n b o false)

/-- Whether an address names a unit's own scratchpad (R97). -/
def ownScratch (u va : Nat) : Bool :=
  va / 2 ^ 60 == 2 && match holderOf u false va with | .ok c => c == u | .error _ => false

/-- The stage 2 fault of MSCL: the lowest code of its address, of PROTECTION the lowest subcode (DEDUCED, log entry 40), 0x04 outside the
core's own scratchpad among them (R38, R188, R192). -/
def State.scaleFault (s : State) (va : BitVec 64) : Option Flt :=
  let f := faultOf (s.reachAll s.u (dieOf s.u) (s.ctxOf s.u) pSL .rd false [(va, 512)])
  lowestFault (f ++ (if ownScratch s.u va.toNat then [] else [(prot 4 va).on pSL .rd])
    ++ if va.toNat % 512 != 0 then [(align va 512).on pSL .rd] else [])

/-- MSCL: the core's own scratchpad only; it waits for its tile, for earlier accesses (R188, R119, R120) and for matrix reads of its banks
(R269). -/
def execMscl (m : BitVec 2) (b : BitVec 5) (o : BitVec 15) (s : State) : Host.Outcome State Fault Refusal :=
  let va := s.ea b o
  match s.scaleFault va, s.access pSL .rd false 512 [(va, 512)] with
  | some f, _ => .next (s.raise f)
  | none, .error f => .next (s.raise f)
  | none, .ok r =>
    if s.readHeld r.spans || s.banksHold [] r.spans then .next s
    else .next (s.grant r true fun s => (s.land 12 (.scale m (rdSpans (s.mxMem s.u) r.spans))).issued 1)

/-! ## Accumulator stores (R189) -/

/-- EARLY_READ of the rows that a STAR of the issuing core names in its own accumulators (R50). -/
def State.starEarly (s : State) (a : BitVec 5) (n : BitVec 7) : Option Flt :=
  let src := (s.rs a).toNat
  let own := match holderOf s.u true src with | .ok c => src / 2 ^ 60 == 4 && c == s.u | .error _ => false
  if own then s.earlyRows s.u s.cur.op.seq (BitVec.ofNat 3 (src / 2 ^ 16)) (src / 2 ^ 9 % 128) (n.toNat + 1) else none

/-- STAR: rows of a bank, converted, to memory. An early read is one of the issue cycle: a STAR held in its slot meets none (R50). -/
def execStar (d a : BitVec 5) (n : BitVec 7) (f : BitVec 4) (s : State) : Host.Outcome State Fault Refusal :=
  let src := (s.rs a).toNat
  let dst := s.rs d
  let k := n.toNat + 1
  let row := src / 2 ^ 9 % 128
  let bank := src / 2 ^ 16 % 8
  let size := fmtBits f.toNat / 8
  let early := s.starEarly a n
  let fault := fun (f : Flt) => .next (s.raise (early.getD f))
  if src / 2 ^ 60 == 4 && 128 < row + k then fault (outOfBounds (row + k))
  else
    let rd : Except Flt Reach := if src / 2 ^ 60 != 4 then .error ((prot 4 (s.rs a)).on pSL .rd)
      else s.access pSL .rd true 512 [(s.rs a, 512 * k)]
    let wr := s.access pSL .wr false size [(dst, k * 128 * size)]
    match lowestFault (faultOf rd ++ faultOf wr) with
    | some e => fault e
    | none => match rd, wr with
      | .ok r, .ok w => if s.directHeld w.spans then .next s else if let some e := early then .next (s.raise e)
        else .next (s.grant w false fun s =>
        let core := (r.spans.headD (0, 0)).1 % 2 ^ 64 / 2 ^ 19
        let occ := occupancy s.u w.spans 0
        let spr := s.me.spr
        let far := latency s.u (r.spans.headD (0, 0)).1
        let lat := w.latency s.u
        let what : Fly := if core == s.u then .store (starBytes s.mem core bank row k f.toNat spr.rm spr.srseed)
          else .star f spr.rm spr.srseed bank row k core
        (s.fly (s.flight pSL (s.cycle + lat + (if core == s.u then 0 else far)) false true w.spans what)).issued occ)
      | _, _ => .next s

/-! ## Fences (R122 to R125) -/

/-- Whether a scope covers a place, seen from a unit (R122). -/
def inScope (a u p : Nat) : Bool :=
  let sp := spaceOf p
  let holder : Option Nat := match sp with
    | 1 => some (vaultCore p)
    | 2 => some (p % 2 ^ 64 / 2 ^ 23)
    | 4 => some (p % 2 ^ 64 / 2 ^ 19)
    | _ => none
  match a with
  | 0 => !isCtl u && holder == some u
  | 1 => match holder with | some c => c / 4 == clusterOf u | none => false
  | 2 => sp != 3 && placeDie p == dieOf u
  | 3 => sp != 3
  | _ => true

/-- Whether a scope covers the target of a request that could not be translated: by the die its address names. -/
def inScopeVa (a u : Nat) (va : BitVec 64) : Bool :=
  match a with
  | 0 => false
  | 1 => false
  | 2 => va.toNat / 2 ^ 60 == 1 && va.toNat / 2 ^ 29 % 32 == dieOf u
  | _ => true

/-- Whether what a flight touches beside its spans lies in a scope: the tiles of a bit write, the rows that an accumulator store
reads on another core, for SDFREE and ROOPEN.X the directory on die 0, and the window that a ROOPEN.X applies (R206, R213). -/
def State.touchesScope (s : State) (a u : Nat) (f : Flight) : Bool :=
  match f.what with
  | .bits ts _ => ts.any fun t => inScope a u (2 * 2 ^ 64 + t * 4096)
  | .star _ _ _ _ _ _ src => inScope a u (accPlace src 0)
  | .req (.free _) _ _ => inScopeVa a u (BitVec.ofNat 64 (2 ^ 60))
  | .req (.roclose w _) _ _ => inScopeVa a u (BitVec.ofNat 64 (2 ^ 60))
      || match Tab.get none (s.ctx (s.flightCtx f).toNat).wins w.toNat with
        | some y => inScope a u y.place || y.queue.any fun q => inScope a u q.1
        | none => false
  | _ => false

/-- Whether a flight is an access of the unit's task in an earlier bundle that a fence over a scope waits for, parked
requests included (R123). -/
def State.fenced (s : State) (u n a : Nat) (ps : List (BitVec 3)) (f : Flight) : Bool :=
  f.unit == u && f.task == (s.unit u).task && decide (f.seq < n) && ps.contains f.path && (f.reads || f.writes || f.parked)
    && (f.spans.any (fun p => (spanPoints p).any (inScope a u)) || s.touchesScope a u f
      || (f.bad.isSome && !f.parked)
      || (f.parked && match f.what with | .req _ va _ => inScopeVa a u va | _ => true))

/-- FENCE. -/
def execFence (a : BitVec 3) (s : State) : Host.Outcome State Fault Refusal :=
  if s.flights.any (s.fenced s.u s.cur.op.seq a.toNat [pSL, pAT]) then .next s else .next (s.issued 1)

/-- DRAIN. -/
def execDrain (a : BitVec 3) (s : State) : Host.Outcome State Fault Refusal :=
  let n := s.cur.op.seq
  if s.flights.any (s.fenced s.u n a.toNat [pSL, pAT, pAC])
      || s.xfers.any (fun x => x.unit == s.u && x.task == s.me.task && decide (x.seq < n) && s.xferOpen x) then .next s
  else .next (s.issued 1)

/-- Whether the accesses of an XFENCE's path a that are ordered before it have performed (R125). -/
def State.pathDone (s : State) (a : Nat) : Bool :=
  let u := s.u
  let n := s.cur.op.seq
  let none' := fun (p : BitVec 3) => !s.flights.any (s.fenced u n 4 [p])
  match a with
  | 0 => none' pSL
  | 1 => !s.mxOpen u n
  | 2 => none' pAC
  | 3 => !s.xfers.any fun x => x.unit == u && x.task == s.me.task && decide (x.seq < n) && s.xferOpen x
  | 4 => none' pCO && !s.calls.any fun c => c.unit == u && c.task == s.me.task && decide (c.bun < n) && !s.callLocal c
  | 5 => none' pAT
  | _ => match (s.me.slot 6).hold with
    | .wait k => !s.flights.any fun f => f.path == pHI && decide (f.id < k)
    | _ => !s.flights.any fun f => f.path == pHI

/-- XFENCE. -/
def execXfence (a b : BitVec 3) (s : State) : Host.Outcome State Fault Refusal :=
  let _ := b
  if s.pathDone a.toNat then .next (s.issued 1)
  else match (s.me.slot 6).hold with
    | .none => .next (s.holding (.wait s.ids))
    | _ => .next s

end Sys2Proof.Machine
end

