-- ==== Sys2Proof/Machine/Sync.lean ====
section
/-!
DEFINITION. The synchronisation half of the me slot (R193 to R219): requests at their memory ports, waits at the ports, and
the operations that only controllers have.
-/

namespace Sys2Proof.Machine

/-! ## Requests (R193, R195) -/

/-- Bytes of the object that a request addresses. -/
def Req.size : Req → Nat
  | .atom _ ty _ _ | .acas ty _ _ => if ty == 1 then 8 else 4
  | .rsf _ | .rso _ _ _ => 4
  | .rsb _ | .binit _ | .bnorm | .bfin _ _ _ _ => 32
  | .push _ | .pop | .steal | .bara | .claim | .launch _ => 64
  | .roopen _ _ _ => 1
  | _ => 0

/-- Entries that a port merges in one line: integer atomics, RSF and RSB (R194). -/
def Req.mergeable : Req → Bool
  | .atom _ t _ _ => t != 2
  | .rsf _ | .rsb _ => true
  | _ => false

/-- The kind of access a request makes; a returning atomic needs both permissions (R106), ROOPEN translates as a write. -/
def Req.acc (returning : Bool) : Req → Acc
  | .atom _ _ _ _ => if returning then .rw else .wr
  | .acas _ _ _ | .push _ | .pop | .steal | .bara => .rw
  | .bfin _ _ _ _ | .claim | .launch _ => .rd
  | _ => .wr

/-- The spaces in which an object may lie: deques and group records in vaults, barriers in vaults or scratchpads. -/
def Req.spaceOk (r : Req) (sp : Nat) : Bool :=
  match r with
  | .push _ | .pop | .steal | .launch _ => sp == 1
  | .bara => sp == 1 || sp == 2
  | _ => true

/-- Whether a range of bytes lies within one port (R193). -/
def onePort (sp : List (Nat × Nat)) : Bool :=
  match sp with
  | [] => true
  | x :: _ => sp.all fun y => portOf y.1 == portOf x.1 && portOf (y.1 + y.2 - 1) == portOf x.1

/-- PROTECTION 0x14 (R219). -/
def portFault (va : BitVec 64) (a : Acc) : Flt := (prot 0x14 va).on pAT a

/-- Translate and check the object of a request at the issuing die (R193, R111, R116). -/
def State.reqReach (s : State) (u : Nat) (c : BitVec 3) (ret : Bool) (r : Req) (va : BitVec 64) : Except Flt Reach :=
  match s.reach u (dieOf u) c pAT (r.acc ret) false va r.size with
  | .error f => .error f
  | .ok q =>
    if !((q.spans.all fun x => r.spaceOk (spaceOf x.1)) && onePort q.spans) then .error (portFault va (r.acc ret))
    else if va.toNat % r.size != 0 then .error ((align va r.size).on pAT (r.acc ret))
    else .ok q

/-- A returning request goes on its way: its result goes to `dst`; `more` are faults beside those of its address. -/
def State.ask (s : State) (r : Req) (va : BitVec 64) (dst : List Stor) (more : List Flt) : State :=
  let q := s.reqReach s.u (s.ctxOf s.u) true r va
  match lowestFault (faultOf q ++ more) with
  | some f => s.raise f
  | none => match q with
    | .error f => s.raise f
    | .ok q => s.grant q false fun s =>
      (s.fly (s.flight pAT (s.cycle + q.latency s.u) true true q.spans (.req r va dst))).issued 1

/-- Put one non-returning request on its way, checked in the state `b` in which its operation issues, with the translations
cached then (R107); a failed check travels with it and is found asynchronously (R112). -/
def State.tell (s b : State) (r : Req) (va : BitVec 64) : State :=
  match ({ b with ids := s.ids } : State).reqReach b.u (b.ctxOf b.u) false r va with
  | .ok q => s.fly (s.flight pAT (s.cycle + q.latency s.u) true true q.spans (.req r va []))
  | .error f =>
    s.fly { s.flight pAT (s.cycle + 1) true true [] (.req r va []) with
      bad := some ⟨s.cur.op.seq, s.cur.op.addr, s.cur.slot, f.code, f.sub, f.info0, f.info1, f.info2, f.info3, f.xinfo,
        f.path, f.kind, 0, false⟩ }

/-- What a list of non-returning requests reaches, as far as their checks succeed. -/
def State.tellReach (s : State) (rs : List (Req × BitVec 64)) : Reach :=
  rs.foldl (fun a p => match s.reqReach s.u (s.ctxOf s.u) false p.1 p.2 with
    | .ok q => ⟨a.spans ++ q.spans, a.tlb ++ q.tlb⟩
    | .error _ => a) ⟨[], []⟩

/-- Non-returning requests, issued together; `occ` the cycles for which they hold me, `i` the operation whose read ports
are held. -/
def State.tellAll (s : State) (i : Instr) (rs : List (Req × BitVec 64)) (occ : Nat) : State :=
  let b := s
  s.grant (s.tellReach rs) false fun s =>
    ((rs.foldl (fun t p => t.tell b p.1 p.2) s).issued occ).holdPorts i occ

/-- Occupancy of a vector form (R174, R195): the path's width from where its first object lies. -/
def State.vecOcc (s : State) (va : BitVec 64) (bytes entries : Nat) : Nat :=
  let w := match s.reach s.u (dieOf s.u) (s.ctxOf s.u) pAT .wr false va 1 with
    | .ok q => pathWidth s.u (q.spans.headD (0, 0)).1
    | .error _ => 256
  max (max 1 (ceilDiv bytes w)) (ceilDiv entries 16)

/-! ## Issue: atomics (R198, R200) -/

/-- ATOM, returning. -/
def execAtom (d b v : BitVec 5) (o : BitVec 3) (t : BitVec 2) (u : BitVec 1) (s : State) :
    Host.Outcome State Fault Refusal :=
  .next (s.ask (.atom o t (bit1 u) (s.rs v)) (s.rs b) [.s (s.ps d)] [])

/-- ATOM, non-returning. -/
def execAtomN (b v : BitVec 5) (o : BitVec 3) (t : BitVec 2) (u : BitVec 1) (s : State) :
    Host.Outcome State Fault Refusal :=
  .next (s.tellAll (.atomN b v o t u) [(.atom o t (bit1 u) (s.rs v), s.rs b)] 1)

/-- ACAS. -/
def execAcas (d b e v : BitVec 5) (t : BitVec 2) (s : State) : Host.Outcome State Fault Refusal :=
  .next (s.ask (.acas t (s.rs e) (s.rs v)) (s.rs b) [.s (s.ps d)] [])

/-! ## Issue: reduce-stores (R202 to R206) -/

/-- The logical elements of a register, in order; null runs have none. -/
def elementsOf (rs : List Run) : List Word := (rs.map fun r => List.replicate r.cnt r.val).flatten

/-- The requests of a vector reduce-store: element i goes to `va + size i` (R202). -/
def vecReqs (mk : Word → Req) (size : Nat) (va : BitVec 64) (rs : List Run) : List (Req × BitVec 64) :=
  (elementsOf rs).mapIdx fun i x => (mk x, va + BitVec.ofNat 64 (size * i))

/-- A vector reduce-store. -/
def State.reduceVec (s : State) (i : Instr) (mk : Word → Req) (size : Nat) (v : BitVec 6) (b : BitVec 5) : State :=
  let rs := s.me.vreg v
  s.tellAll i (vecReqs mk size (s.rs b) rs) (s.vecOcc (s.rs b) (size * runsLen rs) rs.length)

/-- RSF. -/
def execRsf (v b : BitVec 5) (s : State) : Host.Outcome State Fault Refusal :=
  .next (s.tellAll (.rsf v b) [(.rsf ((s.rs v).setWidth 32), s.rs b)] 1)

/-- RSF.V. -/
def execRsfV (v : BitVec 6) (b : BitVec 5) (p : BitVec 2) (s : State) : Host.Outcome State Fault Refusal :=
  .next (s.reduceVec (.rsfV v b p) .rsf 4 v b)

/-- RSB. -/
def execRsb (v b : BitVec 5) (s : State) : Host.Outcome State Fault Refusal :=
  .next (s.tellAll (.rsb v b) [(.rsb ((s.rs v).setWidth 32), s.rs b)] 1)

/-- RSB.V. -/
def execRsbV (v : BitVec 6) (b : BitVec 5) (p : BitVec 2) (s : State) : Host.Outcome State Fault Refusal :=
  .next (s.reduceVec (.rsbV v b p) .rsb 32 v b)

/-- RSO. -/
def execRso (v b i : BitVec 5) (w : BitVec 6) (s : State) : Host.Outcome State Fault Refusal :=
  .next (s.tellAll (.rso v b i w) [(.rso w ((s.rs i).setWidth 32) ((s.rs v).setWidth 32), s.rs b)] 1)

/-- RSO.V. -/
def execRsoV (v : BitVec 6) (b i : BitVec 5) (w : BitVec 6) (p : BitVec 2) (s : State) :
    Host.Outcome State Fault Refusal :=
  .next (s.reduceVec (.rsoV v b i w p) (.rso w ((s.rs i).setWidth 32)) 4 v b)

/-- The place of the sync directory's die, for latencies (R206). -/
def directory : Nat := vaultPlace 0 0

/-- PROTECTION 0x01 for a trip to the sync directory on die 0, and from there to the places named, that needs a failed link
(R13). -/
def State.dirFaults (s : State) (va : BitVec 64) (a : Acc) (ps : List Nat) : List Flt :=
  if s.routeBad (dieOf s.u) 0 || ps.any (fun p => s.routeBad 0 (placeDie p)) then [(prot 1 va).on pAT a] else []

/-- A request to the sync directory that names no address. DESIGN CHOICE (log entry 117): INFO0 of its PROTECTION 0x01 is 0. -/
def State.askDirectory (s : State) (r : Req) (dst : Stor) (ps : List Nat) : State :=
  match s.dirFaults 0 .wr ps with
  | f :: _ => s.raise f
  | [] => (s.fly (s.flight pAT (s.cycle + latency s.u directory) false true [] (.req r 0 [dst]))).issued 1

/-- A window of a context, by its place. -/
def State.winPlace (s : State) (c : BitVec 3) (w : BitVec 6) : List Nat :=
  match Tab.get none (s.ctx c.toNat).wins w.toNat with | some y => [y.place] | none => []

/-- ROOPEN: the count, the address and the way by the directory are checked precisely; the directory answers, so the request
goes to die 0 first (R206). -/
def execRoopen (d b c : BitVec 5) (w : BitVec 6) (s : State) : Host.Outcome State Fault Refusal :=
  let n := (s.rs c).toNat
  let r : Req := .roopen w n false
  let q := s.reqReach s.u (s.ctxOf s.u) true r (s.rs b)
  let place := match q with | .ok q => q.spans.map (·.1) | .error _ => []
  let more := faultOf q ++ s.dirFaults (s.rs b) .wr place ++ if 1 ≤ n && n ≤ 4096 then [] else [prot 0x10 (s.rs c)]
  match lowestFault more, q with
  | some f, _ => .next (s.raise f)
  | none, .error f => .next (s.raise f)
  | none, .ok q => .next (s.grant q false fun s =>
      (s.fly (s.flight pAT (s.cycle + latency s.u directory + 350 * q.levels) true true q.spans
        (.req r (s.rs b) [.s (s.ps d)]))).issued 1)

/-- ROOPEN.X. -/
def execRoopenX (d : BitVec 5) (w : BitVec 6) (s : State) : Host.Outcome State Fault Refusal :=
  .next (s.askDirectory (.roclose w false) (.s (s.ps d)) (s.winPlace (s.ctxOf s.u) w))

/-! ## Issue: BN3 objects (R204) -/

/-- BINIT and BNORM of n objects: more than 4,096 raise PROTECTION 0x10 asynchronously, and none is written. -/
def State.objects (s : State) (i : Instr) (r : Req) (n : Nat) (va : BitVec 64) : State :=
  if 4096 < n then (s.logFault (s.whoCur true) (outOfBounds n)).issued 1
  else s.tellAll i ((List.range n).map fun k => (r, va + BitVec.ofNat 64 (32 * k))) (s.vecOcc va (32 * n) 0)

/-- BINIT. -/
def execBinit (e b : BitVec 5) (s : State) : Host.Outcome State Fault Refusal :=
  .next (s.tellAll (.binit e b) [(.binit ((s.rs e).setWidth 16), s.rs b)] 1)

/-- BINIT.V. -/
def execBinitV (e b n : BitVec 5) (s : State) : Host.Outcome State Fault Refusal :=
  .next (s.objects (.binitV e b n) (.binit ((s.rs e).setWidth 16)) (s.rs n).toNat (s.rs b))

/-- BNORM. -/
def execBnorm (b : BitVec 5) (s : State) : Host.Outcome State Fault Refusal :=
  .next (s.tellAll (.bnorm b) [(.bnorm, s.rs b)] 1)

/-- BNORM.V. -/
def execBnormV (b n : BitVec 5) (s : State) : Host.Outcome State Fault Refusal :=
  .next (s.objects (.bnormV b n) .bnorm (s.rs n).toNat (s.rs b))

/-- BFIN of n objects: each is finished in a step of its own at its port (R193, R204); the result is present at t + L + 4 in either
form (R195). -/
def State.finishObjects (s : State) (vec : Bool) (n : Nat) (va : BitVec 64) (dst : Stor) : State :=
  let qs := (List.range n).map fun k =>
    s.reqReach s.u (s.ctxOf s.u) true (.bfin vec n [] 0) (va + BitVec.ofNat 64 (32 * k))
  match lowestFault (qs.map faultOf).flatten with
  | some f => s.raise f
  | none =>
    let r : Reach := qs.foldl (fun a q => match q with
      | .ok q => ⟨a.spans ++ q.spans, a.tlb ++ q.tlb⟩
      | .error _ => a) ⟨[], []⟩
    let occ := if vec then s.vecOcc va (32 * n) n else 1
    s.grant r false fun s =>
      (s.fly (s.flight pAT (s.cycle + r.latency s.u) true false r.spans (.req (.bfin vec n [] 0) va [dst]))).issued occ

/-- BFIN. -/
def execBfin (d b : BitVec 5) (s : State) : Host.Outcome State Fault Refusal :=
  .next (s.finishObjects false 1 (s.rs b) (.s (s.ps d)))

/-- BFIN.V: no objects give an empty register with no memory read, present c + 1 cycles on (R174); more than 4,096
RUN_OVERFLOW. -/
def execBfinV (b n : BitVec 5) (v : BitVec 6) (s : State) : Host.Outcome State Fault Refusal :=
  let k := (s.rs n).toNat
  if 4096 < k then .next (s.raise (runOverflow k))
  else if k == 0 then .next ((s.result 2 [(.v v, .runs [])] 0).issued 1)
  else .next (s.finishObjects true k (s.rs b) (.v v))

/-! ## Issue: deques, barriers, growth, leases (R207 to R213) -/

/-- DQPUSH. -/
def execDqpush (b v t : BitVec 5) (s : State) : Host.Outcome State Fault Refusal :=
  .next (s.ask (.push (s.rs v)) (s.rs b) [.s (s.ps t)] [])

/-- DQPOP. -/
def execDqpop (d b t : BitVec 5) (s : State) : Host.Outcome State Fault Refusal :=
  .next (s.ask .pop (s.rs b) [.s (s.ps t), .s (s.ps d)] [])

/-- DQSTEAL. -/
def execDqsteal (d b t : BitVec 5) (s : State) : Host.Outcome State Fault Refusal :=
  .next (s.ask .steal (s.rs b) [.s (s.ps t), .s (s.ps d)] [])

/-- Barriers are for the members of co-resident groups (R28, R210). -/
def State.barrierFaults (s : State) (va : BitVec 64) : List Flt :=
  match s.me.task with
  | none => [prot 0x15 va]
  | some t => match s.groupOf t with
    | some g => if !g.cores then [prot 0x15 va] else if t.member then [] else [prot 0x0A va]
    | none => [prot 0x15 va]

/-- BARA. -/
def execBara (d b : BitVec 5) (s : State) : Host.Outcome State Fault Refusal :=
  .next (s.ask .bara (s.rs b) [.s (s.ps d)] (s.barrierFaults (s.rs b)))

/-- TGROW: it holds me until the record's port has answered (R211); a record beyond a failed link raises PROTECTION 0x01. -/
def execTgrow (d n : BitVec 5) (s : State) : Host.Outcome State Fault Refusal :=
  let k := (s.rs n).toNat
  let refused := s.raise (prot 0x0B (s.rs n))
  if k == 0 || 2 ^ 31 < k then .next refused
  else match s.me.task with
    | none => .next refused
    | some t => match s.groupOf t with
      | none => .next refused
      | some g =>
        if s.routeBad (dieOf s.u) (placeDie g.place) then .next (s.raise ((prot 1 g.recd).on pAT .rw))
        else
        let s := s.modGroup g fun g => { g with growing := g.growing + 1 }
        let sp := [(g.place + 32, 4)]
        .next ((s.fly (s.flight pAT (s.cycle + spanLatency s.u sp) true true sp
          (.req (.grow (s.rs n)) t.group [.s (s.ps d)]))).issued 1)

/-- SDCLAIM. -/
def execSdclaim (d b : BitVec 5) (s : State) : Host.Outcome State Fault Refusal :=
  .next (s.ask .claim (s.rs b) [.s (s.ps d)] (s.dirFaults (s.rs b) .rd []))

/-- SDFREE. -/
def execSdfree (d l : BitVec 5) (s : State) : Host.Outcome State Fault Refusal :=
  .next (s.askDirectory (.free (s.rs l)) (.s (s.ps d)) [])

/-! ## At the port (R193) -/

/-- OR flags into the port's AXR for a context (R199, R201). -/
def State.axr (s : State) (c : BitVec 3) (p : Nat) (fl : Flags) : State :=
  if fl == 0 then s
  else s.modCtx c.toNat fun x =>
    { x with axr := Tab.set 0 x.axr (portOf p) (Tab.get 0 x.axr (portOf p) ||| (fl &&& 0x17)) }

/-- The answer of a returning request travels back: present four cycles after the port's step (R195). -/
def State.answer (s : State) (f : Flight) (ds : List Stor) (vs : List Val) (fl : Flags) (extra : Nat) : State :=
  if ds.isEmpty then s.dropFlight f
  else s.modFlight f fun g => { g with
    due := s.cycle + 4 + extra, reads := false, writes := false, spans := [],
    what := .result (ds.zip vs) fl }

/-- A word as a scalar, sign-extended or not. -/
def scalarVal (sgn : Bool) (n x : Nat) : Val :=
  .scalar (if sgn && n == 4 then (BitVec.ofNat 32 x).signExtend 64 else BitVec.ofNat 64 x)

/-- ATOM on a value (R198). -/
def atomOp (o : BitVec 3) (t : BitVec 2) (uns : Bool) (old x : Nat) : Nat × Flags :=
  if t == 2 then
    let a := decodeF fp32 old
    let b := decodeF fp32 x
    match o.toNat with
    | 0 => addF 0 0 a b
    | 4 => let r := minmaxF false a b; (bits32 r.1, r.2)
    | 5 => let r := minmaxF true a b; (bits32 r.1, r.2)
    | _ => (x, 0)
  else
    let m := if t == 1 then 2 ^ 64 else 2 ^ 32
    let sg := fun (y : Nat) => if uns || y < m / 2 then (y : Int) else (y : Int) - m
    (match o.toNat with
      | 0 => (old + x) % m
      | 1 => old &&& x
      | 2 => old ||| x
      | 3 => old ^^^ x
      | 4 => if sg x < sg old then x else old
      | 5 => if sg old < sg x then x else old
      | _ => x, 0)

/-- RNE(memory + addend) under R199. -/
def addRne (old x : Nat) : Res := addF 0 0 (decodeF fp32 old) (decodeF fp32 x)

/-- A BN3 object in memory (R90). -/
def bn3Of (bs : List Byte) : Bn3 :=
  let w := leNat (bs.take 8)
  let bin := fun (k : Nat) => (BitVec.ofNat 64 (leNat ((bs.drop (8 + 8 * k)).take 8))).toInt
  ⟨w / 2 ^ 32, (BitVec.ofNat 16 (w / 2 ^ 16)).toInt, w / 8 % 2 == 1, w / 4 % 2 == 1, w / 2 % 2 == 1, w % 2 == 1,
    w / 16 % 2 ^ 12, bin 0, bin 1, bin 2⟩

/-- The bytes of a BN3 object. -/
def Bn3.bytes (o : Bn3) : List Byte :=
  let b := fun (x : Bool) (n : Nat) => if x then n else 0
  leBytes 8 (o.dcnt % 2 ^ 32 * 2 ^ 32 + (BitVec.ofInt 16 o.etop).toNat * 2 ^ 16 + o.rsv * 16 + b o.ovf 8 + b o.ninf 4
    + b o.pinf 2 + b o.nan 1)
  ++ leBytes 8 (BitVec.ofInt 64 o.b0).toNat ++ leBytes 8 (BitVec.ofInt 64 o.b1).toNat
  ++ leBytes 8 (BitVec.ofInt 64 o.b2).toNat

/-- The place of a flight's object. -/
def Flight.place (f : Flight) : Nat := (f.spans.headD (0, 0)).1

/-- An entry that a port can merge is applied, with its flags and its answer; the watched words are not examined yet (R194). -/
def State.entryAt (s : State) (f : Flight) : State :=
  let p := f.place
  let c := s.flightCtx f
  match f.what with
  | .req (.atom o t uns x) _ ds =>
    let n := (Req.atom o t uns x).size
    let old := leNat (rdBytes s.mem p n)
    let q := atomOp o t uns old (x.toNat % 2 ^ (8 * n))
    (({ s with mem := wrBytes s.mem p (leBytes n q.1) } : State).axr c p q.2).answer f ds [scalarVal (t == 0) n old] q.2 0
  | .req (.rsf x) _ _ =>
    let q := addRne (leNat (rdBytes s.mem p 4)) x.toNat
    (({ s with mem := wrBytes s.mem p (leBytes 4 q.1) } : State).axr c p q.2).dropFlight f
  | .req (.rsb x) _ _ =>
    ({ s with mem := wrBytes s.mem p ((bn3Of (rdBytes s.mem p 32)).deposit (decodeF fp32 x.toNat)).bytes } : State).dropFlight f
  | _ => s

/-- Whether a flight is a pending entry of a 64-byte line that its port may merge now (R194). -/
def State.pendingIn (s : State) (line : Nat) (g : Flight) : Bool :=
  !g.parked && g.bad.isNone && (match g.what with | .req r _ _ => r.mergeable | _ => false) && g.place / 64 == line
    && s.mayPerform g

/-- The first k pending entries of a line among some flights are applied, one by one. -/
def State.mergeLine (s : State) (line k : Nat) (fs : List Flight) : State :=
  match fs with
  | [] => s
  | g :: r => if k != 0 && s.pendingIn line g then (s.entryAt g).mergeLine line (k - 1) r else s.mergeLine line k r

/-- One queue entry of a port: a mergeable request and up to k more of its line, all in one step; then the port examines the words
watched in the line (R193, R194, R214). How many are merged is open, and the agenda says it. -/
def State.entryStep (s : State) (f : Flight) (k : Nat) : State :=
  let line := f.place / 64
  let s := (s.entryAt f).mergeLine line k (s.flights.filter fun g => g.id != f.id)
  { s with watches := s.watches.map fun w => if overlaps w.place w.bytes (line * 64) 64 then w.check s.mem s.ids else w }

/-- An ordered window of a context. -/
def State.win (s : State) (c : BitVec 3) (w : BitVec 6) : Option Win := Tab.get none (s.ctx c.toNat).wins w.toNat

/-- Write an ordered window. -/
def State.setWin (s : State) (c : BitVec 3) (w : BitVec 6) (x : Option Win) : State :=
  s.modCtx c.toNat fun y => { y with wins := Tab.set none y.wins w.toNat x }

/-- Insert a queued request after those not above it by address and identifier (R205). -/
def insertReq (x : Nat × Word × Word) (l : List (Nat × Word × Word)) : List (Nat × Word × Word) :=
  match l with
  | [] => [x]
  | y :: r => if x.1 < y.1 || (x.1 == y.1 && x.2.1.ult y.2.1) then x :: y :: r else y :: insertReq x r

/-- The stable sort of a window's queue. -/
def sortReqs (l : List (Nat × Word × Word)) : List (Nat × Word × Word) := l.foldl (fun a x => insertReq x a) []

/-- Apply a window's queue at its port and close it (R205). -/
def State.applyWin (s : State) (c : BitVec 3) (w : BitVec 6) (x : Win) : State :=
  let s := (sortReqs x.queue).foldl (fun s q =>
    let r := addRne (rd32 s.mem q.1).toNat q.2.2.toNat
    (s.write q.1 (leBytes 4 r.1)).axr c q.1 r.2) s
  s.setWin c w none

/-- Queue entries of a port that open windows have reserved (R206): those of the contexts whose state is in the units. -/
def State.reserved (s : State) (c : BitVec 3) (port : Nat) : Nat :=
  ((c :: (s.glob.running.toList.filter (· != c))).map fun k =>
    ((s.ctx k.toNat).wins.map fun w => match w.2 with
      | some x => if portOf x.place == port then x.expect else 0
      | none => 0).sum).sum

/-- The round trip from die 0 to a port (R206). -/
def dirTrip (p : Nat) : Nat :=
  if spaceOf p == 0 then 350 + dieTerm 0 (placeDie p)
  else if placeDie p == 0 then 140 else dieTerm 0 (placeDie p)

/-- A deque step (R208): status and value, and the writes of the ring entry and of the header. -/
def dequeStep (m : List Host.Cell) (p : Nat) (r : Req) : Nat × Nat × List (Nat × Nat) :=
  let bs := rdBytes m p 64
  let top := leNat (bs.take 8)
  let bot := leNat ((bs.drop 8).take 8)
  let lg := ((bs.drop 16).headD 0).toNat
  let cap := 2 ^ lg
  let n := (bot + 2 ^ 64 - top) % 2 ^ 64
  let ring := fun (j : Nat) => p + 64 + 8 * (j % cap)
  let bad := (bs.drop 17).any (· != 0) || lg == 0 || 20 < lg || cap < n
    || p % 2 ^ 25 + 64 + 8 * cap > 2 ^ 25
  let bot' := (bot + 2 ^ 64 - 1) % 2 ^ 64
  if bad then (3, 0, [])
  else match r with
    | .push x => if n == cap then (2, 0, []) else (0, 0, [(ring bot, x.toNat), (p + 8, (bot + 1) % 2 ^ 64)])
    | .pop => if n == 0 then (1, 0, []) else (0, leNat (rdBytes m (ring bot') 8), [(p + 8, bot')])
    | _ => if n == 0 then (1, 0, []) else (0, leNat (rdBytes m (ring top) 8), [(p, (top + 1) % 2 ^ 64)])

/-- Whether two boxes intersect in all four coordinates (R213). -/
def boxesMeet (a b : Lease) : Bool :=
  (List.range 4).all fun i => !(a.hi.getD i 0).ult (b.lo.getD i 0) && !(b.hi.getD i 0).ult (a.lo.getD i 0)

/-- SDCLAIM on the bytes of a descriptor: the result and the table (R212, R213). -/
def claimLease (t : Tab (Option Lease)) (bs : List Byte) : Nat × Tab (Option Lease) :=
  let w := fun (off : Nat) => (List.range 4).map fun i => BitVec.ofNat 32 (leNat ((bs.drop (off + 4 * i)).take 4))
  let l : Lease := ⟨BitVec.ofNat 64 (leNat (bs.take 8)), BitVec.ofNat 64 (leNat ((bs.drop 8).take 8)), w 16, w 32⟩
  let bad := (bs.drop 48).any (· != 0) || (List.range 4).any fun i => (l.hi.getD i 0).ult (l.lo.getD i 0)
  let live := fun (i : Nat) => Tab.get none t i
  let hit := (List.range 64).find? fun i => match live i with
    | some k => k.name == l.name && k.seed == l.seed && boxesMeet k l
    | none => false
  if bad then (3, t)
  else match hit with
    | some i => (1 + i * 256, t)
    | none => match (List.range 64).find? fun i => (live i).isNone with
      | none => (2, t)
      | some i => (i * 256, Tab.set none t i (some l))

/-! ## LAUNCH (R24 to R26, R217) -/

/-- A field of a group record. -/
def recField (b lo n : Nat) : Nat := b / 2 ^ lo % 2 ^ n

/-- Why LAUNCH rejects a record (R25): subcode 0x01 for an absent cluster, 0x08 else; the lower one is reported. -/
def State.launchFault (s : State) (d b : Nat) : Option Byte :=
  let f := recField b
  let shape := f 78 2
  let units := (List.range 96).countP fun i => f (96 + i) 1 == 1
  let absent := (List.range 96).any fun i => f (96 + i) 1 == 1 && s.routeBad d (i / 4)
  let bad := 2 ≤ shape || f 96 96 == 0 || f 93 3 != 0 || f 64 9 != 0 || f 0 16 != 0 || f 256 32 == 0
    || (f 77 1 == 1 && f 256 32 > (if shape == 0 then 4 * units else units))
    || (shape == 1 && f 288 32 % 16384 != 0)
  if absent then some 1 else if bad then some 8 else none

/-- The live group of a record, with the number of its launch. -/
def groupOfRecord (c : BitVec 3) (va : BitVec 64) (place ctl b num : Nat) : Group :=
  let f := recField b
  { ctx := c, recd := va, place := place, entry := BitVec.ofNat 13 (f 80 13), args := BitVec.ofNat 64 (f 384 64),
    saveBase := BitVec.ofNat 64 (f 320 64), stride := BitVec.ofNat 32 (f 288 32), clset := BitVec.ofNat 96 (f 96 96),
    cluster := f 78 2 == 1, cores := f 77 1 == 1, replay := f 74 1 == 1, tev := f 73 1 == 1,
    doneAddr := BitVec.ofNat 64 (f 448 64), tag := BitVec.ofNat 16 (f 16 16), ctl := ctl,
    count0 := BitVec.ofNat 32 (f 256 32), begun := false, replays := [], growing := 0, num := num }

/-- A precise fault found at a port: the operation has had no effect, its mark is cleared. -/
def State.portRaise (s : State) (f : Flight) (flt : Flt) : State :=
  let s := s.dropFlight f
  if s.current f then
    (s.modUnit f.unit fun x => x.modDisp fun d => d.unmark f.seq f.slot fun _ => true).raiseLate f flt
  else s

/-- LAUNCH at the record's port: the checks, then the record's RW fields, then the group is in the queues. The fault of a LAUNCH whose
controller has stopped since has no one to take it (R134). -/
def State.launchAt (s : State) (f : Flight) (va : BitVec 64) (live : Bool) : State :=
  let p := (f.spans.headD (0, 0)).1
  let b := leNat (rdBytes s.mem p 64)
  let g := groupOfRecord (s.flightCtx f) va p f.unit b f.id
  match s.launchFault (dieOf f.unit) b with
  | some sub => if live then (s.setStatus g 3).portRaise f (prot sub va) else (s.setStatus g 3).dropFlight f
  | none =>
    let s := ((s.setStatus g 0).setGword g 28 0).setGword g 24 0
    let s := (s.setGword g 4 0xFFFFFFFF).dropFlight f
    { s with groups := s.groups ++ [g] }

/-! ## The step at the port -/

/-- Whether a ROOPEN.X of a context's window is on its way from the directory to the window's port (R206). -/
def State.closing (s : State) (c : BitVec 3) (w : BitVec 6) : Bool :=
  s.flights.any fun f => f.open && match f.what with
    | .req (.roclose v true) _ _ => v == w && s.flightCtx f == c
    | _ => false

/-- What a request does at its port; `m` names the object of a BFIN.V, and tells how many entries are merged. -/
def State.portStep (s : State) (f : Flight) (r : Req) (va : BitVec 64) (ds : List Stor) (m : Nat) : State :=
  let p := (f.spans.headD (0, 0)).1
  let c := s.flightCtx f
  let n := r.size
  let old := leNat (rdBytes s.mem p n)
  match r with
  | .atom o t uns x =>
    let q := atomOp o t uns old (x.toNat % 2 ^ (8 * n))
    if t == 2 then ((s.write p (leBytes n q.1)).axr c p q.2).answer f ds [scalarVal (t == 0) n old] q.2 0
    else s.entryStep f m
  | .acas t e x =>
    let s := if old == e.toNat % 2 ^ (8 * n) then s.write p (leBytes n x.toNat) else s
    s.answer f ds [scalarVal (t == 0) n old] 0 0
  | .rsf _ | .rsb _ => s.entryStep f m
  | .binit e => (s.write p (leBytes 8 (e.toNat * 2 ^ 16) ++ List.replicate 24 0)).dropFlight f
  | .bnorm => (s.write p ((bn3Of (rdBytes s.mem p 32)).normalise).bytes).dropFlight f
  | .bfin vec n got fl =>
    match f.spans[m]? with
    | none => s
    | some sp =>
      if got.any fun g => g.1 == m then s
      else
        let q := (bn3Of (rdBytes s.mem sp.1 32)).finish
        let got := (m, BitVec.ofNat 32 q.1) :: got
        let fl := fl ||| q.2
        let s := s.axr c sp.1 q.2
        if got.length < n then s.modFlight f fun g => { g with what := .req (.bfin vec n got fl) va ds }
        else
          let vs := (List.range n).map fun i => match got.find? fun g => g.1 == i with | some g => g.2 | none => 0
          s.answer f ds [if vec then .runs (vs.mapIdx fun i v => ⟨v, 1, i == 0⟩) else .scalar ((vs.headD 0).setWidth 64)]
            fl 0
  | .rso w ident x =>
    match s.win c w with
    | some y =>
      if y.opened && portOf y.place == portOf p then
        let y := { y with queue := y.queue ++ [(p, ident, x)] }
        let s := (s.setWin c w (some y)).dropFlight f
        if y.expect ≤ y.queue.length then s.applyWin c w y else s
      else (s.logFault (s.flightWho f) ((prot 0x13 va).on pAT .wr)).dropFlight f
    | none => (s.logFault (s.flightWho f) ((prot 0x13 va).on pAT .wr)).dropFlight f
  | .roopen w k atPort =>
    if atPort then
      match s.win c w with
      | some y => (s.setWin c w (some { y with opened := true })).answer f ds [.scalar 0] 0 (dirTrip p / 2)
      | none => s.answer f ds [.scalar 0] 0 0
    else if s.closing c w then s
    else if (s.win c w).isSome then s.answer f ds [.scalar 1] 0 (((s.winPlace c w).map dirTrip).headD 0)
    else if 4096 - s.reserved c (portOf p) < k then s.answer f ds [.scalar 2] 0 (dirTrip p)
    else (s.setWin c w (some ⟨p, false, k, []⟩)).modFlight f fun g =>
      { g with due := s.cycle + dirTrip p / 2, what := .req (.roopen w k true) va ds }
  | .roclose w atPort =>
    match s.win c w with
    | none => s.answer f ds [.scalar 3] 0 (if atPort then dirTrip f.place / 2 else 0)
    | some y =>
      if (atPort && !y.opened) || (!atPort && s.closing c w) then s
      else if atPort then
        (s.applyWin c w y).answer f ds [.scalar (BitVec.ofNat 64 y.queue.length)] 0 (dirTrip y.place / 2)
      else s.modFlight f fun g => { g with
        due := s.cycle + dirTrip y.place / 2, spans := [(y.place, 0)], what := .req (.roclose w true) va ds }
  | .push _ | .pop | .steal =>
    let q := dequeStep s.mem p r
    (q.2.2.foldl (fun s x => s.write x.1 (leBytes 8 x.2)) s).answer f ds
      [.scalar (BitVec.ofNat 64 q.1), .scalar (BitVec.ofNat 64 q.2.1)] 0 0
  | .bara =>
    let w := fun (k : Nat) => (rd32 s.mem (p + 4 * k)).toNat
    let bad := (rdBytes s.mem (p + 12) 52).any (· != 0) || w 0 == 0 || w 0 ≤ w 1
    if bad then s.answer f ds [.scalar (BitVec.allOnes 64)] 0 0
    else
      let last := w 1 + 1 == w 0
      let s := s.write (p + 4) (leBytes 4 (if last then 0 else w 1 + 1)
        ++ leBytes 4 (if last then (w 2 + 1) % 2 ^ 32 else w 2))
      s.answer f ds [.scalar (BitVec.ofNat 64 (w 2))] 0 0
  | .claim =>
    let q := claimLease (s.ctx c.toNat).leases (rdBytes s.mem p 64)
    (s.modCtx c.toNat fun x => { x with leases := q.2 }).answer f ds [.scalar (BitVec.ofNat 64 q.1)] 0 0
  | .free l =>
    let i := l.toNat
    let live := i ≤ 63 && (Tab.get none (s.ctx c.toNat).leases i).isSome
    (s.modCtx c.toNat fun x => { x with leases := if live then Tab.set none x.leases i none else x.leases }).answer f ds
      [.scalar (BitVec.ofNat 64 ((if live then 0 else 1) + (if i ≤ 63 then i else 0) * 256))] 0 0
  | .grow k =>
    match f.task.bind s.groupOf with
    | none => s.portRaise f (prot 0x0B k)
    | some g =>
      let s := s.modGroup g fun g => { g with growing := g.growing - 1 }
      let cnt := s.gword g 32
      let s := if 2 ^ 32 ≤ cnt.toNat + k.toNat then s.portRaise f (prot 0x0B k)
        else (s.setGword g 32 (BitVec.ofNat 32 (cnt.toNat + k.toNat))).answer f ds [.scalar (cnt.setWidth 64)] 0 0
      match f.task.bind s.groupOf with
      | some g => s.complete g
      | none => s
  | .launch live => s.launchAt f va live

/-- PORT_SYNC_OPERATION of flight n. -/
def execPortSyncOperation (s : State) : Host.Outcome State Fault Refusal :=
  match s.flights[s.arg.n]? with
  | none => .next s
  | some f =>
    match f.what with
    | .req r va ds =>
      if f.parked then .next s
      else match f.bad with
        | some p => if f.due ≤ s.cycle then .next (s.asyncFault f p.flt) else .next s
        | none =>
          let g := match r with | .bfin _ _ _ _ => { f with spans := (f.spans[s.arg.m]?).toList } | _ => f
          if s.mayPerform g then .next (s.unlessOutranked (s.portStep f r va ds s.arg.m) f.unit) else .next s
    | _ => .next s

/-- A parked request is tried again (R113): if it faults it logs again and stays parked. -/
def State.retryParked (s : State) (f : Flight) : State :=
  match f.what with
  | .req r va _ =>
    match s.reqReach f.unit (s.flightCtx f) false r va with
    | .error e => s.logFault (s.flightWho f) e
    | .ok q => (s.tlbAdd (dieOf f.unit) q.tlb).modFlight f fun g =>
      { g with parked := false, bad := none, spans := q.spans, due := s.cycle + q.latency f.unit }
  | _ => s

/-- Insert a parked request after those parked before it. -/
def insertTurn (f : Flight) (l : List Flight) : List Flight :=
  match l with
  | [] => [f]
  | g :: r => if f.turn < g.turn then f :: g :: r else g :: insertTurn f r

/-- The parked requests of a context on a die are tried again, in the order in which they were parked; those that go on stand in
that order among what is on its way. -/
def State.retryDie (s : State) (d : Nat) (c : BitVec 3) : State :=
  let mine := fun (f : Flight) => f.parked && dieOf f.unit == d && s.flightCtx f == c
  let ps := (s.flights.filter mine).foldl (fun a f => insertTurn f a) []
  ps.foldl State.retryParked { s with flights := s.flights.filter (fun f => !mine f) ++ ps }

/-- A write of PARKREP of a die: at once for the running context, else when the context next runs (R113). -/
def State.parkrep (s : State) (d : Nat) (c : BitVec 3) : State :=
  if s.glob.running == some c then s.retryDie d c
  else if (s.ctx c.toNat).state == 1 then
    s.modCtx c.toNat fun x => { x with retry := if x.retry.contains d then x.retry else x.retry ++ [d] }
  else s

/-- PARKREP of die n with context m. -/
def execParkrep (s : State) : Host.Outcome State Fault Refusal :=
  .next (s.hostReg s.arg.n fun s => s.parkrep s.arg.n (BitVec.ofNat 3 s.arg.m))

/-! ## Waits (R210, R214) -/

/-- A wait at a port: precise checks, then a watch there until it answers. `n` bytes are compared. -/
def State.watch (s : State) (va : BitVec 64) (size off n : Nat) (spaces : Nat → Bool) (cc : BitVec 3) (x : BitVec 64)
    (more : List Flt) : State :=
  match (s.me.slot 6).hold with
  | .done _ => s.issued 1
  | .wait _ => s
  | .none =>
    let q := match s.reach s.u (dieOf s.u) (s.ctxOf s.u) pAT .rd false va size with
      | .error f => .error f
      | .ok q =>
        if !((q.spans.all fun y => spaces (spaceOf y.1)) && onePort q.spans) then .error (portFault va .rd)
        else if va.toNat % size != 0 then .error ((align va size).on pAT .rd)
        else .ok q
    match lowestFault (faultOf q ++ more) with
    | some f => s.raise f
    | none => match q with
      | .error f => s.raise f
      | .ok q => s.grant q false fun s =>
        let p := (q.spans.headD (0, 0)).1
        let w : Watch := ⟨s.ids, s.u, 6, p + off, n, cc, x, false, false, s.cycle + q.latency s.u, 0⟩
        ({ s with watches := s.watches ++ [w], ids := s.ids + 1 } : State).holding (.wait s.ids)

/-- BARW. -/
def execBarw (b p : BitVec 5) (s : State) : Host.Outcome State Fault Refusal :=
  .next (s.watch (s.rs b) 64 8 4 (fun sp => sp == 1 || sp == 2) 6 (s.rs p) (s.barrierFaults (s.rs b)))

/-- WAITM. -/
def execWaitm (v b : BitVec 5) (c : BitVec 3) (o : BitVec 12) (s : State) : Host.Outcome State Fault Refusal :=
  .next (s.watch (s.ea b o) 8 0 8 (fun _ => true) c (s.rs v) [])

/-- Whether an access of the unit to a watched word, on SL or AT and sent before the wait, has still to perform (R120). -/
def State.watchHeld (s : State) (w : Watch) : Bool :=
  s.flights.any fun f => f.unit == w.unit && f.id < w.id && f.open && f.pathClass == pSL
    && granulesMeet f.spans [(w.place, w.bytes)]

/-- A wait reaches its port, behind the unit's own earlier accesses to the word, and the port examines it (R120, R214). -/
def State.armWatch (s : State) (id : Nat) : State :=
  { s with watches := s.watches.map fun w =>
      if w.id == id && !w.armed && !s.watchHeld w then ({ w with armed := true } : Watch).check s.mem s.ids else w }

/-- A unit is thawed: its waits end on memory as it stands now (R215). -/
def State.rewait (s : State) (u : Nat) : State :=
  let s := { s with watches := s.watches.map fun (w : Watch) =>
    if w.unit == u && w.armed then ({ w with met := false } : Watch).check s.mem s.ids else w }
  s.modUnit u fun x => x.modSlot 6 fun sl => match sl.hold with | .done _ => { sl with hold := .none } | _ => sl

/-- Whether every access that the host had sent before number n has performed (R23). -/
def State.hostDone (s : State) (n : Nat) : Bool := !s.flights.any fun f => f.path == pHI && decide (f.id < n)

/-- WAITM_SATISFIED of watch n: the wait ends; on a command stream only after the host's earlier writes
(R23), and not while the unit is frozen (R215). -/
def execWaitmSatisfied (s : State) : Host.Outcome State Fault Refusal :=
  match s.watches[s.arg.n]? with
  | none => .next s
  | some w =>
    let x := s.unit w.unit
    if !w.met || x.frozen || s.cycle < w.due || (x.stream && !s.hostDone w.sent) then .next s
    else
      let s := { s with watches := s.watches.eraseIdx s.arg.n }
      if (x.slot w.slot).hold == .wait w.id then
        .next (s.modUnit w.unit fun y => y.modSlot w.slot fun sl => { sl with hold := .done 0 })
      else .next s

/-! ## Operations of controllers (R216 to R218) -/

/-- A freed entry takes the oldest held fault event; where there is none, the oldest group completion that waits (R30). -/
def Unit.refill (x : Unit) : Unit :=
  match x.held, x.owed with
  | e :: r, _ => if x.events.length < 256 then { x with events := x.events ++ [e], held := r } else x
  | [], e :: r => if x.events.length < 256 then { x with events := x.events ++ [e], owed := r } else x
  | [], [] => x

/-- Take the oldest event. -/
def State.popEvent (s : State) (d e : BitVec 5) (wait : Bool) : State :=
  let out := fun (s : State) (a b : BitVec 64) =>
    (s.result 2 [(.s (s.ps d), .scalar a), (.s (s.ps e), .scalar b)] 0).issued 1
  match s.me.events with
  | v :: r => out (s.modUnit s.u fun x => { x with events := r }.refill) v.w0 v.w1
  | [] => if wait then s else out s 0 0

/-- EVPOP. -/
def execEvpop (d e : BitVec 5) (s : State) : Host.Outcome State Fault Refusal := .next (s.popEvent d e true)

/-- EVPOP.NB. -/
def execEvpopNb (d e : BitVec 5) (s : State) : Host.Outcome State Fault Refusal := .next (s.popEvent d e false)

/-- LAUNCH: a release (R129); the record must lie in a vault, aligned; the rest happens at its port. -/
def execLaunch (b : BitVec 5) (s : State) : Host.Outcome State Fault Refusal :=
  let va := s.rs b
  if va.toNat / 2 ^ 60 != 1 then .next (s.raise ((prot 4 va).on pAT .rd))
  else if s.flights.any (s.fenced s.u s.cur.op.seq 3 [pSL, pAT]) then .next s
  else .next (s.ask (.launch true) va [] [])

/-- NOTIFY: a release at SYSTEM scope, then the message (R131, R218). DESIGN CHOICE (log entry 133): the message is sent whatever
links have failed, because R13 does not say whether a message is an access. -/
def execNotify (v : BitVec 11) (s : State) : Host.Outcome State Fault Refusal :=
  if s.flights.any (s.fenced s.u s.cur.op.seq 4 [pSL, pAT, pAC])
      || s.xfers.any (fun x => x.unit == s.u && decide (x.seq < s.cur.op.seq) && s.xferOpen x) then .next s
  else .next ((s.sendVector v.toNat).issued 1)

end Sys2Proof.Machine
end

