-- ==== Sys2Proof/Machine/Collective.lean ====
section
/-!
DEFINITION. The collective engine and the Yenath switch (R331 to R355): calls, the packets they send and receive, reductions
in the switch, agreement rounds, pause and resume.
-/

namespace Sys2Proof.Machine

/-! ## Issue (R335, R336) -/

/-- Whether a CHDEF of an entry is in flight. -/
def State.defining (s : State) (c : BitVec 3) (ch : BitVec 6) : Bool :=
  s.flights.any fun f => s.flightCtx f == c && match f.what with | .chdef k _ _ => k == ch | _ => false

/-- CHDEF: it waits in tx while its entry has a call in flight; the entry is written when the descriptor has been read, which waits for
its tile (R100) and is counted against the engine's budget (R368). -/
def execChdef (ch : BitVec 6) (b d : BitVec 5) (s : State) : Host.Outcome State Fault Refusal :=
  let c := s.ctxOf s.u
  let die := dieOf s.u
  if s.inFlight c ch || s.defining c ch || (s.die die).frozenColl then .next s
  else
    let va := s.rs b
    let q : Except Flt Reach := match s.reach s.u die c pCO .rd false va 32 with
      | .error f => .error f
      | .ok q => if va.toNat % 32 != 0 then .error ((align va 32).on pCO .rd) else .ok q
    let go := fun (s : State) (sp : List (Nat × Nat)) (lat : Nat) (started : Bool) =>
      (s.fly (s.flight pCO (s.cycle + lat) true false sp (.chdef ch (s.ps d) started))).issued 1
    match q with
    | .ok q =>
      let s := s.tlbAdd die q.tlb
      if s.allFull (tilesOfSpans q.spans) then
        .next (s.coAdmit die (s.whoCur true) q.spans none fun s => go s q.spans (spanLatency s.u q.spans) true)
      else .next (go s q.spans 1 false)
    | .error f =>
      .next ((s.fly { s.flight pCO (s.cycle + 1) true false [] (.chdef ch (s.ps d) true) with
        bad := some ⟨s.cur.op.seq, s.cur.op.addr, s.cur.slot, f.code, f.sub, f.info0, f.info1, f.info2, f.info3, f.xinfo,
          f.path, f.kind, 0, false⟩ }).issued 1)

/-- Why a call is refused at issue (R336): its count, then its entry; the lowest subcode is reported. -/
def State.callRefused (s : State) (ch : BitVec 6) (count : Nat) (countOk usable : Chan → Bool) : Option Flt :=
  let x := s.myChan ch
  let info := BitVec.ofNat 64 (ch.toNat + count % 2 ^ 32 * 2 ^ 32)
  lowestFault ((if countOk x then [] else [prot 0x10 info])
    ++ (if x.defd && x.die == dieOf s.u && usable x then [] else [prot 0x18 info])
    ++ (if x.stale then [prot 0x19 info] else []))

/-- A call takes its sequence number and is in flight; on an aborted entry it completes at once with status 0x02 (R345). A
sequence number goes to Sd at t + 2, a result at completion (R332, R333). -/
def State.openCall (s : State) (ch : BitVec 6) (recv : Bool) (d : Option (BitVec 5)) (f : Call → Call)
    (go : Call → State → State) : State :=
  let c := s.ctxOf s.u
  let x := s.chan c.toNat ch
  let seq := if recv then x.rseq else x.sseq
  let s := s.modChan c.toNat ch fun x => if recv then { x with rseq := x.rseq + 1 } else { x with sseq := x.sseq + 1 }
  let k := f { id := s.ids, ctx := c, ch := ch, die := dieOf s.u, unit := s.u, bun := s.cur.op.seq, addr := s.cur.op.addr,
               task := s.me.task, sup := s.me.spr.sup, kind := 0, seq := seq, sig := 0, post := false, dst := none,
               base := 0, n := 0, next := 0, tiles := [], own := [],
               behind := x.paused || (s.die (dieOf s.u)).frozenColl, notices := [], counts := [], rcv := [], got := [], ahead := [], cap := [],
               flg := 0, status := 0, value := 0, count := 0, fin := false, refused := false }
  let k := { k with dst := if k.bears then d.map s.ps else none }
  let s : State := { s with calls := s.calls ++ [k], ids := s.ids + 1 }
  let s := if x.aborted then s.endCall k.id 2 0 0 0 else go k s
  let s := match d with
    | some d => if k.bears then s else s.result 2 [(.s (s.ps d), .scalar (seq.setWidth 64))] 0
    | none => s
  s.issued 1

/-- Issue a call: it waits while a CHDEF of its entry is in flight, then it is checked. -/
def State.issueCall (s : State) (ch : BitVec 6) (bad : Option Flt) (k : State → State) : State :=
  if s.defining (s.ctxOf s.u) ch then s
  else match bad with
    | some f => s.raise f
    | none => k s

/-- Tiles of the own scratchpad that a call names: the reach of a range, 4,096-aligned and the issuing core's. -/
def State.callReach (s : State) (k : Call) (a : Acc) (va : BitVec 64) (n : Nat) : Except Flt Reach :=
  match s.reach k.unit k.die k.ctx pCO a false va n with
  | .error f => .error f
  | .ok q =>
    if !(q.spans.all fun p => spaceOf p.1 == 2 && p.1 % 2 ^ 64 / 2 ^ 23 == k.unit) then .error ((prot 4 va).on pCO a)
    else if va.toNat % 4096 != 0 then .error ((align va 4096).on pCO a)
    else .ok q

/-! ## The engine's accesses (R367, R368) -/

/-- A call sends its next packet. -/
def State.callSend (s : State) (k : Call) (q : Reach) (p : Packet) : State :=
  s.coAdmit k.die k.who q.spans (some (4 * p.words.length)) fun s =>
    ((s.tlbAdd k.die q.tlb).send p).modCall k.id fun k => { k with next := k.next + 1 }

/-- Whether an access of a call must wait: for an earlier one of its core on path CO to its granules (R120), or for a matrix read of its
banks (R269). -/
def State.callHeld (s : State) (k : Call) (wr : Bool) (sp : List (Nat × Nat)) : Bool :=
  s.coHeld k.unit k.id wr sp || (s.mxReading && sp.any s.bankBusy)

/-- A call reads bytes and goes on with them; where a matrix read occupies their banks, it reads the others and waits (R120, R269). -/
def State.callRead (s : State) (k : Call) (sp : List (Nat × Nat)) (go : List Byte → State) : State :=
  if s.coHeld k.unit k.id false sp then s
  else if s.banksHold k.ahead sp then s.modCall k.id fun y => { y with ahead := s.readFree y.ahead sp }
  else go (loadBytes s.mem k.ahead sp)

/-- What a call writes by itself sets out, on path CO. -/
def State.coWrite (s : State) (k : Call) (sp : List (Nat × Nat)) (bs : List Byte) (tiles : List (Nat × Nat)) : State :=
  { s with flights := s.flights ++ [(⟨s.ids, k.unit, k.bun, k.addr, 7, pCO, s.cycle, s.cycle, false, true, sp, k.task, k.sup, none,
      false, 0, .coStore k.id bs tiles⟩ : Flight)], ids := s.ids + 1 }

/-- Whether such a write of a call has still to perform. -/
def State.coWriting (s : State) (id : Nat) : Bool := s.flights.any fun f => match f.what with | .coStore c _ _ => c == id | _ => false

/-! ## Receiving tiles (R337, R339, R342) -/

/-- The ranks whose contributions a receiving entry awaits (R337). -/
def Chan.senders (x : Chan) (e : BitVec 128) : List Nat :=
  if x.peer == 0xFFF then (List.range (bindN e)).filter (· != bindRank e) else [x.peer]

/-- The words of FP32 codes squared and summed exactly (R86, R342). -/
def sumSquares (ws : List Word) : Res :=
  let xs := ws.map fun w => decodeF fp32 w.toNat
  roundSum fp32 0 0 (xs.filterMap fun x => match x with | .nan .. => some x | y => mulV y y)

/-- The signature of a norm partial on the linked channel (R343). -/
def State.normSig (s : State) (k : Call) : Word :=
  let l := s.chan k.ctx.toNat (BitVec.ofNat 6 (s.chan k.ctx.toNat k.ch).link)
  signature 4 l.rop l.fmt (bindN (s.bindOf k.ctx l))

/-- A norm's partials are all in and its own has been sent to every other member: the exact sum of them in rank order, rounded
once (R342). -/
def State.finishNorm (s : State) (id : Nat) : State :=
  match s.call? id with
  | none => s
  | some k =>
    let x := s.chan k.ctx.toNat k.ch
    let n := bindN (s.bindOf k.ctx x)
    let sent := (k.n + 1) * (x.senders (s.bindOf k.ctx x)).length ≤ k.next
    if k.fin || k.got.length < n || k.tiles.any (·.2 != 0) || !sent then s
    else
      let xs := (List.range n).filterMap fun r => (k.got.find? (·.1 == r)).map fun g => decodeF fp32 (g.2.toNat % 2 ^ 32)
      let r := roundSum fp32 0 0 xs
      s.endCall id 1 (BitVec.ofNat 32 r.1) n r.2

/-- A receiving call whose tiles may all be full completes, or forms its partial (R339, R342). -/
def State.finishTiles (s : State) (id : Nat) : State :=
  match s.call? id with
  | none => s
  | some k =>
    if k.fin || k.tiles.any (·.2 != 0) then s
    else if k.kind == 2 then s.endCall id 1 0 0 0
    else
      let p := sumSquares k.cap
      let own := bindRank (s.bindOf k.ctx (s.chan k.ctx.toNat k.ch))
      (s.modCall id fun k => { k with got := (own, BitVec.ofNat 64 p.1) :: k.got, flg := k.flg ||| p.2 }).finishNorm id

/-- A tile of a receiving call is full: its bit is set, as a release, and a norm takes its words. -/
def State.fillTile (s : State) (k : Call) (i : Nat) : State :=
  match k.tiles[i]? with
  | none => s
  | some t =>
    let w := (s.chan k.ctx.toNat k.ch).len / 4
    let ws := (leWords 4 (rdBytes s.mem t.1 (4 * w))).map (BitVec.ofNat 32)
    ((s.setTile (tileOf t.1) true).modCall k.id fun k =>
      { k with cap := if k.kind == 7 then k.cap.take (i * w) ++ ws ++ k.cap.drop (i * w + w) else k.cap }).modChan
        k.ctx.toNat k.ch fun x => { x with armed := x.armed - 1 }

/-- CRECV and CNRM arm their tiles (R337). -/
def State.arm (s : State) (k : Call) : State :=
  match s.callReach k .wr k.base (4096 * k.n) with
  | .error f => s.callFault k.id f
  | .ok q =>
    let x := s.chan k.ctx.toNat k.ch
    let words := (x.senders (s.bindOf k.ctx x)).length * (x.len / 4)
    let p := (q.spans.headD (0, 0)).1
    let ts := (List.range k.n).map fun i => (p + 4096 * i, words)
    let s := (s.setTiles (tilesOfSpans q.spans) false).modCall k.id fun k =>
      { k with tiles := ts, cap := if k.kind == 7 then List.replicate (k.n * (x.len / 4)) 0 else [] }
    let s := s.modChan k.ctx.toNat k.ch fun x => { x with armed := x.armed + k.n }
    if words == 0 then
      ((List.range k.n).foldl (fun s i => s.fillTile { k with tiles := ts } i) s).finishTiles k.id
    else s

/-- Issue of CRECV and CNRM. -/
def State.receive (s : State) (ch : BitVec 6) (a n d : BitVec 5) (q : BitVec 1) (kind : Nat) (usable : Chan → Bool) : State :=
  let k := (s.rs n).toNat
  let depth := fun (x : Chan) => if x.defd && x.die == dieOf s.u && usable x then x.depth else 32
  s.issueCall ch (s.callRefused ch k (fun x => 1 ≤ k && k ≤ depth x) usable) fun s =>
    let x := s.myChan ch
    if !x.aborted && x.depth < x.armed + k then s
    else s.openCall ch true (some d)
      (fun c => { c with kind := kind, n := k, base := s.rs a, post := bit1 q, sig := signature 1 x.rop x.fmt k })
      fun c s => s.arm c

/-- CRECV. -/
def execCrecv (ch : BitVec 6) (a n d : BitVec 5) (q : BitVec 1) (s : State) : Host.Outcome State Fault Refusal :=
  .next (s.receive ch a n d q 2 fun x => x.kind == 1)

/-- CNRM. -/
def execCnrm (ch : BitVec 6) (a n d : BitVec 5) (q : BitVec 1) (s : State) : Host.Outcome State Fault Refusal :=
  .next (s.receive ch a n d q 7 fun x =>
    let l := s.chan (s.ctxOf s.u).toNat (BitVec.ofNat 6 x.link)
    x.kind == 1 && x.peer == 0xFFF && x.fmt == 0 && x.rop == 1 && l.defd && l.kind == 2 && l.handle == x.handle)

/-- A word after an arrival (R339); flags arise in SUM, and from a signalling NaN in MAX and MIN of fp32 (R76, R77). -/
def arrive (rop fmt : Nat) (old x : Word) : Word × Flags :=
  match rop with
  | 1 => let r := addF 0 0 (decodeF fp32 old.toNat) (decodeF fp32 x.toNat); (BitVec.ofNat 32 r.1, r.2)
  | 2 => (old + x, 0)
  | 3 | 4 =>
    if fmt == 5 then (if (if rop == 3 then old.slt x else x.slt old) then x else old, 0)
    else let r := minmaxF (rop == 3) (decodeF fp32 old.toNat) (decodeF fp32 x.toNat); (BitVec.ofNat 32 (bits32 r.1), r.2)
  | _ => (x, 0)

/-- Words arrive from a place up. -/
def State.arriveWords (s : State) (rop fmt p : Nat) (ws : List Word) (fl : Flags) : State × Flags :=
  match ws with
  | [] => (s, fl)
  | w :: r =>
    let q := arrive rop fmt (rd32 s.mem p) w
    (s.write p (leBytes 4 q.1.toNat)).arriveWords rop fmt (p + 4) r (fl ||| q.2)

/-- The bytes of a tile that a packet's words change. -/
def State.tileSpan (s : State) (k : Call) (p : Packet) : List (Nat × Nat) :=
  match k.tiles[p.tile]? with
  | none => []
  | some t => [(t.1 + 4 * p.off, 4 * (p.words.take (min t.2 ((s.chan k.ctx.toNat k.ch).len / 4 - p.off))).length)]

/-- A tile's packet is applied to its call (R339): words beyond LEN are neither written nor counted (R337). -/
def State.applyTile (s : State) (k : Call) (p : Packet) : State :=
  let x := s.chan k.ctx.toNat k.ch
  match k.tiles[p.tile]? with
  | none => s
  | some t =>
    let ws := p.words.take (min t.2 (x.len / 4 - p.off))
    let r := s.arriveWords x.rop x.fmt (t.1 + 4 * p.off) ws 0
    let left := t.2 - ws.length
    let s := r.1.modCall k.id fun k => { k with tiles := k.tiles.set p.tile (t.1, left), flg := k.flg ||| r.2 }
    if left == 0 && t.2 != 0 then (s.fillTile k p.tile).finishTiles k.id else s

/-! ## Sending tiles (R338) -/

/-- CSEND. -/
def execCsend (ch : BitVec 6) (a n d : BitVec 5) (q : BitVec 1) (s : State) : Host.Outcome State Fault Refusal :=
  let k := (s.rs n).toNat
  .next (s.issueCall ch (s.callRefused ch k (fun _ => 1 ≤ k && k ≤ 32) fun x => x.kind == 0) fun s =>
    let x := s.myChan ch
    s.openCall ch false (some d)
      (fun c => { c with kind := 1, n := k, base := s.rs a, post := bit1 q, sig := signature 1 x.rop x.fmt k })
      fun _ s => s)

/-- The next 64-byte packet of a CSEND: its tile armed at the receiver and full here. -/
def State.sendTile (s : State) (k : Call) : State :=
  let x := s.chan k.ctx.toNat k.ch
  let per := x.len / 64
  let i := k.next / per
  let j := k.next % per
  if k.n ≤ i then s
  else match k.notices.find? fun t => t.1 == i with
    | none => s
    | some t =>
      let va := k.base + BitVec.ofNat 64 (4096 * i)
      match s.callReach k .rd va x.len with
      | .error f => s.callFault k.id f
      | .ok q =>
        if !s.allFull (tilesOfSpans q.spans) then s
        else
          let sp := [((q.spans.headD (0, 0)).1 + 64 * j, 64)]
          s.callRead k sp fun bs => s.callSend k ⟨sp, q.tlb⟩ (s.packetTo k (s.bindOf k.ctx x) x.peer pkTile i (16 * j) t.2.2.1
            ((leWords 4 bs).map (BitVec.ofNat 32)))

/-! ## All-to-all (R340, R341) -/

/-- The fault that the header of a record shows once it is read: not well formed, NR unlike N, a buffer not aligned (R340). -/
def a2aBad (bs : List Byte) (va : BitVec 64) (n : Nat) (buffers : Bool) : Option Flt :=
  let h := leNat (bs.take 64)
  let buf := fun (k : Nat) => BitVec.ofNat 64 (h / 2 ^ k)
  lowestFault ((if h / 2 ^ 160 != 0 || h / 2 ^ 128 % 2 ^ 32 != n then [(prot 6 va).on pCO .rd] else [])
    ++ if buffers then [buf 0, buf 64].filterMap fun b => if b.toNat % 64 != 0 then some ((align b 64).on pCO .rd) else none
       else [])

/-- A call clears the bits of tiles at its issue (R100). -/
def State.clearOwn (s : State) (id : Nat) (ts : List Nat) : State :=
  let s := s.setTiles ts false
  s.modCall id fun k => { k with own := ts.map fun t => (t, (s.tile t).2) }

/-- Entry j of one of a record's three arrays. -/
def a2aWord (bs : List Byte) (n arr j : Nat) : Word := BitVec.ofNat 32 (leNat ((bs.drop (64 + 4 * (n * arr + j))).take 4))

/-- The sum of counts. -/
def sumWords (ws : List Word) : Nat := ws.foldl (fun a w => a + w.toNat) 0

/-- CA2AC: the tiles of RC and RP are emptied at issue (R100); their addresses are checked when they are written. -/
def execCa2ac (ch : BitVec 6) (a d : BitVec 5) (q : BitVec 1) (s : State) : Host.Outcome State Fault Refusal :=
  .next (s.issueCall ch (s.callRefused ch 0 (fun _ => true) Chan.a2aOk) fun s =>
    let x := s.myChan ch
    let n := bindN (s.bindOf (s.ctxOf s.u) x)
    s.openCall ch false (some d)
      (fun c => { c with kind := 3, n := n, base := s.rs a, post := bit1 q, sig := signature 2 x.rop x.fmt n })
      fun k s => match s.reach k.unit k.die k.ctx pCO .wr false (k.base + BitVec.ofNat 64 (64 + 4 * n)) (8 * n) with
        | .ok w => s.clearOwn k.id (tilesOfSpans w.spans)
        | .error _ => s)

/-- The counts are all in: RC and RP are written, and when they have been the result is Σ RC. -/
def State.finishCounts (s : State) (id : Nat) : State :=
  match s.call? id with
  | none => s
  | some k =>
    if k.fin || k.next ≤ k.n || k.got.length < k.n || s.coWriting id then s
    else
      let rc := (List.range k.n).map fun r => match k.got.find? (·.1 == r) with | some g => g.2.toNat % 2 ^ 32 | none => 0
      let sum := rc.foldl (· + ·) 0
      if 2 ^ 32 ≤ sum then s.endCall id 6 0 0 0
      else
        let rp := (List.range k.n).map fun r => (rc.take r).foldl (· + ·) 0
        match s.reach k.unit k.die k.ctx pCO .wr false (k.base + BitVec.ofNat 64 (64 + 4 * k.n)) (8 * k.n) with
        | .error f => s.callFault id f
        | .ok q => s.coAdmit k.die k.who q.spans none fun s =>
          s.coWrite k q.spans ((rc ++ rp).map (leBytes 4)).flatten ((tilesOfSpans q.spans).map fun t => (t, 0))

/-- A CA2AC goes on: the record is read, then each rank gets its count, the own one at once. -/
def State.sendCount (s : State) (k : Call) : State :=
  let x := s.chan k.ctx.toNat k.ch
  let e := s.bindOf k.ctx x
  if k.next == 0 then
    match s.a2aReach k.unit k.die k.ctx k.base k.n with
    | .error f => s.callFault k.id f
    | .ok q =>
      if !s.callReady k.own q.spans then s
      else s.callRead k q.spans fun bs => s.coAdmit k.die k.who q.spans none fun s => match a2aBad bs k.base k.n false with
        | some f => s.callFault k.id f
        | none => s.modCall k.id fun k => { k with next := 1, counts := (List.range k.n).map (a2aWord bs k.n 0) }
  else if k.next ≤ k.n then
    let r := k.next - 1
    let w := k.counts.getD r 0
    if r == bindRank e then
      (s.modCall k.id fun k => { k with next := k.next + 1, got := (r, w.setWidth 64) :: k.got }).finishCounts k.id
    else (s.callSend k ⟨[], []⟩ (s.packetTo k e r pkCount 0 0 0 [w])).finishCounts k.id
  else s.finishCounts k.id

/-- Words that counts from rank 0 on place into each scratchpad tile of a range. -/
def tileWords (sp : List (Nat × Nat)) : List (Nat × Nat) :=
  (tilesOfSpans sp).map fun t =>
    (t, (sp.map fun p =>
      let lo := max (p.1 % 2 ^ 64) (4096 * t)
      let hi := min (p.1 % 2 ^ 64 + p.2) (4096 * t + 4096)
      (hi - lo) / 4).foldl (· + ·) 0)

/-- The words that an all-to-all places into each scratchpad tile, over the parts of its receive buffer. -/
def placeWords (ts : List (Nat × Nat)) : List (Nat × Nat) :=
  ts.foldl (fun a t => if a.any (·.1 == t.1) then a.map fun x => if x.1 == t.1 then (x.1, x.2 + t.2) else x else a ++ [t]) []

/-- CA2AP: it waits in tx until it can read the record, within the engine's budget (R368), then clears the tiles of its receive buffer; the record's counts, RP and
buffers are those of its issue (R341). A tile in which the counts place no word has all of them. -/
def execCa2ap (ch : BitVec 6) (a d : BitVec 5) (q : BitVec 1) (s : State) : Host.Outcome State Fault Refusal :=
  .next (s.issueCall ch (s.callRefused ch 0 (fun _ => true) Chan.a2aOk) fun s =>
    let x := s.myChan ch
    let c := s.ctxOf s.u
    let n := bindN (s.bindOf c x)
    let fill := fun (k : Call) => { k with kind := 4, base := s.rs a, post := bit1 q, sig := signature 3 x.rop x.fmt 0 }
    match s.a2aReach s.u (dieOf s.u) c (s.rs a) n with
    | .error f => s.openCall ch false (some d) fill fun k s => s.callFault k.id f
    | .ok r =>
      let bs := rdSpans (s.mxMem s.u) r.spans
      let waits := !s.allFull (tilesOfSpans r.spans) || s.coHeld s.u s.ids false r.spans || s.banksHold [] r.spans
        || (s.die (dieOf s.u)).frozenColl
      let admitted := fun (k : State → State) => if x.aborted then k s else s.coAdmit (dieOf s.u) (s.whoCur true) r.spans none k
      if !x.aborted && waits then s
      else admitted fun s =>
        let rc := (List.range n).map (a2aWord bs n 1)
        let rp := (List.range n).map (a2aWord bs n 2)
        let total := sumWords rc
        let sbuf := BitVec.ofNat 64 (leNat bs)
        let rbuf := BitVec.ofNat 64 (leNat bs / 2 ^ 64)
        s.openCall ch false (some d)
          (fun k => { fill k with n := total, counts := (List.range n).map (a2aWord bs n 0), rcv := rc, cap := rp,
                                  got := [(0, sbuf), (1, rbuf)] })
          fun k s => match a2aBad bs k.base n true with
            | some f => s.callFault k.id f
            | none =>
              if total == 0 then s
              else match s.reach k.unit k.die k.ctx pCO .wr false rbuf (4 * total) with
                | .error f => s.callFault k.id f
                | .ok q =>
                  let parts := (rc.zip rp).map fun p =>
                    match s.reach k.unit k.die k.ctx pCO .wr false (rbuf + BitVec.ofNat 64 (4 * p.2.toNat)) (4 * p.1.toNat) with
                    | .ok w => tileWords w.spans
                    | .error _ => []
                  let ts := placeWords (((tilesOfSpans q.spans).map fun t => (t, 0)) ++ parts.flatten)
                  ((s.clearOwn k.id (tilesOfSpans q.spans)).modCall k.id fun k => { k with tiles := ts }).setTiles
                    ((ts.filter (·.2 == 0)).map (·.1)) true)

/-- Words of an all-to-all's payload are written; a tile that has all its words is set full, as a release. -/
def State.payWords (s : State) (k : Call) (q : Reach) (ws : List Word) : State :=
  let s := s.writeSpans q.spans (ws.map fun w => leBytes 4 w.toNat).flatten
  let hit := tileWords q.spans
  let after := k.tiles.map fun t => match hit.find? (·.1 == t.1) with | some h => (t.1, t.2 - h.2) | none => t
  let full := (k.tiles.zip after).filterMap fun p => if p.1.2 != 0 && p.2.2 == 0 then some p.1.1 else none
  (s.setTiles full true).modCall k.id fun k => { k with tiles := after, n := k.n - ws.length }

/-- Whether a call has packets that no port has accepted. -/
def State.packetsOut (s : State) (id : Nat) : Bool := s.fabric.any fun p => p.call == id && (p.kind == pkTile || p.kind == pkPay)

/-- Whether a CA2AP has sent all: its arm notices, its own share, every rank's words. -/
def State.a2aSent (s : State) (k : Call) : Bool :=
  let e := s.bindOf k.ctx (s.chan k.ctx.toNat k.ch)
  k.counts.length < k.next && (List.range k.counts.length).all fun r =>
    r == bindRank e || k.notices.any fun t => t.1 == r && ceilDiv (k.counts.getD r 0).toNat 16 ≤ t.2.2.2

/-- A CA2AP completes when its sends are accepted, none refused as a mismatch, and its receives are in. -/
def State.finishPay (s : State) (id : Nat) : State :=
  match s.call? id with
  | none => s
  | some k => if k.kind == 4 && !k.fin && !k.refused && k.n == 0 && s.a2aSent k && !s.packetsOut id then s.endCall id 1 0 0 0 else s

/-- A CA2AP goes on: an arm notice for each rank, the own share, then the words of a rank whose notice has come. -/
def State.sendPay (s : State) (k : Call) : State :=
  let x := s.chan k.ctx.toNat k.ch
  let e := s.bindOf k.ctx x
  let n := k.counts.length
  let own := bindRank e
  let buf := fun (i : Nat) => match k.got.find? (·.1 == i) with | some g => g.2 | none => 0
  let src := fun (r w : Nat) => buf 0 + BitVec.ofNat 64 (4 * (sumWords (k.counts.take r) + w))
  let dst := fun (r : Nat) => buf 1 + BitVec.ofNat 64 (4 * (k.cap.getD r 0).toNat)
  if k.next < n then
    if k.next == own then s.modCall k.id fun k => { k with next := k.next + 1 }
    else s.callSend k ⟨[], []⟩ { s.packetTo k e k.next pkArm k.next 0 (dst k.next) [k.rcv.getD k.next 0] with
      sig := signature 3 x.rop x.fmt (k.rcv.getD k.next 0).toNat }
  else if k.next == n then
    let w := min (k.counts.getD own 0).toNat (k.rcv.getD own 0).toNat
    if w == 0 then (s.modCall k.id fun k => { k with next := n + 1 }).finishPay k.id
    else
      let rd := s.reach k.unit k.die k.ctx pCO .rd false (src own 0) (4 * w)
      let wr := s.reach k.unit k.die k.ctx pCO .wr false (dst own) (4 * w)
      match lowestFault (faultOf rd ++ faultOf wr), rd, wr with
      | some f, _, _ => s.callFault k.id f
      | none, .ok p, .ok q =>
        if !s.callReady k.own p.spans || s.coWriting k.id then s
        else s.callRead k p.spans fun bs => s.coAdmit k.die k.who (p.spans ++ q.spans) none fun s =>
          (s.coWrite k q.spans bs (tileWords q.spans)).modCall k.id fun k => { k with value := BitVec.ofNat 32 w }
      | none, _, _ => s
  else match k.notices.find? fun t => 16 * t.2.2.2 < (k.counts.getD t.1 0).toNat with
    | none => s.finishPay k.id
    | some t =>
      let off := 16 * t.2.2.2
      let w := min 16 ((k.counts.getD t.1 0).toNat - off)
      match s.reach k.unit k.die k.ctx pCO .rd false (src t.1 off) (4 * w) with
      | .error f => s.callFault k.id f
      | .ok q =>
        if !s.callReady k.own q.spans then s
        else s.callRead k q.spans fun bs => s.coAdmit k.die k.who q.spans (some (4 * w)) fun s =>
          ((s.tlbAdd k.die q.tlb).send { s.packetTo k e t.1 pkPay t.1 off t.2.2.1 ((leWords 4 bs).map (BitVec.ofNat 32)) with
            sig := signature 3 x.rop x.fmt (k.counts.getD t.1 0).toNat }).modCall k.id fun k =>
              { k with notices := k.notices.map fun y => if y.1 == t.1 then (y.1, y.2.1, y.2.2.1, y.2.2.2 + 1) else y }

/-! ## Digests (R347) -/

/-- CDIG. -/
def execCdig (ch : BitVec 6) (a n : BitVec 5) (q : BitVec 1) (s : State) : Host.Outcome State Fault Refusal :=
  let k := (s.rs n).toNat
  .next (s.issueCall ch (s.callRefused ch k (fun _ => 8 ≤ k && k ≤ 2 ^ 24 && k % 8 == 0) fun x => x.kind == 2) fun s =>
    let x := s.myChan ch
    s.openCall ch false none
      (fun c => { c with kind := 6, n := k, base := s.rs a, post := bit1 q, sig := signature 6 x.rop x.fmt 0 })
      fun _ s => s)

/-- The digests are all in and its own has gone to every member: equal, or the first that differs from the own one in rank order is logged. -/
def State.finishDigest (s : State) (id : Nat) : State :=
  match s.call? id with
  | none => s
  | some k =>
    let e := s.bindOf k.ctx (s.chan k.ctx.toNat k.ch)
    let n := bindN e
    let at' := fun (r : Nat) => match k.got.find? (·.1 == r) with | some g => g.2 | none => 0
    if k.fin || k.got.length < n || k.next ≤ n then s
    else match (List.range n).find? fun r => at' r != at' (bindRank e) with
      | none => s.endCall id 1 0 0 0
      | some r =>
        (s.logFault k.who { Flt.of 0x2B 0 (at' (bindRank e)) with info1 := at' r, info2 := BitVec.ofNat 64 r }).endCall id 7 0
          0 0

/-- A CDIG goes on: the range is read once its tiles are full, then each member gets the digest. -/
def State.sendDigest (s : State) (k : Call) : State :=
  let x := s.chan k.ctx.toNat k.ch
  let e := s.bindOf k.ctx x
  let own := bindRank e
  if k.next == 0 then
    match s.reach k.unit k.die k.ctx pCO .rd false k.base k.n with
    | .error f => s.callFault k.id f
    | .ok q =>
      if !s.allFull (tilesOfSpans q.spans) then s
      else s.callRead k q.spans fun bs => s.coAdmit k.die k.who q.spans none fun s => (s.modCall k.id fun k =>
        { k with next := 1, got := (own, crc64 bs) :: k.got }).finishDigest k.id
  else if k.next ≤ bindN e then
    let r := k.next - 1
    let d : BitVec 64 := match k.got.find? (·.1 == own) with | some g => g.2 | none => 0
    (if r == own then s.modCall k.id fun k => { k with next := k.next + 1 }
      else s.callSend k ⟨[], []⟩ (s.packetTo k e r pkDig 0 0 0 [d.setWidth 32, (d >>> 32).setWidth 32])).finishDigest k.id
  else s.finishDigest k.id

/-! ## Contributions to the switch (R348, R350) -/

/-- CSWR. -/
def execCswr (ch : BitVec 6) (v d : BitVec 5) (o : BitVec 3) (q : BitVec 1) (s : State) :
    Host.Outcome State Fault Refusal :=
  .next (s.issueCall ch (s.callRefused ch 0 (fun _ => true) fun x => x.kind == 2 && x.fmt == 0) fun s =>
    let x := s.myChan ch
    s.openCall ch false (some d)
      (fun c => { c with kind := 5, cap := [(s.rs v).setWidth 32], post := bit1 q, sig := signature 5 o.toNat x.fmt 0 })
      fun _ s => s)

/-- GAGREE: a GROUP channel of a versioned handle. -/
def execGagree (ch : BitVec 6) (v d : BitVec 5) (q : BitVec 1) (s : State) : Host.Outcome State Fault Refusal :=
  let c := s.ctxOf s.u
  .next (s.issueCall ch (s.callRefused ch 0 (fun _ => true) fun x => x.kind == 2 && (s.bindOf c x).getLsbD 62) fun s =>
    s.openCall ch false (some d)
      (fun c => { c with kind := 8, cap := [(s.rs v).setWidth 32 &&& 1], post := bit1 q })
      fun _ s => s)

/-! ## Calls go on -/

/-- Whether a call stands still: its entry is paused or its engine frozen, unless it is a result-bearing call issued before
that (R351, R352). -/
def State.callPaused (s : State) (k : Call) : Bool :=
  (!k.bears || k.behind) && ((s.chan k.ctx.toNat k.ch).paused || (s.die k.die).frozenColl)

/-- Whether a call may not send. -/
def State.callStopped (s : State) (k : Call) : Bool := k.fin || s.callPaused k || s.glob.running != some k.ctx

/-- A receiving call goes on: arm notices to its senders, then, for a norm, its partial to the other members. -/
def State.sendNotice (s : State) (k : Call) : State :=
  let x := s.chan k.ctx.toNat k.ch
  let e := s.bindOf k.ctx x
  let dsts := x.senders e
  let m := k.n * dsts.length
  if k.next < m then
    let i := k.next / dsts.length
    s.callSend k ⟨[], []⟩
      (s.packetTo k e (dsts.getD (k.next % dsts.length) 0) pkArm i 0 (k.base + BitVec.ofNat 64 (4096 * i)) [])
  else if k.kind == 7 && k.next < m + dsts.length then
    match k.got.find? (·.1 == bindRank e) with
    | none => s
    | some g => (s.callSend k ⟨[], []⟩ { s.packetTo k e (dsts.getD (k.next - m) 0) pkNorm 0 0 0 [g.2.setWidth 32] with
        ch := BitVec.ofNat 6 x.link, sig := s.normSig k }).finishNorm k.id
  else s

/-- What a call reads next, once its tiles are full and, for a share, its notice has come. -/
def State.callSource (s : State) (k : Call) : List (Nat × Nat) :=
  let x := s.chan k.ctx.toNat k.ch
  let ready := fun (q : Except Flt Reach) => match q with
    | .ok q => if s.callReady k.own q.spans then q.spans else []
    | .error _ => []
  let words := fun (first n : Nat) => ready (s.reach k.unit k.die k.ctx pCO .rd false
    ((match k.got.find? (·.1 == 0) with | some g => g.2 | none => 0) + BitVec.ofNat 64 (4 * first)) (4 * n))
  let own := bindRank (s.bindOf k.ctx x)
  match k.kind with
  | 1 =>
    let per := x.len / 64
    if k.n ≤ k.next / per || !k.notices.any fun t => t.1 == k.next / per then []
    else ((ready (s.callReach k .rd (k.base + BitVec.ofNat 64 (4096 * (k.next / per))) x.len)).take 1).map fun p =>
      (p.1 + 64 * (k.next % per), 64)
  | 3 => if k.next == 0 then ready (s.a2aReach k.unit k.die k.ctx k.base k.n) else []
  | 4 =>
    if k.next < k.counts.length then []
    else if k.next == k.counts.length then
      words (sumWords (k.counts.take own)) (min (k.counts.getD own 0).toNat (k.rcv.getD own 0).toNat)
    else match k.notices.find? fun t => 16 * t.2.2.2 < (k.counts.getD t.1 0).toNat with
      | none => []
      | some t => words (sumWords (k.counts.take t.1) + 16 * t.2.2.2) (min 16 ((k.counts.getD t.1 0).toNat - 16 * t.2.2.2))
  | 6 => if k.next == 0 then ready (s.reach k.unit k.die k.ctx pCO .rd false k.base k.n) else []
  | _ => []

/-- A call reads one granule of its source ahead of the others (R117). -/
def State.callPart (s : State) (k : Call) (g : Nat) : State :=
  let sp := s.callSource k
  if s.callStopped k || s.coHeld k.unit k.id false sp then s else s.modCall k.id fun y => { y with ahead := s.readPart k.ahead sp g }

/-- The words of a packet for one granule of its tile or buffer arrive by themselves: the packet becomes that part and what stands
before and after it (R117). -/
def State.splitPacket (s : State) (n g : Nat) : State :=
  match s.fabric[n]? with
  | none => s
  | some p =>
    let first := p.va.toNat + 4 * p.off
    match (if p.kind == pkTile || p.kind == pkPay then granuleParts [(first, 4 * p.words.length)] else [])[g]? with
    | none => s
    | some q =>
      let i := (q.1 - first) / 4
      let part := fun (off : Nat) (ws : List Word) => if ws.isEmpty then [] else [{ p with off := p.off + off, words := ws }]
      { s with fabric := s.fabric.take n ++ part 0 (p.words.take i) ++ part i ((p.words.drop i).take (q.2 / 4))
          ++ part (i + q.2 / 4) (p.words.drop (i + q.2 / 4)) ++ s.fabric.drop (n + 1) }

/-! ## The switch's checks (R331) -/

/-- The current version of a handle in the switch: the last boundary's, else the binding's at the lowest die that has one. -/
def State.switchVersion (s : State) (c : BitVec 3) (h : BitVec 16) : Word :=
  match Tab.get none s.switch.version h.toNat with
  | some v => v
  | none => ((List.range 24).findSome? fun d => (s.binding c.toNat d h).map bindVersion).getD 0

/-- What the fabric manager has told the switch of a handle. -/
def State.bound (s : State) (h : BitVec 16) : Option SwBind := Tab.get none s.switch.bound h.toNat

/-- The fabric manager binds a handle at the switch (R331): no sequence of it is recorded as freed (R349). -/
def State.bindHandle (s : State) (h : BitVec 16) (b : SwBind) : State :=
  { s with switch := { s.switch with freed := Tab.set none s.switch.freed h.toNat none, bound := Tab.set none s.switch.bound h.toNat (some b) } }

/-- Whether the port that sent a packet is a member of its handle, or a candidate in an agreement round (R331, R350): as the fabric
manager's binding has it, else a port of the package that has a binding of it. -/
def State.fromMember (s : State) (p : Packet) : Bool :=
  match p.srcDie with
  | none => p.src != 0x1FFF || p.kind == pkAgree
  | some d => match s.bound p.handle with
    | some b => b.members.contains d || (p.kind == pkAgree && b.candidates.contains d)
    | none => (s.binding p.ctx.toNat d p.handle).isSome && (p.src != 0x1FFF || p.kind == pkAgree)

/-- A contribution as the switch counts it: a port that the binding has for a candidate joins, whatever rank it gives itself, and a
member that gives none follows those that do. DESIGN CHOICE (log entry 68): the binding gives the switch no ranks. -/
def State.asBound (s : State) (p : Packet) : Packet :=
  match p.srcDie, s.bound p.handle with
  | some d, some b => if !b.members.contains d then { p with src := 0x1FFF }
    else if p.src == 0x1FFF then { p with src := 0x1000 + d } else p
  | _, _ => p

/-- Why the switch drops a packet: 1 its source is no member, 2 its version is not the current one; not an abort packet of
its own. -/
def State.dropCause (s : State) (p : Packet) : Option Byte :=
  if p.kind == pkAbort && p.srcDie.isNone then none
  else if !s.fromMember p then some 1
  else if p.version != s.switchVersion p.ctx p.handle then some 2
  else none

/-- Remove a packet from the fabric. -/
def State.dropPacket (s : State) (n : Nat) : State := { s with fabric := s.fabric.eraseIdx n }

/-- SWITCH_PACKET_DROP of packet n. -/
def execSwitchPacketDrop (s : State) : Host.Outcome State Fault Refusal :=
  match s.fabric[s.arg.n]? with
  | none => .next s
  | some p => match s.dropCause p with
    | none => .next s
    | some sub =>
      let s := s.dropPacket s.arg.n
      let f := { Flt.of 0x2A sub (p.handle.setWidth 64) with info1 := p.version.setWidth 64 }
      match p.srcDie, s.call? p.call with
      | some _, some k => .next ((s.logFault k.who f).endCall k.id 5 0 0 0)
      | some d, none => .next (s.logFault (s.handleWho p.ctx d p.handle) f)
      | none, _ => .next s

/-! ## Arrivals (R338 to R347) -/

/-- Take packet n of the fabric if its kind is among those of a step, the switch passes it, and it goes to a die of this
package; a packet that leaves the package is only removed. -/
def State.takePacket (s : State) (kinds : List Nat) (k : Packet → Nat → State → State) : State :=
  match s.fabric[s.arg.n]? with
  | none => s
  | some p =>
    if !kinds.contains p.kind || (s.dropCause p).isSome then s
    else match p.dstDie with
      | none => s.dropPacket s.arg.n
      | some d => k p d s

/-- The calls that a packet is for: their kind, and for a tile the sender and the tile's address. -/
def Packet.wants (p : Packet) (k : Call) (x : Chan) : Bool :=
  match p.kind with
  | 0 => if p.words.isEmpty then k.kind == 1 && x.peer == p.src else k.kind == 4
  | 1 => (k.kind == 2 || k.kind == 7) && (x.peer == 0xFFF || x.peer == p.src)
      && k.base + BitVec.ofNat 64 (4096 * p.tile) == p.va
  | 2 => k.kind == 3
  | 3 => k.kind == 4
  | 4 => k.kind == 7
  | _ => k.kind == 6

/-- The kind of entry that a packet is for (R334): 0 SEND, 1 RECV, 2 GROUP. -/
def Packet.entry (p : Packet) : Nat :=
  match p.kind with
  | 0 => if p.words.isEmpty then 0 else 2
  | 1 | 4 => 1
  | _ => 2

/-- The call in flight of a handle on a die that a packet is for. -/
def State.callFor (s : State) (p : Packet) (d : Nat) (ok : Call → Chan → Bool) : Option Call :=
  s.calls.find? fun k => k.ctx == p.ctx && k.die == d && k.seq == p.seq && !k.fin &&
    let x := s.chan k.ctx.toNat k.ch
    x.handle == p.handle && ok k x

/-- Whether no call will take a packet: each entry of its kind for its sender is aborted or has passed its number (R346). -/
def State.packetLost (s : State) (p : Packet) (d kind : Nat) : Bool :=
  let own := (((List.range 64).map fun ch => s.chan p.ctx.toNat (BitVec.ofNat 6 ch)).filter fun x =>
    x.defd && x.die == d && x.handle == p.handle && x.kind == kind
      && (kind == 2 || x.peer == p.src || (kind == 1 && x.peer == 0xFFF)))
  !own.isEmpty && own.all fun x =>
    let next := if kind == 1 then x.rseq else x.sseq
    x.aborted || (p.seq != next && (next - p.seq).toNat < 2 ^ 31)

/-- The signature that a call expects of a packet (R343, R344): an all-to-all that of the sender's share, a norm partial the
linked channel's. -/
def State.expects (s : State) (p : Packet) (c : Call) : Word :=
  let x := s.chan c.ctx.toNat c.ch
  if c.kind == 4 then
    signature 3 x.rop x.fmt ((if p.kind == pkArm then c.counts else c.rcv).getD p.src 0).toNat
  else if p.kind == pkNorm then s.normSig c
  else c.sig

/-- A call in flight that stands where a packet's call should: of its handle and number, on an entry of the packet's kind, of
another class (R344). -/
def State.rival (s : State) (p : Packet) (d : Nat) : Option Call :=
  s.callFor p d fun _ x => x.kind == p.entry && p.entry != 0 && (p.entry == 2 || x.peer == 0xFFF)

/-- Whether a packet is a receiver's arm notice for a CSEND, which compares no signature: the receiver finds a count that differs,
from the tiles that it gets (R344; log entry 61). -/
def Packet.noticeToSend (p : Packet) : Bool := p.kind == pkArm && p.words.isEmpty

/-- The packets of a call of which one was refused as a mismatch will not all be accepted (R338, R344). -/
def State.refuse (s : State) (p : Packet) : State := if p.srcDie.isSome then s.modCall p.call fun k => { k with refused := true } else s

/-- Give a packet to its call: the signatures must agree, else the handle is aborted (R344, R345). A packet of a call not yet
issued waits; where every entry has passed its number, a call of another class is a mismatch, and with none the packet is
discarded (R346). A call that stands still takes nothing (R351, R352). -/
def State.deliverTo (s : State) (p : Packet) (d : Nat) (k : Call → State → State) : State :=
  match s.callFor p d p.wants with
  | none =>
    if s.glob.running == some p.ctx && s.packetLost p d p.entry then
      match s.rival p d with
      | some c => if s.callPaused c then s else ((s.dropPacket s.arg.n).refuse p).abortCall c (s.expects p c) p.sig 0
      | none => s.dropPacket s.arg.n
    else s
  | some c =>
    if s.callPaused c then s
    else
      let s' := s.dropPacket s.arg.n
      if !p.noticeToSend && s.expects p c != p.sig then (s'.refuse p).abortCall c (s.expects p c) p.sig 0 else k c s'

/-- ARM_NOTICE_ARRIVAL of packet n: a CSEND may send a tile, a CA2AP a rank's share; a count that differs from SC is a
mismatch (R338, R341). -/
def execArmNoticeArrival (s : State) : Host.Outcome State Fault Refusal :=
  .next (s.takePacket [pkArm] fun p d s =>
    s.deliverTo p d fun c s =>
      if p.words.isEmpty then s.modCall c.id fun k => { k with notices := k.notices ++ [(p.tile, p.src, p.va, 0)] }
      else if p.words.headD 0 != c.counts.getD p.src 0 then (s.refuse p).abortCall c (s.expects p c) p.sig 0
      else (s.modCall c.id fun k => { k with notices := k.notices ++ [(p.src, p.src, p.va, 0)] }).finishPay c.id)

/-- COLLECTIVE_PACKET_ARRIVAL of packet n: a tile's words, a count or a payload; a payload whose write would pass the engine's budget
freezes the engine and stays in the fabric (R368), and so do words that must wait for an earlier access to their granules (R120) or for a
matrix read of their banks (R269). -/
def execCollectivePacketArrival (s : State) : Host.Outcome State Fault Refusal :=
  .next (s.takePacket [pkTile, pkCount, pkPay] fun p d s0 =>
    s0.deliverTo p d fun c s =>
      if p.kind == pkTile then (if s.callHeld c true (s.tileSpan c p) then s0 else s.applyTile c p)
      else if p.kind == pkCount then
        (s.modCall c.id fun k => { k with got := (p.src, (p.words.headD 0).setWidth 64) :: k.got }).finishCounts c.id
      else match s.reach c.unit c.die c.ctx pCO .wr false (p.va + BitVec.ofNat 64 (4 * p.off)) (4 * p.words.length) with
        | .error f => s.callFault c.id f
        | .ok q =>
          if s.callHeld c true q.spans then s0
          else if (s.overBudget c.die 32 (useOf q.spans)).isSome then s0.coAdmit c.die c.who q.spans none id
          else s.coAdmit c.die c.who q.spans none fun s => (s.payWords c q p.words).finishPay c.id)

/-- NORM_PARTIAL_ARRIVAL of packet n (R342). -/
def execNormPartialArrival (s : State) : Host.Outcome State Fault Refusal :=
  .next (s.takePacket [pkNorm] fun p d s =>
    s.deliverTo p d fun c s =>
      (s.modCall c.id fun k => { k with got := (p.src, (p.words.headD 0).setWidth 64) :: k.got }).finishNorm c.id)

/-- DIGEST_ARRIVAL of packet n (R347). -/
def execDigestArrival (s : State) : Host.Outcome State Fault Refusal :=
  .next (s.takePacket [pkDig] fun p d s =>
    s.deliverTo p d fun c s =>
      (s.modCall c.id fun k =>
        { k with got := (p.src, (p.words.headD 0).setWidth 64 ||| ((p.words.getD 1 0).setWidth 64 <<< 32)) :: k.got }).finishDigest
          c.id)

/-- ABORT_PACKET_RECEIPT of packet n (R345). -/
def execAbortPacketReceipt (s : State) : Host.Outcome State Fault Refusal :=
  .next (s.takePacket [pkAbort] fun p d s => (s.dropPacket s.arg.n).receiveAbort d p)

/-- LAST_PACKET_ACCEPTED of call n: every packet of the call has been accepted; a CSEND completes (R338), a CA2AP when its
receives are in (R341). -/
def execLastPacketAccepted (s : State) : Host.Outcome State Fault Refusal :=
  match s.calls[s.arg.n]? with
  | none => .next s
  | some k =>
    if k.kind == 1 && !k.fin && !k.refused && s.callLocal k && !s.packetsOut k.id then .next (s.endCall k.id 1 0 0 0)
    else .next (s.finishPay k.id)

/-! ## Reductions in the switch (R348, R349) -/

/-- The canonical NaN. -/
def qnan : Word := 0x7FC00000

/-- The combination of FP32 contributions: MAXP, MAXN or SUM (R348). -/
def combine (opr : Nat) (ws : List Word) : Word × Flags :=
  let xs := ws.map fun w => decodeF fp32 w.toNat
  let nums := xs.filter fun x => match x with | .nan .. => false | _ => true
  let nv : Flags := if anySnan xs then fNV else 0
  let top := fun (l : List FV) => match l with
    | [] => qnan
    | x :: t => BitVec.ofNat 32 (bits32 (t.foldl (fun m y => (minmaxF true m y).1) x))
  match opr with
  | 0 => (if nums.length < xs.length then qnan else top xs, nv)
  | 1 => (top nums, nv)
  | _ =>
    if nums.length < xs.length then (qnan, nv)
    else let r := roundSum fp32 0 0 xs; (BitVec.ofNat 32 r.1, r.2)

/-- The OPR of a signature. -/
def sigOpr (s : Word) : Nat := s.toNat / 2 ^ 24 % 16

/-- INFO0 of COLL_TIMEOUT (R353): handle, channel, call sequence. -/
def State.timeoutFault (s : State) (k : Call) (sub : Byte) (n : Nat) : Flt :=
  { Flt.of 0x29 sub (BitVec.ofNat 64 ((s.chan k.ctx.toNat k.ch).handle.toNat + k.ch.toNat * 2 ^ 16 + k.seq.toNat * 2 ^ 32)) with
    info1 := BitVec.ofNat 64 n }

/-- A port writes a call's report to its report area on path CO, within its budget (R368), and goes on when it has been written; a write
that faults is logged and dropped (R355). -/
def State.report (s : State) (k : Call) (go : State → State) : State :=
  let va := (s.chan k.ctx.toNat k.ch).rpt
  let bs := (k.rcv.map fun w => leBytes 4 w.toNat).flatten
  if va == 0 || bs.isEmpty then go s
  else
    let q := s.reach k.unit k.die k.ctx pCO .wr false va bs.length
    match lowestFault (faultOf q ++ (if va.toNat % 64 != 0 then [(align va 64).on pCO .wr] else [])), q with
    | some f, _ => go (s.logFault k.who f)
    | none, .ok q => s.coAdmit k.die k.who q.spans none fun s => s.coWrite k q.spans bs []
    | none, _ => s

/-- A port that has the outcome of a CSWR or GAGREE writes its report, logs a timeout, then makes the result present (R349, R350,
R355). -/
def State.conclude (s : State) (id : Nat) : State :=
  match s.call? id with
  | none => s
  | some k =>
    if k.fin || k.status == 0 || s.coWriting id then s
    else s.report k fun s =>
      let s := if k.status == 3 then s.logFault k.who (s.timeoutFault k (if k.kind == 5 then 1 else 4) k.n) else s
      s.endCall id k.status k.value k.count 0

/-- The outcome of a CSWR or GAGREE reaches its port: status, value, count and flags, the number of contributions, the report. -/
def State.outcome (s : State) (id : Nat) (status : Byte) (value : Word) (count : Nat) (fl : Flags) (n : Nat) (rpt : List Byte) :
    State :=
  (s.modCall id fun k =>
    if k.fin || k.status != 0 then k
    else { k with status := status, value := value, count := count, flg := k.flg ||| fl, n := n,
                  rcv := (leWords 4 rpt).map (BitVec.ofNat 32) }).conclude id

/-- A call in flight goes on by one packet; one whose outcome is known, by its report. -/
def State.callProgress (s : State) (k : Call) : State :=
  if k.fin then s.closeCall k.id
  else if k.status != 0 then s.conclude k.id
  else if s.callStopped k then s
  else
    let e := s.bindOf k.ctx (s.chan k.ctx.toNat k.ch)
    let once := fun (kind : Nat) => if k.next == 0 then s.callSend k ⟨[], []⟩ (s.packetTo k e 0 kind k.die 0 0 k.cap) else s
    match k.kind with
    | 1 => s.sendTile k
    | 3 => s.sendCount k
    | 4 => s.sendPay k
    | 5 => once pkSwr
    | 6 => s.sendDigest k
    | 8 => once pkAgree
    | _ => s.sendNotice k

/-- The timer of a slot in nanoseconds: TMO microseconds, or the default. -/
def SwSlot.span (x : SwSlot) : Nat := (if x.tmo == 0 then (if x.round then 100000 else 20) else x.tmo.toNat) * 1000

/-- Whether a slot's timer has expired. -/
def SwSlot.expired (x : SwSlot) (now : BitVec 64) : Bool := x.start.toNat + x.span ≤ now.toNat

/-- The contributing calls of this package. -/
def State.partCalls (s : State) (x : SwSlot) : List Call := x.parts.filterMap fun p => if p.srcDie.isSome then s.call? p.call else none

/-- Free a slot: the highest sequence freed of its handle, in serial order (R349). -/
def Switch.free (w : Switch) (x : SwSlot) : Switch :=
  let f := match Tab.get none w.freed x.handle.toNat with
    | none => x.seq
    | some f => if (f - x.seq).toNat < 2 ^ 31 then f else x.seq
  { w with slots := w.slots.filter fun y => !(y.round == x.round && y.handle == x.handle && y.seq == x.seq),
           freed := Tab.set none w.freed x.handle.toNat (some f) }

/-- A handle bound anew has no sequence freed and the version of its binding (R331, R349). -/
def Switch.forget (w : Switch) (h : Nat) : Switch :=
  { w with freed := Tab.set none w.freed h none, version := Tab.set none w.version h none }

/-- The handles of a context's port table are bound anew, or unbound. -/
def State.forgetHandles (s : State) (es : Tab (BitVec 128)) : State :=
  { s with switch := (es.filter fun p => p.2.getLsbD 63).foldl (fun w p => w.forget (p.2.toNat % 2 ^ 16)) s.switch }

/-- How many members have contributed: ports of the package, and ranks beyond it. -/
def SwSlot.ranks (x : SwSlot) : Nat :=
  ((x.parts.filter fun p => p.src != 0x1FFF).map fun p => (p.srcDie, if p.srcDie.isSome then 0 else p.src)).eraseDups.length

/-- The result of a slot goes to its contributors: complete, or after a timeout with the missing-rank bitmap and its log. -/
def State.closeSlot (s : State) (x : SwSlot) (late : Bool) : State :=
  let r := combine (sigOpr x.sig) (x.parts.map fun p => p.words.headD 0)
  let n := x.ranks
  let map := (List.range (8 * ceilDiv x.n 64)).map fun b => BitVec.ofNat 8 (((List.range 8).map fun j =>
    if 8 * b + j < x.n && !(x.parts.any fun p => p.src == 8 * b + j) then 2 ^ j else 0).foldl (· + ·) 0)
  let s : State := { s with switch := s.switch.free x }
  (s.partCalls x).foldl (fun s k => s.outcome k.id (if late then 3 else 1) r.1 n r.2 n (if late then map else [])) s

/-- Whether a sequence lies at or below the highest one freed of its handle (R349). -/
def Switch.late (w : Switch) (h : BitVec 16) (seq : Word) : Bool :=
  match Tab.get none w.freed h.toNat with
  | none => false
  | some f => (f - seq).toNat < 2 ^ 31

/-- N of a contribution's handle, as the fabric manager's binding has it, else as that of its port, or of the lowest die of the package
bound to it, holds it. -/
def State.packetN (s : State) (p : Packet) : Nat :=
  let own := p.srcDie.bind fun d => s.binding p.ctx.toNat d p.handle
  match s.bound p.handle, own with
  | some b, _ => b.n
  | none, some e => bindN e
  | none, none => ((List.range 24).findSome? fun d => (s.binding p.ctx.toNat d p.handle).map bindN).getD 0

/-- Whether the call of this package that sent a contribution has ended: an abort came first, and it contributes nothing (R345,
R354). -/
def State.withdrawn (s : State) (p : Packet) : Bool :=
  p.srcDie.isSome && !(match s.call? p.call with | some k => !k.fin | none => false)

/-- SWITCH_CONTRIBUTION of packet n. -/
def execSwitchContribution (s : State) : Host.Outcome State Fault Refusal :=
  match s.fabric[s.arg.n]? with
  | none => .next s
  | some p =>
    if p.kind != pkSwr || (s.dropCause p).isSome then .next s
    else
      let s' := s.dropPacket s.arg.n
      if s.withdrawn p then .next s'
      else if s.switch.late p.handle p.seq then
        match (if p.srcDie.isSome then s'.call? p.call else none) with
        | none => .next s'
        | some k => .next ((s'.logFault k.who (s'.timeoutFault k 2 0)).endCall k.id 4 qnan 0 0)
      else match s.switch.slots.find? fun x => !x.round && x.handle == p.handle && x.seq == p.seq with
        | some x =>
          if x.expired s.time then .next s
          else if x.sig != p.sig then
            let s' : State := { s' with switch := { s'.switch with
              slots := s'.switch.slots.filter fun y => y.round || y.handle != x.handle || y.seq != x.seq } }
            .next (s'.sendAbort (0, none) p.ctx p.handle x.n p.src p.ch p.seq x.sig p.sig p.version 1)
          else
            let x' := { x with parts := x.parts ++ [s.asBound p] }
            if x.n ≤ x'.ranks then .next (s'.closeSlot x' false)
            else .next { s' with switch := { s'.switch with slots := s'.switch.slots.map fun y =>
              if !y.round && y.handle == x.handle && y.seq == x.seq then x' else y } }
        | none =>
          if 4096 ≤ (s.switch.slots.filter fun x => !x.round).length then .next s
          else
            let x : SwSlot := ⟨false, p.handle, p.seq, p.sig, s.packetN p, s.time, p.tmo, [s.asBound p]⟩
            if x.n ≤ 1 then .next (s'.closeSlot x false)
            else .next { s' with switch := { s'.switch with slots := s'.switch.slots ++ [x] } }

/-- SWITCH_SLOT_TIMEOUT of slot n. -/
def execSwitchSlotTimeout (s : State) : Host.Outcome State Fault Refusal :=
  match s.switch.slots[s.arg.n]? with
  | none => .next s
  | some x => if x.round || !x.expired s.time then .next s else .next (s.closeSlot x true)

/-! ## Agreement rounds (R350) -/

/-- Insert a contributor: continuing members by their old rank, then joiners by port number. -/
def insertPart (p : Packet) (l : List Packet) : List Packet :=
  let key := fun (q : Packet) => if q.src == 0x1FFF then 2 ^ 13 + q.tile else q.src
  match l with
  | [] => [p]
  | q :: r => if key p < key q then p :: q :: r else q :: insertPart p r

/-- The port's binding of a handle at a version boundary. -/
def rebind (e : BitVec 128) (version : Word) (n rank : Nat) : BitVec 128 :=
  BitVec.ofNat 128 (e.toNat % 2 ^ 16 + rank * 2 ^ 16 + n * 2 ^ 32 + e.toNat / 2 ^ 45 % 2 ^ 19 * 2 ^ 45
    + version.toNat * 2 ^ 64)

/-- A die's bindings of a handle change at a version boundary. -/
def State.rebindPort (s : State) (c : BitVec 3) (d : Nat) (h : BitVec 16) (v : Word) (n rank : Nat) : State :=
  s.modCtx c.toNat fun y => { y with ports := y.ports.map fun q =>
    if q.1 / 32 == d && BitVec.getLsbD q.2 63 && BitVec.setWidth 16 q.2 == h then (q.1, rebind q.2 v n rank) else q }

/-- A round closes: the new version is formed, ports and entries change, contributors get their results. -/
def State.closeRound (s : State) (x : SwSlot) : State :=
  let stay := (x.parts.filter fun p => (p.words.headD 0).getLsbD 0).foldl (fun l p => insertPart p l) []
  let rank := fun (p : Packet) => stay.findIdx fun q => q.src == p.src && q.tile == p.tile && q.srcDie == p.srcDie
  let n := stay.length
  let v := (x.parts.head?.map (·.version)).getD 0 + 1
  let c := (x.parts.head?.map (·.ctx)).getD 0
  let missing := x.ranks < x.n
  let mine := x.parts.filter fun p => p.srcDie.isSome
  let newRank := fun (p : Packet) => if (p.words.headD 0).getLsbD 0 then rank p else 0x1FFF
  let s : State := { s with switch :=
    { slots := s.switch.slots.filter fun y => y.handle != x.handle, freed := Tab.set none s.switch.freed x.handle.toNat none,
      version := Tab.set none s.switch.version x.handle.toNat (some v),
      bound := match s.bound x.handle with
        | some _ => Tab.set none s.switch.bound x.handle.toNat (some ⟨n, stay.filterMap (·.srcDie), []⟩)
        | none => s.switch.bound } }
  let rounds := mine.map (·.call)
  let s := s.endCalls c fun k => (s.chan c.toNat k.ch).handle == x.handle && !rounds.contains k.id
  let keep := mine.map fun p => (p.srcDie.getD 0, p.ch)
  let s := ((List.range 64).map (BitVec.ofNat 6)).foldl (fun s ch =>
    let y := s.chan c.toNat ch
    if y.defd && y.handle == x.handle && !keep.contains (y.die, ch) then s.modChan c.toNat ch fun y => { y with stale := true }
    else s) s
  mine.foldl (fun s p =>
    let d := p.srcDie.getD 0
    let s := s.rebindPort c d x.handle v n (newRank p)
    s.outcome p.call (if missing then 3 else 1) v (newRank p) 0 x.parts.length (leBytes 8 n)) s

/-- AGREEMENT_CONTRIBUTION of packet n. -/
def execAgreementContribution (s : State) : Host.Outcome State Fault Refusal :=
  match s.fabric[s.arg.n]? with
  | none => .next s
  | some p =>
    if p.kind != pkAgree || (s.dropCause p).isSome then .next s
    else if s.withdrawn p then .next (s.dropPacket s.arg.n)
    else
      let s' := s.dropPacket s.arg.n
      let close := fun (x : SwSlot) (s : State) =>
        if x.n ≤ x.ranks then s.closeRound x
        else { s with switch := { s.switch with slots :=
          (s.switch.slots.filter fun y => !(y.round && y.handle == x.handle)) ++ [x] } }
      match s.switch.slots.find? fun x => x.round && x.handle == p.handle with
      | some x => if x.expired s.time then .next s else .next (close { x with parts := x.parts ++ [s.asBound p] } s')
      | none => .next (close ⟨true, p.handle, p.seq, 0, s.packetN p, s.time, p.tmo, [s.asBound p]⟩ s')

/-- AGREEMENT_TIMEOUT of round n of the switch. -/
def execAgreementTimeout (s : State) : Host.Outcome State Fault Refusal :=
  match s.switch.slots[s.arg.n]? with
  | none => .next s
  | some x => if !x.round || !x.expired s.time then .next s else .next (s.closeRound x)

/-! ## Pause and resume (R351) -/

/-- The entries of the issuing context on the issuing die. -/
def State.dieEntries (s : State) (c : BitVec 3) (d : Nat) : List (BitVec 6) :=
  ((List.range 64).map (BitVec.ofNat 6)).filter fun ch => let x := s.chan c.toNat ch; x.defd && x.die == d

/-- Whether packets of entries' calls other than result-bearing ones, arm notices and digests among them, are in flight that
their receivers will accept (R351). -/
def State.draining (s : State) (c : BitVec 3) (chs : List (BitVec 6)) : Bool :=
  s.fabric.any fun p => [pkArm, pkTile, pkPay, pkDig].contains p.kind && p.srcDie.isSome && p.ctx == c && chs.contains p.ch
    && !(s.call? p.call).any (·.bears)
    && match p.dstDie with
      | none => true
      | some d => (s.callFor p d p.wants).any fun k => !s.callPaused k

/-- Pause entries. -/
def State.pause (s : State) (c : BitVec 3) (chs : List (BitVec 6)) : State :=
  chs.foldl (fun s ch => s.modChan c.toNat ch fun x => { x with paused := true }) s

/-- Calls that no longer stand still wait behind no others (R351). -/
def State.unhold (s : State) : State :=
  { s with calls := s.calls.map fun k => { k with behind := k.behind && s.callPaused k } }

/-- Resume entries. -/
def State.resumeChans (s : State) (c : BitVec 3) (chs : List (BitVec 6)) : State :=
  (chs.foldl (fun s ch => s.modChan c.toNat ch fun x => { x with paused := false }) s).unhold

/-- A pause holds tx until packets in flight have been accepted. -/
def State.pauseHold (s : State) (chs : List (BitVec 6)) : State :=
  let s := s.pause (s.ctxOf s.u) chs
  if s.draining (s.ctxOf s.u) chs then s else s.issued 1

/-- CPAUSE. -/
def execCpause (ch : BitVec 6) (s : State) : Host.Outcome State Fault Refusal :=
  .next (s.pauseHold ([ch].filter fun ch => (s.myChan ch).defd))

/-- CPAUSE.ALL. -/
def execCpauseAll (s : State) : Host.Outcome State Fault Refusal :=
  .next (s.pauseHold (s.dieEntries (s.ctxOf s.u) (dieOf s.u)))

/-- CRES. -/
def execCres (ch : BitVec 6) (s : State) : Host.Outcome State Fault Refusal :=
  .next ((s.resumeChans (s.ctxOf s.u) [ch]).issued 1)

/-- CRES.ALL. -/
def execCresAll (s : State) : Host.Outcome State Fault Refusal :=
  .next ((s.resumeChans (s.ctxOf s.u) (s.dieEntries (s.ctxOf s.u) (dieOf s.u))).issued 1)

end Sys2Proof.Machine
end

