-- ==== Sys2Proof/Machine/Matrix.lean ====
section
/-!
DEFINITION. The matrix engine (R263 to R287): planes, streamed and generated passes, accumulator rows, drains, adapters.
-/

namespace Sys2Proof.Machine

/-! ## Elements (R264, R265) -/

/-- The floating format of codes 0 to 3. -/
def mxFmt (f : BitVec 3) : Fmt := fmtOf (f.toNat + 1)

/-- The value of an element code, with its scale where one applies (R79, R83). -/
def mxFV (f : BitVec 3) (efr : Byte) (scale : Option Byte) (c : BitVec 16) : FV :=
  if f == 4 then niFV (efrWidth efr) efr c.toNat (scale.getD 127)
  else
    let x := decodeF (mxFmt f) c.toNat
    match scale with
    | none => x
    | some e => if e == 0xFF then .nan false false 0
      else match x with
        | .num n m g => .num n m (g + e.toNat - 127)
        | _ => x

/-- The dense list of a sparse table's values from key k up. -/
def denseFrom (n k : Nat) (t : Tab (BitVec 16)) : List (BitVec 16) :=
  match n with
  | 0 => []
  | m + 1 => match t with
    | [] => 0 :: denseFrom m (k + 1) []
    | (j, x) :: r => if j == k then x :: denseFrom m (k + 1) r else 0 :: denseFrom m (k + 1) ((j, x) :: r)

/-- A row of codes as table entries; zeros are not listed. -/
def planeRow (k : Nat) (cs : List (BitVec 16)) : Tab (BitVec 16) :=
  (cs.mapIdx fun n c => (128 * k + n, c)).filter fun p => p.2 != 0

/-- The element values of a plane's first rows, row by row. -/
def Plane.values (p : Plane) (rows : Nat) : List (List FV) :=
  (chunks rows 128 (denseFrom (128 * rows) 0 p.code)).mapIdx fun k r => r.mapIdx fun n c =>
    mxFV p.fb p.efr (if p.scaled then some (p.scales.getD (4 * n + k / 32) 0) else none) c

/-! ## Cell operations (R85, R266) -/

/-- The operands of a cell in the order of their NaN rule. -/
def cellOrder (a b : List FV) : List FV := ((a.zip b).map fun p => [p.1, p.2]).flatten

/-- The values that combine under a cell operation; `none` where the canonical NaN with NV results. -/
def cellTerms (op : BitVec 2) (a b : List FV) : Option (List FV) :=
  (a.zip b).mapM fun p => match op.toNat with
    | 0 => mulV p.1 p.2
    | 1 => (exactSum false [p.1, negV p.2]).map fun d => match d with
        | .num _ m e => .num false m e
        | .inf _ => .inf false
        | x => x
    | _ => exactSum false [p.1, p.2]

/-- One cell: the accumulator combined with a streamed row and a column of the plane. DESIGN CHOICE (log entry 136): where an operand
is NaN, zero times infinity or opposite infinities among the others raise no NV; only a signalling NaN does. -/
def cell (op : BitVec 2) (acc : FV) (a b : List FV) : Res :=
  let all := acc :: cellOrder a b
  match firstNan all with
  | some x => let r := roundF fp32 0 0 x; (r.1, r.2 ||| (if anySnan all then fNV else 0))
  | none => match cellTerms op a b with
    | none => nanNV fp32
    | some ts =>
      if op == 2 then roundF fp32 0 0 (ts.foldl (fun m t => (minmaxF true m t).1) acc)
      else roundSum fp32 0 0 (acc :: ts)

/-- The new words of a row and their flags. -/
def RowWork.apply (w : RowWork) (old : List Word) : List Word × Flags :=
  let a := w.codes.mapIdx fun k c => mxFV w.fa w.efr (w.scales.map fun l => l.getD (k / 32) 0) c
  let b := w.plane.values a.length
  let out := old.mapIdx fun n x =>
    if w.cells.getD n false then
      let r := cell w.op (decodeF fp32 x.toNat) a (b.map fun r => r.getD n (.num false 0 0))
      (BitVec.ofNat 32 r.1, r.2)
    else (x, 0)
  (out.map (·.1), out.foldl (fun f p => f ||| p.2) 0)

/-- The codes of a contiguous row of 128 elements. -/
def elemCodes (f : BitVec 3) (efr : Byte) (bs : List Byte) : List (BitVec 16) :=
  (unpack (mxBits f efr) 128 bs).map (BitVec.ofNat 16)

/-- The ρ values t of one row of activations in MADP, from the rows of A: each an exact sum rounded once to BF16 (R285). -/
def adapterInner (rho : Nat) (amat : List (List (BitVec 16))) (x : List (BitVec 16)) : List Res :=
  let xs := x.map (mxFV 0 0 none)
  (List.range rho).map fun j =>
    let as := amat.map fun r => mxFV 0 0 none (r.getD j 0)
    let all := cellOrder xs as
    match firstNan all with
    | some y => let r := rne bf16 y; (r.1, r.2 ||| (if anySnan all then fNV else 0))
    | none => match cellTerms 0 xs as with
      | none => nanNV bf16
      | some ps => roundSum bf16 0 0 ps

/-- The flags of converted elements. -/
def resFlags (es : List Res) : Flags := es.foldl (fun f e => f ||| e.2) 0

/-- 16-bit codes in bytes. -/
def codes16 (bs : List Byte) : List (BitVec 16) := (leWords 2 bs).map (BitVec.ofNat 16)

/-- A row with what its stream has read for it: its codes, and of a row of MADP its plane and flags too. -/
def State.resolve (s : State) (w : RowWork) : RowWork :=
  match w.src with
  | none => w
  | some (id, .row k) => { w with codes := elemCodes w.fa w.efr (s.chunk id k), src := none }
  | some (id, .column first off size) =>
    { w with codes := (List.range 128).map fun k => BitVec.ofNat 16 (leNat (((s.chunk id (first + k)).drop off).take size)),
             src := none }
  | some (id, .adapter first rho i) =>
    let amat := (List.range 128).map fun k => codes16 (s.chunk id (first + k))
    let bmat := ((List.range rho).map fun j => codes16 (s.chunk id (first + 128 + j))).flatten
    let ts := adapterInner rho amat (codes16 (s.chunk id (first + 128 + rho + i)))
    { w with codes := ts.map (fun t => BitVec.ofNat 16 t.1), plane := { w.plane with code := planeRow 0 bmat },
             fl := w.fl.map (· ||| resFlags ts), src := none }

/-- The place of an accumulator row (R97). -/
def rowPlace (u : Nat) (bank : BitVec 3) (row : Nat) : Nat := accPlace u (bank.toNat * 65536 + row * 512)

/-- The words of an accumulator row. -/
def State.accRow (s : State) (u : Nat) (bank : BitVec 3) (row : Nat) : List Word :=
  (leWords 4 (rdBytes s.mem (rowPlace u bank row) 512)).map (BitVec.ofNat 32)

/-- Whether row `n` of the list may land: it is due, no due row issued before it goes to the same place, and of a
write of FFLAGS by an earlier bundle in this cycle its flags come after (R48). -/
def State.rowDue (s : State) (n : Nat) (r : RowLanding) : Bool :=
  decide (r.due ≤ s.cycle) && !((s.rows.take n).any fun q =>
    q.unit == r.unit && q.bank == r.bank && q.row == r.row && decide (q.due ≤ s.cycle))
    && !(r.work.fl.isSome && s.flagsHeld r.unit r.seq)

/-- ACCUMULATOR_ROW_LANDS of row n. -/
def execAccumulatorRowLands (s : State) : Host.Outcome State Fault Refusal :=
  match s.rows[s.arg.n]? with
  | none => .next s
  | some r =>
    if !s.rowDue s.arg.n r then .next s
    else
      let w := s.resolve r.work
      let x := w.apply (s.accRow r.unit r.bank r.row)
      let s := { s with rows := s.rows.eraseIdx s.arg.n }
      let s := s.write (rowPlace r.unit r.bank r.row) ((x.1.map fun w => leBytes 4 w.toNat).flatten)
      .next (match w.fl with
        | some f => s.modUnit r.unit fun y => y.modSpr (·.flag (f ||| x.2))
        | none => s)

/-! ## Operands in scratchpad (R269, R270) -/

/-- BANK_CONFLICT of a bank group and a bank. -/
def bankConflict (g : BitVec 2) (sa : BitVec 64) : Flt :=
  Flt.of 0x0D 0 (BitVec.ofNat 64 (g.toNat * 2 ^ 8 + mxOff sa / 64 % 16 * 2 ^ 4 + g.toNat))

/-- The reads of `n` contiguous rows of `z` bytes from a place, row k in cycle `t k`. -/
def rowReads (n p z : Nat) (t : Nat → Nat) : List (Nat × Nat × Nat) := (List.range n).map fun k => (t k, p + k * z, z)

/-- Check an operand, wait for the writes before it and for its tiles, and go on. -/
def State.withOperand (s : State) (sa : BitVec 64) (g : BitVec 2) (span : Nat) (extra : List Flt)
    (more : List (Nat × Nat)) (k : State → State) : State :=
  match lowestFault (extra ++ operandFaults sa span .rd) with
  | some f => s.raise f
  | none =>
    let sp := (groupPlace s.u g (mxOff sa), span) :: more
    if !s.operandsReady s.u s.cur.op.seq then s
    else s.grant ⟨sp, []⟩ true k

/-! ## Plane and sequence control (R273) -/

/-- MZERO: waits for the rows of earlier bundles. -/
def execMzero (a : BitVec 3) (s : State) : Host.Outcome State Fault Refusal :=
  if s.rows.any fun r => r.unit == s.u && r.bank == a && decide (r.seq < s.cur.op.seq) then
    .next (if s.me.spr.inv && !s.me.spr.sup then s.raise (schedFault 2 s.me.spr.sfc s.cur.op.stamp) else s)
  else .next ((s.land 1 (.mzero a)).issued 1)

/-- MSWAP: waits for a load, then exchanges the planes. -/
def execMswap (s : State) : Host.Outcome State Fault Refusal :=
  if s.me.eng.load.isSome then .next s
  else .next ((s.modUnit s.u fun x => x.modEng fun e => { e with active := e.shadow, shadow := e.active }).issued 1)

/-- Write CELLOP. -/
def State.setCellop (s : State) (v : Word) : State :=
  (s.modUnit s.u fun x => x.modEng fun e => { e with cellop := v }).issued 1

/-- Whether any entry of a CELLOP value is reserved. -/
def cellopBad (v : Word) : Bool := (List.range 16).any fun i => v.toNat / 4 ^ i % 4 == 3

/-- MCOP. -/
def execMcop (a : BitVec 5) (s : State) : Host.Outcome State Fault Refusal :=
  let v := (s.rs a).setWidth 32
  .next (if cellopBad v then s.raise (prot 0x17 (v.setWidth 64)) else s.setCellop v)

/-- MCOP.MAD. -/
def execMcopMad (s : State) : Host.Outcome State Fault Refusal := .next (s.setCellop 0)

/-! ## Loading the shadow plane (R274, R275) -/

/-- Begin a load of the issuing unit. -/
def State.beginLoad (s : State) (l : MxLoad) : State := s.modUnit s.u fun x => x.modEng fun e => { e with load := some l }

/-- MLDB. -/
def execMldb (g : BitVec 2) (a : BitVec 5) (f : BitVec 3) (sc : BitVec 2) (x : BitVec 1) (s : State) :
    Host.Outcome State Fault Refusal :=
  if s.me.eng.load.isSome then .next s
  else
    let efr : Byte := s.me.spr.efrm.extractLsb' 8 8
    let z := mxRow f efr
    let sa := s.rs a
    .next (s.withOperand sa g (128 * z) [] [] fun s =>
      let p : Plane := ⟨[], f, efr, if x == 1 then s.me.scale sc else List.replicate 512 0, x == 1⟩
      let rows := rowReads 128 (groupPlace s.u g (mxOff sa)) z fun k => s.cycle + 1 + k
      ((s.beginStream true rows (0, 0)).beginLoad ⟨s.cycle + 128, none, p, false, false, some s.ids, [], 0⟩).issued 1)

/-! ## Generated elements (R275, R278, R295 to R297) -/

/-- Whether an evaluation of another kind is in flight (R296): kinds 0 GEVAL, 1 MGENB, 2 MMAG. -/
def State.genHeld (s : State) (kind : Nat) : Bool :=
  s.me.eng.genUses.any fun g => g.2.1 != kind && decide (s.cycle < g.2.2)

/-- The residency slot whose image an operation of the mx slot evaluates. -/
def genSlot? : Instr → Option (BitVec 4)
  | .mgenbPure n .. | .mgenbAdd n .. | .mmag _ n .. => some n
  | _ => none

/-- Whether an evaluation of an earlier bundle that uses a slot is in flight or has still to issue (R301). -/
def State.genUsing (s : State) (n : BitVec 4) : Bool :=
  (s.me.eng.genUses.any fun g => g.1 == n && decide (s.cycle < g.2.2))
    || (s.me.slot 4).queue.any fun o => decide (o.seq < s.cur.op.seq) && (o.instr 4).bind genSlot? == some n

/-- An evaluation of the issuing unit is in flight until a cycle; one that meets its bound, until the cycle after its
detection (R297). -/
def State.genBegin (s : State) (n : BitVec 4) (kind till : Nat) : State :=
  s.modUnit s.u fun x => x.modEng fun e =>
    { e with genUses := (n, kind, till) :: e.genUses.filter fun g => decide (s.cycle < g.2.2) }

/-- GEN_UNKNOWN. -/
def genUnknown (name : BitVec 64) : Flt := Flt.of 0x11 0 name

/-- GEN_BOUND (R133, R297). -/
def genBound (sub : Byte) (g : Image) (seed : BitVec 64) (c0 c1 c2 c3 : Word) (row : Nat) (n : BitVec 4) (i : Nat) : Flt :=
  { Flt.of 0x10 sub g.name with
    info1 := seed, info2 := c1 ++ c0, info3 := c3 ++ c2,
    xinfo := BitVec.ofNat 27 (row * 2 ^ 19 + n.toNat * 2 ^ 15 + (g.bound + 1) * 2 ^ 6 + i) }

/-- Evaluate at coordinates in order: the values before the first that meets the bound, and that one with its place. -/
def evalAll (g : Image) (seed : BitVec 64) (cs : List (Word × Word × Word)) :
    List Word × Option (Nat × Nat × Word × Word × Word) :=
  (cs.zipIdx).foldr (fun c acc =>
    match evalGen g seed c.1.1 c.1.2.1 c.1.2.2 0 with
    | .ok w => (w :: acc.1, acc.2)
    | .error i => ([], some (c.2, i, c.1.1, c.1.2.1, c.1.2.2))) ([], none)

/-- The evaluation that meets its bound is on its way to its detection (R297). -/
def State.boundAt (s : State) (due : Nat) (vd : Option (BitVec 6)) (f : Flt) : State :=
  let p : Pend := ⟨s.cur.op.seq, s.cur.op.addr, s.cur.slot, f.code, f.sub, f.info0, f.info1, f.info2, f.info3, f.xinfo,
    f.path, f.kind, 0, true⟩
  s.fly { s.flight pNone due false false [] (.bound vd) with bad := some p }

/-- The coordinates of a block of rows of 128, c1 fastest (R275, R278). -/
def genGrid (sc : BitVec 64) (rows : Nat) : List (Word × Word × Word) :=
  ((List.range rows).map fun k => (List.range 128).map fun n =>
    (sc.setWidth 32 + BitVec.ofNat 32 k, (sc >>> 32).setWidth 32 + BitVec.ofNat 32 n, (0 : Word))).flatten

/-- An element of MGENB: RNE(G), or RNE(Bmem + alpha G) (R275). -/
def genElem (f : Fmt) (add : Option (Nat × Word)) (g : Word) : Nat :=
  let gv := decodeF fp32 g.toNat
  match add with
  | none => (rne f gv).1
  | some (b, al) =>
    let bv := decodeF f b
    let av := decodeF fp32 al.toNat
    match firstNan [bv, av, gv] with
    | some x => (rne f x).1
    | none => match mulV av gv with
      | none => canonNan f
      | some p => (roundSum f 0 0 [bv, p]).1

/-- The shadow plane that a load gives: of MLDB the rows read, of MGENB.ADD the elements from the rows of Bmem read and the generated
values. -/
def State.loaded (s : State) (l : MxLoad) : Plane :=
  match l.stream with
  | none => l.plane
  | some id =>
    let rows := ((List.range 128).map fun k => elemCodes l.plane.fb l.plane.efr (s.chunk id k)).flatten
    let codes := if l.gen then
        (rows.zip l.vals).map fun p => BitVec.ofNat 16 (genElem (mxFmt l.plane.fb) (some (p.1.toNat, l.alpha)) p.2)
      else rows
    { l.plane with code := planeRow 0 codes }

/-- A load ends: its plane is the shadow plane. -/
def State.endLoad (s : State) (u : Nat) (gen : Bool) : State :=
  match (s.unit u).eng.load with
  | none => s
  | some l =>
    if l.gen != gen || l.bad || s.cycle < l.due then s
    else s.modUnit u fun x => x.modEng fun e => { e with load := none, shadow := s.loaded l }

/-- MLDB_LOAD_COMPLETE of unit n. -/
def execMldbLoadComplete (s : State) : Host.Outcome State Fault Refusal := .next (s.endLoad s.arg.n false)

/-- MGENB_COMMIT of unit n. -/
def execMgenbCommit (s : State) : Host.Outcome State Fault Refusal := .next (s.endLoad s.arg.n true)

/-- MGENB in either form: `mem` gives the bank group of Bmem, its place and alpha. DESIGN CHOICE (log entry 149): R275 reads Bmem in the
background and gives no schedule; the model reads row k in the cycle in which the first of its evaluations is admitted, 1 + k × P after
issue. -/
def State.genLoad (s : State) (n : BitVec 4) (sd : BitVec 3) (sc : BitVec 64) (f : BitVec 2) (img : Image)
    (mem : Option (BitVec 2 × Nat × Word)) : State :=
  let fb : BitVec 3 := f.setWidth 3
  let r := evalAll img (s.me.seed sd) (genGrid sc 128)
  let codes := match mem with
    | some _ => []
    | none => planeRow 0 (r.1.map fun g => BitVec.ofNat 16 (genElem (mxFmt fb) none g))
  let plane : Plane := ⟨codes, fb, 0, List.replicate 512 0, false⟩
  let load := fun (t : State) (due : Nat) (bad : Bool) => (match mem with
    | none => t.beginLoad ⟨due, none, plane, true, bad, none, [], 0⟩
    | some (g, p, al) =>
      (t.beginStream true (rowReads 128 p (mxRow fb 0) fun k => t.cycle + 1 + k * img.pace) (0, 0)).beginLoad
        ⟨due, some g, plane, true, bad, some t.ids, r.1, al⟩).issued 1
  match r.2 with
  | none => load (s.genBegin n 1 (s.cycle + 144 * img.pace - 1)) (s.cycle + 144 * img.pace) false
  | some (i, op, c0, c1, c2) =>
    let due := s.cycle + img.admission i + 16 * img.pace
    load ((s.boundAt due none (genBound 2 img (s.me.seed sd) c0 c1 c2 0 0 n op)).genBegin n 1 (due + 1)) due true

/-- MGENB.PURE. -/
def execMgenbPure (n : BitVec 4) (sd : BitVec 3) (c : BitVec 5) (f : BitVec 2) (s : State) :
    Host.Outcome State Fault Refusal :=
  if s.me.eng.load.isSome || s.genHeld 1 then .next s
  else match s.me.gslot n with
    | none => .next (s.raise (genUnknown 0))
    | some img => .next (s.genLoad n sd (s.rs c) f img none)

/-- MGENB.ADD. -/
def execMgenbAdd (n : BitVec 4) (sd : BitVec 3) (c b l : BitVec 5) (f : BitVec 2) (s : State) :
    Host.Outcome State Fault Refusal :=
  if s.me.eng.load.isSome || s.genHeld 1 then .next s
  else
    let fb : BitVec 3 := f.setWidth 3
    let sb := s.rs b
    let g : BitVec 2 := sb.extractLsb' 21 2
    let z := mxRow fb 0
    let unknown := match s.me.gslot n with | none => [genUnknown 0] | some _ => []
    .next (s.withOperand sb g (128 * z) unknown [] fun s =>
      match s.me.gslot n with
      | none => s
      | some img =>
        s.genLoad n sd (s.rs c) f img (some (g, groupPlace s.u g (mxOff sb), (s.rs l).setWidth 32)))

/-- The load of an MGENB that meets its bound at a cycle is given up, and what it reads. -/
def State.dropLoad (s : State) (u due : Nat) : State :=
  match (s.unit u).eng.load with
  | some l =>
    if l.bad && l.due == due then
      { s.modUnit u fun x => x.modEng fun e => { e with load := none } with streams := s.streams.filter fun r => some r.id != l.stream }
    else s
  | none => s

/-- GEN_BOUND_DETECTED of flight n: the fault is found at the instruction's bundle, and of two faults of one bundle in one cycle the
lowest slot's goes first (R134). -/
def execGenBoundDetected (s : State) : Host.Outcome State Fault Refusal :=
  match s.flights[s.arg.n]? with
  | none => .next s
  | some f =>
    match f.what, f.bad with
    | .bound _, some p =>
      if s.cycle < f.due then .next s
      else
        let s' := (s.dropFlight f).dropLoad f.unit f.due
        if !s.current f then .next s'
        else .next (s.unlessOutranked ((s'.modUnit f.unit fun x =>
          x.modDisp fun d => d.unmark f.seq f.slot fun _ => true).raiseLate f p.flt) f.unit)
    | _, _ => .next s

/-! ## Streaming passes (R276 to R279) -/

/-- Put the rows of a pass on their way: row r lands at t + 136 + at r. -/
def State.streamRows (s : State) (bank : BitVec 3) (at' : Nat → Nat) (works : List RowWork) : State :=
  { s with rows := s.rows ++ works.mapIdx fun r w =>
      (⟨s.u, s.me.task, s.cur.op.seq, s.cur.op.addr, s.cycle, s.cycle + 136 + at' r, bank, r, w⟩ : RowLanding) }

/-- The cell operation of row r (R266). -/
def cellopAt (v : Word) (r : Nat) : BitVec 2 := BitVec.ofNat 2 (v.toNat / 4 ^ (r % 16))

/-- The row of a pass, as it lands: of the codes given, or of those that a stream reads. -/
def State.rowWork (s : State) (fa : BitVec 3) (scales : Option (List Byte)) (cells : List Bool) (r : Nat)
    (codes : List (BitVec 16)) (src : Option (Nat × Pick)) : RowWork :=
  ⟨cellopAt s.me.eng.cellop r, codes, fa, s.me.spr.efrm.setWidth 8, scales.map fun l => (l.drop (4 * r)).take 4,
    s.me.eng.active, cells, some 0, src⟩

/-- PROTECTION 0x16 (R264). -/
def pairFault (fa fb : BitVec 3) : Flt := prot 0x16 (BitVec.ofNat 64 (fa.toNat * 2 ^ 8 + fb.toNat))

/-- MMA, MMAT and MMA.RAG: the stages of R287, then the stream of A, `reads p` its reads at rate p from the place of the operand and
`pick r` where row r stands in them; `cells r` is what accumulates in row r. An MMAT holds the banks of its group over its occupancy
(R269). -/
def State.pass (s : State) (bank : BitVec 3) (g : BitVec 2) (sa : BitVec 64) (m : Nat) (fa : BitVec 3)
    (scales : Option (List Byte)) (span : Nat) (stage2 : List Flt) (reads : Nat × Nat → Nat → List (Nat × Nat × Nat))
    (pick : Nat → Pick) (holds : Bool) (cells : Nat → List Bool) : State :=
  match s.pairRate fa with
  | none => s.raise (pairFault fa s.me.eng.active.fb)
  | some p =>
    match lowestFault (stage2 ++ (if s.addReads s.u g then [bankConflict g sa] else [])) with
    | some f => s.raise f
    | none => s.withOperand sa g span [] [] fun s =>
        let place := groupPlace s.u g (mxOff sa)
        let occ := ceilDiv (m * p.2) p.1
        let works := (List.range m).map fun r => s.rowWork fa scales (cells r) r [] (some (s.ids, pick r))
        let t := s.streamRows bank (fun r => r * p.2 / p.1) works
        (t.beginStream true (reads p place) (if holds then (place, s.cycle + occ) else (0, 0))).issued occ


def allCells : List Bool := List.replicate 128 true

/-- The scale bytes of a streamed operand with X = 1. -/
def State.passScales (s : State) (x : BitVec 1) (sc : BitVec 2) : Option (List Byte) :=
  if x == 1 then some (s.me.scale sc) else none

/-- Contiguous rows of A: row r is read in the cycle in which it streams (R267). -/
def State.rowsOfA (s : State) (m : Nat) (fa : BitVec 3) (p : Nat × Nat) (place : Nat) : List (Nat × Nat × Nat) :=
  rowReads m place (mxRow fa (s.me.spr.efrm.setWidth 8)) fun r => s.cycle + r * p.2 / p.1

/-- The reads of a transposed A, its rows 64 P bytes apart: 16 lines in a cycle, and a strip of 128 lines for 64 / size rows of A, in
time for the first of them (R276). -/
def State.stripsOfA (s : State) (m size pitch : Nat) (p : Nat × Nat) (place : Nat) : List (Nat × Nat × Nat) :=
  ((List.range (ceilDiv (m * size) 64)).map fun i => (List.range 128).map fun k =>
    (s.cycle + 64 / size * i * p.2 / p.1 + k / 16, place + k * 64 * pitch + 64 * i, 64)).flatten

/-- MMA. -/
def execMma (a : BitVec 3) (g : BitVec 2) (b : BitVec 5) (m : BitVec 7) (f : BitVec 3) (c : BitVec 2) (x : BitVec 1)
    (s : State) : Host.Outcome State Fault Refusal :=
  let n := m.toNat + 1
  let sa := s.rs b
  .next (s.pass a g sa n f (s.passScales x c) (n * mxRow f (s.me.spr.efrm.setWidth 8)) []
    (s.rowsOfA n f) .row false (fun _ => allCells))

/-- MMAT: A stands transposed, its rows 64 P bytes apart. -/
def execMmat (a : BitVec 3) (g : BitVec 2) (b p : BitVec 5) (f : BitVec 3) (c : BitVec 2) (x : BitVec 1) (s : State) :
    Host.Outcome State Fault Refusal :=
  let sp := (s.rs p).toNat
  let pitch := sp % 2 ^ 16
  let m := sp / 2 ^ 16 % 2 ^ 7 + 1
  let sa := s.rs b
  let size := mxBits f 0 / 8
  let pick := fun (r : Nat) => Pick.column (128 * (r * size / 64)) (r * size % 64) size
  .next (s.pass a g sa m f (s.passScales x c) (128 * 64 * pitch) (if pitch % 2 == 0 then [bankConflict g sa] else [])
    (s.stripsOfA m size pitch) pick true (fun _ => allCells))

/-! ## Sequences (R277) -/

/-- The sequence, by its place in the window, that a packed index belongs to. -/
def Shape.seqOf (x : Shape) (p : Nat) : Option Nat :=
  ((x.win.zip (x.win.drop 1)).zipIdx.find? fun q => q.1.1.toNat ≤ p && p < q.1.2.toNat).map (·.2)

/-- MMA.RAG. -/
def execMmaRag (a : BitVec 3) (g : BitVec 2) (b x : BitVec 5) (h f : BitVec 3) (c : BitVec 2) (k : BitVec 1)
    (s : State) : Host.Outcome State Fault Refusal :=
  let sx := s.rs x
  let (ro, co) := ragOrigins sx
  let m := sx.toNat / 2 ^ 48 % 2 ^ 7 + 1
  let sa := s.rs b
  let sh := s.me.shape h
  let cells := fun (r : Nat) => (List.range 128).map fun n =>
    match sh.seqOf (ro + r), sh.seqOf (co + n) with
    | some i, some j => i == j
    | _, _ => false
  .next (s.pass a g sa m f (s.passScales k c) (m * mxRow f (s.me.spr.efrm.setWidth 8))
    (memberFaults h sh [(ro, ro + m - 1), (co, co + 127)]) (s.rowsOfA m f) .row false cells)

/-- MMAG: a generated A. -/
def execMmag (a : BitVec 3) (n : BitVec 4) (e : BitVec 3) (c : BitVec 5) (m : BitVec 7) (f : BitVec 3) (s : State) :
    Host.Outcome State Fault Refusal :=
  if s.genHeld 2 then .next s
  else match s.pairRate f, s.me.gslot n with
    | none, _ => .next (s.raise (pairFault f s.me.eng.active.fb))
    | some _, none => .next (s.raise (genUnknown 0))
    | some p, some img =>
      let k := m.toNat + 1
      let d := max (ceilDiv p.2 p.1) img.pace
      let r := evalAll img (s.me.seed e) (genGrid (s.rs c) k)
      let good := r.1.length / 128
      let rows := chunks good 128 (r.1.map fun w => BitVec.ofNat 16 (genElem (mxFmt f) none w))
      let works := rows.mapIdx fun i cs => s.rowWork f none allCells i cs none
      let s := s.streamRows a (fun i => d * i) works
      .next (match r.2 with
        | none => (s.genBegin n 2 (s.cycle + (k - 1) * d + img.admission 127 + 16 * img.pace)).issued (k * d)
        | some (i, op, c0, c1, c2) =>
          let due := s.cycle + d * (i / 128) + img.admission (i % 128) + 16 * img.pace
          let s := s.boundAt due none (genBound 3 img (s.me.seed e) c0 c1 c2 0 (i / 128) n op)
          (s.genBegin n 2 (due + 1)).issued (k * d))

/-! ## Drains (R280 to R282) -/

/-- Convert an accumulator element under FD at its coordinates: the code written and the flags. -/
def drainElem (fd : BitVec 3) (rm : BitVec 3) (seed : BitVec 64) (bank : BitVec 3) (row col : Nat) (x : Word) : Res :=
  let v := if rm == 5 && fd != 0 then
      noise seed (BitVec.ofNat 32 col) (BitVec.ofNat 32 row) (bank.setWidth 32) 0x40000000 else 0
  match fd.toNat with
  | 0 => (x.toNat, 0)
  | 5 => let r := toInt rm v (-(2 ^ 31)) (2 ^ 31 - 1) (decodeF fp32 x.toNat); ((r.1 % 2 ^ 32).toNat, r.2)
  | k => roundF (fmtOf k) rm v (decodeF fp32 x.toNat)

/-- The run value that keeps a drained code (R280). -/
def drainRun (fd : BitVec 3) (c : Nat) : Word :=
  if fd == 0 || fd == 5 then BitVec.ofNat 32 c else elemValue fd.toNat 0 0 c

/-- The drained elements of some columns of a row. -/
def State.drainRow (s : State) (fd : BitVec 3) (bank : BitVec 3) (row : Nat) (cols : List Nat) : List Res :=
  let xs := s.accRow s.u bank row
  cols.map fun c => drainElem fd s.me.spr.rm s.me.spr.srseed bank row c (xs.getD c 0)

/-- Fields of Sr: r0, n and w (R281). -/
def drainFields (sr : BitVec 64) : Nat × Nat × Nat :=
  (sr.toNat % 128, sr.toNat / 256 % 128 + 1, sr.toNat / 65536 % 128 + 1)

/-- The checks of a drain's rows: EARLY_READ where the trap is in force, and the range. -/
def State.drainFaults (s : State) (bank : BitVec 3) (r0 n : Nat) : List Flt :=
  (s.earlyRows s.u s.cur.op.seq bank r0 n).toList ++ (if 128 < r0 + n then [prot 0x10 (BitVec.ofNat 64 (r0 + n))] else [])

/-- A segment of runs, one for each element. -/
def drainSeg (fd : BitVec 3) (es : List Res) : List Run :=
  if es.isEmpty then [nullRun] else firstB (es.map fun e => ⟨drainRun fd e.1, 1, false⟩)

/-- A drain writes its vector register. -/
def State.drainOut (s : State) (v : BitVec 6) (occ : Nat) (rs : List Run) (fl : Flags) : State :=
  if 4096 < rs.length then s.raise (runOverflow rs.length)
  else (s.result (occ + 3) [(.v v, .runs rs)] fl).issued occ

/-- MDRV. -/
def execMdrv (v : BitVec 6) (a : BitVec 3) (r : BitVec 5) (f : BitVec 3) (c : BitVec 1) (s : State) :
    Host.Outcome State Fault Refusal :=
  let (r0, n, w) := drainFields (s.rs r)
  match lowestFault (s.drainFaults a r0 n ++ if c == 0 && 4096 < n * w then [runOverflow (n * w)] else []) with
  | some e => .next (s.raise e)
  | none =>
    let rows := (List.range n).map fun i => s.drainRow f a (r0 + i) (List.range w)
    let rs := (rows.map (drainSeg f)).flatten
    let rs := if c == 1 then mergeRuns rs else rs
    .next (s.drainOut v (max 1 (ceilDiv (n * w) 64)) rs (resFlags rows.flatten))

/-- The runs that an MDRV.RAG gives: one for each column of a row's sequence, and one null run for a row that has none
(R280). -/
def Shape.ragRuns (sh : Shape) (ro co n w : Nat) : Nat :=
  ((List.range n).map fun i => match sh.seqOf (ro + i) with
    | none => 0
    | some j => max 1 ((List.range w).filter fun c => sh.seqOf (co + c) == some j).length).foldl (· + ·) 0

/-- MDRV.RAG. -/
def execMdrvRag (v : BitVec 6) (a : BitVec 3) (r x : BitVec 5) (h f : BitVec 3) (s : State) :
    Host.Outcome State Fault Refusal :=
  let (r0, n, w) := drainFields (s.rs r)
  let (ro, co) := ragOrigins (s.rs x)
  let sh := s.me.shape h
  let window := memberFaults h sh [(ro + r0, ro + r0 + n - 1), (co, co + w - 1)]
  let runs := if window.isEmpty then sh.ragRuns (ro + r0) co n w else 0
  match lowestFault (window ++ s.drainFaults a r0 n ++ if 4096 < runs then [runOverflow runs] else []) with
  | some e => .next (s.raise e)
  | none =>
    let rows := (List.range n).filterMap fun i =>
      (sh.seqOf (ro + r0 + i)).map fun j =>
        s.drainRow f a (r0 + i) ((List.range w).filter fun c => sh.seqOf (co + c) == some j)
    let rs := (rows.map (drainSeg f)).flatten
    .next (s.drainOut v (max 1 (ceilDiv rs.length 64)) rs (resFlags rows.flatten))

/-- Split a range of bytes of a scratchpad at its tiles: tile, offset in the range, length. -/
def tileParts (p n : Nat) : List (Nat × Nat × Nat) :=
  if n == 0 then []
  else (List.range ((p % 2 ^ 64 + n - 1) / 4096 - p % 2 ^ 64 / 4096 + 1)).map fun i =>
    let b := p % 2 ^ 64
    let lo := max b ((b / 4096 + i) * 4096)
    let hi := min (b + n) ((b / 4096 + i + 1) * 4096)
    (tileOf p + i, lo - b, hi - lo)

/-- MDRS: the rows are read and the tiles cleared at issue; each tile is written and set on path AC. -/
def execMdrs (a : BitVec 3) (g : BitVec 2) (b r : BitVec 5) (f : BitVec 3) (s : State) : Host.Outcome State Fault Refusal :=
  let (r0, n, _) := drainFields (s.rs r)
  let size := if f == 0 || f == 5 then 4 else fmtBits f.toNat / 8
  let sa := s.rs b
  let span := n * 128 * size
  match lowestFault (s.drainFaults a r0 n ++ operandFaults sa span .wr) with
  | some e => .next (s.raise e)
  | none =>
    let rows := ((List.range n).map fun i => s.drainRow f a (r0 + i) (List.range 128)).flatten
    let bytes := (rows.map fun e => leBytes size e.1).flatten
    let p := groupPlace s.u g (mxOff sa)
    let fl := resFlags rows
    let parts := tileParts p span
    let s := s.setTiles (parts.map (·.1)) false
    let s := parts.foldl (fun s q => s.fly (s.flight pAC (s.cycle + ceilDiv (q.2.1 + q.2.2) 512) false true
      [(p + q.2.1, q.2.2)] (.drain ((bytes.drop q.2.1).take q.2.2) q.1 fl))) s
    .next (s.issued 1)

/-- MDRS_TILE_RELEASE of flight n: its writes have performed; the last release raises the operation's flags. -/
def execMdrsTileRelease (s : State) : Host.Outcome State Fault Refusal :=
  match s.flights[s.arg.n]? with
  | none => .next s
  | some f =>
    match f.what with
    | .drain _ t fl =>
      if f.writes then .next s
      else
        let s' := (s.dropFlight f).setTile t true
        let more := s'.flights.any fun g => g.unit == f.unit && g.seq == f.seq && g.slot == f.slot && g.issued == f.issued
        .next (if !more && s.current f then s'.modUnit f.unit fun x => x.modSpr (·.flag fl) else s')
    | _ => .next s

/-! ## Adapters (R283 to R285) -/

/-- The base tag of a die and context. -/
def State.btag (s : State) (c : BitVec 3) (d : Nat) : BitVec 16 := Tab.get 0 (s.ctx c.toNat).btag d

/-- MADT. -/
def execMadt (d i a b : BitVec 5) (s : State) : Host.Outcome State Fault Refusal :=
  let si := (s.rs i).toNat
  let id := si % 256
  let rkm1 := si / 256 % 64
  let n := 256 * (rkm1 + 1)
  let die := dieOf s.u
  let c := s.ctxOf s.u
  let far := [s.rs a, s.rs b].find? fun v => v.toNat / 2 ^ 60 != 1
  let r : Except Flt Reach := match far with
    | some v => .error ((prot 4 v).on pMX .rd)
    | none => s.access pMX .rd false 64 [(s.rs a, n), (s.rs b, n)]
  match r with
  | .error f => .next (s.raise f)
  | .ok r =>
    let off := fun (k : Nat) => (r.spans.getD k (0, 0)).1 % 2 ^ 25
    let gen := (adField (s.adapter c die id) 16 8 + 1) % 256
    let e := (s.btag c die).toNat + gen * 2 ^ 16 + rkm1 * 2 ^ 24 + 2 ^ 31 + off 0 * 2 ^ 32 + off 1 * 2 ^ 64
    let s := s.modCtx c.toNat fun x => { x with adapters := Tab.set 0 x.adapters (die * 256 + id) (BitVec.ofNat 128 e) }
    .next ((s.result 9 [(.s (s.ps d), .scalar (BitVec.ofNat 64 gen))] 0).issued 8)

/-- MBASE. -/
def execMbase (a : BitVec 5) (s : State) : Host.Outcome State Fault Refusal :=
  let t : BitVec 16 := (s.rs a).setWidth 16
  let die := dieOf s.u
  let drop := fun (p : Nat × BitVec 128) =>
    if p.1 / 256 == die && p.2.setWidth 16 != t then (p.1, p.2 &&& ~~~(1#128 <<< 31)) else p
  let s := s.modCtx (s.ctxOf s.u).toNat fun x =>
    { x with btag := Tab.set 0 x.btag die t, adapters := (x.adapters.map drop).filter fun p => p.2 != 0 }
  .next (s.issued 8)

/-- The reads of one run of MADP from cycle t (R285): a row of A a cycle, then a row of B a cycle, then a row of activations every two
cycles, the first of them row q of the operand. DESIGN CHOICE (log entry 149): R285 gives the time of a run, 128 + ρ + 2 × cnt, and the model
reads in this order within it. -/
def State.adapterReads (s : State) (e : BitVec 128) (place q cnt t : Nat) : List (Nat × Nat × Nat) :=
  let rho := adField e 24 6 + 1
  let p := fun (k : Nat) => ((s.adapterSpans e).getD k (0, 0)).1
  rowReads 128 (p 0) (2 * rho) (t + ·) ++ rowReads rho (p 1) 256 (t + 128 + ·)
    ++ rowReads cnt (place + 256 * q) 256 (t + 128 + rho + 2 * ·)

/-- The rows that one run of MADP updates, of the stream `id` from its read `first` on. -/
def adapterRows (e : BitVec 128) (id first q cnt : Nat) : List (Nat × RowWork) :=
  (List.range cnt).map fun i => (q + i, ⟨0, [], 0, 0, none, ⟨[], 0, 0, List.replicate 512 0, false⟩, allCells, some 0,
    some (id, .adapter first (adField e 24 6 + 1) i)⟩)

/-- The runs of MADP, each with its adapter, its first row, its count, the cycles before it and the reads before it. -/
def adapterRuns (entry : Nat × Run → BitVec 128) (live : List (Nat × Run)) : List (BitVec 128 × Nat × Nat × Nat × Nat) :=
  (live.foldl (fun (a : List (BitVec 128 × Nat × Nat × Nat × Nat) × Nat × Nat) q =>
    let e := entry q
    let rho := adField e 24 6 + 1
    (a.1 ++ [(e, q.1, q.2.cnt, a.2.1, a.2.2)], a.2.1 + 128 + rho + 2 * q.2.cnt, a.2.2 + 128 + rho + q.2.cnt)) ([], 0, 0)).1

/-- MADP. -/
def execMadp (a : BitVec 3) (g : BitVec 2) (b : BitVec 5) (v : BitVec 6) (p : BitVec 2) (m : BitVec 7) (s : State) :
    Host.Outcome State Fault Refusal :=
  let n := m.toNat + 1
  let sa := s.rs b
  let runs := s.me.vreg v
  let live := (indexed 0 runs).filter fun q => q.2.cnt != 0
  let entry := fun (q : Nat × Run) => s.adapter (s.ctxOf s.u) (dieOf s.u) (q.2.val.toNat % 256)
  let stage2 := (if runsLen runs != n then [lengthMismatch (runsLen runs) n] else [])
    ++ (if s.addReads s.u g then [bankConflict g sa] else [])
    ++ (live.findSome? fun q => s.stale q.2.val).toList
  match lowestFault stage2 with
  | some f => .next (s.raise f)
  | none =>
    let spans := (live.map fun q => s.adapterSpans (entry q)).flatten
    let t := max 1 ((live.map fun q => 128 + (adField (entry q) 24 6 + 1) + 2 * q.2.cnt).sum)
    .next (s.withOperand sa g (n * 256) (spans.findSome? s.homeFault).toList spans fun s =>
      let place := groupPlace s.u g (mxOff sa)
      let runs := adapterRuns entry live
      let rows := (runs.map fun r => adapterRows r.1 s.ids r.2.2.2.2 r.2.1 r.2.2.1).flatten
      let reads := (runs.map fun r => s.adapterReads r.1 place r.2.1 r.2.2.1 (s.cycle + r.2.2.2.1)).flatten
      let x : State := { s with rows := s.rows ++ rows.map fun (r : Nat × RowWork) =>
        (⟨s.u, s.me.task, s.cur.op.seq, s.cur.op.addr, s.cycle, s.cycle + t + 136, a, r.1, r.2⟩ : RowLanding) }
      ((x.beginStream true reads (0, 0)).issued t).holdPorts (.madp a g b v p m) t)

end Sys2Proof.Machine
end

