-- ==== Sys2Proof/Machine/Control.lean ====
section
/-!
DEFINITION. The sequencer's control operations: branches, loops, waits, modes, special registers, TRAP, SYSRET and
RETIRE (R149 to R163, R139, R140, R170, R27, R129).
-/

namespace Sys2Proof.Machine

/-! ## Branches (R159) -/

/-- The step from one bundle of the issuing unit to the next. -/
def State.cstep (s : State) : BitVec 64 := codeStep s.me.stream

/-- The target of a branch offset. -/
def State.target (s : State) (o : BitVec 16) : BitVec 64 := s.cur.op.addr + o.signExtend 64 * s.cstep

/-- A control operation has decided the next bundle and issues. -/
def State.jump (s : State) (t : BitVec 64) : State := (s.goTo t).issued 1

/-- A control operation falls through and issues. -/
def State.fall (s : State) : State := s.fallThrough.issued 1

/-- Branch or fall through. -/
def State.branch (s : State) (taken : Bool) (o : BitVec 16) : State := if taken then s.jump (s.target o) else s.fall

/-- The checks of a register target (R159): alignment on a stream, range and half elsewhere. -/
def State.targetFault (s : State) (t : BitVec 64) : Option Flt :=
  if s.me.stream then (if t.toNat % 32 != 0 then some (align t 32) else none)
  else if t.toNat / 2 ^ 13 != 0 || (t.toNat / 4096 == 1) != s.me.front.half || halfSize s.u ≤ t.toNat % 4096
    then some (prot 0x0D t)
  else none

/-- Jump to a register target. -/
def State.jumpTo (s : State) (t : BitVec 64) : State :=
  match s.targetFault t with
  | some f => s.raise f
  | none => s.jump t

/-- BR. -/
def execBr (o : BitVec 16) (s : State) : Host.Outcome State Fault Refusal := .next (s.branch true o)

/-- BRG: T = 1 branches when the guard is true. -/
def execBrg (g : BitVec 2) (t : BitVec 1) (o : BitVec 16) (s : State) : Host.Outcome State Fault Refusal :=
  .next (s.branch (s.rg g == bit1 t) o)

/-- BRZ. -/
def execBrz (a : BitVec 5) (o : BitVec 16) (s : State) : Host.Outcome State Fault Refusal :=
  .next (s.branch (s.rs a == 0) o)

/-- BRNZ. -/
def execBrnz (a : BitVec 5) (o : BitVec 16) (s : State) : Host.Outcome State Fault Refusal :=
  .next (s.branch (s.rs a != 0) o)

/-- CALL: S15 receives the return address. -/
def execCall (o : BitVec 16) (s : State) : Host.Outcome State Fault Refusal :=
  .next ((s.land 1 (.scalar 15 (s.cur.op.addr + s.cstep) 0)).branch true o)

/-- RET. -/
def execRet (s : State) : Host.Outcome State Fault Refusal := .next (s.jumpTo (s.rs 15))

/-- JMPR. -/
def execJmpr (a : BitVec 5) (s : State) : Host.Outcome State Fault Refusal := .next (s.jumpTo (s.rs a))

/-! ## Loops (R150, R152, R153, R160) -/

/-- A LOOP_STACK fault (R153). -/
def loopFault (sub : Byte) : Flt := Flt.of 0x21 sub 0

/-- LOOP and LOOPR: a count of 0 goes on after END, otherwise a level is pushed. -/
def State.openLoop (s : State) (rot : Bool) (count : Word) (e : BitVec 12) : State :=
  let x := s.me
  let last := s.cur.op.addr + e.setWidth 64 * s.cstep
  if count == 0 then s.jump (last + s.cstep)
  else if 6 ≤ x.front.loops.length then s.raise (loopFault 1)
  else
    let l : Loop := ⟨count, 0, s.cur.op.addr + s.cstep, last, rot⟩
    (s.redirect { x.front with pc := s.cur.op.addr + s.cstep, loops := l :: x.front.loops }).issued 1

/-- A register count: signed, at or below 0 counts as 0, above 2^32 - 1 as 2^32 - 1 (R160). -/
def loopCount (v : BitVec 64) : Word :=
  if v.toInt ≤ 0 then 0 else if 2 ^ 32 ≤ v.toInt then 0xFFFFFFFF else v.setWidth 32

/-- LOOP with an immediate count. -/
def execLoopImm (c e : BitVec 12) (s : State) : Host.Outcome State Fault Refusal :=
  .next (s.openLoop false (c.setWidth 32) e)

/-- LOOP with a register count. -/
def execLoopReg (a : BitVec 5) (e : BitVec 12) (s : State) : Host.Outcome State Fault Refusal :=
  .next (s.openLoop false (loopCount (s.rs a)) e)

/-- LOOPR with an immediate count. -/
def execLooprImm (c e : BitVec 12) (s : State) : Host.Outcome State Fault Refusal :=
  .next (s.openLoop true (c.setWidth 32) e)

/-- LOOPR with a register count. -/
def execLooprReg (a : BitVec 5) (e : BitVec 12) (s : State) : Host.Outcome State Fault Refusal :=
  .next (s.openLoop true (loopCount (s.rs a)) e)

/-- LBRK (R152). -/
def execLbrk (s : State) : Host.Outcome State Fault Refusal :=
  let f := s.me.front
  match f.loops with
  | [] => .next (s.raise (loopFault 2))
  | l :: r => .next ((s.redirect { f with pc := l.last + s.cstep, loops := r }).issued 1)

/-! ## The halves (R154, R155) -/

/-- Whether IMLOADs of earlier bundles into a half have completed: none in flight, none still to issue. -/
def State.imloadsDone (s : State) (u n : Nat) (h : Bool) : Bool :=
  let x := s.unit u
  !(s.xfers.any fun t => t.unit == u && decide (t.seq < n) && t.kind == .imload h && !t.recd)
    && !((x.slot 7).queue.any fun o => decide (o.seq < n) && match o.instr 7 with
      | some (.imload _ _ _) => x.front.half != h
      | _ => false)

/-- Set a half's coherent bit; the half's old contents are gone (R154). -/
def State.setCoherent (s : State) (u : Nat) (h : Bool) (v : Bool) : State :=
  let s := s.modUnit u fun x => x.modSpr fun p =>
    { p with coherent := if h then (if v then p.coherent ||| 2 else p.coherent &&& 1)
                         else (if v then p.coherent ||| 1 else p.coherent &&& 2) }
  if v then
    let lo := codeKey u (if h then 4096 else 0)
    { s with codeOld := s.codeOld.filter fun p => !(lo ≤ p.1 && p.1 < lo + 4096) }
  else s

/-- FENCEI. -/
def execFencei (h : BitVec 1) (s : State) : Host.Outcome State Fault Refusal :=
  if s.imloadsDone s.u s.cur.op.seq (bit1 h) then .next ((s.setCoherent s.u (bit1 h) true).issued 1) else .next s

/-- BRSWAP: PROTECTION 0x0E before LOOP_STACK 0x03, the lower code first (R38). -/
def execBrswap (b : BitVec 12) (s : State) : Host.Outcome State Fault Refusal :=
  let x := s.me
  let other := !x.front.half
  let t := BitVec.ofNat 64 ((if other then 4096 else 0) + b.toNat)
  if !x.spr.coherent.getLsbD (if other then 1 else 0) then .next (s.raise (prot 0x0E t))
  else if !x.front.loops.isEmpty then .next (s.raise (loopFault 3))
  else .next ((s.redirect { x.front with pc := t, half := other }).issued 1)

/-! ## Waits and modes (R156, R162, R72, R82) -/

/-- WAITT: the wait keeps the operand that it began with. -/
def execWaitt (a : BitVec 5) (s : State) : Host.Outcome State Fault Refusal :=
  match (s.me.slot 1).hold with
  | .done _ => .next (s.issued 1)
  | .wait t => if t ≤ (s.timeOf (dieOf s.u)).toNat then .next (s.issued 1) else .next s
  | .none =>
    if (s.rs a).toNat ≤ (s.timeOf (dieOf s.u)).toNat then .next (s.issued 1)
    else .next (s.holding (.wait (s.rs a).toNat))

/-- WAITT_DEADLINE of unit n: package time has reached the operand and sq resumes. -/
def execWaittDeadline (s : State) : Host.Outcome State Fault Refusal :=
  let u := s.arg.n
  let x := s.unit u
  match (x.slot 1).queue, (x.slot 1).hold with
  | o :: _, .wait t =>
    match o.instr 1 with
    | some (.waitt _) =>
      if t ≤ (s.timeOf (dieOf u)).toNat then
        .next (s.modUnit u fun x => x.modSlot 1 fun sl => { sl with hold := .done (BitVec.ofNat 64 t) })
      else .next s
    | _ => .next s
  | _, _ => .next s

/-- Whether every operation of earlier bundles of every slot has issued. -/
def State.earlierIssued (s : State) (u n : Nat) : Bool := (slotsOf u).all fun k => n ≤ (s.unit u).headSeq k

/-- FRAME: its cycle is cycle 0 of the new frame. The issue of its own bundle has begun, and the bundle's other operations go on as they
can. -/
def execFrame (s : State) : Host.Outcome State Fault Refusal :=
  if s.earlierIssued s.u s.cur.op.seq then
    .next ((s.modUnit s.u fun x => (x.modSpr fun p => { p with inv := true, sfc := 0 }).modDisp fun d =>
      { d with moved := true, buns := d.buns.map fun b => { b with missed := false, begun := b.begun || b.seq == s.cur.op.seq } }).issued 1)
  else .next s

/-- FRAME.X: Invar mode ends. -/
def execFrameX (s : State) : Host.Outcome State Fault Refusal :=
  if s.earlierIssued s.u s.cur.op.seq then
    .next ((s.modUnit s.u fun x => x.modSpr fun p => { p with inv := false }).issued 1)
  else .next s

/-- RFMODE: waits for the pending marks of the clusters it gates, up to its own bundle; the mode changes in the next
cycle (R162, R226). -/
def execRfmode (m : BitVec 8) (s : State) : Host.Outcome State Fault Refusal :=
  let x := s.me
  let gates := fun (n : BitVec 6) => x.spr.rfmode.getLsbD (rfCluster n) && !m.getLsbD (rfCluster n)
  let held := x.disp.marks.any fun k => decide (k.1 ≤ s.cur.op.seq) && match k.2.2 with | .v n => gates n | _ => false
  if held then .next s else .next ((s.land 1 (.rfmode m)).issued 1)

/-- SETRM. -/
def execSetrm (m : BitVec 3) (s : State) : Host.Outcome State Fault Refusal := .next ((s.land 1 (.rm m)).issued 1)

/-- SETEFR. -/
def execSetefr (t : BitVec 2) (v : BitVec 16) (s : State) : Host.Outcome State Fault Refusal :=
  .next ((s.land 3 (.efr t v)).issued 1)

/-! ## Special registers (R148, R163) -/

/-- A row that has still to land, landed on a copy of the state; with it the address of the first operation found that
raises a flag. -/
def flagRow (u seq : Nat) (a : State × Option (BitVec 64)) (r : RowLanding) : State × Option (BitVec 64) :=
  if r.unit != u || !(decide (r.seq < seq)) then a
  else
    let w := a.1.resolve r.work
    let x := w.apply (a.1.accRow u r.bank r.row)
    (a.1.write (rowPlace u r.bank r.row) ((x.1.map fun w => leBytes 4 w.toNat).flatten),
      match a.2, w.fl with
      | none, some f => if (f ||| x.2) == 0 then none else some r.addr
      | b, _ => b)

/-- EARLY_READ of FFLAGS, when the trap is in force: an operation of an earlier bundle raises a flag that has still to
land (R50, R171). -/
def State.earlyFlags (s : State) (u seq : Nat) : Option Flt :=
  if !s.glob.earlyTrap then none
  else
    let ls := s.landings.filter fun l => l.unit == u && decide (l.seq < seq)
    let s0 := ls.foldl (fun (t : State) (l : Landing) => match l.what with | .mzero b => t.zeroBank u b | _ => t) s
    let fs := s.flights.filter fun f => f.unit == u && f.task == (s.unit u).task && decide (f.seq < seq) && f.what.raises != 0
    let first := ((ls.filter fun l => l.what.raises != 0).map (·.addr) ++ fs.map (·.addr)).head?
    ((s.rows.foldl (flagRow u seq) (s0, first)).2).map fun b =>
      { Flt.of 0x05 0 (storWord (.sp 0x015)) with info1 := BitVec.ofNat 64 (bundleField false b) }

/-- GETSP. -/
def execGetsp (d : BitVec 5) (p : BitVec 12) (s : State) : Host.Outcome State Fault Refusal :=
  match s.spFault p with
  | some f => .next (s.raise f)
  | none =>
    match if p == 0x015 then s.earlyFlags s.u s.cur.op.seq else none with
    | some f => .next (s.raise f)
    | none => .next ((s.land 1 (.scalar (s.ps d) (s.getSp p) 0)).issued 1)

/-- Whether a value written to PREQ names a core of the controller's cluster (R148). DESIGN CHOICE (log entry 145): the bits above [8:0],
of which R148 says nothing, are part of the identifier. -/
def preqOk (u : Nat) (v : BitVec 64) : Bool := v.toNat < 384 && clusterOf v.toNat == clusterOf u

/-- SETSP: ROTB is a control operation; a write to PREQ is checked; the rest lands a cycle later (R148, R163). -/
def execSetsp (a : BitVec 5) (p : BitVec 12) (s : State) : Host.Outcome State Fault Refusal :=
  let v := s.rs a
  match s.spFault p with
  | some f => .next (s.raise f)
  | none =>
    if p == 0 then
      let x := s.me
      let f := { x.front with rotb := v.setWidth 4 }
      .next ((s.redirect (f.after x.stream s.cur.op.addr)).issued 1)
    else if p == 0x031 && !preqOk s.u v then .next (s.raise (prot 1 v))
    else .next ((s.land 1 (.spr p v)).issued 1)

/-! ## Traps (R139, R140) -/

/-- TRAP raises its fault precisely. -/
def execTrap (n : BitVec 8) (s : State) : Host.Outcome State Fault Refusal :=
  .next (s.raise (Flt.of 0x30 n (n.setWidth 64)))

/-- Whether a unit's results of earlier bundles have landed and arrived. -/
def State.landed (s : State) (u n : Nat) : Bool :=
  !(s.landings.any fun l => l.unit == u && decide (l.seq < n)) && !(s.rows.any fun r => r.unit == u && decide (r.seq < n))
    && !(s.flights.any fun f => f.unit == u && decide (f.seq < n) && !f.parked && f.task == (s.unit u).task)

/-- Whether EPC is no resume point: a SKIP above 16, slot 0, or a bundle above 8,191 (R140). -/
def epcBad (p : BitVec 64) : Bool :=
  let n := p.toNat
  ((List.range 7).any fun j => n / 2 ^ (5 * j) % 32 > 16) || n / 2 ^ 48 % 8 == 0 || n / 2 ^ 51 > 8191

/-- SYSRET and SYSRET.S: refused in user mode; they wait until all that went before has issued and landed. -/
def State.execReturn (s : State) (skipOne : Bool) : State :=
  if !(s.me.spr.sup || s.isSup s.u) then s.raise (prot 7 0)
  else if !(s.earlierIssued s.u s.cur.op.seq && s.landed s.u s.cur.op.seq) then s
  else if epcBad s.me.spr.epc then s.raise (prot 0x0C s.me.spr.epc)
  else (s.sysret s.u skipOne).issued 1

/-- SYSRET. -/
def execSysret (s : State) : Host.Outcome State Fault Refusal := .next (s.execReturn false)

/-- SYSRET.S. -/
def execSysretS (s : State) : Host.Outcome State Fault Refusal := .next (s.execReturn true)

/-! ## Dispatch units and save slots (R26, R34) -/

/-- Whether a group's cluster set includes a cluster. -/
def Group.includes (g : Group) (c : Nat) : Bool := g.clset.getLsbD c

/-- The dispatch units of a group in ascending rank, each by its first core. -/
def Group.units (g : Group) : List Nat :=
  (((List.range 96).filter g.includes).map fun c => if g.cluster then [4 * c] else coresOf c).flatten

/-- The dispatch unit of a group that a core belongs to. -/
def Group.unitOf (g : Group) (u : Nat) : Nat := if g.cluster then u / 4 * 4 else u

/-- The rank of a dispatch unit among the units of its group's set (R34). -/
def Group.rank (g : Group) (u : Nat) : Nat := g.units.findIdx (· == g.unitOf u)

/-- The address and size of a core's part of its task's save slot (R34, R142). -/
def Group.slot (g : Group) (u : Nat) : BitVec 64 × Nat :=
  let n := g.stride.toNat
  let base := g.saveBase + BitVec.ofNat 64 (n * g.rank u)
  if g.cluster then (base + BitVec.ofNat 64 (n / 4 * (u % 4)), n / 4) else (base, n)

/-- A task whose cores have all saved or retired leaves its dispatch unit (R33). -/
def State.freeTask (s : State) (u : Nat) (t : Task) : State :=
  let us := taskUnits u t
  let done := fun (v : Nat) => let x := s.unit v
    x.disp.closed || (match x.task with | some y => y.retired | none => false)
  if us.all done then
    us.foldl (fun s v => s.modUnit v fun x =>
      match x.task with
      | none => x
      | some y =>
        let a := match s.groupOf t with | some g => (g.slot v).1 | none => 0
        { x.halt v with saved := x.saved ++ [(y, a)], freed := some y }) s
  else s

/-! ## RETIRE (R27, R29, R30, R129, R161) -/

/-- Whether a unit has drained: nothing of its task is still to land, to perform or to complete and no register is pending, parked
requests and what of a collective call is not pending in a register apart (R32, R129, R333). -/
def State.drained (s : State) (u : Nat) : Bool :=
  let t := (s.unit u).task
  !(s.landings.any fun l => l.unit == u) && !(s.rows.any fun r => r.unit == u) && (s.unit u).eng.load.isNone
    && (s.unit u).disp.marks.isEmpty && !(s.flights.any fun f => f.unit == u && f.task == t && !f.parked)
    && !(s.xfers.any fun x => x.unit == u && x.task == t && s.xferOpen x)

/-- A task retirement event (R216). -/
def retireEvent (g : Group) (t : Task) (u : Nat) : Event :=
  ⟨BitVec.ofNat 64 (t.index.toNat + g.tag.toNat * 2 ^ 32 + 4 * 2 ^ 60), BitVec.ofNat 64 (u * 2 ^ 55)⟩

/-- The end of a task on its units: its event, its group's count, the units free (R27, R29). -/
def State.endTask (s : State) (u : Nat) (t : Task) : State :=
  let s := match s.groupOf t with
    | none => s
    | some g =>
      let s := if g.tev then s.postEvent g.ctl (retireEvent g t u) else s
      s.retireTask g t.index false
  (taskUnits u t).foldl (fun s v => s.modUnit v fun x => { x.halt v with freed := none }) s

/-- Whether the events that the end of a task would post find room (R30). DESIGN CHOICE (log entry 132): a RETIRE that completes its
group waits until both its retirement event and the group's event find room. -/
def State.retireRoom (s : State) (t : Task) : Bool :=
  match s.groupOf t with
  | none => true
  | some g =>
    let done := s.gword g 24 + 1 == s.gword g 32 && g.growing == 0
    (s.unit g.ctl).events.length + (if g.tev then 1 else 0) + (if done then 1 else 0) ≤ 256

/-- RETIRE. -/
def execRetire (s : State) : Host.Outcome State Fault Refusal :=
  let u := s.u
  let x := s.me
  let issuedAll := (slotsOf u).all fun k => k == 1 || s.cur.op.seq < x.headSeq k
  if !(issuedAll && s.drained u) then .next s
  else if isCtl u then .next (s.stopCtl u s.cur.op.addr)
  else match x.task with
    | none => .next (s.modUnit u fun x => x.halt u)
    | some t =>
      let others := (taskUnits u t).filter (· != u)
      if others.all fun v => match (s.unit v).task with | some y => y.retired | none => true then
        if s.retireRoom t then .next (s.endTask u t) else .next s
      else
        let s := s.modUnit u fun x => { x.halt u with task := some { t with retired := true } }
        .next (s.freeTask u t)

end Sys2Proof.Machine
end

