-- ==== Sys2Proof/Machine/Integer.lean ====
section
/-!
DEFINITION. Integer, compare, guard and immediate instructions of sq (R164 to R166), with the latencies of R157.
-/

namespace Sys2Proof.Machine

/-- An sq operation writes a scalar `lat` cycles on, with flags, and issues. -/
def State.scalarOut (s : State) (lat : Nat) (d : BitVec 5) (v : BitVec 64) (f : Flags) : State :=
  (s.land lat (.scalar (s.ps d) v f)).issued 1

/-- An sq operation writes a guard `lat` cycles on, with flags, and issues. -/
def State.guardOut (s : State) (lat : Nat) (g : BitVec 2) (b : Bool) (f : Flags) : State :=
  (s.land lat (.guard g b f)).issued 1

/-- The high 64 bits of a product (R164). -/
def mulHigh (uns : Bool) (a b : BitVec 64) : BitVec 64 :=
  if uns then BitVec.ofNat 64 (a.toNat * b.toNat / 2 ^ 64) else BitVec.ofInt 64 (a.toInt * b.toInt / 2 ^ 64)

/-- Division (R164): by zero all ones; the most negative number by -1 is itself. -/
def divide (uns : Bool) (a b : BitVec 64) : BitVec 64 :=
  if b == 0 then BitVec.allOnes 64
  else if uns then BitVec.ofNat 64 (a.toNat / b.toNat) else BitVec.ofInt 64 (a.toInt.tdiv b.toInt)

/-- Signed or unsigned order. -/
def lower (uns : Bool) (a b : BitVec 64) : Bool := if uns then a.ult b else a.slt b

/-- Leading zeros (R164). -/
def leadingZeros (a : BitVec 64) : Nat := if a == 0 then 64 else 63 - Nat.log2 a.toNat

/-- Set bits (R164). -/
def popCount (a : BitVec 64) : Nat := (List.range 64).countP fun i => a.getLsbD i

/-- The compares of CMP and CMPI (R165). -/
def intCompare (c : BitVec 3) (a b : BitVec 64) : Bool :=
  match c.toNat with
  | 0 => a == b
  | 1 => a != b
  | 2 => a.slt b
  | 3 => !a.slt b
  | 4 => a.ult b
  | _ => !a.ult b

/-- A bit field of `w` bits at `p` (R166). -/
def bitField (a : BitVec 64) (p w : Nat) : Nat := a.toNat / 2 ^ p % 2 ^ w

/-- BFX (R166). -/
def extractField (a : BitVec 64) (sgn : Bool) (p w : Nat) : BitVec 64 :=
  let f := bitField a p w
  if sgn && 2 ^ (w - 1) ≤ f then BitVec.ofInt 64 ((f : Int) - 2 ^ w) else BitVec.ofNat 64 f

/-- BFI (R166): bits [p+w-1:p] of `d` replaced by the low bits of `a`. -/
def insertField (d a : BitVec 64) (p w : Nat) : BitVec 64 :=
  BitVec.ofNat 64 (d.toNat - bitField d p w * 2 ^ p + a.toNat % 2 ^ w * 2 ^ p)

/-- ADD. -/
def execAdd (d a b : BitVec 5) (s : State) : Host.Outcome State Fault Refusal :=
  .next (s.scalarOut 1 d (s.rs a + s.rs b) 0)

/-- ADDI. -/
def execAddi (d a : BitVec 5) (i : BitVec 15) (s : State) : Host.Outcome State Fault Refusal :=
  .next (s.scalarOut 1 d (s.rs a + i.signExtend 64) 0)

/-- SUB. -/
def execSub (d a b : BitVec 5) (s : State) : Host.Outcome State Fault Refusal :=
  .next (s.scalarOut 1 d (s.rs a - s.rs b) 0)

/-- MUL. -/
def execMul (d a b : BitVec 5) (s : State) : Host.Outcome State Fault Refusal :=
  .next (s.scalarOut 3 d (s.rs a * s.rs b) 0)

/-- MULH. -/
def execMulh (d a b : BitVec 5) (u : BitVec 1) (s : State) : Host.Outcome State Fault Refusal :=
  .next (s.scalarOut 3 d (mulHigh (bit1 u) (s.rs a) (s.rs b)) 0)

/-- DIV. -/
def execDiv (d a b : BitVec 5) (u : BitVec 1) (s : State) : Host.Outcome State Fault Refusal :=
  .next (s.scalarOut 20 d (divide (bit1 u) (s.rs a) (s.rs b)) 0)

/-- AND. -/
def execAnd (d a b : BitVec 5) (s : State) : Host.Outcome State Fault Refusal :=
  .next (s.scalarOut 1 d (s.rs a &&& s.rs b) 0)

/-- OR. -/
def execOr (d a b : BitVec 5) (s : State) : Host.Outcome State Fault Refusal :=
  .next (s.scalarOut 1 d (s.rs a ||| s.rs b) 0)

/-- XOR. -/
def execXor (d a b : BitVec 5) (s : State) : Host.Outcome State Fault Refusal :=
  .next (s.scalarOut 1 d (s.rs a ^^^ s.rs b) 0)

/-- SHL by a register. -/
def execShlReg (d a b : BitVec 5) (s : State) : Host.Outcome State Fault Refusal :=
  .next (s.scalarOut 1 d (s.rs a <<< ((s.rs b).toNat % 64)) 0)

/-- SHL by an immediate. -/
def execShlImm (d a : BitVec 5) (i : BitVec 6) (s : State) : Host.Outcome State Fault Refusal :=
  .next (s.scalarOut 1 d (s.rs a <<< i.toNat) 0)

/-- SHR by a register. -/
def execShrReg (d a b : BitVec 5) (s : State) : Host.Outcome State Fault Refusal :=
  .next (s.scalarOut 1 d (s.rs a >>> ((s.rs b).toNat % 64)) 0)

/-- SHR by an immediate. -/
def execShrImm (d a : BitVec 5) (i : BitVec 6) (s : State) : Host.Outcome State Fault Refusal :=
  .next (s.scalarOut 1 d (s.rs a >>> i.toNat) 0)

/-- SAR by a register. -/
def execSarReg (d a b : BitVec 5) (s : State) : Host.Outcome State Fault Refusal :=
  .next (s.scalarOut 1 d ((s.rs a).sshiftRight ((s.rs b).toNat % 64)) 0)

/-- SAR by an immediate. -/
def execSarImm (d a : BitVec 5) (i : BitVec 6) (s : State) : Host.Outcome State Fault Refusal :=
  .next (s.scalarOut 1 d ((s.rs a).sshiftRight i.toNat) 0)

/-- ROTL by a register. -/
def execRotlReg (d a b : BitVec 5) (s : State) : Host.Outcome State Fault Refusal :=
  .next (s.scalarOut 1 d ((s.rs a).rotateLeft ((s.rs b).toNat % 64)) 0)

/-- ROTL by an immediate. -/
def execRotlImm (d a : BitVec 5) (i : BitVec 6) (s : State) : Host.Outcome State Fault Refusal :=
  .next (s.scalarOut 1 d ((s.rs a).rotateLeft i.toNat) 0)

/-- MIN. -/
def execMin (d a b : BitVec 5) (u : BitVec 1) (s : State) : Host.Outcome State Fault Refusal :=
  .next (s.scalarOut 1 d (if lower (bit1 u) (s.rs b) (s.rs a) then s.rs b else s.rs a) 0)

/-- MAX. -/
def execMax (d a b : BitVec 5) (u : BitVec 1) (s : State) : Host.Outcome State Fault Refusal :=
  .next (s.scalarOut 1 d (if lower (bit1 u) (s.rs a) (s.rs b) then s.rs b else s.rs a) 0)

/-- CMP. -/
def execCmp (c : BitVec 3) (g : BitVec 2) (a b : BitVec 5) (s : State) : Host.Outcome State Fault Refusal :=
  .next (s.guardOut 1 g (intCompare c (s.rs a) (s.rs b)) 0)

/-- CMPI. -/
def execCmpi (c : BitVec 3) (g : BitVec 2) (a : BitVec 5) (i : BitVec 15) (s : State) :
    Host.Outcome State Fault Refusal :=
  .next (s.guardOut 1 g (intCompare c (s.rs a) (i.signExtend 64)) 0)

/-- SEL. -/
def execSel (d a b : BitVec 5) (g : BitVec 2) (s : State) : Host.Outcome State Fault Refusal :=
  .next (s.scalarOut 1 d (if s.rg g then s.rs a else s.rs b) 0)

/-- CLZ. -/
def execClz (d a : BitVec 5) (s : State) : Host.Outcome State Fault Refusal :=
  .next (s.scalarOut 1 d (BitVec.ofNat 64 (leadingZeros (s.rs a))) 0)

/-- POPC. -/
def execPopc (d a : BitVec 5) (s : State) : Host.Outcome State Fault Refusal :=
  .next (s.scalarOut 1 d (BitVec.ofNat 64 (popCount (s.rs a))) 0)

/-- BFX. -/
def execBfx (d a : BitVec 5) (x : BitVec 1) (p w : BitVec 6) (s : State) : Host.Outcome State Fault Refusal :=
  .next (s.scalarOut 1 d (extractField (s.rs a) (bit1 x) p.toNat (w.toNat + 1)) 0)

/-- BFI. -/
def execBfi (d a : BitVec 5) (p w : BitVec 6) (s : State) : Host.Outcome State Fault Refusal :=
  .next (s.scalarOut 1 d (insertField (s.rs d) (s.rs a) p.toNat (w.toNat + 1)) 0)

/-- MOVG to a scalar. -/
def execMovgToScalar (d : BitVec 5) (g : BitVec 2) (s : State) : Host.Outcome State Fault Refusal :=
  .next (s.scalarOut 1 d (if s.rg g then 1 else 0) 0)

/-- MOVG to a guard. -/
def execMovgToGuard (a : BitVec 5) (g : BitVec 2) (s : State) : Host.Outcome State Fault Refusal :=
  .next (s.guardOut 1 g (s.rs a != 0) 0)

/-- LI. -/
def execLi (d : BitVec 5) (i : BitVec 20) (s : State) : Host.Outcome State Fault Refusal :=
  .next (s.scalarOut 1 d (i.signExtend 64) 0)

/-- LIH. -/
def execLih (d : BitVec 5) (p : BitVec 2) (i : BitVec 16) (s : State) : Host.Outcome State Fault Refusal :=
  .next (s.scalarOut 1 d (insertField (s.rs d) (i.setWidth 64) (16 * p.toNat) 16) 0)

end Sys2Proof.Machine
end

