-- ==== Sys2Proof/Machine/Float.lean ====
section
/-!
DEFINITION. FP32 instructions of sq (R167 to R169).
-/

namespace Sys2Proof.Machine

/-- The noise of a scalar operation that rounds under SR (R74, R167): its bundle, LIDXI, its task. DESIGN CHOICE (log entry 139): c0
of an operation that a controller fetches from a stream is the low 32 bits of its address. -/
def State.scalarNoise (s : State) : Nat :=
  let x := s.me
  let ix : Word := match s.cur.op.loops with | l :: _ => l.index | [] => 0
  let task : Word := match x.task with | some t => t.index | none => 0xFFFFFFFF
  if x.spr.rm == 5 then noise x.spr.srseed (s.cur.op.addr.setWidth 32) ix task 0x80000000 else 0

/-- An FP32 result: zero-extended into the destination, flags ORed as it lands. -/
def State.floatOut (s : State) (lat : Nat) (d : BitVec 5) (r : Res) : State :=
  s.scalarOut lat d (BitVec.ofNat 64 (r.1 % 2 ^ 32)) r.2

/-- RM as sampled at issue. -/
def State.rm (s : State) : BitVec 3 := s.me.spr.rm

/-- FADD. -/
def execFadd (d a b : BitVec 5) (s : State) : Host.Outcome State Fault Refusal :=
  .next (s.floatOut 4 d (addF s.rm s.scalarNoise (s.rf a) (s.rf b)))

/-- FSUB. -/
def execFsub (d a b : BitVec 5) (s : State) : Host.Outcome State Fault Refusal :=
  .next (s.floatOut 4 d (subF s.rm s.scalarNoise (s.rf a) (s.rf b)))

/-- FMUL. -/
def execFmul (d a b : BitVec 5) (s : State) : Host.Outcome State Fault Refusal :=
  .next (s.floatOut 5 d (mulF s.rm s.scalarNoise (s.rf a) (s.rf b)))

/-- FFMA. -/
def execFfma (d a b c : BitVec 5) (s : State) : Host.Outcome State Fault Refusal :=
  .next (s.floatOut 5 d (fmaF s.rm s.scalarNoise (s.rf a) (s.rf b) (s.rf c)))

/-- FMIN. -/
def execFmin (d a b : BitVec 5) (s : State) : Host.Outcome State Fault Refusal :=
  let r := minmaxF false (s.rf a) (s.rf b)
  .next (s.floatOut 2 d (bits32 r.1, r.2))

/-- FMAX. -/
def execFmax (d a b : BitVec 5) (s : State) : Host.Outcome State Fault Refusal :=
  let r := minmaxF true (s.rf a) (s.rf b)
  .next (s.floatOut 2 d (bits32 r.1, r.2))

/-- The compare of FCMP's code: EQ NE LT LE UN (R168). -/
def fcmpCode (c : BitVec 3) : Nat := if c == 4 then 6 else c.toNat

/-- FCMP. -/
def execFcmp (c : BitVec 3) (g : BitVec 2) (a b : BitVec 5) (s : State) : Host.Outcome State Fault Refusal :=
  let r := cmpF (fcmpCode c) (s.rf a) (s.rf b)
  .next (s.guardOut 2 g r.1 r.2)

/-- FCVT's conversions by CV (R168): the 64 bits written and the flags. -/
def convert (v : BitVec 5) (rm : BitVec 3) (n : Nat) (a : BitVec 64) : BitVec 64 × Flags :=
  let f := decodeF fp32 (a.toNat % 2 ^ 32)
  let out := fun (r : Res) => (BitVec.ofNat 64 r.1, r.2)
  let int := fun (r : Int × Flags) => (BitVec.ofInt 64 r.1, r.2)
  let widen := fun (m : Fmt) (w : Nat) => out (roundF fp32 0 0 (decodeF m (a.toNat % 2 ^ w)))
  match v.toNat with
  | 0x01 => int (toInt rm n (-2 ^ 31) (2 ^ 31 - 1) f)
  | 0x02 => int (toInt rm n 0 (2 ^ 32 - 1) f)
  | 0x03 => int (toInt rm n (-2 ^ 63) (2 ^ 63 - 1) f)
  | 0x04 => out (roundF fp32 rm n (ofInt (a.setWidth 32).toInt))
  | 0x05 => out (roundF fp32 rm n (ofInt (a.setWidth 32).toNat))
  | 0x06 => out (roundF fp32 rm n (ofInt a.toInt))
  | 0x07 => out (roundF bf16 rm n f)
  | 0x08 => out (roundF fp16 rm n f)
  | 0x09 => widen bf16 16
  | 0x0A => widen fp16 16
  | 0x0B => out (roundF e4m3 rm n f)
  | 0x0C => out (roundF e5m2 rm n f)
  | 0x0D => widen e4m3 8
  | _ => widen e5m2 8

/-- FCVT. -/
def execFcvt (d a v : BitVec 5) (s : State) : Host.Outcome State Fault Refusal :=
  let r := convert v s.rm s.scalarNoise (s.rs a)
  .next (s.scalarOut 3 d r.1 r.2)

/-- FRCP. -/
def execFrcp (d a : BitVec 5) (s : State) : Host.Outcome State Fault Refusal :=
  .next (s.floatOut 8 d (rcpF s.rm s.scalarNoise (s.rf a)))

/-- FRSQ. -/
def execFrsq (d a : BitVec 5) (s : State) : Host.Outcome State Fault Refusal :=
  .next (s.floatOut 8 d (rsqF s.rm s.scalarNoise (s.rf a)))

/-- FEXP2. -/
def execFexp2 (d a : BitVec 5) (s : State) : Host.Outcome State Fault Refusal :=
  .next (s.floatOut 10 d (exp2F (s.rf a)))

/-- FLOG2. -/
def execFlog2 (d a : BitVec 5) (s : State) : Host.Outcome State Fault Refusal :=
  .next (s.floatOut 10 d (log2F (s.rf a)))

end Sys2Proof.Machine
end

