-- ==== Sys2Proof/Machine/Runs.lean ====
section
/-!
DEFINITION. Run lists as the vector engine works on them: alignment (R228), segments (R222, R253), restructuring (R245 to
R254), reductions and prefix sums (R255, R256), integer exponents (R257 to R259).
-/

namespace Sys2Proof.Machine

/-! ## Alignment (R228) -/

/-- A piece of aligned operands: its position, length (0 for a null run), B, and the operands' values. -/
structure Piece where
  pos : Nat
  len : Nat
  b : Bool
  vals : List Word
deriving DecidableEq, Repr

/-- How many null runs stand at the head of a list. -/
def nullsAt (rs : List Run) : Nat :=
  match rs with
  | [] => 0
  | r :: t => if r.cnt == 0 then nullsAt t + 1 else 0

/-- A list without the null runs at its head. -/
def dropNulls (rs : List Run) : List Run :=
  match rs with
  | [] => []
  | r :: t => if r.cnt == 0 then dropNulls t else r :: t

/-- A list less its first n elements; what is left of a run carries no B. -/
def consume (n : Nat) (rs : List Run) : List Run :=
  match rs with
  | [] => []
  | r :: t => if r.cnt ≤ n then t else { r with cnt := r.cnt - n, b := false } :: t

/-- Align operands from a position on. -/
def alignFrom (fuel pos : Nat) (ops : List (List Run)) : List Piece :=
  match fuel with
  | 0 => []
  | k + 1 =>
    let z := (ops.map nullsAt).foldl max 0
    let nulls := List.replicate z (⟨pos, 0, true, []⟩ : Piece)
    let ops := ops.map dropNulls
    let heads := ops.filterMap List.head?
    match heads with
    | [] => nulls
    | h :: t =>
      let n := t.foldl (fun m r => min m r.cnt) h.cnt
      nulls ++ ⟨pos, n, pos == 0 || heads.any (·.b), heads.map (·.val)⟩ :: alignFrom k (pos + n) (ops.map (consume n))

/-- Align operands of one length. -/
def alignRuns (ops : List (List Run)) : List Piece := alignFrom ((ops.map List.length).sum + 1) 0 ops

/-- The first two lengths that disagree. -/
def mismatch (ops : List (List Run)) : Option (Nat × Nat) :=
  match ops.map runsLen with
  | [] => none
  | n :: t => (t.find? fun m => m != n).map fun m => (n, m)

/-- The runs of a list of pieces under a function of position and values, and its flags. -/
def mapPieces (f : Nat → List Word → Word × Flags) (ps : List Piece) : List Run × Flags :=
  ps.foldr (fun p acc =>
    if p.len == 0 then (nullRun :: acc.1, acc.2)
    else let r := f p.pos p.vals; (⟨r.1, p.len, p.b⟩ :: acc.1, r.2 ||| acc.2)) ([], 0)

/-! ## Segments (R5, R222, R253) -/

/-- Cut a list before every entry that begins a segment. -/
def segmentsBy {α : Type} (b : α → Bool) (xs : List α) : List (List α) :=
  xs.foldr (fun x acc => match acc with
    | [] => [[x]]
    | g :: t => match g with
      | y :: _ => if b y then [x] :: g :: t else (x :: g) :: t
      | [] => [x] :: t) []

/-- The segments of a register. -/
def segmentsOf (rs : List Run) : List (List Run) := segmentsBy (·.b) rs

/-- The values that a per-segment operand supplies, with the default for empty segments (R253). -/
def segValues (dflt : Word) (rs : List Run) : List Word :=
  (segmentsOf rs).map fun g => match g with
    | r :: _ => if r.cnt == 0 then dflt else r.val
    | [] => dflt

/-! ## Restructuring (R245 to R254) -/

/-- VCOAL (R245). -/
def coalesce (z : Bool) (rs : List Run) : List Run :=
  let zero := fun (v : Word) => v == 0 || v == 0x80000000
  (rs.foldl (fun (out : List Run) x => match out with
    | [] => [x]
    | l :: t =>
      if !x.b && x.cnt != 0 && l.cnt != 0 && (x.val == l.val || (z && zero x.val && zero l.val)) then
        { l with cnt := l.cnt + x.cnt } :: t
      else x :: out) []).reverse

/-- VSLICE: elements s to s + n - 1 (R249). -/
def sliceRuns (s n : Nat) (rs : List Run) : List Run :=
  let len := runsLen rs
  firstB ((indexed 0 rs).filterMap fun p =>
    if p.2.cnt == 0 then
      if (s ≤ p.1 && p.1 < s + n) || (p.1 == s + n && s + n == len) then some p.2 else none
    else
      let lo := max s p.1
      let hi := min (s + n) (p.1 + p.2.cnt)
      if lo < hi then some { p.2 with cnt := hi - lo, b := p.2.b && lo == p.1 } else none)

/-- The element at a logical index. -/
def elementAt (rs : List Run) (k : Nat) : Option Word :=
  match rs with
  | [] => none
  | r :: t => if k < r.cnt then some r.val else elementAt t (k - r.cnt)

/-- Marked positions of a mask (R252). -/
def marksIn (m : List Run) : List Nat :=
  (indexed 0 m).filterMap fun p => if p.1 != 0 && p.2.cnt != 0 && p.2.val == 1 then some p.1 else none

/-- A mask without null runs and B bits (R252, R255). -/
def bareMask (m : List Run) : List Run := (m.filter (·.cnt != 0)).map fun r => { r with b := false }

/-- Split a run at positions inside it; each later piece begins a segment. -/
def splitAt (ps : List Nat) (pos : Nat) (r : Run) : List Run :=
  match ps with
  | [] => [r]
  | p :: t =>
    if pos < p && p < pos + r.cnt then
      { r with cnt := p - pos } :: splitAt t p { r with cnt := r.cnt - (p - pos), b := true }
    else splitAt t pos r

/-- VSEGSET (R252). -/
def segSet (ps : List Nat) (rs : List Run) : List Run :=
  ((indexed 0 rs).map fun p =>
    if p.2.cnt == 0 then [p.2] else splitAt ps p.1 { p.2 with b := p.2.b || ps.contains p.1 }).flatten

/-- VSEGCLR with a mask (R252). -/
def segClear (ps : List Nat) (rs : List Run) : List Run :=
  (indexed 0 rs).filterMap fun p =>
    if ps.contains p.1 then (if p.2.cnt == 0 then none else some { p.2 with b := false }) else some p.2

/-- VSEGCLR without a mask (R252). -/
def segClearAll (rs : List Run) : List Run :=
  let out := firstB ((rs.filter (·.cnt != 0)).map fun r => { r with b := false })
  if out.isEmpty && !rs.isEmpty then [nullRun] else out

/-- VSPREAD (R254). -/
def spreadRuns (vals : List Word) (structure' : List Run) : List Run :=
  ((segmentsOf structure').zip vals).map fun p => if runsLen p.1 == 0 then nullRun else ⟨p.2, runsLen p.1, true⟩

/-- VIOTA.SEG (R248). -/
def iotaSegs (rs : List Run) : List Run :=
  ((segmentsOf rs).map fun g =>
    if runsLen g == 0 then g
    else (List.range (runsLen g)).map fun i => (⟨BitVec.ofNat 32 i, 1, i == 0⟩ : Run)).flatten

/-! ## Reductions (R86, R255 to R257) -/

/-- A value counted c times. -/
def timesV (c : Nat) (x : FV) : FV := match x with | .num n m e => .num n (m * c) e | _ => x

/-- The square of a value; a NaN stays itself. -/
def squareV (x : FV) : FV :=
  match x with
  | .nan n s p => .nan n s p
  | .inf _ => .inf false
  | .num _ m e => .num false (m * m) (2 * e)

/-- The pieces of a source cut by a mask, if there is one: segments, B and null runs are the source's alone (R255). -/
def maskedPieces (rs : List Run) (m : Option (List Run)) : List Piece :=
  match m with
  | some m => alignRuns [rs, bareMask m]
  | none => alignRuns [rs]

/-- Whether a piece is included. -/
def Piece.included (p : Piece) : Bool := p.len != 0 && p.vals.getD 1 1 == 1

/-- A piece's first value. -/
def Piece.fv (p : Piece) : FV := decodeF fp32 (p.vals.headD 0).toNat

/-- Which reduction. -/
inductive Redn where
  | sum
  | ssq
  | max
  | min
deriving DecidableEq, Repr

/-- The reduction of the included pieces of a segment (R255). -/
def Redn.of (k : Redn) (rm : BitVec 3) (v : Nat) (ps : List Piece) : Word × Flags :=
  let ps := ps.filter (·.included)
  let out := fun (r : Res) => (BitVec.ofNat 32 r.1, r.2)
  match k with
  | .sum => out (roundSum fp32 rm v (ps.map fun p => timesV p.len p.fv))
  | .ssq => out (roundSum fp32 rm v (ps.map fun p => timesV p.len (squareV p.fv)))
  | .max => match ps with
    | [] => (0xFF800000, 0)
    | p :: t =>
      let r := t.foldl (fun (a : FV × Flags) q => let m := minmaxF true a.1 q.fv; (m.1, a.2 ||| m.2)) (p.fv, 0)
      out (roundF fp32 0 0 r.1 |>.1, r.2 ||| (if anySnan (ps.map (·.fv)) then fNV else 0))
  | .min => match ps with
    | [] => (0x7F800000, 0)
    | p :: t =>
      let r := t.foldl (fun (a : FV × Flags) q => let m := minmaxF false a.1 q.fv; (m.1, a.2 ||| m.2)) (p.fv, 0)
      out (roundF fp32 0 0 r.1 |>.1, r.2 ||| (if anySnan (ps.map (·.fv)) then fNV else 0))

/-- Reduce each segment: a count-1 run for a non-empty one, the null run of an empty one; `f` takes the logical index of
the result and the pieces. -/
def reduceSegs (f : Nat → List Piece → Word × Flags) (ix : Nat) (gs : List (List Piece)) : List Run × Flags :=
  match gs with
  | [] => ([], 0)
  | g :: t =>
    if g.all (·.len == 0) then let r := reduceSegs f ix t; (nullRun :: r.1, r.2)
    else
      let y := f ix g
      let r := reduceSegs f (ix + 1) t
      (⟨y.1, 1, true⟩ :: r.1, y.2 ||| r.2)

/-- VSCAN: prefix sums of the pieces of a segment (R256); `acc` holds the addends so far, newest first. -/
def scanSeg (rm : BitVec 3) (nz : Nat → Nat) (x : Bool) (acc : List FV) (ps : List Piece) : List Run × Flags :=
  match ps with
  | [] => ([], 0)
  | p :: t =>
    if p.len == 0 then let r := scanSeg rm nz x acc t; (nullRun :: r.1, r.2)
    else
      let u := if p.included then p.fv else .num false 0 0
      let one := isZero true u || isZero false u || p.len == 1
      let n := if one then 1 else p.len
      let k := if one then p.len else 1
      let outs := (List.range n).map fun j =>
        let a := List.replicate (if x then j else j + 1) (timesV k u) ++ acc
        let r := roundSum fp32 rm (nz (p.pos + j)) a.reverse
        ((⟨BitVec.ofNat 32 r.1, k, p.b && j == 0⟩ : Run), r.2)
      let r := scanSeg rm nz x (List.replicate n (timesV k u) ++ acc) t
      (outs.map (·.1) ++ r.1, outs.foldl (fun f o => f ||| o.2) r.2)

/-- How many runs VSCAN writes. -/
def scanCount (ps : List Piece) : Nat :=
  (ps.map fun p => if p.len == 0 then 1
    else if !p.included || isZero true p.fv || isZero false p.fv then 1 else p.len).sum

/-- The ceiling of a finite value. -/
def ceilV (n : Bool) (m : Nat) (e : Int) : Int :=
  let i : Int := if n then -(m : Int) else m
  if 0 ≤ e then i * (2 : Int) ^ e.toNat else -((-i) / (2 : Int) ^ (-e).toNat)

/-- VMAXK: the integer exponent of a segment's maximum (R257). -/
def maxK (ps : List Piece) : Word × Flags :=
  let r := Redn.of .max 0 0 ps
  let k : Int := match decodeF fp32 r.1.toNat with
    | .nan .. => 2 ^ 31 - 1
    | .inf n => if n then -(2 ^ 31) else 2 ^ 31 - 1
    | .num n m e => max (-(2 ^ 31)) (min (2 ^ 31 - 1) (ceilV n m e))
  (BitVec.ofInt 32 k, r.2)

/-- VEXPK: 2^(y - K) (R258). -/
def expK (y : FV) (k : Int) : Res :=
  match y with
  | .nan .. => roundF fp32 0 0 y
  | .inf n => (if n then 0 else infBits fp32 false, 0)
  | .num n m e =>
    let i : Int := if n then -(m : Int) else m
    if 0 ≤ e then exp2Dy (i * (2 : Int) ^ e.toNat - k) 0 else exp2Dy (i - k * (2 : Int) ^ (-e).toNat) e

end Sys2Proof.Machine
end

