-- ==== Sys2Proof/Machine/Vector.lean ====
section
/-!
DEFINITION. The vector instructions of va and vb (R233 to R260).
-/

namespace Sys2Proof.Machine

/-! ## Issue (R227, R230, R231) -/

/-- A vector operation with piece count q writes its destination: present c + 3 cycles on (R231). -/
def State.vecDone (s : State) (w : BitVec 2) (i : Instr) (q : Nat) (d : Stor) (v : Val) (fl : Flags) : State :=
  let c := max 1 (ceilDiv q (lanes w))
  ((s.result (c + 3) [(d, v)] fl).issued c).holdPorts i c

/-- A vector operation writes runs, unless they are more than 4,096 (R230). -/
def State.vecOut (s : State) (w : BitVec 2) (i : Instr) (q : Nat) (d : Stor) (rs : List Run) (fl : Flags) : State :=
  if 4096 < rs.length then s.raise (runOverflow rs.length) else s.vecDone w i q d (.runs rs) fl

/-- An element-wise operation on operands of one length (R228, R229). -/
def State.elementwise (s : State) (w : BitVec 2) (i : Instr) (d : Stor) (ops : List (List Run))
    (f : Nat → List Word → Word × Flags) : State :=
  match mismatch ops with
  | some p => s.raise (lengthMismatch p.1 p.2)
  | none =>
    let ps := alignRuns ops
    if 4096 < ps.length then s.raise (runOverflow ps.length)
    else let r := mapPieces f ps; s.vecDone w i ps.length d (.runs r.1) r.2

/-- The noise of a vector result at a logical index (R74). -/
def State.vecNoise (s : State) (pos : Nat) : Nat :=
  if s.me.spr.rm == 5 then noise s.me.spr.srseed (BitVec.ofNat 32 pos) 0 0 0 else 0

/-- The low word of a scalar operand (R234). -/
def State.rw (s : State) (n : BitVec 5) : Word := (s.rs n).setWidth 32

/-- A result as a word. -/
def resW (r : Res) : Word × Flags := (BitVec.ofNat 32 r.1, r.2)

/-- The FP32 value of a word. -/
def fvW (x : Word) : FV := decodeF fp32 x.toNat

/-! ## FP32 arithmetic (R237 to R240) -/

/-- VADD, VSUB, VMUL, VMIN, VMAX by code 0 to 4. -/
def fpOp (k : Nat) (rm : BitVec 3) (v : Nat) (a b : Word) : Word × Flags :=
  match k with
  | 0 => resW (addF rm v (fvW a) (fvW b))
  | 1 => resW (subF rm v (fvW a) (fvW b))
  | 2 => resW (mulF rm v (fvW a) (fvW b))
  | 3 => let r := minmaxF false (fvW a) (fvW b); (BitVec.ofNat 32 (bits32 r.1), r.2)
  | _ => let r := minmaxF true (fvW a) (fvW b); (BitVec.ofNat 32 (bits32 r.1), r.2)

/-- An FP32 operation as a function of position and values. -/
def State.fpAt (s : State) (k pos : Nat) (a b : Word) : Word × Flags := fpOp k s.me.spr.rm (s.vecNoise pos) a b

/-- A vector FP32 operation on two registers. -/
def State.fpVec (s : State) (k : Nat) (w : BitVec 2) (i : Instr) (d a b : BitVec 6) : State :=
  s.elementwise w i (.v d) [s.me.vreg a, s.me.vreg b] fun p x => s.fpAt k p (x.getD 0 0) (x.getD 1 0)

/-- VADD. -/
def execVadd (w : BitVec 2) (d a : BitVec 6) (p : BitVec 2) (b : BitVec 6) (q : BitVec 2) (s : State) :
    Host.Outcome State Fault Refusal := .next (s.fpVec 0 w (.vadd w d a p b q) d a b)

/-- VSUB. -/
def execVsub (w : BitVec 2) (d a : BitVec 6) (p : BitVec 2) (b : BitVec 6) (q : BitVec 2) (s : State) :
    Host.Outcome State Fault Refusal := .next (s.fpVec 1 w (.vsub w d a p b q) d a b)

/-- VMUL. -/
def execVmul (w : BitVec 2) (d a : BitVec 6) (p : BitVec 2) (b : BitVec 6) (q : BitVec 2) (s : State) :
    Host.Outcome State Fault Refusal := .next (s.fpVec 2 w (.vmul w d a p b q) d a b)

/-- VMIN. -/
def execVmin (w : BitVec 2) (d a : BitVec 6) (p : BitVec 2) (b : BitVec 6) (q : BitVec 2) (s : State) :
    Host.Outcome State Fault Refusal := .next (s.fpVec 3 w (.vmin w d a p b q) d a b)

/-- VMAX. -/
def execVmax (w : BitVec 2) (d a : BitVec 6) (p : BitVec 2) (b : BitVec 6) (q : BitVec 2) (s : State) :
    Host.Outcome State Fault Refusal := .next (s.fpVec 4 w (.vmax w d a p b q) d a b)

/-- The masked FP32 forms: where the mask holds 0, the first source's value. -/
def execFp32MaskedForms (w : BitVec 2) (d : BitVec 6) (p : BitVec 2) (b : BitVec 6) (q : BitVec 2) (k : BitVec 3)
    (f : BitVec 4) (s : State) : Host.Outcome State Fault Refusal :=
  .next (s.elementwise w (.fp32MaskedForms w d p b q k f) (.v d) [s.me.vreg d, s.me.vreg b, s.me.mreg k] fun pos x =>
    if x.getD 2 0 == 1 then s.fpAt f.toNat pos (x.getD 0 0) (x.getD 1 0) else (x.getD 0 0, 0))

/-- The scalar FP32 forms; FN 5 is VSUB with the scalar first. -/
def execFp32ScalarForms (w : BitVec 2) (d a : BitVec 6) (p : BitVec 2) (b : BitVec 5) (f : BitVec 4) (s : State) :
    Host.Outcome State Fault Refusal :=
  .next (s.elementwise w (.fp32ScalarForms w d a p b f) (.v d) [s.me.vreg a] fun pos x =>
    if f == 5 then s.fpAt 1 pos (s.rw b) (x.getD 0 0) else s.fpAt f.toNat pos (x.getD 0 0) (s.rw b))

/-- VFMA. -/
def execVfma (w : BitVec 2) (d a : BitVec 6) (p : BitVec 2) (b : BitVec 6) (q : BitVec 2) (c : BitVec 1) (s : State) :
    Host.Outcome State Fault Refusal :=
  .next (s.elementwise w (.vfma w d a p b q c) (.v d) [s.me.vreg a, s.me.vreg b, s.me.vreg d] fun pos x =>
    resW (fmaF s.me.spr.rm (s.vecNoise pos) (fvW (x.getD 0 0)) (fvW (x.getD 1 0)) (fvW (x.getD 2 0))))

/-- A unary operation, masked or not (R239). -/
def State.unary (s : State) (w : BitVec 2) (i : Instr) (d a : BitVec 6) (m : BitVec 1) (k : BitVec 3)
    (f : Nat → Word → Word × Flags) : State :=
  if bit1 m then
    s.elementwise w i (.v d) [s.me.vreg a, s.me.mreg k] fun pos x =>
      if x.getD 1 0 == 1 then f pos (x.getD 0 0) else (x.getD 0 0, 0)
  else s.elementwise w i (.v d) [s.me.vreg a] fun pos x => f pos (x.getD 0 0)

/-- VABS: bit 31 cleared, no flag. -/
def execVabs (w : BitVec 2) (d a : BitVec 6) (p : BitVec 2) (m : BitVec 1) (k : BitVec 3) (s : State) :
    Host.Outcome State Fault Refusal :=
  .next (s.unary w (.vabs w d a p m k) d a m k fun _ x => (x &&& 0x7FFFFFFF, 0))

/-- VEXP2. -/
def execVexp2 (w : BitVec 2) (d a : BitVec 6) (p : BitVec 2) (m : BitVec 1) (k : BitVec 3) (s : State) :
    Host.Outcome State Fault Refusal :=
  .next (s.unary w (.vexp2 w d a p m k) d a m k fun _ x => resW (exp2F (fvW x)))

/-- VLOG2. -/
def execVlog2 (w : BitVec 2) (d a : BitVec 6) (p : BitVec 2) (m : BitVec 1) (k : BitVec 3) (s : State) :
    Host.Outcome State Fault Refusal :=
  .next (s.unary w (.vlog2 w d a p m k) d a m k fun _ x => resW (log2F (fvW x)))

/-- VRCP. -/
def execVrcp (w : BitVec 2) (d a : BitVec 6) (p : BitVec 2) (m : BitVec 1) (k : BitVec 3) (s : State) :
    Host.Outcome State Fault Refusal :=
  .next (s.unary w (.vrcp w d a p m k) d a m k fun pos x =>
    resW (rcpF s.me.spr.rm (s.vecNoise pos) (fvW x)))

/-- VRSQ. -/
def execVrsq (w : BitVec 2) (d a : BitVec 6) (p : BitVec 2) (m : BitVec 1) (k : BitVec 3) (s : State) :
    Host.Outcome State Fault Refusal :=
  .next (s.unary w (.vrsq w d a p m k) d a m k fun pos x =>
    resW (rsqF s.me.spr.rm (s.vecNoise pos) (fvW x)))

/-- Narrow-integer conversion of VCVT (R240). -/
def toNarrow (efr : Byte) (rm : BitVec 3) (v : Nat) (x : FV) : Word × Flags :=
  let w := efrWidth efr
  match x with
  | .nan .. => (0, fNV)
  | .inf n => (BitVec.ofNat 32 (niCode w efr (niClamp w efr (if n then -(2 ^ 60) else 2 ^ 60))), fOF ||| fNX)
  | .num n m e =>
    let r := toInt rm v (-(2 ^ 700)) (2 ^ 700) (.num n m (e + w - 2))
    let c := niClamp w efr r.1
    (BitVec.ofNat 32 (niCode w efr c), if c != r.1 then fOF ||| fNX else r.2)

/-- A narrow-integer code as FP32 (R83, R240). -/
def fromNarrow (efr : Byte) (x : Word) : Word :=
  let w := efrWidth efr
  match niValue w efr (x.toNat % 2 ^ w) with
  | none => 0x7FC00000
  | some i => BitVec.ofNat 32 (bits32 (.num (i < 0) i.natAbs (2 - (w : Int))))

/-- VCVT by CV (R240). -/
def vecConvert (v : BitVec 4) (efr : Byte) (rm : BitVec 3) (nz : Nat) (x : Word) : Word × Flags :=
  let q := fun (f : Fmt) =>
    let r := roundF f rm nz (fvW x)
    (BitVec.ofNat 32 (roundF fp32 0 0 (decodeF f r.1)).1, r.2)
  match v.toNat with
  | 1 => let r := toInt rm nz (-(2 ^ 31)) (2 ^ 31 - 1) (fvW x); (BitVec.ofInt 32 r.1, r.2)
  | 2 => resW (roundF fp32 rm nz (ofInt x.toInt))
  | 3 => q bf16
  | 4 => q fp16
  | 5 => q e4m3
  | 6 => q e5m2
  | 7 => toNarrow efr rm nz (fvW x)
  | _ => (fromNarrow efr x, 0)

/-- VCVT. -/
def execVcvt (w : BitVec 2) (d a : BitVec 6) (p : BitVec 2) (v : BitVec 4) (m : BitVec 1) (k : BitVec 3) (s : State) :
    Host.Outcome State Fault Refusal :=
  .next (s.unary w (.vcvt w d a p v m k) d a m k fun pos x =>
    vecConvert v (s.me.spr.efrv.setWidth 8) s.me.spr.rm (s.vecNoise pos) x)

/-! ## INT32 arithmetic (R241) -/

/-- The INT32 operations by major code less 0x10. -/
def intOp (k : Nat) (a b : Word) : Word :=
  match k with
  | 0 => a + b
  | 1 => a - b
  | 2 => a * b
  | 3 => a &&& b
  | 4 => a ||| b
  | 5 => a ^^^ b
  | 6 => a <<< (b.toNat % 32)
  | 7 => a >>> (b.toNat % 32)
  | 8 => a.sshiftRight (b.toNat % 32)
  | 9 => if b.slt a then b else a
  | 10 => if a.slt b then b else a
  | 11 => if b.ult a then b else a
  | _ => if a.ult b then b else a

/-- An INT32 operation on two registers. -/
def State.intVec (s : State) (k : Nat) (w : BitVec 2) (i : Instr) (d a b : BitVec 6) : State :=
  s.elementwise w i (.v d) [s.me.vreg a, s.me.vreg b] fun _ x => (intOp k (x.getD 0 0) (x.getD 1 0), 0)

/-- VIADD. -/
def execViadd (w : BitVec 2) (d a : BitVec 6) (p : BitVec 2) (b : BitVec 6) (q : BitVec 2) (s : State) :
    Host.Outcome State Fault Refusal := .next (s.intVec 0 w (.viadd w d a p b q) d a b)

/-- VISUB. -/
def execVisub (w : BitVec 2) (d a : BitVec 6) (p : BitVec 2) (b : BitVec 6) (q : BitVec 2) (s : State) :
    Host.Outcome State Fault Refusal := .next (s.intVec 1 w (.visub w d a p b q) d a b)

/-- VIMUL. -/
def execVimul (w : BitVec 2) (d a : BitVec 6) (p : BitVec 2) (b : BitVec 6) (q : BitVec 2) (s : State) :
    Host.Outcome State Fault Refusal := .next (s.intVec 2 w (.vimul w d a p b q) d a b)

/-- VAND. -/
def execVand (w : BitVec 2) (d a : BitVec 6) (p : BitVec 2) (b : BitVec 6) (q : BitVec 2) (s : State) :
    Host.Outcome State Fault Refusal := .next (s.intVec 3 w (.vand w d a p b q) d a b)

/-- VOR. -/
def execVor (w : BitVec 2) (d a : BitVec 6) (p : BitVec 2) (b : BitVec 6) (q : BitVec 2) (s : State) :
    Host.Outcome State Fault Refusal := .next (s.intVec 4 w (.vor w d a p b q) d a b)

/-- VXOR. -/
def execVxor (w : BitVec 2) (d a : BitVec 6) (p : BitVec 2) (b : BitVec 6) (q : BitVec 2) (s : State) :
    Host.Outcome State Fault Refusal := .next (s.intVec 5 w (.vxor w d a p b q) d a b)

/-- VSHL. -/
def execVshl (w : BitVec 2) (d a : BitVec 6) (p : BitVec 2) (b : BitVec 6) (q : BitVec 2) (s : State) :
    Host.Outcome State Fault Refusal := .next (s.intVec 6 w (.vshl w d a p b q) d a b)

/-- VSHR. -/
def execVshr (w : BitVec 2) (d a : BitVec 6) (p : BitVec 2) (b : BitVec 6) (q : BitVec 2) (s : State) :
    Host.Outcome State Fault Refusal := .next (s.intVec 7 w (.vshr w d a p b q) d a b)

/-- VSHR.A. -/
def execVshrA (w : BitVec 2) (d a : BitVec 6) (p : BitVec 2) (b : BitVec 6) (q : BitVec 2) (s : State) :
    Host.Outcome State Fault Refusal := .next (s.intVec 8 w (.vshrA w d a p b q) d a b)

/-- VIMIN. -/
def execVimin (w : BitVec 2) (d a : BitVec 6) (p : BitVec 2) (b : BitVec 6) (q : BitVec 2) (s : State) :
    Host.Outcome State Fault Refusal := .next (s.intVec 9 w (.vimin w d a p b q) d a b)

/-- VIMAX. -/
def execVimax (w : BitVec 2) (d a : BitVec 6) (p : BitVec 2) (b : BitVec 6) (q : BitVec 2) (s : State) :
    Host.Outcome State Fault Refusal := .next (s.intVec 10 w (.vimax w d a p b q) d a b)

/-- VIMIN.U. -/
def execViminU (w : BitVec 2) (d a : BitVec 6) (p : BitVec 2) (b : BitVec 6) (q : BitVec 2) (s : State) :
    Host.Outcome State Fault Refusal := .next (s.intVec 11 w (.viminU w d a p b q) d a b)

/-- VIMAX.U. -/
def execVimaxU (w : BitVec 2) (d a : BitVec 6) (p : BitVec 2) (b : BitVec 6) (q : BitVec 2) (s : State) :
    Host.Outcome State Fault Refusal := .next (s.intVec 12 w (.vimaxU w d a p b q) d a b)

/-- The masked INT32 forms. -/
def execInt32MaskedForms (w : BitVec 2) (d : BitVec 6) (p : BitVec 2) (b : BitVec 6) (q : BitVec 2) (k : BitVec 3)
    (f : BitVec 4) (s : State) : Host.Outcome State Fault Refusal :=
  .next (s.elementwise w (.int32MaskedForms w d p b q k f) (.v d) [s.me.vreg d, s.me.vreg b, s.me.mreg k] fun _ x =>
    (if x.getD 2 0 == 1 then intOp f.toNat (x.getD 0 0) (x.getD 1 0) else x.getD 0 0, 0))

/-- The scalar INT32 forms; FN 13 is VISUB with the scalar first. -/
def execInt32ScalarForms (w : BitVec 2) (d a : BitVec 6) (p : BitVec 2) (b : BitVec 5) (f : BitVec 4) (s : State) :
    Host.Outcome State Fault Refusal :=
  .next (s.elementwise w (.int32ScalarForms w d a p b f) (.v d) [s.me.vreg a] fun _ x =>
    (if f == 13 then s.rw b - x.getD 0 0 else intOp f.toNat (x.getD 0 0) (s.rw b), 0))

/-! ## Compares and masks (R242 to R244) -/

/-- A compare's mask value. -/
def vecCompare (int : Bool) (c : BitVec 3) (a b : Word) : Word × Flags :=
  let out := fun (x : Bool) => (if x then (1 : Word) else 0)
  if int then
    (out (match c.toNat with
      | 0 => a == b
      | 1 => a != b
      | 2 => a.slt b
      | 3 => !b.slt a
      | 4 => b.slt a
      | 5 => !a.slt b
      | 6 => a.ult b
      | _ => !a.ult b), 0)
  else let r := cmpF c.toNat (fvW a) (fvW b); (out r.1, r.2)

/-- VCMP of two registers. -/
def execVcmp (w : BitVec 2) (m : BitVec 3) (a : BitVec 6) (p : BitVec 2) (b : BitVec 6) (q : BitVec 2) (i : BitVec 1)
    (c : BitVec 3) (s : State) : Host.Outcome State Fault Refusal :=
  .next (s.elementwise w (.vcmp w m a p b q i c) (.m m) [s.me.vreg a, s.me.vreg b] fun _ x =>
    vecCompare (bit1 i) c (x.getD 0 0) (x.getD 1 0))

/-- VCMP of a register and a scalar. -/
def execVcmpScalar (w : BitVec 2) (m : BitVec 3) (a : BitVec 6) (p : BitVec 2) (b : BitVec 5) (i : BitVec 1)
    (c : BitVec 3) (s : State) : Host.Outcome State Fault Refusal :=
  .next (s.elementwise w (.vcmpScalar w m a p b i c) (.m m) [s.me.vreg a] fun _ x =>
    vecCompare (bit1 i) c (x.getD 0 0) (s.rw b))

/-- VSEL. -/
def execVsel (w : BitVec 2) (d : BitVec 6) (p : BitVec 2) (b : BitVec 6) (q : BitVec 2) (k : BitVec 3) (s : State) :
    Host.Outcome State Fault Refusal :=
  .next (s.elementwise w (.vsel w d p b q k) (.v d) [s.me.vreg d, s.me.vreg b, s.me.mreg k] fun _ x =>
    (if x.getD 2 0 == 1 then x.getD 1 0 else x.getD 0 0, 0))

/-- A Boolean operation on two masks. -/
def State.maskOp (s : State) (w : BitVec 2) (i : Instr) (d a b : BitVec 3) (f : Word → Word → Word) : State :=
  s.elementwise w i (.m d) [s.me.mreg a, s.me.mreg b] fun _ x => (f (x.getD 0 0) (x.getD 1 0), 0)

/-- MAND. -/
def execMand (w : BitVec 2) (d a b : BitVec 3) (s : State) : Host.Outcome State Fault Refusal :=
  .next (s.maskOp w (.mand w d a b) d a b (· &&& ·))

/-- MOR. -/
def execMor (w : BitVec 2) (d a b : BitVec 3) (s : State) : Host.Outcome State Fault Refusal :=
  .next (s.maskOp w (.mor w d a b) d a b (· ||| ·))

/-- MXOR. -/
def execMxor (w : BitVec 2) (d a b : BitVec 3) (s : State) : Host.Outcome State Fault Refusal :=
  .next (s.maskOp w (.mxor w d a b) d a b (· ^^^ ·))

/-- MNOT. -/
def execMnot (w : BitVec 2) (d a : BitVec 3) (s : State) : Host.Outcome State Fault Refusal :=
  .next (s.elementwise w (.mnot w d a) (.m d) [s.me.mreg a] fun _ x => (x.getD 0 0 ^^^ 1, 0))

/-- MCNT. -/
def execMcnt (w : BitVec 2) (d : BitVec 5) (a : BitVec 3) (s : State) : Host.Outcome State Fault Refusal :=
  let rs := s.me.mreg a
  .next (s.vecDone w (.mcnt w d a) rs.length (.s (s.ps d))
    (.scalar (BitVec.ofNat 64 (runsLen (rs.filter (·.val == 1))))) 0)

/-! ## Run structure (R245 to R254) -/

/-- The register that a vector field or a mask form names. -/
def State.source (s : State) (m : BitVec 1) (a : BitVec 6) : List Run :=
  if bit1 m then s.me.mreg (a.setWidth 3) else s.me.vreg a

/-- PROTECTION 0x10 with the operand that is out of range. -/
def rangeFault (x : BitVec 64) : Flt := prot 0x10 x

/-- VCOAL. -/
def execVcoal (w : BitVec 2) (d a : BitVec 6) (p : BitVec 2) (z m : BitVec 1) (s : State) :
    Host.Outcome State Fault Refusal :=
  let rs := s.source m a
  .next (s.vecOut w (.vcoal w d a p z m) rs.length (vOrM m d) (coalesce (bit1 z) rs) 0)

/-- VLEN. -/
def execVlen (w : BitVec 2) (d : BitVec 5) (a : BitVec 6) (p q : BitVec 2) (m : BitVec 1) (s : State) :
    Host.Outcome State Fault Refusal :=
  let rs := s.source m a
  let v := match q.toNat with | 0 => runsLen rs | 1 => rs.length | _ => rs.countP (·.b)
  .next (s.vecDone w (.vlen w d a p q m) rs.length (.s (s.ps d)) (.scalar (BitVec.ofNat 64 v)) 0)

/-- VSPLAT. -/
def execVsplat (w : BitVec 2) (d : BitVec 6) (a n : BitVec 5) (m v : BitVec 1) (s : State) :
    Host.Outcome State Fault Refusal :=
  let k := (s.rs n).toNat
  let x : Word := if bit1 m then (if bit1 v then 1 else 0) else s.rw a
  if 2 ^ 24 ≤ k then .next (s.raise (rangeFault (s.rs n)))
  else .next (s.vecOut w (.vsplat w d a n m v) 1 (vOrM m d) (if k == 0 then [] else [⟨x, k, true⟩]) 0)

/-- VIOTA. -/
def execViota (w : BitVec 2) (d : BitVec 6) (a n : BitVec 5) (s : State) : Host.Outcome State Fault Refusal :=
  let k := (s.rs n).toNat
  if 4096 < k then .next (s.raise (runOverflow k))
  else .next (s.vecOut w (.viota w d a n) k (.v d)
    ((List.range k).map fun i => ⟨s.rw a + BitVec.ofNat 32 i, 1, i == 0⟩) 0)

/-- VIOTA.SEG. -/
def execViotaSeg (w : BitVec 2) (d a : BitVec 6) (p : BitVec 2) (s : State) : Host.Outcome State Fault Refusal :=
  let rs := s.me.vreg a
  let k := runsLen rs + rs.countP (·.cnt == 0)
  if 4096 < k then .next (s.raise (runOverflow k))
  else .next (s.vecOut w (.viotaSeg w d a p) k (.v d) (iotaSegs rs) 0)

/-- VSLICE. -/
def execVslice (w : BitVec 2) (d a : BitVec 6) (p : BitVec 2) (b : BitVec 5) (s : State) :
    Host.Outcome State Fault Refusal :=
  let rs := s.me.vreg a
  let i := (s.rs b).toNat % 2 ^ 32
  let n := (s.rs b).toNat / 2 ^ 32
  if runsLen rs < i + n then .next (s.raise (rangeFault (s.rs b)))
  else .next (s.vecOut w (.vslice w d a p b) rs.length (.v d) (sliceRuns i n rs) 0)

/-- VCAT: RUN_OVERFLOW before PROTECTION, the lower code (R38). -/
def execVcat (w : BitVec 2) (d a : BitVec 6) (p : BitVec 2) (b : BitVec 6) (q : BitVec 2) (s : State) :
    Host.Outcome State Fault Refusal :=
  let rs := s.me.vreg a ++ s.me.vreg b
  if rs.length ≤ 4096 && 2 ^ 24 ≤ runsLen rs then .next (s.raise (outOfBounds (runsLen rs)))
  else .next (s.vecOut w (.vcat w d a p b q) rs.length (.v d) rs 0)

/-- VPICK. -/
def execVpick (w : BitVec 2) (d a : BitVec 6) (p : BitVec 2) (b : BitVec 6) (q : BitVec 2) (s : State) :
    Host.Outcome State Fault Refusal :=
  let rs := s.me.vreg a
  let ix := s.me.vreg b
  match ix.find? fun r => r.cnt != 0 && runsLen rs ≤ r.val.toNat with
  | some r => .next (s.raise { outOfBounds r.val.toNat with info1 := BitVec.ofNat 64 (runsLen rs) })
  | none => .next (s.vecOut w (.vpick w d a p b q) (rs.length + ix.length) (.v d)
    (ix.map fun r => if r.cnt == 0 then r else { r with val := (elementAt rs r.val.toNat).getD 0 }) 0)

/-- VSEGSET. -/
def execVsegset (w : BitVec 2) (d a : BitVec 6) (p : BitVec 2) (k : BitVec 3) (s : State) :
    Host.Outcome State Fault Refusal :=
  let rs := s.me.vreg a
  let m := s.me.mreg k
  let out := segSet (marksIn m) rs
  if runsLen rs == runsLen m || 4096 < out.length then
    .next (s.vecOut w (.vsegset w d a p k) (rs.length + m.length) (.v d) out 0)
  else .next (s.raise (lengthMismatch (runsLen rs) (runsLen m)))

/-- VSEGCLR. -/
def execVsegclr (w : BitVec 2) (d a : BitVec 6) (p : BitVec 2) (m : BitVec 1) (k : BitVec 3) (s : State) :
    Host.Outcome State Fault Refusal :=
  let rs := s.me.vreg a
  let mk := s.me.mreg k
  if bit1 m then
    if runsLen rs == runsLen mk then
      .next (s.vecOut w (.vsegclr w d a p m k) rs.length (.v d) (segClear (marksIn mk) rs) 0)
    else .next (s.raise (lengthMismatch (runsLen rs) (runsLen mk)))
  else .next (s.vecOut w (.vsegclr w d a p m k) rs.length (.v d) (segClearAll rs) 0)

/-- LENGTH_MISMATCH 0x01: segment counts of the operand served and of the per-segment operand (R253). -/
def segMismatch (a b : Nat) : Flt := { lengthMismatch a b with sub := 1 }

/-- VSPREAD. -/
def execVspread (w : BitVec 2) (d a : BitVec 6) (p : BitVec 2) (b : BitVec 6) (q : BitVec 2) (s : State) :
    Host.Outcome State Fault Refusal :=
  let x := s.me.vreg a
  let y := s.me.vreg b
  let vs := segValues 0 x
  let n := (segmentsOf y).length
  if n != vs.length then .next (s.raise (segMismatch n vs.length))
  else .next (s.vecOut w (.vspread w d a p b q) (x.length + y.length) (.v d) (spreadRuns vs y) 0)

/-! ## Reductions (R255 to R257) -/

/-- The pieces that a reduction works on, or the lengths that disagree. -/
def State.redPieces (s : State) (a : BitVec 6) (m : BitVec 1) (k : BitVec 3) : Except Flt (List Piece × Nat) :=
  let rs := s.me.vreg a
  if bit1 m then
    let mk := s.me.mreg k
    if runsLen rs == runsLen mk then .ok (maskedPieces rs (some mk), rs.length + mk.length)
    else .error (lengthMismatch (runsLen rs) (runsLen mk))
  else .ok (maskedPieces rs none, rs.length)

/-- The noise of a scalar reduction (R255). -/
def State.redNoise (s : State) : Nat :=
  if s.me.spr.rm == 5 then noise s.me.spr.srseed 0 0 0 0x20000000 else 0

/-- A reduction of the whole register into a scalar. -/
def State.reduceAll (s : State) (w : BitVec 2) (i : Instr) (d : BitVec 5) (a : BitVec 6) (m : BitVec 1) (k : BitVec 3)
    (sgn : Bool) (f : List Piece → Word × Flags) : State :=
  match s.redPieces a m k with
  | .error e => s.raise e
  | .ok (ps, q) =>
    let r := f ps
    s.vecDone w i q (.s (s.ps d)) (.scalar (if sgn then r.1.signExtend 64 else r.1.setWidth 64)) r.2

/-- A reduction of each segment. -/
def State.reduceSeg (s : State) (w : BitVec 2) (i : Instr) (d a : BitVec 6) (m : BitVec 1) (k : BitVec 3)
    (f : Nat → List Piece → Word × Flags) : State :=
  match s.redPieces a m k with
  | .error e => s.raise e
  | .ok (ps, q) =>
    let r := reduceSegs f 0 (segmentsBy (·.b) ps)
    s.vecOut w i q (.v d) r.1 r.2

/-- VRSUM. -/
def execVrsum (w : BitVec 2) (d : BitVec 5) (a : BitVec 6) (p : BitVec 2) (m : BitVec 1) (k : BitVec 3) (s : State) :
    Host.Outcome State Fault Refusal :=
  .next (s.reduceAll w (.vrsum w d a p m k) d a m k false (Redn.sum.of s.me.spr.rm s.redNoise))

/-- VRSUM.SEG. -/
def execVrsumSeg (w : BitVec 2) (d a : BitVec 6) (p : BitVec 2) (m : BitVec 1) (k : BitVec 3) (s : State) :
    Host.Outcome State Fault Refusal :=
  .next (s.reduceSeg w (.vrsumSeg w d a p m k) d a m k fun ix => Redn.sum.of s.me.spr.rm (s.vecNoise ix))

/-- VRSSQ. -/
def execVrssq (w : BitVec 2) (d : BitVec 5) (a : BitVec 6) (p : BitVec 2) (m : BitVec 1) (k : BitVec 3) (s : State) :
    Host.Outcome State Fault Refusal :=
  .next (s.reduceAll w (.vrssq w d a p m k) d a m k false (Redn.ssq.of s.me.spr.rm s.redNoise))

/-- VRSSQ.SEG. -/
def execVrssqSeg (w : BitVec 2) (d a : BitVec 6) (p : BitVec 2) (m : BitVec 1) (k : BitVec 3) (s : State) :
    Host.Outcome State Fault Refusal :=
  .next (s.reduceSeg w (.vrssqSeg w d a p m k) d a m k fun ix => Redn.ssq.of s.me.spr.rm (s.vecNoise ix))

/-- VRMAX. -/
def execVrmax (w : BitVec 2) (d : BitVec 5) (a : BitVec 6) (p : BitVec 2) (m : BitVec 1) (k : BitVec 3) (s : State) :
    Host.Outcome State Fault Refusal :=
  .next (s.reduceAll w (.vrmax w d a p m k) d a m k false (Redn.max.of s.me.spr.rm s.redNoise))

/-- VRMAX.SEG. -/
def execVrmaxSeg (w : BitVec 2) (d a : BitVec 6) (p : BitVec 2) (m : BitVec 1) (k : BitVec 3) (s : State) :
    Host.Outcome State Fault Refusal :=
  .next (s.reduceSeg w (.vrmaxSeg w d a p m k) d a m k fun ix => Redn.max.of s.me.spr.rm (s.vecNoise ix))

/-- VRMIN. -/
def execVrmin (w : BitVec 2) (d : BitVec 5) (a : BitVec 6) (p : BitVec 2) (m : BitVec 1) (k : BitVec 3) (s : State) :
    Host.Outcome State Fault Refusal :=
  .next (s.reduceAll w (.vrmin w d a p m k) d a m k false (Redn.min.of s.me.spr.rm s.redNoise))

/-- VRMIN.SEG. -/
def execVrminSeg (w : BitVec 2) (d a : BitVec 6) (p : BitVec 2) (m : BitVec 1) (k : BitVec 3) (s : State) :
    Host.Outcome State Fault Refusal :=
  .next (s.reduceSeg w (.vrminSeg w d a p m k) d a m k fun ix => Redn.min.of s.me.spr.rm (s.vecNoise ix))

/-- VSCAN. -/
def execVscan (w : BitVec 2) (d a : BitVec 6) (p : BitVec 2) (m : BitVec 1) (k : BitVec 3) (x : BitVec 1) (s : State) :
    Host.Outcome State Fault Refusal :=
  match s.redPieces a m k with
  | .error e => .next (s.raise e)
  | .ok (ps, _) =>
    let n := scanCount ps
    if 4096 < n then .next (s.raise (runOverflow n))
    else
      let rs := (segmentsBy (·.b) ps).map (scanSeg s.me.spr.rm s.vecNoise (bit1 x) [])
      let mk := if bit1 m then (s.me.mreg k).length else 0
      .next (s.vecOut w (.vscan w d a p m k x) (n + mk) (.v d) (rs.map (·.1)).flatten (rs.foldl (fun f r => f ||| r.2) 0))

/-- VMAXK. -/
def execVmaxk (w : BitVec 2) (d : BitVec 5) (a : BitVec 6) (p : BitVec 2) (m : BitVec 1) (k : BitVec 3) (s : State) :
    Host.Outcome State Fault Refusal :=
  .next (s.reduceAll w (.vmaxk w d a p m k) d a m k true maxK)

/-- VMAXK.SEG. -/
def execVmaxkSeg (w : BitVec 2) (d a : BitVec 6) (p : BitVec 2) (m : BitVec 1) (k : BitVec 3) (s : State) :
    Host.Outcome State Fault Refusal :=
  .next (s.reduceSeg w (.vmaxkSeg w d a p m k) d a m k fun _ => maxK)

/-! ## Integer exponents (R258, R259) -/

/-- An operation whose second source supplies one value to each segment of the first (R253). -/
def State.perSegment (s : State) (w : BitVec 2) (i : Instr) (d a b : BitVec 6) (dflt : Word)
    (f : Nat → Word → Word → Word × Flags) : State :=
  let x := s.me.vreg a
  let y := s.me.vreg b
  let vs := segValues dflt y
  let gs := segmentsBy (·.b) (alignRuns [x])
  if gs.length != vs.length then s.raise (segMismatch gs.length vs.length)
  else
    let rs := (gs.zip vs).map fun g => mapPieces (fun pos v => f pos (v.getD 0 0) g.2) g.1
    s.vecOut w i (x.length + y.length) (.v d) (rs.map (·.1)).flatten (rs.foldl (fun f r => f ||| r.2) 0)

/-- VEXPK. -/
def execVexpk (w : BitVec 2) (d a : BitVec 6) (p : BitVec 2) (b : BitVec 6) (q : BitVec 2) (s : State) :
    Host.Outcome State Fault Refusal :=
  .next (s.perSegment w (.vexpk w d a p b q) d a b 0x80000000 fun _ y k => resW (expK (fvW y) k.toInt))

/-- VSCK. -/
def execVsck (w : BitVec 2) (d a : BitVec 6) (p : BitVec 2) (b : BitVec 6) (q : BitVec 2) (s : State) :
    Host.Outcome State Fault Refusal :=
  .next (s.elementwise w (.vsck w d a p b q) (.v d) [s.me.vreg a, s.me.vreg b] fun pos x =>
    resW (scaleF s.me.spr.rm (s.vecNoise pos) (fvW (x.getD 0 0)) (x.getD 1 0).toInt))

/-- VSCK.SEG. -/
def execVsckSeg (w : BitVec 2) (d a : BitVec 6) (p : BitVec 2) (b : BitVec 6) (q : BitVec 2) (s : State) :
    Host.Outcome State Fault Refusal :=
  .next (s.perSegment w (.vsckSeg w d a p b q) d a b 0 fun pos x k =>
    resW (scaleF s.me.spr.rm (s.vecNoise pos) (fvW x) k.toInt))

end Sys2Proof.Machine
end

