-- ==== Sys2Proof/Machine/Transfer.lean ====
section
/-!
DEFINITION. The transfer engine (R311 to R329): copies, compressed blocks, transform units, code images, tokens.
-/

namespace Sys2Proof.Machine

/-! ## Tokens and the ring (R313 to R315) -/

/-- The next token of a counter, 0 skipped. -/
def nextTok (t : BitVec 16) : BitVec 16 := if t + 1 == 0 then 1 else t + 1

/-- Record a status in a unit's ring. -/
def Unit.ringPut (x : Unit) (tok : BitVec 16) (st : BitVec 14) : Unit :=
  { x with ring := Tab.set (0, 0) x.ring (tok.toNat % 256) (tok, st) }

/-- The status of a token (R315). -/
def Unit.ringGet (x : Unit) (tok : BitVec 16) : BitVec 14 :=
  let e := Tab.get (0, 0) x.ring (tok.toNat % 256)
  if tok != 0 && e.1 == tok then e.2 else 0xFF

/-- The context of a transfer operation. -/
def State.xferCtx (s : State) (x : Xfer) : BitVec 3 := match x.task with | some t => t.ctx | none => s.ctxOf x.unit

/-- The source of its asynchronous faults (R112). -/
def State.xferWho (s : State) (x : Xfer) : Who := ⟨x.unit, s.xferCtx x, x.task, 7, true, x.sup, false, x.addr, 0⟩

/-- Change a transfer operation. -/
def State.modXfer (s : State) (id : Nat) (f : Xfer → Xfer) : State :=
  { s with xfers := s.xfers.map fun x => if x.id == id then f x else x }

/-- Whether the unit still runs the task that issued an operation. -/
def State.xferCurrent (s : State) (x : Xfer) : Bool := x.task == (s.unit x.unit).task && (s.unit x.unit).on

/-- CODE of an asynchronous fault (R314). -/
def codeOf (f : Flt) : Byte := match f.code.toNat with | 0x18 => 2 | 0x1A => 4 | 0x0A => 5 | _ => 3

/-- An operation that has not been filled in. -/
def State.xfer (s : State) (tok : BitVec 16) (q : BitVec 1) (kind : XKind) (rows : List XRow) : Xfer :=
  { id := s.ids, unit := s.u, seq := s.cur.op.seq, addr := s.cur.op.addr, task := s.me.task, tok := tok, post := bit1 q,
    sup := s.me.spr.sup, kind := kind, rows := rows, tiles := [], left := [], writes := [], due := s.cycle + 1,
    issued := s.cycle, buf := [], ahead := [], flg := 0, code := 0, finger := none, fmt := 10, packed := false, fpd := false,
    elems := [], cross := none, recd := false, work := none }

/-- An operation issues: it clears its destination tiles, takes its token and is in flight (R313, R317). -/
def State.launchXfer (s : State) (t : BitVec 5) (tiles : List Nat) (f : BitVec 16 → Xfer) : State :=
  let tok := nextTok s.me.tok
  let s := s.setTiles tiles false
  let x := { f tok with tiles := tiles.map fun k => (k, (s.tile k).2), left := tiles }
  let s := { s with xfers := s.xfers ++ [x], ids := s.ids + 1 }
  let s := s.modUnit s.u fun y => { y with tok := tok }.ringPut tok 0
  (s.result 2 [(.s (s.ps t), .scalar (tok.setWidth 64))] 0).issued 1

/-- SCHED_OVERRUN of a wait at issue in Invar mode, which otherwise stalls (R57, R313, R320). -/
def State.waitOr (s : State) (sub : Byte) : State :=
  if s.me.spr.inv && !s.me.spr.sup then s.raise (schedFault sub s.me.spr.sfc s.cur.op.stamp) else s

/-- Whether 64 operations of the issuing core are in flight (R313). -/
def State.xferFull (s : State) : Bool := s.queueFull s.u

/-! ## Copies (R316) -/

/-- The scratchpad tiles that a range names, reached or not; of a range that runs past the end of a scratchpad, those up to it. -/
def namedTiles (u : Nat) (va : BitVec 64) (n : Nat) : List Nat :=
  match holderOf u false va.toNat with
  | .ok core => if va.toNat / 2 ^ 60 == 2 then
      tilesOf (scratchPlace core (va.toNat % 2 ^ 23)) (min n (2 ^ 23 - va.toNat % 2 ^ 23)) else []
  | .error _ => []

/-- The scratchpad tiles that destination ranges touch, behind a failed link none (R13). -/
def State.dstTiles (s : State) (u : Nat) (rs : List (BitVec 64 × Nat)) : List Nat :=
  (((rs.map fun r => namedTiles u r.1 r.2).flatten).filter fun t => !s.routeBad (dieOf u) (t / 2 ^ 11 / 16)).eraseDups

/-- The rows of a copy from selected row numbers. -/
def Shape.copyRows (h : Shape) (sa : BitVec 64) (rb : Nat) (scatter : Bool) (rows : List Nat) : List XRow :=
  rows.mapIdx fun k r =>
    let shaped := BitVec.ofNat 64 (h.base + r * h.pitch)
    let packed := sa + BitVec.ofNat 64 (k * rb)
    if scatter then ⟨packed, shaped, rb⟩ else ⟨shaped, packed, rb⟩

/-- Issue a copy of selected rows, in pieces (first row, rows); `limit` is a segment and its boundary, and the rows from
the first at or beyond it are never made (R317): the copy faults when only they are left. -/
def State.copyRows (s : State) (t a : BitVec 5) (h : Shape) (sc f q : BitVec 1) (pieces : List (Nat × Nat))
    (limit : Option (Nat × Nat)) : State :=
  let bits := h.rowEl * fmtBits h.fmt
  let rb := bits / 8
  let n := (pieces.map (·.2)).sum
  if bits % 8 != 0 then s.raise (outOfBounds bits)
  else if 2 ^ 32 < rb * n then s.raise (outOfBounds (rb * n))
  else
    let rows := (pieces.map fun p => (List.range p.2).map fun i => p.1 + i).flatten
    let kept := match limit with | some l => rows.takeWhile (· < l.2) | none => rows
    let xs := h.copyRows (s.rs a) rb (bit1 sc) rows
    let tiles := s.dstTiles s.u (xs.map fun x => (x.dst, x.bytes))
    let finger := if f == 1 then some (s.rs t) else none
    s.launchXfer t tiles fun tok =>
      { s.xfer tok q .copy xs with
        finger := finger, fmt := h.fmt
        cross := if kept.length < rows.length then limit.map fun l => (l.1, l.2, rows.length - kept.length) else none }

/-- CPY. -/
def execCpy (t a b : BitVec 5) (h : BitVec 3) (sc f q : BitVec 1) (s : State) : Host.Outcome State Fault Refusal :=
  if s.xferFull then .next (s.waitOr 2)
  else
    let r := s.me.shape h
    let sb := (s.rs b).toNat
    if r.rank == 0 then .next (s.raise (emptyShape h))
    else .next (s.copyRows t a r sc f q [(sb % 2 ^ 32, sb / 2 ^ 32)] none)

/-- CPYR. -/
def execCpyr (t a b : BitVec 5) (h : BitVec 3) (sc f e x q : BitVec 1) (s : State) : Host.Outcome State Fault Refusal :=
  if s.xferFull then .next (s.waitOr 2)
  else
    let r := s.me.shape h
    let sb := (s.rs b).toNat
    let first := sb % 2 ^ 32
    if r.rank == 0 then .next (s.raise (emptyShape h))
    else match r.select h (bit1 e) false first (sb / 2 ^ 32) with
      | .error g => .next (s.raise g)
      | .ok pieces =>
        let limit := if bit1 e && bit1 x then (r.bound (first + 1)).map fun b => (first, b) else none
        .next (s.copyRows t a r sc f q pieces limit)

/-! ## Compressed blocks (R318, R319) -/

/-- Whether a block's run stream is well formed and its counts sum to LEN. -/
def blockRunsOk (h : BlockHdr) (bs : List Byte) : Bool :=
  let es := (leWords 8 (bs.take (8 * h.nruns))).map (entryOf false)
  !streamBad es && runsLen (es.map (·.1)) == h.len

/-- One element of an expansion: its code and flags. -/
def expandElem (fmt : Nat) (v : Word) : Nat × Flags :=
  match fmt with
  | 0 => (v.toNat, 0)
  | 5 => (v.toNat, 0)
  | 6 => (elemCode 6 0 0 0 0 v, 0)
  | k => rne (fmtOf k) (decodeF fp32 v.toNat)

/-- The expansion of a block's runs (R318): bytes and flags. -/
def expandRuns (h : BlockHdr) (bs : List Byte) : List Byte × Flags :=
  let es := ((leWords 8 (bs.take (8 * h.nruns))).map fun x => (entryOf false x).1).filter fun r => r.cnt != 0
  let size := fmtBits h.fmt / 8
  es.foldr (fun r acc =>
    let e := expandElem h.fmt r.val
    ((List.replicate r.cnt (leBytes size e.1)).flatten ++ acc.1, e.2 ||| acc.2)) ([], 0)

/-- Whether an expander stands on a block's route (R319). -/
def expands (src dst expt : Nat) : Bool :=
  expt != 3 && ((spaceOf src == 0 && expt == 0) || (spaceOf src == 1 && expt ≤ 1) || (spaceOf dst == 1 && expt ≤ 1)
    || (spaceOf dst == 2 && expt ≤ 2))

/-- Whether the route from one address to another expands a block, by their spaces. -/
def expandsVa (src dst : BitVec 64) (expt : Nat) : Bool :=
  expands (src.toNat / 2 ^ 60 * 2 ^ 64) (dst.toNat / 2 ^ 60 * 2 ^ 64) expt

/-- Bytes that a block occupies at its destination. -/
def BlockHdr.outBytes (h : BlockHdr) (src dst : BitVec 64) : Nat :=
  if expandsVa src dst h.expt then h.len * (fmtBits h.fmt / 8) else 32 + 8 * h.nruns

/-- The header of a block as it stands, where it can be read. -/
def State.peekBlock (s : State) (u : Nat) (c : BitVec 3) (va : BitVec 64) : Option BlockHdr :=
  match s.reach u (dieOf u) c pTR .rd false va 32 with
  | .error _ => none
  | .ok r => let h := blockHdr (rdSpans s.mem r.spans); if h.ok then some h else none

/-- CPY.Z. -/
def execCpyZ (t a b : BitVec 5) (f q : BitVec 1) (s : State) : Host.Outcome State Fault Refusal :=
  if s.xferFull then .next (s.waitOr 2)
  else
    let src := s.rs a
    let dst := s.rs b
    let c := s.ctxOf s.u
    let tiles := match s.peekBlock s.u c src with
      | some h => s.dstTiles s.u [(dst, h.outBytes src dst)]
      | none => []
    let finger := if f == 1 then some (s.rs t) else none
    .next (s.launchXfer t tiles fun tok => { s.xfer tok q .block [⟨src, dst, 0⟩] with finger := finger })

/-! ## Fingerprints (R324) -/

/-- An element by value. -/
def fingerValue (fmt c : Nat) : FV :=
  if fmt == 5 then ofInt (BitVec.ofNat 32 c).toInt
  else if fmt == 6 then ofInt (BitVec.ofNat 8 c).toInt
  else decodeF (fmtOf fmt) c

/-- Whether a value is a NaN. -/
def isNan (x : FV) : Bool := match x with | .nan .. => true | _ => false

/-- The absolute value. -/
def absV (x : FV) : FV := match x with | .num _ m e => .num false m e | .inf _ => .inf false | y => y

/-- The fingerprint record of elements of a format; `packed` for what is not fingerprinted. -/
def fingerprint (fmt : Nat) (packed : Bool) (bytes : List Byte) : List Byte :=
  if packed || 7 ≤ fmt then leBytes 32 (2 ^ 231)
  else
    let all := (leWords (fmtBits fmt / 8) bytes).map (fingerValue fmt)
    let xs := all.filter fun x => !isNan x
    let amax := xs.foldl (fun m x => (minmaxF true m (absV x)).1) (.num false 0 0)
    let sum := roundSum fp32 0 0 xs
    let ssq := roundSum fp32 0 0 (xs.filterMap fun x => mulV x x)
    leBytes 32 (all.length - xs.length + all.length * 2 ^ 64 + (rne fp32 amax).1 * 2 ^ 128 + sum.1 * 2 ^ 160
      + ssq.1 * 2 ^ 192 + (sum.2 ||| ssq.2).toNat * 2 ^ 224)

/-! ## Code images (R325, R326) -/

/-- A code image's header is well formed. -/
def imageHdrOk (x : Nat) : Bool :=
  let nb := x / 2 ^ 16 % 2 ^ 13
  let ntpl := x / 2 ^ 64 % 2 ^ 9
  x % 256 == 0xE5 && x / 256 % 256 == 1 && 1 ≤ nb && nb ≤ 4096 && x / 2 ^ 32 % 2 ^ 12 + nb ≤ 4096
    && x / 2 ^ 29 % 8 == 0 && x / 2 ^ 44 % 2 ^ 20 == 0 && 1 ≤ ntpl && ntpl ≤ 256 && x / 2 ^ 73 % 2 ^ 55 == 0
    && x / 2 ^ 224 == 0

/-- The slot words of a bundle from the bytes that follow its template index: its value and the bytes left. -/
def slotWords (mask k : Nat) (fuel : Nat) (bs : List Byte) : Option (Nat × List Byte) :=
  match fuel with
  | 0 => some (0, bs)
  | n + 1 =>
    if mask / 2 ^ (k - 1) % 2 == 1 then
      if bs.length < 4 then none
      else (slotWords mask (k + 1) n (bs.drop 4)).map fun r => (leNat (bs.take 4) * 2 ^ (32 * k) + r.1, r.2)
    else slotWords mask (k + 1) n bs

/-- Expand a bundle stream: exactly `nb` bundles in exactly its bytes. -/
def expandStream (nb : Nat) (tpl : List Nat) (bs : List Byte) : Option (List (BitVec 256)) :=
  match nb with
  | 0 => if bs.isEmpty then some [] else none
  | n + 1 => match bs with
    | [] => none
    | i :: r => match tpl[i.toNat]? with
      | none => none
      | some t => match slotWords (t / 2 ^ 32 % 128) 1 7 r with
        | none => none
        | some (w, r) => (expandStream n tpl r).map fun l => BitVec.ofNat 256 (t % 2 ^ 32 + w) :: l

/-- The bundles of an image with a well-formed header and the CODE of its outcome (R326). -/
def expandImage (x : Nat) (body : List Byte) : List (BitVec 256) × Byte :=
  let nb := x / 2 ^ 16 % 2 ^ 13
  let ntpl := x / 2 ^ 64 % 2 ^ 9
  let tpl := leWords 8 (body.take (8 * ntpl))
  let ones := List.replicate nb (BitVec.ofNat 256 (2 ^ 256 - 1))
  if tpl.any fun t => t / 2 ^ 39 != 0 then (ones, 7)
  else match expandStream nb tpl (body.drop (8 * ntpl)) with
    | none => (ones, 7)
    | some bs =>
      if crc64 ((bs.map fun b => leBytes 32 b.toNat).flatten) == BitVec.ofNat 64 (x / 2 ^ 128 % 2 ^ 64) then (bs, 0)
      else (ones, 6)

/-- Write bundles of a unit's store; what they replace may still be fetched until the half is coherent (R154). -/
def State.writeCode (s : State) (u first : Nat) (bs : List (BitVec 256)) : State :=
  (bs.zipIdx).foldl (fun s b =>
    let k := codeKey u (first + b.2)
    let old := if s.codeOld.any fun p => p.1 == k then s.codeOld else Tab.put s.codeOld k (Tab.get 0 s.code k)
    { s with code := Tab.set 0 s.code k b.1, codeOld := old }) s

/-- IMLOAD. -/
def execImload (t a : BitVec 5) (q : BitVec 1) (s : State) : Host.Outcome State Fault Refusal :=
  if s.xferFull then .next (s.waitOr 2)
  else
    let h := !s.me.front.half
    let s' := s.setCoherent s.u h false
    .next (s'.launchXfer t [] fun tok => s'.xfer tok q (.imload h) [⟨s.rs a, 0, 0⟩])

/-! ## The engine at work (R316, R317, R327) -/

/-- Bytes of a code image after its header. -/
def imageBody (hdr : List Byte) : Nat := 8 * (leNat hdr / 2 ^ 64 % 2 ^ 9) + leNat hdr / 2 ^ 192 % 2 ^ 32

/-- What an operation will still read and write, its fingerprint record included, as places, where that resolves. -/
def State.footprint (s : State) (x : Xfer) : List (Nat × Nat) × List (Nat × Nat) :=
  let sp := fun (a : Acc) (va : BitVec 64) (n : Nat) =>
    match s.reach x.unit (dieOf x.unit) (s.xferCtx x) pTR a false va n with | .ok q => q.spans | .error _ => []
  let rec' := match x.finger with
    | some va => if x.fpd || x.code != 0 || x.recd then [] else sp .wr va 32
    | none => []
  match x.kind, x.rows with
  | .copy, rs => ((rs.map fun r => sp .rd r.src r.bytes).flatten, (rs.map fun r => sp .wr r.dst r.bytes).flatten ++ rec')
  | .block, r :: _ => match s.peekBlock x.unit (s.xferCtx x) r.src with
    | none => (sp .rd r.src 32, rec')
    | some h => (sp .rd r.src (32 + 8 * h.nruns), sp .wr r.dst (h.outBytes r.src r.dst) ++ rec')
  | .imload _, r :: _ => (sp .rd r.src (64 + imageBody (rdSpans s.mem (sp .rd r.src 64))), [])
  | _, _ => ([], rec')

/-- Whether earlier accesses of the core on path TR to the same granules have still to be made (R120). -/
def State.trBehind (s : State) (x : Xfer) (rd wr : List (Nat × Nat)) : Bool :=
  (s.xfers.any fun y => y.unit == x.unit && decide (y.id < x.id) &&
      let p := s.footprint y
      granulesMeet p.2 (rd ++ wr) || granulesMeet p.1 wr)
    || s.flights.any fun f => f.unit == x.unit && f.path == pTR && f.writes && !x.writes.contains f.id
        && granulesMeet f.spans rd

/-- Whether a source read of an operation may be made: its tiles are full, or empty by the operation's own clearing
(R100, R317). -/
def State.sourceReady (s : State) (x : Xfer) (sp : List (Nat × Nat)) : Bool :=
  (tilesOfSpans sp).all fun t => s.present t || x.tiles.contains (t, (s.tile t).2)

/-- The tiles that an operation stopped now leaves empty: those of rows not made, of a block not written all (R112, R317). -/
def Xfer.goneTiles (x : Xfer) : List Nat :=
  if x.kind == .block && !x.rows.isEmpty then x.left else (x.rows.map fun r => namedTiles x.unit r.dst r.bytes).flatten

/-- An operation stops at a fault: logged, its CODE set; the tiles of rows not made stay empty, but for a malformed block
(`keep`), whose tiles become full again (R319). -/
def State.xferFault (s : State) (x : Xfer) (f : Flt) (keep : Bool) : State :=
  let gone := if keep then [] else x.goneTiles
  (s.logFault (s.xferWho x) f).modXfer x.id fun y =>
    { y with code := codeOf f, rows := [], cross := none, left := y.left.filter fun t => !gone.contains t }

/-- ALIGNMENT of an address of an operation. -/
def alignFault (va : BitVec 64) (n : Nat) (a : Acc) : List Flt := if va.toNat % n != 0 then [(align va n).on pTR a] else []

/-- Send the bytes of a write of an operation on their way. -/
def State.xferWrite (s : State) (x : Xfer) (lat : Nat) (sp : List (Nat × Nat)) (bs : List Byte) : State :=
  let f : Flight := ⟨s.ids, x.unit, x.seq, x.addr, 7, pTR, s.cycle, s.cycle + lat, false, true, sp, x.task, x.sup, none,
    false, 0, .store bs⟩
  ({ s with flights := s.flights ++ [f], ids := s.ids + 1 } : State).modXfer x.id fun y =>
    { y with writes := y.writes ++ [f.id] }

/-- Go on with an access of an operation unless its queue would pass a budget and freezes (R368). -/
def State.xferAdmit (s : State) (x : Xfer) (sp : List (Nat × Nat)) (tlb : List TlbEntry) (k : State → State) : State :=
  let d := dieOf x.unit
  let m := 16 + coreIn x.unit
  match s.overBudget d m (useOf sp) with
  | some r => s.freeze d m r (s.xferWho x)
  | none => k ((s.tlbAdd d tlb).charge d m (useOf sp))

/-- Whether the core's transfer queue is frozen. -/
def State.txFrozen (s : State) (u : Nat) : Bool := (s.die (dieOf u)).frozenTx.contains (coreIn u)

/-- Whether a freeze pauses an operation: the transform units are no part of the queue (R328). -/
def State.pausedXfer (s : State) (x : Xfer) : Bool := x.kind != .transform && s.txFrozen x.unit

/-- Check an access of an operation. -/
def State.xferReach (s : State) (x : Xfer) (a : Acc) (va : BitVec 64) (n : Nat) : Except Flt Reach :=
  s.reach x.unit (dieOf x.unit) (s.xferCtx x) pTR a false va n

/-- How much of a row of a copy moves at once: to or from host memory a write of at most 256 bytes, a read of at most 512, none
across a 4 KiB page (R327); else the row. -/
def XRow.piece (r : XRow) : Nat :=
  let host := fun (va : BitVec 64) (n : Nat) => if va.toNat / 2 ^ 60 == 3 then min n (4096 - va.toNat % 4096) else r.bytes
  min r.bytes (min (host r.dst 256) (host r.src 512))

/-- The first n bytes of spans. -/
def takeSpans (n : Nat) (sp : List (Nat × Nat)) : List (Nat × Nat) :=
  match sp with
  | [] => []
  | (p, k) :: r => if n == 0 then [] else (p, min n k) :: takeSpans (n - k) r

/-- The next row of a copy, or the next piece of it; a read waits through a cycle in which a matrix read occupies its bank (R269). -/
def State.copyStep (s : State) (x : Xfer) (r : XRow) : State :=
  let rd := s.xferReach x .rd r.src r.bytes
  let wr := s.xferReach x .wr r.dst r.bytes
  let size := (fmtBits x.fmt + 7) / 8
  match lowestFault (faultOf rd ++ faultOf wr ++ alignFault r.src size .rd ++ alignFault r.dst size .wr), rd, wr with
  | none, .ok p, .ok q =>
    let n := r.piece
    let part := takeSpans n
    if !s.sourceReady x p.spans || s.trBehind x p.spans q.spans then s
    else if s.banksHold x.ahead (part p.spans) then s.modXfer x.id fun y => { y with ahead := s.readFree y.ahead (part p.spans) }
    else
      let host := (p.spans ++ q.spans).any fun y => spaceOf y.1 == 3
      s.xferAdmit x (part p.spans ++ part q.spans) (p.tlb ++ q.tlb) fun s =>
      let bs := loadBytes s.mem x.ahead (part p.spans)
      let s := s.xferWrite x (p.latency x.unit + q.latency x.unit) (part q.spans) bs
      let rest : List XRow := if n < r.bytes then [⟨r.src + BitVec.ofNat 64 n, r.dst + BitVec.ofNat 64 n, r.bytes - n⟩] else []
      s.modXfer x.id fun y => { y with
        rows := rest ++ y.rows.drop 1, due := s.cycle + ceilDiv n (if host then 64 else 256),
        ahead := y.ahead.filter fun c => !(part p.spans).any fun q => q.1 ≤ c.1 && c.1 < q.1 + q.2,
        elems := if y.finger.isSome then y.elems ++ bs else [] }
  | some f, _, _ => s.xferFault x f false
  | none, _, _ => s

/-- The piece of a source in host memory that is read next: at most 512 bytes, none across a 4 KiB page (R327). -/
def unreadPiece (got : List Host.Cell) (sp : List (Nat × Nat)) : Option (Nat × Nat) :=
  (spanParts 512 (sp.filter fun p => spaceOf p.1 == 3)).find? fun p => !got.any fun c => c.1 == p.1

/-- A source of an operation that is read whole: it waits for its tiles and for earlier accesses of the core to its granules, host
memory is read piece by piece at 64 bytes per cycle (R327), and for matrix reads of its banks (R269); then the bytes go on to `k`. -/
def State.sourceBytes (s : State) (x : Xfer) (p : Reach) (wr : List (Nat × Nat)) (k : List Byte → State) : State :=
  if !s.sourceReady x p.spans || s.trBehind x p.spans wr then s
  else match unreadPiece x.ahead p.spans with
    | some q => s.xferAdmit x [q] p.tlb fun s => s.modXfer x.id fun y =>
        { y with ahead := y.ahead ++ (cellsOf s.mem q).filter fun c => !y.ahead.any fun b => b.1 == c.1, due := s.cycle + ceilDiv q.2 64 }
    | none =>
      if s.banksHold x.ahead p.spans then s.modXfer x.id fun y => { y with ahead := s.readFree y.ahead p.spans }
      else k (loadBytes s.mem x.ahead p.spans)

/-- The spans of a source that its last step reads: those outside host memory. -/
def nearSpans (sp : List (Nat × Nat)) : List (Nat × Nat) := sp.filter fun p => spaceOf p.1 != 3

/-- The writes of an operation that writes all at once: to host memory in pieces of at most 256 bytes, none across a 4 KiB page, at 64
bytes per cycle (R327). -/
def State.xferWrites (s : State) (x : Xfer) (lat : Nat) (sp : List (Nat × Nat)) (bs : List Byte) : State :=
  if sp.all fun p => spaceOf p.1 != 3 then s.xferWrite x lat sp bs
  else ((spanParts 256 sp).foldl (fun (a : State × List Byte × Nat) p =>
    (a.1.xferWrite x a.2.2 [p] (a.2.1.take p.2), a.2.1.drop p.2, a.2.2 + ceilDiv p.2 64)) (s, bs, lat)).1

/-- A block copy: its header is read, then all of it; it is checked, and written expanded or as it stands (R319). -/
def State.blockStep (s : State) (x : Xfer) (r : XRow) : State :=
  match lowestFault (faultOf (s.xferReach x .rd r.src 32) ++ alignFault r.src 32 .rd), s.xferReach x .rd r.src 32 with
  | none, .ok p => s.sourceBytes x p [] fun bs =>
    let h := blockHdr bs
    let bad := (prot 6 r.src).on pTR .rd
    let read := fun (p : Reach) (k : State → State) => s.xferAdmit x (nearSpans p.spans) p.tlb k
    if !h.ok then read p fun s => s.xferFault x bad true
    else
      let exp := expandsVa r.src r.dst h.expt
      let wr := s.xferReach x .wr r.dst (h.outBytes r.src r.dst)
      let al := alignFault r.dst (if exp then fmtBits h.fmt / 8 else 32) .wr
      let sp := match wr with | .ok q => q.spans | .error _ => []
      match s.xferReach x .rd r.src (32 + 8 * h.nruns) with
      | .error f => read p fun s => s.xferFault x ((lowestFault (f :: faultOf wr ++ al)).getD f) false
      | .ok p => s.sourceBytes x p sp fun raw =>
        match lowestFault (faultOf wr ++ al ++ if blockRunsOk h (raw.drop 32) then [] else [bad]), wr with
        | none, .ok q => s.xferAdmit x (nearSpans p.spans ++ q.spans) (p.tlb ++ q.tlb) fun s =>
            let out := if exp then expandRuns h (raw.drop 32) else (raw, 0)
            let s := s.xferWrites x (p.latency x.unit + q.latency x.unit) q.spans out.1
            let more := (tilesOfSpans q.spans).filter fun t => !x.left.contains t
            (s.setTiles more false).modXfer x.id fun y => { y with
              rows := [], left := y.left ++ more, flg := out.2, fmt := h.fmt, packed := !exp,
              elems := if y.finger.isSome then out.1 else [] }
        | some f, _ => read p fun s => s.xferFault x f (f == bad)
        | none, _ => s
  | some f, _ => s.xferFault x f false
  | none, _ => s

/-- An IMLOAD: the image's header is read, then all of it; it is expanded and written (R325, R326). -/
def State.imloadStep (s : State) (x : Xfer) (half : Bool) (r : XRow) : State :=
  match lowestFault (faultOf (s.xferReach x .rd r.src 64) ++ alignFault r.src 8 .rd), s.xferReach x .rd r.src 64 with
  | none, .ok p => s.sourceBytes x p [] fun hdr =>
    let h := leNat hdr
    let read := fun (k : State → State) => s.xferAdmit x (nearSpans p.spans) p.tlb k
    if !imageHdrOk h then read fun s => s.modXfer x.id fun y => { y with rows := [], code := 7 }
    else match s.xferReach x .rd r.src (64 + imageBody hdr) with
      | .error f => read fun s => s.xferFault x f false
      | .ok p => s.sourceBytes x p [] fun raw => s.xferAdmit x (nearSpans p.spans) p.tlb fun s =>
        let out := expandImage h (raw.drop 64)
        let first := (if half then 4096 else 0) + h / 2 ^ 32 % 2 ^ 12
        (s.writeCode x.unit first out.1).modXfer x.id fun y => { y with rows := [], code := out.2 }
  | some f, _ => s.xferFault x f false
  | none, _ => s

/-- Write one row of a transform's result, which begins at its `src` in the bytes computed. -/
def State.writeRow (s : State) (x : Xfer) (r : XRow) : State :=
  s.write (scratchPlace x.unit r.dst.toNat) ((x.buf.drop r.src.toNat).take r.bytes)

/-- What is left of the destination bytes of a transform is written. -/
def State.transformStep (s : State) (x : Xfer) : State :=
  (x.rows.foldl (fun s r => s.writeRow x r) s).modXfer x.id fun y => { y with rows := [], buf := [] }

/-- What is left of a row without n bytes of it from offset o on. -/
def XRow.split (r : XRow) (o n : Nat) : List XRow :=
  ([⟨r.src, r.dst, o⟩, ⟨r.src + BitVec.ofNat 64 (o + n), r.dst + BitVec.ofNat 64 (o + n), r.bytes - (o + n)⟩] : List XRow).filter (·.bytes != 0)

/-- One granule of the destination of a transform is written, of those that are left (R117). -/
def State.transformPart (s : State) (x : Xfer) (g : Nat) : State :=
  match ((x.rows.map fun r => (granuleParts [(r.dst.toNat, r.bytes)]).map fun p => (r, p)).flatten)[g]? with
  | none => s
  | some (r, p) =>
    let o := p.1 - r.dst.toNat
    (s.writeRow x ⟨r.src + BitVec.ofNat 64 o, BitVec.ofNat 64 p.1, p.2⟩).modXfer x.id fun y =>
      { y with rows := (y.rows.map fun t => if t == r then t.split o p.2 else [t]).flatten }

/-- The fingerprint record is written once the last row has been (R324). -/
def State.fingerStep (s : State) (x : Xfer) (va : BitVec 64) : State :=
  let wr := s.xferReach x .wr va 32
  match lowestFault (faultOf wr ++ alignFault va 32 .wr), wr with
  | none, .ok q =>
    if s.trBehind x [] q.spans then s
    else s.xferAdmit x q.spans q.tlb fun s =>
      (s.xferWrite x (q.latency x.unit) q.spans (fingerprint x.fmt x.packed x.elems)).modXfer x.id fun y =>
        { y with fpd := true, elems := [] }
  | some f, _ => s.xferFault x f true
  | none, _ => s

/-- SEGMENT_CROSS of a copy: the segment and its boundary (R317). -/
def crossFault (i b : Nat) : Flt :=
  ({ Flt.of 0x0A 0 (BitVec.ofNat 64 i) with info1 := BitVec.ofNat 64 b }).on pTR .rd

/-- A transfer operation goes on: its next row, or what follows its last one. A transform may write at any time between the end of its
reads and its completion (R320). -/
def State.xferProgress (s : State) (x : Xfer) : State :=
  match x.rows with
  | r :: _ =>
    if x.kind == .transform then (if x.work.isNone then s.transformStep x else s)
    else if s.txFrozen x.unit || s.cycle < x.due then s
    else match x.kind with
      | .copy => match x.cross with
        | some c => if x.rows.length ≤ c.2.2 then s.xferFault x (crossFault c.1 c.2.1) false else s.copyStep x r
        | none => s.copyStep x r
      | .block => s.blockStep x r
      | .imload h => s.imloadStep x h r
      | .transform => s
  | [] =>
    if s.txFrozen x.unit || x.recd then s
    else match x.finger with
      | some va => if x.fpd || x.code != 0 then s else s.fingerStep x va
      | none => s

/-- The places that an operation reads next, as far as what it has read shows them. -/
def State.xferSource (s : State) (x : Xfer) (r : XRow) : List (Nat × Nat) :=
  let at' := fun (n : Nat) => match s.xferReach x .rd r.src n with | .ok p => p.spans | .error _ => []
  let head := fun (n : Nat) (more : List Byte → Nat) =>
    if allRead x.ahead (at' n) then at' (n + more (loadBytes s.mem x.ahead (at' n))) else at' n
  match x.kind with
  | .copy => takeSpans r.piece (at' r.bytes)
  | .block => head 32 fun bs => 8 * (blockHdr bs).nruns
  | .imload _ => head 64 imageBody
  | .transform => []

/-- A transfer operation reads one granule of its source ahead of the others, or a transform writes one of its destination (R117). -/
def State.xferPart (s : State) (x : Xfer) (g : Nat) : State :=
  match x.rows with
  | [] => s
  | r :: _ =>
    let sp := s.xferSource x r
    if x.kind == .transform then (if x.work.isNone then s.transformPart x g else s)
    else if s.txFrozen x.unit || s.cycle < x.due || !s.sourceReady x sp || s.trBehind x sp [] then s
    else s.modXfer x.id fun y => { y with ahead := s.readPart y.ahead sp g }

/-- Transforms whose writing time is over have written by now (R320). -/
def State.transformWrites (s : State) : State :=
  s.xfers.foldl (fun s x =>
    if x.kind == .transform && !x.rows.isEmpty && decide (x.due ≤ s.cycle) && x.work.isNone then s.transformStep x else s) s

/-! ## Completion (R313, R317, R320) -/

/-- The status word's low bits (R314). -/
def Xfer.status (x : Xfer) : BitVec 14 :=
  BitVec.ofNat 14 ((if x.code == 0 then 1 else x.code.toNat) + x.flg.toNat * 2 ^ 8 + (if x.fpd then 2 ^ 13 else 0))

/-- The status is recorded in the ring of its task; completed operations stand last, in the order of completion. -/
def State.recordXfer (s : State) (x : Xfer) : State :=
  let s := if s.xferCurrent x then s.modUnit x.unit (·.ringPut x.tok x.status) else s
  match s.xfers.find? fun y => y.id == x.id with
  | none => s
  | some y => { s with xfers := (s.xfers.filter fun z => z.id != x.id) ++ [{ y with recd := true }] }

/-- Whether a completed operation of a core's engine holds its event for want of room: the engine waits (R30). -/
def State.heldXfer (s : State) (u : Nat) : Bool :=
  s.xfers.any fun y => y.unit == u && y.recd && y.post && !s.xferOpen y

/-- A completed operation whose writes have performed leaves: its event, once the queue has room and in the order of completion
(R30, R129). -/
def State.leaveXfer (s : State) (id : Nat) : State :=
  match s.xfers.find? fun x => x.id == id with
  | none => s
  | some x =>
    let q := ctlOf (clusterOf x.unit)
    if s.xferOpen x || (x.post && (!s.eventRoom q
        || (s.xfers.takeWhile fun y => y.id != id).any fun y => y.unit == x.unit && y.recd && y.post)) then s
    else
      let s := if x.post then s.postEvent q ⟨BitVec.ofNat 64 (x.tok.toNat + 2 ^ 60), BitVec.ofNat 64 (x.status.toNat + x.unit * 2 ^ 55)⟩
        else s
      { s with xfers := s.xfers.filter fun y => y.id != id }

/-- Whether an operation has issued its last write, and those it must wait for have performed: a fingerprint (R324), host
writes over PCI Express (R327). -/
def State.lastIssued (s : State) (x : Xfer) : Bool :=
  let out := s.flights.filter fun f => x.writes.contains f.id
  x.kind != .transform && x.rows.isEmpty && x.cross.isNone && (x.finger.isNone || x.code != 0 || x.fpd)
    && !(x.fpd && out.any fun f => x.writes.getLast? == some f.id)
    && !(!Config.trainedCxl s.glob.boots && out.any fun f => f.spans.any fun p => spaceOf p.1 == 3)

/-- TRANSFER_COMPLETE of operation n: its status is recorded; then, in this step or a later one, it leaves. -/
def execTransferComplete (s : State) : Host.Outcome State Fault Refusal :=
  match s.xfers[s.arg.n]? with
  | none => .next s
  | some x =>
    if x.recd then .next (s.leaveXfer x.id)
    else if s.txFrozen x.unit || s.heldXfer x.unit || !s.lastIssued x then .next s
    else .next ((s.recordXfer x).leaveXfer x.id)

/-- TRANSFER_TILE_RELEASE of operation n and tile m: every write of it to the tile has performed. -/
def execTransferTileRelease (s : State) : Host.Outcome State Fault Refusal :=
  match s.xfers[s.arg.n]? with
  | none => .next s
  | some x =>
    let t := s.arg.m
    let later := x.rows.any fun r => (namedTiles x.unit r.dst r.bytes).contains t
    let out := s.flights.any fun f => x.writes.contains f.id && (tilesOfSpans f.spans).contains t
    if x.kind == .transform || (x.kind == .block && !x.rows.isEmpty) || !x.left.contains t || later || out then .next s
    else .next (((s.setTile t true).modXfer x.id fun y => { y with left := y.left.filter (· != t) }).leaveXfer x.id)

/-- TRANSFORM_COMPLETE of operation n, at t + L: its bits are set and its token completes. -/
def execTransformComplete (s : State) : Host.Outcome State Fault Refusal :=
  match s.xfers[s.arg.n]? with
  | none => .next s
  | some x =>
    if x.kind != .transform || x.recd || x.work.isSome || s.cycle < x.due || s.heldXfer x.unit then .next s
    else
      let s := s.transformStep x
      let s := (s.setTiles x.left true).modXfer x.id fun y => { y with left := [] }
      .next ((s.recordXfer x).leaveXfer x.id)

/-! ## Transform units (R320 to R323) -/

/-- The tiles of a range of the own scratchpad, cut at its end. -/
def ownTiles (u off n : Nat) : List Nat := tilesOf (scratchPlace u off) (min n (2 ^ 23 - off))

/-- A transform issues once its source tiles are full, and reads its source 512 bytes a cycle for `work`: `lat` is when it completes. At a
fault detected at issue, or with nothing to do (`early`), it reads and writes nothing and completes at t + 20 (R320). -/
def State.transform (s : State) (t : BitVec 5) (q : BitVec 1) (src : Nat × Nat) (dst n lat : Nat) (work : XWork) (bad : Option Flt)
    (early : Bool) : State :=
  if !s.allFull (ownTiles s.u src.1 src.2) then s.waitOr 1
  else
    let tiles := ownTiles s.u dst n
    let s := match bad with
      | some f => s.logFault (s.whoCur true) (f.on pTR .rd)
      | none => s
    let id := s.ids
    let reads := (List.range (ceilDiv src.2 512)).map fun i => (s.cycle + i, scratchPlace s.u src.1 + 512 * i, min 512 (src.2 - 512 * i))
    let s := if early then s else s.beginStream false reads (0, 0)
    s.launchXfer t tiles fun tok =>
      { s.xfer tok q .transform (if early || n == 0 then [] else [⟨0, BitVec.ofNat 64 dst, n⟩]) with
        due := s.cycle + (if early then 20 else lat), work := if early then none else some (id, work)
        code := match bad with | some f => codeOf f | none => 0 }

/-- A byte offset in the own scratchpad (R320). -/
def State.ownOff (s : State) (r : BitVec 5) : Nat := (s.rs r).toNat % 2 ^ 23

/-- The address of a byte of the own scratchpad. -/
def ownVa (u off : Nat) : BitVec 64 := BitVec.ofNat 64 (2 * 2 ^ 60 + u * 2 ^ 23 + off + dieOf u * (2 ^ 29 - 2 ^ 27))

/-- XPOSE. -/
def execXpose (t d sr : BitVec 5) (k : BitVec 4) (q : BitVec 1) (s : State) : Host.Outcome State Fault Refusal :=
  if s.xferFull then .next (s.waitOr 2)
  else
    let src := s.ownOff sr
    let dst := s.ownOff d
    let bad := ([src, dst].find? fun o => o % 4096 != 0).map fun o => align (ownVa s.u o) 4096
    .next (s.transform t q (src, 4096) dst 4096 40 (.xpose (2 ^ k.toNat)) bad bad.isSome)

/-- A narrow-integer block of 32 values under R81: the scale byte, the codes, the flags. -/
def niBlock (efr : Byte) (rm : BitVec 3) (v : Nat → Nat) (first : Nat) (xs : List FV) : Byte × List Nat × Flags :=
  match mxScale 0 xs with
  | none => (0xFF, xs.map fun _ => 0, if xs.any isNan then fNV else 0)
  | some (b, e) =>
    let rs := xs.mapIdx fun i x => toNarrow efr rm (v (first + i)) (match x with | .num n m g => .num n m (g - e) | y => y)
    (b, rs.map fun r => r.1.toNat, rs.foldl (fun f r => f ||| r.2) 0)

/-- The result of XCVT on its source bytes: bytes and flags (R322). DESIGN CHOICE (log entry 141): a scaled narrow code beyond the range
of FP32, which R322 calls exact, becomes an infinity and raises no flag. -/
def xcvtBytes (k n : Nat) (efr : Byte) (rm : BitVec 3) (v : Nat → Nat) (bs : List Byte) : List Byte × Flags :=
  let fl := fun (rs : List Res) => rs.foldl (fun f r => f ||| r.2) 0
  let w := efrWidth efr
  if 1 ≤ k && k ≤ 4 then
    let rs := (leWords 4 bs).mapIdx fun i x => roundF (fmtOf k) rm (v i) (decodeF fp32 x)
    ((rs.map fun r => leBytes (fmtBits k / 8) r.1).flatten, fl rs)
  else if 5 ≤ k && k ≤ 8 then
    let rs := (leWords (fmtBits (k - 4) / 8) bs).map fun x => roundF fp32 0 0 (decodeF (fmtOf (k - 4)) x)
    ((rs.map fun r => leBytes 4 r.1).flatten, fl rs)
  else if k == 9 then
    let xs := (leWords 4 bs).map (decodeF fp32)
    let blocks := (chunks n 32 xs).mapIdx fun j b => niBlock efr rm v (32 * j) b
    (pack w (n * w / 8) ((blocks.map fun b => b.2.1).flatten) ++ blocks.map (·.1), blocks.foldl (fun f b => f ||| b.2.2) 0)
  else
    let cs := unpack w n (bs.take (n * w / 8))
    let sc := bs.drop (n * w / 8)
    ((cs.mapIdx fun i c => leBytes 4 (bits32 (niFV w efr c (sc.getD (i / 32) 0)))).flatten, 0)

/-- What a transform on a unit makes of its source bytes: the bytes to write, the flags, and the failure that its data reveals (R321 to
R323). -/
def XWork.result (w : XWork) (u : Nat) (bs : List Byte) : List Byte × Flags × Option Flt :=
  match w with
  | .xpose z =>
    let rows := chunks 32 128 bs
    (((List.range (128 / z)).map fun c => (rows.map fun r => (r.drop (c * z)).take z).flatten).flatten, 0, none)
  | .xcvt k n efr rm seed dst =>
    let v := fun (i : Nat) => if rm == 5 then noise seed (BitVec.ofNat 32 i) (BitVec.ofNat 32 dst) 0 0x10000000 else 0
    let r := xcvtBytes k n efr rm v bs
    (r.1, r.2, none)
  | .xexp hdr src dst =>
    let h := blockHdr hdr
    let body := bs.drop 32
    if !blockRunsOk h body then ([], 0, some (prot 6 (ownVa u src)))
    else if 2 ^ 23 < dst + h.len * (fmtBits h.fmt / 8) then ([], 0, some (prot 0x10 (ownVa u dst)))
    else let r := expandRuns h body; (r.1, r.2, none)

/-- A transform whose source has been read computes its result; a failure that the data reveals writes nothing (R323). -/
def State.transformRead (s : State) (x : Xfer) : State :=
  match x.work with
  | none => s
  | some (id, w) =>
    match s.stream? id with
    | none => s
    | some r =>
      if !r.todo.isEmpty then s
      else match w.result x.unit r.got.reverse.flatten with
        | (_, _, some f) => (s.logFault (s.xferWho x) (f.on pTR .rd)).modXfer x.id fun y =>
            { y with code := codeOf f, rows := [], work := none }
        | (out, fl, none) => s.modXfer x.id fun y => { y with buf := out, flg := fl, work := none }

/-- Transforms whose source has been read compute their results, and those whose writing time is over have written (R320). -/
def State.transforms (s : State) : State := (s.xfers.foldl State.transformRead s).transformWrites

/-- XCVT. -/
def execXcvt (t d sr nr : BitVec 5) (k : BitVec 4) (q : BitVec 1) (s : State) : Host.Outcome State Fault Refusal :=
  if s.xferFull then .next (s.waitOr 2)
  else
    let n := (s.rs nr).toNat % 2 ^ 32
    let efr : Byte := s.me.spr.efrt.setWidth 8
    if 4096 < n || (9 ≤ k.toNat && n % 32 != 0) then .next (s.raise (outOfBounds n))
    else
      let src := s.ownOff sr
      let dst := s.ownOff d
      let sz := xcvtSizes k.toNat n (efrWidth efr)
      let past := ([(src, sz.1), (dst, sz.2)].find? fun p => 2 ^ 23 < p.1 + p.2).map fun p => prot 0x10 (ownVa s.u p.1)
      let al := ([src, dst].find? fun o => o % 64 != 0).map fun o => align (ownVa s.u o) 64
      let bad := if n == 0 then none else match past with | some f => some f | none => al
      .next (s.transform t q (src, sz.1) dst sz.2 (20 + ceilDiv (max sz.1 sz.2) 256)
        (.xcvt k.toNat n efr s.me.spr.rm s.me.spr.srseed dst) bad (bad.isSome || n == 0))

/-- XEXP. -/
def execXexp (t d sr : BitVec 5) (q : BitVec 1) (s : State) : Host.Outcome State Fault Refusal :=
  if s.xferFull then .next (s.waitOr 2)
  else
    let src := s.ownOff sr
    let dst := s.ownOff d
    if !s.allFull (ownTiles s.u src 32) then .next (s.waitOr 1)
    else
      let hdr := rdBytes (s.mxMem s.u) (scratchPlace s.u src) 32
      let h := blockHdr hdr
      let n := h.len * (fmtBits h.fmt / 8)
      let total := 32 + 8 * h.nruns
      let head : List Flt := (if !h.ok then [prot 6 (ownVa s.u src)] else [])
        ++ (if 2 ^ 23 < src + (if h.ok then total else 32) then [prot 0x10 (ownVa s.u src)] else [])
        ++ (if src % 32 != 0 then [align (ownVa s.u src) 32] else [])
        ++ (if dst % 64 != 0 then [align (ownVa s.u dst) 64] else [])
      match lowestFault head with
      | some f => .next (s.transform t q (src, 32) dst (if h.ok then n else 0) 20 (.xexp hdr src dst) (some f) true)
      | none => .next (s.transform t q (src, total) dst n (20 + ceilDiv h.nruns 16 + ceilDiv n 256) (.xexp hdr src dst) none false)

/-! ## CWAITT and CPOLL (R315) -/

/-- A status goes to a scalar. -/
def State.statusTo (s : State) (d : BitVec 5) (st : BitVec 14) : State :=
  (s.result 2 [(.s (s.ps d), .scalar (st.setWidth 64))] 0).issued 1

/-- CWAITT: holds tx while the status is 0x00. -/
def execCwaitt (d t : BitVec 5) (s : State) : Host.Outcome State Fault Refusal :=
  let st := s.me.ringGet ((s.rs t).setWidth 16)
  .next (if st.setWidth 8 == (0 : Byte) then s else s.statusTo d st)

/-- CPOLL. -/
def execCpoll (d t : BitVec 5) (s : State) : Host.Outcome State Fault Refusal :=
  .next (s.statusTo d (s.me.ringGet ((s.rs t).setWidth 16)))

end Sys2Proof.Machine
end

