-- ==== Sys2Proof/Machine/Task.lean ====
section
/-!
DEFINITION. Tasks: dispatch and replay (R26 to R28, R35, R147), pre-emption at drain points (R32 to R34), the register image
(R142, R143).
-/

namespace Sys2Proof.Machine

/-! ## Dispatch units (R26, R34) -/

/-- The cores of a group's dispatch unit. -/
def Group.coresOf (g : Group) (u : Nat) : List Nat := if g.cluster then Machine.coresOf (clusterOf u) else [u]

/-- Whether the context that runs is fatal: only teardown follows (R114), and it takes no work. -/
def State.fatalRuns (s : State) : Bool := s.glob.running.any fun c => (s.ctx c.toNat).fatal

/-- Whether a core is free to take work. -/
def State.coreFree (s : State) (u : Nat) : Bool :=
  let x := s.unit u
  u < 384 && x.task.isNone && !x.on && !x.frozen

/-- Whether a group's dispatch unit is free. -/
def State.unitFree (s : State) (g : Group) (u : Nat) : Bool := (g.coresOf u).all s.coreFree

/-! ## Task entry (R147, R223, R301, R313) -/

/-- A core at the entry of a task: the task's registers at their entry values; accumulators, planes, CELLOP, the trap
state and the stores' coherent bits stay (R34, R137), and so do a load of a plane and evaluations that an abandoned task has left in flight
(R134, R296). -/
def Unit.enter (x : Unit) (cycle : Nat) (t : Task) (entry : BitVec 13) (args : BitVec 64) : Unit :=
  let spr := x.spr
  { x with
    on := true, stream := false, s := Tab.set 0 (Tab.set 0 [] 1 args) 2 (t.index.setWidth 64), g := 0,
    front := ⟨entry.setWidth 64, [], 0, entry.getLsbD 12⟩,
    spr := { Spr.reset with coherent := spr.coherent, epc := spr.epc, frec := spr.frec, tscr0 := spr.tscr0, tscr1 := spr.tscr1 },
    eng := { Eng.reset with active := x.eng.active, shadow := x.eng.shadow, cellop := x.eng.cellop, load := x.eng.load, genUses := x.eng.genUses },
    disp := { Disp.reset with earliest := if spr.rfmode == 0xFF then cycle else cycle + 64 },
    slots := [], tok := 0, ring := [], task := some t, preempt := none, freed := none }

/-- Start a task on its cores. -/
def State.startTask (s : State) (g : Group) (u : Nat) (t : Task) : State :=
  (g.coresOf u).foldl (fun s v => s.modUnit v fun x => x.enter s.cycle t g.entry g.args) s

/-! ## The register image (R142, R143) -/

/-- Zero bytes. -/
def zeros (n : Nat) : List Byte := List.replicate n 0

/-- Bytes cut or padded to a length. -/
def padTo (n : Nat) (bs : List Byte) : List Byte := bs.take n ++ zeros (n - bs.length)

/-- A loop level (R150). -/
def Loop.bytes (l : Loop) : List Byte :=
  leBytes 8 (l.count.toNat + l.index.toNat * 2 ^ 32)
    ++ leBytes 8 (l.last.toNat % 2 ^ 13 + l.first.toNat % 2 ^ 13 * 2 ^ 16 + (if l.rot then 2 ^ 32 else 0))

/-- A loop level read back. -/
def Loop.ofBytes (bs : List Byte) : Loop :=
  let a := leNat (bs.take 8)
  let b := leNat ((bs.drop 8).take 8)
  ⟨BitVec.ofNat 32 a, BitVec.ofNat 32 (a / 2 ^ 32), BitVec.ofNat 64 (b / 2 ^ 16 % 2 ^ 13), BitVec.ofNat 64 (b % 2 ^ 13),
    b / 2 ^ 32 % 2 == 1⟩

/-- A shape register (R181). -/
def Shape.bytes (h : Shape) : List Byte :=
  padTo 64 h.hdr ++ leBytes 8 h.addr.toNat ++ leBytes 8 (h.origin.toNat + h.count * 2 ^ 32) ++ zeros 48
    ++ padTo 2048 ((h.win.map fun w => leBytes 4 w.toNat).flatten)

/-- A shape register read back. -/
def Shape.ofBytes (bs : List Byte) : Shape :=
  let k := leNat ((bs.drop 76).take 4) % 1024
  ⟨bs.take 64, BitVec.ofNat 64 (leNat ((bs.drop 64).take 8)), BitVec.ofNat 32 (leNat ((bs.drop 72).take 4)), k,
    ((leWords 4 ((bs.drop 128).take (4 * min k 512))).map (BitVec.ofNat 32))⟩

/-- A directory entry: RUNS, LEN, GATED. -/
def dirEntry (rs : List Run) (gated : Bool) : List Byte :=
  leBytes 8 (rs.length % 2 ^ 13 + runsLen rs % 2 ^ 24 * 2 ^ 24 + (if gated then 2 ^ 63 else 0))

/-- The register image of a core (R142). -/
def Unit.image (x : Unit) (u : Nat) : List Byte :=
  let vs := (List.range 64).map fun i => x.vreg (BitVec.ofNat 6 i)
  let ms := (List.range 8).map fun i => x.mreg (BitVec.ofNat 3 i)
  let gated := fun (i : Nat) => !x.spr.rfmode.getLsbD (i / 8)
  let entries := (ms.map fun rs => let b := (rs.map fun r => leBytes 4 (entryBits true r)).flatten
      padTo (8 * ceilDiv b.length 8) b).flatten
    ++ (vs.map fun rs => (rs.map fun r => leBytes 8 (entryBits false r)).flatten).flatten
  let size := 0x5180 + entries.length + 2056
  let task := match x.task with | some t => t.index.toNat | none => 0xFFFFFFFF
  let ls := x.front.loops.reverse
  leBytes 8 (size * 2 ^ 32 + 0x01B4)
    ++ leBytes 8 (x.front.pc.toNat % 2 ^ 13 + (if x.spr.inv then 2 ^ 13 else 0) + x.spr.rfmode.toNat * 2 ^ 16)
    ++ leBytes 8 (task + u * 2 ^ 32) ++ zeros 40
    ++ ((List.range 32).map fun i => leBytes 8 (x.sreg (BitVec.ofNat 5 i)).toNat).flatten
    ++ padTo 256 (leBytes 8 (x.g.toNat ||| 1) ++ leBytes 8 x.front.rotb.toNat
      ++ padTo 96 ((ls.map Loop.bytes).flatten) ++ leBytes 8 ls.length
      ++ ([x.spr.rm.toNat, x.spr.efrm.toNat, x.spr.efrv.toNat, x.spr.efrt.toNat, x.spr.sfc.toNat, x.spr.fflags.toNat,
        x.spr.srseed.toNat].map (leBytes 8)).flatten)
    ++ ((List.range 4).map fun i => x.scale (BitVec.ofNat 2 i)).flatten
    ++ ((List.range 8).map fun i => (x.shape (BitVec.ofNat 3 i)).bytes).flatten
    ++ padTo 256 (((List.range 16).map fun i => match x.gslot (BitVec.ofNat 4 i) with
        | some g => leBytes 8 g.name.toNat
        | none => zeros 8).flatten ++ ((List.range 8).map fun i => leBytes 8 (x.seed (BitVec.ofNat 3 i)).toNat).flatten)
    ++ (ms.map fun rs => dirEntry rs false).flatten
    ++ (vs.mapIdx fun i rs => dirEntry (if gated i then [] else rs) (gated i)).flatten
    ++ entries ++ leBytes 8 x.tok.toNat
    ++ ((List.range 256).map fun i => let e := Tab.get (0, 0) x.ring i
        leBytes 8 (e.1.toNat * 2 ^ 48 + e.2.toNat)).flatten

/-- A doubleword of an image. -/
def dw (bs : List Byte) (off : Nat) : Nat := leNat ((bs.drop off).take 8)

/-- The entries of the registers of a directory, cut from the bytes that follow; `pad` pads each to 8 bytes. -/
def cutEntries (mask : Bool) (dir : List Nat) (bs : List Byte) : List (List (Run × Bool)) × List Byte :=
  match dir with
  | [] => ([], bs)
  | d :: r =>
    let k := d % 2 ^ 13
    let w := if mask then 4 else 8
    let es := (leWords w (bs.take (w * k))).map (entryOf mask)
    let q := cutEntries mask r (bs.drop (8 * ceilDiv (w * k) 8))
    (es :: q.1, q.2)

/-- An image as a restore reads it: its directories, entries and transfer part. -/
structure Img where
  mdir : List Nat
  vdir : List Nat
  ms : List (List (Run × Bool))
  vs : List (List (Run × Bool))
  tail : List Byte
deriving DecidableEq, Repr

/-- Read an image's directories and entries. -/
def imgOf (bs : List Byte) : Img :=
  let mdir := (List.range 8).map fun i => dw bs (0x4F40 + 8 * i)
  let vdir := (List.range 64).map fun i => dw bs (0x4F80 + 8 * i)
  let m := cutEntries true mdir (bs.drop 0x5180)
  let v := cutEntries false vdir m.2
  ⟨mdir, vdir, m.1, v.1, v.2⟩

/-- The size that an image's directories give. -/
def imgSize (bs : List Byte) : Nat :=
  0x5180 + 2056 + ((List.range 8).map fun i => 8 * ceilDiv (4 * (dw bs (0x4F40 + 8 * i) % 2 ^ 13)) 8).sum
    + ((List.range 64).map fun i => 8 * (dw bs (0x4F80 + 8 * i) % 2 ^ 13)).sum

/-- Whether an image is malformed (R143); `known` says that a generator's name is SRNOISE or registered (R302). DESIGN CHOICE (log
entry 137): the doublewords of RM and of the token counter are checked whole. -/
def imageBad (bs : List Byte) (known : BitVec 64 → Bool) : Bool :=
  let i := imgOf bs
  let c := 0x140
  let stream := fun (d : Nat) (es : List (Run × Bool)) =>
    4096 < d % 2 ^ 13 || d / 2 ^ 24 % 2 ^ 24 != runsLen (es.map (·.1)) || streamBad es
  dw bs 0 != imgSize bs * 2 ^ 32 + 0x01B4
    || dw bs 8 / 2 ^ 14 % 4 != 0 || dw bs 8 / 2 ^ 24 != 0 || dw bs 16 / 2 ^ 41 != 0
    || ((bs.drop 24).take 40).any (· != 0)
    || (i.mdir.zip i.ms).any (fun p => stream p.1 p.2) || (i.vdir.zip i.vs).any (fun p => stream p.1 p.2)
    || i.vdir.zipIdx.any (fun p => (2 ^ 63 ≤ p.1 || !(dw bs 8 / 2 ^ 16).testBit (p.2 / 8)) && p.1 % 2 ^ 13 != 0)
    || 5 < dw bs (c + 0x78) || !efrValueOk 0 (BitVec.ofNat 16 (dw bs (c + 0x80)))
    || !efrValueOk 1 (BitVec.ofNat 16 (dw bs (c + 0x88))) || !efrValueOk 2 (BitVec.ofNat 16 (dw bs (c + 0x90)))
    || (leWords 8 (i.tail.take 2056)).zipIdx.any (fun p => if p.2 == 0 then 2 ^ 16 ≤ p.1 else p.1 / 2 ^ 14 % 2 ^ 34 != 0)
    || (List.range 16).any fun k => let n := BitVec.ofNat 64 (dw bs (0x4E40 + 8 * k)); n != 0 && !known n

/-- Restore a core from a valid image; residency slots are reloaded afterwards. -/
def Unit.restore (x : Unit) (cycle : Nat) (t : Task) (bs : List Byte) : Unit :=
  let i := imgOf bs
  let c := fun (k : Nat) => dw bs (0x140 + k)
  let pc := dw bs 8 % 2 ^ 13
  let rf : Byte := BitVec.ofNat 8 (dw bs 8 / 2 ^ 16)
  let regs := fun (l : List (List (Run × Bool))) => (l.zipIdx).foldl (fun (m : Tab (List Run)) p =>
    Tab.set [] m p.2 (heldRuns (p.1.map (·.1)))) []
  let depth := min 6 (c 0x70)
  { x with
    on := true, stream := false,
    s := (List.range 31).foldl (fun m k => Tab.set 0 m (k + 1) (BitVec.ofNat 64 (dw bs (0x48 + 8 * k)))) [],
    g := BitVec.ofNat 4 (c 0) &&& 14,
    front := ⟨BitVec.ofNat 64 pc, ((List.range depth).map fun k => Loop.ofBytes (bs.drop (0x150 + 16 * k))).reverse,
      BitVec.ofNat 4 (c 8), pc / 4096 == 1⟩,
    spr := { x.spr with
      rm := BitVec.ofNat 3 (c 0x78), efrm := BitVec.ofNat 16 (c 0x80), efrv := BitVec.ofNat 16 (c 0x88),
      efrt := BitVec.ofNat 16 (c 0x90), sfc := BitVec.ofNat 11 (c 0x98), fflags := BitVec.ofNat 5 (c 0xA0),
      srseed := BitVec.ofNat 64 (c 0xA8), rfmode := rf, sup := false, inv := dw bs 8 / 2 ^ 13 % 2 == 1 },
    eng := { Eng.reset with
      active := x.eng.active, shadow := x.eng.shadow, cellop := x.eng.cellop, load := x.eng.load, genUses := x.eng.genUses, m := regs i.ms,
      v := regs (i.vs.mapIdx fun k e => if rf.getLsbD (k / 8) then e else []),
      sc := (List.range 4).foldl (fun m k => Tab.set (zeros 512) m k ((bs.drop (0x240 + 512 * k)).take 512)) [],
      h := (List.range 8).foldl (fun m k => Tab.set .empty m k (Shape.ofBytes (bs.drop (0xA40 + 2176 * k)))) [],
      sd := (List.range 8).foldl (fun m k => Tab.set 0 m k (BitVec.ofNat 64 (dw bs (0x4EC0 + 8 * k)))) [] },
    disp := { Disp.reset with seq := 1, earliest := cycle }, slots := [], tok := BitVec.ofNat 16 (dw i.tail 0),
    ring := (List.range 256).foldl (fun m k => let e := dw i.tail (8 + 8 * k)
      Tab.set (0, 0) m k (BitVec.ofNat 16 (e / 2 ^ 48), BitVec.ofNat 14 e)) [],
    task := some t, preempt := none, freed := none }

/-- Reload a residency slot of a restored core as by a GLOAD, pending until the image is resident (R302). -/
def State.reload (s : State) (u n : Nat) (name : BitVec 64) : State :=
  let x := s.unit u
  let c := s.ctxOf u
  match s.imageNamed c name with
  | none => s
  | some g =>
    let f : Flight := ⟨s.ids, u, 0, 0, 5, pNone, s.cycle, s.cycle + copyTime u g, false, false, [], x.task, false,
      none, false, 0, .result [(.gn (BitVec.ofNat 4 n), .image (some g))] 0⟩
    let s : State := { s with flights := s.flights ++ [f], ids := s.ids + 1 }
    s.modUnit u fun x => x.modDisp fun d => { d with marks := (0, 5, .gn (BitVec.ofNat 4 n)) :: d.marks }

/-- PROTECTION's subcode of an image that cannot be restored on a unit: 0x06 if it is malformed (R143, R302), 0x01 if the registry,
which stands in stack 0 (R304), lies beyond a failed link (R13). DESIGN CHOICE (log entry 129): SRNOISE, the built-in image, is
reloaded from there too, as a GLOAD of it is. -/
def State.imageFault (s : State) (u : Nat) (c : BitVec 3) (bs : List Byte) : Option Byte :=
  if imageBad bs fun g => (s.imageNamed c g).isSome then some 6
  else if s.routeBad (dieOf u) 0 && (List.range 16).any fun k => dw bs (0x4E40 + 8 * k) != 0 then some 1 else none

/-! ## Drain points (R32) -/

/-- Remove a dispatched bundle and all later ones without effect. -/
def Unit.undispatch (x : Unit) (u : Nat) (b : Bun) : Unit :=
  let x := (slotsOf u).foldl (fun x k => x.modSlot k fun sl =>
    let q := sl.queue.filter fun o => o.seq < b.seq
    { sl with queue := q, hold := if q.isEmpty then .none else sl.hold }) x
  let x := x.modDisp fun d => { d with
    seq := b.seq, buns := d.buns.filter fun c => c.seq < b.seq, marks := d.marks.filter fun m => m.1 < b.seq,
    wait := match d.wait with | some n => if b.seq ≤ n then none else some n | none => none,
    pend := match d.pend with | some p => if b.seq ≤ p.seq then none else some p | none => none }
  { x with front := b.before }

/-- A pre-emption request reaches a unit: it chooses its drain point. In supervisor mode it takes none (R138). -/
def State.request (s : State) (u : Nat) (p : Preempt) : State :=
  let x := s.unit u
  let s := s.modUnit u fun x => { x with preempt := some p }
  if x.spr.sup then s
  else match drainBundle x.disp.buns with
    | some b =>
      let s := s.modUnit u (·.undispatch u b)
      { s with watches := s.watches.filter fun w => !(w.unit == u && (s.unit u).slots.all fun k => k.2.hold != .wait w.id) }
    | none => s

/-- Whether the next bundle of a unit is marked D, or the unit has saved or retired. -/
def State.atDrain (s : State) (u : Nat) : Bool :=
  let x := s.unit u
  x.disp.wait == none && x.disp.pend.isNone && x.disp.skips.all (· == 0) && (x.stream || x.front.inHalf u)
    && match s.fetch u with
      | .ok (b, _) => (bundleWord b 0).getLsbD 31
      | .error _ => false

/-- Whether a unit has reached its drain point and finished draining, every pending bit cleared: for a gang switch the
operations of a frozen transfer queue are left out, and a task pre-emption waits while the queue is frozen (R32, R130, R328). -/
def State.drainedAt (s : State) (u : Nat) (gang : Bool) : Bool :=
  let x := s.unit u
  let t := x.task
  !x.spr.sup && !x.frozen && s.atDrain u && x.allIssued u
    && !(s.landings.any fun l => l.unit == u) && !(s.rows.any fun r => r.unit == u) && x.eng.load.isNone
    && !(s.flights.any fun f => f.unit == u && f.task == t && !f.parked)
    && x.disp.marks.isEmpty && (gang || !s.txFrozen u)
    && !(s.xfers.any fun y => y.unit == u && y.task == t && s.xferOpen y && !(gang && s.pausedXfer y))

/-- A pre-emption request for a core's task: all cores of a cluster-shape one (R33). An earlier request stands. -/
def State.requestTask (s : State) (u : Nat) (p : Preempt) : State :=
  match (s.unit u).task with
  | none => s
  | some t => (taskUnits u t).foldl (fun s v =>
      if (s.unit v).preempt.isSome || !(s.unit v).on then s else s.request v p) s

/-- PREQ: landing n, a controller's write of a core identifier, takes effect (R33): a controller of the core's context, or the supervisor
controller, which belongs to none (R363), asks that the core's task be pre-empted. -/
def execPreq (s : State) : Host.Outcome State Fault Refusal :=
  match s.landings[s.arg.n]? with
  | none => .next s
  | some l =>
    match l.what with
    | .spr n v =>
      if n == 0x031 && s.mayLand l then
        let s : State := { s with landings := s.landings.eraseIdx s.arg.n }
        let u := v.toNat % 512
        let limit := (s.ctx (s.ctxOf u).toNat).plimit
        .next (if (s.unit u).task.isSome && (s.isSup l.unit || s.ctxOf u == s.ctxOf l.unit) then
          s.requestTask u ⟨s.timeOf (dieOf u), limit, false⟩ else s)
      else .next s
    | _ => .next s

/-! ## Saving (R32, R34) -/

/-- Whether a check found an absent unit (R8, R13). -/
def absentUnit (r : Except Flt Reach) : Bool := match r with | .error f => f.code == 0x19 && f.sub == 1 | .ok _ => false

/-- The source of a fault that names a task on a unit and no operation. -/
def State.taskWho (s : State) (u : Nat) : Who := ⟨u, s.ctxOf u, (s.unit u).task, 0, false, (s.unit u).spr.sup, false, 0, 0⟩

/-- TASK_PREEMPTION of unit n: the image goes to the save slot; one that does not fit abandons the task (R34). DESIGN CHOICE (log entry
130): a slot whose address names an absent die or needs a failed link raises 0x01 (R8, R13, R97), the lower subcode, and not 0x09. -/
def execTaskPreemption (s : State) : Host.Outcome State Fault Refusal :=
  let u := s.arg.n
  let x := s.unit u
  match x.preempt, x.task with
  | some p, some t =>
    if p.gang || x.disp.closed || !s.drainedAt u false then .next s
    else match s.groupOf t with
      | none => .next s
      | some g =>
        let img := x.image u
        let q := g.slot u
        let dest := if q.1.toNat / 2 ^ 60 == 1 then s.reach u (dieOf u) t.ctx pSL .wr false q.1 img.length
          else .error (prot 9 q.1)
        match decide (q.2 < img.length), dest with
        | false, .ok r =>
          let s := (s.writeSpans r.spans img).modUnit u fun x => { x with on := false, disp := { x.disp with closed := true } }
          .next (s.freeTask u t)
        | _, _ => .next ((s.logFault (s.taskWho u) (prot (if absentUnit dest then 1 else 9) q.1)).abandon u)
  | _, _ => .next s

/-- DRAIN_OVERRUN (R33, R133): the request's time and its limit; in supervisor mode FREC is logged first (R145). -/
def State.overrun (s : State) (u : Nat) (sub : Byte) (p : Preempt) : State :=
  let x := s.unit u
  let w := s.taskWho u
  let s := if x.spr.sup && !isCtl u then
      let held := (List.range 8).foldl (fun a i => a + (x.spr.frec.getD i 0).toNat * 2 ^ (64 * i)) 0
      s.logRecord { w with sup := false } { Flt.of (BitVec.ofNat 8 held) (BitVec.ofNat 8 (held / 256)) 0 with info0 := 0 }
        (BitVec.ofNat 512 held)
    else s
  s.logFault w { Flt.of 0x22 sub p.time with info1 := p.limit.setWidth 64 }

/-- PREEMPTION_LIMIT_EXPIRY of unit n: it has not begun its save within its limit (R33). -/
def execPreemptionLimitExpiry (s : State) : Host.Outcome State Fault Refusal :=
  let u := s.arg.n
  let x := s.unit u
  match x.preempt with
  | some p =>
    if x.task.isNone || p.gang || x.disp.closed || (s.timeOf (dieOf u)).toNat < p.time.toNat + p.limit.toNat then .next s
    else .next ((s.overrun u 0 p).abandon u)
  | none => .next s

/-! ## Work for a free unit (R26, R28, R35) -/

/-- Whether the accesses and transfers of an earlier attempt at an index are done, the accesses of its calls among them (R35, R130). -/
def State.attemptDone (s : State) (g : Group) (index : Word) : Bool :=
  let mine := fun (t : Option Task) => t.any fun t => t.isOf g && t.index == index
  !(s.flights.any fun f => mine f.task && !f.parked && (f.reads || f.writes))
    && !(s.xfers.any fun x => mine x.task && s.xferOpen x) && !(s.rows.any fun r => mine r.task)
    && !(s.streams.any fun r => mine r.task && !r.todo.isEmpty)
    && !(s.calls.any fun k => mine k.task && s.callAccesses k)

/-- What a free unit takes. -/
inductive Work where
  | resume (k : Nat)
  | replay (g : Group) (index : Word)
  | index (g : Group)
  /-- its part of a co-resident group's first indices, which start in one step (R28) -/
  | together (g : Group)
deriving DecidableEq, Repr

/-- The groups whose queue a core's cluster keeps and whose dispatch unit there is free, oldest first. -/
def State.queueOf (s : State) (u : Nat) : List Group :=
  s.groups.filter fun g => some g.ctx == s.glob.running && g.includes (clusterOf u) && s.unitFree g u
    && (!g.cluster || u % 4 == 0)

/-- The pending replay that a unit may take. -/
def State.replayFor (s : State) (u : Nat) : Option Work :=
  (s.queueOf u).findSome? fun g => match g.replays with
    | i :: _ => if s.attemptDone g i then some (.replay g i) else none
    | [] => none

/-- The place in a unit's list of a pre-empted task of the running context that it may resume. -/
def State.resumeFor (s : State) (u : Nat) (own : Bool) : Option Work :=
  let x := s.unit u
  let k := x.saved.findIdx fun p => some p.1.ctx == s.glob.running && (own || x.freed != some p.1)
    && (taskUnits u p.1).all s.coreFree && (!p.1.cluster || u % 4 == 0)
  if k < x.saved.length then some (.resume k) else none

/-- Whether work of a cluster's first core is work of the cluster as a unit (R26). -/
def State.ofCluster (s : State) (u : Nat) (w : Option Work) : Bool :=
  match w with
  | some (.resume k) => ((s.unit u).saved[k]?).any fun p => p.1.cluster
  | some (.replay g _) | some (.index g) | some (.together g) => g.cluster
  | none => false

/-- The first core of a core's cluster, which takes the cluster's work. -/
def firstOf (u : Nat) : Nat := u / 4 * 4

/-- The dispatch units of a group that have no task to resume and no replay to take, and whose cluster as a unit has none. -/
def State.freeFor (s : State) (g : Group) : List Nat :=
  g.units.filter fun u => s.unitFree g u && (s.resumeFor u false).isNone && (s.replayFor u).isNone
    && (g.cluster || !(s.ofCluster (firstOf u) (s.resumeFor (firstOf u) false) || s.ofCluster (firstOf u) (s.replayFor (firstOf u))))

/-- Whether a group's co-residency condition is met: enough of its units are free together (R28). -/
def State.together (s : State) (g : Group) : Bool := decide (g.count0.toNat ≤ (s.freeFor g).length)

/-- The index that a unit may take: of the oldest group in the queue that has one and whose co-residency condition is met. -/
def State.indexFor (s : State) (u : Nat) : Option Work :=
  ((s.queueOf u).find? fun g => (s.gword g 28).ult (s.gword g 32) && (!g.cores || g.begun || s.together g)).map fun g =>
    if g.cores && !g.begun then .together g else .index g

/-- The work of a free unit: a pre-empted task, passed over if its own pre-emption freed the unit and other work is there;
a replay; an index (R26). -/
def State.workFor (s : State) (u : Nat) : Option Work :=
  if !s.coreFree u || s.glob.swState == 2 || s.fatalRuns then none
  else match s.resumeFor u false with
    | some w => some w
    | none => match s.replayFor u with
      | some w => some w
      | none => match s.indexFor u with
        | some w => some w
        | none => s.resumeFor u true

/-- Whether a core's cluster as a unit has older work, for which the core stays free (R26). -/
def State.clusterTakes (s : State) (u : Nat) : Bool := s.ofCluster (firstOf u) (s.workFor (firstOf u))

/-- Whether a unit has work of its own, not a co-resident group's part. -/
def State.takes (s : State) (u : Nat) : Bool :=
  match s.workFor u with
  | none | some (.together _) => false
  | some (.resume _) | some (.replay _ _) | some (.index _) => true

/-- Whether a core would take an index though an older co-resident group of cluster shape has its condition met on the cluster's four
cores (R26, R28). -/
def State.yields (s : State) (v u : Nat) : Bool :=
  match s.workFor v, s.workFor u with
  | some (.together g), some (.index _) => g.cluster
  | _, _ => false

/-- Whether no lower-ranked free unit of the cluster takes work of its own first, and the cluster as a unit none (R26). -/
def State.turn (s : State) (u : Nat) : Bool :=
  (coresOf (clusterOf u)).all fun v => !(v < u) || !(s.takes v || s.yields v u)

/-- The accesses, transfers and calls of a task are of bundles before any of its resumption, whose count starts anew. -/
def State.renumber (s : State) (t : Task) : State :=
  let mine := fun (y : Option Task) => y.any t.same
  { s with flights := s.flights.map fun f => if mine f.task then { f with seq := 0 } else f,
           xfers := s.xfers.map fun x => if mine x.task then { x with seq := 0 } else x,
           calls := s.calls.map fun k => if mine k.task then { k with bun := 0 } else k }

/-- Read an image from a save slot, or the subcode of its fault (R13, R34, R143). -/
def State.readImage (s : State) (v : Nat) (c : BitVec 3) (a : BitVec 64) : Except Byte (List Byte) :=
  let bytes : Nat → Except Byte (List Byte) := fun n => match s.reach v (dieOf v) c pSL .rd false a n with
    | .error f => .error (if absentUnit (.error f) then 1 else 6)
    | .ok r => .ok (rdSpans s.mem r.spans)
  match bytes 64 with
  | .error e => .error e
  | .ok h =>
    let n := leNat h / 2 ^ 32 % 2 ^ 32
    if n < 22920 || 2251144 < n then .error 6
    else match bytes n with
      | .error e => .error e
      | .ok bs => match s.imageFault v c bs with
        | some e => .error e
        | none => .ok bs

/-- Resume a pre-empted task from its image, or abandon it if the image is malformed (R143) or cannot be reached (R13). -/
def State.resumeTask (s : State) (u k : Nat) : State :=
  match (s.unit u).saved[k]? with
  | none => s
  | some p =>
    let t := p.1
    let us := taskUnits u t
    let at' := fun (v : Nat) => match (s.unit v).saved.find? fun q => t.same q.1 with
      | some q => q
      | none => p
    let read := fun (v : Nat) => s.readImage v t.ctx (at' v).2
    let live := us.filter fun v => !(at' v).1.retired
    let bad := live.findSome? fun v => match read v with | .error e => some (v, e) | .ok _ => none
    let imgs := live.filterMap fun v => match read v with | .ok bs => some (v, bs) | .error _ => none
    let s := us.foldl (fun s v => s.modUnit v fun x =>
      { x with saved := x.saved.filter fun q => !t.same q.1, freed := none,
               task := some (at' v).1 }) s
    match bad with
    | some b => (s.logFault (s.taskWho b.1) (prot b.2 (at' b.1).2)).abandon u
    | none =>
      let s := s.renumber t
      let s := imgs.foldl (fun s p => s.modUnit p.1 fun x => x.restore s.cycle { t with retired := false } p.2) s
      imgs.foldl (fun s p => (List.range 16).foldl (fun s n =>
        s.reload p.1 n (BitVec.ofNat 64 (dw p.2 (0x4E40 + 8 * n)))) s) s

/-- Start an index or a replay. -/
def State.takeWork (s : State) (u : Nat) (w : Work) : State :=
  match w with
  | .resume k => s.resumeTask u k
  | .replay g i =>
    (s.modGroup g fun g => { g with replays := g.replays.drop 1 }).startTask g u
      ⟨g.ctx, g.recd, i, true, g.cores && i.ult g.count0, g.cluster, false, g.tag, g.ctl, g.num⟩
  | .index g =>
    let i := s.gword g 28
    (s.setGword g 28 (i + 1)).startTask g u ⟨g.ctx, g.recd, i, false, false, g.cluster, false, g.tag, g.ctl, g.num⟩
  | .together _ => s

/-- TASK_DISPATCH of unit n. -/
def execTaskDispatch (s : State) : Host.Outcome State Fault Refusal :=
  let u := s.arg.n
  match s.workFor u with
  | some w => if s.turn u then .next (s.takeWork u w) else .next s
  | none => .next s

/-- REPLAY_DISPATCH of unit n. -/
def execReplayDispatch (s : State) : Host.Outcome State Fault Refusal :=
  let u := s.arg.n
  match s.workFor u with
  | some (.replay g i) => if s.turn u then .next (s.takeWork u (.replay g i)) else .next s
  | _ => .next s

/-- CO_RESIDENT_DISPATCH of group n: its first indices all at once, in ascending rank, on the units for which no older work
is there (R26, R28). -/
def execCoResidentDispatch (s : State) : Host.Outcome State Fault Refusal :=
  match s.groups[s.arg.n]? with
  | none => .next s
  | some g =>
    let free := g.units.filter fun u => s.workFor u == some (.together g) && (g.cluster || !s.clusterTakes u)
    let n := g.count0.toNat
    if !g.cores || g.begun || some g.ctx != s.glob.running || s.glob.swState == 2 || s.fatalRuns || free.length < n then .next s
    else
      let s := (s.setGword g 28 g.count0).modGroup g fun g => { g with begun := true }
      .next (((free.take n).zipIdx).foldl (fun s p =>
        s.startTask g p.1 ⟨g.ctx, g.recd, BitVec.ofNat 32 p.2, false, true, g.cluster, false, g.tag, g.ctl, g.num⟩) s)

/-- BUNDLE_DISPATCH of unit n (R43). -/
def execBundleDispatch (s : State) : Host.Outcome State Fault Refusal := .next (s.dispatch s.arg.n)

end Sys2Proof.Machine
end

