-- ==== Sys2Proof/Machine/Gang.lean ====
section
/-!
DEFINITION. The gang context switch (R36, R37, R286, R328, R352).
-/

namespace Sys2Proof.Machine

/-! ## Arming (R36) -/

/-- SWCTL_ARM: SWCTL is written with ARM = 1. -/
def execSwctlArm (s : State) : Host.Outcome State Fault Refusal :=
  let v : Byte := s.arg.v.setWidth 8
  .next (if v.getLsbD 5 then s.modGlob (·.writeSwctl v) else s)

/-- SWCTL_CANCEL: SWCTL is written with ARM = 0. -/
def execSwctlCancel (s : State) : Host.Outcome State Fault Refusal :=
  let v : Byte := s.arg.v.setWidth 8
  .next (if v.getLsbD 5 then s else s.modGlob (·.writeSwctl v))

/-! ## Steps 1 and 2 (R37) -/

/-- The units that a context runs on: the supervisor controller belongs to none. -/
def State.unitsOf (s : State) (c : BitVec 3) : List Nat :=
  (List.range 480).filter fun u => !s.isSup u && (s.unit u).on && s.ctxOf u == c

/-- Whether a context may come in: it is resident. DESIGN CHOICE (log entry 114): only teardown follows a fatal context (R114), and a switch
that names one goes on as for one that is not resident. -/
def State.mayEnter (s : State) (c : BitVec 3) : Bool := (s.ctx c.toNat).state == 1 && !(s.ctx c.toNat).fatal

/-- The incoming context as SWCTL names it and the contexts stand at the instant (R36). -/
def State.incoming (s : State) : Option (BitVec 3) :=
  let c : BitVec 3 := s.glob.swctl.setWidth 3
  if !s.glob.swctl.getLsbD 4 && s.mayEnter c then some c else none

/-- SWCTL while a switch runs: STATE 0b10, ARM clear; the incoming context is fixed. -/
def Glob.beginSwitch (g : Glob) (now : BitVec 64) (step : Nat) (inc : Option (BitVec 3)) : Glob :=
  { g with swctl := BitVec.ofNat 8 (g.swctl.toNat % 32 + 128), swStep := step, swTime := now, swBad := false, swDies := [],
           swIn := inc }

/-- The limit of step 1: the lower of PLIMIT and 1.2 ms. -/
def Ctx.switchLimit (c : Ctx) : Word := if c.plimit.toNat < 1200000 then c.plimit else 1200000

/-- A gang switch's request to a unit; it stands in place of a task pre-emption asked for before (R39). -/
def State.gangRequest (s : State) (u : Nat) (limit : Word) : State := s.request u ⟨s.timeOf (dieOf u), limit, true⟩

/-- Whether a die's counter has reached the instant of an armed switch, or of one that other dies have begun (R37). -/
def State.instantDue (s : State) (d : Nat) : Bool :=
  (s.glob.swState == 1 || (s.glob.swStep == 1 && !s.glob.swDies.contains d)) && s.glob.switchat.ule (s.timeOf d)

/-- The defined channels of a context. -/
def State.definedChans (s : State) (c : BitVec 3) : List (BitVec 6) :=
  ((List.range 64).map (BitVec.ofNat 6)).filter fun ch => (s.chan c.toNat ch).defd

/-- SWITCH_INSTANT of die n: every unit of the running context on it receives its request, and its channels pause. The first
die's instant begins the switch; while no context runs, it is all there is before the restore (R36, R37). -/
def execSwitchInstant (s : State) : Host.Outcome State Fault Refusal :=
  let d := s.arg.n % 24
  if !s.instantDue d then .next s
  else match s.glob.running with
    | none => .next (s.modGlob (·.beginSwitch (s.timeOf d) 2 s.incoming))
    | some c =>
      let limit := (s.ctx c.toNat).switchLimit
      let s := if s.glob.swState == 1 then s.modGlob (·.beginSwitch (s.timeOf d) 1 s.incoming) else s
      let s := s.modGlob fun g => { g with swDies := d :: g.swDies }
      let s := ((s.unitsOf c).filter fun u => dieOf u == d).foldl (fun s u => s.gangRequest u limit) s
      .next (s.pause c ((s.definedChans c).filter fun ch => (s.chan c.toNat ch).die == d))

/-- Whether a unit's step 1 is over. -/
def State.gangDrained (s : State) (u : Nat) : Bool := (s.unit u).disp.closed || s.drainedAt u true

/-- A result-bearing call whose core is abandoned at the step-1 limit aborts its handle (R352). -/
def State.abandonCalls (s : State) (u : Nat) : State :=
  (s.calls.filter fun k => k.unit == u && k.bears && !k.fin && k.task == (s.unit u).task).foldl
    (fun s k => s.abortCall k 0 0 2) s

/-- Abandon an undrained unit with DRAIN_OVERRUN 0x01 (R37). DESIGN CHOICE (log entry 134): a controller has no task to abandon; the
fault is logged, the controller stops as by any fault, and SWCTL.STATE will read 0b11. -/
def State.gangAbandon (s : State) (u : Nat) : State :=
  match (s.unit u).preempt with
  | none => s
  | some p =>
    let s := (s.abandonCalls u).overrun u 1 p
    let s := s.modGlob fun g => { g with swBad := true }
    if isCtl u then s.stopCtl u (s.unit u).front.pc else s.abandon u

/-- Whether a unit has not drained within the limit of its request. -/
def State.gangLate (s : State) (u : Nat) : Bool :=
  !s.gangDrained u && (s.unit u).preempt.any fun p =>
    p.gang && decide (p.time.toNat + p.limit.toNat ≤ (s.timeOf (dieOf u)).toNat)

/-- Whether a call has a contribution in the switch, or its outcome, that its port has not concluded: result-bearing calls are not
paused, so a save waits for it even if no core does (R352, R354, R355), but for what a frozen engine holds (R38). -/
def State.contributing (s : State) (c : BitVec 3) (k : Call) : Bool :=
  k.ctx == c && (k.kind == 5 || k.kind == 8) && !k.fin && 0 < k.next && !(k.status != 0 && (s.die k.die).frozenColl)

/-- The contributions of a context that no core awaits and that are not concluded at the step-1 limit. DESIGN CHOICE (log entry 131):
their handles are aborted as for those of an abandoned core (R352), when the counter of the call's die has reached the limit. -/
def State.lateParts (s : State) (c : BitVec 3) : List Call :=
  if s.glob.swStep == 1 then
    s.calls.filter fun k => decide (s.glob.swTime.toNat + (s.ctx c.toNat).switchLimit.toNat ≤ (s.timeOf k.die).toNat)
      && s.contributing c k && k.status == 0 && !s.fabric.any fun p => p.kind == pkAbort && p.call == k.id
  else []

/-- SWITCH_DRAIN_LIMIT: step 1 ends for the units whose limit is over; undrained tasks are abandoned. -/
def execSwitchDrainLimit (s : State) : Host.Outcome State Fault Refusal :=
  match s.glob.running with
  | none => .next s
  | some c =>
    if s.glob.swStep != 1 then .next s
    else
      let s := ((s.unitsOf c).filter s.gangLate).foldl State.gangAbandon s
      .next ((s.lateParts c).foldl (fun s k => s.abortCall k 0 0 2) s)

/-! ## Step 3 -/

/-- Scratchpad and accumulator bytes, which belong to the running context. -/
def isCoreSpace (p : Nat) : Bool := spaceOf p == 2 || spaceOf p == 4

/-- The bytes of a context's vault windows, each by its die and offset within the window. -/
def State.vaultImage (s : State) (c : BitVec 3) : List Host.Cell :=
  s.mem.filterMap fun m =>
    if spaceOf m.1 == 1 then
      let d := placeDie m.1
      let w := (Tab.get 0 (s.ctx c.toNat).vwin d).toNat
      let p := m.1 % 2 ^ 29
      let base := w % 512 * 2 ^ 20
      if base ≤ p && p < base + w / 2 ^ 32 % 1024 * 2 ^ 20 then some (d * 2 ^ 29 + (p - base), m.2) else none
    else none

/-- Whether the step-3 save may be made: every die's counter has reached the instant, every unit has drained or stopped, every
access of the context is performed or parked, the loads of planes and evaluations have ended, its packets have been accepted, its contributions concluded
(R37, R130, R351, R352). -/
def State.maySave (s : State) (c : BitVec 3) : Bool :=
  (List.range 24).all s.glob.swDies.contains && (s.unitsOf c).all s.gangDrained
    && s.streams.all (fun r => s.isSup r.unit) && s.units.all (fun p => s.isSup p.1 || (p.2.eng.load.isNone && p.2.eng.genUses.all fun g => decide (g.2.2 ≤ s.cycle)))
    && s.rows.all (fun r => s.isSup r.unit) && s.landings.all (fun l => s.isSup l.unit)
    && !(s.flights.any fun f => s.flightCtx f == c && !s.isSup f.unit && f.path != pHI && !f.parked && (f.reads || f.writes))
    && !(s.xfers.any fun x => s.xferCtx x == c && s.xferOpen x && !s.pausedXfer x)
    && !s.draining c (s.definedChans c) && !s.calls.any (s.contributing c)

/-- GANG_SWITCH_SAVE: the outgoing context's state goes to its partition, with the register image of each core and controller
that has a task or runs (R142). DESIGN CHOICE (log entry 140): no route is checked for what stands in stack 0's share of the partition
(the channel, adapter, window and lease tables, the held fault events), because R13 does not say who would raise the fault. -/
def execGangSwitchSave (s : State) : Host.Outcome State Fault Refusal :=
  match s.glob.running with
  | none => .next s
  | some c =>
    if s.glob.swStep != 1 || !s.maySave c then .next s
    else
      let sup := fun (u : Nat) => s.isSup u
      let keepFlight := fun (f : Flight) => sup f.unit || f.path == pHI || s.flightCtx f != c
      let saved : Saved :=
        { units := s.units.filter fun p => !sup p.1, mem := s.mem.filter fun m => isCoreSpace m.1, vault := s.vaultImage c,
          tiles := s.tiles, code := s.code.filter fun p => !sup (p.1 / 8192),
          codeOld := s.codeOld.filter fun p => !sup (p.1 / 8192), flights := s.flights.filter fun f => !keepFlight f,
          xfers := s.xfers.filter fun x => s.xferCtx x == c, groups := s.groups.filter fun g => g.ctx == c,
          calls := s.calls.filter fun k => k.ctx == c,
          images := (s.units.filter fun (p : Nat × Unit) => p.2.on && !sup p.1).map fun p => (p.1, p.2.image p.1) }
      let s := s.modCtx c.toNat fun x => { x with saved := some saved }
      let s : State := { s with
        units := s.units.map fun (p : Nat × Unit) => if sup p.1 then p else (p.1, { Unit.idle with frozen := p.2.frozen }),
        flights := s.flights.filter keepFlight, xfers := s.xfers.filter fun x => s.xferCtx x != c,
        groups := s.groups.filter fun g => g.ctx != c, calls := s.calls.filter fun k => k.ctx != c }
      let s := { s with units := s.units.filter fun p => p.2 != Unit.idle }
      .next (s.modGlob fun g => { g with running := none, swStep := 2 })

/-! ## Step 4 -/

/-- The end of a switch: STATE 0b00, or 0b11 after an abandoned task. -/
def Glob.endSwitch (g : Glob) (err : Bool) : Glob :=
  { g with swctl := BitVec.ofNat 8 (g.swctl.toNat % 8 + g.swctl.toNat / 16 % 2 * 16 + (if err then 8 else 0)
             + (if g.swBad then 192 else 0)),
           swStep := 0, swBad := false, swDies := [], swIn := none }

/-- A restored unit: no request stands, but for a cluster-shape task part of which has saved (R39); the master stays
frozen if it is; its pending bits are clear (R143), and decode has forgotten the last MLDB (R270). -/
def Unit.wake (x : Unit) (cycle : Nat) (frozen partly : Bool) (now : BitVec 64) (limit : Word) : Unit :=
  let x := { x with preempt := if partly && x.on then some ⟨now, limit, false⟩ else none, frozen := frozen,
                    slots := x.slots.map fun (p : Nat × Slot) => (p.1, { p.2 with busy := 0, last := min p.2.last cycle }) }
  x.modDisp fun d => { d with last := 0, earliest := cycle, wake := [], ports := [], marks := [], mldb := none }

/-- What a context that has not run since its creation is restored from: its wiped partition (R361). -/
def Saved.fresh : Saved := ⟨[], [], [], [], [], [], [], [], [], [], []⟩

/-- What a controller has still on its way from before it starts is of bundles before its first (R123, R129, R131). -/
def State.renumberCtl (s : State) (u : Nat) : State :=
  { s with flights := s.flights.map fun f => if f.unit == u then { f with seq := 0 } else f,
           landings := s.landings.map fun l => if l.unit == u then { l with seq := 0 } else l }

/-- Start a controller as a CSCTL register says (R360): its registers as at reset, its queues as they stand. -/
def State.startCtl (s : State) (k : BitVec 128) : State :=
  let v := k.toNat
  let u := 384 + v / 2 ^ 64 % 128
  let store := v / 2 % 2 == 1
  let half := store && v / 2 ^ 17 % 2 == 1
  let pc := if store then v / 32 % 4096 + (if half then 4096 else 0) else v % 2 ^ 64 / 32 * 32
  if v / 2 ^ 64 % 128 < 96 then
    (s.renumberCtl u).modUnit u fun x => { Unit.idle with
      on := true, stream := !store, front := ⟨BitVec.ofNat 64 pc, [], 0, half⟩, events := x.events, held := x.held, owed := x.owed,
      spr := { Spr.reset with coherent := x.spr.coherent }, disp := { Disp.reset with seq := 1, earliest := s.cycle } }
  else s

/-- The controllers of a context that CSCTL says run and that do not, start (R360, R361); the supervisor controller belongs to no
context (R363). -/
def State.startCtls (s : State) (c : BitVec 3) : State :=
  (s.ctx c.toNat).csctl.foldl (fun s p =>
    let u := 384 + p.2.toNat / 2 ^ 64 % 128
    if p.2.getLsbD 0 && !(s.unit u).on && !s.isSup u then s.startCtl p.2 else s) s

/-- A unit whose saved register image is malformed, or names images that a failed link keeps away: PROTECTION 0x06 or 0x01, its task
is abandoned, and SWCTL.STATE will tell (R13, R143, R302). DESIGN CHOICE (log entry 117): INFO0 is zero, since the partition has no
address of the context. -/
def State.refuseImage (s : State) (u : Nat) (sub : Byte) : State :=
  let s := (s.logFault (s.taskWho u) (prot sub 0)).modGlob fun g => { g with swBad := true }
  if isCtl u then s.stopCtl u (s.unit u).front.pc else s.abandon u

/-- Restore a context in full. DESIGN CHOICE (log entry 140): what stands in stack 0's share of the partition comes back whatever links
have failed. -/
def State.restoreCtx (s : State) (c : BitVec 3) : State :=
  let x := s.ctx c.toNat
  let v := x.saved.getD .fresh
  let sup := fun (u : Nat) => s.isSup u
  let now := fun (u : Nat) => s.timeOf (dieOf u)
  let closed := fun (u : Nat) => !isCtl u && (coresOf (clusterOf u)).any fun w => (Tab.get .idle v.units w).disp.closed
  let wake := fun (u : Nat) => (Tab.get .idle v.units u).wake s.cycle (s.unit u).frozen (closed u) (now u) x.plimit
  let us := (List.range 480).filter fun u => !sup u && (v.units.any (·.1 == u) || (s.unit u).frozen)
  let win := fun (d : Nat) => (Tab.get 0 x.vwin d).toNat
  let inWin := fun (p : Nat) => spaceOf p == 1 && (let w := win (placeDie p)
    w % 512 * 2 ^ 20 ≤ p % 2 ^ 29 && p % 2 ^ 29 < w % 512 * 2 ^ 20 + w / 2 ^ 32 % 1024 * 2 ^ 20)
  let mem := s.mem.filter (fun m => !inWin m.1 && !isCoreSpace m.1)
  let mem := v.vault.foldl (fun m b => wrByte m (vaultPlace (b.1 / 2 ^ 29) (win (b.1 / 2 ^ 29) % 512 * 2 ^ 20 + b.1 % 2 ^ 29)) b.2) mem
  let mem := v.mem.foldl (fun m b => wrByte m b.1 b.2) mem
  let s : State := { s with
    mem := mem, tiles := v.tiles,
    code := v.code.foldl (fun t p => Tab.set 0 t p.1 p.2) (s.code.filter fun p => sup (p.1 / 8192)),
    codeOld := v.codeOld ++ s.codeOld.filter fun p => sup (p.1 / 8192),
    units := us.foldl (fun t u => Tab.set .idle t u (wake u)) (s.units.filter fun p => sup p.1),
    seen := [], flights := s.flights ++ v.flights, xfers := s.xfers ++ v.xfers, groups := s.groups ++ v.groups, calls := s.calls ++ v.calls }
  let s := s.modCtx c.toNat fun x => { x with saved := none, fresh := false, retry := [] }
  let s := s.resumeChans c (s.definedChans c)
  let s := s.modGlob fun g => { g with running := some c }
  let names := us.filter fun u => !(s.unit u).eng.gn.isEmpty
  let s := names.foldl (fun s u =>
    let gn := (s.unit u).eng.gn
    let s := s.modUnit u fun y => y.modEng fun e => { e with gn := [] }
    gn.foldl (fun s p => match p.2 with | some g => s.reload u p.1 g.name | none => s) s) s
  let s := (v.images.filterMap fun p => (s.imageFault p.1 c p.2).map fun e => (p.1, e)).foldl (fun s b => s.refuseImage b.1 b.2) s
  (x.retry.foldl (fun s d => s.retryDie d c) s).startCtls c

/-- GANG_SWITCH_RESTORE: the incoming context resumes, or the package idles (R36). -/
def execGangSwitchRestore (s : State) : Host.Outcome State Fault Refusal :=
  if s.glob.swStep != 2 then .next s
  else
    match s.glob.swIn with
    | some c => if s.mayEnter c then .next ((s.restoreCtx c).modGlob (·.endSwitch false)) else .next (s.modGlob (·.endSwitch true))
    | none => .next (s.modGlob (·.endSwitch (!s.glob.swctl.getLsbD 4)))

end Sys2Proof.Machine
end

