-- ==== Sys2Proof/Machine/Generator.lean ====
section
/-!
DEFINITION. The generator engine's instructions (R301 to R308).
-/

namespace Sys2Proof.Machine

/-- GLOAD. DESIGN CHOICE (log entry 117): the registry stands in stack 0, and a GLOAD that needs a failed link raises PROTECTION 0x01
(R13) with INFO0 zero, as it names no address; DESIGN CHOICE (log entry 129): SRNOISE, the built-in image, comes from there too. -/
def execGload (n : BitVec 4) (a : BitVec 5) (s : State) : Host.Outcome State Fault Refusal :=
  if s.genUsing n then .next s
  else match s.imageNamed (s.ctxOf s.u) (s.rs a) with
    | none => .next (s.raise (genUnknown (s.rs a)))
    | some g => if s.routeBad (dieOf s.u) 0 then .next (s.raise (prot 1 0))
      else .next ((s.result (copyTime s.u g) [(.gn n, .image (some g))] 0).issued 1)

/-- GLOAD_COPY_COMPLETE of flight n. -/
def execGloadCopyComplete (s : State) : Host.Outcome State Fault Refusal :=
  match s.flights[s.arg.n]? with
  | none => .next s
  | some f =>
    match f.what with
    | .result ws fl => if f.isCopy && s.mayArrive f then .next ((s.dropFlight f).writeBack f ws fl) else .next s
    | _ => .next s

/-- GFREE. -/
def execGfree (n : BitVec 4) (s : State) : Host.Outcome State Fault Refusal :=
  if s.genUsing n then .next s else .next ((s.result 2 [(.gn n, .image none)] 0).issued 1)

/-- GSEED. -/
def execGseed (sd : BitVec 3) (a : BitVec 5) (s : State) : Host.Outcome State Fault Refusal :=
  .next ((s.result 2 [(.sd sd, .scalar (s.rs a))] 0).issued 1)

/-- The coordinates of a line of n evaluations; `a` says that c0 varies (R306). -/
def genLine (sc : BitVec 64) (c2 : Word) (a : Bool) (n : Nat) : List (Word × Word × Word) :=
  (List.range n).map fun i =>
    let k := BitVec.ofNat 32 i
    let c0 : Word := sc.setWidth 32
    let c1 : Word := (sc >>> 32).setWidth 32
    if a then (c0 + k, c1, c2) else (c0, c1 + k, c2)

/-- GEVAL and GEVAL.C0. -/
def execGeval (v : BitVec 6) (n : BitVec 4) (sd : BitVec 3) (c l : BitVec 5) (a : BitVec 1) (s : State) :
    Host.Outcome State Fault Refusal :=
  if s.genHeld 0 then .next s
  else
    let sn := s.rs l
    let k := sn.toNat % 2 ^ 32
    if 4096 < k then .next (s.raise (runOverflow k))
    else match s.me.gslot n with
      | none => .next (s.raise (genUnknown 0))
      | some g =>
        let seed := s.me.seed sd
        let occ := max 1 (ceilDiv (k * g.pace) 128)
        let r := evalAll g seed (genLine (s.rs c) ((sn >>> 32).setWidth 32) (bit1 a) k)
        .next (match r.2 with
          | none =>
            let s := if k == 0 then s else s.genBegin n 0 (s.cycle + g.admission (k - 1) + 16 * g.pace)
            (s.result (occ + 16 * g.pace + 3) [(.v v, .runs (firstB (r.1.map fun w => ⟨w, 1, false⟩)))] 0).issued occ
          | some (i, op, c0, c1, c2) =>
            let due := s.cycle + g.admission i + 16 * g.pace
            let s := s.genBegin n 0 (due + 1)
            (s.boundAt due (some v) (genBound 1 g seed c0 c1 c2 0 0 n op)).issued occ)

/-- GSTAT (R307). -/
def execGstat (d : BitVec 5) (n : BitVec 4) (sd : BitVec 3) (q : BitVec 4) (s : State) :
    Host.Outcome State Fault Refusal :=
  let v : BitVec 64 := if q == 6 then s.me.seed sd
    else match s.me.gslot n with
      | none => 0
      | some g => match q.toNat with
        | 0 => g.name
        | 1 => g.info
        | k => BitVec.ofNat 64 (leNat ((g.digest.drop (8 * (k - 2))).take 8))
  .next ((s.result 2 [(.s (s.ps d), .scalar v)] 0).issued 1)

end Sys2Proof.Machine
end

