-- ==== Sys2Proof/Machine/Host.lean ====
section
/-!
DEFINITION. The host port and the registers behind it (R357 to R369): BAR0, the BAR4 aperture, CXL, MSI-X, contexts, code
loading, generator registration, budgets, the supervisor controller, attestation, wipes and reset.
-/

namespace Sys2Proof.Machine

/-! ## Register writes: the written bits are those of `m` -/

/-- A register after a write. -/
def merge (old v m : BitVec 64) : BitVec 64 := (old &&& ~~~m) ||| (v &&& m)

/-- A write sets bit k. -/
def sets (v m : BitVec 64) (k : Nat) : Bool := v.getLsbD k && m.getLsbD k

/-- One half of a 128-bit register. -/
def half128 (x : BitVec 128) (k : Nat) : BitVec 64 := (x >>> (64 * k)).setWidth 64

/-- Replace a half of a 128-bit register. -/
def setHalf (x : BitVec 128) (k : Nat) (v : BitVec 64) : BitVec 128 :=
  if k == 0 then BitVec.append (half128 x 1) v else BitVec.append v (half128 x 0)

/-- Whether a context runs. -/
def State.runs (s : State) (c : Nat) : Bool := s.glob.running.any fun r => r.toNat == c

/-- A write of VWINi: refused while the context runs, past the die's end, or over another resident context's window (R101). -/
def State.writeVwin (s : State) (c i : Nat) (v m : BitVec 64) : State :=
  let n := (merge (Tab.get 0 (s.ctx c).vwin i) v m) &&& 0x000003FF000001FF
  let base := n.toNat % 512
  let size := n.toNat / 2 ^ 32 % 1024
  let clash := (List.range 8).any fun k => k != c && (s.ctx k).state == 1 &&
    (let w := (Tab.get 0 (s.ctx k).vwin i).toNat
     size != 0 && w / 2 ^ 32 % 1024 != 0 && overlaps base size (w % 512) (w / 2 ^ 32 % 1024))
  if s.runs c || 512 < base + size || clash then s
  else s.modCtx c fun x => { x with vwin := Tab.set 0 x.vwin i n }

/-- A write of TLBINV: ignored while GO = 1, refused with a foreign CTX or VA[15:8] not zero (R108, R359). -/
def State.writeTlbinv (s : State) (c : Nat) (v m : BitVec 64) : State :=
  let old := (s.ctx c).tlbinv
  let n := (merge old v m) &&& 0xFFFFFFFFFFFF00C7
  if old.getLsbD 7 || n.toNat % 8 != c || n.toNat / 2 ^ 16 % 256 != 0 then s else s.modCtx c fun x => { x with tlbinv := n }

/-- Whether two CXL.mem windows meet; one of SIZE 0 is closed (R357). -/
def hmMeet (a b : BitVec 128) : Bool :=
  a.getLsbD 0 && b.getLsbD 0 && a.toNat / 2 ^ 90 % 1024 != 0 && b.toNat / 2 ^ 90 % 1024 != 0 &&
    overlaps (a.toNat / 2 ^ 30 % 2 ^ 34) (a.toNat / 2 ^ 90 % 1024) (b.toNat / 2 ^ 30 % 2 ^ 34) (b.toNat / 2 ^ 90 % 1024)

/-- A write of a half of HMWIN: refused if the window would overlap another context's (R357). -/
def State.writeHmwin (s : State) (c k : Nat) (v m : BitVec 64) : State :=
  let old := (s.ctx c).hmwin
  let mask : BitVec 64 := if k == 0 then 0xFFFFFFFFC0000001 else 0x0000001FFFFFFFFF
  let n := setHalf old k (merge (half128 old k) v m &&& mask)
  if (List.range 8).any fun j => j != c && hmMeet (s.ctx j).hmwin n then s else s.modCtx c fun x => { x with hmwin := n }

/-- A write of FLCTL: LOST, RDIDX and LGSIZE (R141). -/
def State.writeFlctl (s : State) (c : Nat) (v m : BitVec 64) : State :=
  s.modCtx c fun x => { x with flctl := merge x.flctl v (m &&& 0xFFFF0000FFFF000F) }

/-- A write of a half of CSCTLk: refused if it names a cluster that another CSCTL of the context, or SVCTL, names; EN = 1
starts the controller, at once if the context runs (R360). -/
def State.writeCsctl (s : State) (c k h : Nat) (v m : BitVec 64) : State :=
  let old := Tab.get 0 (s.ctx c).csctl k
  let mask : BitVec 64 := if h == 0 then 0xFFFFFFFFFFFFFFE3 else 0x7F
  let w := merge (half128 old h) v m &&& mask
  let n := setHalf old h (if h == 0 && old.getLsbD 0 then w ||| 1 else w)
  let cl := n.toNat / 2 ^ 64 % 128
  let taken := ((s.ctx c).csctl.any fun p => p.1 != k && p.2.toNat / 2 ^ 64 % 128 == cl) || s.isSup (384 + cl) || 96 ≤ cl
  if taken then s
  else
    let s := s.modCtx c fun x => { x with csctl := Tab.set 0 x.csctl k n }
    if h == 0 && sets v m 0 && s.runs c && !(s.ctx c).fatal && s.glob.swState != 2 && !(s.unit (384 + cl)).on then s.startCtl n
    else s

/-- A write of SVCTL: CLUSTER keeps while EN = 1; EN = 1 starts the controller at bundle 0 of half 0, EN = 0 stops it at
once (R363). -/
def State.writeSvctl (s : State) (v m : BitVec 64) : State :=
  let old := s.glob.svctl
  let n := merge old v m &&& 0x877F
  let cl := n.toNat % 128
  let u := 384 + cl
  if old.getLsbD 15 && (n ^^^ old) &&& 0x7F != 0 then s
  else if 96 ≤ cl then s
  else if sets v m 15 then
    if old.getLsbD 15 && (s.unit u).on then s.modGlob fun g => { g with svctl := n }
    else
      let s := if (s.unit u).on then s.stopCtl u (s.unit u).front.pc else s
      let s := s.modGlob fun g => { g with svctl := n }
      (s.renumberCtl u).modUnit u fun x => { Unit.idle with
        on := true, spr := { Spr.reset with coherent := x.spr.coherent, sup := true }, events := x.events, held := x.held, owed := x.owed,
        disp := { Disp.reset with seq := 1, earliest := s.cycle } }
  else
    let s := if old.getLsbD 15 && !n.getLsbD 15 then (s.dropResults u).modUnit u (·.halt u) else s
    s.modGlob fun g => { g with svctl := n }

/-- A write of ATTCTL: GO requests a report; with no identity key ERR is set (R366). -/
def State.writeAttctl (s : State) (v m : BitVec 64) : State :=
  if s.glob.attctl.getLsbD 0 || !sets v m 0 then s
  else s.modGlob fun g => { g with attctl := if g.keyed then 1 else 2 }

/-! ## Generator registration (R299) -/

/-- The outcome of a registration: its STATUS and the image to enter. -/
def State.registerAt (s : State) (c : Nat) : Byte × Option Image :=
  let x := s.ctx c
  let va := x.grega
  let rd := fun (n : Nat) => s.reach 0x1FF 0 (BitVec.ofNat 3 c) pSL .rd false va n
  if 1 < va.toNat / 2 ^ 60 then (5, none)
  else match rd 64 with
    | .error _ => (5, none)
    | .ok r =>
      let hdr := rdSpans s.mem r.spans
      let g := Image.ofBytes hdr
      if va.toNat % 64 != 0 || !imageHeaderOk hdr then (3, none)
      else match rd g.bytes with
        | .error _ => (5, none)
        | .ok r =>
          let bs := rdSpans s.mem r.spans
          let g := Image.ofBytes bs
          if !g.bodyOk then (3, none)
          else if !imageDigestOk bs then (4, none)
          else if g.name == srNoiseName then (6, none)
          else if x.registry.any fun i => i.name == g.name then (1, none)
          else if 256 ≤ x.registry.length then (2, none)
          else (0, some g)

/-- A write of GREGC: GO reads the image, checks it and starts registering it. -/
def State.writeGregc (s : State) (c : Nat) (v m : BitVec 64) : State :=
  let old := (s.ctx c).gregc
  if old.getLsbD 31 || !sets v m 31 then s
  else s.modCtx c fun x => { x with gregc := old ||| 0x80000000, reging := some (s.registerAt c) }

/-- GENERATOR_REGISTRATION: GREGC of context n is written with GO = 1. -/
def execGeneratorRegistration (s : State) : Host.Outcome State Fault Refusal :=
  .next (s.hostReg 0 fun s => s.writeGregc (s.arg.n % 8) s.arg.v (BitVec.allOnes 64))

/-- REGISTRATION_COMPLETE of context n: STATUS and INDEX are written, GO reads 0. INDEX of a refused registration is a
free value: R299 gives it for STATUS 0x00 alone. -/
def execRegistrationComplete (s : State) : Host.Outcome State Fault Refusal :=
  let c := s.arg.n % 8
  match (s.ctx c).reging with
  | none => .next s
  | some r =>
    let q := s.nextFree
    .next (q.2.modCtx c fun x =>
      let ix := match r.2 with | some _ => x.registry.length * 256 | none => q.1.toNat % 256 * 256
      { x with gregc := BitVec.ofNat 64 (r.1.toNat + ix), reging := none,
               registry := match r.2 with | some g => x.registry ++ [g] | none => x.registry })

/-! ## The code loader (R362) -/

/-- The unit and half that ICLC names on a die. -/
def iclTarget (d : Nat) (v : BitVec 64) : Nat × Bool :=
  let n := v.toNat / 2 ^ 16 % 16
  (if v.getLsbD 22 then 384 + 4 * d + n % 4 else 16 * d + n, v.getLsbD 12)

/-- Whether a half is one that its unit executes, so that the loader refuses it. -/
def State.halfInUse (s : State) (u : Nat) (half : Bool) : Bool :=
  let x := s.unit u
  (x.on || x.task.isSome) && !x.stream && x.front.half == half

/-- What the code loader makes of an image: the CODE of its status, the key of the first bundle and the bundles, and the
fault it met. -/
def State.loadCode (s : State) (d : Nat) (v : BitVec 64) : (Byte × Nat × List (BitVec 256)) × Option Flt :=
  let c : BitVec 3 := (v >>> 24).setWidth 3
  let t := iclTarget d v
  let va := (s.die d).icla
  let rd := fun (n : Nat) => s.reach 0x1FF d c pHI .rd false va n
  let al : List Flt := if va.toNat % 8 != 0 then [(align va 8).on pHI .rd] else []
  if (s.ctx c.toNat).state != 1 || (s.runs c.toNat && s.halfInUse t.1 t.2) || (s.isSup t.1 && s.halfInUse t.1 t.2) then
    ((3, 0, []), none)
  else match lowestFault (faultOf (rd 64) ++ al), rd 64 with
    | some f, _ => ((codeOf f, 0, []), some f)
    | none, .error f => ((codeOf f, 0, []), some f)
    | none, .ok r =>
      let h := leNat (rdSpans s.mem r.spans)
      let first := h / 2 ^ 32 % 2 ^ 12
      if !imageHdrOk h || halfSize t.1 < first + h / 2 ^ 16 % 2 ^ 13 then ((7, 0, []), none)
      else match rd (64 + 8 * (h / 2 ^ 64 % 2 ^ 9) + h / 2 ^ 192 % 2 ^ 32) with
        | .error f => ((codeOf f, 0, []), some f)
        | .ok r =>
          let out := expandImage h ((rdSpans s.mem r.spans).drop 64)
          ((if out.2 == 0 then 1 else out.2, (if t.2 then 4096 else 0) + first, out.1), none)

/-- A write of ICLC: GO reads and expands the image. -/
def State.writeIclc (s : State) (d : Nat) (v m : BitVec 64) : State :=
  let old := (s.die d).iclc
  if old.getLsbD 31 then s
  else
    let n := (merge old v m &&& 0x874F1000) ||| (old &&& 0xFF)
    if !sets v m 31 then s.modDie d fun x => { x with iclc := n &&& ~~~0x80000000 }
    else
      let r := s.loadCode d n
      let s := match r.2 with
        | some f => s.logFault ⟨0x1FF, (n >>> 24).setWidth 3, none, 0, true, false, false, 0, 0⟩ f
        | none => s
      s.modDie d fun x => { x with iclc := n, load := some r.1 }

/-- CODE_LOAD: ICLC of die n is written with GO = 1. -/
def execCodeLoad (s : State) : Host.Outcome State Fault Refusal :=
  .next (s.hostReg (s.arg.n % 24) fun s => s.writeIclc (s.arg.n % 24) (s.arg.v ||| 0x80000000) (BitVec.allOnes 64))

/-- Bundles of a saved context's copy of a store. -/
def Saved.writeCode (v : Saved) (u first : Nat) (bs : List (BitVec 256)) : Saved :=
  { v with code := (bs.zipIdx).foldl (fun t b => Tab.set 0 t (codeKey u (first + b.2)) b.1) v.code,
           codeOld := v.codeOld.filter fun p => !(codeKey u first ≤ p.1 && p.1 < codeKey u (first + bs.length)) }

/-- CODE_LOAD_COMPLETE of die n: the bundles stand in the half, live or saved; STATUS is recorded; a live half is
coherent. -/
def execCodeLoadComplete (s : State) : Host.Outcome State Fault Refusal :=
  let d := s.arg.n % 24
  match (s.die d).load with
  | none => .next s
  | some (st, first, bs) =>
    let v := (s.die d).iclc
    let c := v.toNat / 2 ^ 24 % 8
    let t := iclTarget d v
    let s := s.modDie d fun x => { x with load := none, iclc := (v &&& 0x074F1000) ||| st.setWidth 64 }
    if bs.isEmpty then .next s
    else if s.runs c || s.isSup t.1 then .next ((s.writeCode t.1 first bs).setCoherent t.1 t.2 true)
    else .next (s.modCtx c fun x => { x with saved := some ((x.saved.getD .fresh).writeCode t.1 first bs) })

/-! ## Budgets (R367, R368) -/

/-- The budget registers of a master. -/
def budgetRegs : List Nat := [0, 1, 2]

/-- THAW: clears every FRZ of a master and resumes it. -/
def State.thaw (s : State) (d m : Nat) : State :=
  let s := budgetRegs.foldl (fun s r => s.modBudget d m r fun b => { b with frz := false }) s
  if m < 16 then (s.modUnit (16 * d + m) fun x => { x with frozen := false }).rewait (16 * d + m)
  else if m < 32 then s.modDie d fun x => { x with frozenTx := x.frozenTx.filter (· != m - 16) }
  else if m == 32 then (s.modDie d fun x => { x with frozenColl := false }).unhold
  else s.modDie d fun x => { x with frozenHost := false }

/-- A killed transfer queue ends an operation with CODE 0x03. -/
def State.killXfer (s : State) (x : Xfer) : State :=
  let gone := x.goneTiles
  let y := { x with code := 3, rows := [], cross := none, left := x.left.filter fun t => !gone.contains t }
  ((s.modXfer x.id fun _ => y).recordXfer y).leaveXfer x.id

/-- KILL: a core's task is abandoned, a transfer queue's operations end, a frozen collective engine's handles are
aborted; the host port ignores it. -/
def State.kill (s : State) (d m : Nat) : State :=
  if m < 16 then s.abandon (16 * d + m)
  else if m < 32 then
    (s.xfers.filter fun x => x.unit == 16 * d + (m - 16) && x.kind != .transform && !x.recd).foldl State.killXfer s
  else if m == 32 && (s.die d).frozenColl then
    let cs := s.calls.filter fun k => k.die == d && !k.fin
    let hs := (cs.map fun k => (k.ctx, (s.chan k.ctx.toNat k.ch).handle)).eraseDups
    hs.foldl (fun s h => match cs.find? fun k => k.ctx == h.1 && (s.chan k.ctx.toNat k.ch).handle == h.2 with
      | some k => s.forceAbort k
      | none => s) s
  else s

/-- A write of BBCTL: KILL acts before THAW. -/
def State.writeBbctl (s : State) (d m : Nat) (v w : BitVec 64) : State :=
  if m == 33 && d != 0 then s
  else if sets v w 1 then s.kill d m else if sets v w 0 then s.thaw d m else s

/-- BUDGET_THAW of die n and master m. -/
def execBudgetThaw (s : State) : Host.Outcome State Fault Refusal :=
  .next (s.hostReg (s.arg.n % 24) fun s => s.writeBbctl (s.arg.n % 24) (s.arg.m % 34) 1 1)

/-- BUDGET_KILL of die n and master m. -/
def execBudgetKill (s : State) : Host.Outcome State Fault Refusal :=
  .next (s.hostReg (s.arg.n % 24) fun s => s.writeBbctl (s.arg.n % 24) (s.arg.m % 34) 2 2)

/-- BUDGET_PERIOD_BOUNDARY of die n: USE of every budget is cleared. -/
def execBudgetPeriodBoundary (s : State) : Host.Outcome State Fault Refusal :=
  let d := s.arg.n % 24
  let x := s.die d
  if (s.timeOf d).ult x.bbnext then .next s
  else .next (s.modDie d fun x => { x with
    bbnext := x.bbnext + x.bbper.setWidth 64 * 1000,
    budgets := (x.budgets.map fun b => (b.1, { b.2 with use := 0 })).filter fun b => b.2 != Budget.reset })

/-! ## Contexts (R361, R369) -/

/-- A context's partition in every stack. -/
def Ctx.inPartition (x : Ctx) (p : Nat) : Bool :=
  spaceOf p == 0 && (let off := p % 2 ^ 36
    let base := x.spart.toNat % 64 * 2 ^ 30
    base ≤ off && off < base + x.spart.toNat / 256 % 64 * 2 ^ 30)

/-- Whether a byte lies in a context's vault windows. -/
def Ctx.inWindow (x : Ctx) (p : Nat) : Bool :=
  spaceOf p == 1 && (let w := (Tab.get 0 x.vwin (placeDie p)).toNat
    let base := w % 512 * 2 ^ 20
    base ≤ p % 2 ^ 29 && p % 2 ^ 29 < base + w / 2 ^ 32 % 1024 * 2 ^ 20)

/-- CREATE: refused for a context that is not free, a bad partition, or one that overlaps another's. -/
def State.create (s : State) (c : Nat) : State :=
  let x := s.ctx c
  let size := x.spart.toNat / 256 % 64
  let base := x.spart.toNat % 64
  let clash := (List.range 8).any fun k => k != c && (s.ctx k).state != 0 &&
    overlaps base size ((s.ctx k).spart.toNat % 64) ((s.ctx k).spart.toNat / 256 % 64)
  if x.state != 0 || size == 0 || 48 < base + size || clash then s.modCtx c fun x => { x with err := true }
  else s.modCtx c fun x => { x with state := 3, err := false }

/-- The bytes of a context's fault log that its translation reaches: the records of its ring (R141). -/
def State.logSpans (s : State) (c : Nat) : List (Nat × Nat) :=
  let x := s.ctx c
  if 1 < x.flbase.toNat / 2 ^ 60 then []
  else ((List.range (flSize x.flctl)).map fun i =>
    match s.reach 0x1FF 0 (BitVec.ofNat 3 c) pHI .wr false (x.flbase + BitVec.ofNat 64 (64 * i)) 64 with
    | .ok q => q.spans
    | .error _ => []).flatten

/-- TEARDOWN: the context stops without draining; its partition, windows, tables and fault log are wiped. A gang switch whose
outgoing context it was goes on to its restore. -/
def State.teardown (s : State) (c : Nat) : State :=
  let x := s.ctx c
  if x.state != 1 then s.modCtx c fun x => { x with err := true }
  else
    let cc : BitVec 3 := BitVec.ofNat 3 c
    let runs := s.runs c
    let us := if runs then s.unitsOf cc else []
    let log := s.logSpans c
    let mine := fun (u : Nat) => runs && !s.isSup u
    let s := us.foldl (fun s u => (s.dropResults u).modUnit u fun x => { x.halt u with saved := [], freed := none }) s
    let s : State := { s with
      units := if runs then (s.units.map fun (p : Nat × Unit) => (p.1, { p.2 with
        saved := p.2.saved.filter fun q => q.1.ctx != cc, eng := if mine p.1 then .reset else p.2.eng, events := if mine p.1 then [] else p.2.events,
        held := if mine p.1 then [] else p.2.held, owed := if mine p.1 then [] else p.2.owed })).filter (fun p => p.2 != Unit.idle) else s.units,
      flights := s.flights.filter fun f => s.flightCtx f != cc || s.isSup f.unit,
      rows := s.rows.filter fun r => !mine r.unit, streams := s.streams.filter fun r => !mine r.unit, landings := s.landings.filter fun l => !mine l.unit,
      xfers := s.xfers.filter fun y => s.xferCtx y != cc, groups := s.groups.filter fun g => g.ctx != cc,
      calls := s.calls.filter fun k => k.ctx != cc, fabric := s.fabric.filter fun p => p.ctx != cc,
      mem := s.mem.filter fun b => !(x.inPartition b.1 || x.inWindow b.1 || log.any (fun p => decide (p.1 ≤ b.1 ∧ b.1 < p.1 + p.2))),
      glob := if runs then { s.glob with running := none, swStep := if s.glob.swStep == 1 then 2 else s.glob.swStep } else s.glob }
    (s.forgetHandles x.ports).modCtx c fun x => { x with
      flctl := 4, state := 2, err := false, registry := [], leases := [], chans := [], wins := [], adapters := [], btag := [], axr := [],
      saved := none, retry := [], reging := none, csctl := (x.csctl.map fun p => (p.1, p.2 &&& ~~~(1#128))).filter fun p => p.2 != 0 }

/-- A write of CTXCTL: the command. -/
def State.writeCtxctl (s : State) (c : Nat) (v m : BitVec 64) : State :=
  match (v &&& m).toNat / 256 % 4 with
  | 1 => s.create c
  | 2 => s.teardown c
  | _ => s

/-- CTX_CREATE of context n. -/
def execCtxCreate (s : State) : Host.Outcome State Fault Refusal := .next (s.hostReg 0 fun s => s.create (s.arg.n % 8))

/-- CTX_TEARDOWN of context n. -/
def execCtxTeardown (s : State) : Host.Outcome State Fault Refusal := .next (s.hostReg 0 fun s => s.teardown (s.arg.n % 8))

/-- CTX_CREATE_COMPLETE of context n: the partition is wiped, the context has its reset state and is resident. -/
def execCtxCreateComplete (s : State) : Host.Outcome State Fault Refusal :=
  let c := s.arg.n % 8
  let x := s.ctx c
  if x.state != 3 then .next s
  else
    let s : State := { s with mem := s.mem.filter fun b => !x.inPartition b.1 }
    .next ((s.forgetHandles x.ports).modCtx c fun x => { Ctx.reset with state := 1, spart := x.spart })

/-- TEARDOWN_COMPLETE of context n. -/
def execTeardownComplete (s : State) : Host.Outcome State Fault Refusal :=
  let c := s.arg.n % 8
  .next (if (s.ctx c).state == 2 then s.modCtx c fun x => { x with state := 0, fatal := false } else s)

/-- CSCTL_START of context n and register m. -/
def execCsctlStart (s : State) : Host.Outcome State Fault Refusal :=
  .next (s.hostReg 0 fun s => s.writeCsctl (s.arg.n % 8) (s.arg.m % 4) 0 (s.arg.v ||| 1) (BitVec.allOnes 64))

/-- SUPERVISOR_CONTROLLER_START. -/
def execSupervisorControllerStart (s : State) : Host.Outcome State Fault Refusal :=
  .next (s.writeSvctl (s.arg.v ||| 0x8000) (BitVec.allOnes 64))

/-- SUPERVISOR_CONTROLLER_STOP. -/
def execSupervisorControllerStop (s : State) : Host.Outcome State Fault Refusal :=
  .next (s.writeSvctl (s.arg.v &&& ~~~0x8000) (BitVec.allOnes 64))

/-! ## Translations (R108) -/

/-- TLBINV_GO of context n. -/
def execTlbinvGo (s : State) : Host.Outcome State Fault Refusal :=
  .next (s.hostReg 0 fun s => s.writeTlbinv (s.arg.n % 8) (s.arg.v ||| 0x80) (BitVec.allOnes 64))

/-- Whether bytes of HBM that an access of a context reaches were translated through an entry that an invalidation drops; where
no die holds an entry of the context that gives them, they may have been. -/
def State.usesDropped (s : State) (c : BitVec 3) (inv : BitVec 64) (p : Nat × Nat) : Bool :=
  let es := ((List.range 24).map fun d => (s.die d).tlb.filter fun e => e.ctx == c && overlaps e.pa e.size p.1 p.2).flatten
  spaceOf p.1 == 0 && (es.isEmpty || es.any (tlbDropped inv))

/-- TLB_INVALIDATION_COMPLETE of context n: no access that used a dropped entry has still to perform. DESIGN CHOICE (log entry 111): the read of a
wait at a port performs when the wait ends, so it is one of them. -/
def execTlbInvalidationComplete (s : State) : Host.Outcome State Fault Refusal :=
  let c := s.arg.n % 8
  let inv := (s.ctx c).tlbinv
  let cc : BitVec 3 := BitVec.ofNat 3 c
  if !inv.getLsbD 7 || s.flights.any (fun f => f.open && s.flightCtx f == cc && f.spans.any (s.usesDropped cc inv))
      || s.watches.any (fun w => s.ctxOf w.unit == cc && s.usesDropped cc inv (w.place, w.bytes)) then .next s
  else
    let s := s.modCtx c fun x => { x with tlbinv := x.tlbinv &&& ~~~0x80 }
    .next { s with dies := (s.dies.map fun (p : Nat × Die) =>
      (p.1, { p.2 with tlb := p.2.tlb.filter fun e => !tlbDropped inv e })).filter fun p => p.2 != Die.reset }

/-! ## The supervisor's attestation (R365, R366) -/

/-- ATTESTATION_REQUEST. -/
def execAttestationRequest (s : State) : Host.Outcome State Fault Refusal := .next (s.writeAttctl 1 1)

/-- The report over the nonce. -/
def report (nonce : List Byte) (life : BitVec 2) : List Byte :=
  leBytes 8 (1 + life.toNat * 256 + 4627 * 2 ^ 16) ++ nonce ++ (List.range 64).map Config.measurement
    ++ (List.range 2592).map Config.identityKey ++ (List.range 4627).map (Config.attestSignature nonce life)

/-- ATTESTATION_REPORT_READY. -/
def execAttestationReportReady (s : State) : Host.Outcome State Fault Refusal :=
  .next (if s.glob.attctl.getLsbD 0 then s.modGlob fun g => { g with attctl := 0, attrep := report g.attnonce g.life } else s)

/-! ## BAR0 (R358, R359) -/

/-- The first byte of a budget register's offset within its die block. -/
def budgetOffset (o : Nat) : Option (Nat × Nat) :=
  if 0x4100 ≤ o && o < 0x4100 + 34 * 0x20 then some ((o - 0x4100) / 0x20, (o - 0x4100) % 0x20 / 8) else none

/-- A register of the global block. -/
def State.readGlob (s : State) (o : Nat) : BitVec 64 :=
  let g := s.glob
  let bytes := fun (bs : List Byte) (k : Nat) => BitVec.ofNat 64 (leNat ((bs.drop k).take 8))
  match o with
  | 0x0000 => g.switchat
  | 0x0008 => g.swctl.setWidth 64
  | 0x0010 => g.apctx.setWidth 64
  | 0x0018 => g.apbase
  | 0x0020 => BitVec.ofNat 64 (g.life.toNat + (if g.bootfail then 256 else 0) + (if g.bootdone then 512 else 0))
  | 0x0028 => g.svctl
  | 0x0030 => g.attctl.setWidth 64
  | _ => if 0x40 ≤ o && o < 0x60 then bytes g.attnonce (o - 0x40)
    else if 0x1000 ≤ o && o < 0x3000 then bytes g.attrep (o - 0x1000) else 0

/-- A register of a context block. -/
def State.readCtx (s : State) (c o : Nat) : BitVec 64 :=
  let x := s.ctx c
  let wide := fun (t : Tab (BitVec 128)) (base : Nat) => half128 (Tab.get 0 t ((o - base) / 16)) (o / 8 % 2)
  if o < 0xC0 then Tab.get 0 x.vwin (o / 8)
  else if 0x100 ≤ o && o < 0x180 then wide x.hwin 0x100
  else if 0x1C0 ≤ o && o < 0x200 then wide x.csctl 0x1C0
  else if 0x8000 ≤ o && o < 0xB000 then wide x.ports 0x8000
  else match o with
    | 0x00C0 => x.ptroot
    | 0x00C8 => x.tlbinv
    | 0x00D0 => BitVec.ofNat 64 (x.state.toNat + (if x.err then 1024 else 0))
    | 0x00D8 => x.spart
    | 0x0180 => half128 x.hmwin 0
    | 0x0188 => half128 x.hmwin 1
    | 0x0190 => x.tctl.setWidth 64
    | 0x0198 => x.plimit.setWidth 64
    | 0x01A0 => x.flbase
    | 0x01A8 => if x.flctl.toNat % 16 < 4 then (x.flctl &&& ~~~0xF) ||| 4 else x.flctl
    | 0x01B0 => x.grega
    | 0x01B8 => x.gregc
    | _ => 0

/-- A register of a die block. -/
def State.readDie (s : State) (d o : Nat) : BitVec 64 :=
  let x := s.die d
  match o with
  | 0x0008 => match s.glob.running with | some c => BitVec.ofNat 64 (s.parkUse d c) | none => 0
  | 0x0010 => x.icla
  | 0x0018 => x.iclc
  | 0x4000 => x.bbper.setWidth 64
  | _ =>
    if 0x1000 ≤ o && o < 0x2000 then
      let p := (o - 0x1000) % 0x200 / 8
      if p < 33 then (Tab.get 0 (s.ctx ((o - 0x1000) / 0x200)).axr (64 * d + p)).setWidth 64 else 0
    else match budgetOffset o with
      | some (m, r) =>
        if r == 3 || (m == 33 && d != 0) then 0
        else
          let b := s.budget d m r
          BitVec.ofNat 64 ((if b.frz then 2 ^ 63 else 0) + b.use.toNat * 2 ^ 32 + b.limit.toNat)
      | none => 0

/-- A doubleword of BAR0. -/
def State.readBar0 (s : State) (o : Nat) : BitVec 64 :=
  if o < 0x100000 then s.readGlob o
  else if o < 0x180000 then s.readCtx ((o - 0x100000) / 0x10000) (o % 0x10000)
  else if 0x800000 ≤ o && o < 0x980000 then s.readDie ((o - 0x800000) / 0x10000) (o % 0x10000)
  else 0

/-- Write a register of the global block. -/
def State.writeGlob (s : State) (o : Nat) (v m : BitVec 64) : State :=
  match o with
  | 0x0000 => s.modGlob fun g => g.writeSwitchat (merge g.switchat v m)
  | 0x0008 => if m.getLsbD 0 then s.modGlob (·.writeSwctl (v.setWidth 8)) else s
  | 0x0010 => if m.getLsbD 0 then s.modGlob fun g => { g with apctx := v.setWidth 3 } else s
  | 0x0018 => s.modGlob fun g => { g with apbase := merge g.apbase v (m &&& 0xFFFFFFF000000000) }
  | 0x0028 => s.writeSvctl v m
  | 0x0030 => s.writeAttctl v m
  | _ =>
    if 0x40 ≤ o && o < 0x60 then s.modGlob fun g => { g with
      attnonce := g.attnonce.take (o - 0x40) ++ leBytes 8 (merge (s.readGlob o) v m).toNat ++ g.attnonce.drop (o - 0x40 + 8) }
    else s

/-- Write a register of a context block. -/
def State.writeCtxReg (s : State) (c o : Nat) (v m : BitVec 64) : State :=
  let k := o / 8 % 2
  let put := fun (t : Tab (BitVec 128)) (i : Nat) (mask : BitVec 64) =>
    let old := Tab.get 0 t i
    Tab.set 0 t i (setHalf old k (merge (half128 old k) v m &&& mask))
  if o < 0xC0 then s.writeVwin c (o / 8) v m
  else if 0x100 ≤ o && o < 0x180 then
    s.modCtx c fun x => { x with
      hwin := put x.hwin ((o - 0x100) / 16) (if k == 0 then 0x0FFFFFFFFFFFF003 else 0x0FFFFFFFFFFFF000) }
  else if 0x1C0 ≤ o && o < 0x200 then s.writeCsctl c ((o - 0x1C0) / 16) k v m
  else if 0x8000 ≤ o && o < 0xB000 then
    if s.runs c then s
    else
      let i := (o - 0x8000) / 16
      let old := Tab.get 0 (s.ctx c).ports i
      let ports := put (s.ctx c).ports i (if k == 0 then 0xC0001FFF1FFFFFFF else 0xFFFFFFFF)
      (s.forgetHandles [(0, old), (1, Tab.get 0 ports i)]).modCtx c fun x => { x with ports := ports }
  else match o with
    | 0x00C0 => if s.runs c then s else s.modCtx c fun x => { x with ptroot := merge x.ptroot v (m &&& 0x1FFFFFFF000) }
    | 0x00C8 => s.writeTlbinv c v m
    | 0x00D0 => s.writeCtxctl c v m
    | 0x00D8 => if (s.ctx c).state == 0 then s.modCtx c fun x => { x with spart := merge x.spart v (m &&& 0x3F3F) } else s
    | 0x0180 => s.writeHmwin c 0 v m
    | 0x0188 => s.writeHmwin c 1 v m
    | 0x0190 => if s.runs c || !m.getLsbD 0 then s else s.modCtx c fun x => { x with tctl := v.setWidth 14 }
    | 0x0198 => if m.getLsbD 0 then s.modCtx c (·.setPlimit v) else s
    | 0x01A0 => s.modCtx c fun x => { x with flbase := merge x.flbase v (m &&& 0xFFFFFFFFFFFFFFC0) }
    | 0x01A8 => s.writeFlctl c v m
    | 0x01B0 => s.modCtx c fun x => { x with grega := merge x.grega v m }
    | 0x01B8 => s.writeGregc c v m
    | _ => s

/-- Write a register of a die block. -/
def State.writeDieReg (s : State) (d o : Nat) (v m : BitVec 64) : State :=
  match o with
  | 0x0000 => if m.getLsbD 0 then s.parkrep d (v.setWidth 3) else s
  | 0x0010 => s.modDie d fun x => { x with icla := merge x.icla v m }
  | 0x0018 => s.writeIclc d v m
  | 0x4000 =>
    let n := (merge ((s.die d).bbper.setWidth 64) v m).setWidth 16
    if n == 0 then s else s.modDie d fun x => { x with bbper := n }
  | _ =>
    if 0x1000 ≤ o && o < 0x2000 then
      let p := (o - 0x1000) % 0x200 / 8
      if p < 33 then s.modCtx ((o - 0x1000) / 0x200) fun x =>
        { x with axr := Tab.set 0 x.axr (64 * d + p) (Tab.get 0 x.axr (64 * d + p) &&& ~~~((v &&& m).setWidth 5)) }
      else s
    else match budgetOffset o with
      | some (b, 3) => s.writeBbctl d b v m
      | some (b, r) =>
        if (b == 33 && d != 0) || !m.getLsbD 0 then s else s.modBudget d b r fun x => { x with limit := v.setWidth 32 }
      | none => s

/-- Whether a BAR0 offset lies in the block of a die that the host port's cannot reach, for a failed link (R13). -/
def State.cutOff (s : State) (o : Nat) : Bool := decide (0x800000 ≤ o) && s.routeBad 0 ((o - 0x800000) / 0x10000)

/-- Write a doubleword of BAR0; `m` marks the bits written. A die's block beyond a failed link is not reached (log entry 99). -/
def State.writeBar0 (s : State) (o : Nat) (v m : BitVec 64) : State :=
  if o < 0x100000 then s.writeGlob o v m
  else if o < 0x180000 then s.writeCtxReg ((o - 0x100000) / 0x10000) (o % 0x10000) v m
  else if 0x800000 ≤ o && o < 0x980000 && !s.cutOff o then s.writeDieReg ((o - 0x800000) / 0x10000) (o % 0x10000) v m
  else s

/-- Whether an access is an aligned one of 4 or 8 bytes. -/
def aligned48 (o : Nat) (wide : Bool) : Bool := o % (if wide then 8 else 4) == 0

/-- Whether BOOTFAIL withholds a BAR0 offset (R365). -/
def State.withheld (s : State) (o : Nat) : Bool := s.glob.bootfail && 0x100000 ≤ o

/-- REGISTER_WRITE: BAR0 at offset `off`. -/
def execRegisterWrite (s : State) : Host.Outcome State Fault Refusal :=
  let a := s.arg
  if !aligned48 a.off a.wide || s.withheld a.off then .next (s.say .unsupported)
  else if a.wide then .next (s.writeBar0 a.off a.v (BitVec.allOnes 64))
  else
    let hi := a.off % 8 == 4
    let v := a.v &&& 0xFFFFFFFF
    .next (s.writeBar0 (a.off / 8 * 8) (if hi then v <<< 32 else v) (if hi then 0xFFFFFFFF00000000 else 0xFFFFFFFF))

/-! ## BAR2 and messages (R358, R364) -/

/-- A doubleword of the MSI-X table or of the pending-bit array. -/
def State.readBar2 (s : State) (o : Nat) : BitVec 64 :=
  if o < 0x8000 then half128 (s.glob.vector (o / 16)) (o / 8 % 2)
  else if o < 0x8100 then BitVec.ofNat 64 (((List.range 64).map fun i =>
    if s.glob.msixPending.contains ((o - 0x8000) * 8 + i) then 2 ^ i else 0).foldl (· + ·) 0)
  else 0

/-- Send the pending messages that are no longer held back, in ascending order. -/
def State.sendPending (s : State) : State :=
  let go := (List.range 2048).filter fun n =>
    s.glob.msixPending.contains n && s.glob.msixEnable && !(s.glob.vector n).getLsbD 96
  { s with glob := { s.glob with msixPending := s.glob.msixPending.filter fun n => !go.contains n },
           hostOut := s.hostOut ++ go.map HostMsg.vector }

/-- MSIX_TABLE_WRITE at BAR2 offset `off`. -/
def execMsixTableWrite (s : State) : Host.Outcome State Fault Refusal :=
  let a := s.arg
  if !aligned48 a.off a.wide || s.glob.bootfail then .next (s.say .unsupported)
  else if 0x8000 ≤ a.off then .next s
  else
    let o := a.off / 8 * 8
    let hi := a.off % 8 == 4
    let v := if a.wide then a.v else if hi then (a.v &&& 0xFFFFFFFF) <<< 32 else a.v &&& 0xFFFFFFFF
    let m : BitVec 64 := if a.wide then BitVec.allOnes 64 else if hi then 0xFFFFFFFF00000000 else 0xFFFFFFFF
    let old := s.glob.vector (o / 16)
    let n := setHalf old (o / 8 % 2) (merge (half128 old (o / 8 % 2)) v m)
    .next (s.modGlob fun g => { g with msix := Tab.set (1#128 <<< 96) g.msix (o / 16) n }).sendPending

/-- MSI_X_ENABLE: the function's enable takes bit 0 of the value. -/
def execMsiXEnable (s : State) : Host.Outcome State Fault Refusal :=
  .next (s.modGlob fun g => { g with msixEnable := s.arg.v.getLsbD 0 }).sendPending

/-- THERMAL_ALERT. -/
def execThermalAlert (s : State) : Host.Outcome State Fault Refusal := .next (s.sendVector 2047)

/-- CXL_CACHE_SNOOP: answered without data, since the device caches no host line. -/
def execCxlCacheSnoop (s : State) : Host.Outcome State Fault Refusal := .next (s.say .snoop)

/-- The host reads BAR0, or BAR2 from offset 2^24 up. -/
def State.hostRead (s : State) (off : Nat) (wide : Bool) : State :=
  let bar2 := 2 ^ 24 ≤ off
  let o := off % 2 ^ 24
  if !aligned48 o wide || (if bar2 then s.glob.bootfail else s.withheld o || s.cutOff o) then s.say .unsupported
  else
    let v := if bar2 then s.readBar2 (o / 8 * 8) else s.readBar0 (o / 8 * 8)
    s.say (.data (if wide then v else if o % 8 == 4 then v >>> 32 else v &&& 0xFFFFFFFF))

/-! ## BAR4 and CXL.mem (R357, R358) -/

/-- The source of a host access's fault. -/
def hostWho (c : BitVec 3) : Who := ⟨0x1FF, c, none, 0, true, false, false, 0, 0⟩

/-- A host access of an address that its checks allow: a read answers, a write goes on its way. Accesses to one port keep the
host's order (R131); the host port's budget may freeze it (R368). -/
def State.hostAccess (s : State) (c : BitVec 3) (q : Reach) (a : EvArg) : State :=
  let n := if a.wide then 8 else 4
  let f : Flight := ⟨s.ids, 0x1FF, 0, 0, 0, pHI, s.cycle, s.cycle, !a.wr, a.wr, q.spans, some ⟨c, 0, 0, false, false, false, false, 0, 0, 0⟩,
    false, none, false, 0, .store (leBytes n a.v.toNat)⟩
  match s.overBudget 0 33 (useOf q.spans) with
  | some r => s.freeze 0 33 r (hostWho c)
  | none =>
    if a.wr then
      let s := (s.tlbAdd 0 q.tlb).charge 0 33 (useOf q.spans)
      ({ s with flights := s.flights ++ [f], ids := s.ids + 1 } : State).modGlob fun g => { g with hostWrites := g.hostWrites + 1 }
    else if s.flights.any fun g => g.path == pHI && hostOrdered f g then s
    else
      ((s.tlbAdd 0 q.tlb).charge 0 33 (useOf q.spans)).say (.data (BitVec.ofNat 64 (leNat (rdSpans s.mem q.spans))))

/-- The checks of a host access to device memory: its address, then its alignment (R98, R116). -/
def State.hostReach (s : State) (c : BitVec 3) (wr : Bool) (va : BitVec 64) (n : Nat) : Except Flt Reach :=
  let a : Acc := if wr then .wr else .rd
  match s.reach 0x1FF 0 c pHI a false va n with
  | .error f => .error f
  | .ok q => if va.toNat % n != 0 then .error ((align va n).on pHI a) else .ok q

/-- HOST_BAR4_ACCESS at BAR4 offset `off`. -/
def execHostBar4Access (s : State) : Host.Outcome State Fault Refusal :=
  let a := s.arg
  let c := s.glob.apctx
  let n := if a.wide then 8 else 4
  let st := (s.ctx c.toNat).state
  let no := fun (s : State) => if a.wr then s else s.say .unsupported
  if (s.die 0).frozenHost then .next s
  else if s.glob.bootfail then .next (s.say .unsupported)
  else if 2 ^ 36 ≤ a.off then .next (no s)
  else if st == 2 then .next (if a.wr then s else s.say (.data (BitVec.allOnes 64)))
  else if st != 1 then .next (no s)
  else
    let va := s.glob.apbase + BitVec.ofNat 64 a.off
    match s.hostReach c a.wr va n with
    | .error f => .next (no (s.logFault (hostWho c) f))
    | .ok q => .next (s.hostAccess c q a)

/-- CXL_MEM_ACCESS at host physical address `off`: outside every enabled window, to a context that is not resident, where a
write is not permitted or the translation faults, a read is poisoned and a write discarded; the fault is logged. -/
def execCxlMemAccess (s : State) : Host.Outcome State Fault Refusal :=
  let a := s.arg
  let n := if a.wide then 8 else 4
  let no := fun (s : State) => if a.wr then s else s.say .poison
  let hit := (List.range 8).find? fun c =>
    let w := (s.ctx c).hmwin.toNat
    w % 2 == 1 && w / 2 ^ 30 % 2 ^ 34 * 2 ^ 30 ≤ a.off && a.off < (w / 2 ^ 30 % 2 ^ 34 + w / 2 ^ 90 % 1024) * 2 ^ 30
  if (s.die 0).frozenHost then .next s
  else if !Config.trainedCxl s.glob.boots || s.glob.bootfail then .next (no s)
  else match hit with
    | none => .next (no s)
    | some c =>
      let w := (s.ctx c).hmwin.toNat
      let va := BitVec.ofNat 64 (w / 2 ^ 64 % 2 ^ 26 * 2 ^ 30 + (a.off - w / 2 ^ 30 % 2 ^ 34 * 2 ^ 30))
      if (s.ctx c).state != 1 || (a.wr && w / 2 ^ 100 % 2 == 0) then .next (no s)
      else match s.hostReach (BitVec.ofNat 3 c) a.wr va n with
        | .error f => .next (no (s.logFault (hostWho (BitVec.ofNat 3 c)) f))
        | .ok q => .next (s.hostAccess (BitVec.ofNat 3 c) q a)

/-! ## Links, life cycle, reset (R13, R365, R369) -/

/-- An uncorrectable error of a doubleword of HBM comes, or goes (R110). The MODEL's own move: the spec names no event for it. -/
def State.memoryError (s : State) (pa : Nat) : State :=
  let a := pa / 8 * 8
  s.modGlob fun g => { g with badEntries := if g.badEntries.contains a then g.badEntries.erase a else a :: g.badEntries }

/-- LINK_FAILURE between dies n and m, if a link joins them: reported to system software. DESIGN CHOICE (log entry 99): R13 names no
register or vector for the report, and the model records a message of its own; an access already in flight over the link, of
which R13 does not say whether it performs, performs. -/
def execLinkFailure (s : State) : Host.Outcome State Fault Refusal :=
  let p := (s.arg.n, s.arg.m)
  if p.1 < 24 && p.2 < 24 && hops p.1 p.2 == 1 && !s.glob.links.contains p && !s.glob.links.contains (p.2, p.1) then
    .next ((s.modGlob fun g => { g with links := p :: g.links }).say (.linkFailed p.1 p.2))
  else .next s

/-- A wipe of all memories and registers of the package. Host memory is none of its memories, and package time only increases
(R18), so budget periods begin anew from it; the schedule, the model's counters and the record of what the host was sent stay. -/
def State.wiped (s : State) : State :=
  let dies := (List.range 24).foldl (fun t d => Tab.set Die.reset t d { Die.reset with bbnext := s.time + 1000000 }) []
  { State.reset with
    mem := s.mem.filter (fun b => spaceOf b.1 == 3), dies := dies, cycle := s.cycle, time := s.time, agenda := s.agenda, ids := s.ids,
    fresh := s.fresh, hostOut := s.hostOut, cur := s.cur, arg := s.arg }

/-- LIFE_CYCLE_CHANGE to state n: a wipe; the identity key is made in the provisioned state and kept only from there to the
deployed state. -/
def execLifeCycleChange (s : State) : Host.Outcome State Fault Refusal :=
  let n := s.arg.n % 4
  let g := s.glob
  let keyed := n == 1 || (g.life == 1 && n == 2 && g.keyed)
  let w := s.wiped
  .next { w with
    glob := { w.glob with life := BitVec.ofNat 2 n, keyed := keyed, boots := g.boots, bootfail := g.bootfail,
                          bootdone := g.bootdone, links := g.links } }

/-- RESET: a wipe, then the boot ROM verifies the firmware and runs it or enters BOOTFAIL. -/
def execReset (s : State) : Host.Outcome State Fault Refusal :=
  let w := s.wiped
  let n := s.glob.boots + 1
  .next { w with glob := { w.glob with
    life := s.glob.life, keyed := s.glob.keyed, boots := n, bootfail := !Config.bootGood n, bootdone := Config.bootGood n } }

end Sys2Proof.Machine
end

