-- ==== Sys2Proof/Machine/Dispatch.lean ====
section
/-!
DEFINITION. What each instruction does: one arm per constructor, each a call of its meaning.
-/

namespace Sys2Proof.Machine

/-- Execute one instruction, or take one step of the package. -/
def exec (i : Instr) (s : State) : Host.Outcome State Fault Refusal :=
  match i with
  | .br o => Sys2Proof.Machine.execBr o s
  | .brg g t o => Sys2Proof.Machine.execBrg g t o s
  | .brz a o => Sys2Proof.Machine.execBrz a o s
  | .brnz a o => Sys2Proof.Machine.execBrnz a o s
  | .call o => Sys2Proof.Machine.execCall o s
  | .jmpr a => Sys2Proof.Machine.execJmpr a s
  | .loopImm c e => Sys2Proof.Machine.execLoopImm c e s
  | .loopReg a e => Sys2Proof.Machine.execLoopReg a e s
  | .looprImm c e => Sys2Proof.Machine.execLooprImm c e s
  | .looprReg a e => Sys2Proof.Machine.execLooprReg a e s
  | .fencei h => Sys2Proof.Machine.execFencei h s
  | .brswap b => Sys2Proof.Machine.execBrswap b s
  | .waitt a => Sys2Proof.Machine.execWaitt a s
  | .rfmode m => Sys2Proof.Machine.execRfmode m s
  | .setrm m => Sys2Proof.Machine.execSetrm m s
  | .setefr t v => Sys2Proof.Machine.execSetefr t v s
  | .getsp d p => Sys2Proof.Machine.execGetsp d p s
  | .setsp a p => Sys2Proof.Machine.execSetsp a p s
  | .trap n => Sys2Proof.Machine.execTrap n s
  | .add d a b => Sys2Proof.Machine.execAdd d a b s
  | .addi d a im => Sys2Proof.Machine.execAddi d a im s
  | .sub d a b => Sys2Proof.Machine.execSub d a b s
  | .mul d a b => Sys2Proof.Machine.execMul d a b s
  | .mulh d a b u => Sys2Proof.Machine.execMulh d a b u s
  | .div d a b u => Sys2Proof.Machine.execDiv d a b u s
  | .and d a b => Sys2Proof.Machine.execAnd d a b s
  | .or d a b => Sys2Proof.Machine.execOr d a b s
  | .xor d a b => Sys2Proof.Machine.execXor d a b s
  | .shlReg d a b => Sys2Proof.Machine.execShlReg d a b s
  | .shlImm d a im => Sys2Proof.Machine.execShlImm d a im s
  | .shrReg d a b => Sys2Proof.Machine.execShrReg d a b s
  | .shrImm d a im => Sys2Proof.Machine.execShrImm d a im s
  | .sarReg d a b => Sys2Proof.Machine.execSarReg d a b s
  | .sarImm d a im => Sys2Proof.Machine.execSarImm d a im s
  | .rotlReg d a b => Sys2Proof.Machine.execRotlReg d a b s
  | .rotlImm d a im => Sys2Proof.Machine.execRotlImm d a im s
  | .min d a b u => Sys2Proof.Machine.execMin d a b u s
  | .max d a b u => Sys2Proof.Machine.execMax d a b u s
  | .cmp c g a b => Sys2Proof.Machine.execCmp c g a b s
  | .cmpi c g a im => Sys2Proof.Machine.execCmpi c g a im s
  | .sel d a b g => Sys2Proof.Machine.execSel d a b g s
  | .clz d a => Sys2Proof.Machine.execClz d a s
  | .popc d a => Sys2Proof.Machine.execPopc d a s
  | .bfx d a x p w => Sys2Proof.Machine.execBfx d a x p w s
  | .bfi d a p w => Sys2Proof.Machine.execBfi d a p w s
  | .movgToScalar d g => Sys2Proof.Machine.execMovgToScalar d g s
  | .movgToGuard a g => Sys2Proof.Machine.execMovgToGuard a g s
  | .li d im => Sys2Proof.Machine.execLi d im s
  | .lih d p im => Sys2Proof.Machine.execLih d p im s
  | .fadd d a b => Sys2Proof.Machine.execFadd d a b s
  | .fsub d a b => Sys2Proof.Machine.execFsub d a b s
  | .fmul d a b => Sys2Proof.Machine.execFmul d a b s
  | .ffma d a b c => Sys2Proof.Machine.execFfma d a b c s
  | .fmin d a b => Sys2Proof.Machine.execFmin d a b s
  | .fmax d a b => Sys2Proof.Machine.execFmax d a b s
  | .fcmp c g a b => Sys2Proof.Machine.execFcmp c g a b s
  | .fcvt d a v => Sys2Proof.Machine.execFcvt d a v s
  | .frcp d a => Sys2Proof.Machine.execFrcp d a s
  | .frsq d a => Sys2Proof.Machine.execFrsq d a s
  | .fexp2 d a => Sys2Proof.Machine.execFexp2 d a s
  | .flog2 d a => Sys2Proof.Machine.execFlog2 d a s
  | .vadd w d a p b q => Sys2Proof.Machine.execVadd w d a p b q s
  | .vsub w d a p b q => Sys2Proof.Machine.execVsub w d a p b q s
  | .vmul w d a p b q => Sys2Proof.Machine.execVmul w d a p b q s
  | .vmin w d a p b q => Sys2Proof.Machine.execVmin w d a p b q s
  | .vmax w d a p b q => Sys2Proof.Machine.execVmax w d a p b q s
  | .vfma w d a p b q c => Sys2Proof.Machine.execVfma w d a p b q c s
  | .vabs w d a p m k => Sys2Proof.Machine.execVabs w d a p m k s
  | .vcvt w d a p v m k => Sys2Proof.Machine.execVcvt w d a p v m k s
  | .vexp2 w d a p m k => Sys2Proof.Machine.execVexp2 w d a p m k s
  | .vlog2 w d a p m k => Sys2Proof.Machine.execVlog2 w d a p m k s
  | .vrcp w d a p m k => Sys2Proof.Machine.execVrcp w d a p m k s
  | .vrsq w d a p m k => Sys2Proof.Machine.execVrsq w d a p m k s
  | .fp32MaskedForms w d p b q k f => Sys2Proof.Machine.execFp32MaskedForms w d p b q k f s
  | .fp32ScalarForms w d a p sr f => Sys2Proof.Machine.execFp32ScalarForms w d a p sr f s
  | .viadd w d a p b q => Sys2Proof.Machine.execViadd w d a p b q s
  | .visub w d a p b q => Sys2Proof.Machine.execVisub w d a p b q s
  | .vimul w d a p b q => Sys2Proof.Machine.execVimul w d a p b q s
  | .vand w d a p b q => Sys2Proof.Machine.execVand w d a p b q s
  | .vor w d a p b q => Sys2Proof.Machine.execVor w d a p b q s
  | .vxor w d a p b q => Sys2Proof.Machine.execVxor w d a p b q s
  | .vshl w d a p b q => Sys2Proof.Machine.execVshl w d a p b q s
  | .vshr w d a p b q => Sys2Proof.Machine.execVshr w d a p b q s
  | .vshrA w d a p b q => Sys2Proof.Machine.execVshrA w d a p b q s
  | .vimin w d a p b q => Sys2Proof.Machine.execVimin w d a p b q s
  | .vimax w d a p b q => Sys2Proof.Machine.execVimax w d a p b q s
  | .viminU w d a p b q => Sys2Proof.Machine.execViminU w d a p b q s
  | .vimaxU w d a p b q => Sys2Proof.Machine.execVimaxU w d a p b q s
  | .int32MaskedForms w d p b q k f => Sys2Proof.Machine.execInt32MaskedForms w d p b q k f s
  | .int32ScalarForms w d a p sr f => Sys2Proof.Machine.execInt32ScalarForms w d a p sr f s
  | .vcmp w m a p b q im c => Sys2Proof.Machine.execVcmp w m a p b q im c s
  | .vcmpScalar w m a p sr im c => Sys2Proof.Machine.execVcmpScalar w m a p sr im c s
  | .vsel w d p b q k => Sys2Proof.Machine.execVsel w d p b q k s
  | .mand w d a b => Sys2Proof.Machine.execMand w d a b s
  | .mor w d a b => Sys2Proof.Machine.execMor w d a b s
  | .mxor w d a b => Sys2Proof.Machine.execMxor w d a b s
  | .mnot w d a => Sys2Proof.Machine.execMnot w d a s
  | .mcnt w d a => Sys2Proof.Machine.execMcnt w d a s
  | .vcoal w d a p z m => Sys2Proof.Machine.execVcoal w d a p z m s
  | .vlen w d a p q m => Sys2Proof.Machine.execVlen w d a p q m s
  | .vsplat w d sr n m v => Sys2Proof.Machine.execVsplat w d sr n m v s
  | .viota w d sr n => Sys2Proof.Machine.execViota w d sr n s
  | .viotaSeg w d a p => Sys2Proof.Machine.execViotaSeg w d a p s
  | .vslice w d a p sr => Sys2Proof.Machine.execVslice w d a p sr s
  | .vcat w d a p b q => Sys2Proof.Machine.execVcat w d a p b q s
  | .vpick w d a p b q => Sys2Proof.Machine.execVpick w d a p b q s
  | .vsegset w d a p k => Sys2Proof.Machine.execVsegset w d a p k s
  | .vsegclr w d a p m k => Sys2Proof.Machine.execVsegclr w d a p m k s
  | .vspread w d a p b q => Sys2Proof.Machine.execVspread w d a p b q s
  | .vrsum w d a p m k => Sys2Proof.Machine.execVrsum w d a p m k s
  | .vrsumSeg w d a p m k => Sys2Proof.Machine.execVrsumSeg w d a p m k s
  | .vrssq w d a p m k => Sys2Proof.Machine.execVrssq w d a p m k s
  | .vrssqSeg w d a p m k => Sys2Proof.Machine.execVrssqSeg w d a p m k s
  | .vrmax w d a p m k => Sys2Proof.Machine.execVrmax w d a p m k s
  | .vrmaxSeg w d a p m k => Sys2Proof.Machine.execVrmaxSeg w d a p m k s
  | .vrmin w d a p m k => Sys2Proof.Machine.execVrmin w d a p m k s
  | .vrminSeg w d a p m k => Sys2Proof.Machine.execVrminSeg w d a p m k s
  | .vscan w d a p m k x => Sys2Proof.Machine.execVscan w d a p m k x s
  | .vmaxk w d a p m k => Sys2Proof.Machine.execVmaxk w d a p m k s
  | .vmaxkSeg w d a p m k => Sys2Proof.Machine.execVmaxkSeg w d a p m k s
  | .vexpk w d a p b q => Sys2Proof.Machine.execVexpk w d a p b q s
  | .vsck w d a p b q => Sys2Proof.Machine.execVsck w d a p b q s
  | .vsckSeg w d a p b q => Sys2Proof.Machine.execVsckSeg w d a p b q s
  | .lds d b o => Sys2Proof.Machine.execLds d b o s
  | .sts d b o => Sys2Proof.Machine.execSts d b o s
  | .ldsW d b o => Sys2Proof.Machine.execLdsW d b o s
  | .ldsWu d b o => Sys2Proof.Machine.execLdsWu d b o s
  | .ldsH d b o => Sys2Proof.Machine.execLdsH d b o s
  | .ldsHu d b o => Sys2Proof.Machine.execLdsHu d b o s
  | .ldsB d b o => Sys2Proof.Machine.execLdsB d b o s
  | .ldsBu d b o => Sys2Proof.Machine.execLdsBu d b o s
  | .stsW d b o => Sys2Proof.Machine.execStsW d b o s
  | .stsH d b o => Sys2Proof.Machine.execStsH d b o s
  | .stsB d b o => Sys2Proof.Machine.execStsB d b o s
  | .ldv v b n f c => Sys2Proof.Machine.execLdv v b n f c s
  | .ldvc v b n f c => Sys2Proof.Machine.execLdvc v b n f c s
  | .stv v b f c p => Sys2Proof.Machine.execStv v b f c p s
  | .ldr v b n m => Sys2Proof.Machine.execLdr v b n m s
  | .str v b n p m => Sys2Proof.Machine.execStr v b n p m s
  | .ldvr v im n h e x c k => Sys2Proof.Machine.execLdvr v im n h e x c k s
  | .stvr v im n h e x c p => Sys2Proof.Machine.execStvr v im n h e x c p s
  | .shld h b o => Sys2Proof.Machine.execShld h b o s
  | .shwin h o => Sys2Proof.Machine.execShwin h o s
  | .shchk h g => Sys2Proof.Machine.execShchk h g s
  | .shq d h im q => Sys2Proof.Machine.execShq d h im q s
  | .waitf n b o => Sys2Proof.Machine.execWaitf n b o s
  | .setf n b o => Sys2Proof.Machine.execSetf n b o s
  | .clrf n b o => Sys2Proof.Machine.execClrf n b o s
  | .mscl m b o => Sys2Proof.Machine.execMscl m b o s
  | .star d a n f => Sys2Proof.Machine.execStar d a n f s
  | .fence a => Sys2Proof.Machine.execFence a s
  | .xfence a b => Sys2Proof.Machine.execXfence a b s
  | .drain a => Sys2Proof.Machine.execDrain a s
  | .atom d b v o t u => Sys2Proof.Machine.execAtom d b v o t u s
  | .atomN b v o t u => Sys2Proof.Machine.execAtomN b v o t u s
  | .acas d b e v t => Sys2Proof.Machine.execAcas d b e v t s
  | .rsf v b => Sys2Proof.Machine.execRsf v b s
  | .rsfV v b p => Sys2Proof.Machine.execRsfV v b p s
  | .rsb v b => Sys2Proof.Machine.execRsb v b s
  | .rsbV v b p => Sys2Proof.Machine.execRsbV v b p s
  | .rso v b im w => Sys2Proof.Machine.execRso v b im w s
  | .rsoV v b im w p => Sys2Proof.Machine.execRsoV v b im w p s
  | .roopen d b c w => Sys2Proof.Machine.execRoopen d b c w s
  | .roopenX d w => Sys2Proof.Machine.execRoopenX d w s
  | .binit e b => Sys2Proof.Machine.execBinit e b s
  | .binitV e b n => Sys2Proof.Machine.execBinitV e b n s
  | .bfin d b => Sys2Proof.Machine.execBfin d b s
  | .bfinV b n v => Sys2Proof.Machine.execBfinV b n v s
  | .bnorm b => Sys2Proof.Machine.execBnorm b s
  | .bnormV b n => Sys2Proof.Machine.execBnormV b n s
  | .dqpush b v t => Sys2Proof.Machine.execDqpush b v t s
  | .dqpop d b t => Sys2Proof.Machine.execDqpop d b t s
  | .dqsteal d b t => Sys2Proof.Machine.execDqsteal d b t s
  | .bara d b => Sys2Proof.Machine.execBara d b s
  | .barw b p => Sys2Proof.Machine.execBarw b p s
  | .tgrow d n => Sys2Proof.Machine.execTgrow d n s
  | .sdclaim d b => Sys2Proof.Machine.execSdclaim d b s
  | .sdfree d l => Sys2Proof.Machine.execSdfree d l s
  | .waitm v b c o => Sys2Proof.Machine.execWaitm v b c o s
  | .evpop d e => Sys2Proof.Machine.execEvpop d e s
  | .evpopNb d e => Sys2Proof.Machine.execEvpopNb d e s
  | .launch b => Sys2Proof.Machine.execLaunch b s
  | .notify n => Sys2Proof.Machine.execNotify n s
  | .mzero a => Sys2Proof.Machine.execMzero a s
  | .mldb g a f sr x => Sys2Proof.Machine.execMldb g a f sr x s
  | .mgenbPure n sr c f => Sys2Proof.Machine.execMgenbPure n sr c f s
  | .mgenbAdd n sr c b l f => Sys2Proof.Machine.execMgenbAdd n sr c b l f s
  | .mma a g sr m f c x => Sys2Proof.Machine.execMma a g sr m f c x s
  | .mmat a g sr p f c x => Sys2Proof.Machine.execMmat a g sr p f c x s
  | .mmag a n e c m f => Sys2Proof.Machine.execMmag a n e c m f s
  | .mcop sr => Sys2Proof.Machine.execMcop sr s
  | .mdrv v a r f c => Sys2Proof.Machine.execMdrv v a r f c s
  | .mdrs a g sr r f => Sys2Proof.Machine.execMdrs a g sr r f s
  | .madp a g sr v p m => Sys2Proof.Machine.execMadp a g sr v p m s
  | .madt d im a b => Sys2Proof.Machine.execMadt d im a b s
  | .mbase a => Sys2Proof.Machine.execMbase a s
  | .mmaRag a g sr x h f c k => Sys2Proof.Machine.execMmaRag a g sr x h f c k s
  | .mdrvRag v a r x h f => Sys2Proof.Machine.execMdrvRag v a r x h f s
  | .gload n a => Sys2Proof.Machine.execGload n a s
  | .gfree n => Sys2Proof.Machine.execGfree n s
  | .gseed sr a => Sys2Proof.Machine.execGseed sr a s
  | .geval v n sr c l a => Sys2Proof.Machine.execGeval v n sr c l a s
  | .gstat d n sr q => Sys2Proof.Machine.execGstat d n sr q s
  | .cpy t a b h sr f q => Sys2Proof.Machine.execCpy t a b h sr f q s
  | .cpyZ t a b f q => Sys2Proof.Machine.execCpyZ t a b f q s
  | .cpyr t a b h sr f e x q => Sys2Proof.Machine.execCpyr t a b h sr f e x q s
  | .xpose t d sr k q => Sys2Proof.Machine.execXpose t d sr k q s
  | .xcvt t d sr n k q => Sys2Proof.Machine.execXcvt t d sr n k q s
  | .xexp t d sr q => Sys2Proof.Machine.execXexp t d sr q s
  | .imload t a q => Sys2Proof.Machine.execImload t a q s
  | .cwaitt d t => Sys2Proof.Machine.execCwaitt d t s
  | .cpoll d t => Sys2Proof.Machine.execCpoll d t s
  | .chdef c b d => Sys2Proof.Machine.execChdef c b d s
  | .csend c a n d q => Sys2Proof.Machine.execCsend c a n d q s
  | .crecv c a n d q => Sys2Proof.Machine.execCrecv c a n d q s
  | .ca2ac c a d q => Sys2Proof.Machine.execCa2ac c a d q s
  | .ca2ap c a d q => Sys2Proof.Machine.execCa2ap c a d q s
  | .cswr c v d o q => Sys2Proof.Machine.execCswr c v d o q s
  | .cdig c a n q => Sys2Proof.Machine.execCdig c a n q s
  | .cnrm c a n d q => Sys2Proof.Machine.execCnrm c a n d q s
  | .cpause c => Sys2Proof.Machine.execCpause c s
  | .cres c => Sys2Proof.Machine.execCres c s
  | .gagree c v d q => Sys2Proof.Machine.execGagree c v d q s
  | .reset => Sys2Proof.Machine.execReset s
  | .lifeCycleChange => Sys2Proof.Machine.execLifeCycleChange s
  | .linkFailure => Sys2Proof.Machine.execLinkFailure s
  | .thermalAlert => Sys2Proof.Machine.execThermalAlert s
  | .bundleDispatch => Sys2Proof.Machine.execBundleDispatch s
  | .exposedResultLands => Sys2Proof.Machine.execExposedResultLands s
  | .presenceResultArrives => Sys2Proof.Machine.execPresenceResultArrives s
  | .taskDispatch => Sys2Proof.Machine.execTaskDispatch s
  | .coResidentDispatch => Sys2Proof.Machine.execCoResidentDispatch s
  | .replayDispatch => Sys2Proof.Machine.execReplayDispatch s
  | .preq => Sys2Proof.Machine.execPreq s
  | .taskPreemption => Sys2Proof.Machine.execTaskPreemption s
  | .preemptionLimitExpiry => Sys2Proof.Machine.execPreemptionLimitExpiry s
  | .swctlArm => Sys2Proof.Machine.execSwctlArm s
  | .swctlCancel => Sys2Proof.Machine.execSwctlCancel s
  | .switchInstant => Sys2Proof.Machine.execSwitchInstant s
  | .switchDrainLimit => Sys2Proof.Machine.execSwitchDrainLimit s
  | .gangSwitchSave => Sys2Proof.Machine.execGangSwitchSave s
  | .gangSwitchRestore => Sys2Proof.Machine.execGangSwitchRestore s
  | .portSyncOperation => Sys2Proof.Machine.execPortSyncOperation s
  | .waitmSatisfied => Sys2Proof.Machine.execWaitmSatisfied s
  | .waittDeadline => Sys2Proof.Machine.execWaittDeadline s
  | .parkrep => Sys2Proof.Machine.execParkrep s
  | .tlbinvGo => Sys2Proof.Machine.execTlbinvGo s
  | .tlbInvalidationComplete => Sys2Proof.Machine.execTlbInvalidationComplete s
  | .budgetPeriodBoundary => Sys2Proof.Machine.execBudgetPeriodBoundary s
  | .budgetThaw => Sys2Proof.Machine.execBudgetThaw s
  | .budgetKill => Sys2Proof.Machine.execBudgetKill s
  | .hostBar4Access => Sys2Proof.Machine.execHostBar4Access s
  | .cxlMemAccess => Sys2Proof.Machine.execCxlMemAccess s
  | .msixTableWrite => Sys2Proof.Machine.execMsixTableWrite s
  | .registerWrite => Sys2Proof.Machine.execRegisterWrite s
  | .generatorRegistration => Sys2Proof.Machine.execGeneratorRegistration s
  | .registrationComplete => Sys2Proof.Machine.execRegistrationComplete s
  | .codeLoad => Sys2Proof.Machine.execCodeLoad s
  | .codeLoadComplete => Sys2Proof.Machine.execCodeLoadComplete s
  | .ctxCreate => Sys2Proof.Machine.execCtxCreate s
  | .ctxCreateComplete => Sys2Proof.Machine.execCtxCreateComplete s
  | .ctxTeardown => Sys2Proof.Machine.execCtxTeardown s
  | .teardownComplete => Sys2Proof.Machine.execTeardownComplete s
  | .csctlStart => Sys2Proof.Machine.execCsctlStart s
  | .supervisorControllerStart => Sys2Proof.Machine.execSupervisorControllerStart s
  | .supervisorControllerStop => Sys2Proof.Machine.execSupervisorControllerStop s
  | .attestationRequest => Sys2Proof.Machine.execAttestationRequest s
  | .attestationReportReady => Sys2Proof.Machine.execAttestationReportReady s
  | .accumulatorRowLands => Sys2Proof.Machine.execAccumulatorRowLands s
  | .mldbLoadComplete => Sys2Proof.Machine.execMldbLoadComplete s
  | .mgenbCommit => Sys2Proof.Machine.execMgenbCommit s
  | .genBoundDetected => Sys2Proof.Machine.execGenBoundDetected s
  | .mdrsTileRelease => Sys2Proof.Machine.execMdrsTileRelease s
  | .gloadCopyComplete => Sys2Proof.Machine.execGloadCopyComplete s
  | .transferTileRelease => Sys2Proof.Machine.execTransferTileRelease s
  | .transferComplete => Sys2Proof.Machine.execTransferComplete s
  | .transformComplete => Sys2Proof.Machine.execTransformComplete s
  | .armNoticeArrival => Sys2Proof.Machine.execArmNoticeArrival s
  | .collectivePacketArrival => Sys2Proof.Machine.execCollectivePacketArrival s
  | .abortPacketReceipt => Sys2Proof.Machine.execAbortPacketReceipt s
  | .switchContribution => Sys2Proof.Machine.execSwitchContribution s
  | .switchSlotTimeout => Sys2Proof.Machine.execSwitchSlotTimeout s
  | .agreementContribution => Sys2Proof.Machine.execAgreementContribution s
  | .agreementTimeout => Sys2Proof.Machine.execAgreementTimeout s
  | .normPartialArrival => Sys2Proof.Machine.execNormPartialArrival s
  | .digestArrival => Sys2Proof.Machine.execDigestArrival s
  | .ret => Sys2Proof.Machine.execRet s
  | .lbrk => Sys2Proof.Machine.execLbrk s
  | .retire => Sys2Proof.Machine.execRetire s
  | .frame => Sys2Proof.Machine.execFrame s
  | .frameX => Sys2Proof.Machine.execFrameX s
  | .sysret => Sys2Proof.Machine.execSysret s
  | .sysretS => Sys2Proof.Machine.execSysretS s
  | .mswap => Sys2Proof.Machine.execMswap s
  | .mcopMad => Sys2Proof.Machine.execMcopMad s
  | .cpauseAll => Sys2Proof.Machine.execCpauseAll s
  | .cresAll => Sys2Proof.Machine.execCresAll s
  | .writePerformed => Sys2Proof.Machine.execWritePerformed s
  | .lastPacketAccepted => Sys2Proof.Machine.execLastPacketAccepted s
  | .switchPacketDrop => Sys2Proof.Machine.execSwitchPacketDrop s
  | .msiXEnable => Sys2Proof.Machine.execMsiXEnable s
  | .cxlCacheSnoop => Sys2Proof.Machine.execCxlCacheSnoop s

end Sys2Proof.Machine
end

