-- ==== Sys2Proof/Machine/Sched.lean ====
section
/-!
DEFINITION. The model's schedule: the clock, what must happen before it advances, what happens when the agenda is empty,
what follows an attempt to issue, and placing one instruction word at the head of a slot.
-/

namespace Sys2Proof.Machine

/-- After an attempt to issue: a fault that can be delivered is taken (R134, R135). -/
def State.settle (s : State) (u : Nat) : State :=
  match (s.unit u).disp.pend with
  | some p => if s.deliverable u p then s.deliver u p else s
  | none => s

/-- After a slot's move from one state to another: a fault that a lower slot's may take the place of waits for it, and one that can be
delivered is taken (R134, R135). -/
def State.concluded (s t : State) (u : Nat) : State := if s.outranked t u then s else t.settle u

/-! ## Invar mode (R57, R156) -/

/-- Whether a unit is held to its stamps in this cycle. -/
def Unit.stamped (x : Unit) : Bool := x.on && x.invar && !x.frozen

/-- Whether a bundle has still an operation to issue. -/
def Unit.unissued (x : Unit) (u : Nat) (b : Bun) : Bool :=
  (slotsOf u).any fun k => (x.slot k).queue.any fun o => o.seq == b.seq

/-- Whether every operation of a bundle has stood at its head throughout this cycle. -/
def State.atHeads (s : State) (u : Nat) (b : Bun) : Bool :=
  (slotsOf u).all fun k => let sl := (s.unit u).slot k
    match sl.queue with
    | o :: _ => o.seq == b.seq && sl.last ≤ s.cycle
    | [] => false

/-- Whether a FRAME of an earlier bundle has still to issue. -/
def Unit.behindFrame (x : Unit) (b : Bun) : Bool :=
  (x.slot 1).queue.any fun o => decide (o.seq < b.seq) && match o.instr 1 with
    | some .frame => true
    | some .frameX => true
    | _ => false

/-- Whether this cycle is the one in which a bundle must issue: its stamp's, or for a bundle with FRAME the first in which
all of it stands at the heads. -/
def State.onTime (s : State) (u : Nat) (b : Bun) : Bool :=
  let x := s.unit u
  if b.frame then s.atHeads u b else b.stamp.toNat == x.spr.sfc.toNat && !x.behindFrame b

/-- Whether a bundle's stamp lies behind the present frame's count (R156). -/
def State.passed (s : State) (u : Nat) (b : Bun) : Bool :=
  let x := s.unit u
  !b.frame && !x.behindFrame b && decide (b.stamp.toNat < x.spr.sfc.toNat)

/-- Why operations of a bundle cannot issue now, with their slots. -/
def State.reasons (s : State) (u : Nat) (b : Bun) : List (Nat × Nat) :=
  ((slotsOf u).map fun k => match ((s.unit u).slot k).queue with
    | o :: _ => if o.seq == b.seq then (s.blocks u k o).map fun r => (r, k) else []
    | [] => []).flatten

/-- Change a bundle's record. -/
def State.modBun (s : State) (u seq : Nat) (f : Bun → Bun) : State :=
  s.modUnit u fun x => x.modDisp fun d => { d with buns := d.buns.map fun b => if b.seq == seq then f b else b }

/-- An early read that an operation's own rule finds as it issues: of accumulator rows, or of FFLAGS (R50, R171). -/
def State.earlyOwn (s : State) (i : Instr) : Option Flt :=
  let drain := fun (a : BitVec 3) (r : BitVec 5) =>
    let f := drainFields (s.rs r)
    s.earlyRows s.u s.cur.op.seq a f.1 f.2.1
  match i with
  | .mdrv _ a r _ _ | .mdrs a _ _ r _ | .mdrvRag _ a r _ _ _ => drain a r
  | .star _ a n _ => s.starEarly a n
  | .getsp _ p => if p == 0x015 then s.earlyFlags s.u s.cur.op.seq else none
  | _ => none

/-- An early read of a bundle's operations at their heads, which the trap raises before the stamp check; of one operation, a touch of
a gated cluster wins over it (R38). -/
def State.earlyHeads (s : State) (u : Nat) (b : Bun) : Option (Nat × Flt) :=
  let x := s.unit u
  (slotsOf u).findSome? fun k => match (x.slot k).queue with
    | o :: _ =>
      if o.seq != b.seq then none
      else
        let i := if x.guardOf k o then o.instr k else none
        ((((if x.guardRead k o then none else s.earlyGuard u o).orElse fun _ => i.bind (s.earlyRead u o)).orElse fun _ =>
            i.bind ({ s with cur := ⟨u, k, o⟩ } : State).earlyOwn).map fun f =>
          (i.bind fun i => x.asleep (touches i)).getD f).map fun f => (k, f)
    | [] => none

/-- A bundle at the end of a cycle: SCHED_OVERRUN if it had to issue and could not, or if its stamp had passed when it came
to the heads (0x04 if it had passed before the bundle dispatched); what waits by a rule of its own has begun. -/
def State.judge (s : State) (u : Nat) (b : Bun) : State :=
  let x := s.unit u
  let late := fun (sub : Byte) (k : Nat) => match s.earlyHeads u b with
    | some e => s.raiseAt u b.seq b.addr e.1 true e.2
    | none => s.raiseAt u b.seq b.addr k false (schedFault sub x.spr.sfc b.stamp)
  let fallen := match x.disp.pend with | some p => decide (p.seq ≤ b.seq) | none => false
  if b.begun || !x.stamped || !x.unissued u b || fallen then s
  else if !s.atHeads u b then s
  else if s.passed u b then late (if b.missed then 4 else 5) 0
  else if !s.onTime u b then s
  else match worst ((s.reasons u b).filter fun r => r.1 ≤ 3) with
    | some r => late (BitVec.ofNat 8 r.1) r.2
    | none => s.modBun u b.seq fun c => { c with begun := true }

/-- Judge every bundle of a unit. -/
def State.judgeUnit (s : State) (u : Nat) : State :=
  if (s.unit u).stamped then (s.unit u).disp.buns.foldl (fun s b => s.judge u b) s else s

/-! ## The clock -/

/-- Whether a unit stands at the drain point that a pre-emption waits for. DEDUCED (log entry 110): SFC stands still there, so that no
SCHED_OVERRUN arises from the gap of a switch (R38). -/
def State.drainHeld (s : State) (u : Nat) : Bool :=
  (s.unit u).preempt.isSome && (s.unit u).allIssued u && s.atDrain u

/-- A unit goes into the next cycle: SFC counts up to 1,024, wake windows count by their ticks (R156, R225). -/
def Unit.advance (x : Unit) (held : Bool) : Unit :=
  let run := x.on && x.spr.inv && !x.spr.sup && !x.frozen && !held && decide (x.spr.sfc.toNat < 1024)
  let tick := !x.spr.inv || x.disp.moved
  let x := if run then x.modSpr fun p => { p with sfc := p.sfc + 1 } else x
  x.modDisp fun d => { d with
    moved := run, wake := if tick then (d.wake.map fun w => (w.1, w.2 - 1)).filter fun w => w.2 != 0 else d.wake }

/-- The clock advances by a cycle of half a nanosecond (R13, R18): engines make the reads of the new cycle, transforms whose
time is over have written. -/
def State.advance (s : State) : State :=
  let us := s.units.map (·.1)
  let s := us.foldl State.judgeUnit s
  let s := us.foldl (fun s u => s.modUnit u fun x => x.advance (s.drainHeld u)) s
  let s : State := { s with lately := [], cycle := s.cycle + 1, time := if s.cycle % 2 == 1 then s.time + 1 else s.time }
  { s.streamReads.transforms with seen := [] }

/-! ## What is due in this cycle -/

/-- An event with its operands. -/
def ev (i : Instr) (n m : Nat) : Move := .event i { EvArg.zero with n := n, m := m }

/-- The first element of a list that passes a test, by its place. -/
def findAt {α : Type} (l : List α) (p : Nat → α → Bool) : Option Nat :=
  (l.zipIdx.find? fun x => p x.2 x.1).map (·.2)

/-- The first slot of a unit whose head may issue and has not been tried in this cycle, or whose bundle's colliding guards
can be read. -/
def State.readySlot (s : State) (u : Nat) (x : Unit) : Option Move :=
  if !x.on then none else (slotsOf u).findSome? fun k =>
    let sl := x.slot k
    match sl.queue with
    | [] => none
    | o :: _ =>
      if (x.disp.buns.any fun b => b.seq == o.seq && s.pairsReady u b)
          || (sl.tried ≤ s.cycle && s.blocked u k o == none && s.stampMet u o
            && !(x.guardOf k o && (o.instr k).any (s.portLoses u k o))) then some (.slot u k) else none

/-- A slot whose head meets every condition of issue in this cycle and has not been tried (R44). -/
def State.dueSlot (s : State) : Option Move := s.units.findSome? fun (p : Nat × Unit) => s.readySlot p.1 p.2

/-- A unit that dispatches in this cycle (R43, R57). -/
def State.dueDispatch (s : State) : Option Move :=
  (s.units.find? fun (p : Nat × Unit) => s.dispatches p.1).map fun p => ev .bundleDispatch p.1 0

/-- A result of fixed latency that becomes present in this cycle (R44, R231, R234). -/
def State.dueResult (s : State) : Option Move :=
  (findAt s.flights fun _ f => f.path == pNone && !f.isCopy && s.mayArrive f && match f.what with | .result .. => true | _ => false).map
    fun n => ev .presenceResultArrives n 0

/-- What must happen before the clock advances: results that land, loads and transforms that end, bounds met, timers. -/
def State.dueMove (s : State) : Option Move :=
  ((findAt s.landings fun _ l => s.mayLand l).map fun n =>
    match s.landings[n]? with
    | some l => if l.what.dst == some (.sp 0x031) then ev .preq n 0 else ev .exposedResultLands n 0
    | none => ev .exposedResultLands n 0).orElse fun _ =>
  ((findAt s.rows fun n r => s.rowDue n r).map fun n => ev .accumulatorRowLands n 0).orElse fun _ =>
  (s.units.findSome? fun (p : Nat × Unit) => match p.2.eng.load with
    | some l => if l.bad || s.cycle < l.due then none
        else some (ev (if l.gen then .mgenbCommit else .mldbLoadComplete) p.1 0)
    | none => none).orElse fun _ =>
  ((findAt s.flights fun _ f => match f.what with | .bound _ => decide (f.due ≤ s.cycle) && f.bad.isSome && !s.lowerReady f.unit f.slot f.seq | _ => false).map
    fun n => ev .genBoundDetected n 0).orElse fun _ =>
  ((findAt s.xfers fun _ x => x.kind == .transform && !x.recd && decide (x.due ≤ s.cycle) && !s.heldXfer x.unit).map
    fun n => ev .transformComplete n 0).orElse fun _ =>
  (((List.range 24).find? fun d => (s.die d).bbnext.ule (s.timeOf d)).map fun d => ev .budgetPeriodBoundary d 0).orElse fun _ =>
  (((List.range 24).find? s.instantDue).map fun d => ev .switchInstant d 0).orElse fun _ =>
  (match s.glob.running with
    | some c => if s.glob.swStep == 1 && ((s.unitsOf c).any s.gangLate || !(s.lateParts c).isEmpty) then some (ev .switchDrainLimit 0 0) else none
    | none => none).orElse fun _ =>
  (s.units.findSome? fun (p : Nat × Unit) => match p.2.preempt with
    | some q => if p.2.task.isSome && !q.gang && !p.2.disp.closed
          && decide (q.time.toNat + q.limit.toNat ≤ (s.timeOf (dieOf p.1)).toNat)
        then some (ev .preemptionLimitExpiry p.1 0) else none
    | none => none).orElse fun _ =>
  ((findAt s.switch.slots fun _ x => x.expired s.time).map fun n =>
    ev (if (s.switch.slots[n]?).any (fun (x : SwSlot) => x.round) then .agreementTimeout else .switchSlotTimeout) n 0).orElse fun _ =>
  s.dueResult.orElse fun _ => s.dueSlot.orElse fun _ => s.dueDispatch

/-- A clock cycle, unless something is still due in this one. -/
def State.tick (s : State) : State := if s.dueMove.isSome then s else s.advance

/-! ## What happens when the agenda is empty -/

/-- A candidate for the next move: an event of the table and its meaning. -/
structure Candidate where
  move : Instr
  n : Nat
  m : Nat
  run : State → Host.Outcome State Fault Refusal

/-- Whether a candidate changes the state. -/
def Candidate.stirs (c : Candidate) (s : State) : Bool :=
  let s := { s with arg := { EvArg.zero with n := c.n, m := c.m } }
  match c.run s with
  | .next t => t != s
  | _ => false

/-- The event that ends a flight. -/
def flightCandidate (f : Flight) (n : Nat) : Candidate :=
  match f.what with
  | .store _ | .coStore .. | .bits _ _ | .star .. => ⟨.writePerformed, n, 0, execWritePerformed⟩
  | .drain _ _ _ => if f.writes then ⟨.writePerformed, n, 0, execWritePerformed⟩
      else ⟨.mdrsTileRelease, n, 0, execMdrsTileRelease⟩
  | .req (.bfin _ k got _) _ _ =>
    ⟨.portSyncOperation, n, ((List.range k).find? fun i => !got.any (·.1 == i)).getD 0, execPortSyncOperation⟩
  | .req .. => ⟨.portSyncOperation, n, 0, execPortSyncOperation⟩
  | .bound _ => ⟨.genBoundDetected, n, 0, execGenBoundDetected⟩
  | _ => if f.isCopy then ⟨.gloadCopyComplete, n, 0, execGloadCopyComplete⟩
      else ⟨.presenceResultArrives, n, 0, execPresenceResultArrives⟩

/-- The event that takes a packet from the fabric. -/
def State.packetCandidate (s : State) (p : Packet) (n : Nat) : Candidate :=
  if (s.dropCause p).isSome then ⟨.switchPacketDrop, n, 0, execSwitchPacketDrop⟩
  else match p.kind with
    | 0 => ⟨.armNoticeArrival, n, 0, execArmNoticeArrival⟩
    | 4 => ⟨.normPartialArrival, n, 0, execNormPartialArrival⟩
    | 5 => ⟨.switchContribution, n, 0, execSwitchContribution⟩
    | 6 => ⟨.digestArrival, n, 0, execDigestArrival⟩
    | 7 => ⟨.abortPacketReceipt, n, 0, execAbortPacketReceipt⟩
    | 8 => ⟨.agreementContribution, n, 0, execAgreementContribution⟩
    | _ => ⟨.collectivePacketArrival, n, 0, execCollectivePacketArrival⟩

/-- Candidates among accesses, transfers, packets and calls. -/
def State.traffic (s : State) : List Candidate :=
  (s.flights.zipIdx.map fun f => flightCandidate f.1 f.2)
  ++ (s.watches.zipIdx.map fun w => ⟨.waitmSatisfied, w.2, 0, execWaitmSatisfied⟩)
  ++ (s.xfers.zipIdx.map fun x => (x.1.left.map fun t => (⟨.transferTileRelease, x.2, t, execTransferTileRelease⟩ : Candidate))
      ++ [⟨.transferComplete, x.2, 0, execTransferComplete⟩]).flatten
  ++ (s.fabric.zipIdx.map fun p => s.packetCandidate p.1 p.2)
  ++ (s.calls.zipIdx.map fun c => ⟨.lastPacketAccepted, c.2, 0, execLastPacketAccepted⟩)

/-- Candidates among tasks, contexts and dies. -/
def State.affairs (s : State) : List Candidate :=
  let us := s.units.map (·.1)
  (us.map fun u => ⟨.taskPreemption, u, 0, execTaskPreemption⟩)
  ++ (if s.glob.swStep == 0 then []
      else [⟨.gangSwitchSave, 0, 0, execGangSwitchSave⟩, ⟨.gangSwitchRestore, 0, 0, execGangSwitchRestore⟩])
  ++ (s.ctxs.map fun c => [⟨.registrationComplete, c.1, 0, execRegistrationComplete⟩,
      ⟨.ctxCreateComplete, c.1, 0, execCtxCreateComplete⟩, ⟨.teardownComplete, c.1, 0, execTeardownComplete⟩,
      (⟨.tlbInvalidationComplete, c.1, 0, execTlbInvalidationComplete⟩ : Candidate)]).flatten
  ++ (s.dies.map fun d => ⟨.codeLoadComplete, d.1, 0, execCodeLoadComplete⟩)
  ++ [⟨.attestationReportReady, 0, 0, execAttestationReportReady⟩]

/-- A row of a transfer or a packet of a call that can go on, or a wait that can reach its port. -/
def State.goesOn (s : State) : Option Move :=
  ((s.watches.find? fun w => !w.armed && !s.watchHeld w).map fun w => Move.progress w.id).orElse fun _ =>
  ((s.xfers.find? fun x => s.xferProgress x != s).map fun x => Move.progress x.id).orElse fun _ =>
  (s.calls.find? fun c => s.callProgress c != s).map fun c => Move.progress c.id

/-- A fault to deliver, or a slot that may issue. -/
def State.issues (s : State) : Option Move :=
  s.units.findSome? fun (p : Nat × Unit) => match p.2.disp.pend with
    | some q => if s.deliverable p.1 q then some (.slot p.1 1) else s.readySlot p.1 p.2
    | none => s.readySlot p.1 p.2

/-- A unit that dispatches, or that takes work. -/
def State.starts (s : State) : Option Move :=
  ((s.units.find? fun (p : Nat × Unit) => s.mayDispatch p.1 && s.dispatch p.1 != s).map fun p => ev .bundleDispatch p.1 0).orElse fun _ =>
  if s.groups.isEmpty && s.units.all (fun p => p.2.saved.isEmpty) then none
  else ((findAt s.groups fun n _ =>
      Candidate.stirs ⟨.coResidentDispatch, n, 0, execCoResidentDispatch⟩ s).map fun n => ev .coResidentDispatch n 0).orElse fun _ =>
    ((List.range 384).find? fun u => s.takes u && s.turn u).map fun u => ev .taskDispatch u 0

/-- A direct load whose read can perform: it performs at once, so that the loads of later bundles are held no longer than
they must be (R119). -/
def State.directRead (s : State) : Option Move :=
  (s.flights.find? fun f => f.direct && f.open && s.mayPerform { f with due := 0 }
    && (match f.what with | .load .. => true | _ => false) && s.performRead f != s).map fun f => Move.progress f.id

/-- What happens when the agenda is empty: what is due, then whatever can happen in this cycle, then the clock. -/
def State.defaultMove (s : State) : Move :=
  (s.dueMove.orElse fun _ => s.directRead.orElse fun _ =>
    ((s.traffic.find? fun c => c.stirs s).map fun c => ev c.move c.n c.m).orElse fun _ =>
    s.goesOn.orElse fun _ => s.issues.orElse fun _ => s.starts.orElse fun _ =>
    (s.affairs.find? fun c => c.stirs s).map fun c => ev c.move c.n c.m).getD .tick

/-! ## The other moves -/

/-- An entry in flight goes on: a read performs, a wait reaches its port, a transfer or a call takes its next step. -/
def State.progress (s : State) (n : Nat) : State :=
  match s.flights.find? fun f => f.id == n, s.watches.find? fun w => w.id == n, s.xfers.find? fun x => x.id == n, s.call? n with
  | some f, _, _, _ => s.performRead f
  | _, some w, _, _ => s.armWatch w.id
  | _, _, some x, _ => s.xferProgress x
  | _, _, _, some k => s.callProgress k
  | none, none, none, none => s

/-- One granule of the access of a flight performs, or of the next read of a transfer or call. -/
def State.part (s : State) (n g : Nat) : State :=
  match s.flights.find? fun f => f.id == n, s.xfers.find? fun x => x.id == n, s.call? n with
  | some f, _, _ => s.performPart f g
  | none, some x, _ => s.xferPart x g
  | none, none, some k => s.callPart k g
  | none, none, none => s

/-- A unit reads the granule at a place ahead, within the cycle in which one of its engines makes a read that the granule is part of (R117):
of an operand of the matrix engine, a transform's source, MSCL's bytes, a bundle or a record. Its tile is full (R100), and no write of the
core's own is about to change it (R119, R120). -/
def State.operandPart (s : State) (u p : Nat) : State :=
  let q := p / 8 * 8
  let written := s.flights.any fun f => f.unit == u && f.writes && f.open && f.spans.any fun x => overlaps x.1 x.2 q 8
  if !s.allFull (tilesOfSpans [(q, 8)]) || written || s.coHeld u s.ids false [(q, 8)] || s.seen.any (fun c => c.1 == u && c.2.1 == q) then s
  else { s with seen := s.seen ++ (cellsOf s.mem (q, 8)).map fun c => (u, c) }

/-- A packet of a member outside the package enters the fabric. -/
def State.inject (s : State) (p : Packet) : State := s.send { p with srcDie := none }

/-- Take the next move from the agenda. -/
def State.pop (s : State) : State := { s with agenda := s.agenda.drop 1 }

/-! ## Placing an instruction word -/

/-- The slot in which a table word is placed: the first one whose decoder accepts it, in the order of `tableSlots`. -/
def slotFor (w : Nat) : Nat :=
  match tableSlots.find? fun k => match decodeSlot k (BitVec.ofNat 32 w) with | .ok (some _) => true | _ => false with
  | some .sq => 1
  | some .v => 2
  | some .mx => 4
  | some .gn => 5
  | some .me => 6
  | some .tx => 7
  | none => 1

/-- The unit on which it is placed: core 0, or controller 0 for an operation that only controllers have (R196). -/
def unitFor (w : Nat) : Nat :=
  let k := slotFor w
  match decodeSlot (slotKindOf k) (BitVec.ofNat 32 w) with
  | .ok (some i) => if availableOn false false i then 0 else 384
  | _ => 0

/-- A unit with one operation dispatched and nothing else under way. -/
def Unit.placed (x : Unit) (u k : Nat) (w : Word) : Unit :=
  { x with
    on := true, frozen := false
    slots := [(k, ⟨[{ QOp.nop with seq := 0, addr := x.front.pc, word := w, rotb := x.front.rotb, loops := x.front.loops }],
      0, 0, .none, 0⟩)]
    disp := { Disp.reset with seq := 1, buns := [⟨0, x.front.pc, false, 0, x.front, none, false, [], [], none, false, false⟩],
                              wait := if k == 1 then some 0 else none }
    spr := { x.spr with inv := false }
    task := if isCtl u then none else match x.task with
      | some t => some t
      | none => some ⟨0, 0, 0, false, false, false, false, 0, 0, 0⟩ }

/-- Place an instruction word so that the next step runs it. -/
def State.place (s : State) (w : Nat) : State :=
  let k := slotFor w
  let u := unitFor w
  let s := s.modUnit u fun x => x.placed u k (BitVec.ofNat 32 w)
  { s with landings := s.landings.filter (·.unit != u), rows := s.rows.filter (·.unit != u),
           agenda := [.slot u k],
           glob := { s.glob with running := some (s.glob.running.getD 0), earlyTrap := false } }

end Sys2Proof.Machine
end

