-- ==== Sys2Proof/Machine/Step.lean ====
section
/-!
DEFINITION. One step of the package: the agenda's next move, or the default move when it is empty.
-/

namespace Sys2Proof.Machine

/-- What a move does. A slot's move runs the instruction decoded from the word at the head of the slot's queue. -/
def doMove (m : Move) (s : State) : Host.Outcome State Fault Refusal :=
  match m with
  | .tick => .next s.tick
  | .slot u k =>
    if unitOk u then
      match s.attempt u k with
      | .settled t => .next (s.concluded t u)
      | .run i t touch =>
        match exec i t with
        | .next t' => .next (s.concluded (t.afterRun t' touch) u)
        | .fault f => .fault f
        | .refused r => .refused r
    else .fault .absentUnit
  | .event i a => if i.slotKind == none then exec i { s with arg := a } else .next s
  | .progress n => .next (s.progress n)
  | .part n g => .next (s.part n g)
  | .split n g => .next (s.splitPacket n g)
  | .operand u p => .next (s.operandPart u p)
  | .packet p => .next (s.inject p)
  | .bind h b => .next (s.bindHandle h b)
  | .hostRead off wide => .next (s.hostRead off wide)
  | .memoryError pa => .next (s.memoryError pa)

/-- One step. -/
def step (s : State) : Host.Outcome State Fault Refusal :=
  match s.agenda with
  | m :: _ => doMove m s.pop
  | [] => doMove s.defaultMove s

/-- The state with an instruction word placed where the next step runs it. -/
def State.withFetchWord (s : State) (nbits w : Nat) : State := s.place (w % 2 ^ nbits)

end Sys2Proof.Machine
end

