-- ==== Sys2Proof/Safety.lean ====
section
/-!
DEFINITION. The terms in which claims are stated: what a safe step and a safe run are, what an operation's issue leaves
alone, what it sends on its way, and the invariants of the state.
-/

namespace Sys2Proof.Safety

open Sys2Proof.Machine

/-- A step is safe when the machine goes on. -/
def Safe (s : State) : Prop := ∃ t, step s = .next t

/-- The states that a run reaches from a state. -/
inductive Reaches : State → State → Prop where
  | refl (s : State) : Reaches s s
  | next (s t u : State) : Reaches s t → step t = .next u → Reaches s u

/-- A property that every step keeps. -/
def Kept (P : State → Prop) : Prop := ∀ s t, P s → step s = .next t → P t

/-- The outcome is a next state that has a property. -/
def Goes (o : Host.Outcome State Fault Refusal) (P : State → Prop) : Prop := ∃ t, o = .next t ∧ P t

/-! ## Invariants of the state -/

/-- Memory is in its canonical form. -/
def MemoryOk (s : State) : Prop := Memory.wf s.mem = true

/-- The table of units is in its canonical form. -/
def UnitsOk (s : State) : Prop := Tab.wf Unit.idle s.units = true

/-- The table of contexts is in its canonical form. -/
def CtxsOk (s : State) : Prop := Tab.wf Ctx.reset s.ctxs = true

/-- The tables of dies and of every die's budgets are in their canonical form. -/
def DiesOk (s : State) : Prop :=
  Tab.wf Die.reset s.dies = true ∧ ∀ d, Tab.wf Budget.reset (s.die d).budgets = true

/-- Every call in flight, and every one that a context's saved state holds, has a number below the next one. -/
def CallsOk (s : State) : Prop :=
  (∀ k ∈ s.calls, k.id < s.ids) ∧ ∀ c y, (s.ctx c).saved = some y → ∀ k ∈ y.calls, k.id < s.ids

/-- The tables within units, saved units and contexts that statements rest on are in their canonical form. -/
def InnerOk (s : State) : Prop :=
  Tab.wf 0 s.code = true ∧ Tab.wf (1#128 <<< 96) s.glob.msix = true ∧ (∀ u, Tab.wf 0 (s.unit u).s = true) ∧
    ∀ c, Tab.wf 0 (s.ctx c).btag = true ∧ Tab.wf 0 (s.ctx c).adapters = true ∧
      ∀ y, (s.ctx c).saved = some y → ∀ u, Tab.wf 0 (Tab.get .idle y.units u).s = true

/-- Every table of the state that statements rest on is in its canonical form. -/
def TablesOk (s : State) : Prop := UnitsOk s ∧ CtxsOk s ∧ DiesOk s ∧ CallsOk s ∧ InnerOk s

/-! ## Frames -/

/-- A unit's registers: all of the unit but its slot queues and its dispatch bookkeeping. -/
def regs (x : Machine.Unit) : Machine.Unit := { x with slots := [], disp := .reset }

/-- What is not a unit, not a die's cached translations and budgets, and not on its way: memory, tiles, code, contexts,
the global block, groups, the switch, the clock, what the host has been sent. -/
def rest (s : State) : State :=
  { s with units := [], dies := [], landings := [], rows := [], streams := [], flights := [], watches := [], xfers := [], calls := [],
           fabric := [], ids := 0 }

/-- The lists of what is on its way, other than flights, and the dies. -/
def ways (s : State) := (s.rows, s.streams, s.watches, s.xfers, s.calls, s.fabric)

/-- Every register of every unit, and everything of `rest`, is unchanged. -/
def Frame (s t : State) : Prop := (∀ u, regs (t.unit u) = regs (s.unit u)) ∧ rest t = rest s

/-- The issuing unit's registers become those of `x`; every register of every other unit, and everything of `rest`, is
unchanged. -/
def Own (x : Machine.Unit) (s t : State) : Prop :=
  (∀ u, regs (t.unit u) = regs (if u = s.u then x else s.unit u)) ∧ rest t = rest s

/-- Every unit but one, and everything of `rest`, is unchanged. -/
def FrameBut (u : Nat) (s t : State) : Prop := (∀ v, v ≠ u → t.unit v = s.unit v) ∧ rest t = rest s

/-- The issuing operation has issued: it has left its queue and holds its slot for `occ` cycles (at least one). -/
def Left (s t : State) (occ : Nat) : Prop :=
  (t.unit s.u).slot s.cur.slot = ⟨(s.me.slot s.cur.slot).queue.drop 1, s.cycle + max 1 occ, s.cycle + 1, .none, 0⟩

/-- The issuing operation stands at the head of its slot's queue, as it does whenever a step runs it. -/
def Heads (s : State) : Prop := (s.me.slot s.cur.slot).queue.head? = some s.cur.op

/-! ## What an operation sends on its way -/

/-- The landing of an exposed result of the issuing operation, `lat` cycles on (R44). -/
def landingOf (s : State) (lat : Nat) (w : Land) : Landing :=
  ⟨s.u, s.cur.op.seq, s.cur.op.addr, s.cur.slot, s.cycle, s.cycle + lat, w⟩

/-- The operation issues with one exposed result on its way and changes nothing else. -/
def Lands (lat : Nat) (w : Land) (s t : State) : Prop :=
  Frame s t ∧ Left s t 1 ∧ t.landings = s.landings ++ [landingOf s lat w] ∧ t.flights = s.flights ∧ t.ids = s.ids
    ∧ t.dies = s.dies ∧ ways t = ways s

/-- The operation issues for `occ` cycles and changes nothing else. -/
def Nothing (occ : Nat) (s t : State) : Prop :=
  Frame s t ∧ Left s t occ ∧ t.landings = s.landings ∧ t.flights = s.flights ∧ t.ids = s.ids ∧ t.dies = s.dies
    ∧ ways t = ways s

/-- The operation issues for `occ` cycles with one access, request or presence-tracked result on its way; of the rest only
dies' cached translations and budgets may change. -/
def Flies (occ : Nat) (f : Flight) (s t : State) : Prop :=
  Frame s t ∧ Left s t occ ∧ t.flights = s.flights ++ [f] ∧ t.ids = s.ids + 1 ∧ t.landings = s.landings ∧ ways t = ways s

/-- The same with several flights, numbered in order. -/
def FliesAll (occ : Nat) (fs : List Flight) (s t : State) : Prop :=
  Frame s t ∧ Left s t occ ∧ t.flights = s.flights ++ fs ∧ t.ids = s.ids + fs.length ∧ t.landings = s.landings
    ∧ ways t = ways s

/-- A presence-tracked result whose value is fixed, present `lat` cycles after the issue. -/
def resultOf (s : State) (lat : Nat) (d : Stor) (v : Val) (fl : Flags) : Flight :=
  s.flight pNone (s.cycle + lat) false false [] (.result [(d, v)] fl)

/-- A control operation of sq issues: the front end goes on from `f` in the next cycle, `ls` are on their way, and nothing
else changes (R149). -/
def Turns (f : Front) (ls : List Landing) (s t : State) : Prop :=
  Own { s.me with front := f } s t ∧ Left s t 1 ∧ (t.unit s.u).disp.wait = none ∧ (t.unit s.u).disp.earliest = s.cycle + 1
    ∧ t.landings = s.landings ++ ls ∧ t.flights = s.flights ∧ t.ids = s.ids ∧ t.dies = s.dies ∧ ways t = ways s

/-- The operation issues with the registers of its unit changed to those of `x`, and changes nothing else. -/
def Sets (x : Machine.Unit) (s t : State) : Prop :=
  Own x s t ∧ Left s t 1 ∧ t.landings = s.landings ∧ t.flights = s.flights ∧ t.ids = s.ids ∧ t.dies = s.dies
    ∧ ways t = ways s

/-- The operation waits: nothing changes. -/
def Waits (i : Instr) (s : State) : Prop := exec i s = .next s

/-- A precise fault of the issuing operation is noted, and nothing else changes: the operation has no effect (R134). -/
def Raises (f : Flt) (s t : State) : Prop := t = s.raise f ∧ Frame s t ∧ (t.unit s.u).slot s.cur.slot = s.me.slot s.cur.slot

/-! ## Exact values and their neighbours (R72, R73) -/

/-- The rational number that a finite value stands for. -/
def ratOf (neg : Bool) (m : Nat) (e : Int) : ℚ := (if neg then -1 else 1) * (m : ℚ) * 2 ^ e

/-- The values of a format with the exponent range unbounded above (R73). -/
def OnGrid (f : Fmt) (y : ℚ) : Prop :=
  ∃ (n : Nat) (q : Int), n < 2 ^ (f.fw + 1) ∧ 1 - (f.bias : Int) - f.fw ≤ q ∧ |y| = (n : ℚ) * 2 ^ q

/-- The neighbour of an exact value that a rounding mode chooses (R72); `v` is the noise of R74. An even last bit is that of
a value which is an even multiple of its neighbours' distance. -/
def Chosen (rm : BitVec 3) (v : Nat) (x lo hi y : ℚ) : Prop :=
  match rm.toNat with
  | 0 => (y = lo ∨ y = hi) ∧ |x - y| ≤ x - lo ∧ |x - y| ≤ hi - x ∧ (x - lo = hi - x → ∃ k : Int, y = 2 * k * (hi - lo))
  | 1 => y = if 0 ≤ x then lo else hi
  | 2 => y = lo
  | 3 => y = hi
  | 4 => y = if x - lo < hi - x then lo else if hi - x < x - lo then hi else if 0 ≤ x then hi else lo
  | _ => y = if (v : ℚ) < (x - lo) / (hi - lo) * 2 ^ 24 then hi else lo

/-! ## Values -/

/-- The elements of a run register, in order (R87). -/
def elems (rs : List Run) : List Word := (rs.map fun r => List.replicate r.cnt r.val).flatten

/-- Whether a piece of aligned operands begins at a position: the first, or where some operand's run begins (R228). -/
def cutAt (ops : List (List Run)) (p : Nat) : Bool :=
  p == 0 || ops.any fun o => (indexed 0 o).any fun x => x.1 == p && x.2.cnt != 0

/-- The null runs that an operand has at a position. -/
def nullsIn (o : List Run) (p : Nat) : Nat := (indexed 0 o).countP fun x => x.1 == p && x.2.cnt == 0

/-- Whether a piece carries B: the first, or where some operand has a run with B (R228). -/
def startAt (ops : List (List Run)) (p : Nat) : Bool :=
  p == 0 || ops.any fun o => (indexed 0 o).any fun x => x.1 == p && x.2.cnt != 0 && x.2.b

/-- The values that operands hold at a position. -/
def valsAt (ops : List (List Run)) (p : Nat) : List Word := ops.map fun o => (elems o).getD p 0

/-- Where the piece that begins at a position ends. -/
def cutAfter (ops : List (List Run)) (len p : Nat) : Nat :=
  ((List.range len).find? fun q => decide (p < q) && cutAt ops q).getD len

/-- The output of an element-wise operation on operands of one length, position by position (R228). -/
def alignedRuns (f : Nat → List Word → Word × BitVec 5) (ops : List (List Run)) (len : Nat) : List Run :=
  (List.range (len + 1)).flatMap fun p =>
    List.replicate ((ops.map fun o => nullsIn o p).foldl max 0) nullRun ++
      if p < len ∧ cutAt ops p = true then [⟨(f p (valsAt ops p)).1, cutAfter ops len p - p, startAt ops p⟩] else []

/-- The flags of that output: those of every piece. -/
def alignedFlags (f : Nat → List Word → Word × BitVec 5) (ops : List (List Run)) (len : Nat) : BitVec 5 :=
  ((List.range len).filter (cutAt ops)).foldr (fun p a => (f p (valsAt ops p)).2 ||| a) 0

/-- A scalar result of sq `lat` cycles on, with no flags. -/
def ScalarIn (i : Instr) (s : State) (lat : Nat) (d : BitVec 5) (v : BitVec 64) : Prop :=
  Goes (exec i s) (Lands lat (.scalar (s.ps d) v 0) s)

/-- A guard result of sq, with no flags. -/
def GuardIn (i : Instr) (s : State) (g : BitVec 2) (b : Bool) : Prop := Goes (exec i s) (Lands 1 (.guard g b 0) s)

/-! ## Vector results (R230, R231) -/

/-- The cycles that a vector operation of piece count `q` occupies its slot. -/
def vecCycles (w : BitVec 2) (q : Nat) : Nat := max 1 (ceilDiv q (lanes w))

/-- A vector operation issues with a register result on its way, present c + 3 cycles on. -/
def VecIs (i : Instr) (s : State) (w : BitVec 2) (d : Stor) (q : Nat) (v : Val) (fl : BitVec 5) : Prop :=
  Goes (exec i s) (Flies (vecCycles w q) (resultOf s (vecCycles w q + 3) d v fl) s)

/-- The same for a list of runs, unless they are more than 4,096. -/
def VecOut (i : Instr) (s : State) (w : BitVec 2) (d : Stor) (q : Nat) (rs : List Run) (fl : BitVec 5) : Prop :=
  (rs.length ≤ 4096 → VecIs i s w d q (.runs rs) fl) ∧
    (4096 < rs.length → Goes (exec i s) (Raises (runOverflow rs.length) s))

/-- An element-wise operation: its aligned result, RUN_OVERFLOW, or LENGTH_MISMATCH of the first two lengths. -/
def VecEach (i : Instr) (s : State) (w : BitVec 2) (d : Stor) (ops : List (List Run))
    (f : Nat → List Word → Word × BitVec 5) : Prop :=
  match mismatch ops with
  | some p => Goes (exec i s) (Raises (lengthMismatch p.1 p.2) s)
  | none => VecOut i s w d (alignRuns ops).length (mapPieces f (alignRuns ops)).1 (mapPieces f (alignRuns ops)).2

/-! ## Accesses of the memory slot (R100, R111, R174, R368) -/

/-- Every tile that an access touches is full, and was so before this cycle (R100; log entry 126). -/
def Full (s : State) (r : Reach) : Prop := ∀ t ∈ tilesOfSpans r.spans, s.present t = true

/-- The access passes no budget of its core, which a controller does not have (R367, R368). -/
def Within (s : State) (r : Reach) : Prop :=
  isCtl s.u = true ∨ (s.tlbAdd (dieOf s.u) r.tlb).overBudget (dieOf s.u) (coreIn s.u) (useOf r.spans) = none

/-- A load of ranges: the fault of its checks; a wait for its tiles, or, where it is a direct access, for those of earlier bundles
that it would overtake (R119); or an issue with a load of the checked places on its way, its result present no earlier than L + c − 1 cycles on
(and `extra` more). -/
def LoadOut (i : Instr) (s : State) (size : Nat) (rs : List (BitVec 64 × Nat)) (entries extra : Nat) (d : Stor) (c : Conv) :
    Prop :=
  match s.access pSL .rd false size rs with
  | .error f => Goes (exec i s) (Raises f s)
  | .ok r =>
    let occ := occupancy s.u r.spans entries
    let ready : Prop := Full s r ∧ s.directHeld r.spans = false
    (¬ ready → Waits i s) ∧
    (ready → Within s r → Goes (exec i s)
      (Flies occ (s.flight pSL (s.cycle + r.latency s.u + occ - 1 + extra) true false r.spans (.load d c [])) s))

/-- A store of bytes to ranges: the fault of its checks; a wait, where it is a direct access, for those of earlier bundles that it
would overtake (R119); or an issue with a store to the checked places on its way (none where there are none), performed no earlier than L
cycles on, and the flights `more`. -/
def StoreOut (i : Instr) (s : State) (size : Nat) (rs : List (BitVec 64 × Nat)) (entries : Nat) (bytes : List Byte)
    (more : Nat → List Flight) : Prop :=
  match s.access pSL .wr false size rs with
  | .error f => Goes (exec i s) (Raises f s)
  | .ok r =>
    let occ := occupancy s.u r.spans entries
    let f := s.flight pSL (s.cycle + r.latency s.u) false true r.spans (.store bytes)
    (s.directHeld r.spans = true → Waits i s) ∧
    (s.directHeld r.spans = false → Within s r → Goes (exec i s)
      (FliesAll occ ((if r.spans = [] then [] else [f]) ++ (more occ).map fun g =>
        { g with id := if r.spans = [] then s.ids else s.ids + 1 }) s))

/-! ## The matrix engine (R269, R276, R287) -/

/-- An operation with a matrix operand: the lowest fault of `extra` and the operand's span; a wait for the direct accesses
of earlier bundles and for its tiles; or what it does. -/
def MxOut (i : Instr) (s : State) (sa : BitVec 64) (g : BitVec 2) (span : Nat) (extra : List Flt) (more : List (Nat × Nat))
    (P : State → Prop) : Prop :=
  match lowestFault (extra ++ operandFaults sa span .rd) with
  | some f => Goes (exec i s) (Raises f s)
  | none =>
    let r : Reach := ⟨(groupPlace s.u g (mxOff sa), span) :: more, []⟩
    let ready : Prop := s.operandsReady s.u s.cur.op.seq = true ∧ Full s r
    (¬ ready → Waits i s) ∧ (ready → Within s r → Goes (exec i s) P)

/-- The reads that the issuing operation of the matrix engine (`mx`) or of a transform makes cycle by cycle: each its cycle, its place, its
bytes; those of this cycle are made. -/
def streamOf (s : State) (mx : Bool) (reads : List (Nat × Nat × Nat)) (hold : Nat × Nat) : Stream :=
  (⟨s.ids, s.u, s.cur.op.seq, s.me.task, mx, reads, [], [], hold⟩ : Stream).run (s.mxMem s.u) s.cycle

/-- The operation issues for `occ` cycles with accumulator rows and reads on their way and changes nothing else but dies' budgets. -/
def Streams (occ : Nat) (rs : List RowLanding) (rd : List Stream) (s t : State) : Prop :=
  Frame s t ∧ Left s t occ ∧ t.rows = s.rows ++ rs ∧ t.streams = s.streams ++ rd ∧ t.flights = s.flights ∧ t.landings = s.landings
    ∧ t.ids = s.ids + rd.length ∧ t.watches = s.watches ∧ t.xfers = s.xfers ∧ t.calls = s.calls ∧ t.fabric = s.fabric

/-- The row of the issuing operation that lands in bank `b`, row `r`, 136 + `k` cycles on. -/
def rowIn (s : State) (b : BitVec 3) (k r : Nat) (w : RowWork) : RowLanding :=
  ⟨s.u, s.me.task, s.cur.op.seq, s.cur.op.addr, s.cycle, s.cycle + 136 + k, b, r, w⟩

/-- The operation issues for `occ` cycles with the matrix and generator engines' registers of its unit changed to `e`. -/
def Engine (occ : Nat) (e : Eng) (s t : State) : Prop :=
  Own { s.me with eng := e } s t ∧ Left s t occ ∧ t.landings = s.landings ∧ t.flights = s.flights ∧ t.ids = s.ids
    ∧ ways t = ways s

/-- The operation issues for a cycle with the matrix and generator engines' registers of its unit changed to `e` and with reads on their
way. -/
def EngineReads (e : Eng) (r : Stream) (s t : State) : Prop :=
  Own { s.me with eng := e } s t ∧ Left s t 1 ∧ t.streams = s.streams ++ [r] ∧ t.landings = s.landings ∧ t.flights = s.flights
    ∧ t.ids = s.ids + 1 ∧ t.rows = s.rows ∧ t.watches = s.watches ∧ t.xfers = s.xfers ∧ t.calls = s.calls ∧ t.fabric = s.fabric

/-- A pass that streams rows of A (R276, R287): the pair of formats, the engine's state, the operand; then M rows at the
pair's rate, each landing with the codes that it picks from what is read at `reads` from the operand's place. -/
def PassOut (i : Instr) (s : State) (a : BitVec 3) (g : BitVec 2) (sa : BitVec 64) (m : Nat) (f : BitVec 3)
    (scales : Option (List Byte)) (span : Nat) (stage2 : List Flt) (reads : Nat × Nat → Nat → List (Nat × Nat × Nat)) (pick : Nat → Pick)
    (holds : Bool) (cells : Nat → List Bool) : Prop :=
  match s.pairRate f with
  | none => Goes (exec i s) (Raises (prot 0x16 (BitVec.ofNat 64 (f.toNat * 256 + s.me.eng.active.fb.toNat))) s)
  | some p =>
    match lowestFault (stage2 ++ if s.addReads s.u g then [bankConflict g sa] else []) with
    | some e => Goes (exec i s) (Raises e s)
    | none =>
      let place := groupPlace s.u g (mxOff sa)
      let occ := ceilDiv (m * p.2) p.1
      MxOut i s sa g span [] [] (Streams occ
        ((List.range m).map fun r => rowIn s a (r * p.2 / p.1) r ⟨BitVec.ofNat 2 (s.me.eng.cellop.toNat / 4 ^ (r % 16)),
          [], f, s.me.spr.efrm.setWidth 8, scales.map fun l => (l.drop (4 * r)).take 4, s.me.eng.active, cells r,
          some 0, some (s.ids, pick r)⟩) [streamOf s true (reads p place) (if holds then (place, s.cycle + occ) else (0, 0))] s)

/-! ## Requests of the sync engine (R193, R195, R112) -/

/-- A returning request: a precise fault of its checks, or an issue with the request on its way to the port of its object. -/
def AskOut (i : Instr) (s : State) (r : Req) (va : BitVec 64) (dst : List Stor) (more : List Flt) : Prop :=
  let q := s.reqReach s.u (s.ctxOf s.u) true r va
  match lowestFault (faultOf q ++ more) with
  | some f => Goes (exec i s) (Raises f s)
  | none => ∀ c, q = .ok c → Within s c → Goes (exec i s)
      (Flies 1 (s.flight pAT (s.cycle + c.latency s.u) true true c.spans (.req r va dst)) s)

/-- A non-returning request on its way, the `k`th of its operation; the fault of its checks travels with it. -/
def toldFlight (s : State) (k : Nat) (r : Req) (va : BitVec 64) : Flight :=
  let b : State := { s with ids := s.ids + k }
  match b.reqReach s.u (s.ctxOf s.u) false r va with
  | .ok q => b.flight pAT (s.cycle + q.latency s.u) true true q.spans (.req r va [])
  | .error f => { b.flight pAT (s.cycle + 1) true true [] (.req r va []) with
      bad := some ⟨s.cur.op.seq, s.cur.op.addr, s.cur.slot, f.code, f.sub, f.info0, f.info1, f.info2, f.info3, f.xinfo, f.path,
        f.kind, 0, false⟩ }

/-- Non-returning requests: an issue with all of them on their way in order, nothing raised. -/
def TellOut (i : Instr) (s : State) (rs : List (Req × BitVec 64)) (occ : Nat) : Prop :=
  Within s (s.tellReach rs) → Goes (exec i s) fun t =>
    FliesAll occ (rs.mapIdx fun k p => toldFlight s k p.1 p.2) s t

/-- A wait at a memory port: the fault of its checks, a watch on its way with the slot held, a wait while it is not
satisfied, and an issue once it has been. -/
def WatchOut (i : Instr) (s : State) (va : BitVec 64) (size off n : Nat) (spaces : Nat → Bool) (cc : BitVec 3) (x : BitVec 64)
    (more : List Flt) : Prop :=
  match (s.me.slot 6).hold with
  | .done _ => Goes (exec i s) (Nothing 1 s)
  | .wait _ => Waits i s
  | .none =>
    ∀ q, s.reach s.u (dieOf s.u) (s.ctxOf s.u) pAT .rd false va size = .ok q → more = [] →
      (∀ y ∈ q.spans, spaces (spaceOf y.1) = true) → onePort q.spans = true → va.toNat % size = 0 → Within s q →
      Goes (exec i s) fun t =>
        let p := (q.spans.headD (0, 0)).1
        Frame s t ∧ t.watches = s.watches ++ [⟨s.ids, s.u, 6, p + off, n, cc, x, false, false, s.cycle + q.latency s.u, 0⟩] ∧
        t.ids = s.ids + 1 ∧ (t.unit s.u).slot s.cur.slot = { s.me.slot s.cur.slot with hold := .wait s.ids } ∧
        t.flights = s.flights ∧ t.landings = s.landings

/-! ## Transfers (R313, R317) -/

/-- The token that a unit's next transfer operation takes; 0 is skipped. -/
def tokenOf (x : Machine.Unit) : BitVec 16 := if x.tok + 1 = 0 then 1 else x.tok + 1

/-- A transfer operation issues: it takes a token, which goes to scalar `d` two cycles on and whose status is recorded as
under way, clears the destination tiles, and is in flight; `y` is its unit otherwise. -/
def Begins (y : Machine.Unit) (d : BitVec 5) (tiles : List Nat) (x : Xfer) (s t : State) : Prop :=
  let tok := tokenOf s.me
  (∀ u, regs (t.unit u) = regs (if u = s.u then { y with
      tok := tok, ring := Tab.set (0, 0) s.me.ring (tok.toNat % 256) (tok, 0) } else s.unit u)) ∧
    Left s t 1 ∧ t.mem = s.mem ∧ t.landings = s.landings ∧ t.ctxs = s.ctxs ∧ t.streams = s.streams ∧
    t.flights = s.flights ++ [{ resultOf s 2 (.s (s.ps d)) (.scalar (tok.setWidth 64)) 0 with id := s.ids + 1 }] ∧
    t.xfers = s.xfers ++ [{ x with tok := tok, tiles := tiles.map fun k => (k, (t.tile k).2), left := tiles }] ∧
    (∀ k ∈ tiles, t.isFull k = false) ∧ ∀ k, k ∉ tiles → t.tile k = s.tile k

/-- A transform (R320): it waits for its source tiles, and issues with what it computes from its source, which it reads at 512 bytes a
cycle; with nothing to do it reads nothing. -/
def TransformOut (i : Instr) (s : State) (d : BitVec 5) (q : BitVec 1) (src : Nat × Nat) (dst n lat : Nat) (work : Option XWork) : Prop :=
  let ready : Prop := ∀ k ∈ ownTiles s.u src.1 src.2, s.present k = true
  let r := streamOf s false ((List.range (ceilDiv src.2 512)).map fun j =>
    (s.cycle + j, scratchPlace s.u src.1 + 512 * j, min 512 (src.2 - 512 * j))) (0, 0)
  let b : State := if work.isSome then { s with streams := s.streams ++ [r], ids := s.ids + 1 } else s
  (¬ ready → s.me.spr.inv = false ∨ s.me.spr.sup = true → Waits i s) ∧
    (ready → Goes (exec i s) fun t =>
      Begins s.me d (ownTiles s.u dst n) { b.xfer 0 q .transform (if n = 0 then [] else [⟨0, BitVec.ofNat 64 dst, n⟩]) with
        due := s.cycle + lat, work := work.map fun w => (s.ids, w) } b t)

/-! ## Collective calls (R332, R336) -/

/-- The call that the issuing operation opens on an entry, its kind and operands still to be filled in. -/
def callOf (s : State) (ch : BitVec 6) (recv : Bool) : Call :=
  { id := s.ids, ctx := s.ctxOf s.u, ch := ch, die := dieOf s.u, unit := s.u, bun := s.cur.op.seq, addr := s.cur.op.addr,
    task := s.me.task, sup := s.me.spr.sup, kind := 0,
    seq := if recv then (s.myChan ch).rseq else (s.myChan ch).sseq, sig := 0, post := false, dst := none, base := 0, n := 0,
    next := 0, tiles := [], own := [], behind := (s.myChan ch).paused || (s.die (dieOf s.u)).frozenColl, notices := [],
    counts := [], rcv := [], got := [], ahead := [], cap := [], flg := 0, status := 0, value := 0,
    count := 0, fin := false, refused := false }

/-- A call issues: it is in flight, its entry counts its sequence number (and `armed` tiles of a receiving call), which goes
to scalar `d` two cycles on unless the call bears a result; the tiles `cleared` are empty. -/
def Opens (recv : Bool) (d : Option (BitVec 5)) (k : Call) (armed : Nat) (cleared : List Nat) (s t : State) : Prop :=
  let c := (s.ctxOf s.u).toNat
  let x := s.myChan k.ch
  (∀ u, regs (t.unit u) = regs (s.unit u)) ∧ Left s t 1 ∧ t.mem = s.mem ∧ t.landings = s.landings ∧ t.fabric = s.fabric ∧
    t.calls = s.calls ++ [k] ∧
    t.chan c k.ch = (if recv then { x with rseq := x.rseq + 1, armed := x.armed + armed }
      else { x with sseq := x.sseq + 1 }) ∧
    (∀ j, j ≠ k.ch → t.chan c j = s.chan c j) ∧
    t.flights = s.flights ++ (match d with
      | some r => [{ resultOf s 2 (.s (s.ps r)) (.scalar (k.seq.setWidth 64)) 0 with id := s.ids + 1 }]
      | none => []) ∧
    (∀ j ∈ cleared, t.isFull j = false) ∧ ∀ j, j ∉ cleared → t.tile j = s.tile j

/-- The checks of a call's issue (R335, R336): it waits for a CHDEF of its entry; a bad count raises PROTECTION 0x10, an
unusable entry 0x18, a stale one 0x19; otherwise, on an entry that is not aborted, it does `P`. -/
def CallOut (i : Instr) (s : State) (ch : BitVec 6) (count : Nat) (ok usable : Bool) (P : Prop) : Prop :=
  let x := s.myChan ch
  let info := BitVec.ofNat 64 (ch.toNat + count % 2 ^ 32 * 2 ^ 32)
  let good : Prop := x.defd = true ∧ x.die = dieOf s.u ∧ usable = true
  (s.defining (s.ctxOf s.u) ch = true → Waits i s) ∧
    (s.defining (s.ctxOf s.u) ch = false →
      (ok = false → Goes (exec i s) (Raises (prot 0x10 info) s)) ∧
      (ok = true → ¬ good → Goes (exec i s) (Raises (prot 0x18 info) s)) ∧
      (ok = true → good → x.stale = true → Goes (exec i s) (Raises (prot 0x19 info) s)) ∧
      (ok = true → good → x.stale = false → x.aborted = false → P))

/-! ## Events -/

/-- A unit's registers change to those of `x`; memory and every other unit stay. -/
def Unital (u : Nat) (x : Machine.Unit) (s t : State) : Prop :=
  t.unit u = x ∧ (∀ v, v ≠ u → t.unit v = s.unit v) ∧ t.mem = s.mem

/-- A flight has ended. -/
def Ends (f : Flight) (s t : State) : Prop := t.flights = s.flights.filter (·.id != f.id)

/-! ## Steps at a port -/

/-- A flight that a port step of `s` may take now: number `s.arg.n`, one request, at one place. -/
def AtPort (s : State) (f : Flight) (r : Req) (va : BitVec 64) (ds : List Stor) (p : Nat) : Prop :=
  s.flights[s.arg.n]? = some f ∧ f.what = .req r va ds ∧ f.parked = false ∧ f.bad = none ∧ s.mayPerform f = true ∧
    (f.spans.headD (0, 0)).1 = p

/-- Memory outside `n` bytes from a place reads as before. -/
def Else (p n : Nat) (s t : State) : Prop := ∀ a, a < p ∨ p + n ≤ a → rdByte t.mem a = rdByte s.mem a

/-- A flight's answer: its results, present four cycles on and `extra` more, in place of the request (R195). -/
def Answers (f : Flight) (ws : List (Stor × Val)) (fl : BitVec 5) (extra : Nat) (s t : State) : Prop :=
  t.flights = if ws = [] then s.flights.filter (·.id != f.id)
    else s.flights.map fun g => if g.id == f.id then { g with
      due := s.cycle + 4 + extra, reads := false, writes := false, spans := [], what := .result ws fl } else g

end Sys2Proof.Safety
end

