-- ==== Sys2Proof/Certificates/Slice0/Obligations.lean ====
section
/-!
DEFINITION. The statements of this model for the provers: one definition each. Values are said by formulas of their own
where the rule gives one; frames by the terms of Sys2Proof.Safety.
-/

open Sys2Proof Sys2Proof.Machine Sys2Proof.Safety

/-! ## Numbers -/

/-- Formats and rounding (R70, R72, R73): what an encoding stands for; the rounding of a finite exact value to a format, by
its two neighbours there, with its overflow result and its flags; of infinities, zeros and NaN (R76); and to an integer of a
range. Exact values are dyadic rationals here. -/
def Obligations.RoundingRule : Prop :=
  (∀ f ∈ [fp32, bf16, fp16, e5m2, e4m3],
    let unit : Int := 1 - (f.bias : Int) - f.fw
    let size : Nat := 2 ^ (f.ew + f.fw)
    (∀ b : Nat, b < 2 * size →
      let neg := decide (size ≤ b)
      let E := b / 2 ^ f.fw % 2 ^ f.ew
      let F := b % 2 ^ f.fw
      let special : Prop := E = 2 ^ f.ew - 1 ∧ (f = e4m3 → F = 7)
      (special → F ≠ 0 → ∃ s p, decodeF f b = .nan neg s p) ∧ (special → F = 0 → decodeF f b = .inf neg) ∧
      (¬ special → ∃ m e, decodeF f b = .num neg m e ∧
        (m : ℚ) * 2 ^ e = if E = 0 then (F : ℚ) * 2 ^ unit else ((2 ^ f.fw + F : Nat) : ℚ) * 2 ^ ((E : Int) - f.bias - f.fw))) ∧
    (∀ (rm : BitVec 3) (v : Nat) (neg : Bool) (m : Nat) (e : Int) (lo hi y : ℚ), rm.toNat ≤ 5 → v < 2 ^ 24 → m ≠ 0 →
      let x := ratOf neg m e
      let r := roundF f rm v (.num neg m e)
      let most : ℚ := if f = e4m3 then 448 else ((2 ^ (f.fw + 1) - 1 : Nat) : ℚ) * 2 ^ ((2 ^ f.ew : Int) - 2 - f.bias - f.fw)
      let sign : Nat := if neg then size else 0
      OnGrid f lo → OnGrid f hi → (∀ z, OnGrid f z → ¬ (lo < z ∧ z < hi)) →
      (lo = x ∧ hi = x ∧ y = x ∨ lo < x ∧ x < hi ∧ Chosen rm v x lo hi y) →
        (most < |y| → r.2 = fOF ||| fNX ∧ r.1 = sign +
          if f = e4m3 then 0x7E
          else if rm = 0 ∨ rm = 4 ∨ rm = 5 ∨ rm = 2 ∧ neg = true ∨ rm = 3 ∧ neg = false then (2 ^ f.ew - 1) * 2 ^ f.fw
          else (2 ^ f.ew - 1) * 2 ^ f.fw - 1) ∧
        (|y| ≤ most → r.1 < 2 * size ∧ (∃ k g, decodeF f r.1 = .num neg k g ∧ ratOf neg k g = y) ∧
          r.2 = (if y = x then 0 else fNX) ||| if y ≠ x ∧ |y| < 2 ^ (1 - (f.bias : Int)) then fUF else 0)) ∧
    ∀ (rm : BitVec 3) (v : Nat) (neg : Bool),
      roundF f rm v (.inf neg) = ((if neg then size else 0) + if f = e4m3 then 0x7F else (2 ^ f.ew - 1) * 2 ^ f.fw,
        if f = e4m3 then fNV else 0) ∧
      (∀ e, roundF f rm v (.num neg 0 e) = (if neg then size else 0, 0)) ∧
      ∀ s p, p < 2 ^ 22 → (roundF f rm v (.nan neg s p)).2 = (if s then fNV else 0) ∧
        decodeF f (roundF f rm v (.nan neg s p)).1 = .nan neg false
          (if f = e4m3 then 0 else p / 2 ^ (23 - f.fw) * 2 ^ (23 - f.fw))) ∧
  ∀ (rm : BitVec 3) (v : Nat) (lo hi : Int), rm.toNat ≤ 5 → v < 2 ^ 24 →
    (∀ neg s p, toInt rm v lo hi (.nan neg s p) = (0, fNV)) ∧
    (∀ neg, toInt rm v lo hi (.inf neg) = (if neg then lo else hi, fNV)) ∧
    ∀ (neg : Bool) (m : Nat) (e i n : Int),
      let x := ratOf neg m e
      ((n : ℚ) = x ∧ i = n ∨ (n : ℚ) < x ∧ x < n + 1 ∧ Chosen rm v x n (n + 1) i) →
        toInt rm v lo hi (.num neg m e) =
          if i < lo then (lo, fNV) else if hi < i then (hi, fNV) else (i, if (i : ℚ) = x then 0 else fNX)

/-! ## The sequencer -/

/-- The integer instructions of sq (R164, latencies of R157): each issues and leaves its result on its way to Sd, with no
flags, and changes nothing else. Products are taken at 128 bits, shift amounts from bits [5:0].

Bit fields and immediates (R166): BFX, BFI, LI and LIH, said bit by bit where a field is inserted.

Compares and guards (R165): CMP and CMPI by the six condition codes, SEL, and MOVG both ways.

Encodings (R158, R164, R166): U only on MULH, DIV, MIN and MAX, I and IMM6 only on the shifts, every other field left unused
zero; a bit field past bit 63 is ILLEGAL_ENCODING 0x09. -/
def Obligations.IntegerResults : Prop :=
  (∀ (s : State) (d a b : BitVec 5) (i : BitVec 15) (k : BitVec 6) (u : BitVec 1),
     let x := s.rs a
     let y := s.rs b
     let n := (y.extractLsb' 0 6).toNat
     ScalarIn (.add d a b) s 1 d (x + y) ∧
     ScalarIn (.addi d a i) s 1 d (x + i.signExtend 64) ∧
     ScalarIn (.sub d a b) s 1 d (x - y) ∧
     ScalarIn (.mul d a b) s 3 d ((x.setWidth 128 * y.setWidth 128).extractLsb' 0 64) ∧
     ScalarIn (.mulh d a b u) s 3 d
       (if u = 1 then (x.setWidth 128 * y.setWidth 128).extractLsb' 64 64
        else (x.signExtend 128 * y.signExtend 128).extractLsb' 64 64) ∧
     ScalarIn (.div d a b u) s 20 d
       (if y = 0 then BitVec.allOnes 64 else if u = 1 then x / y else x.sdiv y) ∧
     ScalarIn (.and d a b) s 1 d (x &&& y) ∧
     ScalarIn (.or d a b) s 1 d (x ||| y) ∧
     ScalarIn (.xor d a b) s 1 d (x ^^^ y) ∧
     ScalarIn (.shlReg d a b) s 1 d (x <<< n) ∧
     ScalarIn (.shlImm d a k) s 1 d (x <<< k.toNat) ∧
     ScalarIn (.shrReg d a b) s 1 d (x >>> n) ∧
     ScalarIn (.shrImm d a k) s 1 d (x >>> k.toNat) ∧
     ScalarIn (.sarReg d a b) s 1 d (x.sshiftRight n) ∧
     ScalarIn (.sarImm d a k) s 1 d (x.sshiftRight k.toNat) ∧
     ScalarIn (.rotlReg d a b) s 1 d (x <<< n ||| x >>> (64 - n)) ∧
     ScalarIn (.rotlImm d a k) s 1 d (x <<< k.toNat ||| x >>> (64 - k.toNat)) ∧
     ScalarIn (.min d a b u) s 1 d
       (if u = 1 then (if x ≤ y then x else y) else if x.toInt ≤ y.toInt then x else y) ∧
     ScalarIn (.max d a b u) s 1 d
       (if u = 1 then (if x ≤ y then y else x) else if x.toInt ≤ y.toInt then y else x) ∧
     ScalarIn (.clz d a) s 1 d x.clz ∧
     ScalarIn (.popc d a) s 1 d x.cpop) ∧
  (∀ (s : State) (d a : BitVec 5) (x : BitVec 1) (p w : BitVec 6) (i : BitVec 20) (q : BitVec 2) (h : BitVec 16),
     (p.toNat + w.toNat + 1 ≤ 64 →
       ScalarIn (.bfx d a x p w) s 1 d
         (if x = 1 then ((s.rs a).extractLsb' p.toNat (w.toNat + 1)).signExtend 64
          else ((s.rs a).extractLsb' p.toNat (w.toNat + 1)).setWidth 64) ∧
       ∃ v : BitVec 64, ScalarIn (.bfi d a p w) s 1 d v ∧
         ∀ k < 64, v.getLsbD k =
           if p.toNat ≤ k ∧ k < p.toNat + w.toNat + 1 then (s.rs a).getLsbD (k - p.toNat) else (s.rs d).getLsbD k) ∧
     ScalarIn (.li d i) s 1 d (i.signExtend 64) ∧
     ∃ v : BitVec 64, ScalarIn (.lih d q h) s 1 d v ∧
       ∀ k < 64, v.getLsbD k =
         if 16 * q.toNat ≤ k ∧ k < 16 * q.toNat + 16 then h.getLsbD (k - 16 * q.toNat) else (s.rs d).getLsbD k) ∧
  (∀ (s : State) (d a b : BitVec 5) (g : BitVec 2) (i : BitVec 15),
     let x := s.rs a
     let y := s.rs b
     let z := i.signExtend 64
     GuardIn (.cmp 0 g a b) s g (decide (x = y)) ∧ GuardIn (.cmpi 0 g a i) s g (decide (x = z)) ∧
     GuardIn (.cmp 1 g a b) s g (decide (x ≠ y)) ∧ GuardIn (.cmpi 1 g a i) s g (decide (x ≠ z)) ∧
     GuardIn (.cmp 2 g a b) s g (decide (x.toInt < y.toInt)) ∧ GuardIn (.cmpi 2 g a i) s g (decide (x.toInt < z.toInt)) ∧
     GuardIn (.cmp 3 g a b) s g (decide (y.toInt ≤ x.toInt)) ∧ GuardIn (.cmpi 3 g a i) s g (decide (z.toInt ≤ x.toInt)) ∧
     GuardIn (.cmp 4 g a b) s g (decide (x.toNat < y.toNat)) ∧ GuardIn (.cmpi 4 g a i) s g (decide (x.toNat < z.toNat)) ∧
     GuardIn (.cmp 5 g a b) s g (decide (y.toNat ≤ x.toNat)) ∧ GuardIn (.cmpi 5 g a i) s g (decide (z.toNat ≤ x.toNat)) ∧
     ScalarIn (.sel d a b g) s 1 d (if s.rg g = true then x else y) ∧
     ScalarIn (.movgToScalar d g) s 1 d (if s.rg g = true then 1 else 0) ∧
     GuardIn (.movgToGuard a g) s g (decide (x ≠ 0))) ∧
  (∀ (d a b : BitVec 5) (i u x : BitVec 1) (r : BitVec 10) (h : BitVec 8) (o : BitVec 3) (k p w : BitVec 6) (e : BitVec 15),
     let reads (y : Word) (ok : Bool) (j : Instr) : Prop := decodeSlot .sq y = if ok then .ok (some j) else .error .reserved
     let three (op : BitVec 7) (j : Instr) : Prop := reads (op ++ d ++ a ++ b ++ r) (r == 0) j
     let four (op : BitVec 7) (j : Instr) : Prop := reads (op ++ d ++ a ++ b ++ i ++ u ++ h) (i == 0 && h == 0) j
     let shift (op : BitVec 7) (y z : Instr) : Prop :=
       reads (op ++ d ++ a ++ b ++ 0#1 ++ o ++ k) (o == 0 && k == 0) y ∧ reads (op ++ d ++ a ++ b ++ 1#1 ++ o ++ k) (b == 0 && o == 0) z
     let field (y : Word) (j : Instr) : Prop :=
       decodeSlot .sq y = if p.toNat + w.toNat + 1 ≤ 64 then .ok (some j) else .error .value
     three 0x20 (.add d a b) ∧ three 0x22 (.sub d a b) ∧ three 0x23 (.mul d a b) ∧ three 0x26 (.and d a b) ∧
     three 0x27 (.or d a b) ∧ three 0x28 (.xor d a b) ∧ four 0x24 (.mulh d a b u) ∧ four 0x25 (.div d a b u) ∧
     four 0x2D (.min d a b u) ∧ four 0x2E (.max d a b u) ∧ shift 0x29 (.shlReg d a b) (.shlImm d a k) ∧
     shift 0x2A (.shrReg d a b) (.shrImm d a k) ∧ shift 0x2B (.sarReg d a b) (.sarImm d a k) ∧
     shift 0x2C (.rotlReg d a b) (.rotlImm d a k) ∧ reads (0x32#7 ++ d ++ a ++ e) (e == 0) (.clz d a) ∧
     reads (0x33#7 ++ d ++ a ++ e) (e == 0) (.popc d a) ∧ reads (0x21#7 ++ d ++ a ++ e) true (.addi d a e) ∧
     field (0x34#7 ++ d ++ a ++ 0#2 ++ x ++ p ++ w) (.bfx d a x p w) ∧ field (0x35#7 ++ d ++ a ++ 0#3 ++ p ++ w) (.bfi d a p w) ∧
     decodeSlot .sq 0x54448203 = .ok (some (.shrImm 4 9 3)) ∧ decodeSlot .sq 0x4A531D00 = .ok (some (.div 5 6 7 1)) ∧
     decodeSlot .sq 0x70443F00 = .ok (some (.lih 4 1 0x3F00)))


/-- The FP32 instructions of sq (R167 to R169): each issues with its result, zero-extended, and its flags on their way at
the latency of R157, and FCMP its guard; RM and the noise are sampled now. Values are those of the shared FP32 operations. -/
def Obligations.FloatResults : Prop :=
  ∀ (s : State) (d a b c v : BitVec 5) (g : BitVec 2) (cc : BitVec 3),
    let fp (lat : Nat) (i : Instr) (r : Nat × BitVec 5) : Prop :=
      Goes (exec i s) (Lands lat (.scalar (s.ps d) (((BitVec.ofNat 32 r.1).setWidth 64)) r.2) s)
    let n := s.scalarNoise
    let bits (r : FV × BitVec 5) : Nat × BitVec 5 := (bits32 r.1, r.2)
    fp 4 (.fadd d a b) (addF s.rm n (s.rf a) (s.rf b)) ∧
    fp 4 (.fsub d a b) (subF s.rm n (s.rf a) (s.rf b)) ∧
    fp 5 (.fmul d a b) (mulF s.rm n (s.rf a) (s.rf b)) ∧
    fp 5 (.ffma d a b c) (fmaF s.rm n (s.rf a) (s.rf b) (s.rf c)) ∧
    fp 2 (.fmin d a b) (bits (minmaxF false (s.rf a) (s.rf b))) ∧
    fp 2 (.fmax d a b) (bits (minmaxF true (s.rf a) (s.rf b))) ∧
    fp 8 (.frcp d a) (rcpF s.rm n (s.rf a)) ∧
    fp 8 (.frsq d a) (rsqF s.rm n (s.rf a)) ∧
    fp 10 (.fexp2 d a) (exp2F (s.rf a)) ∧
    fp 10 (.flog2 d a) (log2F (s.rf a)) ∧
    Goes (exec (.fcvt d a v) s)
      (Lands 3 (.scalar (s.ps d) (convert v s.rm n (s.rs a)).1 (convert v s.rm n (s.rs a)).2) s) ∧
    Goes (exec (.fcmp cc g a b) s)
      (Lands 2 (.guard g (cmpF (fcmpCode cc) (s.rf a) (s.rf b)).1 (cmpF (fcmpCode cc) (s.rf a) (s.rf b)).2) s)

/-- The branch family (R159): BR, BRG, BRZ and BRNZ go to the bundle's own address plus OFF bundles (32 bytes each on a
stream) or fall through to the loop-end step; CALL also leaves the return address on its way to S15; RET and JMPR go to a
register target that passes its checks, and raise ALIGNMENT or PROTECTION 0x0D on one that does not. -/
def Obligations.BranchResults : Prop :=
  ∀ (s : State) (a : BitVec 5) (g : BitVec 2) (t : BitVec 1) (o : BitVec 16),
    let x := s.me
    let step : BitVec 64 := if x.stream then 32 else 1
    let taken : Front := { x.front with pc := s.cur.op.addr + o.signExtend 64 * step }
    let on : Front := x.front.after x.stream s.cur.op.addr
    let way (b : Prop) [Decidable b] : Front := if b then taken else on
    let size : Nat := if isCtl s.u then 1024 else 4096
    let toReg (i : Instr) (v : BitVec 64) : Prop :=
      if x.stream = true then
        (if v.toNat % 32 = 0 then Goes (exec i s) (Turns { x.front with pc := v } [] s)
         else Goes (exec i s) (Raises (align v 32) s))
      else if v.toNat < 8192 ∧ (v.toNat / 4096 = 1 ↔ x.front.half = true) ∧ v.toNat % 4096 < size then
        Goes (exec i s) (Turns { x.front with pc := v } [] s)
      else Goes (exec i s) (Raises (prot 0x0D v) s)
    Goes (exec (.br o) s) (Turns taken [] s) ∧
    Goes (exec (.brg g t o) s) (Turns (way (s.rg g = decide (t = 1))) [] s) ∧
    Goes (exec (.brz a o) s) (Turns (way (s.rs a = 0)) [] s) ∧
    Goes (exec (.brnz a o) s) (Turns (way (s.rs a ≠ 0)) [] s) ∧
    Goes (exec (.call o) s) (Turns taken [landingOf s 1 (.scalar 15 (s.cur.op.addr + step) 0)] s) ∧
    toReg .ret (s.rs 15) ∧ toReg (.jmpr a) (s.rs a)

/-- Loops and LBRK (R150, R152, R153, R160): a count of 0 goes on after END, otherwise a level with INDEX 0 is pushed, or
LOOP_STACK 0x01 is raised at depth 6; a register count is clamped to 0 … 2^32 − 1; LBRK closes the innermost level and goes
on after its END, or raises LOOP_STACK 0x02 at depth 0.

The loop-end step (R151): while the innermost level ends at the bundle, its INDEX rises and a rotating level turns ROTB
back by one; the branch to START is taken while INDEX is below COUNT, and otherwise the level closes. -/
def Obligations.LoopResults : Prop :=
  (∀ (s : State) (a : BitVec 5) (c e : BitVec 12),
     let x := s.me
     let step : BitVec 64 := if x.stream then 32 else 1
     let n := s.cur.op.addr
     let last := n + e.setWidth 64 * step
     let opens (i : Instr) (rot : Bool) (count : Nat) : Prop :=
       if count = 0 then Goes (exec i s) (Turns { x.front with pc := last + step } [] s)
       else if x.front.loops.length < 6 then
         Goes (exec i s) (Turns { x.front with pc := n + step, loops := ⟨BitVec.ofNat 32 count, 0, n + step, last, rot⟩ :: x.front.loops }
           [] s)
       else Goes (exec i s) (Raises (Flt.of 0x21 0x01 0) s)
     let clamp : Nat := min (s.rs a).toInt.toNat (2 ^ 32 - 1)
     opens (.loopImm c e) false c.toNat ∧ opens (.loopReg a e) false clamp ∧
     opens (.looprImm c e) true c.toNat ∧ opens (.looprReg a e) true clamp ∧
     match x.front.loops with
     | [] => Goes (exec .lbrk s) (Raises (Flt.of 0x21 0x02 0) s)
     | l :: r => Goes (exec .lbrk s) (Turns { x.front with pc := l.last + step, loops := r } [] s)) ∧
  (∀ (step e : BitVec 64) (rotb : BitVec 4) (l : Loop) (r : List Loop),
     let rotb' := if l.rot then rotb - 1 else rotb
     loopEnd step e rotb [] = (e + step, rotb, []) ∧
     loopEnd step e rotb (l :: r) =
       if l.last ≠ e then (e + step, rotb, l :: r)
       else if (l.index + 1).toNat < l.count.toNat then (l.first, rotb', { l with index := l.index + 1 } :: r)
       else loopEnd step e rotb' r)


/-- The halves, waits and modes of sq that change nothing but what they name: BRSWAP (R155), FENCEI (R154), WAITT, RFMODE,
SETRM and SETEFR (R162), FRAME and FRAME.X (R156), each with the condition under which it issues and the faults of BRSWAP. The
MODEL's readings: FENCEI waits for queued IMLOADs too (log entry 21), RFMODE looks at the pending marks of its own and of earlier
bundles (log entry 28). -/
def Obligations.ModeResults : Prop :=
  ∀ (s : State) (a : BitVec 5) (b : BitVec 12) (h : BitVec 1) (m : BitVec 8) (r : BitVec 3) (t : BitVec 2) (v : BitVec 16),
    let x := s.me
    let lo : Nat := if x.front.half then 0 else 4096
    let other : BitVec 64 := BitVec.ofNat 64 (lo + b.toNat)
    let coherent : Bool := x.spr.coherent.getLsbD (if x.front.half then 0 else 1)
    let now : Nat := (s.timeOf (dieOf s.u)).toNat
    let older : Prop := ∀ k ∈ slotsOf s.u, s.cur.op.seq ≤ x.headSeq k
    Heads s →
    (coherent = false → Goes (exec (.brswap b) s) (Raises (prot 0x0E other) s)) ∧
    (coherent = true → x.front.loops ≠ [] → Goes (exec (.brswap b) s) (Raises (Flt.of 0x21 0x03 0) s)) ∧
    (coherent = true → x.front.loops = [] →
      Goes (exec (.brswap b) s) (Turns { x.front with pc := other, half := !x.front.half } [] s)) ∧
    (s.imloadsDone s.u s.cur.op.seq (bit1 h) = true → Goes (exec (.fencei h) s) fun t =>
      (t.unit s.u).spr.coherent = x.spr.coherent ||| (1#2 <<< h.toNat) ∧ Left s t 1 ∧ t.mem = s.mem ∧ t.code = s.code ∧
      (t.unit s.u).s = x.s ∧ (t.unit s.u).eng = x.eng ∧ (t.unit s.u).front = x.front ∧ ∀ u, u ≠ s.u → t.unit u = s.unit u) ∧
    (s.imloadsDone s.u s.cur.op.seq (bit1 h) = false → Waits (.fencei h) s) ∧
    ((x.slot 1).hold = .none → (s.rs a).toNat ≤ now → Goes (exec (.waitt a) s) (Nothing 1 s)) ∧
    ((x.slot 1).hold = .none → now < (s.rs a).toNat → s.cur.slot = 1 → Goes (exec (.waitt a) s) fun t =>
      Frame s t ∧ (t.unit s.u).slot 1 = { x.slot 1 with hold := .wait (s.rs a).toNat }) ∧
    (∀ n, (x.slot 1).hold = .wait n → (n ≤ now → Goes (exec (.waitt a) s) (Nothing 1 s)) ∧ (now < n → Waits (.waitt a) s)) ∧
    (older → Goes (exec .frame s) (Sets { x with spr := { x.spr with inv := true, sfc := 0 } } s) ∧
      Goes (exec .frameX s) (Sets { x with spr := { x.spr with inv := false } } s)) ∧
    ((∀ k ∈ x.disp.marks, k.1 ≤ s.cur.op.seq → ∀ n, k.2.2 = .v n →
        x.spr.rfmode.getLsbD (n.toNat / 8) = true → m.getLsbD (n.toNat / 8) = true) →
      Goes (exec (.rfmode m) s) (Lands 1 (.rfmode m) s)) ∧
    Goes (exec (.setrm r) s) (Lands 1 (.rm r) s) ∧ Goes (exec (.setefr t v) s) (Lands 3 (.efr t v) s)

/-- RETIRE (R27, R29, R161): once everything of its own and earlier bundles has issued and drained, a controller stops where
it stands, and a task ends when it is that of one core, or when the other cores of its cluster have retired: its queues are
empty, no task is left, its cores stop running, and RETIRED of its group's record rises by one.

Of a task whose other cores go on, the core stops and keeps the task as retired there; where the others have all retired or
saved for a pre-emption, the task leaves its cores (R33; that it then leaves is the model's choice, log entry 118).

With RETIRED = COUNT and no TGROW in flight the group completes (R29): STATUS is 1 where FIRSTFAIL is all ones and else 2, the
completion word is written, the group is live no more, and its event follows the task's in its controller's queue. -/
def Obligations.RetireEnds : Prop :=
  ∀ s : State, UnitsOk s → MemoryOk s →
    let ended (k : Task) (t : State) : Prop := ∀ v ∈ taskUnits s.u k,
      (t.unit v).on = false ∧ (t.unit v).task = none ∧ ∀ j ∈ slotsOf v, ((t.unit v).slot j).queue = []
    let last (k : Task) : Prop := ∀ v ∈ taskUnits s.u k, v ≠ s.u → ∀ y, (s.unit v).task = some y → y.retired = true
    (∀ k ∈ slotsOf s.u, k ≠ 1 → s.cur.op.seq < s.me.headSeq k) → s.drained s.u = true →
    (isCtl s.u = true → Goes (exec .retire s) fun t =>
      (t.unit s.u).on = false ∧ (t.unit s.u).start = s.cur.op.addr ∧ (∀ k ∈ slotsOf s.u, ((t.unit s.u).slot k).queue = []) ∧
      t.mem = s.mem) ∧
    (∀ k g, isCtl s.u = false → s.me.task = some k → last k → s.groupOf k = some g → g ∈ s.groups →
      s.retireRoom k = true →
      (s.gword g 24 + 1 ≠ s.gword g 32 ∨ g.growing ≠ 0) → Goes (exec .retire s) fun t =>
        ended k t ∧ rd32 t.mem (g.place + 24) = rd32 s.mem (g.place + 24) + 1 ∧
        ∀ p, p < g.place + 24 ∨ g.place + 28 ≤ p → rdByte t.mem p = rdByte s.mem p) ∧
    (∀ k, isCtl s.u = false → s.me.task = some k → ¬ last k → Goes (exec .retire s) fun t =>
      let gone (v : Nat) : Prop := (s.unit v).disp.closed = true ∨ ∃ y, (s.unit v).task = some y ∧ y.retired = true
      let left : Prop := ∀ v ∈ taskUnits s.u k, v ≠ s.u → gone v
      (t.unit s.u).on = false ∧ (∀ j ∈ slotsOf s.u, ((t.unit s.u).slot j).queue = []) ∧ t.mem = s.mem ∧
      (¬ left → (t.unit s.u).task = some { k with retired := true } ∧ ∀ v, v ≠ s.u → t.unit v = s.unit v) ∧
      (left → ∀ v ∈ taskUnits s.u k, ∀ y, (s.unit v).task = some y →
        (t.unit v).on = false ∧ (t.unit v).task = none ∧
        (t.unit v).freed = some (if v = s.u then { k with retired := true } else y))) ∧
    ∀ k g, isCtl s.u = false → s.me.task = some k → last k → s.groupOf k = some g → s.retireRoom k = true →
      s.gword g 24 + 1 = s.gword g 32 → g.growing = 0 → (s.unit g.ctl).owed = [] → Goes (exec .retire s) fun t =>
        let st : BitVec 2 := if s.gword g 4 = 0xFFFFFFFF then 1 else 2
        let s' := (s.setGword g 24 (s.gword g 24 + 1)).setStatus g st
        ended k t ∧ (∀ x ∈ t.groups, ¬ (x.ctx = g.ctx ∧ x.recd = g.recd ∧ x.num = g.num)) ∧
        (t.unit g.ctl).events = (s.unit g.ctl).events ++ (if g.tev = true then [retireEvent g k s.u] else []) ++
          [groupEvent g st g.ctl] ∧
        (g.doneAddr = 0 → t.mem = s'.mem) ∧
        ∀ r, g.doneAddr ≠ 0 → s'.reach 0x1FF (dieOf g.ctl) g.ctx pSL .wr false g.doneAddr 8 = .ok r →
          g.doneAddr.toNat % 8 = 0 →
          t.mem = wrSpans s'.mem r.spans (leBytes 8 (st.toNat + (s.gword g 32).toNat * 2 ^ 32))

/-- Special registers (R148, R163): GETSP leaves the register's value on its way to Sd; SETSP leaves its write on its way,
turns the front end when it names ROTB, and raises PROTECTION 0x01 for a PREQ of no core of the cluster. Both raise
PROTECTION 0x07 for a supervisor's register in user mode and for SWAT and SWCT anywhere but on the supervisor controller. -/
def Obligations.SpecialRegisters : Prop :=
  ∀ (s : State) (d a : BitVec 5) (p : BitVec 12),
    let x := s.me
    let v := s.rs a
    let closed : Prop := (p = 0x060 ∨ p = 0x061) ∧ s.isSup s.u = false ∨
      (p = 0x030 ∨ 0x040 ≤ p ∧ p ≤ 0x051) ∧ x.spr.sup = false ∧ s.isSup s.u = false
    (closed → Goes (exec (.getsp d p) s) (Raises (prot 0x07 (p.setWidth 64)) s) ∧
      Goes (exec (.setsp a p) s) (Raises (prot 0x07 (p.setWidth 64)) s)) ∧
    (¬ closed → (p = 0x015 → s.earlyFlags s.u s.cur.op.seq = none) →
      Goes (exec (.getsp d p) s) (Lands 1 (.scalar (s.ps d) (s.getSp p) 0) s)) ∧
    (¬ closed → p = 0 → Goes (exec (.setsp a p) s)
      (Turns (({ x.front with rotb := v.setWidth 4 } : Front).after x.stream s.cur.op.addr) [] s)) ∧
    (¬ closed → p ≠ 0 → p ≠ 0x031 → Goes (exec (.setsp a p) s) (Lands 1 (.spr p v) s)) ∧
    (p = 0x031 → v.toNat < 384 ∧ v.toNat / 4 = clusterOf s.u → Goes (exec (.setsp a p) s) (Lands 1 (.spr p v) s)) ∧
    (p = 0x031 → ¬ (v.toNat < 384 ∧ v.toNat / 4 = clusterOf s.u) →
      Goes (exec (.setsp a p) s) (Raises (prot 0x01 v) s)) ∧
    s.getSp 0x010 = x.spr.rm.setWidth 64 ∧ s.getSp 0x015 = x.spr.fflags.setWidth 64 ∧
    s.getSp 0x016 = x.spr.srseed ∧ s.getSp 0x020 = s.timeOf (dieOf s.u) ∧ s.getSp 0x021 = BitVec.ofNat 64 s.u ∧
    s.getSp 0x041 = x.spr.epc ∧ s.getSp 0x000 = s.cur.op.rotb.setWidth 64

/-- TRAP (R139): its encoding, with the reserved field zero; with its guard true it raises TRAP with its number, whatever
the state; with its guard false it issues, notes no fault, writes no register and falls through. -/
def Obligations.TrapRaises : Prop :=
  ∀ (s : State) (n : BitVec 8),
    (Goes (exec (.trap n) s) fun t =>
      Raises (Flt.of 0x30 n (n.setWidth 64)) s t ∧ ∃ p, (t.unit s.u).disp.pend = some p ∧
        (s.me.disp.pend = none → p.code = 0x30 ∧ p.sub = n ∧ p.seq = s.cur.op.seq ∧ p.addr = s.cur.op.addr ∧
          p.slot = s.cur.slot)) ∧
    (∀ r : BitVec 17, decodeSlot .sq (0x1C#7 ++ r ++ n) = if r = 0 then .ok (some (.trap n)) else .error .reserved) ∧
    decodeSlot .sq 0x38000011 = .ok (some (.trap 17)) ∧
    ∀ u o r, UnitsOk s → ((s.unit u).slot 1).queue = o :: r → decodeSlot .sq o.word = .ok (some (.trap n)) →
      (s.unit u).guard o.guard = false → s.earlyGuard u o = none → s.blocked u 1 o = none → s.stampMet u o = true →
      (∀ b ∈ (s.unit u).disp.buns, b.seq = o.seq → b.collide = [] ∧ b.guards = none) →
      ∃ t, s.attempt u 1 = .settled t ∧ (t.unit u).disp.pend = (s.unit u).disp.pend ∧ ((t.unit u).slot 1).queue = r ∧
        regs { t.unit u with front := (s.unit u).front } = regs (s.unit u) ∧ (∀ v, v ≠ u → t.unit v = s.unit v) ∧
        t.mem = s.mem ∧ t.landings = s.landings ∧ t.flights = s.flights

/-- SYSRET and SYSRET.S (R140): PROTECTION 0x07 in user mode; a wait until all that went before has issued and landed;
PROTECTION 0x0C on an EPC that is no resume point; and otherwise user mode, dispatch again from EPC's bundle with the loop
stack and ROTB of R135 (those of the present front end where no fault has entered the handler), and SKIPj operations of each
slot j to discard, one more of the faulting slot with S; what the other slots of its bundle have still to issue stays queued. The
MODEL's bookkeeping (log entry 127): an operation whose fault was found while the handler ran stands among SKIPj but is not
discarded, so that it raises the fault again. -/
def Obligations.SysretReturns : Prop :=
  ∀ (s : State) (b : Bool),
    let i : Instr := if b then .sysretS else .sysret
    let x := s.me
    let p := x.spr.epc
    let skip (j : Nat) : Nat := (p.extractLsb' (5 * (j - 1)) 5).toNat
    let slot : Nat := (p.extractLsb' 48 3).toNat
    let bundle : Nat := (p.extractLsb' 51 13).toNat
    let may : Prop := x.spr.sup = true ∨ s.isSup s.u = true
    let ready : Prop := s.earlierIssued s.u s.cur.op.seq = true ∧ s.landed s.u s.cur.op.seq = true
    let bad : Prop := (∃ j, 1 ≤ j ∧ j ≤ 7 ∧ 16 < skip j) ∨ slot = 0 ∨ 8191 < bundle
    (¬ may → Goes (exec i s) (Raises (prot 0x07 0) s)) ∧
    (may → ¬ ready → Waits i s) ∧
    (may → ready → bad → Goes (exec i s) (Raises (prot 0x0C p) s)) ∧
    (may → ready → ¬ bad → Goes (exec i s) fun t =>
      (t.unit s.u).spr = { x.spr with sup := false } ∧
      (t.unit s.u).front = { s.backOf s.u with pc := BitVec.ofNat 64 bundle, half := decide (bundle / 4096 = 1) } ∧
      Left s t 1 ∧ (∀ k, k ≠ s.cur.slot → (t.unit s.u).slot k = x.slot k) ∧
      (∀ j, 1 ≤ j → j ≤ 7 → (t.unit s.u).disp.skips.getD j 0 = skip j -
        (x.disp.gaps.filter fun e => e.1 == j && e.2.2).length + if b = true ∧ j = slot then 1 else 0) ∧
      (t.unit s.u).s = x.s ∧ (t.unit s.u).g = x.g ∧ (t.unit s.u).eng = x.eng ∧ (∀ u, u ≠ s.u → t.unit u = s.unit u) ∧
      rest t = rest s)

/-! ## The vector engine -/

/-- The rule of alignment (R228): on operands of one length the output is the one formed position by position, with the
null runs of the operand that has most, a piece at every position where some operand's run begins, its length up to the
next, its B and its value, and the flags of every piece; operands of different lengths name the first two that disagree. -/
def Obligations.AlignmentRule : Prop :=
  ∀ (f : Nat → List Word → Word × BitVec 5) (o : List Run) (r : List (List Run)),
    ((∀ x ∈ r, runsLen x = runsLen o) → mismatch (o :: r) = none ∧
      mapPieces f (alignRuns (o :: r)) = (alignedRuns f (o :: r) (runsLen o), alignedFlags f (o :: r) (runsLen o))) ∧
    ∀ x y z, r = x ++ y :: z → (∀ u ∈ x, runsLen u = runsLen o) → runsLen y ≠ runsLen o →
      mismatch (o :: r) = some (runsLen o, runsLen y)

/-- The element-wise FP32 operations on run registers (R237, R238), masked and scalar forms with them: each issues with its
aligned result on its way, rounded under RM with the noise of each piece. -/
def Obligations.VectorFp : Prop :=
  ∀ (s : State) (w p q : BitVec 2) (d a b : BitVec 6) (c : BitVec 1) (k : BitVec 3) (n : BitVec 5),
    let x := s.me
    let A := x.vreg a
    let B := x.vreg b
    let D := x.vreg d
    let M := x.mreg k
    let rm := x.spr.rm
    let z := s.vecNoise
    let y : Word := (s.rs n).setWidth 32
    let fv (u : Word) : FV := decodeF fp32 u.toNat
    let res (r : Nat × BitVec 5) : Word × BitVec 5 := (BitVec.ofNat 32 r.1, r.2)
    let bits (r : FV × BitVec 5) : Word × BitVec 5 := (BitVec.ofNat 32 (bits32 r.1), r.2)
    let add (i : Nat) (u v : Word) := res (addF rm (z i) (fv u) (fv v))
    let sub (i : Nat) (u v : Word) := res (subF rm (z i) (fv u) (fv v))
    let mul (i : Nat) (u v : Word) := res (mulF rm (z i) (fv u) (fv v))
    let lo (_ : Nat) (u v : Word) := bits (minmaxF false (fv u) (fv v))
    let hi (_ : Nat) (u v : Word) := bits (minmaxF true (fv u) (fv v))
    let two (i : Instr) (f : Nat → Word → Word → Word × BitVec 5) :=
      VecEach i s w (.v d) [A, B] fun j v => f j (v.getD 0 0) (v.getD 1 0)
    let msk (g : BitVec 4) (f : Nat → Word → Word → Word × BitVec 5) :=
      VecEach (.fp32MaskedForms w d p b q k g) s w (.v d) [D, B, M] fun j v =>
        if v.getD 2 0 = 1 then f j (v.getD 0 0) (v.getD 1 0) else (v.getD 0 0, 0)
    let scl (g : BitVec 4) (f : Nat → Word → Word → Word × BitVec 5) :=
      VecEach (.fp32ScalarForms w d a p n g) s w (.v d) [A] fun j v => f j (v.getD 0 0) y
    two (.vadd w d a p b q) add ∧ two (.vsub w d a p b q) sub ∧ two (.vmul w d a p b q) mul ∧
    two (.vmin w d a p b q) lo ∧ two (.vmax w d a p b q) hi ∧
    msk 0 add ∧ msk 1 sub ∧ msk 2 mul ∧ msk 3 lo ∧ msk 4 hi ∧
    scl 0 add ∧ scl 1 sub ∧ scl 2 mul ∧ scl 3 lo ∧ scl 4 hi ∧ scl 5 (fun j u v => sub j v u) ∧
    VecEach (.vfma w d a p b q c) s w (.v d) [A, B, D] fun j v =>
      res (fmaF rm (z j) (fv (v.getD 0 0)) (fv (v.getD 1 0)) (fv (v.getD 2 0)))

/-- The unary vector operations (R239, R240), masked where M is 1: VABS clears bit 31 and raises no flag; the conversions
of VCVT to INT32, from INT32 and to BF16 by the shared conversions, the others by the model's VCVT function. -/
def Obligations.VectorUnary : Prop :=
  ∀ (s : State) (w p : BitVec 2) (d a : BitVec 6) (k : BitVec 3) (v : BitVec 4),
    let x := s.me
    let rm := x.spr.rm
    let z := s.vecNoise
    let fv (u : Word) : FV := decodeF fp32 u.toNat
    let res (r : Nat × BitVec 5) : Word × BitVec 5 := (BitVec.ofNat 32 r.1, r.2)
    let efr := x.spr.efrv.setWidth 8
    let one (i : BitVec 1 → Instr) (f : Nat → Word → Word × BitVec 5) : Prop :=
      VecEach (i 0) s w (.v d) [x.vreg a] (fun j u => f j (u.getD 0 0)) ∧
      VecEach (i 1) s w (.v d) [x.vreg a, x.mreg k] fun j u =>
        if u.getD 1 0 = 1 then f j (u.getD 0 0) else (u.getD 0 0, 0)
    one (fun m => .vabs w d a p m k) (fun _ u => (u.setWidth 31 |>.setWidth 32, 0)) ∧
    one (fun m => .vexp2 w d a p m k) (fun _ u => res (exp2F (fv u))) ∧
    one (fun m => .vlog2 w d a p m k) (fun _ u => res (log2F (fv u))) ∧
    one (fun m => .vrcp w d a p m k) (fun j u => res (rcpF rm (z j) (fv u))) ∧
    one (fun m => .vrsq w d a p m k) (fun j u => res (rsqF rm (z j) (fv u))) ∧
    one (fun m => .vcvt w d a p 1 m k) (fun j u =>
      (BitVec.ofInt 32 (toInt rm (z j) (-2147483648) 2147483647 (fv u)).1, (toInt rm (z j) (-2147483648) 2147483647 (fv u)).2)) ∧
    one (fun m => .vcvt w d a p 2 m k) (fun j u => res (roundF fp32 rm (z j) (ofInt u.toInt))) ∧
    one (fun m => .vcvt w d a p 3 m k) (fun j u =>
      (BitVec.ofNat 32 (roundF fp32 0 0 (decodeF bf16 (roundF bf16 rm (z j) (fv u)).1)).1, (roundF bf16 rm (z j) (fv u)).2)) ∧
    one (fun m => .vcvt w d a p v m k) (fun j u => vecConvert v efr rm (z j) u)

/-- The INT32 operations on run registers (R241), masked and scalar forms with them, by formulas of their own: wrapping
arithmetic, shifts by the low five bits, signed and unsigned minimum and maximum; none raises a flag. -/
def Obligations.VectorInt : Prop :=
  ∀ (s : State) (w p q : BitVec 2) (d a b : BitVec 6) (k : BitVec 3) (n : BitVec 5),
    let x := s.me
    let A := x.vreg a
    let B := x.vreg b
    let y : Word := (s.rs n).setWidth 32
    let sh (v : Word) : Nat := (v.setWidth 5).toNat
    let all (i : Instr) (g : BitVec 4) (f : Word → Word → Word) : Prop :=
      VecEach i s w (.v d) [A, B] (fun _ v => (f (v.getD 0 0) (v.getD 1 0), 0)) ∧
      VecEach (.int32MaskedForms w d p b q k g) s w (.v d) [x.vreg d, B, x.mreg k] (fun _ v =>
        (if v.getD 2 0 = 1 then f (v.getD 0 0) (v.getD 1 0) else v.getD 0 0, 0)) ∧
      VecEach (.int32ScalarForms w d a p n g) s w (.v d) [A] (fun _ v => (f (v.getD 0 0) y, 0))
    all (.viadd w d a p b q) 0 (fun u v => BitVec.ofInt 32 (u.toInt + v.toInt)) ∧
    all (.visub w d a p b q) 1 (fun u v => BitVec.ofInt 32 (u.toInt - v.toInt)) ∧
    all (.vimul w d a p b q) 2 (fun u v => BitVec.ofInt 32 (u.toInt * v.toInt)) ∧
    all (.vand w d a p b q) 3 (fun u v => u &&& v) ∧ all (.vor w d a p b q) 4 (fun u v => u ||| v) ∧
    all (.vxor w d a p b q) 5 (fun u v => u ^^^ v) ∧
    all (.vshl w d a p b q) 6 (fun u v => u <<< sh v) ∧ all (.vshr w d a p b q) 7 (fun u v => u >>> sh v) ∧
    all (.vshrA w d a p b q) 8 (fun u v => u.sshiftRight (sh v)) ∧
    all (.vimin w d a p b q) 9 (fun u v => BitVec.ofInt 32 (min u.toInt v.toInt)) ∧
    all (.vimax w d a p b q) 10 (fun u v => BitVec.ofInt 32 (max u.toInt v.toInt)) ∧
    all (.viminU w d a p b q) 11 (fun u v => BitVec.ofNat 32 (min u.toNat v.toNat)) ∧
    all (.vimaxU w d a p b q) 12 (fun u v => BitVec.ofNat 32 (max u.toNat v.toNat)) ∧
    VecEach (.int32ScalarForms w d a p n 13) s w (.v d) [A] (fun _ v => (y - v.getD 0 0, 0))

/-- Compares into masks, VSEL and the mask operations (R242 to R244). -/
def Obligations.VectorMasks : Prop :=
  ∀ (s : State) (w p q : BitVec 2) (d a b : BitVec 6) (m k l : BitVec 3) (n : BitVec 5) (c : BitVec 3),
    let x := s.me
    let A := x.vreg a
    let B := x.vreg b
    let y : Word := (s.rs n).setWidth 32
    let fv (u : Word) : FV := decodeF fp32 u.toNat
    let cmp (i : BitVec 1) (c : BitVec 3) (f : Word → Word → Word × BitVec 5) : Prop :=
      VecEach (.vcmp w m a p b q i c) s w (.m m) [A, B] (fun _ v => f (v.getD 0 0) (v.getD 1 0)) ∧
      VecEach (.vcmpScalar w m a p n i c) s w (.m m) [A] (fun _ v => f (v.getD 0 0) y)
    let int (c : BitVec 3) (r : Word → Word → Bool) : Prop := cmp 1 c fun u v => (if r u v then 1 else 0, 0)
    let mask (i : Instr) (f : Word → Word → Word) : Prop :=
      VecEach i s w (.m m) [x.mreg k, x.mreg l] (fun _ v => (f (v.getD 0 0) (v.getD 1 0), 0))
    int 0 (fun u v => decide (u = v)) ∧ int 1 (fun u v => decide (u ≠ v)) ∧
    int 2 (fun u v => decide (u.toInt < v.toInt)) ∧ int 3 (fun u v => decide (u.toInt ≤ v.toInt)) ∧
    int 4 (fun u v => decide (v.toInt < u.toInt)) ∧ int 5 (fun u v => decide (v.toInt ≤ u.toInt)) ∧
    int 6 (fun u v => decide (u.toNat < v.toNat)) ∧ int 7 (fun u v => decide (v.toNat ≤ u.toNat)) ∧
    cmp 0 c (fun u v => (if (cmpF c.toNat (fv u) (fv v)).1 then 1 else 0, (cmpF c.toNat (fv u) (fv v)).2)) ∧
    VecEach (.vsel w d p b q k) s w (.v d) [x.vreg d, B, x.mreg k] (fun _ v =>
      (if v.getD 2 0 = 1 then v.getD 1 0 else v.getD 0 0, 0)) ∧
    mask (.mand w m k l) (fun u v => u &&& v) ∧ mask (.mor w m k l) (fun u v => u ||| v) ∧
    mask (.mxor w m k l) (fun u v => u ^^^ v) ∧
    VecEach (.mnot w m k) s w (.m m) [x.mreg k] (fun _ v => (v.getD 0 0 ^^^ 1, 0)) ∧
    VecIs (.mcnt w n k) s w (.s (s.ps n)) (x.mreg k).length
      (.scalar (BitVec.ofNat 64 ((elems (x.mreg k)).countP (· = 1)))) 0

/-- Run structure (R245 to R254): the list each instruction writes, what it says of the elements in order, and the faults:
VSPLAT, VSLICE and VCAT out of range, VPICK of an index that is no element, VSEGSET, VSEGCLR and VSPREAD of operands that do
not match. Where RUN_OVERFLOW and another of these hold together, VCAT and VSEGSET report RUN_OVERFLOW, the lowest code (R38):
that is the model's reading (DEDUCED, log entry 42). -/
def Obligations.VectorStructure : Prop :=
  ∀ (s : State) (w p q g : BitVec 2) (d a b : BitVec 6) (k : BitVec 3) (n e : BitVec 5) (z m v : BitVec 1),
    let x := s.me
    let A := x.vreg a
    let B := x.vreg b
    let M := x.mreg k
    let S (m : BitVec 1) : List Run := if m = 1 then x.mreg (a.setWidth 3) else A
    let D (m : BitVec 1) : Stor := if m = 1 then .m (d.setWidth 3) else .v d
    let N := (s.rs n).toNat
    let first := N % 2 ^ 32
    let size := N / 2 ^ 32
    let bad (i : Instr) (f : Flt) : Prop := Goes (exec i s) (Raises f s)
    VecOut (.vcoal w d a p z m) s w (D m) (S m).length (coalesce (bit1 z) (S m)) 0 ∧
    elems (coalesce false (S m)) = elems (S m) ∧
    (g ≠ 3 → VecIs (.vlen w n a p g m) s w (.s (s.ps n)) (S m).length (.scalar (BitVec.ofNat 64
      (if g = 0 then (elems (S m)).length else if g = 1 then (S m).length else (S m).countP (·.b)))) 0) ∧
    (let val : Word := if m = 1 then v.setWidth 32 else (s.rs e).setWidth 32
     (N < 2 ^ 24 → VecIs (.vsplat w d e n m v) s w (D m) 1 (.runs (if N = 0 then [] else [⟨val, N, true⟩])) 0) ∧
     (2 ^ 24 ≤ N → bad (.vsplat w d e n m v) (prot 0x10 (s.rs n)))) ∧
    (N ≤ 4096 → VecIs (.viota w d e n) s w (.v d) N
      (.runs ((List.range N).map fun i => ⟨(s.rs e).setWidth 32 + BitVec.ofNat 32 i, 1, decide (i = 0)⟩)) 0) ∧
    (4096 < N → bad (.viota w d e n) (runOverflow N)) ∧
    (let c := runsLen A + A.countP (·.cnt = 0)
     (c ≤ 4096 → VecOut (.viotaSeg w d a p) s w (.v d) c (iotaSegs A) 0) ∧
     (4096 < c → bad (.viotaSeg w d a p) (runOverflow c))) ∧
    elems (iotaSegs A) = (segmentsOf A).flatMap (fun g => (List.range (runsLen g)).map (BitVec.ofNat 32)) ∧
    (first + size ≤ runsLen A → VecOut (.vslice w d a p n) s w (.v d) A.length (sliceRuns first size A) 0 ∧
      elems (sliceRuns first size A) = ((elems A).drop first).take size) ∧
    (runsLen A < first + size → bad (.vslice w d a p n) (prot 0x10 (s.rs n))) ∧
    ((A ++ B).length ≤ 4096 → runsLen A + runsLen B < 2 ^ 24 →
      VecIs (.vcat w d a p b q) s w (.v d) (A ++ B).length (.runs (A ++ B)) 0) ∧
    ((A ++ B).length ≤ 4096 → 2 ^ 24 ≤ runsLen A + runsLen B →
      bad (.vcat w d a p b q) (prot 0x10 (BitVec.ofNat 64 (runsLen A + runsLen B)))) ∧
    (4096 < (A ++ B).length → bad (.vcat w d a p b q) (runOverflow (A ++ B).length)) ∧
    ((∀ r ∈ B, r.cnt ≠ 0 → r.val.toNat < runsLen A) → VecOut (.vpick w d a p b q) s w (.v d) (A.length + B.length)
      (B.map fun r => if r.cnt = 0 then r else ⟨(elems A).getD r.val.toNat 0, r.cnt, r.b⟩) 0) ∧
    (∀ y r u, B = y ++ r :: u → (∀ o ∈ y, o.cnt ≠ 0 → o.val.toNat < runsLen A) → r.cnt ≠ 0 → runsLen A ≤ r.val.toNat →
      bad (.vpick w d a p b q) { prot 0x10 (r.val.setWidth 64) with info1 := BitVec.ofNat 64 (runsLen A) }) ∧
    (runsLen A = runsLen M →
      VecOut (.vsegset w d a p k) s w (.v d) (A.length + M.length) (segSet (marksIn M) A) 0 ∧
      VecOut (.vsegclr w d a p 1 k) s w (.v d) A.length (segClear (marksIn M) A) 0) ∧
    elems (segSet (marksIn M) A) = elems A ∧
    (runsLen A ≠ runsLen M → bad (.vsegclr w d a p 1 k) (lengthMismatch (runsLen A) (runsLen M))) ∧
    (runsLen A ≠ runsLen M → (segSet (marksIn M) A).length ≤ 4096 →
      bad (.vsegset w d a p k) (lengthMismatch (runsLen A) (runsLen M))) ∧
    (runsLen A ≠ runsLen M → 4096 < (segSet (marksIn M) A).length →
      bad (.vsegset w d a p k) (runOverflow (segSet (marksIn M) A).length)) ∧
    VecOut (.vsegclr w d a p 0 k) s w (.v d) A.length (segClearAll A) 0 ∧ elems (segClearAll A) = elems A ∧
    (let vs := segValues 0 A
     let ns := segmentsOf B
     (ns.length = vs.length → VecOut (.vspread w d a p b q) s w (.v d) (A.length + B.length) (spreadRuns vs B) 0 ∧
       elems (spreadRuns vs B) = (ns.zip vs).flatMap fun y => List.replicate (runsLen y.1) y.2) ∧
     (ns.length ≠ vs.length → bad (.vspread w d a p b q) { lengthMismatch ns.length vs.length with sub := 0x01 })) ∧
    decodeSlot .v 0x62141200 = .ok (some (.vlen 0 5 1 0 2 0)) ∧ (Instr.vlen w n a p 3 m).wf = false ∧
    decodeSlot .v 0x640202E0 = .ok (some (.vsplat 0 1 0 5 1 1)) ∧
    decodeSlot .v 0x72060812 = .ok (some (.vspread 0 3 1 0 2 1))

/-- Reductions and prefix sums (R255, R256, R257): over a whole register into a scalar, over each segment into a run, VSCAN
into one run for each element or each run of zeros; a mask of another length raises LENGTH_MISMATCH. The sums are the exact
sums of the pieces, rounded once.

VEXPK, VSCK and VSCK.SEG (R258, R259): a power of two scaled by an integer exponent of its segment, and a value scaled
element by element or by its segment's exponent; LENGTH_MISMATCH 0x01 where the segments do not match. -/
def Obligations.VectorReductions : Prop :=
  (∀ (s : State) (w p : BitVec 2) (d : BitVec 5) (v a : BitVec 6) (m x : BitVec 1) (k : BitVec 3),
     let A := s.me.vreg a
     let M := s.me.mreg k
     let ok : Prop := m = 1 → runsLen A = runsLen M
     let q : Nat := A.length + if m = 1 then M.length else 0
     let ps := maskedPieces A (if m = 1 then some M else none)
     let rm := s.me.spr.rm
     let all (i : Instr) (f : List Piece → Word × BitVec 5) (sgn : Bool) : Prop :=
       (ok → VecIs i s w (.s (s.ps d)) q (.scalar (if sgn then (f ps).1.signExtend 64 else (f ps).1.setWidth 64)) (f ps).2) ∧
       (¬ ok → Goes (exec i s) (Raises (lengthMismatch (runsLen A) (runsLen M)) s))
     let seg (i : Instr) (f : Nat → List Piece → Word × BitVec 5) : Prop :=
       let r := reduceSegs f 0 (segmentsBy (·.b) ps)
       (ok → VecOut i s w (.v v) q r.1 r.2) ∧
       (¬ ok → Goes (exec i s) (Raises (lengthMismatch (runsLen A) (runsLen M)) s))
     let sum (z : Nat) (ps : List Piece) : Word × BitVec 5 :=
       let r := roundSum fp32 rm z ((ps.filter (·.included)).map fun p => timesV p.len p.fv)
       (BitVec.ofNat 32 r.1, r.2)
     let ssq (z : Nat) (ps : List Piece) : Word × BitVec 5 :=
       let r := roundSum fp32 rm z ((ps.filter (·.included)).map fun p => timesV p.len (squareV p.fv))
       (BitVec.ofNat 32 r.1, r.2)
     all (.vrsum w d a p m k) (sum s.redNoise) false ∧ seg (.vrsumSeg w v a p m k) (fun j => sum (s.vecNoise j)) ∧
     all (.vrssq w d a p m k) (ssq s.redNoise) false ∧ seg (.vrssqSeg w v a p m k) (fun j => ssq (s.vecNoise j)) ∧
     all (.vrmax w d a p m k) (Redn.max.of rm 0) false ∧ seg (.vrmaxSeg w v a p m k) (fun _ => Redn.max.of rm 0) ∧
     all (.vrmin w d a p m k) (Redn.min.of rm 0) false ∧ seg (.vrminSeg w v a p m k) (fun _ => Redn.min.of rm 0) ∧
     all (.vmaxk w d a p m k) maxK true ∧ seg (.vmaxkSeg w v a p m k) (fun _ => maxK) ∧
     (ok → scanCount ps ≤ 4096 → VecOut (.vscan w v a p m k x) s w (.v v) (scanCount ps + if m = 1 then M.length else 0)
       ((segmentsBy (·.b) ps).flatMap fun g => (scanSeg rm s.vecNoise (bit1 x) [] g).1)
       (((segmentsBy (·.b) ps).map fun g => (scanSeg rm s.vecNoise (bit1 x) [] g).2).foldl (· ||| ·) 0)) ∧
     (ok → 4096 < scanCount ps → Goes (exec (.vscan w v a p m k x) s) (Raises (runOverflow (scanCount ps)) s)) ∧
     (¬ ok → Goes (exec (.vscan w v a p m k x) s) (Raises (lengthMismatch (runsLen A) (runsLen M)) s))) ∧
  (∀ (s : State) (w p q : BitVec 2) (d a b : BitVec 6),
     let A := s.me.vreg a
     let B := s.me.vreg b
     let rm := s.me.spr.rm
     let fv (u : Word) : FV := decodeF fp32 u.toNat
     let res (r : Nat × BitVec 5) : Word × BitVec 5 := (BitVec.ofNat 32 r.1, r.2)
     let gs := segmentsBy (·.b) (alignRuns [A])
     let seg (i : Instr) (dflt : Word) (f : Nat → Word → Word → Word × BitVec 5) : Prop :=
       let vs := segValues dflt B
       let rs := (gs.zip vs).map fun g => mapPieces (fun j v => f j (v.getD 0 0) g.2) g.1
       (gs.length = vs.length → VecOut i s w (.v d) (A.length + B.length) (rs.flatMap (·.1)) ((rs.map (·.2)).foldl (· ||| ·) 0)) ∧
       (gs.length ≠ vs.length → Goes (exec i s) (Raises { lengthMismatch gs.length vs.length with sub := 0x01 } s))
     VecEach (.vsck w d a p b q) s w (.v d) [A, B] (fun j v =>
       res (scaleF rm (s.vecNoise j) (fv (v.getD 0 0)) (v.getD 1 0).toInt)) ∧
     seg (.vsckSeg w d a p b q) 0 (fun j u e => res (scaleF rm (s.vecNoise j) (fv u) e.toInt)) ∧
     seg (.vexpk w d a p b q) 0x80000000 (fun _ u e => res (expK (fv u) e.toInt)))

/-! ## Memory -/

/-- The scalar loads and stores (R175): the value at base plus offset, sign- or zero-extended, becomes the destination's
result; the low bytes of the source, little-endian, are stored at base plus offset and nowhere else. -/
def Obligations.ScalarAccesses : Prop :=
  ∀ (s : State) (d b : BitVec 5) (o : BitVec 15),
    let ea := s.rs b + o.signExtend 64
    let ld (i : Instr) (n : Nat) (sgn : Bool) : Prop := LoadOut i s n [(ea, n)] 0 0 (.s (s.ps d)) (.scalar n sgn)
    let st (i : Instr) (n : Nat) : Prop :=
      StoreOut i s n [(ea, n)] 0 ((List.range n).map fun k => (s.rs d).extractLsb' (8 * k) 8) fun _ => []
    ld (.lds d b o) 8 false ∧ ld (.ldsW d b o) 4 true ∧ ld (.ldsWu d b o) 4 false ∧ ld (.ldsH d b o) 2 true ∧
    ld (.ldsHu d b o) 2 false ∧ ld (.ldsB d b o) 1 true ∧ ld (.ldsBu d b o) 1 false ∧
    st (.sts d b o) 8 ∧ st (.stsW d b o) 4 ∧ st (.stsH d b o) 2 ∧ st (.stsB d b o) 1

/-- What the bytes of a load become (R175, R180): scalars as little-endian numbers, zero- or sign-extended; streams of run
entries and mask entries as they stand, the first with B, unless malformed (PROTECTION 0x06; that its INFO0 is the address of the
stream is the model's choice, log entry 146) or more than 4,096 runs.

The conversions of element loads (R176, R177): no conversion of FP32 and INT32, sign extension of i8, exact widening of
the floating formats; in every format the element k of a load is that of the bits from k times its width on, with the scale byte of its
block of 32; LDV keeps every element apart, LDVC merges equal neighbours, and the elements are the same.

The conversion of drained elements (R280): none for FP32, to the nearest integer under RM for INT32, to the narrower
format under RM otherwise; a run holds the code of FP32 and INT32, and the exact FP32 value of every other.

Conversions of XCVT (R322), for every count and every element k below it: rounded to the narrower format under RM, with the flags of all
of them, or exactly widened; of narrow integers, blocks of 32 elements under the scale byte of R81, which stands after the elements, and
elements with their scale, a scale of 0xFF or a NaN code giving the canonical NaN (that a value beyond the range of FP32 becomes an
infinity is the model's choice, log entry 141). -/
def Obligations.Conversions : Prop :=
  (∀ (b0 b1 b2 b3 b4 b5 b6 b7 : Byte) (es : List Byte) (m : Bool) (va : BitVec 64),
     let runs := (leWords (if m then 4 else 8) es).map (entryOf m)
     (Conv.scalar 1 false).value [b0] = .ok (.scalar (b0.setWidth 64)) ∧
     (Conv.scalar 1 true).value [b0] = .ok (.scalar (b0.signExtend 64)) ∧
     (Conv.scalar 2 false).value [b0, b1] = .ok (.scalar ((b1 ++ b0).setWidth 64)) ∧
     (Conv.scalar 2 true).value [b0, b1] = .ok (.scalar ((b1 ++ b0).signExtend 64)) ∧
     (Conv.scalar 4 false).value [b0, b1, b2, b3] = .ok (.scalar ((b3 ++ b2 ++ b1 ++ b0).setWidth 64)) ∧
     (Conv.scalar 4 true).value [b0, b1, b2, b3] = .ok (.scalar ((b3 ++ b2 ++ b1 ++ b0).signExtend 64)) ∧
     (Conv.scalar 8 false).value [b0, b1, b2, b3, b4, b5, b6, b7] =
       .ok (.scalar (b7 ++ b6 ++ b5 ++ b4 ++ b3 ++ b2 ++ b1 ++ b0)) ∧
     (Conv.entries m va).value es =
       if (∃ e ∈ runs, e.2 = true ∨ e.1.cnt = 0 ∧ e.1.b = false) ∨ orphan (runs.map (·.1)) = true ∨
           2 ^ 24 ≤ runsLen (runs.map (·.1)) then .error (prot 0x06 va)
       else if 4096 < runs.length then .error (runOverflow runs.length)
       else .ok (.runs (firstB ((runs.map (·.1)).map fun r => { r with val := if r.cnt = 0 then 0 else r.val })))) ∧
  (∀ (efr sc : Byte) (efrv : BitVec 16) (scales bs : List Byte) (c : Nat) (n f : Nat) (x : Word) (y : Byte),
     elemValue 0 efr sc x.toNat = x ∧ elemValue 5 efr sc x.toNat = x ∧ elemValue 6 efr sc y.toNat = y.signExtend 32 ∧
     elemValue 1 efr sc c = BitVec.ofNat 32 (roundF fp32 0 0 (decodeF bf16 c)).1 ∧
     elemValue 2 efr sc c = BitVec.ofNat 32 (roundF fp32 0 0 (decodeF fp16 c)).1 ∧
     elemValue 3 efr sc c = BitVec.ofNat 32 (roundF fp32 0 0 (decodeF e4m3 c)).1 ∧
     elemValue 4 efr sc c = BitVec.ofNat 32 (roundF fp32 0 0 (decodeF e5m2 c)).1 ∧
     (0 < n → f ≤ 9 → bs.length = packedBytes f n false → n ≤ 4096 →
       ∃ rs qs, (Conv.elems f false efrv scales n [n]).value bs = .ok (.runs rs) ∧
         (Conv.elems f true efrv scales n [n]).value bs = .ok (.runs qs) ∧
         (f = 0 → elems rs = (leWords 4 bs).map (BitVec.ofNat 32)) ∧
         elems rs = ((List.range n).map fun k => elemValue f (efrv.setWidth 8) (scales.getD (k / 32) 0)
           (leNat bs / 2 ^ (fmtBits f * k) % 2 ^ fmtBits f)) ∧ elems qs = elems rs ∧ rs.length = n ∧
         (∀ r ∈ rs, r.cnt = 1) ∧ rs.map (·.b) = true :: List.replicate (n - 1) false ∧
         ∀ i, i + 1 < qs.length → (qs.getD i nullRun).val ≠ (qs.getD (i + 1) nullRun).val)) ∧
  (∀ (rm b f : BitVec 3) (seed : BitVec 64) (i j : Nat) (x : Word), rm ≠ 5 →
     drainElem 0 rm seed b i j x = (x.toNat, 0) ∧
     (1 ≤ f.toNat → f.toNat ≤ 4 → drainElem f rm seed b i j x = roundF (fmtOf f.toNat) rm 0 (decodeF fp32 x.toNat)) ∧
     (drainElem 5 rm seed b i j x = ((BitVec.ofInt 32 (toInt rm 0 (-2147483648) 2147483647 (decodeF fp32 x.toNat)).1).toNat,
       (toInt rm 0 (-2147483648) 2147483647 (decodeF fp32 x.toNat)).2)) ∧
     drainRun 0 x.toNat = x ∧ drainRun 5 x.toNat = x ∧
     ∀ c, 1 ≤ f.toNat → f.toNat ≤ 4 → drainRun f c = BitVec.ofNat 32 (rne fp32 (decodeF (fmtOf f.toNat) c)).1) ∧
  (∀ (efr : Byte) (rm : BitVec 3) (v : Nat → Nat) (k n : Nat) (bs : List Byte),
     let w := efrWidth efr
     let out := xcvtBytes k n efr rm v bs
     let word (j : Nat) : FV := decodeF fp32 (leNat ((bs.drop (4 * j)).take 4))
     let narrow (j : Nat) : Nat × BitVec 5 := roundF (fmtOf k) rm (v j) (word j)
     let wide (j : Nat) : Nat × BitVec 5 :=
       roundF fp32 0 0 (decodeF (fmtOf (k - 4)) (leNat ((bs.drop (fmtBits (k - 4) / 8 * j)).take (fmtBits (k - 4) / 8))))
     let all (e : Nat → Nat × BitVec 5) : BitVec 5 := (List.range n).foldl (fun f j => f ||| (e j).2) 0
     let code (bytes : List Byte) (j : Nat) : Nat := leNat (bytes.take (n * w / 8)) / 2 ^ (w * j) % 2 ^ w
     let block (b : Nat) : List FV := (List.range 32).map fun i => word (32 * b + i)
     let scaled (e : Int) (x : FV) : FV := match x with | .num s m g => .num s m (g - e) | y => y
     (1 ≤ k → k ≤ 4 → bs.length = 4 * n → out.1 = ((List.range n).flatMap fun j => leBytes (fmtBits k / 8) (narrow j).1) ∧
       out.2 = all narrow) ∧
     (5 ≤ k → k ≤ 8 → bs.length = fmtBits (k - 4) / 8 * n → out.1 = ((List.range n).flatMap fun j => leBytes 4 (wide j).1) ∧
       out.2 = all wide) ∧
     (k = 9 → n % 32 = 0 → bs.length = 4 * n → out.1.length = n * w / 8 + n / 32 ∧ ∀ b, b < n / 32 →
       match mxScale 0 (block b) with
       | none => out.1.getD (n * w / 8 + b) 0 = 0xFF ∧ ∀ i, i < 32 → code out.1 (32 * b + i) = 0
       | some (y, e) => out.1.getD (n * w / 8 + b) 0 = y ∧ ∀ i, i < 32 →
           code out.1 (32 * b + i) = (toNarrow efr rm (v (32 * b + i)) (scaled e (word (32 * b + i)))).1.toNat % 2 ^ w) ∧
     (k = 10 → n % 32 = 0 → bs.length = n * w / 8 + n / 32 → out.2 = 0 ∧ out.1 = (List.range n).flatMap fun j =>
       leBytes 4 (bits32 (niFV w efr (code bs j) (bs.getD (n * w / 8 + j / 32) 0)))) ∧
     (∀ c, niFV w efr c 0xFF = .nan false false 0) ∧ ∀ c e, niValue w efr c = none → niFV w efr c e = .nan false false 0)

/-- The vector and raw loads and stores (R174, R176 to R180): out-of-range counts, the checked bytes, and the conversions they
carry. STR also leaves its run count for Sn. Two clauses are the model's readings: a load of no element checks no address and
is present c + 1 cycles on (DEDUCED, log entry 37), and a load of more elements than a register has runs issues, its
RUN_OVERFLOW found at the conversion (R192; DEDUCED, log entry 38). -/
def Obligations.VectorAccesses : Prop :=
  ∀ (s : State) (v : BitVec 6) (b n : BitVec 5) (f : BitVec 4) (c p : BitVec 2),
    let x := s.me
    let k := (s.rs n).toNat
    let narrow : Prop := f = 7 ∨ f = 8 ∨ f = 9
    let size : Nat := if f = 7 then 32 else if f = 8 then 24 else if f = 9 then 16 else fmtBits f.toNat / 8
    let conv (merge : Bool) : Conv :=
      .elems f.toNat merge x.spr.efrv (if f = 7 ∨ f = 8 ∨ f = 9 then x.scale c else []) k (if k = 0 then [] else [k])
    let ld (i : Instr) (merge : Bool) : Prop :=
      if 2 ^ 24 ≤ k ∨ (f = 7 ∨ f = 8 ∨ f = 9) ∧ 16384 < k then Goes (exec i s) (Raises (prot 0x10 (BitVec.ofNat 64 k)) s)
      else LoadOut i s size (if k = 0 then [] else [(s.rs b, packedBytes f.toNat k false)]) k (if k = 0 then 2 else 0) (.v v)
        (conv merge)
    let R := x.vreg v
    let bytes := rowBytesOf f.toNat (runsLen R) (storeCodes f.toNat x.spr.efrv (x.scale c) x.spr.rm x.spr.srseed R)
    let raw (m : BitVec 1) : Prop :=
      let e : Nat := if m = 1 then 4 else 8
      let S := if m = 1 then x.mreg (v.setWidth 3) else R
      let out := S.flatMap fun r => leBytes e (entryBits (bit1 m) r)
      (4096 < k → Goes (exec (.ldr v b n m) s) (Raises (runOverflow k) s)) ∧
      (k ≤ 4096 → LoadOut (.ldr v b n m) s e (if k = 0 then [] else [(s.rs b, e * k)]) k (if k = 0 then 2 else 0)
        (if m = 1 then .m (v.setWidth 3) else .v v) (.entries (decide (m = 1)) (s.rs b))) ∧
      StoreOut (.str v b n p m) s e (if S = [] then [] else [(s.rs b, out.length)]) S.length out fun occ =>
        [resultOf s (occ + 1) (.s (s.ps n)) (.scalar (BitVec.ofNat 64 S.length)) 0]
    f ≤ 9 →
    ld (.ldv v b n f c) false ∧ ld (.ldvc v b n f c) true ∧
    (if narrow ∧ 16384 < runsLen R then Goes (exec (.stv v b f c p) s) (Raises (prot 0x10 (BitVec.ofNat 64 (runsLen R))) s)
     else StoreOut (.stv v b f c p) s size (if runsLen R = 0 then [] else [(s.rs b, bytes.length)]) R.length bytes fun _ => []) ∧
    raw 0 ∧ raw 1

/-- The ragged loads and stores (R185, R186): the rows that a shape register selects, their bytes, and the stages of their
faults, the empty register first. The MODEL's readings: what no row or no element gives (log entry 37), that a load of more than 4,096
elements issues, its RUN_OVERFLOW found at the conversion (log entry 38), the selection at a span's end (log entry 39), and the order
of the stages of STVR (log entry 40). -/
def Obligations.RaggedAccesses : Prop :=
  ∀ (s : State) (v : BitVec 6) (i n : BitVec 5) (h : BitVec 3) (e x k : BitVec 1) (c p : BitVec 2),
    let r := s.me.shape h
    let R := s.me.vreg v
    let ld : Instr := .ldvr v i n h e x c k
    let st : Instr := .stvr v i n h e x c p
    let sel := r.select h (bit1 e) (bit1 x) (s.rs i).toNat (s.rs n).toNat
    let bad (j : Instr) (f : Flt) : Prop := Goes (exec j s) (Raises f s)
    let narrow : Prop := 7 ≤ r.fmt ∧ r.fmt ≤ 9
    (r.rank = 0 → bad ld (prot 0x11 (h.setWidth 64)) ∧ bad st (prot 0x11 (h.setWidth 64))) ∧
    (r.rank ≠ 0 → ∀ f, sel = .error f → bad ld f) ∧
    (r.rank ≠ 0 → ∀ f, r.storeFault h (bit1 e) (bit1 x) (s.rs i).toNat (s.rs n).toNat R = some f → bad st f) ∧
    (r.rank ≠ 0 → ∀ rows, sel = .ok rows →
      let parts := rows.map fun q => q.2 * r.elems
      let rs := r.ranges (packedBytes r.fmt r.elems false) rows
      let out := r.ranges (packedBytes r.fmt r.elems true) rows
      let conv : Conv := if r.fmt = 10 then .ragged parts r.addr
        else .elems r.fmt (decide (k = 1)) s.me.spr.efrv (if 7 ≤ r.fmt ∧ r.fmt ≤ 9 then s.me.scale c else []) r.elems parts
      (r.fmt ≠ 10 → (2 ^ 24 ≤ parts.sum ∨ narrow ∧ 16384 < parts.sum) → bad ld (prot 0x10 (BitVec.ofNat 64 parts.sum))) ∧
      ((r.fmt = 10 ∨ parts.sum < 2 ^ 24 ∧ (¬ narrow ∨ parts.sum ≤ 16384)) →
        let al := if rows = [] then none else r.misaligned
        (∀ f, s.stage2 .rd rs r.rowAlign al = some f → bad ld f) ∧
        (s.stage2 .rd rs r.rowAlign al = none →
          LoadOut ld s 1 rs parts.sum (if rs = [] then 2 else 0) (.v v) conv)) ∧
      (r.storeFault h (bit1 e) (bit1 x) (s.rs i).toNat (s.rs n).toNat R = none →
        (∀ f, s.stage2 .wr out r.rowAlign r.misaligned = some f → bad st f) ∧
        (s.stage2 .wr out r.rowAlign r.misaligned = none →
          StoreOut st s 1 out R.length
            (rowBytesOf r.fmt r.elems (storeCodes r.fmt s.me.spr.efrv (s.me.scale c) s.me.spr.rm s.me.spr.srseed R))
            fun _ => [])))

/-- Shape registers (R181 to R184): SHLD and SHWIN issue with an ordered snapshot of the record on its way; SHCHK with a
read of GEN against the held GEN; SHQ with the field or boundary it asks for; an empty register raises PROTECTION 0x11. -/
def Obligations.ShapeRegisters : Prop :=
  ∀ (s : State) (h : BitVec 3) (b o d i : BitVec 5) (g : BitVec 2) (q : BitVec 4),
    let r := s.me.shape h
    let empty (j : Instr) : Prop := Goes (exec j s) (Raises (prot 0x11 (h.setWidth 64)) s)
    let snap (j : Instr) (va origin : BitVec 64) : Prop :=
      match s.access pSL .rd false 64 [(va, 64)] with
      | .error f => Goes (exec j s) (Raises f s)
      | .ok c =>
        let ready : Prop := Full s c ∧ s.directHeld c.spans = false
        (¬ ready → Waits j s) ∧
        (ready → Within s c → Goes (exec j s) (Flies 1 (s.flight pSL (s.cycle + c.latency s.u) true false c.spans
          (.snap h va origin 1 0 0 [] [] [])) s))
    snap (.shld h b o) (s.rs b) (s.rs o) ∧
    (r.rank = 0 → empty (.shwin h o) ∧ empty (.shchk h g) ∧ empty (.shq d h i q)) ∧
    (r.rank ≠ 0 → snap (.shwin h o) r.addr (s.rs o) ∧
      LoadOut (.shchk h g) s 4 [(r.addr, 4)] 0 1 (.g g) (.gen (BitVec.ofNat 32 r.gen)) ∧
      (∀ f, r.query h q.toNat (s.rs i).toNat = .error f → Goes (exec (.shq d h i q) s) (Raises f s)) ∧
      (∀ v, r.query h q.toNat (s.rs i).toNat = .ok v → Goes (exec (.shq d h i q) s)
        (Flies 1 (resultOf s 2 (.s (s.ps d)) (.scalar (BitVec.ofNat 64 v)) 0) s)))

/-- Tile bits, scale loads and accumulator stores (R100, R187, R188, R189, R192): WAITF issues only once its tiles are full and
no bit write of its own to them is on its way; SETF and CLRF issue with the write of their tiles' bits on its way; all three
raise PROTECTION 0x04 outside scratchpad space (of an undefined space that is the model's choice, log entry 103).

MSCL reports the lowest code of stage 2 (R38, R192), and of PROTECTION the lowest subcode, which is the MODEL's reading (log entry 40):
a fault of the address below PROTECTION 0x04, then 0x04 itself for an address outside the core's own scratchpad, aligned or not, then
ALIGNMENT; in its own scratchpad it waits for its tile, for direct accesses of earlier bundles and for matrix reads of its bank (R269), and
issues with 512 bytes, as they stand (granules read ahead in that cycle as they stood then, R117; State.mxMem), on their way to a scale
register.

STAR waits for direct accesses of earlier bundles that it would overtake, and issues with the converted rows of its own bank on
their way to memory, or with a read of another core's rows on its way. -/
def Obligations.TileOperations : Prop :=
  ∀ (s : State) (n b d a : BitVec 5) (o : BitVec 15) (m : BitVec 2) (k : BitVec 7) (f : BitVec 4),
    let ea := s.rs b + o.signExtend 64
    (ea.toNat / 2 ^ 60 ≠ 2 → Goes (exec (.waitf n b o) s) (Raises ((prot 0x04 ea).on pSL .rd) s) ∧
      Goes (exec (.setf n b o) s) (Raises ((prot 0x04 ea).on pSL .wr) s) ∧
      Goes (exec (.clrf n b o) s) (Raises ((prot 0x04 ea).on pSL .wr) s)) ∧
    (match s.tileReach n ea .rd with
      | .error e => Goes (exec (.waitf n b o) s) (Raises e s)
      | .ok r =>
        let set : Prop := ∀ t ∈ tilesOfSpans r.spans, s.isFull t = true
        let clear : Prop := ∀ w ∈ s.flights, w.unit = s.u → ∀ t ∈ w.what.bitTiles, t ∉ tilesOfSpans r.spans
        (set → clear → Goes (exec (.waitf n b o) s) (Nothing 1 s)) ∧
          (¬ (set ∧ clear) → Waits (.waitf n b o) s)) ∧
    (∀ full : Bool, let i : Instr := if full then .setf n b o else .clrf n b o
      match s.tileReach n ea .wr with
      | .error e => Goes (exec i s) (Raises e s)
      | .ok r => Goes (exec i s) (Flies 1 (s.flight pSL (s.cycle + spanLatency s.u r.spans) false true []
          (.bits (tilesOfSpans r.spans) full)) s)) ∧
    (let own : Prop := ownScratch s.u ea.toNat = true
     let bad (e : Flt) : Prop := Goes (exec (.mscl m b o) s) (Raises e s)
     match s.reach s.u (dieOf s.u) (s.ctxOf s.u) pSL .rd false ea 512 with
      | .error e =>
        (own ∨ e.code.toNat < 0x19 ∨ e.code = 0x19 ∧ e.sub.toNat < 4 → e.code.toNat ≤ 0x19 → bad e) ∧
        (¬ own → e.code = 0x19 → 4 ≤ e.sub.toNat → bad ((prot 0x04 ea).on pSL .rd))
      | .ok r =>
        let ready : Prop := Full s r ∧ s.readHeld r.spans = false ∧ s.banksHold [] r.spans = false
        (¬ own → bad ((prot 0x04 ea).on pSL .rd)) ∧
        (own → ea.toNat % 512 ≠ 0 → bad ((align ea 512).on pSL .rd)) ∧
        (own → ea.toNat % 512 = 0 → ¬ ready → Waits (.mscl m b o) s) ∧
        (own → ea.toNat % 512 = 0 → ready → Within s r → Goes (exec (.mscl m b o) s) fun t => Frame s t ∧ Left s t 1 ∧
          t.landings = s.landings ++ [landingOf s 12 (.scale m (rdSpans (s.mxMem s.u) r.spans))] ∧ t.flights = s.flights)) ∧
    (let src := (s.rs a).toNat
     let rows := k.toNat + 1
     let row := src / 2 ^ 9 % 128
     let bank := src / 2 ^ 16 % 8
     let size := fmtBits f.toNat / 8
     ∀ c r w, s.glob.earlyTrap = false → src / 2 ^ 60 = 4 → holderOf s.u true src = .ok c → row + rows ≤ 128 →
       s.access pSL .rd true 512 [(s.rs a, 512 * rows)] = .ok r →
       s.access pSL .wr false size [(s.rs d, rows * 128 * size)] = .ok w →
       r.spans = [(accPlace c (bank * 65536 + row * 512), 512 * rows)] →
       (s.directHeld w.spans = true → Waits (.star d a k f) s) ∧
       (s.directHeld w.spans = false → Within s w →
         Goes (exec (.star d a k f) s) (Flies (occupancy s.u w.spans 0)
           (s.flight pSL (s.cycle + w.latency s.u + if c = s.u then 0 else latency s.u (accPlace c (bank * 65536 + row * 512)))
             false true w.spans
             (if c = s.u then .store (starBytes s.mem c bank row rows f.toNat s.me.spr.rm s.me.spr.srseed)
              else .star f s.me.spr.rm s.me.spr.srseed bank row rows c)) s)))

/-- Fences (R122 to R125): FENCE, DRAIN and XFENCE issue with no other effect once no access they order is still to
perform, and wait otherwise. -/
def Obligations.Fences : Prop :=
  ∀ (s : State) (a b : BitVec 3),
    let n := s.cur.op.seq
    let own (x : Xfer) : Prop := x.unit = s.u ∧ x.task = s.me.task ∧ x.seq < n ∧ s.xferOpen x = true
    let fence : Prop := ∀ f ∈ s.flights, s.fenced s.u n a.toNat [pSL, pAT] f = false
    let drain : Prop := (∀ f ∈ s.flights, s.fenced s.u n a.toNat [pSL, pAT, pAC] f = false) ∧ ∀ x ∈ s.xfers, ¬ own x
    (fence → Goes (exec (.fence a) s) (Nothing 1 s)) ∧ (¬ fence → Waits (.fence a) s) ∧
    (drain → Goes (exec (.drain a) s) (Nothing 1 s)) ∧ (¬ drain → Waits (.drain a) s) ∧
    (s.pathDone a.toNat = true → Goes (exec (.xfence a b) s) (Nothing 1 s)) ∧
    (s.pathDone a.toNat = false → (s.me.slot 6).hold ≠ .none → Waits (.xfence a b) s) ∧
    (s.pathDone 1 = true ↔ ∀ r ∈ s.streams, r.mx = true → r.unit = s.u → r.task = s.me.task → r.seq < n → r.todo = []) ∧
    (s.pathDone 0 = true ↔ ∀ f ∈ s.flights, s.fenced s.u n 4 [pSL] f = false) ∧
    (s.pathDone 2 = true ↔ ∀ f ∈ s.flights, s.fenced s.u n 4 [pAC] f = false) ∧
    (s.pathDone 5 = true ↔ ∀ f ∈ s.flights, s.fenced s.u n 4 [pAT] f = false) ∧
    (s.pathDone 3 = true ↔ ∀ x ∈ s.xfers, ¬ own x) ∧
    (s.pathDone 4 = true ↔ (∀ f ∈ s.flights, s.fenced s.u n 4 [pCO] f = false) ∧
      ∀ c ∈ s.calls, c.unit = s.u → c.task = s.me.task → c.bun < n → s.callLocal c = true) ∧
    (∀ c : Call, (c.kind = 5 ∨ c.kind = 8) → c.fin = false → (s.callLocal c = true ↔ s.reportLocal c = false))

/-! ## The sync engine -/

/-- The issue of the sync engine's requests (R193, R195, R198 to R208, R210, R212, R213): each leaves with its request on its
way to the port of its object, the operands sampled now; of the vector reduce-stores one request for each element, in order.
ROOPEN, ROOPEN.X, SDCLAIM and SDFREE go by the directory on die 0; a way that needs a failed link raises PROTECTION 0x01, with
INFO0 = 0 where the operation names no address (that INFO0 is the model's choice, log entry 117; so is the cost of 350 cycles for
each table read of a TLB miss on ROOPEN's way, log entry 116). -/
def Obligations.SyncRequests : Prop :=
  ∀ (s : State) (d b v e n : BitVec 5) (a : BitVec 6) (o : BitVec 3) (t p : BitVec 2) (u : BitVec 1) (w : BitVec 6),
    let A := s.me.vreg a
    let va := s.rs b
    let x32 := (s.rs v).setWidth 32
    let each (mk : Word → Req) (size : Nat) : List (Req × BitVec 64) :=
      (elems A).mapIdx fun k y => (mk y, va + BitVec.ofNat 64 (size * k))
    let count := (s.rs n).toNat
    let toDirectory (i : Instr) (r : Req) (ps : List Nat) : Prop :=
      match s.dirFaults 0 .wr ps with
      | f :: _ => Goes (exec i s) (Raises f s)
      | [] => Goes (exec i s) (Flies 1 (s.flight pAT (s.cycle + latency s.u directory) false true [] (.req r 0 [.s (s.ps d)])) s)
    AskOut (.atom d b v o t u) s (.atom o t (decide (u = 1)) (s.rs v)) va [.s (s.ps d)] [] ∧
    TellOut (.atomN b v o t u) s [(.atom o t (decide (u = 1)) (s.rs v), va)] 1 ∧
    AskOut (.acas d b e v t) s (.acas t (s.rs e) (s.rs v)) va [.s (s.ps d)] [] ∧
    TellOut (.rsf v b) s [(.rsf x32, va)] 1 ∧
    TellOut (.rsb v b) s [(.rsb x32, va)] 1 ∧
    TellOut (.rso v b e w) s [(.rso w ((s.rs e).setWidth 32) x32, va)] 1 ∧
    TellOut (.rsfV a b p) s (each .rsf 4) (s.vecOcc va (4 * (elems A).length) A.length) ∧
    TellOut (.rsbV a b p) s (each .rsb 32) (s.vecOcc va (32 * (elems A).length) A.length) ∧
    TellOut (.rsoV a b e w p) s (each (.rso w ((s.rs e).setWidth 32)) 4) (s.vecOcc va (4 * (elems A).length) A.length) ∧
    (let q := s.reqReach s.u (s.ctxOf s.u) true (.roopen w count false) va
     let place := match q with | .ok q => q.spans.map (·.1) | .error _ => []
     match lowestFault (faultOf q ++ s.dirFaults va .wr place ++ if 1 ≤ count ∧ count ≤ 4096 then [] else [prot 0x10 (s.rs n)]) with
     | some f => Goes (exec (.roopen d b n w) s) (Raises f s)
     | none => ∀ c, q = .ok c → Within s c → Goes (exec (.roopen d b n w) s)
         (Flies 1 (s.flight pAT (s.cycle + latency s.u directory + 350 * c.levels) true true c.spans
           (.req (.roopen w count false) va [.s (s.ps d)])) s)) ∧
    toDirectory (.roopenX d w) (.roclose w false) (s.winPlace (s.ctxOf s.u) w) ∧
    TellOut (.binit e b) s [(.binit ((s.rs e).setWidth 16), va)] 1 ∧ TellOut (.bnorm b) s [(.bnorm, va)] 1 ∧
    (count ≤ 4096 →
      TellOut (.binitV e b n) s ((List.range count).map fun k => (.binit ((s.rs e).setWidth 16), va + BitVec.ofNat 64 (32 * k)))
        (s.vecOcc va (32 * count) 0) ∧
      TellOut (.bnormV b n) s ((List.range count).map fun k => (.bnorm, va + BitVec.ofNat 64 (32 * k)))
        (s.vecOcc va (32 * count) 0)) ∧
    AskOut (.dqpush b v d) s (.push (s.rs v)) va [.s (s.ps d)] [] ∧
    AskOut (.dqpop d b e) s .pop va [.s (s.ps e), .s (s.ps d)] [] ∧
    AskOut (.dqsteal d b e) s .steal va [.s (s.ps e), .s (s.ps d)] [] ∧
    AskOut (.bara d b) s .bara va [.s (s.ps d)] (s.barrierFaults va) ∧
    AskOut (.sdclaim d b) s .claim va [.s (s.ps d)] (s.dirFaults va .rd []) ∧
    toDirectory (.sdfree d b) (.free va) []

/-- The finishing of BN3 objects, growth of a group and the waits at ports (R204, R210, R211, R214): BFIN and BFIN.V issue
with the request on its way to all of their objects, BFIN.V of none with an empty register, and of more than 4,096 raises
RUN_OVERFLOW (that an object is finished in a step of its own is log entry 91); TGROW issues with its request on its way to the record, the group counted as growing, and raises PROTECTION
0x0B for a count that is 0 or above 2^31 or outside a task, 0x01 for a record beyond a failed link; BARW and WAITM watch their word at its port. -/
def Obligations.SyncWaits : Prop :=
  ∀ (s : State) (d b v n : BitVec 5) (a : BitVec 6) (c : BitVec 3) (o : BitVec 12),
    let va := s.rs b
    let k := (s.rs n).toNat
    let fin (i : Instr) (vec : Bool) (k : Nat) (dst : Stor) : Prop :=
      ∀ qs : List Reach, (List.range k).map (fun j =>
          s.reqReach s.u (s.ctxOf s.u) true (.bfin vec k [] 0) (va + BitVec.ofNat 64 (32 * j))) = qs.map .ok →
        let r : Reach := ⟨qs.flatMap (·.spans), qs.flatMap (·.tlb)⟩
        let occ := if vec then s.vecOcc va (32 * k) k else 1
        Within s r → Goes (exec i s) (Flies occ (s.flight pAT (s.cycle + r.latency s.u) true false r.spans
          (.req (.bfin vec k [] 0) va [dst])) s)
    fin (.bfin d b) false 1 (.s (s.ps d)) ∧
    (1 ≤ k → k ≤ 4096 → fin (.bfinV b n a) true k (.v a)) ∧
    (k = 0 → Goes (exec (.bfinV b n a) s) (Flies 1 (resultOf s 2 (.v a) (.runs []) 0) s)) ∧
    (4096 < k → Goes (exec (.bfinV b n a) s) (Raises (runOverflow k) s)) ∧
    ((k = 0 ∨ 2 ^ 31 < k ∨ s.me.task = none) → Goes (exec (.tgrow d n) s) (Raises (prot 0x0B (s.rs n)) s)) ∧
    (1 ≤ k → k ≤ 2 ^ 31 → ∀ y g, s.me.task = some y → s.groupOf y = some g →
      s.routeBad (dieOf s.u) (placeDie g.place) = true → Goes (exec (.tgrow d n) s) (Raises ((prot 0x01 g.recd).on pAT .rw) s)) ∧
    (1 ≤ k → k ≤ 2 ^ 31 → ∀ y g, s.me.task = some y → s.groupOf y = some g →
      s.routeBad (dieOf s.u) (placeDie g.place) = false → Goes (exec (.tgrow d n) s) fun t =>
      (∀ u, regs (t.unit u) = regs (s.unit u)) ∧ Left s t 1 ∧ t.mem = s.mem ∧
      t.groups = s.groups.map (fun x => if x.ctx = g.ctx ∧ x.recd = g.recd ∧ x.num = g.num then { x with growing := x.growing + 1 } else x) ∧
      t.flights = s.flights ++ [s.flight pAT (s.cycle + spanLatency s.u [(g.place + 32, 4)]) true true [(g.place + 32, 4)]
        (.req (.grow (s.rs n)) y.group [.s (s.ps d)])]) ∧
    WatchOut (.barw b v) s va 64 8 4 (fun sp => sp == 1 || sp == 2) 6 (s.rs v) (s.barrierFaults va) ∧
    WatchOut (.waitm v b c o) s (va + o.signExtend 64) 8 0 8 (fun _ => true) c (s.rs v) []

/-- The operations of controllers (R216 to R218): EVPOP takes the oldest event into its registers or waits for one, EVPOP.NB
answers zeros instead, and the place that it frees goes to a held fault event, then to a held group completion (the order of
the two is the model's choice, log entry 124), LAUNCH leaves for its record once earlier accesses have performed, NOTIFY sends its
vector. That LAUNCH raises PROTECTION 0x04 for an undefined space too is the model's reading (log entry 103); that NOTIFY's message is
no access of R13 is its choice (log entry 133). -/
def Obligations.ControllerOperations : Prop :=
  ∀ (s : State) (d e b : BitVec 5) (n : BitVec 11),
    let va := s.rs b
    let pair (x y : BitVec 64) : Flight := s.flight pNone (s.cycle + 2) false false []
      (.result [(.s (s.ps d), .scalar x), (.s (s.ps e), .scalar y)] 0)
    let pops (i : Instr) : Prop := ∀ y r, s.me.events = y :: r → Goes (exec i s) fun t =>
      t.flights = s.flights ++ [pair y.w0 y.w1] ∧ Left s t 1 ∧ t.mem = s.mem ∧
      (t.unit s.u).events ++ (t.unit s.u).held ++ (t.unit s.u).owed = r ++ s.me.held ++ s.me.owed ∧
      (s.me.held = [] → s.me.owed = [] → (t.unit s.u).events = r) ∧ ∀ u, u ≠ s.u → t.unit u = s.unit u
    let before (a : Nat) (ps : List (BitVec 3)) : Prop := ∀ f ∈ s.flights, s.fenced s.u s.cur.op.seq a ps f = false
    Heads s →
    pops (.evpop d e) ∧ pops (.evpopNb d e) ∧
    (s.me.events = [] → Waits (.evpop d e) s ∧ Goes (exec (.evpopNb d e) s) (Flies 1 (pair 0 0) s)) ∧
    (va.toNat / 2 ^ 60 ≠ 1 → Goes (exec (.launch b) s) (Raises ((prot 0x04 va).on pAT .rd) s)) ∧
    (va.toNat / 2 ^ 60 = 1 → ¬ before 3 [pSL, pAT] → Waits (.launch b) s) ∧
    (va.toNat / 2 ^ 60 = 1 → before 3 [pSL, pAT] → AskOut (.launch b) s (.launch true) va [] []) ∧
    (before 4 [pSL, pAT, pAC] → (∀ x ∈ s.xfers, x.unit = s.u → x.seq < s.cur.op.seq → s.xferOpen x = false) →
      Goes (exec (.notify n) s) fun t => Left s t 1 ∧ t.mem = s.mem ∧ t.flights = s.flights ∧
        (∀ u, regs (t.unit u) = regs (s.unit u)) ∧
        (s.glob.msixEnable = true → (s.glob.vector n.toNat).getLsbD 96 = false →
          t.hostOut = s.hostOut ++ [.vector n.toNat] ∧ t.glob = s.glob) ∧
        ((s.glob.msixEnable = false ∨ (s.glob.vector n.toNat).getLsbD 96 = true) →
          t.hostOut = s.hostOut ∧ n.toNat ∈ t.glob.msixPending))

/-- Atomics at their port (R198, R200): the new word or doubleword in memory by its formula, nothing else of memory written,
and the old value, sign-extended where it is I32, on its way back (nowhere for the non-returning form). A compare that fails
writes nothing. Two additions to a word that the port merges are applied in one step, one after the other, each with its own answer
(R194; that the move names how many entries are merged is the MODEL's, log entry 112).

Deques and barriers at their port (R207 to R210): DQPUSH writes the entry at BOTTOM and raises BOTTOM, DQPOP takes the
newest and DQSTEAL the oldest, of an empty or full deque nothing is written; the last arrival of a barrier clears its count
and turns its phase, any other counts itself, and each is answered with the phase it found. A malformed deque is answered with 3
and a malformed barrier, or one that is full, with all ones, and nothing is written.

FP32 atomics and reduce-stores at their port (R198, R199, R203 to R206): the new value and the flags in AXR; a deposit, an
initialised, a normalised and a finished BN3 object, of BFIN.V one of many in a step of its own, the last with the vector of all of
them (log entry 91), the exact sums that they keep (R90, R91); an entry of an ordered window,
the whole window applied in the order of address and identifier, windows opened and closed by the directory. The MODEL's readings: a
ROOPEN of a window that is closing waits (log entry 90), and the queue entries reserved are those of the windows of the request's
context and of the running one (log entry 93).

TGROW, LAUNCH, SDCLAIM and SDFREE where they are served (R24, R25, R211 to R213): COUNT raised, or PROTECTION 0x0B; a record's RW
fields and its group, or STATUS 0b11 and PROTECTION, which no one takes for a LAUNCH that its controller's stop has outlived; of two faults
of one bundle in one cycle the lowest slot's goes first (R134); a lease granted, refused or freed. -/
def Obligations.PortOperations : Prop :=
  (∀ (s : State) (f : Flight) (u : Bool) (x e va : BitVec 64) (d : Stor) (p : Nat), MemoryOk s →
     let w : Word := rd32 s.mem p
     let z : BitVec 64 := rd64 s.mem p
     let x32 : Word := x.setWidth 32
     let i32 (o : BitVec 3) (u : Bool) (new : Word) : Prop := ∀ ds, ds = [] ∨ ds = [d] →
       s.arg.m = 0 → AtPort s f (.atom o 0 u x) va ds p → Goes (exec .portSyncOperation s) fun t =>
         rd32 t.mem p = new ∧ Else p 4 s t ∧ Answers f (ds.map fun r => (r, .scalar (w.signExtend 64))) 0 0 s t ∧
         t.units = s.units
     let i64 (o : BitVec 3) (u : Bool) (new : BitVec 64) : Prop := ∀ ds, ds = [] ∨ ds = [d] →
       s.arg.m = 0 → AtPort s f (.atom o 1 u x) va ds p → Goes (exec .portSyncOperation s) fun t =>
         rd64 t.mem p = new ∧ Else p 8 s t ∧ Answers f (ds.map fun r => (r, .scalar z)) 0 0 s t ∧ t.units = s.units
     i32 0 u (w + x32) ∧ i32 1 u (w &&& x32) ∧ i32 2 u (w ||| x32) ∧ i32 3 u (w ^^^ x32) ∧
     i32 4 false (if x32.toInt < w.toInt then x32 else w) ∧ i32 4 true (if x32 < w then x32 else w) ∧
     i32 5 false (if w.toInt < x32.toInt then x32 else w) ∧ i32 5 true (if w < x32 then x32 else w) ∧ i32 6 u x32 ∧
     i64 0 u (z + x) ∧ i64 1 u (z &&& x) ∧ i64 2 u (z ||| x) ∧ i64 3 u (z ^^^ x) ∧
     i64 4 false (if x.toInt < z.toInt then x else z) ∧ i64 4 true (if x < z then x else z) ∧
     i64 5 false (if z.toInt < x.toInt then x else z) ∧ i64 5 true (if z < x then x else z) ∧ i64 6 u x ∧
     (AtPort s f (.acas 0 e x) va [d] p → Goes (exec .portSyncOperation s) fun t =>
       rd32 t.mem p = (if w = e.setWidth 32 then x32 else w) ∧ Else p 4 s t ∧
       Answers f [(d, .scalar (w.signExtend 64))] 0 0 s t) ∧
     (AtPort s f (.acas 1 e x) va [d] p → Goes (exec .portSyncOperation s) fun t =>
       rd64 t.mem p = (if z = e then x else z) ∧ Else p 8 s t ∧ Answers f [(d, .scalar z)] 0 0 s t) ∧
     (s.arg.m = 0 → AtPort s f (.rsf x32) va [] p → Goes (exec .portSyncOperation s) fun t =>
       rd32 t.mem p = BitVec.ofNat 32 (addF 0 0 (decodeF fp32 w.toNat) (decodeF fp32 x32.toNat)).1 ∧ Else p 4 s t) ∧
     (∀ (g : Flight) (v : Bool) (y vb : BitVec 64) (e : Stor),
       let pending (h : Flight) : Prop := (s.entryAt f).pendingIn (p / 64) h = true
       let back (h : Flight) (r : Stor) (z : Word) : Flight := { h with
         due := s.cycle + 4, reads := false, writes := false, spans := [], what := .result [(r, .scalar (z.signExtend 64))] 0 }
       s.arg.m = 1 → AtPort s f (.atom 0 0 u x) va [d] p → g ∈ s.flights → g.id ≠ f.id → g.what = .req (.atom 0 0 v y) vb [e] →
       g.place = p → pending g → (∀ h ∈ s.flights, h.id ≠ f.id → pending h → h = g) → Goes (exec .portSyncOperation s) fun t =>
         rd32 t.mem p = w + x32 + y.setWidth 32 ∧ Else p 4 s t ∧ t.units = s.units ∧ t.flights = s.flights.map fun h =>
           if h.id = f.id then back h d w else if h.id = g.id then back h e (w + x32) else h)) ∧
  (∀ (s : State) (f : Flight) (x va : BitVec 64) (d e : Stor) (p : Nat), MemoryOk s →
     let top := rd64 s.mem p
     let bot := rd64 s.mem (p + 8)
     let lg := (rdByte s.mem (p + 16)).toNat
     let cap := 2 ^ lg
     let n := (bot - top).toNat
     let ring (j : BitVec 64) : Nat := p + 64 + 8 * (j.toNat % cap)
     let good : Prop := (∀ k, 17 ≤ k → k < 64 → rdByte s.mem (p + k) = 0) ∧ 1 ≤ lg ∧ lg ≤ 20 ∧ n ≤ cap ∧
       p % 2 ^ 25 + 64 + 8 * cap ≤ 2 ^ 25
     let size := rd32 s.mem p
     let here := rd32 s.mem (p + 4)
     let phase := rd32 s.mem (p + 8)
     (good → AtPort s f (.push x) va [d] p → Goes (exec .portSyncOperation s) fun t =>
       if n = cap then t.mem = s.mem ∧ Answers f [(d, .scalar 2)] 0 0 s t
       else rd64 t.mem (ring bot) = x ∧ rd64 t.mem (p + 8) = bot + 1 ∧ rd64 t.mem p = top ∧
         Answers f [(d, .scalar 0)] 0 0 s t ∧ ∀ a, (a < ring bot ∨ ring bot + 8 ≤ a) → (a < p + 8 ∨ p + 16 ≤ a) →
           rdByte t.mem a = rdByte s.mem a) ∧
     (¬ good → AtPort s f (.push x) va [d] p → Goes (exec .portSyncOperation s) fun t =>
       t.mem = s.mem ∧ Answers f [(d, .scalar 3)] 0 0 s t) ∧
     (¬ good → AtPort s f .pop va [d, e] p ∨ AtPort s f .steal va [d, e] p → Goes (exec .portSyncOperation s) fun t =>
       t.mem = s.mem ∧ Answers f [(d, .scalar 3), (e, .scalar 0)] 0 0 s t) ∧
     (good → AtPort s f .pop va [d, e] p → Goes (exec .portSyncOperation s) fun t =>
       if n = 0 then t.mem = s.mem ∧ Answers f [(d, .scalar 1), (e, .scalar 0)] 0 0 s t
       else rd64 t.mem (p + 8) = bot - 1 ∧ Else (p + 8) 8 s t ∧
         Answers f [(d, .scalar 0), (e, .scalar (rd64 s.mem (ring (bot - 1))))] 0 0 s t) ∧
     (good → AtPort s f .steal va [d, e] p → Goes (exec .portSyncOperation s) fun t =>
       if n = 0 then t.mem = s.mem ∧ Answers f [(d, .scalar 1), (e, .scalar 0)] 0 0 s t
       else rd64 t.mem p = top + 1 ∧ Else p 8 s t ∧
         Answers f [(d, .scalar 0), (e, .scalar (rd64 s.mem (ring top)))] 0 0 s t) ∧
     (AtPort s f .bara va [d] p → ((∃ k, 12 ≤ k ∧ k < 64 ∧ rdByte s.mem (p + k) ≠ 0) ∨ ¬ here < size) →
       Goes (exec .portSyncOperation s) fun t => t.mem = s.mem ∧ Answers f [(d, .scalar (BitVec.allOnes 64))] 0 0 s t) ∧
     (AtPort s f .bara va [d] p → (∀ k, 12 ≤ k → k < 64 → rdByte s.mem (p + k) = 0) → here < size →
       Goes (exec .portSyncOperation s) fun t =>
         rd32 t.mem (p + 4) = (if here + 1 = size then 0 else here + 1) ∧
         rd32 t.mem (p + 8) = (if here + 1 = size then phase + 1 else phase) ∧ Else (p + 4) 8 s t ∧
         Answers f [(d, .scalar (phase.setWidth 64))] 0 0 s t)) ∧
  (∀ (s : State) (f : Flight) (va : BitVec 64) (x y : Word) (e : BitVec 16) (u : Bool) (d : Stor) (p k : Nat) (w : BitVec 6),
     MemoryOk s → CtxsOk s →
     let c := s.flightCtx f
     let C := s.ctx c.toNat
     let port (r : Req) (ds : List Stor) (P : State → Prop) : Prop :=
       AtPort s f r va ds p → Goes (exec .portSyncOperation s) P
     let turn (due : Nat) (r : Req) (t : State) : Prop := t.flights = s.flights.map fun g =>
       if g.id == f.id then { g with due := due, what := .req r va [d] } else g
     let a := rd32 s.mem p
     let fa : FV := decodeF fp32 a.toNat
     let fx : FV := decodeF fp32 x.toNat
     let flags (fl : BitVec 5) (t : State) : Prop := Tab.wf 0 C.axr = true →
       ∀ j, Tab.get 0 (t.ctx c.toNat).axr j = Tab.get 0 C.axr j ||| if j = portOf p then fl &&& 0x17 else 0
     let f32 (o : BitVec 3) (r : Nat × BitVec 5) : Prop := ∀ ds, ds = [] ∨ ds = [d] →
       port (.atom o 2 u (x.setWidth 64)) ds fun t => rd32 t.mem p = BitVec.ofNat 32 r.1 ∧ Else p 4 s t ∧
         Answers f (ds.map fun q => (q, .scalar (a.setWidth 64))) r.2 0 s t ∧ flags r.2 t
     let bits (r : FV × BitVec 5) : Nat × BitVec 5 := (bits32 r.1, r.2)
     let o := bn3Of (rdBytes s.mem p 32)
     let object (r : Req) (bs : List Byte) : Prop := port r [] fun t =>
       rdBytes t.mem p 32 = bs ∧ Else p 32 s t ∧ Answers f [] 0 0 s t
     let applied (q : List (Nat × Word × Word)) : List Host.Cell := (sortReqs q).foldl (fun m z =>
       wrBytes m z.1 (leBytes 4 (addF 0 0 (decodeF fp32 (rd32 m z.1).toNat) (decodeF fp32 z.2.2.toNat)).1)) s.mem
     let win := Tab.get none C.wins w.toNat
     let win' (t : State) := Tab.get none (t.ctx c.toNat).wins w.toNat
     let shut (t : State) : Prop := Tab.wf none C.wins = true → win' t = none
     f32 0 (addF 0 0 fa fx) ∧ f32 4 (bits (minmaxF false fa fx)) ∧ f32 5 (bits (minmaxF true fa fx)) ∧ f32 6 (x.toNat, 0) ∧
     (s.arg.m = 0 → port (.rsf x) [] fun t => flags (addF 0 0 fa fx).2 t ∧ Answers f [] 0 0 s t) ∧
     (s.arg.m = 0 → object (.rsb x) (o.deposit fx).bytes) ∧ object (.binit e) (leBytes 8 (e.toNat * 2 ^ 16) ++ List.replicate 24 0) ∧
     object .bnorm o.normalise.bytes ∧
     (f.spans = [(p, 32)] → s.arg.m = 0 → port (.bfin false 1 [] 0) [d] fun t => t.mem = s.mem ∧ flags o.finish.2 t ∧
       Answers f [(d, .scalar ((BitVec.ofNat 32 o.finish.1).setWidth 64))] o.finish.2 0 s t) ∧
     (∀ (got : List (Nat × Word)) (fl : BitVec 5) (n : Nat),
       let m := s.arg.m
       let made : Word := BitVec.ofNat 32 o.finish.1
       let part (i : Nat) : Word := if i = m then made else ((got.find? fun g => g.1 == i).map (·.2)).getD 0
       let going (P : State → Prop) : Prop := s.flights[s.arg.n]? = some f → f.what = .req (.bfin true n got fl) va [d] →
         f.parked = false → f.bad = none → f.spans[m]? = some (p, 32) → s.mayPerform { f with spans := [(p, 32)] } = true →
         (∀ g ∈ got, g.1 ≠ m) → Goes (exec .portSyncOperation s) fun t => t.mem = s.mem ∧ t.units = s.units ∧ flags o.finish.2 t ∧ P t
       (got.length + 1 < n → going fun t => t.flights = s.flights.map fun g =>
         if g.id == f.id then { g with what := .req (.bfin true n ((m, made) :: got) (fl ||| o.finish.2)) va [d] } else g) ∧
       (n ≤ got.length + 1 → going fun t =>
         Answers f [(d, .runs ((List.range n).map fun i => ⟨part i, 1, decide (i = 0)⟩))] (fl ||| o.finish.2) 0 s t)) ∧
     (∀ v, win = some v → v.opened = true → portOf v.place = portOf p →
       let q := v.queue ++ [(p, y, x)]
       port (.rso w y x) [] fun t => Answers f [] 0 0 s t ∧
         (q.length < v.expect → t.mem = s.mem ∧ win' t = some { v with queue := q }) ∧
         (v.expect ≤ q.length → t.mem = applied q ∧ shut t)) ∧
     ((∀ v, win = some v → ¬ (v.opened = true ∧ portOf v.place = portOf p)) → port (.rso w y x) [] fun t =>
       t = (s.logFault (s.flightWho f) ((prot 0x13 va).on pAT .wr)).dropFlight f) ∧
     (s.closing c w = true → port (.roopen w k false) [d] fun t => t = s) ∧
     (s.closing c w = false → ∀ v, win = some v → port (.roopen w k false) [d] fun t => t.mem = s.mem ∧ t.ctxs = s.ctxs ∧
       Answers f [(d, .scalar 1)] 0 (dirTrip v.place) s t) ∧
     (s.closing c w = false → win = none → 1 ≤ k → port (.roopen w k false) [d] fun t => t.mem = s.mem ∧
       (4096 < k + s.reserved c (portOf p) → t.ctxs = s.ctxs ∧ Answers f [(d, .scalar 2)] 0 (dirTrip p) s t) ∧
       (k + s.reserved c (portOf p) ≤ 4096 → win' t = some ⟨p, false, k, []⟩ ∧
         turn (s.cycle + dirTrip p / 2) (.roopen w k true) t)) ∧
     (∀ v, win = some v → port (.roopen w k true) [d] fun t => t.mem = s.mem ∧ win' t = some { v with opened := true } ∧
       Answers f [(d, .scalar 0)] 0 (dirTrip p / 2) s t) ∧
     (win = none → port (.roclose w u) [d] fun t => t.mem = s.mem ∧
       Answers f [(d, .scalar 3)] 0 (if u = true then dirTrip p / 2 else 0) s t) ∧
     (∀ v, win = some v → s.closing c w = false → port (.roclose w false) [d] fun t => t.mem = s.mem ∧
       t.flights = s.flights.map fun g => if g.id == f.id then { g with
         due := s.cycle + dirTrip v.place / 2, spans := [(v.place, 0)], what := .req (.roclose w true) va [d] } else g) ∧
     ∀ v, win = some v → v.opened = true → port (.roclose w true) [d] fun t => t.mem = applied v.queue ∧ shut t ∧
       Answers f [(d, .scalar (BitVec.ofNat 64 v.queue.length))] 0 (dirTrip v.place / 2) s t) ∧
  (∀ (o : Bn3) (neg : Bool) (m : Nat) (z : Int) (q : List (Nat × Word × Word)),
     let value (o : Bn3) : Int := o.b0 + o.b1 * 2 ^ 32 + o.b2 * 2 ^ 64
     (o.dcnt < 2 ^ 31 → m ≠ 0 → o.etop - 95 ≤ z → z + (Nat.log2 m : Int) ≤ o.etop →
       value (o.deposit (.num neg m z)) = value o + (if neg then -1 else 1) * (m : Int) * 2 ^ (z - (o.etop - 95)).toNat ∧
       (o.deposit (.num neg m z)).dcnt = o.dcnt + 1 ∧ (o.deposit (.num neg m z)).ovf = o.ovf) ∧
     value o.normalise = value o ∧ o.normalise.dcnt = 1 ∧ 0 ≤ o.normalise.b0 ∧ o.normalise.b0 < 2 ^ 32 ∧
     0 ≤ o.normalise.b1 ∧ o.normalise.b1 < 2 ^ 32 ∧
     (sortReqs q).Perm q ∧ (sortReqs q).Pairwise fun i j => i.1 < j.1 ∨ i.1 = j.1 ∧ i.2.1.toNat ≤ j.2.1.toNat) ∧
  (∀ (s : State) (f : Flight) (y va : BitVec 64) (d : Stor) (p : Nat), MemoryOk s → CtxsOk s →
     let c := s.flightCtx f
     let leases := (s.ctx c.toNat).leases
     let port (r : Req) (ds : List Stor) (P : State → Prop) : Prop :=
       AtPort s f r va ds p → Goes (exec .portSyncOperation s) P
     let handling : Prop := (s.unit f.unit).spr.sup = true ∧ f.sup = false
     let lower : Prop := s.lowerReady f.unit f.slot f.seq = true
     let noted (sub : BitVec 8) (t : State) : Prop := s.current f = true → ¬ handling → (s.unit f.unit).disp.pend = none →
       ∃ q, (t.unit f.unit).disp.pend = some q ∧ q.code = 0x19 ∧ q.sub = sub ∧ q.seq = f.seq ∧ q.slot = f.slot
     let lease := claimLease leases (rdBytes s.mem p 64)
     let b := leNat (rdBytes s.mem p 64)
     let word8 (t : State) : BitVec 32 := rd32 t.mem (p + 8)
     (port .claim [d] fun t => t.mem = s.mem ∧ (t.ctx c.toNat).leases = lease.2 ∧
       Answers f [(d, .scalar (BitVec.ofNat 64 lease.1))] 0 0 s t) ∧
     (port (.free y) [d] fun t => t.mem = s.mem ∧
       if y.toNat ≤ 63 ∧ Tab.get none leases y.toNat ≠ none then
         Answers f [(d, .scalar (BitVec.ofNat 64 (256 * y.toNat)))] 0 0 s t ∧ (Tab.wf none leases = true →
           ∀ j, Tab.get none (t.ctx c.toNat).leases j = if j = y.toNat then none else Tab.get none leases j)
       else (t.ctx c.toNat).leases = leases ∧
         Answers f [(d, .scalar (BitVec.ofNat 64 (1 + if y.toNat ≤ 63 then 256 * y.toNat else 0)))] 0 0 s t) ∧
     (∀ g, f.task.bind s.groupOf = some g →
       let n := s.gword g 32
       (n.toNat + y.toNat < 2 ^ 32 → (1 < g.growing ∨ s.gword g 24 ≠ n + y.setWidth 32) → port (.grow y) [d] fun t =>
         rd32 t.mem (g.place + 32) = n + y.setWidth 32 ∧ Else (g.place + 32) 4 s t ∧
         Answers f [(d, .scalar (n.setWidth 64))] 0 0 s t ∧ t.groups = s.groups.map fun z =>
           if z.ctx = g.ctx ∧ z.recd = g.recd ∧ z.num = g.num then { z with growing := z.growing - 1 } else z) ∧
       (2 ^ 32 ≤ n.toNat + y.toNat → s.current f = true → ¬ handling → (s.unit f.unit).disp.pend = none → lower →
         AtPort s f (.grow y) va [d] p → Waits .portSyncOperation s) ∧
       (2 ^ 32 ≤ n.toNat + y.toNat → ¬ lower → (1 < g.growing ∨ s.gword g 24 ≠ n) → port (.grow y) [d] fun t =>
         t.mem = s.mem ∧ t.flights = s.flights.filter (·.id != f.id) ∧ noted 0x0B t)) ∧
     (∀ live, s.launchFault (dieOf f.unit) b = none → port (.launch live) [] fun t =>
       rd32 t.mem (p + 4) = 0xFFFFFFFF ∧ word8 t = word8 s &&& ~~~(3#32 <<< 11) ∧ rd32 t.mem (p + 24) = 0 ∧
       rd32 t.mem (p + 28) = 0 ∧ (∀ a, a < p + 4 ∨ p + 12 ≤ a → a < p + 24 ∨ p + 32 ≤ a → rdByte t.mem a = rdByte s.mem a) ∧
       t.groups = s.groups ++ [groupOfRecord c va p f.unit b f.id] ∧ Answers f [] 0 0 s t) ∧
     (∀ sub, s.launchFault (dieOf f.unit) b = some sub → s.current f = true → ¬ handling → (s.unit f.unit).disp.pend = none → lower →
       AtPort s f (.launch true) va [] p → Waits .portSyncOperation s) ∧
     (∀ sub, s.launchFault (dieOf f.unit) b = some sub → port (.launch false) [] fun t =>
       word8 t = word8 s ||| (3#32 <<< 11) ∧ Else (p + 8) 4 s t ∧ t.groups = s.groups ∧ Answers f [] 0 0 s t ∧ t.units = s.units) ∧
     ∀ sub, s.launchFault (dieOf f.unit) b = some sub → ¬ lower → port (.launch true) [] fun t =>
       word8 t = word8 s ||| (3#32 <<< 11) ∧ Else (p + 8) 4 s t ∧ t.groups = s.groups ∧ Answers f [] 0 0 s t ∧ noted sub t) ∧
  (∀ (s : State) (d b : Nat) (t : Tab (Option Lease)) (bs : List Byte),
     let fl (lo n : Nat) : Nat := b / 2 ^ lo % 2 ^ n
     let named (i : Nat) : Prop := b / 2 ^ (96 + i) % 2 = 1
     let units : Nat := (List.range 96).countP fun i => b / 2 ^ (96 + i) % 2 == 1
     let absent : Prop := ∃ i, i < 96 ∧ named i ∧ s.routeBad d (i / 4) = true
     let wrong : Prop := 2 ≤ fl 78 2 ∨ fl 96 96 = 0 ∨ fl 93 3 ≠ 0 ∨ fl 64 9 ≠ 0 ∨ fl 0 16 ≠ 0 ∨ fl 256 32 = 0 ∨
       fl 77 1 = 1 ∧ (if fl 78 2 = 0 then 4 * units else units) < fl 256 32 ∨ fl 78 2 = 1 ∧ fl 288 32 % 16384 ≠ 0
     let num (off n : Nat) : Nat := leNat ((bs.drop off).take n)
     let four (off : Nat) : List Word := (List.range 4).map fun i => BitVec.ofNat 32 (num (off + 4 * i) 4)
     let l : Lease := ⟨BitVec.ofNat 64 (num 0 8), BitVec.ofNat 64 (num 8 8), four 16, four 32⟩
     let bad : Prop := (∃ x ∈ bs.drop 48, x ≠ 0) ∨ ∃ i, i < 4 ∧ num (32 + 4 * i) 4 < num (16 + 4 * i) 4
     let live (i : Nat) : Option Lease := Tab.get none t i
     let meets (i : Nat) : Prop := ∃ k, live i = some k ∧ k.name = l.name ∧ k.seed = l.seed ∧
       ∀ j, j < 4 → (k.lo.getD j 0).toNat ≤ (l.hi.getD j 0).toNat ∧ (l.lo.getD j 0).toNat ≤ (k.hi.getD j 0).toNat
     (absent → s.launchFault d b = some 0x01) ∧ (¬ absent → wrong → s.launchFault d b = some 0x08) ∧
     (¬ absent → ¬ wrong → s.launchFault d b = none) ∧
     (bad → claimLease t bs = (3, t)) ∧
     (¬ bad → ∀ i, i < 64 → meets i → (∀ j, j < i → ¬ meets j) → claimLease t bs = (1 + 256 * i, t)) ∧
     (¬ bad → (∀ i, i < 64 → ¬ meets i) → (∀ i, i < 64 → live i ≠ none) → claimLease t bs = (2, t)) ∧
     (¬ bad → (∀ i, i < 64 → ¬ meets i) → ∀ i, i < 64 → live i = none → (∀ j, j < i → live j ≠ none) →
       claimLease t bs = (256 * i, Tab.set none t i (some l))))

/-! ## The matrix engine -/

/-- Plane and sequence control (R263, R273): MZERO waits for the rows of earlier bundles into its bank (in Invar mode this
wait is SCHED_OVERRUN 0x02) and clears the bank as an exposed result one cycle on; MSWAP waits for a load and exchanges the
planes; MCOP writes CELLOP, or raises PROTECTION 0x17 for a reserved entry and changes nothing; MCOP.MAD clears it. -/
def Obligations.MatrixControl : Prop :=
  ∀ (s : State) (a : BitVec 3) (b : BitVec 5), Heads s →
    let e := s.me.eng
    let v : Word := (s.rs b).setWidth 32
    let rowsBefore : Prop := ∃ r ∈ s.rows, r.unit = s.u ∧ r.bank = a ∧ r.seq < s.cur.op.seq
    let invar : Prop := s.me.spr.inv = true ∧ s.me.spr.sup = false
    let reserved : Prop := ∃ i, i < 16 ∧ v.toNat / 4 ^ i % 4 = 3
    (¬ rowsBefore → Goes (exec (.mzero a) s) (Lands 1 (.mzero a) s)) ∧
    (rowsBefore → ¬ invar → Waits (.mzero a) s) ∧
    (rowsBefore → invar → Goes (exec (.mzero a) s) (Raises (schedFault 2 s.me.spr.sfc s.cur.op.stamp) s)) ∧
    (e.load ≠ none → Waits .mswap s) ∧
    (e.load = none → Goes (exec .mswap s) (Engine 1 { e with active := e.shadow, shadow := e.active } s)) ∧
    (reserved → Goes (exec (.mcop b) s) (Raises (prot 0x17 (v.setWidth 64)) s)) ∧
    (¬ reserved → Goes (exec (.mcop b) s) (Engine 1 { e with cellop := v } s)) ∧
    Goes (exec .mcopMad s) (Engine 1 { e with cellop := 0 } s)

/-- Loads of the shadow plane (R274, R275, R296): a load waits for the one before it, MGENB also for evaluations of another
kind (R296, as read in log entry 49, DEDUCED). MLDB issues with its load of 128 rows under way for 128 cycles, row k read in the cycle k + 1 after issue; MGENB with all of
its elements evaluated, rounded to the plane's format and committed 144 P cycles on, where no evaluation meets the image's
bound; MGENB.ADD with its generated values and a row of its bank group read every P cycles (that schedule is the MODEL's choice, log entry
149). The plane that a load then gives is that of the rows read, of MGENB.ADD each element combined with its generated value.

Where evaluation i is the first that meets the bound (R275, R297), MGENB issues, the planes stay as they are, and the fault
GEN_BOUND 0x02 of that evaluation is on its way to its detection, 16 P cycles after its admission in cycle ⌈(i + 1) P / 128⌉ − 1 (the
MODEL's reading, log entry 150); the engine is busy one cycle longer (log entry 49). -/
def Obligations.PlaneLoads : Prop :=
  ∀ (s : State) (g : BitVec 2) (n : BitVec 4) (sd f3 : BitVec 3) (a b c l : BitVec 5) (f sc : BitVec 2) (x : BitVec 1),
    let e := s.me.eng
    let efr : Byte := s.me.spr.efrm.extractLsb' 8 8
    let bits := if f3 = 0 ∨ f3 = 1 then 16 else if f3 = 4 then efrWidth efr else 8
    let held : Prop := e.load ≠ none ∨ s.genHeld 1 = true
    let fb : BitVec 3 := f.setWidth 3
    let z := if f = 0 ∨ f = 1 then 256 else 128
    let gb : BitVec 2 := (s.rs b).extractLsb' 21 2
    let c0 (k : Nat) : Word := (s.rs c).extractLsb' 0 32 + BitVec.ofNat 32 k
    let c1 (k : Nat) : Word := (s.rs c).extractLsb' 32 32 + BitVec.ofNat 32 k
    let busy (till : Nat) : List (BitVec 4 × Nat × Nat) := (n, 1, till) :: (e.genUses.filter fun u => decide (s.cycle < u.2.2))
    let whole (img : Image) : Prop := ∀ j k, j < 128 → k < 128 → ∃ w, evalGen img (s.me.seed sd) (c0 j) (c1 k) 0 0 = .ok w
    let pure (img : Image) (t : State) : Prop := whole img →
      ∃ p till, Engine 1 { e with load := some ⟨s.cycle + 144 * img.pace, none, p, true, false, none, [], 0⟩, genUses := busy till } s t ∧
        till = s.cycle + 144 * img.pace - 1 ∧ p.fb = fb ∧ p.scaled = false ∧
        ∀ j k w, j < 128 → k < 128 → evalGen img (s.me.seed sd) (c0 j) (c1 k) 0 0 = .ok w →
          (Tab.get 0 p.code (128 * j + k)).toNat = (rne (fmtOf (f.toNat + 1)) (decodeF fp32 w.toNat)).1 % 2 ^ 16
    let rows (place z pace : Nat) : Stream := streamOf s true
      ((List.range 128).map fun k => (s.cycle + 1 + k * pace, place + k * z, z)) (0, 0)
    let add (img : Image) (t : State) : Prop := whole img → ∃ vals : List Word,
      EngineReads { e with
        load := some ⟨s.cycle + 144 * img.pace, some gb, ⟨[], fb, 0, List.replicate 512 0, false⟩, true, false, some s.ids, vals,
          (s.rs l).setWidth 32⟩,
        genUses := busy (s.cycle + 144 * img.pace - 1) } (rows (groupPlace s.u gb (mxOff (s.rs b))) z img.pace) s t ∧
      ∀ j k w, j < 128 → k < 128 → evalGen img (s.me.seed sd) (c0 j) (c1 k) 0 0 = .ok w → vals[128 * j + k]? = some w
    let value (img : Image) (i : Nat) : Except Nat Word := evalGen img (s.me.seed sd) (c0 (i / 128)) (c1 (i % 128)) 0 0
    let broken (img : Image) (t : State) : Prop := ∀ i op, i < 128 * 128 → (∀ m, m < i → ∃ w, value img m = .ok w) →
      value img i = .error op →
        let due := s.cycle + (ceilDiv ((i + 1) * img.pace) 128 - 1) + 16 * img.pace
        let x := (t.unit s.u).eng
        Left s t 1 ∧ t.mem = s.mem ∧ t.landings = s.landings ∧ (∀ u, u ≠ s.u → t.unit u = s.unit u) ∧
        x.active = e.active ∧ x.shadow = e.shadow ∧ (∃ l, x.load = some l ∧ l.bad = true ∧ l.gen = true ∧ l.due = due) ∧
        x.genUses = (n, 1, due + 1) :: (e.genUses.filter fun u => decide (s.cycle < u.2.2)) ∧
        ∃ p : Pend, p.flt = genBound 2 img (s.me.seed sd) (c0 (i / 128)) (c1 (i % 128)) 0 0 0 n op ∧
          t.flights = s.flights ++ [{ s.flight pNone due false false [] (.bound none) with bad := some p }]
    (e.load ≠ none → Waits (.mldb g a f3 sc x) s) ∧
    (e.load = none → MxOut (.mldb g a f3 sc x) s (s.rs a) g (128 * (16 * bits)) [] [] (EngineReads { e with
      load := some ⟨s.cycle + 128, none, ⟨[], f3, efr, if x = 1 then s.me.scale sc else List.replicate 512 0, decide (x = 1)⟩, false, false,
        some s.ids, [], 0⟩ } (rows (groupPlace s.u g (mxOff (s.rs a))) (16 * bits) 1) s)) ∧
    (held → Waits (.mgenbPure n sd c f) s ∧ Waits (.mgenbAdd n sd c b l f) s) ∧
    (¬ held → s.me.gslot n = none → Goes (exec (.mgenbPure n sd c f) s) (Raises (Flt.of 0x11 0 0) s) ∧
      Goes (exec (.mgenbAdd n sd c b l f) s) (Raises (Flt.of 0x11 0 0) s)) ∧
    (¬ held → ∀ img, s.me.gslot n = some img →
      Goes (exec (.mgenbPure n sd c f) s) (pure img) ∧
      Goes (exec (.mgenbPure n sd c f) s) (broken img) ∧
      MxOut (.mgenbAdd n sd c b l f) s (s.rs b) gb (128 * z) [] [] (broken img) ∧
      MxOut (.mgenbAdd n sd c b l f) s (s.rs b) gb (128 * z) [] [] (add img)) ∧
    (∀ (m : MxLoad) (r : Stream) (j k : Nat), m.stream = some r.id → s.stream? r.id = some r → r.got.length = 128 → j < 128 → k < 128 →
      let w := if m.plane.fb = 0 ∨ m.plane.fb = 1 then 16 else if m.plane.fb = 4 then efrWidth m.plane.efr else 8
      let code : BitVec 16 := BitVec.ofNat 16 (leNat (r.got.getD (127 - j) []) / 2 ^ (w * k) % 2 ^ w)
      (s.loaded m).fb = m.plane.fb ∧ (s.loaded m).efr = m.plane.efr ∧ (s.loaded m).scaled = m.plane.scaled ∧
      (s.loaded m).scales = m.plane.scales ∧
      (m.gen = false → Tab.get 0 (s.loaded m).code (128 * j + k) = code) ∧
      (m.gen = true → ∀ v, m.vals.length = 128 * 128 → m.vals[128 * j + k]? = some v → Tab.get 0 (s.loaded m).code (128 * j + k) =
        BitVec.ofNat 16 (genElem (mxFmt m.plane.fb) (some (code.toNat, m.alpha)) v)))

/-- Passes (R264, R267, R269, R276 to R278): MMA, MMAT and MMA.RAG send M rows to their bank at the rate of their formats' pair. Row r
of A is read in the bank group in the cycle in which it streams, of MMAT 16 lines in a cycle, a strip of 128 lines for the 64 / size rows
that it serves, the banks of the group held over the occupancy; granules read ahead in a cycle count as they stood then (R117;
State.mxMem). What a row takes from the bytes read is its codes, at the element's width. In MMA.RAG only the cells accumulate whose row and
column belong to one sequence. MMAG
waits for evaluations of another kind and sends the rows that its generator makes, or, where evaluation i is the first that
meets the image's bound (R278, R279, R297), the rows before it, with the fault GEN_BOUND 0x03 of that evaluation on its way to
its detection. The rates are those of the table. The MODEL's choices: in which cycle an evaluation
is admitted (log entry 150), that MMAG waits for the evaluations of an MGENB too (log entry
49) and the layout of INFO0 of PROTECTION 0x16 (log entry 41). -/
def Obligations.MatrixPasses : Prop :=
  (∀ (s : State) (a f e : BitVec 3) (g : BitVec 2) (b p y : BitVec 5) (m : BitVec 7) (h : BitVec 3) (n : BitVec 4)
      (c : BitVec 2) (x : BitVec 1),
    let k := m.toNat + 1
    let sa := s.rs b
    let efr : Byte := s.me.spr.efrm.extractLsb' 0 8
    let bits := if f = 0 ∨ f = 1 then 16 else if f = 4 then efrWidth efr else 8
    let scales : Option (List Byte) := if x = 1 then some (s.me.scale c) else none
    let all : List Bool := List.replicate 128 true
    let rate (q : Nat × Nat) (r : Nat) : Nat := s.cycle + r * q.2 / q.1
    let rows (mm : Nat) (q : Nat × Nat) (at' : Nat) : List (Nat × Nat × Nat) :=
      (List.range mm).map fun r => (rate q r, at' + r * (16 * bits), 16 * bits)
    let sp := s.rs p
    let pitch := (sp.extractLsb' 0 16).toNat
    let mt := (sp.extractLsb' 16 7).toNat + 1
    let size := bits / 8
    let strips (q : Nat × Nat) (at' : Nat) : List (Nat × Nat × Nat) := (List.range (ceilDiv (mt * size) 64)).flatMap fun i =>
      (List.range 128).map fun j => (s.cycle + 64 / size * i * q.2 / q.1 + j / 16, at' + j * 64 * pitch + 64 * i, 64)
    let sx := s.rs y
    let ro := (sx.extractLsb' 0 24).toNat
    let co := (sx.extractLsb' 24 24).toNat
    let mr := (sx.extractLsb' 48 7).toNat + 1
    let sh := s.me.shape h
    let same (r j : Nat) : Bool := (sh.seqOf (ro + r)).isSome && sh.seqOf (ro + r) == sh.seqOf (co + j)
    let coord (r j : Nat) : Except Nat Word := match s.me.gslot n with
      | some img => evalGen img (s.me.seed e) ((s.rs b).extractLsb' 0 32 + BitVec.ofNat 32 r)
          ((s.rs b).extractLsb' 32 32 + BitVec.ofNat 32 j) 0 0
      | none => .error 0
    PassOut (.mma a g b m f c x) s a g sa k f scales (k * (16 * bits)) [] (rows k) .row false (fun _ => all) ∧
    (f ≠ 4 → PassOut (.mmat a g b p f c x) s a g sa mt f scales (128 * (64 * pitch))
      (if pitch % 2 = 0 then [bankConflict g sa] else []) strips
      (fun r => .column (128 * (r * size / 64)) (r * size % 64) size) true fun _ => all) ∧
    PassOut (.mmaRag a g b y h f c x) s a g sa mr f scales (mr * (16 * bits))
      (memberFaults h sh [(ro, ro + mr - 1), (co, co + 127)]) (rows mr) .row false
      (fun r => (List.range 128).map (same r)) ∧
    (s.genHeld 2 = true → Waits (.mmag a n e b m f) s) ∧
    (s.genHeld 2 = false → s.pairRate f = none → Goes (exec (.mmag a n e b m f) s)
      (Raises (prot 0x16 (BitVec.ofNat 64 (f.toNat * 256 + s.me.eng.active.fb.toNat))) s)) ∧
    (s.genHeld 2 = false → ∀ q, s.pairRate f = some q →
      (s.me.gslot n = none → Goes (exec (.mmag a n e b m f) s) (Raises (Flt.of 0x11 0 0) s)) ∧
      ∀ img (w : Nat → Nat → Word), s.me.gslot n = some img → (∀ r j, r < k → j < 128 → coord r j = .ok (w r j)) →
        let d := max (ceilDiv q.2 q.1) img.pace
        Goes (exec (.mmag a n e b m f) s) fun t =>
          Own { s.me with eng := { s.me.eng with genUses := (n, 2, s.cycle + (k - 1) * d + img.pace - 1 + 16 * img.pace) ::
            (s.me.eng.genUses.filter fun u => decide (s.cycle < u.2.2)) } } s t ∧ Left s t (k * d) ∧
          t.flights = s.flights ∧ t.rows = s.rows ++ (List.range k).map fun r => rowIn s a (d * r) r
            ⟨BitVec.ofNat 2 (s.me.eng.cellop.toNat / 4 ^ (r % 16)), (List.range 128).map fun j => BitVec.ofNat 16
              (rne (fmtOf (f.toNat + 1)) (decodeF fp32 (w r j).toNat)).1, f, efr, none, s.me.eng.active, all, some 0, none⟩) ∧
    (s.genHeld 2 = false → ∀ q img i op (w : Nat → Word), s.pairRate f = some q → s.me.gslot n = some img → i < 128 * k →
      (∀ j, j < i → coord (j / 128) (j % 128) = .ok (w j)) → coord (i / 128) (i % 128) = .error op →
        let d := max (ceilDiv q.2 q.1) img.pace
        let due := s.cycle + d * (i / 128) + (ceilDiv ((i % 128 + 1) * img.pace) 128 - 1) + 16 * img.pace
        Goes (exec (.mmag a n e b m f) s) fun t =>
          Own { s.me with eng := { s.me.eng with genUses := (n, 2, due + 1) ::
            (s.me.eng.genUses.filter fun u => decide (s.cycle < u.2.2)) } } s t ∧ Left s t (k * d) ∧
          (∃ g : Pend, g.flt = genBound 3 img (s.me.seed e) ((s.rs b).extractLsb' 0 32 + BitVec.ofNat 32 (i / 128))
              ((s.rs b).extractLsb' 32 32 + BitVec.ofNat 32 (i % 128)) 0 0 (i / 128) n op ∧
            t.flights = s.flights ++ [{ s.flight pNone due false false [] (.bound none) with bad := some g }]) ∧
          t.rows = s.rows ++ (List.range (i / 128)).map fun r => rowIn s a (d * r) r
            ⟨BitVec.ofNat 2 (s.me.eng.cellop.toNat / 4 ^ (r % 16)), (List.range 128).map fun j => BitVec.ofNat 16
              (rne (fmtOf (f.toNat + 1)) (decodeF fp32 (w (128 * r + j)).toNat)).1, f, efr, none, s.me.eng.active, all,
              some 0, none⟩)) ∧
  (∀ (s : State) (w : RowWork) (id : Nat), (w.src = none → s.resolve w = w) ∧
    (∀ r, w.src = some (id, .row r) →
      let bits := if w.fa = 0 ∨ w.fa = 1 then 16 else if w.fa = 4 then efrWidth w.efr else 8
      let codes : List (BitVec 16) := (List.range 128).map fun j => BitVec.ofNat 16 (leNat (s.chunk id r) / 2 ^ (bits * j) % 2 ^ bits)
      s.resolve w = { w with src := none, codes := codes }) ∧
    ∀ first off size, w.src = some (id, .column first off size) →
      let codes : List (BitVec 16) := (List.range 128).map fun j =>
        BitVec.ofNat 16 (leNat (((s.chunk id (first + j)).drop off).take size))
      s.resolve w = { w with src := none, codes := codes }) ∧
  (∀ wa wb : Nat, (wa = 4 ∨ wa = 6 ∨ wa = 8) → (wb = 4 ∨ wb = 6 ∨ wb = 8) →
    mxPair 0 wa 0 wb = some (1, 1) ∧ mxPair 1 wa 1 wb = some (1, 2) ∧
    (∀ fa fb : BitVec 3, (fa = 2 ∨ fa = 3) → (fb = 2 ∨ fb = 3) → mxPair fa wa fb wb = some (4, 1)) ∧
    mxPair 4 wa 4 wb = some (if wa = 4 ∧ wb = 4 then 4 else if wa = 4 ∨ wb = 4 then 2 else 1, 1) ∧
    mxPair 4 wa 0 wb = some (if wa = 4 then 2 else 1, 1) ∧ mxPair 0 wa 4 wb = some (if wb = 4 then 2 else 1, 1) ∧
    (∀ fa : BitVec 3, fa ≠ 1 → mxPair fa wa 1 wb = none ∧ mxPair 1 wa fa wb = none) ∧
    (∀ fa fb : BitVec 3, (fa = 2 ∨ fa = 3) → (fb = 0 ∨ fb = 4) → mxPair fa wa fb wb = none ∧ mxPair fb wb fa wa = none))

/-- Drains (R280, R281): MDRV and MDRV.RAG issue with their elements, converted from the accumulator rows as they stand, on
their way to a vector register as segments of runs, with the flags of the conversions; more than 4,096 runs raise
RUN_OVERFLOW, rows past 127 PROTECTION 0x10, and where both hold RUN_OVERFLOW, the lowest code (R38, R287).

MDRS (R282): its rows are read and converted at the issue and its tiles cleared; the bytes of each tile are on their way
on path AC, at 512 bytes a cycle. -/
def Obligations.MatrixDrains : Prop :=
  (∀ (s : State) (v : BitVec 6) (a f h : BitVec 3) (r x : BitVec 5) (c : BitVec 1), s.glob.earlyTrap = false →
     let sr := s.rs r
     let r0 := (sr.extractLsb' 0 7).toNat
     let n := (sr.extractLsb' 8 7).toNat + 1
     let w := (sr.extractLsb' 16 7).toNat + 1
     let word (i j : Nat) : Word := rd32 s.mem (accPlace s.u (a.toNat * 65536 + i * 512) + 4 * j)
     let elem (i j : Nat) : Nat × BitVec 5 := drainElem f s.me.spr.rm s.me.spr.srseed a i j (word i j)
     let seg (i : Nat) (js : List Nat) : List Run :=
       if js = [] then [nullRun] else js.mapIdx fun k j => ⟨drainRun f (elem i j).1, 1, decide (k = 0)⟩
     let flags (es : List (Nat × BitVec 5)) : BitVec 5 := es.foldl (fun y e => y ||| e.2) 0
     let ro := ((s.rs x).extractLsb' 0 24).toNat
     let co := ((s.rs x).extractLsb' 24 24).toNat
     let sh := s.me.shape h
     let cols (j : Nat) : List Nat := (List.range w).filter fun k => sh.seqOf (co + k) == some j
     let rows : List (Nat × List Nat) := (List.range n).filterMap fun i =>
       (sh.seqOf (ro + r0 + i)).map fun j => (r0 + i, cols j)
     let out (i : Instr) (occ : Nat) (rs : List Run) (fl : BitVec 5) : Prop :=
       if 4096 < rs.length then Goes (exec i s) (Raises (runOverflow rs.length) s)
       else Goes (exec i s) (Flies occ (resultOf s (occ + 3) (.v v) (.runs rs) fl) s)
     let long (rs : List Run) : List Flt := if 4096 < rs.length then [runOverflow rs.length] else []
     let past : List Flt := if 128 < r0 + n then [prot 0x10 (BitVec.ofNat 64 (r0 + n))] else []
     let window := memberFaults h sh [(ro + r0, ro + r0 + n - 1), (co, co + w - 1)]
     (128 < r0 + n → (c = 0 → n * w ≤ 4096) →
       Goes (exec (.mdrv v a r f c) s) (Raises (prot 0x10 (BitVec.ofNat 64 (r0 + n))) s)) ∧
     (c = 0 → 4096 < n * w → Goes (exec (.mdrv v a r f c) s) (Raises (runOverflow (n * w)) s)) ∧
     (r0 + n ≤ 128 →
       let rs := (List.range n).flatMap fun i => seg (r0 + i) (List.range w)
       out (.mdrv v a r f c) (max 1 (ceilDiv (n * w) 64)) (if c = 1 then mergeRuns rs else rs)
         (flags ((List.range n).flatMap fun i => (List.range w).map fun j => elem (r0 + i) j))) ∧
     (∀ e, lowestFault (window ++ past ++ if window = [] then long (rows.flatMap fun p => seg p.1 p.2) else []) = some e →
       Goes (exec (.mdrvRag v a r x h f) s) (Raises e s)) ∧
     (window = [] → r0 + n ≤ 128 →
       let rs := rows.flatMap fun p => seg p.1 p.2
       out (.mdrvRag v a r x h f) (max 1 (ceilDiv rs.length 64)) rs
         (flags (rows.flatMap fun p => p.2.map fun j => elem p.1 j)))) ∧
  (∀ (s : State) (a f : BitVec 3) (g : BitVec 2) (b r : BitVec 5), s.glob.earlyTrap = false → f.toNat ≤ 5 →
     let sr := s.rs r
     let r0 := (sr.extractLsb' 0 7).toNat
     let n := (sr.extractLsb' 8 7).toNat + 1
     let sa := s.rs b
     let size := if f = 0 ∨ f = 5 then 4 else if f = 1 ∨ f = 2 then 2 else 1
     let span := n * 128 * size
     let word (i j : Nat) : Word := rd32 s.mem (accPlace s.u (a.toNat * 65536 + i * 512) + 4 * j)
     let es : List (Nat × BitVec 5) := (List.range n).flatMap fun i => (List.range 128).map fun j =>
       drainElem f s.me.spr.rm s.me.spr.srseed a (r0 + i) j (word (r0 + i) j)
     let bytes := es.flatMap fun e => leBytes size e.1
     let p := groupPlace s.u g (mxOff sa)
     let parts := tileParts p span
     let fs := (if 128 < r0 + n then [prot 0x10 (BitVec.ofNat 64 (r0 + n))] else []) ++ operandFaults sa span .wr
     (∀ e, lowestFault fs = some e → Goes (exec (.mdrs a g b r f) s) (Raises e s)) ∧
     (fs = [] → Goes (exec (.mdrs a g b r f) s) fun t =>
       (∀ u, regs (t.unit u) = regs (s.unit u)) ∧ Left s t 1 ∧ t.mem = s.mem ∧ t.rows = s.rows ∧ t.landings = s.landings ∧
       (∀ q ∈ parts, t.isFull q.1 = false) ∧ (∀ k, k ∉ parts.map (·.1) → t.tile k = s.tile k) ∧
       t.flights = s.flights ++ parts.mapIdx fun k q => { s.flight pAC (s.cycle + ceilDiv (q.2.1 + q.2.2) 512) false true
         [(p + q.2.1, q.2.2)] (.drain ((bytes.drop q.2.1).take q.2.2) q.1 (es.foldl (fun y e => y ||| e.2) 0)) with
           id := s.ids + k }))


/-- Adapters (R283 to R285): MADT registers its two matrices under the next generation of its identifier and answers that
generation nine cycles on; MBASE sets the die's base tag and makes the entries of every other tag invalid; MADP checks its
runs' identifiers and generations, and sends two matrix products a row to the accumulators: of each run the rows of its two matrices and
of its activations are read during the pass (that order is the MODEL's choice, log entry 149), and what they hold gives the row. That MADT's entry and MBASE's tag
are written in the step of issue is the model's reading (DEDUCED, log entry 46), and so is PROTECTION 0x05 of an adapter outside
the context's window (log entry 47). -/
def Obligations.Adapters : Prop :=
  ∀ (s : State) (d i a b : BitVec 5) (bank : BitVec 3) (g p : BitVec 2) (v : BitVec 6) (m : BitVec 7),
    let die := dieOf s.u
    let c := (s.ctxOf s.u).toNat
    let id := ((s.rs i).extractLsb' 0 8).toNat
    let rk := ((s.rs i).extractLsb' 8 6).toNat
    let n := 256 * (rk + 1)
    let old := s.adapter (s.ctxOf s.u) die id
    let gen := old.extractLsb' 16 8 + 1
    let home : Prop := (s.rs a).toNat / 2 ^ 60 = 1 ∧ (s.rs b).toNat / 2 ^ 60 = 1
    let madt : Instr := .madt d i a b
    let tag : BitVec 16 := (s.rs a).extractLsb' 0 16
    let k := m.toNat + 1
    let sa := s.rs b
    let runs := s.me.vreg v
    let live := (indexed 0 runs).filter fun q => q.2.cnt != 0
    let entry (q : Nat × Run) : BitVec 128 := s.adapter (s.ctxOf s.u) die (q.2.val.toNat % 256)
    let stage2 := (if runsLen runs = k then [] else [lengthMismatch (runsLen runs) k])
      ++ (if s.addReads s.u g then [bankConflict g sa] else []) ++ (live.findSome? fun q => s.stale q.2.val).toList
    let spans := live.flatMap fun q => s.adapterSpans (entry q)
    let time := max 1 ((live.map fun q => 128 + ((entry q).toNat / 2 ^ 24 % 64 + 1) + 2 * q.2.cnt).sum)
    let place := groupPlace s.u g (mxOff sa)
    let rho (q : Nat × Run) : Nat := (entry q).toNat / 2 ^ 24 % 64 + 1
    let at' (q : Nat × Run) (j : Nat) : Nat := ((s.adapterSpans (entry q)).getD j (0, 0)).1
    let each (α : Type) (f : List (Nat × Run) → Nat × Run → List α) : List α :=
      (List.range live.length).flatMap fun j => f (live.take j) (live.getD j (0, nullRun))
    let reads : List (Nat × Nat × Nat) := each _ fun before q =>
      let t := s.cycle + (before.map fun q => 128 + rho q + 2 * q.2.cnt).sum
      ((List.range 128).map fun j => (t + j, at' q 0 + j * (2 * rho q), 2 * rho q)) ++
        ((List.range (rho q)).map fun j => (t + 128 + j, at' q 1 + j * 256, 256)) ++
        (List.range q.2.cnt).map fun j => (t + 128 + rho q + 2 * j, place + 256 * q.1 + j * 256, 256)
    let rows : List RowLanding := each _ fun before q => (List.range q.2.cnt).map fun j => rowIn s bank time (q.1 + j)
      ⟨0, [], 0, 0, none, ⟨[], 0, 0, List.replicate 512 0, false⟩, List.replicate 128 true, some 0,
        some (s.ids, .adapter ((before.map fun q => 128 + rho q + q.2.cnt).sum) (rho q) j)⟩
    (home → ∀ e, s.access pMX .rd false 64 [(s.rs a, n), (s.rs b, n)] = .error e → Goes (exec madt s) (Raises e s)) ∧
    (home → ∀ q, s.access pMX .rd false 64 [(s.rs a, n), (s.rs b, n)] = .ok q → Goes (exec madt s) fun t =>
      let e := t.adapter (s.ctxOf s.u) die id
      (∀ u, regs (t.unit u) = regs (s.unit u)) ∧ Left s t 8 ∧ t.mem = s.mem ∧
      t.flights = s.flights ++ [resultOf s 9 (.s (s.ps d)) (.scalar (gen.setWidth 64)) 0] ∧
      e.extractLsb' 0 16 = s.btag (s.ctxOf s.u) die ∧ e.extractLsb' 16 8 = gen ∧ (e.extractLsb' 24 6).toNat = rk ∧
      e.getLsbD 31 = true ∧ (e.extractLsb' 32 25).toNat = (q.spans.getD 0 (0, 0)).1 % 2 ^ 25 ∧
      (e.extractLsb' 64 25).toNat = (q.spans.getD 1 (0, 0)).1 % 2 ^ 25 ∧
      ∀ y, y ≠ die * 256 + id → Tab.get 0 (t.ctx c).adapters y = Tab.get 0 (s.ctx c).adapters y) ∧
    (CtxsOk s → Tab.wf 0 (s.ctx c).btag = true → Tab.wf 0 (s.ctx c).adapters = true → Goes (exec (.mbase a) s) fun t =>
      (∀ u, regs (t.unit u) = regs (s.unit u)) ∧ Left s t 8 ∧ t.mem = s.mem ∧ t.flights = s.flights ∧
      t.btag (s.ctxOf s.u) die = tag ∧ ∀ y, y < 256 →
        let e := s.adapter (s.ctxOf s.u) die y
        t.adapter (s.ctxOf s.u) die y = if e.extractLsb' 0 16 = tag then e else e &&& ~~~(1#128 <<< 31)) ∧
    (∀ e, lowestFault stage2 = some e → Goes (exec (.madp bank g b v p m) s) (Raises e s)) ∧
    (stage2 = [] → MxOut (.madp bank g b v p m) s sa g (k * 256) (spans.findSome? s.homeFault).toList spans
      (Streams time rows [streamOf s true reads (0, 0)] s)) ∧
    (∀ (w : RowWork) (j first rh q : Nat), w.src = some (j, .adapter first rh q) →
      let word (bs : List Byte) (k : Nat) : BitVec 16 := BitVec.ofNat 16 (leNat bs / 2 ^ (16 * k) % 2 ^ 16)
      let y := s.resolve w
      let amat (o : Nat) : List FV := (List.range 128).map fun k => mxFV 0 0 none (word (s.chunk j (first + k)) o)
      let xs : List FV := (List.range 128).map fun k => mxFV 0 0 none (word (s.chunk j (first + 128 + rh + q)) k)
      (∀ r ∈ s.streams, ∀ k, k < 128 + rh + q + 1 → (r.chunk (s.mxMem r.unit) (first + k)).length =
        if k < 128 then 2 * rh else 256) → (∃ r, s.stream? j = some r) → y.src = none ∧ y.codes.length = rh ∧
      (∀ o k, o < rh → k < 128 → Tab.get 0 y.plane.code (128 * o + k) = word (s.chunk j (first + 128 + o)) k) ∧
      ∀ o ps, o < rh → firstNan (cellOrder xs (amat o)) = none → cellTerms 0 xs (amat o) = some ps →
        y.codes[o]? = some (BitVec.ofNat 16 (roundSum bf16 0 0 ps).1))

/-- The matrix engine's own events (R266, R267, R274, R275, R282, R297): a row that is due lands in its accumulator row, the
cells that accumulate only, computed from what its stream has read, with its flags; a load that is over becomes the shadow plane; the detection of a bound raises the
evaluation's fault at its bundle, once the lower slots of the bundle have been tried in that cycle (R134), or, where the handler of an earlier fault runs already, discards it, and in either case the
operation counts as not issued (R134; how that is kept is the MODEL's, log entry 127); the release of a tile sets its bit, the last of an operation with its flags. -/
def Obligations.MatrixEvents : Prop :=
  ∀ (s : State), MemoryOk s → UnitsOk s →
    let n := s.arg.n
    let y := s.unit n
    (∀ r, s.rows[n]? = some r →
      let p := accPlace r.unit (r.bank.toNat * 65536 + r.row * 512)
      let w := s.resolve r.work
      let a := w.codes.mapIdx fun k c => mxFV w.fa w.efr (w.scales.map fun l => l.getD (k / 32) 0) c
      let b (j : Nat) : List FV := (w.plane.values a.length).map fun q => q.getD j (.num false 0 0)
      let made (j : Nat) : Nat × BitVec 5 := cell w.op (decodeF fp32 (rd32 s.mem (p + 4 * j)).toNat) a (b j)
      let on (j : Nat) : Prop := w.cells.getD j false = true
      (s.rowDue n r = false → Waits .accumulatorRowLands s) ∧
      (s.rowDue n r = true → Goes (exec .accumulatorRowLands s) fun t =>
        t.rows = s.rows.eraseIdx n ∧ Else p 512 s t ∧
        (∀ j, j < 128 → on j → rd32 t.mem (p + 4 * j) = BitVec.ofNat 32 (made j).1) ∧
        (∀ j, j < 128 → ¬ on j → rd32 t.mem (p + 4 * j) = rd32 s.mem (p + 4 * j)) ∧
        (∀ u, u ≠ r.unit → t.unit u = s.unit u) ∧
        (w.fl = none → t.units = s.units) ∧
        (∀ fl, w.fl = some fl → t.unit r.unit = { s.unit r.unit with spr := { (s.unit r.unit).spr with fflags :=
          (s.unit r.unit).spr.fflags ||| (fl ||| ((List.range 128).filter fun j => w.cells.getD j false).foldl
            (fun z j => z ||| (made j).2) 0) } }))) ∧
    (∀ l, y.eng.load = some l → l.bad = false → l.due ≤ s.cycle →
      Goes (exec (if l.gen then .mgenbCommit else .mldbLoadComplete) s)
        (Unital n { y with eng := { y.eng with load := none, shadow := s.loaded l } } s)) ∧
    (∀ f p vd, s.flights[n]? = some f → f.what = .bound vd → f.bad = some p → f.due ≤ s.cycle → s.current f = true →
      let x := s.unit f.unit
      let handling : Prop := x.spr.sup = true ∧ f.sup = false
      (¬ handling → x.disp.pend = none → s.lowerReady f.unit f.slot f.seq = true → Waits .genBoundDetected s) ∧
      (s.lowerReady f.unit f.slot f.seq = false → Goes (exec .genBoundDetected s) fun t =>
        let d := (t.unit f.unit).disp
        Ends f s t ∧ t.mem = s.mem ∧ (∀ u, u ≠ f.unit → t.unit u = s.unit u) ∧
        (handling → d.pend = x.disp.pend ∧ d.gaps = x.disp.gaps ++ [(f.slot, f.seq - x.disp.base, true)]) ∧
        (¬ handling → d.undone = (f.slot, f.seq) :: x.disp.undone ∧ (x.disp.pend = none → d.pend = some { p with
          seq := f.seq, addr := f.addr, slot := f.slot, time := s.timeOf (dieOf f.unit), skips := true })))) ∧
    (∀ f b k fl, s.flights[n]? = some f → f.what = .drain b k fl → f.writes = false → Goes (exec .mdrsTileRelease s) fun t =>
      let last : Prop := ∀ q ∈ s.flights, q.id ≠ f.id → q.unit = f.unit → q.seq = f.seq → q.slot = f.slot →
        q.issued ≠ f.issued
      let x := s.unit f.unit
      Ends f s t ∧ t.mem = s.mem ∧ (∀ j, j ≠ k → t.tile j = s.tile j) ∧ (∀ u, u ≠ f.unit → t.unit u = s.unit u) ∧
      (t.tiles = Tab.set (true, 0) s.tiles k (true, (s.tile k).2 + 1)) ∧
      (last → s.current f = true →
        t.unit f.unit = { x with spr := { x.spr with fflags := x.spr.fflags ||| fl } }) ∧
      (¬ last → t.units = s.units))

/-! ## The generator engine -/

/-- The generator's own instructions (R296, R301, R304 to R307): GLOAD and GFREE wait for an evaluation that uses their
slot, in flight or of an earlier bundle that has still to issue; GLOAD issues with the named image's copy on its way, raises
GEN_UNKNOWN for a name the context does not have, and PROTECTION 0x01 where the copy from die 0 needs a failed link (R13; its
INFO0 = 0 is the model's choice, log entry 117); GSEED
writes its seed two cycles on; GEVAL issues with its evaluations as a vector result, and with the fault of the first that
meets its bound instead, detected 16 P cycles after its admission
(DEDUCED, log entry 150), the engine busy until the cycle after (DEDUCED, log entry 49); GSTAT answers what it asks for two cycles on.

The built-in image (R300): it always yields a value, and its value at (c0, c1, c2, c3) is that at
(c0 XOR c2, c1 XOR c3, 0, 0). -/
def Obligations.GeneratorResults : Prop :=
  (∀ (s : State) (n q : BitVec 4) (a d c l : BitVec 5) (sd : BitVec 3) (v : BitVec 6) (x : BitVec 1),
     let name := s.rs a
     let used : Prop := (∃ u ∈ s.me.eng.genUses, u.1 = n ∧ s.cycle < u.2.2) ∨
       ∃ o ∈ (s.me.slot 4).queue, o.seq < s.cur.op.seq ∧ (o.instr 4).bind genSlot? = some n
     let held : Prop := ∃ u ∈ s.me.eng.genUses, u.2.1 ≠ 0 ∧ s.cycle < u.2.2
     let known : Option Image := if name = 0x204553494F4E5253 then some srNoise
       else (s.ctx (s.ctxOf s.u).toNat).registry.find? fun g => g.name == name
     let time (g : Image) : Nat := 350 + dieTerm 0 (dieOf s.u) + ceilDiv g.bytes 256
     let k := ((s.rs l).extractLsb' 0 32).toNat
     let c2 : Word := (s.rs l).extractLsb' 32 32
     let c0 (i : Nat) : Word := (s.rs c).extractLsb' 0 32 + (if x = 1 then BitVec.ofNat 32 i else 0)
     let c1 (i : Nat) : Word := (s.rs c).extractLsb' 32 32 + (if x = 1 then 0 else BitVec.ofNat 32 i)
     let geval : Instr := .geval v n sd c l x
     let stat (y : BitVec 64) : Prop := Goes (exec (.gstat d n sd q) s) (Flies 1 (resultOf s 2 (.s (s.ps d)) (.scalar y) 0) s)
     (used → Waits (.gload n a) s ∧ Waits (.gfree n) s) ∧
     (¬ used → known = none → Goes (exec (.gload n a) s) (Raises (Flt.of 0x11 0 name) s)) ∧
     (¬ used → ∀ g, known = some g → s.routeBad (dieOf s.u) 0 = true →
       Goes (exec (.gload n a) s) (Raises (prot 0x01 0) s)) ∧
     (¬ used → ∀ g, known = some g → s.routeBad (dieOf s.u) 0 = false →
       Goes (exec (.gload n a) s) (Flies 1 (resultOf s (time g) (.gn n) (.image (some g)) 0) s)) ∧
     (¬ used → Goes (exec (.gfree n) s) (Flies 1 (resultOf s 2 (.gn n) (.image none) 0) s)) ∧
     Goes (exec (.gseed sd a) s) (Flies 1 (resultOf s 2 (.sd sd) (.scalar (s.rs a)) 0) s) ∧
     (held → Waits geval s) ∧
     (¬ held → 4096 < k → Goes (exec geval s) (Raises (runOverflow k) s)) ∧
     (¬ held → k ≤ 4096 → s.me.gslot n = none → Goes (exec geval s) (Raises (Flt.of 0x11 0 0) s)) ∧
     (¬ held → k ≤ 4096 → ∀ g, s.me.gslot n = some g →
       let value (i : Nat) : Except Nat Word := evalGen g (s.me.seed sd) (c0 i) (c1 i) c2 0
       let occ := max 1 (ceilDiv (k * g.pace) 128)
       let uses (till : Nat) : Eng := { s.me.eng with
         genUses := (n, 0, till) :: (s.me.eng.genUses.filter fun u => decide (s.cycle < u.2.2)) }
       (∀ w : Nat → Word, (∀ i, i < k → value i = .ok (w i)) → Goes (exec geval s) fun t =>
         Own { s.me with eng := if k = 0 then s.me.eng else uses (s.cycle + occ - 1 + 16 * g.pace) } s t ∧ Left s t occ ∧ t.landings = s.landings ∧
         t.flights = s.flights ++ [resultOf s (occ + 16 * g.pace + 3) (.v v)
           (.runs ((List.range k).map fun i => ⟨w i, 1, decide (i = 0)⟩)) 0]) ∧
       (∀ i op, i < k → value i = .error op → (∀ j, j < i → ∃ w, value j = .ok w) →
         let due := s.cycle + (ceilDiv ((i + 1) * g.pace) 128 - 1) + 16 * g.pace
         let f := genBound 1 g (s.me.seed sd) (c0 i) (c1 i) c2 0 0 n op
         Goes (exec geval s) fun t =>
           Own { s.me with eng := uses (due + 1) } s t ∧ Left s t occ ∧ t.landings = s.landings ∧
           t.flights = s.flights ++ [{ s.flight pNone due false false [] (.bound (some v)) with
             bad := some ⟨s.cur.op.seq, s.cur.op.addr, s.cur.slot, 0x10, 1, g.name, f.info1, f.info2, f.info3, f.xinfo, pNone, 0,
               0, true⟩ }])) ∧
     (q = 6 → stat (s.me.seed sd)) ∧
     (q ≠ 6 → s.me.gslot n = none → stat 0) ∧
     (∀ g, s.me.gslot n = some g → (q = 0 → stat g.name) ∧ (q = 1 → stat g.info) ∧
       (q = 2 → stat (BitVec.ofNat 64 (leNat (g.digest.take 8)))) ∧
       (q = 3 → stat (BitVec.ofNat 64 (leNat ((g.digest.drop 8).take 8)))) ∧
       (q = 4 → stat (BitVec.ofNat 64 (leNat ((g.digest.drop 16).take 8)))) ∧
       (q = 5 → stat (BitVec.ofNat 64 (leNat ((g.digest.drop 24).take 8)))))) ∧
  decodeSlot .gn 0x04600000 = .ok (some (.gfree 3)) ∧ decodeSlot .gn 0x060A0000 = .ok (some (.gseed 0 5)) ∧
  (∀ (seed : BitVec 64) (c0 c1 c2 c3 : Word), ∃ w, evalGen srNoise seed c0 c1 c2 c3 = .ok w ∧
     evalGen srNoise seed (c0 ^^^ c2) (c1 ^^^ c3) 0 0 = .ok w)


/-! ## The transfer engine -/

/-- The issue of copies and code images (R313, R316 to R319, R325): while 64 operations of the core are in flight they wait
(in Invar mode SCHED_OVERRUN 0x02); otherwise each issues with its rows to move, the tiles of its destination cleared. The
rows are PITCH apart at the shaped side and packed at the other. An empty shape register raises PROTECTION 0x11, rows that are
not whole bytes or more than 4 GiB PROTECTION 0x10. Rows of run entries are 8 bytes an entry. The MODEL's choices, by log entry
52: which tiles a CPY.Z clears, whose header is still to be read; by log entry 55: that a full engine is waited for before any
fault is looked for. -/
def Obligations.TransferIssue : Prop :=
  ∀ (s : State) (t a b : BitVec 5) (h : BitVec 3) (sc f e x q : BitVec 1),
    let full : Prop := s.xferFull = true
    let invar : Prop := s.me.spr.inv = true ∧ s.me.spr.sup = false
    let r := s.me.shape h
    let first := ((s.rs b).extractLsb' 0 32).toNat
    let count := ((s.rs b).extractLsb' 32 32).toNat
    let bits := r.dim 1 * r.dim 2 * r.dim 3 * fmtBits r.fmt
    let rb := bits / 8
    let row (k j : Nat) : XRow :=
      let shaped := BitVec.ofNat 64 (r.base + j * r.pitch)
      let packed := s.rs a + BitVec.ofNat 64 (k * rb)
      if sc = 1 then ⟨packed, shaped, rb⟩ else ⟨shaped, packed, rb⟩
    let finger : Option (BitVec 64) := if f = 1 then some (s.rs t) else none
    let copy (i : Instr) (rows : List Nat) (cross : Option (Nat × Nat × Nat)) : Prop :=
      let xs := rows.mapIdx row
      (bits % 8 ≠ 0 → Goes (exec i s) (Raises (prot 0x10 (BitVec.ofNat 64 bits)) s)) ∧
      (bits % 8 = 0 → 2 ^ 32 < rb * rows.length →
        Goes (exec i s) (Raises (prot 0x10 (BitVec.ofNat 64 (rb * rows.length))) s)) ∧
      (bits % 8 = 0 → rb * rows.length ≤ 2 ^ 32 → Goes (exec i s) (Begins s.me t
        (s.dstTiles s.u (xs.map fun y => (y.dst, y.bytes))) { s.xfer 0 q .copy xs with
          finger := finger, fmt := r.fmt, cross := cross } s))
    let cpy : Instr := .cpy t a b h sc f q
    let cpyr : Instr := .cpyr t a b h sc f e x q
    let src := s.rs a
    let dst := s.rs b
    let tiles := match s.peekBlock s.u (s.ctxOf s.u) src with
      | some k => s.dstTiles s.u [(dst, k.outBytes src dst)]
      | none => []
    let half := !s.me.front.half
    let cleared : Machine.Unit := { s.me with spr := { s.me.spr with
      coherent := if half = true then s.me.spr.coherent &&& 1 else s.me.spr.coherent &&& 2 } }
    (∀ i ∈ [cpy, cpyr, .cpyZ t a b f q, .imload t a q], full →
      (¬ invar → Waits i s) ∧ (invar → Goes (exec i s) (Raises (schedFault 2 s.me.spr.sfc s.cur.op.stamp) s))) ∧
    (¬ full → r.rank = 0 → ∀ i ∈ [cpy, cpyr], Goes (exec i s) (Raises (prot 0x11 (h.setWidth 64)) s)) ∧
    (¬ full → r.rank ≠ 0 → copy cpy ((List.range count).map (first + ·)) none) ∧
    (¬ full → r.rank ≠ 0 → ∀ g, r.select h (bit1 e) false first count = .error g → Goes (exec cpyr s) (Raises g s)) ∧
    (¬ full → r.rank ≠ 0 → ∀ ps, r.select h (bit1 e) false first count = .ok ps →
      let rows := ps.flatMap fun p => (List.range p.2).map (p.1 + ·)
      let crosses := (if e = 1 ∧ x = 1 then r.bound (first + 1) else none).any fun j => rows.any fun k => decide (j ≤ k)
      (crosses = false → copy cpyr rows none) ∧
      (crosses = true → ∀ j, r.bound (first + 1) = some j →
        copy cpyr rows (some (first, j, (rows.dropWhile (· < j)).length)))) ∧
    (¬ full → Goes (exec (.cpyZ t a b f q) s)
      (Begins s.me t tiles { s.xfer 0 q .block [⟨src, dst, 0⟩] with finger := finger } s)) ∧
    (¬ full → UnitsOk s → Goes (exec (.imload t a q) s)
      (Begins cleared t [] (s.xfer 0 q (.imload half) [⟨src, 0, 0⟩]) s))

/-- Transform units (R320 to R323): XPOSE transposes a 32 by 128-byte tile in elements of 2^k bytes, 40 cycles; XCVT
converts up to 4,096 elements in 20 + ceil(bytes / 256) cycles, and for none it completes 20 cycles on; XEXP expands a block of runs.
Each issues once its source tiles are full and reads its source at 512 bytes a cycle from the cycle of its issue on; what XEXP reads at
its issue is the header. The result is made of the bytes read, once the last of them is; XEXP whose runs are malformed, or whose
destination runs past 8 MiB, then fails and writes nothing. -/
def Obligations.TransformIssue : Prop :=
  (∀ (s : State) (t d a n : BitVec 5) (k : BitVec 4) (q : BitVec 1), s.xferFull = false →
    let src := ((s.rs a).extractLsb' 0 23).toNat
    let dst := ((s.rs d).extractLsb' 0 23).toNat
    let c := ((s.rs n).extractLsb' 0 32).toNat
    let efr : Byte := s.me.spr.efrt.extractLsb' 0 8
    let w := efrWidth efr
    let (m, o) : Nat × Nat := if k.toNat ≤ 4 then (4 * c, c * fmtBits k.toNat / 8)
      else if k.toNat ≤ 8 then (c * fmtBits (k.toNat - 4) / 8, 4 * c)
      else if k = 9 then (4 * c, c * w / 8 + c / 32) else (c * w / 8 + c / 32, 4 * c)
    let hdr := rdBytes (s.mxMem s.u) (scratchPlace s.u src) 32
    let h := blockHdr hdr
    let len := h.len * (fmtBits h.fmt / 8)
    (k.toNat ≤ 2 → src % 4096 = 0 → dst % 4096 = 0 →
      TransformOut (.xpose t d a k q) s t q (src, 4096) dst 4096 40 (some (.xpose (2 ^ k.toNat)))) ∧
    (1 ≤ k.toNat → k.toNat ≤ 10 → (4096 < c ∨ 9 ≤ k.toNat ∧ c % 32 ≠ 0) →
      Goes (exec (.xcvt t d a n k q) s) (Raises (prot 0x10 (BitVec.ofNat 64 c)) s)) ∧
    (1 ≤ k.toNat → k.toNat ≤ 10 → c = 0 → TransformOut (.xcvt t d a n k q) s t q (src, 0) dst 0 20 none) ∧
    (1 ≤ k.toNat → k.toNat ≤ 10 → c ≤ 4096 → (9 ≤ k.toNat → c % 32 = 0) → 0 < c → src % 64 = 0 → dst % 64 = 0 →
      src + m ≤ 2 ^ 23 → dst + o ≤ 2 ^ 23 →
      TransformOut (.xcvt t d a n k q) s t q (src, m) dst o (20 + ceilDiv (max m o) 256)
        (some (.xcvt k.toNat c efr s.me.spr.rm s.me.spr.srseed dst))) ∧
    (h.ok = true → src % 32 = 0 → dst % 64 = 0 → src + 32 + 8 * h.nruns ≤ 2 ^ 23 → (∀ y ∈ ownTiles s.u src 32, s.present y = true) →
      TransformOut (.xexp t d a q) s t q (src, 32 + 8 * h.nruns) dst len
        (20 + ceilDiv h.nruns 16 + ceilDiv len 256) (some (.xexp hdr src dst)))) ∧
  (∀ (u : Nat) (bs hdr : List Byte) (k c src dst : Nat) (efr : Byte) (rm : BitVec 3) (seed : BitVec 64),
    let v (i : Nat) : Nat := if rm = 5 then noise seed (BitVec.ofNat 32 i) (BitVec.ofNat 32 dst) 0 0x10000000 else 0
    let h := blockHdr hdr
    let fits : Prop := dst + h.len * (fmtBits h.fmt / 8) ≤ 2 ^ 23
    (∀ z, (z = 1 ∨ z = 2 ∨ z = 4) → bs.length = 4096 → ∃ out : List Byte,
      (XWork.xpose z).result u bs = (out, 0, none) ∧ out.length = 4096 ∧
        ∀ i j y, i < 128 / z → j < 32 → y < z → out.getD ((i * 32 + j) * z + y) 0 = bs.getD (128 * j + i * z + y) 0) ∧
    (let r := xcvtBytes k c efr rm v bs
     (XWork.xcvt k c efr rm seed dst).result u bs = (r.1, r.2, none)) ∧
    (blockRunsOk h (bs.drop 32) = false → (XWork.xexp hdr src dst).result u bs = ([], 0, some (prot 6 (ownVa u src)))) ∧
    (blockRunsOk h (bs.drop 32) = true → ¬ fits → (XWork.xexp hdr src dst).result u bs = ([], 0, some (prot 0x10 (ownVa u dst)))) ∧
    (blockRunsOk h (bs.drop 32) = true → fits →
      let r := expandRuns h (bs.drop 32)
      (XWork.xexp hdr src dst).result u bs = (r.1, r.2, none))) ∧
  (∀ (s : State) (x : Xfer) (id : Nat) (w : XWork) (r : Stream), x.work = some (id, w) → s.stream? id = some r →
    let made := w.result x.unit r.got.reverse.flatten
    (r.todo ≠ [] → s.transformRead x = s) ∧
    (r.todo = [] → made.2.2 = none →
      s.transformRead x = s.modXfer x.id fun y => { y with buf := made.1, flg := made.2.1, work := none }) ∧
    (∀ f, r.todo = [] → made.2.2 = some f → s.transformRead x = (s.logFault (s.xferWho x) (f.on pTR .rd)).modXfer x.id fun y =>
      { y with code := codeOf f, rows := [], work := none }))

/-- Tokens (R313 to R315): CWAITT waits while its token's status says that the operation is under way, and CPOLL answers it
at once; the status of a token that the ring no longer holds is 0xFF.

The end of transfers (R30, R100, R313, R314, R317, R320): a destination tile is set full once every write of it has performed;
a status is recorded once the last write has been issued, with its CODE (1 for success), its flags and its fingerprint bit; a
transform that has read its source writes what is left of its bytes, sets its tiles and records its status together. None completes while an earlier event of the engine
waits for room in its queue. -/
def Obligations.TransferEvents : Prop :=
  (∀ (s : State) (d t : BitVec 5),
     let tok : BitVec 16 := (s.rs t).extractLsb' 0 16
     let e := Tab.get (0, 0) s.me.ring (tok.toNat % 256)
     let st : BitVec 14 := if tok ≠ 0 ∧ e.1 = tok then e.2 else 0xFF
     let tells (i : Instr) : Prop := Goes (exec i s) (Flies 1 (resultOf s 2 (.s (s.ps d)) (.scalar (st.setWidth 64)) 0) s)
     (st.extractLsb' 0 8 = 0 → Waits (.cwaitt d t) s) ∧ (st.extractLsb' 0 8 ≠ 0 → tells (.cwaitt d t)) ∧ tells (.cpoll d t)) ∧
  (∀ (s : State) (x : Xfer), s.xfers[s.arg.n]? = some x → UnitsOk s → MemoryOk s → x.tok ≠ 0 →
     let k := s.arg.m
     let status (y : Xfer) : BitVec 14 :=
       BitVec.ofNat 14 ((if y.code = 0 then 1 else y.code.toNat) + y.flg.toNat * 256 + if y.fpd = true then 8192 else 0)
     let later : Prop := ∃ r ∈ x.rows, k ∈ namedTiles x.unit r.dst r.bytes
     let held : Prop := s.heldXfer x.unit = true
     let out : Prop := ∃ f ∈ s.flights, f.id ∈ x.writes ∧ k ∈ tilesOfSpans f.spans
     (x.kind ≠ .transform → (x.kind = .block → x.rows = []) → k ∈ x.left → ¬ later → ¬ out → Goes (exec .transferTileRelease s) fun t =>
       t.isFull k = true ∧ (∀ j, j ≠ k → t.tile j = s.tile j) ∧ t.mem = s.mem) ∧
     (x.kind = .copy → (later ∨ out ∨ k ∉ x.left) → Waits .transferTileRelease s) ∧
     (x.recd = false → s.txFrozen x.unit = false → ¬ held → s.lastIssued x = true → s.xferCurrent x = true →
       Goes (exec .transferComplete s) fun t => (t.unit x.unit).ringGet x.tok = status x ∧ t.mem = s.mem ∧ t.tiles = s.tiles) ∧
     (x.kind = .copy → x.recd = false → (x.rows ≠ [] ∨ s.txFrozen x.unit = true ∨ held) → Waits .transferComplete s) ∧
     (x.kind = .transform → x.work ≠ none → Waits .transformComplete s) ∧
     (x.kind = .transform → x.work = none → x.recd = false → x.due ≤ s.cycle → ¬ held → s.xferCurrent x = true →
       Goes (exec .transformComplete s) fun t => (t.unit x.unit).ringGet x.tok = status x ∧
         (x.rows = [] → t.mem = s.mem) ∧
         (∀ r, x.rows = [r] →
           let piece := (x.buf.drop r.src.toNat).take r.bytes
           rdBytes t.mem (scratchPlace x.unit r.dst.toNat) piece.length = piece ∧
             Else (scratchPlace x.unit r.dst.toNat) piece.length s t) ∧
         (∀ j ∈ x.left, t.isFull j = true) ∧ ∀ j, j ∉ x.left → t.tile j = s.tile j))


/-! ## The collective engine -/

/-- The issue of calls (R332, R335 to R338, R340 to R342, R347, R348, R350): each is checked, takes the sequence number of
its entry and is in flight; CRECV and CNRM arm their tiles, which are cleared, and wait while their entry has too many armed;
CA2AC clears the tiles of RC and RP; CA2AP samples its record once it can be read, behind the accesses of its core on path CO to
the record's granules (R120) and within its engine's budget (R368), and clears its receive buffer, a tile in
which its counts place no word at once full again. CHDEF waits for the calls of its entry and leaves to read its descriptor, at once and
within the budget where the descriptor's tile is full, else once it is (R100).
The MODEL's choices: the receive range is checked whole at issue (log entry 65), a frozen engine holds CHDEF (log entry 122),
CA2AP samples its record and buffers at issue (log entry 119), a call issued on a paused entry stands behind the paused ones
(log entry 125), the layout of INFO0 of PROTECTION 0x10, 0x18 and 0x19 (log entry 41), a reduction over one member, which awaits no
word (log entry 63). A call on an aborted entry ends at once with status 0x02 (R345). -/
def Obligations.CallIssue : Prop :=
  ∀ (s : State) (ch : BitVec 6) (a n d v : BitVec 5) (o : BitVec 3) (q : BitVec 1), CallsOk s →
    let x := s.myChan ch
    let c := s.ctxOf s.u
    let k := (s.rs n).toNat
    let post := decide (q = 1)
    let send := callOf s ch false
    let recv := callOf s ch true
    let ranks := bindN (s.bindOf c x)
    let arming (i : Instr) (kind : Nat) (usable : Bool) : Prop :=
      CallOut i s ch k (decide (1 ≤ k) && decide (k ≤ if x.defd && x.die == dieOf s.u && usable then x.depth else 32)) usable
        ((x.depth < x.armed + k → Waits i s) ∧ (x.armed + k ≤ x.depth → ∀ p tl,
          let words := (x.senders (s.bindOf c x)).length * (x.len / 4)
          s.reach s.u (dieOf s.u) c pCO .wr false (s.rs a) (4096 * k) = .ok ⟨[(p, 4096 * k)], tl⟩ → spaceOf p = 2 →
          p % 2 ^ 64 / 2 ^ 23 = s.u → (s.rs a).toNat % 4096 = 0 → words ≠ 0 → Goes (exec i s)
            (Opens true (if kind = 7 then none else some d) { recv with
              kind := kind, n := k, base := s.rs a, post := post, sig := signature 1 x.rop x.fmt k,
              dst := if kind = 7 then some (s.ps d) else none, tiles := (List.range k).map fun j => (p + 4096 * j, words),
              cap := if kind = 7 then List.replicate (k * (x.len / 4)) 0 else [] } k (tilesOf p (4096 * k)) s)))
    let link := s.chan c.toNat (BitVec.ofNat 6 x.link)
    (let calm : Prop := q = 0 ∧ s.defining c ch = false ∧ x.defd = true ∧ x.die = dieOf s.u ∧ x.stale = false ∧
       ∀ j ∈ s.calls, j.fin = true → j.post = true → j.die ≠ dieOf s.u
     let counted (t : State) : Prop := Left s t 1 ∧ t.mem = s.mem ∧ t.calls = s.calls ∧
       t.chan c.toNat ch = { x with sseq := x.sseq + 1 }
     (calm → x.aborted = true → x.kind = 0 → 1 ≤ k → k ≤ 32 → Goes (exec (.csend ch a n d q) s) fun t => counted t ∧
       t.flights = s.flights ++ [{ resultOf s 2 (.s (s.ps d)) (.scalar (x.sseq.setWidth 64)) 0 with id := s.ids + 1 }]) ∧
     (calm → x.aborted = true → x.kind = 2 → x.fmt = 0 → Goes (exec (.cswr ch v d o q) s) fun t => counted t ∧
       t.flights = s.flights ++ [{ resultOf s 1 (.s (s.ps d)) (.scalar (2#64 <<< 32)) 0 with id := s.ids + 1, slot := 7 }]) ∧
     (calm → x.aborted = false → x.kind = 1 → 1 ≤ k → x.armed + k ≤ x.depth → x.senders (s.bindOf c x) = [] → ∀ p tl,
       s.reach s.u (dieOf s.u) c pCO .wr false (s.rs a) (4096 * k) = .ok ⟨[(p, 4096 * k)], tl⟩ → spaceOf p = 2 →
       p % 2 ^ 64 / 2 ^ 23 = s.u → (s.rs a).toNat % 4096 = 0 → Goes (exec (.crecv ch a n d q) s) fun t =>
         t.calls = s.calls ∧ t.mem = s.mem ∧ ∀ i, i < k → t.isFull (tileOf (p + 4096 * i)) = true)) ∧
    CallOut (.csend ch a n d q) s ch k (decide (1 ≤ k) && decide (k ≤ 32)) (x.kind == 0)
      (Goes (exec (.csend ch a n d q) s) (Opens false (some d) { send with
        kind := 1, n := k, base := s.rs a, post := post, sig := signature 1 x.rop x.fmt k } 0 [] s)) ∧
    arming (.crecv ch a n d q) 2 (x.kind == 1) ∧
    arming (.cnrm ch a n d q) 7 (x.kind == 1 && x.peer == 0xFFF && x.fmt == 0 && x.rop == 1 && link.defd && link.kind == 2
      && link.handle == x.handle) ∧
    CallOut (.ca2ac ch a d q) s ch 0 true (x.kind == 2 && (x.fmt == 0 || x.fmt == 5))
      (let made : Call := { send with kind := 3, n := ranks, base := s.rs a, post := post,
                                       sig := signature 2 x.rop x.fmt ranks, dst := some (s.ps d) }
       let out := s.reach s.u (dieOf s.u) c pCO .wr false (s.rs a + BitVec.ofNat 64 (64 + 4 * ranks)) (8 * ranks)
       (∀ w, out = .ok w → Goes (exec (.ca2ac ch a d q) s) fun t => Opens false none { made with
          own := (tilesOfSpans w.spans).map fun j => (j, (t.tile j).2) } 0 (tilesOfSpans w.spans) s t) ∧
       (∀ f, out = .error f → Goes (exec (.ca2ac ch a d q) s) (Opens false none made 0 [] s))) ∧
    CallOut (.ca2ap ch a d q) s ch 0 true (x.kind == 2 && (x.fmt == 0 || x.fmt == 5))
      (∀ r, s.a2aReach s.u (dieOf s.u) c (s.rs a) ranks = .ok r →
        let bs := rdSpans (s.mxMem s.u) r.spans
        let free : Prop := Full s r ∧ s.coHeld s.u s.ids false r.spans = false ∧ s.banksHold [] r.spans = false ∧
          (s.die (dieOf s.u)).frozenColl = false
        let beyond : Prop := s.overBudget (dieOf s.u) 32 (useOf r.spans) ≠ none
        let ready : Prop := free ∧ ¬ beyond
        let word (arr j : Nat) : Word := BitVec.ofNat 32 (leNat ((bs.drop (64 + 4 * (ranks * arr + j))).take 4))
        let sc := (List.range ranks).map (word 0)
        let rc := (List.range ranks).map (word 1)
        let rp := (List.range ranks).map (word 2)
        let sbuf := BitVec.ofNat 64 (leNat bs)
        let rbuf := BitVec.ofNat 64 (leNat bs / 2 ^ 64)
        let made : Call := { send with kind := 4, base := s.rs a, post := post, sig := signature 3 x.rop x.fmt 0,
                                       n := sumWords rc, counts := sc, rcv := rc, cap := rp, got := [(0, sbuf), (1, rbuf)] }
        let put (va : BitVec 64) (n : Nat) : Except Flt Reach := s.reach s.u (dieOf s.u) c pCO .wr false va n
        (¬ free → Waits (.ca2ap ch a d q) s) ∧
        (free → beyond → Goes (exec (.ca2ap ch a d q) s) fun t =>
          t.flights = s.flights ∧ t.calls = s.calls ∧ (t.die (dieOf s.u)).frozenColl = true) ∧
        (ready → a2aBad bs (s.rs a) ranks true = none → sumWords rc = 0 → Goes (exec (.ca2ap ch a d q) s)
          (Opens false (some d) made 0 [] s)) ∧
        (ready → a2aBad bs (s.rs a) ranks true = none → sumWords rc ≠ 0 → ∀ w, put rbuf (4 * sumWords rc) = .ok w →
          let parts := (rc.zip rp).map fun (p : Word × Word) =>
            match put (rbuf + BitVec.ofNat 64 (4 * p.2.toNat)) (4 * p.1.toNat) with
            | .ok y => tileWords y.spans
            | .error _ => []
          let tiles := placeWords (((tilesOfSpans w.spans).map fun k => (k, 0)) ++ parts.flatten)
          ∃ t, exec (.ca2ap ch a d q) s = .next (t.setTiles ((tiles.filter (·.2 == 0)).map (·.1)) true) ∧
            Opens false (some d) { made with tiles := tiles, own := (tilesOfSpans w.spans).map fun j => (j, (t.tile j).2) } 0
              (tilesOfSpans w.spans) s t)) ∧
    CallOut (.cdig ch a n q) s ch k (decide (8 ≤ k) && decide (k ≤ 2 ^ 24) && k % 8 == 0) (x.kind == 2)
      (Goes (exec (.cdig ch a n q) s) (Opens false none { send with
        kind := 6, n := k, base := s.rs a, post := post, sig := signature 6 x.rop x.fmt 0 } 0 [] s)) ∧
    CallOut (.cswr ch v d o q) s ch 0 true (x.kind == 2 && x.fmt == 0)
      (Goes (exec (.cswr ch v d o q) s) (Opens false none { send with
        kind := 5, cap := [(s.rs v).extractLsb' 0 32], post := post, sig := signature 5 o.toNat x.fmt 0,
        dst := some (s.ps d) } 0 [] s)) ∧
    CallOut (.gagree ch v d q) s ch 0 true (x.kind == 2 && (s.bindOf c x).getLsbD 62)
      (Goes (exec (.gagree ch v d q) s) (Opens false none { send with
        kind := 8, cap := [(s.rs v).extractLsb' 0 32 &&& 1], post := post, dst := some (s.ps d) } 0 [] s)) ∧
    (let busy : Prop := (∃ y ∈ s.calls, y.ctx = c ∧ y.ch = ch) ∨ s.defining c ch = true ∨ (s.die (dieOf s.u)).frozenColl = true
     (busy → Waits (.chdef ch a d) s) ∧
     (¬ busy → (s.rs a).toNat % 32 = 0 → ∀ r, s.reach s.u (dieOf s.u) c pCO .rd false (s.rs a) 32 = .ok r →
       (¬ Full s r → Goes (exec (.chdef ch a d) s)
         (Flies 1 (s.flight pCO (s.cycle + 1) true false r.spans (.chdef ch (s.ps d) false)) s)) ∧
       (Full s r → s.overBudget (dieOf s.u) 32 (useOf r.spans) = none → Goes (exec (.chdef ch a d) s)
         (Flies 1 (s.flight pCO (s.cycle + spanLatency s.u r.spans) true false r.spans (.chdef ch (s.ps d) true)) s)) ∧
       (Full s r → s.overBudget (dieOf s.u) 32 (useOf r.spans) ≠ none → Goes (exec (.chdef ch a d) s) fun t =>
         t.flights = s.flights ∧ (t.die (dieOf s.u)).frozenColl = true)))

/-- Pause and resume (R351): a pause marks its entries at once, and holds tx only while packets are in flight; a resume
clears the mark of its entries; the .ALL forms name every defined entry of the issuing die. The MODEL's readings: the mark stands
from the pause's start, with packets in flight too (log entry 69), and calls that no longer stand still stand behind no other (log
entry 125). -/
def Obligations.CallPauses : Prop :=
  ∀ (s : State) (ch : BitVec 6),
    let c := (s.ctxOf s.u).toNat
    let own (j : BitVec 6) : Prop := (s.chan c j).defd = true ∧ (s.chan c j).die = dieOf s.u
    let same (t : State) : Prop := (∀ u, regs (t.unit u) = regs (s.unit u)) ∧ t.mem = s.mem ∧ t.flights = s.flights ∧
      t.fabric = s.fabric ∧ t.landings = s.landings
    let freed (t : State) : Prop := t.calls = s.calls.map fun k => { k with behind := k.behind && t.callPaused k }
    let marks (p : BitVec 6 → Prop) (b : Bool) (t : State) : Prop :=
      (∀ j, p j → t.chan c j = { s.chan c j with paused := b }) ∧ ∀ j, ¬ p j → t.chan c j = s.chan c j
    let pauses (i : Instr) (p : BitVec 6 → Prop) : Prop := Goes (exec i s) fun t => same t ∧ marks p true t ∧ t.calls = s.calls ∧
      (s.fabric = [] → Left s t 1)
    pauses (.cpause ch) (fun j => j = ch ∧ (s.chan c ch).defd = true) ∧ pauses .cpauseAll own ∧
    ((s.chan c ch).defd = true → Goes (exec (.cres ch) s) fun t => same t ∧ marks (· = ch) false t ∧ freed t ∧ Left s t 1) ∧
    Goes (exec .cresAll s) fun t => same t ∧ marks own false t ∧ freed t ∧ Left s t 1

/-- Arrivals at a member (R337 to R345, R347): a packet that the switch passes leaves the fabric; an arm notice, a count, a
partial or a digest is noted in its call, a tile's words and an all-to-all's payload arrive in memory; an abort marks every
entry of its handle. After the last count of a CA2AC the write of RC and RP sets out, or status 0x06 is delivered where their sum does not
fit; once that write stands in memory the sum is delivered. A write of a call's own share of a CA2AP counts its words once it stands in
memory. The last
partial of a CNRM delivers the sum of all in rank order; the last digest of a CDIG ends it, or logs the first rank that differs. A
receiver's arm notice is compared with no signature. A packet of a call that is still to issue waits, as does one of a call that stands still; one whose call
will never take it is discarded; one whose signature its call does not expect sends an abort to every member of the handle, and
the call that sent it will not end as accepted (R338). Words wait for earlier accesses on path CO to their granules (R120) and for matrix
reads of their banks (R269).
When a call will never take a packet, and which call that is, are the MODEL's reading (log entry 60), and so are that an arm notice
for a CSEND is not compared (log entry 61) and that a payload over its engine's budget stays in the fabric (log entry 70). -/
def Obligations.CallArrivals : Prop :=
  (∀ (s : State) (f : Flight) (bs : List Byte) (pl : Nat) (ts : List (Nat × Nat)) (k : Call), s.flights[s.arg.n]? = some f →
    f.what = .coStore k.id bs ts → f.spans = [(pl, bs.length)] → s.mayPerform f = true → s.writeWaits f = false → MemoryOk s → CallsOk s →
    s.call? k.id = some k → k.fin = false → k.post = false → (∀ j ∈ s.calls, j.fin = true → j.post = true → j.die ≠ k.die) →
    Goes (exec .writePerformed s) fun t => rdBytes t.mem pl bs.length = bs ∧ Else pl bs.length s t ∧
      (∀ d, k.kind = 3 → k.dst = some d →
        let got (r : Nat) : BitVec 64 := match k.got.find? fun g => g.1 == r with | some g => g.2 | none => 0
        let sum := ((List.range k.n).map fun r => (got r).toNat % 2 ^ 32).sum
        t.calls = s.calls.filter (fun j => j.id != k.id) ∧ (∀ j ∈ ts, t.isFull j.1 = true) ∧
        ∃ g ∈ t.flights, g.unit = k.unit ∧ g.due = s.cycle + 1 ∧
          g.what = .result [(.s d, .scalar (BitVec.ofNat 64 (sum % 2 ^ 32 + 2 ^ 32)))] 0) ∧
      (k.kind = 4 → ∃ y ∈ t.calls, y.id = k.id ∧ y.n = k.n - k.value.toNat ∧ y.next = k.next + 1 ∧
        ∀ a b, (a, b) ∈ k.tiles → (∀ j ∈ ts, j.1 ≠ a) → (a, b) ∈ y.tiles ∧ t.tile a = s.tile a)) ∧
  ∀ (s : State) (p : Packet) (d : Nat), s.fabric[s.arg.n]? = some p → s.dropCause p = none → p.dstDie = some d → CallsOk s →
    MemoryOk s →
    let gone (t : State) : Prop := t.fabric = s.fabric.eraseIdx s.arg.n
    let x (k : Call) : Chan := s.chan k.ctx.toNat k.ch
    let found (k : Call) : Prop := s.callFor p d p.wants = some k
    let stands (k : Call) : Prop := found k ∧ s.callPaused k = false ∧ ∀ j ∈ s.calls, j.id = k.id → j = k
    let takes (k : Call) : Prop := stands k ∧ s.expects p k = p.sig
    let arrivals : List (Instr × List Nat) := [(.armNoticeArrival, [pkArm]), (.collectivePacketArrival, [pkTile, pkCount, pkPay]),
      (.normPartialArrival, [pkNorm]), (.digestArrival, [pkDig])]
    let notes (i : Instr) (k : Call) (k' : Call) : Prop := Goes (exec i s) fun t => gone t ∧ t.mem = s.mem ∧
      t.units = s.units ∧ t.calls = s.calls.map fun j => if j.id = k.id then k' else j
    let w0 : Word := p.words.headD 0
    let w1 : Word := p.words.getD 1 0
    let ranks (k : Call) : Nat := bindN (s.bindOf k.ctx (x k))
    let lone (k : Call) : Prop := k.post = false ∧ ∀ j ∈ s.calls, j.fin = true → j.post = true → j.die ≠ k.die
    let ends (k : Call) (t : State) : Prop := gone t ∧ t.calls = s.calls.filter fun j => j.id != k.id
    let refused (cs : List Call) : List Call :=
      if p.srcDie.isSome = true then cs.map fun j => if j.id = p.call then { j with refused := true } else j else cs
    let aborts (k : Call) (e : BitVec 128) (t : State) : Prop := t.calls = refused s.calls ∧ t.mem = s.mem ∧
      t.fabric = s.fabric.eraseIdx s.arg.n ++ (List.range (bindN e)).map fun r =>
        ⟨k.id, k.ctx, (x k).handle, bindVersion e, bindRank e, r, some k.die, s.rankDie k.ctx.toNat (x k).handle r, pkAbort,
          k.ch, k.seq, 0, 0, s.expects p k, 0, 0, [p.sig, 0]⟩
    let bindingOf (k : Call) : Option (BitVec 128) := s.binding k.ctx.toNat k.die (x k).handle
    let delivers (k : Call) (d : BitVec 5) (st v n : Nat) (t : State) : Prop := ends k t ∧ t.flights = s.flights ++
      [⟨s.ids, k.unit, k.bun, k.addr, 7, pNone, s.cycle, s.cycle + 1, false, false, [], k.task, k.sup, none, false, 0,
        .result [(.s d, .scalar (BitVec.ofNat 64 (v + st * 2 ^ 32 + n % 2 ^ 13 * 2 ^ 40)))] 0⟩]
    let held (k : Call) (v : BitVec 64) (r : Nat) : Option (BitVec 64) := (((p.src, v) :: k.got).find? fun g => g.1 == r).map (·.2)
    (∀ k, p.kind = pkArm → p.words = [] → stands k →
      notes .armNoticeArrival k { k with notices := k.notices ++ [(p.tile, p.src, p.va, 0)] }) ∧
    (∀ k, p.kind = pkArm → p.words ≠ [] → takes k → w0 = k.counts.getD p.src 0 → k.n ≠ 0 →
      notes .armNoticeArrival k { k with notices := k.notices ++ [(p.src, p.src, p.va, 0)] }) ∧
    (∀ k e, p.kind = pkArm → p.words ≠ [] → takes k → w0 ≠ k.counts.getD p.src 0 → bindingOf k = some e →
      Goes (exec .armNoticeArrival s) (aborts k e)) ∧
    (∀ k, p.kind = pkCount → takes k → k.got.length + 1 < k.n →
      notes .collectivePacketArrival k { k with got := (p.src, w0.setWidth 64) :: k.got }) ∧
    (∀ k, p.kind = pkNorm → takes k → k.got.length + 1 < ranks k →
      notes .normPartialArrival k { k with got := (p.src, w0.setWidth 64) :: k.got }) ∧
    (∀ k, p.kind = pkDig → takes k → k.got.length + 1 < ranks k →
      notes .digestArrival k { k with got := (p.src, w1 ++ w0) :: k.got }) ∧
    (∀ k dd pl tl, p.kind = pkCount → takes k → lone k → k.dst = some dd → k.n < k.next → k.got.length + 1 = k.n →
      s.coWriting k.id = false →
      let rc (r : Nat) : Nat := ((held k (w0.setWidth 64) r).getD 0).toNat % 2 ^ 32
      let sum := ((List.range k.n).map rc).sum
      let va := k.base + BitVec.ofNat 64 (64 + 4 * k.n)
      (2 ^ 32 ≤ sum → Goes (exec .collectivePacketArrival s) fun t => delivers k dd 6 0 0 t ∧ t.mem = s.mem) ∧
      (sum < 2 ^ 32 → s.reach k.unit k.die k.ctx pCO .wr false va (8 * k.n) = .ok ⟨[(pl, 8 * k.n)], tl⟩ →
        s.overBudget k.die 32 (useOf [(pl, 8 * k.n)]) = none → Goes (exec .collectivePacketArrival s) fun t =>
          gone t ∧ t.mem = s.mem ∧
          (∃ y ∈ t.calls, y.id = k.id ∧ y.fin = false ∧ ∀ r, r < k.n → ((y.got.find? fun g => g.1 == r).map (·.2)) = held k (w0.setWidth 64) r) ∧
          ∃ f, t.flights = s.flights ++ [f] ∧ f.unit = k.unit ∧ f.path = pCO ∧ f.writes = true ∧ f.spans = [(pl, 8 * k.n)] ∧
            ∃ bs, f.what = .coStore k.id bs ((tilesOfSpans [(pl, 8 * k.n)]).map fun j => (j, 0)) ∧ bs.length = 8 * k.n ∧
              ∀ r, r < k.n → leNat ((bs.drop (4 * r)).take 4) = rc r ∧
                leNat ((bs.drop (4 * (k.n + r))).take 4) = ((List.range r).map rc).sum)) ∧
    (∀ k dd, p.kind = pkNorm → takes k → lone k → k.dst = some dd → k.got.length + 1 = ranks k → (∀ q ∈ k.tiles, q.2 = 0) →
      (k.n + 1) * ((x k).senders (s.bindOf k.ctx (x k))).length ≤ k.next →
      let xs := (List.range (ranks k)).filterMap fun r =>
        (held k (w0.setWidth 64) r).map fun v => decodeF fp32 (v.setWidth 32).toNat
      Goes (exec .normPartialArrival s) fun t =>
        delivers k dd 1 (BitVec.ofNat 32 (roundSum fp32 0 0 xs).1).toNat (ranks k) t ∧ t.mem = s.mem) ∧
    (∀ k, p.kind = pkDig → takes k → lone k → k.got.length + 1 = ranks k → ranks k < k.next →
      let dig (r : Nat) : BitVec 64 := (held k (w1 ++ w0) r).getD 0
      let own := dig (bindRank (s.bindOf k.ctx (x k)))
      ((∀ r, r < ranks k → dig r = own) → Goes (exec .digestArrival s) fun t =>
        ends k t ∧ t.flights = s.flights ∧ t.mem = s.mem) ∧
      (∀ r, r < ranks k → dig r ≠ own → (∀ j, j < r → dig j = own) → Goes (exec .digestArrival s) fun t =>
        ends k t ∧ t.flights = s.flights ∧ t.mem = (s.logFault k.who
          { Flt.of 0x2B 0 own with info1 := dig r, info2 := BitVec.ofNat 64 r }).mem)) ∧
    (∀ k pl left, p.kind = pkTile → takes k → k.tiles[p.tile]? = some (pl, left) →
      p.off + p.words.length ≤ (x k).len / 4 → p.words.length ≤ left → 0 < left →
      let q := pl + 4 * p.off
      (s.callHeld k true [(q, 4 * p.words.length)] = true → Waits .collectivePacketArrival s) ∧
      (s.callHeld k true [(q, 4 * p.words.length)] = false → Goes (exec .collectivePacketArrival s) fun t => gone t ∧ Else q (4 * p.words.length) s t ∧
        (∀ j, j < p.words.length →
          rd32 t.mem (q + 4 * j) = (arrive (x k).rop (x k).fmt (rd32 s.mem (q + 4 * j)) (p.words.getD j 0)).1) ∧
        (p.words.length = left → t.isFull (tileOf pl) = true) ∧ (p.words.length < left → t.tiles = s.tiles))) ∧
    (∀ k pl tl, p.kind = pkPay → takes k → p.words.length < k.n → s.reach k.unit k.die k.ctx pCO .wr false
        (p.va + BitVec.ofNat 64 (4 * p.off)) (4 * p.words.length) = .ok ⟨[(pl, 4 * p.words.length)], tl⟩ →
      let waits : Prop := s.callHeld k true [(pl, 4 * p.words.length)] = true
      (waits → Waits .collectivePacketArrival s) ∧
      (¬ waits → s.overBudget k.die 32 (useOf [(pl, 4 * p.words.length)]) ≠ none → Goes (exec .collectivePacketArrival s) fun t =>
        t.fabric = s.fabric ∧ t.calls = s.calls ∧ (t.die k.die).frozenColl = true) ∧
      (¬ waits → s.overBudget k.die 32 (useOf [(pl, 4 * p.words.length)]) = none →
      Goes (exec .collectivePacketArrival s) fun t => gone t ∧ Else pl (4 * p.words.length) s t ∧
        rdBytes t.mem pl (4 * p.words.length) = (p.words.map fun w => leBytes 4 w.toNat).flatten)) ∧
    (p.kind = pkAbort → Goes (exec .abortPacketReceipt s) fun t => gone t ∧
      ∀ j, (s.chan p.ctx.toNat j).defd = true → (s.chan p.ctx.toNat j).die = d → (s.chan p.ctx.toNat j).handle = p.handle →
        (t.chan p.ctx.toNat j).aborted = true) ∧
    (∀ y ∈ arrivals,
      let ended : Prop := s.glob.running = some p.ctx ∧ s.packetLost p d p.entry = true
      (p.kind ∉ y.2 → Waits y.1 s) ∧
      (s.callFor p d p.wants = none → ¬ ended → Waits y.1 s) ∧
      (∀ k, found k → s.callPaused k = true → Waits y.1 s) ∧
      (p.kind ∈ y.2 → s.callFor p d p.wants = none → ended → s.rival p d = none → Goes (exec y.1 s) fun t =>
        gone t ∧ t.calls = s.calls ∧ t.mem = s.mem) ∧
      (∀ k e, p.kind ∈ y.2 → s.callFor p d p.wants = none → ended → s.rival p d = some k → s.callPaused k = false →
        bindingOf k = some e → Goes (exec y.1 s) (aborts k e)) ∧
      (∀ k e, p.kind ∈ y.2 → found k → s.callPaused k = false → p.noticeToSend = false → s.expects p k ≠ p.sig →
        bindingOf k = some e → Goes (exec y.1 s) (aborts k e))) ∧
    (p.kind ≠ pkAbort → Waits .abortPacketReceipt s)

/-- An arriving word under a channel's operation (R339): it replaces, adds, or leaves the greater or the smaller; a signalling
NaN raises NV in SUM, MAX and MIN of FP32 (R76).

What the switch combines (R348): MAXP and SUM of a NaN are the canonical NaN, MAXN passes over NaNs, MAXP of no NaN is the
contribution that none exceeds; SUM of any number of contributions is one exact sum rounded once. -/
def Obligations.CollectiveArithmetic : Prop :=
  (∀ (old x : Word),
     arrive 0 0 old x = (x, 0) ∧ arrive 0 5 old x = (x, 0) ∧ arrive 2 5 old x = (old + x, 0) ∧
     arrive 1 0 old x = (BitVec.ofNat 32 (addF 0 0 (decodeF fp32 old.toNat) (decodeF fp32 x.toNat)).1,
       (addF 0 0 (decodeF fp32 old.toNat) (decodeF fp32 x.toNat)).2) ∧
     arrive 3 5 old x = (if old.toInt < x.toInt then x else old, 0) ∧
     arrive 4 5 old x = (if x.toInt < old.toInt then x else old, 0) ∧
     let a := decodeF fp32 old.toNat
     let b := decodeF fp32 x.toNat
     let signals (x : FV) : Bool := match x with
       | .nan _ sn _ => sn
       | _ => false
     let nv : BitVec 5 := if signals a = true ∨ signals b = true then fNV else 0
     arrive 3 0 old x = (BitVec.ofNat 32 (bits32 (minmaxF true a b).1), nv) ∧
     arrive 4 0 old x = (BitVec.ofNat 32 (bits32 (minmaxF false a b).1), nv)) ∧
  (∀ (a b : Word),
     let va := decodeF fp32 a.toNat
     let vb := decodeF fp32 b.toNat
     let nan (x : FV) : Prop := ∃ n q y, x = .nan n q y
     ((nan va ∨ nan vb) → (combine 0 [a, b]).1 = 0x7FC00000 ∧ (combine 2 [a, b]).1 = 0x7FC00000) ∧
     (nan va → nan vb → (combine 1 [a, b]).1 = 0x7FC00000) ∧
     (nan va → ¬ nan vb → (combine 1 [a, b]).1 = BitVec.ofNat 32 (bits32 vb)) ∧
     (¬ nan va → nan vb → (combine 1 [a, b]).1 = BitVec.ofNat 32 (bits32 va)) ∧
     (¬ nan va → ¬ nan vb →
       combine 0 [a, b] = (BitVec.ofNat 32 (bits32 (minmaxF true va vb).1), 0) ∧ combine 1 [a, b] = combine 0 [a, b] ∧
       combine 2 [a, b] = (BitVec.ofNat 32 (addF 0 0 va vb).1, (addF 0 0 va vb).2))) ∧
  (∀ (ws : List Word),
     let dec (w : Word) : FV := decodeF fp32 w.toNat
     let nan (w : Word) : Prop := ∃ n q y, dec w = .nan n q y
     let val (w : Word) : ℚ := match dec w with
       | .num n m e => ratOf n m e
       | _ => 0
     let total : ℚ := (ws.map val).sum
     let plus : Prop := ∃ w ∈ ws, dec w = .inf false
     let minus : Prop := ∃ w ∈ ws, dec w = .inf true
     ((∃ w ∈ ws, nan w) → (combine 0 ws).1 = 0x7FC00000 ∧ (combine 2 ws).1 = 0x7FC00000) ∧
     (ws ≠ [] → (∀ w ∈ ws, ¬ nan w) → ∃ w ∈ ws, combine 0 ws = (w, 0) ∧ combine 1 ws = (w, 0) ∧
       ∀ y ∈ ws, ltV true (dec w) (dec y) = false) ∧
     ((∀ w ∈ ws, ¬ nan w) →
       (plus → minus → combine 2 ws = (0x7FC00000, fNV)) ∧
       (plus → ¬ minus → combine 2 ws = (0x7F800000, 0)) ∧ (minus → ¬ plus → combine 2 ws = (0xFF800000, 0)) ∧
       (¬ plus → ¬ minus → total = 0 → combine 2 ws = (if ws ≠ [] ∧ ∀ w ∈ ws, w = 0x80000000 then 0x80000000 else 0, 0)) ∧
       (¬ plus → ¬ minus → total ≠ 0 → ∃ n m e, ratOf n m e = total ∧
         combine 2 ws = (BitVec.ofNat 32 (roundF fp32 0 0 (.num n m e)).1, (roundF fp32 0 0 (.num n m e)).2))))

/-- The switch (R331, R348 to R350): a contribution opens a slot or joins the one of its number, and the last one, or the
timer, frees it; an agreement round gathers its contributors, and its closing makes the next version current; a packet of an
old version or of no member is dropped; one whose call an abort has ended contributes nothing. The last contribution delivers to
each contributor the combination and their number with status 0x01, the timer what has come, with status 0x03; a contribution that
comes after its slot was freed is answered with status 0x04 and logged; an agreement's contributors get the new version. A call whose last packet has
been accepted ends, unless one of its packets was refused as a mismatch (R338). Where the fabric manager has bound a handle at the switch (R331),
its N and its members are that binding's. The MODEL's readings: what is at or below the highest sequence freed is late (log entry 66); a version
boundary drops the handle's slots (log entry 67); N of a handle that the switch has no binding of, and the version of one before its
first boundary, are those of the package's own bindings, and the switch takes ranks from the packets (log entry 68); contributions of distinct ranks are counted and an ended call's are taken back (log
entry 122). -/
def Obligations.SwitchSteps : Prop :=
  (∀ (s : State) (p : Packet) (h : BitVec 16) (b : SwBind),
    (s.bindHandle h b).bound h = some b ∧ (∀ j, j ≠ h → (s.bindHandle h b).bound j = s.bound j) ∧
    (Tab.wf none s.switch.freed = true → ∀ q, (s.bindHandle h b).switch.late h q = false) ∧
    (s.bound p.handle = some b → s.packetN p = b.n ∧
      ∀ d, p.srcDie = some d → p.kind ≠ pkAbort →
        (d ∉ b.members → p.kind ≠ pkAgree → s.dropCause p = some 1) ∧
        (d ∉ b.members → d ∉ b.candidates → s.dropCause p = some 1) ∧
        (d ∈ b.members ∨ d ∈ b.candidates ∧ p.kind = pkAgree →
          s.dropCause p = if p.version = s.switchVersion p.ctx p.handle then none else some 2))) ∧
  ∀ (s : State) (p : Packet) (x : SwSlot),
    let here : Prop := s.fabric[s.arg.n]? = some p
    let gone (t : State) : Prop := t.fabric = s.fabric.eraseIdx s.arg.n
    let open' : Option SwSlot := s.switch.slots.find? fun y => !y.round && y.handle == p.handle && y.seq == p.seq
    let turn : Option SwSlot := s.switch.slots.find? fun y => y.round && y.handle == p.handle
    let fresh (round : Bool) (sig : Word) : SwSlot := ⟨round, p.handle, p.seq, sig, s.packetN p, s.time, p.tmo, [s.asBound p]⟩
    let joined : List Packet := x.parts ++ [s.asBound p]
    let passes : Prop := here ∧ s.dropCause p = none
    let members (y : SwSlot) : Nat :=
      ((y.parts.filter fun z => z.src != 0x1FFF).map fun z => (z.srcDie, if z.srcDie.isSome = true then 0 else z.src)).eraseDups.length
    let counts : Prop := passes ∧ s.withdrawn p = false
    (passes → s.withdrawn p = true → ∀ i, (i, p.kind) ∈ [(Instr.switchContribution, pkSwr), (.agreementContribution, pkAgree)] →
      Goes (exec i s) fun t => gone t ∧ t.switch = s.switch ∧ t.calls = s.calls ∧ t.mem = s.mem) ∧
    let lone : Prop := (∀ i ∈ s.calls, i.post = false) ∧ ∀ i ∈ s.calls, ∀ j ∈ s.calls, i.id = j.id → i = j
    let outs (k : Call) (d : BitVec 5) (st v n : Nat) (f : Flight) : Prop :=
      f.unit = k.unit ∧ f.slot = 7 ∧ f.due = s.cycle + 1 ∧ f.task = k.task ∧
        f.what = .result [(.s d, .scalar (BitVec.ofNat 64 (v + st * 2 ^ 32 + n % 2 ^ 13 * 2 ^ 40)))] 0
    let waiting (k : Call) (d : BitVec 5) : Prop := k ∈ s.calls ∧ k.bears = true ∧ k.dst = some d ∧ k.status = 0 ∧ k.fin = false ∧
      s.coWriting k.id = false
    let ended (k : Call) (t : State) : Prop := ∀ j ∈ t.calls, j.id ≠ k.id
    let total (y : SwSlot) : Nat := (combine (y.sig.extractLsb' 24 4).toNat (y.parts.map fun z => z.words.headD 0)).1.toNat
    (counts → p.kind = pkSwr → s.switch.late p.handle p.seq = true →
      (p.srcDie = none → Goes (exec .switchContribution s) fun t => gone t ∧ t.switch = s.switch ∧ t.calls = s.calls) ∧
      (lone → p.srcDie ≠ none → ∀ k d, k.id = p.call → waiting k d → Goes (exec .switchContribution s) fun t =>
        gone t ∧ t.switch = s.switch ∧ t.calls = s.calls.filter (fun j => j.id != k.id) ∧
        (∃ f, t.flights = s.flights ++ [f] ∧ outs k d 4 0x7FC00000 0 f) ∧
        t.mem = (s.logFault k.who (s.timeoutFault k 2 0)).mem)) ∧
    (counts → p.kind = pkSwr → s.switch.late p.handle p.seq = false → open' = none → 1 < s.packetN p →
      (s.switch.slots.filter fun y => !y.round).length < 4096 → Goes (exec .switchContribution s) fun t =>
        gone t ∧ t.switch.slots = s.switch.slots ++ [fresh false p.sig] ∧ t.calls = s.calls ∧ t.mem = s.mem) ∧
    (counts → p.kind = pkSwr → s.switch.late p.handle p.seq = false → open' = some x → x.expired s.time = false →
      x.sig = p.sig →
      (members { x with parts := joined } < x.n → Goes (exec .switchContribution s) fun t => gone t ∧ t.calls = s.calls ∧
        ∃ y ∈ t.switch.slots, y.handle = p.handle ∧ y.seq = p.seq ∧ y.round = false ∧ y.parts = joined) ∧
      (x.n ≤ members { x with parts := joined } → Goes (exec .switchContribution s) fun t =>
        (∀ y ∈ t.switch.slots, ¬ (y.round = false ∧ y.handle = p.handle ∧ y.seq = p.seq)) ∧
        t.switch.late p.handle p.seq = true ∧
        (lone → ∀ k d q, waiting k d → q ∈ joined → q.srcDie ≠ none → q.call = k.id → ended k t ∧ ∃ f ∈ t.flights,
          outs k d 1 (total { x with parts := joined }) (members { x with parts := joined }) f))) ∧
    (s.switch.slots[s.arg.n]? = some x → x.round = false →
      (x.expired s.time = false → Waits .switchSlotTimeout s) ∧
      (x.expired s.time = true → Goes (exec .switchSlotTimeout s) fun t =>
        (∀ y ∈ t.switch.slots, ¬ (y.round = false ∧ y.handle = x.handle ∧ y.seq = x.seq)) ∧
        t.switch.late x.handle x.seq = true ∧
        (lone → ∀ k d q, waiting k d → (s.chan k.ctx.toNat k.ch).rpt = 0 → q ∈ x.parts → q.srcDie ≠ none → q.call = k.id →
          ended k t ∧ ∃ f ∈ t.flights, outs k d 3 (total x) (members x) f))) ∧
    (counts → p.kind = pkAgree → turn = none → 1 < s.packetN p →
      Goes (exec .agreementContribution s) fun t =>
        gone t ∧ fresh true 0 ∈ t.switch.slots ∧ t.calls = s.calls ∧ t.mem = s.mem) ∧
    (counts → p.kind = pkAgree → turn = some x → x.expired s.time = false → members { x with parts := joined } < x.n →
      Goes (exec .agreementContribution s) fun t =>
        gone t ∧ { x with parts := joined } ∈ t.switch.slots ∧ t.calls = s.calls ∧ t.mem = s.mem) ∧
    (s.switch.slots[s.arg.n]? = some x → x.round = true →
      (x.expired s.time = false → Waits .agreementTimeout s) ∧
      (x.expired s.time = true → ∀ y l, x.parts = y :: l → Goes (exec .agreementTimeout s) fun t =>
        Tab.get none t.switch.version x.handle.toNat = some (y.version + 1) ∧ (∀ z ∈ t.switch.slots, z.handle ≠ x.handle) ∧
        (lone → ∀ k d q, waiting k d → (s.chan k.ctx.toNat k.ch).rpt = 0 → q ∈ x.parts → q.srcDie ≠ none → q.call = k.id →
          ended k t ∧ ∃ f ∈ t.flights, ∃ rank, outs k d (if members x < x.n then 3 else 1) (y.version + 1).toNat rank f ∧
            ((∀ z ∈ x.parts, z.call = k.id → z = q) → (q.words.headD 0).getLsbD 0 = false → rank = 0x1FFF)))) ∧
    (here → (s.dropCause p = none → Waits .switchPacketDrop s) ∧
      (∀ why, s.dropCause p = some why → Goes (exec .switchPacketDrop s) gone)) ∧
    (∀ k, s.calls[s.arg.n]? = some k → k.kind = 1 → k.refused = true → CallsOk s → (∀ j ∈ s.calls, j.id = k.id → j = k) →
      Waits .lastPacketAccepted s) ∧
    (∀ k, s.calls[s.arg.n]? = some k → CallsOk s → (∀ j ∈ s.calls, j.id = k.id → j = k) → k.kind = 1 → k.fin = false →
      k.refused = false → s.callLocal k = true → s.packetsOut k.id = false → k.post = false →
      (∀ j ∈ s.calls, j.fin = true → j.post = true → j.die ≠ k.die) → Goes (exec .lastPacketAccepted s) fun t =>
        t.calls = s.calls.filter (fun j => j.id != k.id) ∧ t.mem = s.mem ∧ t.fabric = s.fabric)

/-! ## Events of the package -/

/-- Results and writes take effect (R47, R48, R49, R118, R121, R148, R163, R188, R189, R224, R273, R304): an exposed result lands
when it is due, each in its register with its flags, a write of a special register with that register's effect, a write of
RFMODE gating and waking clusters; the presence-tracked results of an operation, one or several, arrive in their registers; a
copy of an image becomes resident; a store writes its bytes and nothing else, a bit write the bits of its tiles. Where a matrix read
occupies a bank in this cycle, the granules of a load or store that lie in it wait and the others are read or written (R269). -/
def Obligations.LandingEvents : Prop :=
  ∀ (s : State), UnitsOk s → MemoryOk s →
    let n := s.arg.n
    let lands (l : Landing) (x : Machine.Unit) : Prop := Goes (exec .exposedResultLands s) fun t =>
      t.landings = s.landings.eraseIdx n ∧ Unital l.unit x s t
    let flag (x : Machine.Unit) (f : BitVec 5) : Machine.Unit := { x with spr := { x.spr with fflags := x.spr.fflags ||| f } }
    (∀ l, s.landings[n]? = some l → s.mayLand l = false → Waits .exposedResultLands s) ∧
    (∀ l, s.landings[n]? = some l → s.mayLand l = true →
      let x := s.unit l.unit
      (∀ r v f, l.what = .scalar r v f → Tab.wf 0 x.s = true → Goes (exec .exposedResultLands s) fun t =>
        let y := t.unit l.unit
        t.landings = s.landings.eraseIdx n ∧ t.mem = s.mem ∧ y.sreg r = (if r = 0 then 0 else v) ∧
        (∀ j, j ≠ r → y.sreg j = x.sreg j) ∧ y = { flag x f with s := y.s } ∧ ∀ u, u ≠ l.unit → t.unit u = s.unit u) ∧
      (∀ r b f, l.what = .guard r b f → Goes (exec .exposedResultLands s) fun t =>
        let y := t.unit l.unit
        t.landings = s.landings.eraseIdx n ∧ t.mem = s.mem ∧ y.guard r = (decide (r = 0) || b) ∧
        (∀ j, j ≠ r → y.guard j = x.guard j) ∧ y = { flag x f with g := y.g } ∧ ∀ u, u ≠ l.unit → t.unit u = s.unit u) ∧
      (∀ m, l.what = .rm m → lands l { x with spr := { x.spr with rm := m } }) ∧
      (∀ v, l.what = .efr 0 v → lands l { x with spr := { x.spr with efrm := v } }) ∧
      (∀ v, l.what = .efr 1 v → lands l { x with spr := { x.spr with efrv := v } }) ∧
      (∀ v, l.what = .efr 2 v → lands l { x with spr := { x.spr with efrt := v } }) ∧
      (∀ f, l.what = .flags f → lands l (flag x f)) ∧
      (∀ n bs, l.what = .scale n bs → lands l { x with eng := { x.eng with
        sc := Tab.set (List.replicate 512 0) x.eng.sc n.toNat bs } }) ∧
      (∀ m, l.what = .rfmode m → Goes (exec .exposedResultLands s) fun t =>
        let y := t.unit l.unit
        let woken := (List.range 8).filter fun i => m.getLsbD i && !x.spr.rfmode.getLsbD i
        t.landings = s.landings.eraseIdx n ∧ t.mem = s.mem ∧ (∀ u, u ≠ l.unit → t.unit u = s.unit u) ∧
        (∀ j, y.vreg j = if m.getLsbD (j.toNat / 8) then x.vreg j else []) ∧
        y = { x with spr := { x.spr with rfmode := m }, eng := { x.eng with v := y.eng.v },
                     disp := { x.disp with
                       wake := (x.disp.wake.filter fun w => m.getLsbD w.1.toNat) ++ woken.map fun i => (BitVec.ofNat 3 i, 64) } }) ∧
      (∀ p v, l.what = .spr p v →
        let same (t : State) : Prop := t.landings = s.landings.eraseIdx n ∧ t.units = s.units ∧ t.mem = s.mem
        (p = 0x015 → lands l { x with spr := { x.spr with fflags := x.spr.fflags &&& ~~~(v.setWidth 5) } }) ∧
        (p = 0x016 → lands l { x with spr := { x.spr with srseed := v } }) ∧
        (p = 0x041 → lands l { x with spr := { x.spr with epc := v &&& 0xFFFF0007FFFFFFFF },
                                      disp := { x.disp with redo := [], gaps := [] } }) ∧
        (p = 0x050 → lands l { x with spr := { x.spr with tscr0 := v } }) ∧
        (p = 0x051 → lands l { x with spr := { x.spr with tscr1 := v } }) ∧
        (p = 0x030 → CtxsOk s → Goes (exec .exposedResultLands s) fun t =>
          let c := (s.ctxOf l.unit).toNat
          same t ∧ t.glob = s.glob ∧ t.ctx c = { s.ctx c with plimit := v.setWidth 32 } ∧ ∀ k, k ≠ c → t.ctx k = s.ctx k) ∧
        (p = 0x060 → Goes (exec .exposedResultLands s) fun t => same t ∧ t.ctxs = s.ctxs ∧
          t.glob = if s.glob.swState = 2 then s.glob else { s.glob with switchat := v }) ∧
        (p = 0x061 → Goes (exec .exposedResultLands s) fun t => same t ∧ t.ctxs = s.ctxs ∧
          t.glob = s.glob.writeSwctl (v.setWidth 8)) ∧
        (p ∉ [0x015, 0x016, 0x030, 0x031, 0x041, 0x050, 0x051, 0x060, 0x061] → Goes (exec .exposedResultLands s) fun t =>
          same t ∧ t.ctxs = s.ctxs ∧ t.glob = s.glob)) ∧
      (∀ b, l.what = .mzero b → Goes (exec .exposedResultLands s) fun t =>
        let p := accPlace l.unit (b.toNat * 65536)
        t.landings = s.landings.eraseIdx n ∧ t.units = s.units ∧ Else p 65536 s t ∧
        ∀ a, p ≤ a → a < p + 65536 → rdByte t.mem a = 0)) ∧
    (∀ f, s.flights[n]? = some f → s.mayArrive f = true →
      let arrives (i : Instr) (ws : List (Stor × Val)) (fl : BitVec 5) : Prop := Goes (exec i s) fun t =>
        Ends f s t ∧ t.mem = s.mem ∧ (∀ u, u ≠ f.unit → t.unit u = s.unit u) ∧
        regs (t.unit f.unit) = regs (if s.current f = true then
          flag (ws.foldl (fun x w => x.put w.1 w.2) (s.unit f.unit)) fl else s.unit f.unit)
      (∀ ws fl, f.what = .result ws fl → f.isCopy = false → arrives .presenceResultArrives ws fl) ∧
      (∀ d c got v, f.what = .load d c got → (f.open && s.banksHold got f.spans) = false → c.value (loadBytes s.mem got f.spans) = .ok v →
        arrives .presenceResultArrives [(d, v)] 0) ∧
      (∀ d c got, f.what = .load d c got → (f.open && s.banksHold got f.spans) = true → Goes (exec .presenceResultArrives s) fun t =>
        t.mem = s.mem ∧ t.units = s.units ∧ t.flights = s.flights.map fun g =>
          if g.id == f.id then { g with what := .load d c (s.readFree got f.spans) } else g) ∧
      (∀ k g, f.what = .result [(.gn k, .image (some g))] 0 → arrives .gloadCopyComplete [(.gn k, .image (some g))] 0)) ∧
    (∀ f, s.flights[n]? = some f → s.mayArrive f = false →
      Waits .presenceResultArrives s ∧ Waits .gloadCopyComplete s) ∧
    (∀ f, s.flights[n]? = some f → s.mayPerform f = false → Waits .writePerformed s) ∧
    (∀ f, s.flights[n]? = some f → s.mayPerform f = true →
      (∀ bs p, f.what = .store bs → f.spans = [(p, bs.length)] → s.writeWaits f = true → Goes (exec .writePerformed s) fun t =>
        t.units = s.units ∧ t.tiles = s.tiles ∧ Else p bs.length s t ∧
        (∀ q ∈ granuleParts f.spans, s.bankBusy q = true → rdBytes t.mem q.1 q.2 = rdBytes s.mem q.1 q.2) ∧
        ∀ q ∈ granuleParts f.spans, s.bankBusy q = false → rdBytes t.mem q.1 q.2 = (bs.drop (q.1 - p)).take q.2) ∧
      (∀ bs p, f.what = .store bs → f.spans = [(p, bs.length)] → s.writeWaits f = false → Goes (exec .writePerformed s) fun t =>
        Ends f s t ∧ rdBytes t.mem p bs.length = bs ∧ Else p bs.length s t ∧ t.units = s.units ∧ t.tiles = s.tiles) ∧
      (∀ fmt rm seed bank row k src p, f.what = .star fmt rm seed bank row k src →
        let bs := starBytes s.mem src bank row k fmt.toNat rm seed
        f.spans = [(p, bs.length)] → s.writeWaits f = false → Goes (exec .writePerformed s) fun t =>
          Ends f s t ∧ rdBytes t.mem p bs.length = bs ∧ Else p bs.length s t ∧ t.units = s.units ∧ t.tiles = s.tiles) ∧
      (∀ ts b, f.what = .bits ts b → Goes (exec .writePerformed s) fun t =>
        Ends f s t ∧ t.mem = s.mem ∧ t.units = s.units ∧ (∀ k ∈ ts, t.isFull k = b) ∧ ∀ k, k ∉ ts → t.tile k = s.tile k))

/-- Dispatch (R26 to R28, R43, R147): a unit that may dispatch puts the words of its next bundle at the ends of its slot
queues and goes on behind it, or notes ILLEGAL_ENCODING; a free unit takes the next index of a group, or a replay, and enters
the task with its registers at their entry values, while a load of a plane and evaluations that an abandoned task left go on; a
co-resident group's first indices start at once, on units for which no older work is there, of a cluster as a unit neither. -/
def Obligations.DispatchEvents : Prop :=
  ∀ (s : State), UnitsOk s → MemoryOk s →
    let u := s.arg.n
    let x := s.unit u
    let entered (g : Group) (i : Word) (replay member : Bool) (t : State) (v : Nat) : Prop :=
      let y := t.unit v
      y.on = true ∧ y.task = some ⟨g.ctx, g.recd, i, replay, member, g.cluster, false, g.tag, g.ctl, g.num⟩ ∧
      y.front = ⟨g.entry.setWidth 64, [], 0, g.entry.getLsbD 12⟩ ∧ y.sreg 1 = g.args ∧ y.sreg 2 = i.setWidth 64 ∧
      (∀ r, r ≠ 1 → r ≠ 2 → y.sreg r = 0) ∧ (∀ r, r ≠ 0 → y.guard r = false) ∧ y.spr.rm = 0 ∧ y.spr.fflags = 0 ∧
      y.spr.sup = false ∧ y.spr.rfmode = 0xFF ∧ y.eng.v = [] ∧ y.eng.m = [] ∧ y.eng.h = [] ∧ y.eng.gn = [] ∧ y.tok = 0 ∧
      y.eng.active = (s.unit v).eng.active ∧ y.eng.shadow = (s.unit v).eng.shadow ∧ y.eng.load = (s.unit v).eng.load ∧
      y.eng.genUses = (s.unit v).eng.genUses
    (s.mayDispatch u = false → Waits .bundleDispatch s) ∧
    (s.mayDispatch u = true → x.stream = false → x.front.inHalf u = true → x.spr.inv = false → x.preempt = none →
      let b := s.codeAt u x.front.pc.toNat (x.spr.coherent.getLsbD (if x.front.half then 1 else 0))
      (∀ ops, decodeBundle u false x.front.index x.front.rotb x.disp.mldb b = .ok ops → x.disp.skips = List.replicate 8 0 →
        Goes (exec .bundleDispatch s) fun t =>
          let y := t.unit u
          (∀ k ∈ slotsOf u, (y.slot k).queue.map (fun o => (o.seq, o.addr, o.word, o.guard)) =
            (x.slot k).queue.map (fun o => (o.seq, o.addr, o.word, o.guard)) ++
              [(x.disp.seq, x.front.pc, b.extractLsb' (32 * k) 32, (b.extractLsb' 0 32).extractLsb' (2 * k - 2) 2)]) ∧
          y.disp.seq = x.disp.seq + 1 ∧
          (if ops.any (fun p => p.1 == 1 && isControl p.2) then y.front = x.front ∧ y.disp.wait = some x.disp.seq
            else y.front = x.front.after false x.front.pc ∧ y.disp.wait = none) ∧
          regs { y with front := x.front } = regs x ∧ (∀ v, v ≠ u → t.unit v = s.unit v) ∧ t.mem = s.mem) ∧
      (∀ sub k, decodeBundle u false x.front.index x.front.rotb x.disp.mldb b = .error (sub, k) →
        Goes (exec .bundleDispatch s) fun t => regs (t.unit u) = regs x ∧ t.mem = s.mem ∧
          ∃ p, (t.unit u).disp.pend = some p ∧ p.code = 1 ∧ p.sub = BitVec.ofNat 8 sub ∧ p.seq = x.disp.seq ∧ p.slot = k ∧
            p.info0 = (b.extractLsb' (32 * k) 32).setWidth 64)) ∧
    (∀ g, s.workFor u = some (.index g) → s.turn u = true → spaceOf g.place < 2 → Goes (exec .taskDispatch s) fun t =>
      (∀ v ∈ g.coresOf u, entered g (rd32 s.mem (g.place + 28)) false false t v) ∧
      rd32 t.mem (g.place + 28) = rd32 s.mem (g.place + 28) + 1 ∧ Else (g.place + 28) 4 s t ∧
      ∀ v, v ∉ g.coresOf u → t.unit v = s.unit v) ∧
    (∀ g i, s.workFor u = some (.replay g i) → s.turn u = true → Goes (exec .replayDispatch s) fun t =>
      (∀ v ∈ g.coresOf u, entered g i true (g.cores && decide (i.toNat < g.count0.toNat)) t v) ∧ t.mem = s.mem ∧
      ∀ v, v ∉ g.coresOf u → t.unit v = s.unit v) ∧
    ((s.workFor u = none ∨ s.turn u = false ∨ ∃ g, s.workFor u = some (.together g)) → Waits .taskDispatch s ∧ Waits .replayDispatch s) ∧
    (∀ g, s.groups[u]? = some g →
      let clusterFirst (v : Nat) : Bool := s.ofCluster (v / 4 * 4) (s.workFor (v / 4 * 4))
      let free := g.units.filter fun v => s.workFor v == some (.together g) && (g.cluster || !clusterFirst v)
      let ready : Prop := g.cores = true ∧ g.begun = false ∧ s.glob.running = some g.ctx ∧ s.glob.swState ≠ 2 ∧
        s.fatalRuns = false ∧
        g.count0.toNat ≤ free.length
      (¬ ready → Waits .coResidentDispatch s) ∧
      (ready → g.cluster = false → Goes (exec .coResidentDispatch s) fun t =>
        (∀ k v, k < g.count0.toNat → free[k]? = some v → entered g (BitVec.ofNat 32 k) false true t v) ∧
        rd32 t.mem (g.place + 28) = g.count0))

/-- Pre-emption (R32 to R34, R142): PREQ asks the task of a core of its context, or of any if the supervisor controller writes it (R363), for a drain point; a drained task's image
goes to its save slot and its unit is free; one that does not fit, or that has not drained within its limit, is abandoned. -/
def Obligations.PreemptionEvents : Prop :=
  ∀ (s : State), UnitsOk s → MemoryOk s →
    let u := s.arg.n
    let x := s.unit u
    let left (t : State) : Prop := (t.unit u).task = none ∧ (t.unit u).on = false
    (∀ l v, s.landings[u]? = some l → l.what = .spr 0x031 v →
      let w := v.toNat % 512
      let y := s.unit w
      let same : Prop := y.task ≠ none ∧ (s.isSup l.unit = true ∨ s.ctxOf w = s.ctxOf l.unit)
      (s.mayLand l = false → Waits .preq s) ∧
      (s.mayLand l = true → ¬ same → Goes (exec .preq s) fun t =>
        t.landings = s.landings.eraseIdx u ∧ t.units = s.units ∧ t.mem = s.mem) ∧
      (s.mayLand l = true → same → w < 384 → y.on = true → y.preempt = none → Goes (exec .preq s) fun t =>
        t.landings = s.landings.eraseIdx u ∧ t.mem = s.mem ∧
        (t.unit w).preempt = some ⟨s.timeOf (dieOf w), (s.ctx (s.ctxOf w).toNat).plimit, false⟩)) ∧
    (∀ p t, x.preempt = some p → x.task = some t → u < 384 → p.gang = false → x.disp.closed = false →
      (s.drainedAt u false = false → Waits .taskPreemption s) ∧
      (s.drainedAt u false = true → ∀ g, s.groupOf t = some g →
        let img := x.image u
        let slot := g.slot u
        (slot.2 < img.length → Goes (exec .taskPreemption s) left) ∧
        (img.length ≤ slot.2 → slot.1.toNat / 2 ^ 60 = 1 → t.cluster = false → ∀ q tl,
          s.reach u (dieOf u) t.ctx pSL .wr false slot.1 img.length = .ok ⟨[(q, img.length)], tl⟩ →
          Goes (exec .taskPreemption s) fun s' => left s' ∧ rdBytes s'.mem q img.length = img ∧ Else q img.length s s' ∧
            (s'.unit u).saved = x.saved ++ [(t, slot.1)] ∧ (s'.unit u).freed = some t))) ∧
    (∀ p t, x.preempt = some p → x.task = some t → u < 384 → p.gang = false → x.disp.closed = false →
      let late : Prop := p.time.toNat + p.limit.toNat ≤ (s.timeOf (dieOf u)).toNat
      (¬ late → Waits .preemptionLimitExpiry s) ∧ (late → Goes (exec .preemptionLimitExpiry s) left))

/-- The gang switch (R36, R37, R142): a write of SWCTL arms or cancels, unless a switch runs; at the instant of a die's counter
every unit of the running context on that die is asked for a drain point and its channels pause, and the first die's instant
begins the switch and fixes the incoming context; what has not drained by the limit is abandoned; the context's state is saved,
with the register image of each unit that runs, and its units are idle; the incoming one's is restored, or the package idles.
That the save and the restore are one step each (log entry 75), that what is saved is held as data and the bytes of the outgoing
partition stay (log entry 76), that a budget's freeze stays (log entry 78), that a fatal
context is not restored (log entry 114) and what becomes of contributions that no core awaits (log entry 131) are the MODEL's
choices. -/
def Obligations.GangSwitchEvents : Prop :=
  ∀ (s : State), UnitsOk s → CtxsOk s →
    let v : Byte := s.arg.v.setWidth 8
    let st := s.glob.swState
    let target : Nat := v.toNat % 8 + (if v.getLsbD 4 then 16 else 0)
    let d := s.arg.n % 24
    let due : Prop := (st = 1 ∨ s.glob.swStep = 1 ∧ d ∉ s.glob.swDies) ∧ ¬ s.timeOf d < s.glob.switchat
    let limit (c : BitVec 3) : Word :=
      if (s.ctx c.toNat).plimit.toNat < 1200000 then (s.ctx c.toNat).plimit else 1200000
    let may (c : BitVec 3) : Prop := (s.ctx c.toNat).state = 1 ∧ (s.ctx c.toNat).fatal = false
    let quiet (t : State) : Prop := t.units = s.units ∧ t.mem = s.mem ∧ t.ctxs = s.ctxs
    (v.getLsbD 5 = true → st ≠ 2 → Goes (exec .swctlArm s) fun t =>
      t.glob = { s.glob with swctl := BitVec.ofNat 8 (target + 32 + 64) } ∧ quiet t) ∧
    (v.getLsbD 5 = true → st = 2 → Waits .swctlArm s) ∧
    (v.getLsbD 5 = false → st ≠ 2 → Goes (exec .swctlCancel s) fun t =>
      t.glob.swState = (if st = 1 then 0 else st) ∧ t.glob.swctl.extractLsb' 0 3 = v.extractLsb' 0 3 ∧
      t.glob.swctl.getLsbD 4 = v.getLsbD 4 ∧ t.glob.swctl.getLsbD 3 = s.glob.swctl.getLsbD 3 ∧
      t.glob.swctl.getLsbD 5 = false ∧ quiet t) ∧
    (v.getLsbD 5 = false → st = 2 → Waits .swctlCancel s) ∧
    (¬ due → Waits .switchInstant s) ∧
    (due → s.glob.running = none → Goes (exec .switchInstant s) fun t =>
      t.glob.swState = 2 ∧ t.glob.swStep = 2 ∧ t.glob.swIn = s.incoming ∧ quiet t) ∧
    (∀ c : BitVec 3, s.incoming = some c ↔ s.glob.swctl.getLsbD 4 = false ∧ c = s.glob.swctl.extractLsb' 0 3 ∧ may c) ∧
    (due → ∀ c, s.glob.running = some c → Goes (exec .switchInstant s) fun t =>
      (st = 1 → t.glob.swState = 2 ∧ t.glob.swStep = 1 ∧ t.glob.swDies = [d] ∧ t.glob.swIn = s.incoming) ∧
      (st ≠ 1 → t.glob = { s.glob with swDies := d :: s.glob.swDies }) ∧ t.mem = s.mem ∧
      (∀ u ∈ s.unitsOf c, dieOf u = d → ∃ p, (t.unit u).preempt = some p ∧ p.gang = true ∧ p.time = s.timeOf d ∧
        p.limit = limit c) ∧
      (∀ u, dieOf u ≠ d → t.unit u = s.unit u) ∧
      ∀ j, (s.chan c.toNat j).defd = true → (s.chan c.toNat j).die = d → (t.chan c.toNat j).paused = true) ∧
    (∀ c, s.glob.running = some c → s.glob.swStep = 1 →
      let late (u : Nat) : Prop := s.gangDrained u = false ∧ ∃ p, (s.unit u).preempt = some p ∧ p.gang = true ∧
        p.time.toNat + p.limit.toNat ≤ (s.timeOf (dieOf u)).toNat
      ((∀ u ∈ s.unitsOf c, ¬ late u) → s.lateParts c = [] → Waits .switchDrainLimit s) ∧
      (Goes (exec .switchDrainLimit s) fun t => ∀ u ∈ s.unitsOf c, late u →
        (isCtl u = false → (s.unit u).task ≠ none) → (t.unit u).on = false) ∧
      (s.maySave c = false → Waits .gangSwitchSave s) ∧
      (s.maySave c = true → Goes (exec .gangSwitchSave s) fun t =>
        t.glob.running = none ∧ t.glob.swStep = 2 ∧ t.mem = s.mem ∧
        (∃ y, (t.ctx c.toNat).saved = some y ∧ (∀ u, s.isSup u = false → Tab.get .idle y.units u = s.unit u) ∧
          ∀ u, s.isSup u = false → (s.unit u).on = true → (u, (s.unit u).image u) ∈ y.images) ∧
        ∀ u, s.isSup u = false → t.unit u = { Unit.idle with frozen := (s.unit u).frozen })) ∧
    (s.glob.swStep ≠ 2 → Waits .gangSwitchRestore s) ∧
    (s.glob.swStep = 2 → (∀ c, s.glob.swIn = some c → ¬ may c) → Goes (exec .gangSwitchRestore s) fun t =>
      t.glob.running = s.glob.running ∧ t.glob.swStep = 0 ∧ t.glob.swState = (if s.glob.swBad then 3 else 0) ∧ quiet t ∧
      t.glob.swctl.getLsbD 3 = (s.glob.swIn.isSome || !s.glob.swctl.getLsbD 4)) ∧
    (∀ tgt, s.glob.swStep = 2 → s.glob.swIn = some tgt → may tgt → (s.ctx tgt.toNat).retry = [] →
      (∀ z, (s.ctx tgt.toNat).saved = some z → ∀ p ∈ z.images, s.imageFault p.1 tgt p.2 = none) →
      Goes (exec .gangSwitchRestore s) fun t =>
        t.glob.running = some tgt ∧ t.glob.swStep = 0 ∧ t.glob.swState = (if s.glob.swBad then 3 else 0) ∧
        ∀ u, u < 384 →
          let y := match (s.ctx tgt.toNat).saved with | some z => Tab.get Unit.idle z.units u | none => Unit.idle
          (t.unit u).s = y.s ∧ (t.unit u).g = y.g ∧ (t.unit u).front = y.front ∧ (t.unit u).task = y.task)

/-- The ends of waits, parked requests, invalidations and budgets (R23, R107, R108, R113, R162, R210, R214, R367, R368): a
wait whose word has been found ends its hold; PARKREP sends parked requests again, at once or when their context next runs;
TLBINV drops what it names once no access that used it is on its way; a period's boundary clears every USE; THAW resumes a
master, whose waits end on memory as it stands then (R215), and KILL ends what it does: a core's task, the operations of a transfer
queue with CODE 0x03, and of a frozen collective engine the calls, each handle of which is aborted. The MODEL's choices: which accesses an
invalidation waits for (log entry 111), when budget periods begin (log entry 84), THAW and KILL in one write, and a killed
master that stays frozen (log entry 85), a register beyond a failed link that the host does not reach (log entry 99). -/
def Obligations.WaitAndBudgetEvents : Prop :=
  ∀ (s : State), UnitsOk s → CtxsOk s → DiesOk s →
    let n := s.arg.n
    let same (t : State) : Prop := (∀ u, regs (t.unit u) = regs (s.unit u)) ∧ t.mem = s.mem
    let reaches (d : Nat) : Prop := s.glob.bootfail = false ∧ s.routeBad 0 d = false
    (∀ w, s.watches[n]? = some w →
      let x := s.unit w.unit
      let ends : Prop := w.met = true ∧ x.frozen = false ∧ w.due ≤ s.cycle ∧ (x.stream = true → s.hostDone w.sent = true)
      (¬ ends → Waits .waitmSatisfied s) ∧
      (ends → (x.slot w.slot).hold = .wait w.id → Goes (exec .waitmSatisfied s) fun t => same t ∧
        t.watches = s.watches.eraseIdx n ∧ (t.unit w.unit).slot w.slot = { x.slot w.slot with hold := .done 0 })) ∧
    (∀ o r a k, let x := s.unit n
      (x.slot 1).queue = o :: r → decodeSlot .sq o.word = .ok (some (.waitt a)) → (x.slot 1).hold = .wait k →
      (k ≤ (s.timeOf (dieOf n)).toNat → Goes (exec .waittDeadline s) fun t => same t ∧
        (t.unit n).slot 1 = { x.slot 1 with hold := .done (BitVec.ofNat 64 k) }) ∧
      ((s.timeOf (dieOf n)).toNat < k → Waits .waittDeadline s)) ∧
    (let c : BitVec 3 := BitVec.ofNat 3 s.arg.m
     let parked := s.flights.filter fun f => f.parked && dieOf f.unit == n && s.flightCtx f == c
     (reaches n → s.glob.running ≠ some c → (s.ctx c.toNat).state = 1 → Goes (exec .parkrep s) fun t => same t ∧
       t.flights = s.flights ∧ n ∈ (t.ctx c.toNat).retry) ∧
     (reaches n → s.glob.running ≠ some c → (s.ctx c.toNat).state ≠ 1 → Waits .parkrep s) ∧
     (reaches n → s.glob.running = some c → parked = [] → Waits .parkrep s) ∧
     (reaches n → s.glob.running = some c → ∀ f r va ds q, parked = [f] → f.what = .req r va ds →
       s.reqReach f.unit (s.flightCtx f) false r va = .ok q → Goes (exec .parkrep s) fun t => same t ∧
         t.flights = ((s.flights.filter fun g => !(g.parked && dieOf g.unit == n && s.flightCtx g == c)) ++ [f]).map fun g =>
           if g.id == f.id then
             { g with parked := false, bad := none, spans := q.spans, due := s.cycle + q.latency f.unit } else g) ∧
     (s.glob.bootfail = false → s.routeBad 0 n = true → Waits .parkrep s)) ∧
    (let c := n % 8
     let inv := (s.ctx c).tlbinv
     let w := (s.arg.v ||| 0x80) &&& 0xFFFFFFFFFFFF00C7
     let refused : Prop := inv.getLsbD 7 = true ∨ (w.extractLsb' 0 3).toNat ≠ c ∨ w.extractLsb' 16 8 ≠ 0
     (reaches 0 → refused → Waits .tlbinvGo s) ∧
     (reaches 0 → ¬ refused → Goes (exec .tlbinvGo s) fun t => same t ∧ (t.ctx c).tlbinv = w ∧ t.dies = s.dies) ∧
     (inv.getLsbD 7 = false → Waits .tlbInvalidationComplete s) ∧
     let cc : BitVec 3 := BitVec.ofNat 3 c
     let busy : Prop := (∃ f ∈ s.flights, f.open = true ∧ s.flightCtx f = cc ∧ ∃ p ∈ f.spans, s.usesDropped cc inv p = true) ∨
       ∃ w ∈ s.watches, s.ctxOf w.unit = cc ∧ s.usesDropped cc inv (w.place, w.bytes) = true
     (busy → Waits .tlbInvalidationComplete s) ∧
     (inv.getLsbD 7 = true → ¬ busy →
       Goes (exec .tlbInvalidationComplete s) fun t => same t ∧ (t.ctx c).tlbinv = inv &&& ~~~0x80 ∧
         ∀ d, (t.die d).tlb = (s.die d).tlb.filter fun e => !tlbDropped inv e)) ∧
    (let d := n % 24
     let m := s.arg.m % 34
     let u := 16 * d + m
     ((s.timeOf d).toNat < (s.die d).bbnext.toNat → Waits .budgetPeriodBoundary s) ∧
     ((s.die d).bbnext.toNat ≤ (s.timeOf d).toNat → Goes (exec .budgetPeriodBoundary s) fun t => same t ∧
       (∀ k r, t.budget d k r = { s.budget d k r with use := 0 }) ∧
       (t.die d).bbnext = (s.die d).bbnext + (s.die d).bbper.setWidth 64 * 1000 ∧ ∀ e, e ≠ d → t.die e = s.die e) ∧
     (reaches d → m = 33 → d ≠ 0 → Waits .budgetThaw s ∧ Waits .budgetKill s) ∧
     (reaches d → m = 33 → Waits .budgetKill s) ∧
     (reaches d → ¬ (m = 33 ∧ d ≠ 0) → Goes (exec .budgetThaw s) fun t => t.mem = s.mem ∧
       (∀ r, r < 3 → t.budget d m r = { s.budget d m r with frz := false }) ∧
       (m < 16 → regs (t.unit u) = regs { s.unit u with frozen := false } ∧ (t.unit u).disp = (s.unit u).disp ∧
         (∀ k, k ≠ 6 → (t.unit u).slot k = (s.unit u).slot k) ∧
         (∀ v, ((s.unit u).slot 6).hold = .done v → (t.unit u).slot 6 = { (s.unit u).slot 6 with hold := .none }) ∧
         t.watches = s.watches.map fun w =>
           if w.unit = u ∧ w.armed = true then ({ w with met := false } : Watch).check s.mem s.ids else w) ∧
       (16 ≤ m → m < 32 → m - 16 ∉ (t.die d).frozenTx) ∧ (m = 32 → (t.die d).frozenColl = false) ∧
       (m = 33 → (t.die d).frozenHost = false)) ∧
     (reaches d → m < 16 → (s.unit u).task = none → Waits .budgetKill s) ∧
     (∀ k, reaches d → m < 16 → (s.unit u).task = some k → Goes (exec .budgetKill s) fun t =>
       (t.unit u).task = none ∧ (t.unit u).on = false) ∧
     (reaches d → 16 ≤ m → m < 32 → (∀ x ∈ s.xfers, x.unit ≠ u - 16) → Waits .budgetKill s) ∧
     (reaches d → 16 ≤ m → m < 32 → ∀ x ∈ s.xfers, x.unit = u - 16 → x.kind ≠ .transform → x.recd = false → x.tok ≠ 0 →
       s.xferCurrent x = true → (∀ y ∈ s.xfers, y.unit = x.unit → y.tok.toNat % 256 = x.tok.toNat % 256 → y = x) →
       (∀ y ∈ s.xfers, y.id = x.id → y = x) → Goes (exec .budgetKill s) fun t =>
         (t.unit x.unit).ringGet x.tok = BitVec.ofNat 14 (3 + x.flg.toNat * 256 + if x.fpd = true then 8192 else 0) ∧
         (∀ y ∈ t.xfers, y.id = x.id → y.recd = true ∧ y.rows = [] ∧ ∀ k ∈ y.left, k ∈ x.left ∧ k ∉ x.goneTiles) ∧
         t.mem = s.mem ∧ t.tiles = s.tiles) ∧
     (reaches d → m = 32 → (s.die d).frozenColl = false → Waits .budgetKill s) ∧
     (reaches d → m = 32 → (s.die d).frozenColl = true → ∀ k ∈ s.calls, k.die = d → k.fin = false → ∀ e,
       let h := (s.chan k.ctx.toNat k.ch).handle
       s.binding k.ctx.toNat d h = some e → Goes (exec .budgetKill s) fun t => ∀ r, r < bindN e →
         ∃ p ∈ t.fabric, p.kind = pkAbort ∧ p.ctx = k.ctx ∧ p.handle = h ∧ p.srcDie = some d ∧ p.dst = r))

/-- The host port (R13, R116, R357 to R359, R364, R365): an access through the BAR4 aperture or a CXL.mem window reaches the
context's memory, is refused, its fault, a misaligned address among them, logged, or answers all ones for a context under teardown; writes of the MSI-X table and its enable send what is
no longer held back; writes of BAR0 registers take their writable bits, in either width; an alert is a message; a failed
link is failed for every route that needs it, and reported. Whether the port trained as CXL is free (log entry 2). The MODEL's
choices: what a frozen host port holds, and what a context under teardown answers (log entry 81), what a write of four bytes
leaves (log entry 80), the report of a failed link and a register beyond one (log entry 99). -/
def Obligations.HostEvents : Prop :=
  ∀ (s : State), CtxsOk s → Tab.wf (1#128 <<< 96) s.glob.msix = true →
    let a := s.arg
    let n : Nat := if a.wide = true then 8 else 4
    let odd : Prop := a.off % n ≠ 0
    let skew (va : BitVec 64) : Prop := va.toNat % n ≠ 0
    let torn (va : BitVec 64) : Flt := (align va n).on pHI (if a.wr = true then .wr else .rd)
    let g := s.glob
    let tells (i : Instr) (x : HostMsg) : Prop := Goes (exec i s) fun t => t = { s with hostOut := s.hostOut ++ [x] }
    let out (t : State) (q : Reach) : Prop := t.mem = s.mem ∧ t.units = s.units ∧
      if a.wr = true then t.hostOut = s.hostOut ∧ ∃ f, t.flights = s.flights ++ [f] ∧ f.path = pHI ∧ f.spans = q.spans ∧
        f.writes = true ∧ f.what = .store (leBytes n a.v.toNat)
      else t.hostOut = s.hostOut ++ [.data (BitVec.ofNat 64 (leNat (rdSpans s.mem q.spans)))] ∧ t.flights = s.flights
    let logged (t : State) (c : BitVec 3) (f : Flt) (x : HostMsg) : Prop :=
      let l := s.logFault ⟨0x1FF, c, none, 0, true, false, false, 0, 0⟩ f
      t = if a.wr = true then l else { l with hostOut := l.hostOut ++ [x] }
    let calm : Prop := ∀ f ∈ s.flights, f.path ≠ pHI
    let kind : Acc := if a.wr = true then .wr else .rd
    let st := (s.ctx g.apctx.toNat).state
    let va := g.apbase + BitVec.ofNat 64 a.off
    let awake : Prop := (s.die 0).frozenHost = false ∧ g.bootfail = false
    ((s.die 0).frozenHost = true → Waits .hostBar4Access s ∧ Waits .cxlMemAccess s) ∧
    ((s.die 0).frozenHost = false → g.bootfail = true → tells .hostBar4Access .unsupported) ∧
    (awake → (st ≠ 1 ∧ st ≠ 2 ∨ 2 ^ 36 ≤ a.off) →
      (a.wr = true → Waits .hostBar4Access s) ∧ (a.wr = false → tells .hostBar4Access .unsupported)) ∧
    (awake → a.off < 2 ^ 36 → st = 2 →
      (a.wr = true → Waits .hostBar4Access s) ∧ (a.wr = false → tells .hostBar4Access (.data (BitVec.allOnes 64)))) ∧
    (awake → ¬ skew va → a.off < 2 ^ 36 → st = 1 → calm → ∀ q, s.reach 0x1FF 0 g.apctx pHI kind false va n = .ok q →
      s.overBudget 0 33 (useOf q.spans) = none → Goes (exec .hostBar4Access s) fun t => out t q) ∧
    (awake → skew va → a.off < 2 ^ 36 → st = 1 → ∀ q, s.reach 0x1FF 0 g.apctx pHI kind false va n = .ok q →
      Goes (exec .hostBar4Access s) fun t => logged t g.apctx (torn va) .unsupported) ∧
    (awake → a.off < 2 ^ 36 → st = 1 → ∀ f, s.reach 0x1FF 0 g.apctx pHI kind false va n = .error f →
      Goes (exec .hostBar4Access s) fun t => logged t g.apctx f .unsupported) ∧
    (awake → ∀ c, c < 8 → (∀ j, j < 8 → j ≠ c → (s.ctx j).hmwin.getLsbD 0 = false) →
      let w := (s.ctx c).hmwin
      let base := (w.extractLsb' 30 34).toNat * 2 ^ 30
      let size := (w.extractLsb' 90 10).toNat * 2 ^ 30
      let inside : Prop := w.getLsbD 0 = true ∧ base ≤ a.off ∧ a.off < base + size
      let va := BitVec.ofNat 64 ((w.extractLsb' 64 26).toNat * 2 ^ 30 + (a.off - base))
      let taken (t : State) (P : State → Prop) : Prop :=
        if Config.trainedCxl g.boots = true then P t
        else if a.wr = true then t = s else t = { s with hostOut := s.hostOut ++ [.poison] }
      (¬ inside → (a.wr = true → Waits .cxlMemAccess s) ∧ (a.wr = false → tells .cxlMemAccess .poison)) ∧
      (inside → (s.ctx c).state = 1 → (a.wr = true → w.getLsbD 100 = true) → ¬ skew va → calm → ∀ q,
        s.reach 0x1FF 0 (BitVec.ofNat 3 c) pHI kind false va n = .ok q → s.overBudget 0 33 (useOf q.spans) = none →
        Goes (exec .cxlMemAccess s) fun t => taken t fun t => out t q) ∧
      (inside → (s.ctx c).state = 1 → (a.wr = true → w.getLsbD 100 = true) → skew va → ∀ q,
        s.reach 0x1FF 0 (BitVec.ofNat 3 c) pHI kind false va n = .ok q → Goes (exec .cxlMemAccess s) fun t =>
          taken t fun t => logged t (BitVec.ofNat 3 c) (torn va) .poison) ∧
      (inside → (s.ctx c).state = 1 → (a.wr = true → w.getLsbD 100 = true) → ∀ f,
        s.reach 0x1FF 0 (BitVec.ofNat 3 c) pHI kind false va n = .error f → Goes (exec .cxlMemAccess s) fun t =>
          taken t fun t => logged t (BitVec.ofNat 3 c) f .poison)) ∧
    (odd → tells .msixTableWrite .unsupported ∧ tells .registerWrite .unsupported) ∧
    (g.bootfail = false → a.wide = true → ¬ odd → a.off < 0x8000 → Goes (exec .msixTableWrite s) fun t =>
      let k := a.off / 16
      let lo := a.off / 8 % 2 = 0
      t.glob.vector k = (if lo then (g.vector k).extractLsb' 64 64 ++ a.v else a.v ++ (g.vector k).extractLsb' 0 64) ∧
      (∀ j, j ≠ k → t.glob.vector j = g.vector j) ∧
      ∀ j, j < 2048 → j ∈ g.msixPending → (if g.msixEnable = true ∧ (t.glob.vector j).getLsbD 96 = false then
        .vector j ∈ t.hostOut ∧ j ∉ t.glob.msixPending else j ∈ t.glob.msixPending)) ∧
    (let go := (List.range 2048).filter fun j => g.msixPending.contains j && a.v.getLsbD 0 && !(g.vector j).getLsbD 96
     Goes (exec .msiXEnable s) fun t => t.glob.msixEnable = a.v.getLsbD 0 ∧ t.hostOut = s.hostOut ++ go.map .vector ∧
       (∀ j, j ∈ t.glob.msixPending ↔ j ∈ g.msixPending ∧ j ∉ go) ∧ t.units = s.units ∧ t.mem = s.mem) ∧
    (∀ c, c < 8 → g.bootfail = false → ¬ odd →
      let at' (o : Nat) : Prop := a.off = 0x100000 + 0x10000 * c + o
      let reg (P : State → Prop) : Prop := Goes (exec .registerWrite s) fun t => P t ∧ t.units = s.units ∧ t.mem = s.mem
      (a.wide = true → a.off = 0 → g.swState ≠ 2 → reg fun t => t.glob.switchat = a.v) ∧
      (a.wide = true → a.off = 0x18 → reg fun t =>
        t.glob.apbase.extractLsb' 36 28 = a.v.extractLsb' 36 28) ∧
      (a.wide = true → at' 0x1A0 → reg fun t =>
        (t.ctx c).flbase.extractLsb' 6 58 = a.v.extractLsb' 6 58) ∧
      (a.wide = true → at' 0x1B0 → reg fun t => (t.ctx c).grega = a.v) ∧
      (a.wide = false → at' 0x1B0 → reg fun t =>
        (t.ctx c).grega = (s.ctx c).grega.extractLsb' 32 32 ++ a.v.extractLsb' 0 32) ∧
      (a.wide = false → at' 0x1B4 → reg fun t =>
        (t.ctx c).grega = a.v.extractLsb' 0 32 ++ (s.ctx c).grega.extractLsb' 0 32) ∧
      (0x180000 ≤ a.off → a.off < 0x800000 → Waits .registerWrite s) ∧
      (0x800000 ≤ a.off → a.off < 0x980000 → s.routeBad 0 ((a.off - 0x800000) / 0x10000) = true → Waits .registerWrite s)) ∧
    tells .cxlCacheSnoop .snoop ∧
    (g.msixEnable = true → (g.vector 2047).getLsbD 96 = false → tells .thermalAlert (.vector 2047)) ∧
    ((g.msixEnable = false ∨ (g.vector 2047).getLsbD 96 = true) → Goes (exec .thermalAlert s) fun t =>
      2047 ∈ t.glob.msixPending ∧ t.hostOut = s.hostOut) ∧
    (let fails : Prop := a.n < 24 ∧ a.m < 24 ∧ hops a.n a.m = 1 ∧ (a.n, a.m) ∉ g.links ∧ (a.m, a.n) ∉ g.links
     (¬ fails → Waits .linkFailure s) ∧
     (fails → Goes (exec .linkFailure s) fun t =>
       t = { s with glob := { g with links := (a.n, a.m) :: g.links }, hostOut := s.hostOut ++ [.linkFailed a.n a.m] } ∧
       t.routeBad a.n a.m = true ∧
       t.routeBad a.m a.n = true))

/-- What supervisor software asks of the device (R299, R360 to R363, R366): registration and code loading start with what
they read and record their outcome when they end; a context is created, refused or torn down; controllers start and stop, and what one sent before it
stopped stands before every bundle of its next run (R123);
an attestation report is asked for and stands. In BOOTFAIL a write of a register outside the global block is answered with
Unsupported Request (R365). The MODEL's choices: an image is read when GO is written (log entry 83), what of a context its
teardown leaves, and ERR of one that is not free or resident (log entry 86), a started controller's registers (log entry 79),
which nonce a report holds (log entry 88), a register beyond a failed link (log entry 99). -/
def Obligations.DeviceControl : Prop :=
  ∀ (s : State), UnitsOk s → CtxsOk s → DiesOk s → Tab.wf 0 s.code = true →
    let a := s.arg
    let c := a.n % 8
    let d := a.n % 24
    let x := s.ctx c
    let same (t : State) : Prop := t.units = s.units ∧ t.mem = s.mem ∧ t.code = s.code
    let gone (p : Nat → Bool) (t : State) : Prop := ∀ b, rdByte t.mem b = if p b = true then 0 else rdByte s.mem b
    let up : Prop := s.glob.bootfail = false
    let upTo (d : Nat) : Prop := up ∧ s.routeBad 0 d = false
    (∀ i ∈ [Instr.generatorRegistration, .codeLoad, .ctxCreate, .ctxTeardown, .csctlStart, .tlbinvGo, .parkrep, .budgetThaw,
      .budgetKill], ¬ up → Goes (exec i s) fun t => t = { s with hostOut := s.hostOut ++ [.unsupported] }) ∧
    (up → s.routeBad 0 d = true → Waits .codeLoad s ∧ Waits .budgetThaw s ∧ Waits .budgetKill s) ∧
    (let go : Prop := x.gregc.getLsbD 31 = false ∧ a.v.getLsbD 31 = true
     (up → ¬ go → Waits .generatorRegistration s) ∧
     (up → go → Goes (exec .generatorRegistration s) fun t => same t ∧ (t.ctx c).gregc = x.gregc ||| 0x80000000 ∧
       (t.ctx c).reging = some (s.registerAt c))) ∧
    (x.reging = none → Waits .registrationComplete s) ∧
    (∀ k g, x.reging = some (k, g) → Goes (exec .registrationComplete s) fun t => same t ∧ (t.ctx c).reging = none ∧
      (t.ctx c).gregc.extractLsb' 0 8 = k ∧ (x.registry.length < 256 → (t.ctx c).gregc.getLsbD 31 = false) ∧
      match g with
      | some g => (t.ctx c).registry = x.registry ++ [g] ∧
          (x.registry.length < 256 → ((t.ctx c).gregc.extractLsb' 8 8).toNat = x.registry.length)
      | none => (t.ctx c).registry = x.registry) ∧
    (let old := (s.die d).iclc
     let v := ((a.v ||| 0x80000000) &&& 0x874F1000) ||| (old &&& 0xFF)
     let r := s.loadCode d v
     (upTo d → old.getLsbD 31 = true → Waits .codeLoad s) ∧
     (upTo d → old.getLsbD 31 = false → r.2 = none → Goes (exec .codeLoad s) fun t => same t ∧ (t.die d).iclc = v ∧
       (t.die d).load = some r.1) ∧
     ((s.ctx (v.extractLsb' 24 3).toNat).state ≠ 1 → r = ((3, 0, []), none))) ∧
    ((s.die d).load = none → Waits .codeLoadComplete s) ∧
    (∀ k first bs, (s.die d).load = some (k, first, bs) →
      let v := (s.die d).iclc
      let u := (iclTarget d v).1
      let live : Prop := s.runs (v.extractLsb' 24 3).toNat = true ∨ s.isSup u = true
      let done (t : State) : Prop := (t.die d).load = none ∧ (t.die d).iclc.extractLsb' 0 8 = k ∧
        (t.die d).iclc.getLsbD 31 = false ∧ t.mem = s.mem
      (bs = [] → Goes (exec .codeLoadComplete s) fun t => done t ∧ same t) ∧
      (bs ≠ [] → live → Goes (exec .codeLoadComplete s) fun t => done t ∧
        (∀ i, i < bs.length → Tab.get 0 t.code (codeKey u (first + i)) = bs.getD i 0) ∧
        (∀ j, (j < codeKey u first ∨ codeKey u (first + bs.length) ≤ j) → Tab.get 0 t.code j = Tab.get 0 s.code j) ∧
        (t.unit u).spr.coherent.getLsbD (if (iclTarget d v).2 = true then 1 else 0) = true)) ∧
    (let size := (x.spart.extractLsb' 8 6).toNat
     let base := (x.spart.extractLsb' 0 6).toNat
     let clash : Prop := ∃ k, k < 8 ∧ k ≠ c ∧ (s.ctx k).state ≠ 0 ∧
       (let b := ((s.ctx k).spart.extractLsb' 0 6).toNat
        let z := ((s.ctx k).spart.extractLsb' 8 6).toNat
        base < b + z ∧ b < base + size)
     let may : Prop := x.state = 0 ∧ size ≠ 0 ∧ base + size ≤ 48 ∧ ¬ clash
     (up → may → Goes (exec .ctxCreate s) fun t => same t ∧ t.ctx c = { x with state := 3, err := false }) ∧
     (up → ¬ may → Goes (exec .ctxCreate s) fun t => same t ∧ t.ctx c = { x with err := true })) ∧
    (x.state ≠ 3 → Waits .ctxCreateComplete s) ∧
    (x.state = 3 → Goes (exec .ctxCreateComplete s) fun t => t.units = s.units ∧ gone x.inPartition t ∧
      t.ctx c = { Ctx.reset with state := 1, spart := x.spart }) ∧
    (up → x.state ≠ 1 → Goes (exec .ctxTeardown s) fun t => same t ∧ t.ctx c = { x with err := true }) ∧
    (up → x.state = 1 → Goes (exec .ctxTeardown s) fun t => (t.ctx c).state = 2 ∧ (t.ctx c).registry = [] ∧ (t.ctx c).flctl = 4 ∧
      (t.ctx c).leases = [] ∧ (t.ctx c).chans = [] ∧ (t.ctx c).adapters = [] ∧ (t.ctx c).axr = [] ∧
      (t.ctx c).saved = none ∧ gone (fun b => x.inPartition b || x.inWindow b ||
        (s.logSpans c).any fun p => decide (p.1 ≤ b ∧ b < p.1 + p.2)) t ∧
      (s.runs c = false → t.units = s.units ∧ t.glob = s.glob) ∧
      (s.runs c = true → t.glob.running = none ∧ t.glob.swStep = (if s.glob.swStep = 1 then 2 else s.glob.swStep) ∧
        ∀ u ∈ s.unitsOf (BitVec.ofNat 3 c), (t.unit u).on = false ∧ (t.unit u).task = none)) ∧
    (x.state ≠ 2 → Waits .teardownComplete s) ∧
    (x.state = 2 → Goes (exec .teardownComplete s) fun t => same t ∧ (t.ctx c).state = 0 ∧ (t.ctx c).fatal = false) ∧
    (let k := a.m % 4
     let old := Tab.get 0 x.csctl k
     let cl := (old.extractLsb' 64 7).toNat
     let u := 384 + cl
     let new : BitVec 128 := old.extractLsb' 64 64 ++ ((a.v ||| 1) &&& 0xFFFFFFFFFFFFFFE3)
     let free : Prop := (∀ p ∈ x.csctl, p.1 ≠ k → (p.2.extractLsb' 64 7).toNat ≠ cl) ∧ s.isSup u = false ∧ cl < 96
     (up → ¬ free → Waits .csctlStart s) ∧
     (up → free → Goes (exec .csctlStart s) fun t => Tab.get 0 (t.ctx c).csctl k = new ∧ t.mem = s.mem ∧
       (s.runs c = true → x.fatal = false → s.glob.swState ≠ 2 → (s.unit u).on = false →
         (t.unit u).on = true ∧ (t.unit u).stream = !new.getLsbD 1 ∧
         (t.unit u).disp.seq = 1 ∧ (∀ f ∈ t.flights, f.unit = u → f.seq = 0) ∧
         (new.getLsbD 1 = false → (t.unit u).front.pc = new.extractLsb' 0 64 &&& ~~~31) ∧
         (new.getLsbD 1 = true → (t.unit u).front.pc = BitVec.ofNat 64
           ((new.extractLsb' 5 12).toNat + if new.getLsbD 17 = true then 4096 else 0))) ∧
       ((s.runs c = false ∨ (s.unit u).on = true) → t.units = s.units))) ∧
    (let v := (a.v ||| 0x8000) &&& 0x877F
     let u := 384 + (v.extractLsb' 0 7).toNat
     u < 480 → s.glob.svctl.getLsbD 15 = false → Goes (exec .supervisorControllerStart s) fun t =>
       t.glob.svctl = v ∧ (t.unit u).on = true ∧ (t.unit u).stream = false ∧ (t.unit u).spr.sup = true ∧
       (t.unit u).disp.seq = 1 ∧ (∀ f ∈ t.flights, f.unit = u → f.seq = 0) ∧
       (t.unit u).front = ⟨0, [], 0, false⟩) ∧
    (let old := s.glob.svctl
     let u := 384 + (old.extractLsb' 0 7).toNat
     (old.getLsbD 15 = true → a.v.extractLsb' 0 7 ≠ old.extractLsb' 0 7 → Waits .supervisorControllerStop s) ∧
     (old.getLsbD 15 = true → a.v.extractLsb' 0 7 = old.extractLsb' 0 7 → u < 480 →
       Goes (exec .supervisorControllerStop s) fun t =>
         (t.unit u).on = false ∧ t.glob.svctl = a.v &&& 0x077F ∧ t.mem = s.mem)) ∧
    (let g := s.glob
     (g.attctl.getLsbD 0 = true → Waits .attestationRequest s) ∧
     (g.attctl.getLsbD 0 = false → Goes (exec .attestationRequest s) fun t =>
       t = { s with glob := { g with attctl := if g.keyed = true then 1 else 2 } }) ∧
     (g.attctl.getLsbD 0 = false → Waits .attestationReportReady s) ∧
     (g.attctl.getLsbD 0 = true → Goes (exec .attestationReportReady s) fun t =>
       ∃ r, t = { s with glob := { g with attctl := 0, attrep := r } } ∧ r.getD 1 0 = g.life.setWidth 8 ∧
         (g.attnonce.length = 32 → (r.drop 8).take 32 = g.attnonce ∧ r.length = 7323)))

/-! ## The machine as a whole -/

/-- What reset leaves (R1, R100, R146 to R148, R223, R359, R365, R366, R369): memory reads zero and every tile is full; every
register is at its reset value, nothing is under way, no context is resident or runs. RESET keeps the life-cycle state and
records whether the firmware's signature was good, which the model leaves free (log entry 1); LIFE_CYCLE_CHANGE enters the
named state and keeps the identity key only from provisioned to deployed. Neither wipes host memory, which is none of the
package's, and package time only increases (R18). The invariants of the model hold at reset. The MODEL's choices: what a byte
that nothing has written reads as (log entry 6), registers without a reset value of their own (log entry 97), what a wipe keeps
and when budget periods then begin (log entries 87 and 121). -/
def Obligations.ResetState : Prop :=
  let blank (t : State) : Prop :=
    (∀ p, spaceOf p ≠ 3 → rdByte t.mem p = 0) ∧ (∀ k, t.isFull k = true) ∧ (∀ u, t.unit u = Machine.Unit.idle) ∧
    (∀ c, t.ctx c = Ctx.reset) ∧ (∀ k, Tab.get 0 t.code k = 0) ∧ t.landings = [] ∧ t.rows = [] ∧ t.flights = [] ∧
    t.watches = [] ∧ t.xfers = [] ∧ t.calls = [] ∧ t.fabric = [] ∧ t.groups = [] ∧ t.switch = ⟨[], [], [], []⟩ ∧ t.streams = [] ∧
    t.glob.running = none ∧ t.glob.svctl = 0 ∧ t.glob.swctl = 0 ∧ t.glob.switchat = 0
  let wiped (s t : State) : Prop := blank t ∧ t.cycle = s.cycle ∧ t.time = s.time ∧
    (∀ p, spaceOf p = 3 → rdByte t.mem p = rdByte s.mem p) ∧
    ∀ d, t.die d = if d < 24 then { Die.reset with bbnext := s.time + 1000000 } else Die.reset
  blank State.reset ∧ (∀ p, rdByte State.reset.mem p = 0) ∧ (∀ d, State.reset.die d = Die.reset) ∧ MemoryOk State.reset ∧ TablesOk State.reset ∧
  (let x := Machine.Unit.idle
   (∀ r, x.sreg r = 0) ∧ (∀ r, x.guard r = decide (r = 0)) ∧ (∀ r, x.vreg r = []) ∧ (∀ r, x.mreg r = []) ∧
   (∀ r, x.scale r = List.replicate 512 0) ∧ (∀ r, x.gslot r = none) ∧ (∀ r, x.seed r = 0) ∧ x.front = ⟨0, [], 0, false⟩ ∧
   x.spr.rm = 0 ∧ x.spr.efrm = 0x0808 ∧ x.spr.efrv = 0x0008 ∧ x.spr.efrt = 0x0008 ∧ x.spr.fflags = 0 ∧ x.spr.srseed = 0 ∧
   x.spr.rfmode = 0xFF ∧ x.spr.sup = false ∧ x.spr.epc = 0 ∧ x.spr.tscr0 = 0 ∧ x.spr.tscr1 = 0 ∧ x.spr.inv = false ∧
   x.on = false ∧ x.task = none) ∧
  (let c := Ctx.reset
   c.state = 0 ∧ c.err = false ∧ c.spart = 0 ∧ (∀ d, Tab.get 0 c.vwin d = 0) ∧ c.ptroot = 0 ∧ c.tctl = 0 ∧
   c.plimit = 2000000 ∧ c.flbase = 0 ∧ c.flctl = 4 ∧ c.registry = []) ∧
  (Die.reset.tlb = [] ∧ Die.reset.bbper = 1000 ∧ Budget.reset = ⟨false, 0, 0xFFFFFFFF⟩) ∧
  ∀ s : State, Goes (exec .reset s) (fun t => wiped s t ∧ t.glob.life = s.glob.life ∧
      (t.glob.bootfail = true ↔ Config.bootGood t.glob.boots = false) ∧
      (t.glob.bootdone = true ↔ Config.bootGood t.glob.boots = true)) ∧
    Goes (exec .lifeCycleChange s) (fun t => wiped s t ∧ t.glob.life = BitVec.ofNat 2 s.arg.n ∧
      (t.glob.keyed = true ↔ s.arg.n % 4 = 1 ∨ s.glob.life = 1 ∧ s.arg.n % 4 = 2 ∧ s.glob.keyed = true))

/-- Every step keeps memory in its canonical form, so that equal memories are equal data. -/
def Obligations.StepKeepsMemory : Prop := Kept MemoryOk

/-- Every step keeps the tables of units, contexts, dies and budgets, and those within them, in their canonical form, and
every call numbered below the next one. -/
def Obligations.StepKeepsTables : Prop := Kept TablesOk

/-- Decode and encode agree on every well-formed operation of every slot, every operand at every value that its encoding
admits (R4, R58, R60, R158, R173, R197, R233, R272, R303, R312, R333). -/
def Obligations.RoundTrip : Prop :=
  ∀ (i : Instr) (k : SlotKind), i.slotKind = some k → i.wf = true → decodeSlot k (encode i) = .ok (some i)

/-- Words that the spec prints, by the slot that they stand in, decode to the operations that it says they encode; the
all-zero word is a NOP in every slot (R40), and major opcode 0 with another bit set is ILLEGAL_ENCODING 0x02 (R58). -/
def Obligations.DecodedWords : Prop :=
  let reads (k : SlotKind) (w : Word) (i : Instr) : Prop := decodeSlot k w = .ok (some i)
  reads .sq 0x0200FFFD (.br 0xFFFD) ∧ reads .sq 0x0670000C (.brz 7 12) ∧ reads .sq 0x12007004 (.looprReg 7 4) ∧
  reads .sq 0x54448203 (.shrImm 4 9 3) ∧ reads .sq 0x4A531D00 (.div 5 6 7 1) ∧ reads .sq 0x60918005 (.cmpi 2 1 3 5) ∧
  reads .sq 0x70443F00 (.lih 4 1 0x3F00) ∧ reads .sq 0x871810A0 (.ffma 17 16 4 5) ∧
  reads .me 0x16317FFF (.stsB 3 2 0x7FFF) ∧ reads .me 0x2A329630 (.ldvr 6 10 11 0 1 1 0 0) ∧
  reads .me 0x48638310 (.star 6 7 3 1) ∧ reads .me 0x625498E8 (.acas 5 9 6 7 1) ∧ reads .me 0x6844AC30 (.rso 4 9 11 3) ∧
  reads .me 0x7C638000 (.tgrow 6 7) ∧ reads .me 0x82313008 (.waitm 3 2 3 8) ∧ reads .me 0xC0428000 (.evpop 4 5) ∧
  reads .v 0x1A860490 (.fp32MaskedForms 1 3 0 2 1 1 0) ∧ reads .v 0x0D080812 (.vfma 2 4 1 0 2 1 0) ∧
  reads .v 0x44060EA0 (.vsel 0 3 0 7 1 2) ∧ reads .v 0x4614C000 (.mand 0 1 2 3) ∧ reads .v 0x88860801 (.vscan 1 3 1 0 0 0 1) ∧
  reads .mx 0x02C00000 (.mzero 3) ∧ reads .mx 0x06654B64 (.mgenbAdd 3 1 10 11 12 0) ∧ reads .mx 0x1692949F (.madp 2 1 5 10 1 31) ∧
  reads .mx 0x183214C0 (.madt 3 4 5 6) ∧ reads .mx 0x123D1980 (.mdrv 7 5 3 1 1) ∧
  reads .gn 0x0861A52E (.geval 12 3 2 10 11 1) ∧ reads .gn 0x0A902C00 (.gstat 9 0 1 6) ∧
  reads .tx 0x04921519 (.cpyr 9 4 5 2 0 0 1 1 1) ∧ reads .tx 0x42190A91 (.csend 3 4 5 9 1) ∧ reads .tx 0x50040000 .cpauseAll ∧
  (∀ k, decodeSlot k 0 = .ok none) ∧ ∀ k w, w ≠ 0 → w.extractLsb' 25 7 = 0 → decodeSlot k w = .error .reserved

/-- A step runs the decoded operation: where the agenda names a slot whose head's word decodes to i and may issue, the step
is exec of i with the operation noted as current, unless it waits a touch of a gated cluster or a trapped early read in place of
its effect, and a fault that can be delivered is then taken, while one that a lower slot of its bundle may still take the place of in
this cycle waits for that slot (R134); with a false guard it issues as a NOP; where the guards of a bundle's
colliding slots can be read together, they are; a step of the table that
stands in no slot is exec of it with its operands; a word placed by withFetchWord is what the next step runs. -/
def Obligations.StepRunsDecoded : Prop :=
  (∀ (s : State) (m : Move) (r : List Move), s.agenda = m :: r →
     let b : State := { s with agenda := r }
     (∀ u k, m = .slot u k → 480 ≤ u → step s = .fault .absentUnit) ∧
     (∀ u k, m = .slot u k → u < 480 → ((b.unit u).slot k).queue = [] → step s = .next (b.settle u)) ∧
     (∀ u k o q i, m = .slot u k → u < 480 → ((b.unit u).slot k).queue = o :: q →
       decodeSlot (slotKindOf k) o.word = .ok (some i) →
       let x := b.unit u
       let pair := x.disp.buns.find? fun n => n.seq == o.seq && b.pairsReady u n
       let may : Prop := b.blocked u k o = none ∧ b.stampMet u o = true
       let run : Prop := x.guardOf k o = true
       let lost : Prop := run ∧ b.portLoses u k o i = true
       let t : State := { b.tried u k o.seq with cur := ⟨u, k, o⟩ }
       let early := if x.guardRead k o then none else b.earlyGuard u o
       let quiet : Prop := b.glob.earlyTrap = false ∧ x.spr.rfmode = 0xFF ∧ x.disp.wake = []
       let touch := ((if x.spr.rfmode == 0xFF && x.disp.wake.isEmpty then none else t.asleep i).orElse fun _ => early).orElse
         fun _ => t.earlyRead u o i
       (∀ n, pair = some n → step s = .next (b.concluded (b.readPairs u n) u)) ∧
       (pair = none → ¬ may ∨ lost → step s = .next (b.settle u)) ∧
       (pair = none → may → ¬ run → match early with
         | none => step s = .next (b.concluded (t.issueNothing (some i)) u)
         | some f => step s = .next (b.concluded (t.raise f) u)) ∧
       (pair = none → may → run → ¬ lost → match exec i t with
         | .next t' => step s = .next (b.concluded (t.afterRun t' touch) u)
         | .fault f => step s = .fault f
         | .refused f => step s = .refused f) ∧
       (quiet → touch = none)) ∧
     (∀ (t t' : State), t.afterRun t' none = t') ∧
     (∀ (t t' : State) (u : Nat),
       let fresh : Prop := ∃ p, (t'.unit u).disp.pend = some p ∧ (t.unit u).disp.pend ≠ some p ∧ t.lowerReady u p.slot p.seq = true
       (fresh → t.concluded t' u = t) ∧ (¬ fresh → t.concluded t' u = t'.settle u)) ∧
     ∀ i a, m = .event i a →
       (i.slotKind = none → step s = exec i { b with arg := a }) ∧ (i.slotKind ≠ none → step s = .next b)) ∧
  ∀ (w : Nat) (i : Instr), w < 2 ^ 32 → decodeTableWord 32 w = some i → ∃ t : State, t.cur.op.word = BitVec.ofNat 32 w ∧
    match exec i t with
    | .next t' => step (State.reset.withFetchWord 32 w) = .next (t'.settle t.u)
    | _ => False

/-- Every instruction of the table gives a next state in every state: no data ends a run. A step stops only where the model's
schedule names a unit that the package does not have (R8). -/
def Obligations.EveryStepAnswers : Prop :=
  (∀ (i : Instr) (s : State), ∃ t, exec i s = .next t) ∧
  ∀ s : State, Safe s ∨ step s = .fault .absentUnit ∧
    ((∃ u k r, s.agenda = .slot u k :: r ∧ 480 ≤ u) ∨ (s.agenda = [] ∧ ∃ p ∈ s.units, 480 ≤ p.1))

/-- Taking an exception (R132, R134, R135, R137): once every slot has issued what stands before the faulting bundle, a
user-mode task with TCTL.EN = 1 enters its handler, with the record in FREC and the resume point in EPC, in supervisor mode,
at TVEC, the loop stack and ROTB as before the bundle's dispatch, and every other register as it was; any other task's fault
ends the task; a controller's is logged and the controller stops at the bundle. SKIPj is capped at 16, counts what an earlier
SYSRET has still to discard, and leaves out operations that have issued and whose own fault this one has put aside (the MODEL's
readings, log entries 24, 108 and 127); the loop stack and ROTB that SYSRET goes on with are those before the bundle. -/
def Obligations.ExceptionEntry : Prop :=
  ∀ (s : State) (u : Nat) (p : Pend), UnitsOk s → CtxsOk s → MemoryOk s →
    let x := s.unit u
    let c := s.ctxOf u
    let tctl := (s.ctx c.toNat).tctl
    let t := s.deliver u p
    let y := t.unit u
    let enters : Prop := x.task ≠ none ∧ x.spr.sup = false ∧ tctl.getLsbD 13 = true ∧ p.code ≠ 0x22 ∧ p.code ≠ 0x31
    let before : Front := ((x.disp.buns.find? fun b => decide (p.seq ≤ b.seq)).map (·.before)).getD x.front
    let undone (j : Nat) : Nat := (x.disp.undone.filter fun e => e.1 == j && decide (p.seq ≤ e.2)).length
    let ahead (j : Nat) : Nat := (x.disp.ahead.filter fun e => e.1 == j && decide (x.headSeq j ≤ e.2)).length
    (x.disp.pend = some p → s.settle u = if s.deliverable u p = true then t else s) ∧
    (s.deliverable u p = true → ∀ k ∈ slotsOf u, p.seq ≤ x.headSeq k) ∧
    (u < 384 → x.stream = false → enters →
      y.spr.epc.extractLsb' 51 13 = p.addr.extractLsb' 0 13 ∧ y.spr.epc.extractLsb' 48 3 = BitVec.ofNat 3 p.slot ∧
      y.spr.epc.extractLsb' 35 13 = 0 ∧
      (∀ j, 1 ≤ j → j ≤ 7 → (y.spr.epc.extractLsb' (5 * (j - 1)) 5).toNat =
        if p.skips = true ∧ j ≠ p.slot then min 16 (x.headSeq j - p.seq - undone j + ahead j + x.disp.skips.getD j 0) else 0) ∧
      (∃ w0 w1, y.spr.frec = [w0, w1, p.time, y.spr.epc, p.info0, p.info1, p.info2, p.info3] ∧
        w0.extractLsb' 0 8 = p.code ∧ w0.extractLsb' 8 8 = p.sub ∧ w0.getLsbD 16 = false ∧
        w0.extractLsb' 19 13 = p.addr.extractLsb' 0 13 ∧ w0.extractLsb' 33 3 = BitVec.ofNat 3 p.slot ∧
        w0.extractLsb' 36 3 = c ∧ w0.extractLsb' 39 9 = BitVec.ofNat 9 u ∧ w1.extractLsb' 0 27 = p.xinfo ∧
        w1.extractLsb' 27 2 = p.kind ∧ w1.extractLsb' 29 3 = p.path) ∧
      y.spr = { x.spr with sup := true, epc := y.spr.epc, frec := y.spr.frec } ∧
      y.front = ⟨(tctl.extractLsb' 0 13).setWidth 64, before.loops, before.rotb, tctl.getLsbD 12⟩ ∧
      (∀ k ∈ slotsOf u, (y.slot k).queue = []) ∧ y.disp.pend = none ∧ y.disp.back = some before ∧
      y.disp.redo = x.redoFrom p.seq ∧ y.disp.base = p.seq ∧
      y.disp.gaps = (x.gapsFrom p.seq).filter (fun e => e.1 != p.slot) ∧ y.on = x.on ∧ y.task = x.task ∧ y.s = x.s ∧
      y.g = x.g ∧ y.eng = x.eng ∧ (∀ v, v ≠ u → t.unit v = s.unit v) ∧ rest t = rest s ∧ t.landings = s.landings ∧
      t.flights = s.flights) ∧
    (u < 384 → x.task ≠ none → ¬ enters → y.task = none ∧ y.on = false ∧ y.spr.sup = false) ∧
    (384 ≤ u → u < 480 →
      y.on = false ∧ y.start = p.addr ∧ (∀ k ∈ slotsOf u, (y.slot k).queue = []) ∧
      let fl := (s.ctx c.toNat).flctl
      let wi := (fl.extractLsb' 32 16).toNat
      let ri := (fl.extractLsb' 16 16).toNat
      let size := 2 ^ max 4 (fl.extractLsb' 0 4).toNat
      let log := (s.ctx c.toNat).flbase + BitVec.ofNat 64 (64 * (wi % size))
      ∀ q tl, (wi + 65536 - ri) % 65536 ≠ size → log.toNat / 2 ^ 60 ≤ 1 →
        s.reach 0x1FF (dieOf u) c pHI .wr false log 64 = .ok ⟨[(q, 64)], tl⟩ →
        rdByte t.mem q = p.code ∧ rdByte t.mem (q + 1) = p.sub ∧ rd64 t.mem (q + 16) = p.time ∧ rd64 t.mem (q + 32) = p.info0 ∧
        Else q 64 s t ∧ ((t.ctx c.toNat).flctl.extractLsb' 32 16).toNat = (wi + 1) % 65536)

/-- Trap state (R137): no operation of a slot changes EPC, FREC, TSCR0 or TSCR1 of any unit, or takes a unit into supervisor
mode; and in user mode, other than on the supervisor controller, none leaves a write of a supervisor register on its way. -/
def Obligations.UserModeKeepsTrapState : Prop :=
  ∀ (i : Instr) (s t : State), UnitsOk s → i.slotKind ≠ none → exec i s = .next t →
    (∀ u, (t.unit u).spr.epc = (s.unit u).spr.epc ∧ (t.unit u).spr.frec = (s.unit u).spr.frec ∧
      (t.unit u).spr.tscr0 = (s.unit u).spr.tscr0 ∧ (t.unit u).spr.tscr1 = (s.unit u).spr.tscr1 ∧
      ((t.unit u).spr.sup = true → (s.unit u).spr.sup = true)) ∧
    (s.me.spr.sup = false → s.isSup s.u = false → ∀ l ∈ t.landings, l ∉ s.landings → ∀ n v, l.what = .spr n v →
      n ≠ 0x030 ∧ ¬ (0x040 ≤ n ∧ n ≤ 0x051))

/-- Address checks (R13, R96 to R98, R101, R104 to R106, R109, R110): an undefined space; a walk's levels and its end, an entry that
cannot be read (R110) or lies beyond a failed link (the MODEL's choice, log entry 106) among them; an HBM access
within a page; a vault access within its window or beyond it; a scratchpad's own or another core's; host windows; and
accumulator rows. Where several PROTECTION conditions hold, the lowest subcode is raised: that is the MODEL's reading (DEDUCED, log entry
40), since R38 orders fault codes only. Every page of a host access must lie in some window that permits it, of up to eight (R109). -/
def Obligations.AddressChecks : Prop :=
  (∀ (m : List Host.Cell) (cut : Nat → Bool) (bad' : List Nat) (lvl t va : Nat), lvl ≤ 4 → va < 2 ^ 56 →
     let ix : Nat := if lvl = 4 then va / 2 ^ 48 else if lvl = 3 then va / 2 ^ 39 % 512 else if lvl = 2 then va / 2 ^ 30 % 512
       else if lvl = 1 then va / 2 ^ 21 % 512 else va / 2 ^ 16 % 32
     let at' := t + 8 * ix
     let e := rd64 m at'
     let ty := e.extractLsb' 0 2
     let addr := (e.extractLsb' 12 29).toNat * 4096
     let size : Nat := if lvl = 0 then 2 ^ 16 else if lvl = 1 then 2 ^ 21 else 2 ^ 30
     let bad : Prop := e.extractLsb' 41 23 ≠ 0 ∨ e.extractLsb' 5 7 ≠ 0 ∨ ty = 3 ∨ ty = 1 ∧ lvl = 0 ∨ ty = 2 ∧ 3 ≤ lvl ∨
       ty = 2 ∧ addr % size ≠ 0 ∨ 24 ≤ addr / 2 ^ 36 ∨ 48 * 2 ^ 30 ≤ addr % 2 ^ 36
     let read : Prop := cut (at' / 2 ^ 36) = false ∧ at' ∉ bad'
     let walks := walk m cut bad'
     (cut (at' / 2 ^ 36) = true → walks lvl t va = ⟨16, e.toNat, at', lvl⟩) ∧
     (cut (at' / 2 ^ 36) = false → at' ∈ bad' → walks lvl t va = ⟨5, e.toNat, at', lvl⟩) ∧
     (read → bad → walks lvl t va = ⟨3, e.toNat, at', lvl⟩) ∧
     (read → ¬ bad → ty = 0 → walks lvl t va = ⟨1, e.toNat, at', lvl⟩) ∧
     (read → ¬ bad → ty = 2 → walks lvl t va = ⟨0, e.toNat, at', lvl⟩) ∧
     (read → ¬ bad → ty = 1 → walks lvl t va = walks (lvl - 1) addr va)) ∧
  ∀ (s : State) (u d : Nat) (c path : BitVec 3) (a : Acc) (star : Bool) (va : BitVec 64) (n : Nat),
    let x := s.ctx c.toNat
    let space := va.extractLsb' 60 4
    let go := s.reach u d c path a star va n
    let stops (f : Flt) : Prop := go = .error { f with path := path, kind := a.kind }
    let at' (p : Nat) : Prop := go = .ok ⟨[(p, n)], []⟩
    1 ≤ n →
    (5 ≤ space.toNat → stops (prot 2 va)) ∧
    (space = 0 → va.extractLsb' 56 4 ≠ 0 → stops (Flt.of 0x18 4 va)) ∧
    (space = 0 → va.toNat < 2 ^ 56 → va.toNat % 65536 + n ≤ 65536 → s.tlbHit d c va.toNat = none →
      let w := walk s.mem (s.routeBad d) s.glob.badEntries 4 ((x.ptroot.extractLsb' 12 29).toNat * 4096) va.toNat
      let fl (sub : Byte) : Flt := { Flt.of 0x18 sub va with info1 := BitVec.ofNat 64 w.eaddr, xinfo := BitVec.ofNat 27 w.lvl }
      let pa := w.entry / 4096 % 2 ^ 29 * 4096 + va.toNat % pageSize w.lvl
      (w.sub = 16 → stops (prot 1 va)) ∧ (w.sub ≠ 0 → w.sub ≠ 16 → stops (fl (BitVec.ofNat 8 w.sub))) ∧
      (w.sub = 0 → permits a (w.entry.testBit 2) (w.entry.testBit 3) (w.entry.testBit 4) = false → stops (fl 2)) ∧
      (w.sub = 0 → permits a (w.entry.testBit 2) (w.entry.testBit 3) (w.entry.testBit 4) = true →
        (s.routeBad d (pa / 2 ^ 36) = true → stops (prot 1 va)) ∧
        (s.routeBad d (pa / 2 ^ 36) = false →
          (path = pSL ∨ path = pTR ∨ path = pAT ∨ path = pHI → ∃ es, go = .ok ⟨[(pa, n)], es⟩) ∧
          (path = pMX ∨ path = pAC ∨ path = pCO → stops (prot 4 va))))) ∧
    (space = 1 →
      let t := (va.extractLsb' 29 5).toNat
      let off := (va.extractLsb' 0 29).toNat
      let w := Tab.get 0 x.vwin t
      let size := (w.extractLsb' 32 10).toNat * 2 ^ 20
      let absent : Prop := 24 ≤ t ∨ s.routeBad d t = true
      (absent → stops (prot 1 va)) ∧ (¬ absent → va.extractLsb' 34 26 ≠ 0 → stops (prot 3 va)) ∧
      (¬ absent → va.extractLsb' 34 26 = 0 → path = pAC → stops (prot 4 va)) ∧
      (¬ absent → va.extractLsb' 34 26 = 0 → path = pSL ∨ path = pTR ∨ path = pCO ∨ path = pAT ∨ path = pHI →
        (size < off + n → stops (prot 5 va)) ∧
        (off + n ≤ size → at' (vaultPlace t ((w.extractLsb' 0 9).toNat * 2 ^ 20 + off)))) ∧
      (¬ absent → va.extractLsb' 34 26 = 0 → path = pMX →
        let p := (w.extractLsb' 0 9).toNat * 2 ^ 20 + off
        let home : Prop := p / 2 ^ 25 = coreIn u ∧ (p + n - 1) / 2 ^ 25 = coreIn u
        (t ≠ d → stops (prot 4 va)) ∧ (t = d → size < off + n → stops (prot 5 va)) ∧
        (t = d → off + n ≤ size → ¬ home → stops (prot 4 va)) ∧ (t = d → off + n ≤ size → home → at' (vaultPlace t p)))) ∧
    (space = 2 →
      let t := (va.extractLsb' 29 5).toNat
      let own : Prop := va.getLsbD 28 = true
      let k := (va.extractLsb' 23 4).toNat
      let off := (va.extractLsb' 0 23).toNat
      let absent : Prop := 24 ≤ t ∨ own ∧ 384 ≤ u ∨ ¬ own ∧ s.routeBad d t = true
      let bad : Prop := va.extractLsb' 34 26 ≠ 0 ∨ va.getLsbD 27 = true ∨ own ∧ (t ≠ 0 ∨ k ≠ 0)
      (absent → stops (prot 1 va)) ∧ (¬ absent → bad → stops (prot 3 va)) ∧
      (¬ absent → ¬ bad → ∀ h, (own → h = u) → (¬ own → h = 16 * t + k) →
        (s.routeBad d (h / 16) = true → stops (prot 1 va)) ∧
        (s.routeBad d (h / 16) = false →
          (2 ^ 23 < off + n → stops (prot 3 va)) ∧
          (off + n ≤ 2 ^ 23 → path ≠ 7 → h ≠ u → path = pMX ∨ path = pAC → stops (prot 4 va)) ∧
          (off + n ≤ 2 ^ 23 → path ≠ 7 → (h = u ∨ path ≠ pMX ∧ path ≠ pAC) → at' (scratchPlace h off))))) ∧
    (space = 3 → s.routeBad d 0 = false →
      let p := va.toNat % 2 ^ 60
      (path ≠ pSL ∧ path ≠ pTR → stops (prot 4 va)) ∧
      (path = pSL ∨ path = pTR →
        let page (k : Nat) : Prop := p / 4096 ≤ k ∧ k ≤ (p + (n - 1)) / 4096
        let may (k : Nat) : Prop := ∃ h ∈ x.hwin, h.2.getLsbD 0 = true ∧ (a = .wr ∨ a = .rw → h.2.getLsbD 1 = true) ∧
          (h.2.extractLsb' 12 48).toNat ≤ k ∧ k ≤ (h.2.extractLsb' 76 48).toNat
        (x.hwin.length ≤ 8 → (∀ k, page k → may k) → at' (hostPlace p)) ∧
        (∀ k, page k → ¬ may k → stops (prot 5 va)))) ∧
    (space = 4 → va.extractLsb' 34 26 = 0 → va.extractLsb' 19 4 = 0 → va.extractLsb' 27 2 = 0 →
      (va.extractLsb' 29 5).toNat < 24 →
      let h := 16 * (va.extractLsb' 29 5).toNat + (va.extractLsb' 23 4).toNat
      let off := (va.extractLsb' 0 19).toNat
      s.routeBad d (h / 16) = false →
        (2 ^ 19 < off + n → stops (prot 3 va)) ∧
        (off + n ≤ 2 ^ 19 → a = .rd → path = pTR ∨ path = pSL ∧ star = true → at' (accPlace h off)) ∧
        (off + n ≤ 2 ^ 19 → (a ≠ .rd ∨ path ≠ pTR ∧ path ≠ pSL) → stops (prot 4 va)))
end

