-- ==== Sys2Proof/Laws/Tab.lean ====
section
/-!
SUPPORT. The laws of sparse tables: a read after a write, and the canonical form that every write keeps.
-/

namespace Sys2Proof.Machine.Tab

variable {α : Type}

@[simp] theorem get_nil (d : α) (k : Nat) : get d [] k = d := rfl

theorem get_put_same (d : α) (t : Tab α) (k : Nat) (v : α) : get d (put t k v) k = v := by
  induction t with
  | nil => simp [put, get]
  | cons p r ih =>
    obtain ⟨j, x⟩ := p
    unfold put
    split
    · simp [get]
    · split
      · simp [get]
      · simp_all [get]

theorem get_put_other (d : α) (t : Tab α) {k j : Nat} (v : α) (h : j ≠ k) : get d (put t k v) j = get d t j := by
  induction t with
  | nil => simp [put, get, Ne.symm h]
  | cons p r ih =>
    obtain ⟨i, x⟩ := p
    unfold put
    split
    · simp [get, Ne.symm h]
    · split
      · rename_i h1 h2
        simp at h2
        subst h2
        simp [get, Ne.symm h]
      · simp [get, ih]

theorem get_del_other (d : α) (t : Tab α) {k j : Nat} (h : j ≠ k) : get d (del t k) j = get d t j := by
  induction t with
  | nil => simp [del]
  | cons p r ih =>
    obtain ⟨i, x⟩ := p
    unfold del
    split
    · rfl
    · split
      · rename_i h1 h2
        simp at h2
        subst h2
        simp [get, Ne.symm h]
      · simp [get, ih]

theorem get_set_other [DecidableEq α] (d : α) (t : Tab α) {k j : Nat} (v : α) (h : j ≠ k) :
    get d (set d t k v) j = get d t j := by
  unfold set
  split
  · exact get_del_other d t h
  · exact get_put_other d t v h

theorem get_set_same_of_ne [DecidableEq α] (d : α) (t : Tab α) (k : Nat) {v : α} (h : v ≠ d) :
    get d (set d t k v) k = v := by
  simp [set, h, get_put_same]

theorem get_of_rising (d : α) (t : Tab α) (k j : Nat) (h : risingFrom t (some k) = true) (hj : j ≤ k) :
    get d t j = d := by
  induction t generalizing k with
  | nil => rfl
  | cons p r ih =>
    obtain ⟨i, x⟩ := p
    simp only [risingFrom, Bool.and_eq_true, decide_eq_true_eq] at h
    have hne : ¬ i = j := by omega
    simp [get, hne]
    exact ih i h.2 (by omega)

theorem rising_weaken (t : Tab α) {a b : Nat} (h : risingFrom t (some b) = true) (hab : a ≤ b) :
    risingFrom t (some a) = true := by
  cases t with
  | nil => rfl
  | cons p r =>
    obtain ⟨i, x⟩ := p
    simp only [risingFrom, Bool.and_eq_true, decide_eq_true_eq] at h ⊢
    exact ⟨by omega, h.2⟩

theorem rising_none (t : Tab α) {b : Nat} (h : risingFrom t (some b) = true) : risingFrom t none = true := by
  cases t with
  | nil => rfl
  | cons p r =>
    obtain ⟨i, x⟩ := p
    simp only [risingFrom, Bool.and_eq_true, decide_eq_true_eq, Bool.true_and] at h ⊢
    exact h.2

theorem get_del_same (d : α) (t : Tab α) (k : Nat) (h : risingFrom t none = true) : get d (del t k) k = d := by
  induction t with
  | nil => rfl
  | cons p r ih =>
    obtain ⟨i, x⟩ := p
    simp only [risingFrom, Bool.true_and] at h
    unfold del
    split
    · rename_i hk
      have hne : ¬ i = k := by omega
      simp [get, hne]
      exact get_of_rising d r i k h (by omega)
    · split
      · rename_i h1 h2
        simp at h2
        subst h2
        exact get_of_rising d r i i h (Nat.le_refl i)
      · rename_i h1 h2
        simp at h2
        simp [get, h2]
        exact ih (rising_none r h)

theorem get_set_same [DecidableEq α] (d : α) (t : Tab α) (k : Nat) (v : α) (h : risingFrom t none = true) :
    get d (set d t k v) k = v := by
  unfold set
  split
  · rename_i hv
    rw [hv]
    exact get_del_same d t k h
  · exact get_put_same d t k v

/-- A read after a write of a canonical table. -/
theorem get_set [DecidableEq α] (d : α) (t : Tab α) (k j : Nat) (v : α) (h : wf d t = true) :
    get d (set d t k v) j = if j = k then v else get d t j := by
  simp only [wf, Bool.and_eq_true] at h
  split
  · rename_i hj
    rw [hj]
    exact get_set_same d t k v h.1
  · rename_i hj
    exact get_set_other d t v hj

theorem rising_del (t : Tab α) (k : Nat) (b : Option Nat) (h : risingFrom t b = true) : risingFrom (del t k) b = true := by
  induction t generalizing b with
  | nil => rfl
  | cons p r ih =>
    obtain ⟨i, x⟩ := p
    unfold del
    split
    · exact h
    · simp only [risingFrom, Bool.and_eq_true] at h
      split
      · cases b with
        | none => exact rising_none r h.2
        | some c =>
          simp only [decide_eq_true_eq] at h
          exact rising_weaken r h.2 (by omega)
      · simp only [risingFrom, Bool.and_eq_true]
        exact ⟨h.1, ih (some i) h.2⟩

theorem rising_put (t : Tab α) (k : Nat) (v : α) (b : Option Nat) (h : risingFrom t b = true)
    (hb : ∀ c, b = some c → c < k) : risingFrom (put t k v) b = true := by
  induction t generalizing b with
  | nil => cases b <;> simp_all [put, risingFrom]
  | cons p r ih =>
    obtain ⟨i, x⟩ := p
    unfold put
    simp only [risingFrom, Bool.and_eq_true] at h
    split
    · rename_i hk
      cases b <;> simp_all [risingFrom]
    · split
      · rename_i h1 h2
        simp at h2
        subst h2
        cases b <;> simp_all [risingFrom]
      · rename_i h1 h2
        simp at h2
        simp only [risingFrom, Bool.and_eq_true]
        exact ⟨h.1, ih (some i) h.2 (by intro c hc; simp at hc; omega)⟩

theorem mem_del (t : Tab α) (k : Nat) {p : Nat × α} (h : p ∈ del t k) : p ∈ t := by
  induction t with
  | nil => exact h
  | cons q r ih =>
    obtain ⟨i, x⟩ := q
    unfold del at h
    split at h
    · exact h
    · split at h
      · exact List.mem_cons_of_mem _ h
      · rcases List.mem_cons.mp h with h | h
        · exact List.mem_cons.mpr (.inl h)
        · exact List.mem_cons_of_mem _ (ih h)

theorem mem_put (t : Tab α) (k : Nat) (v : α) {p : Nat × α} (h : p ∈ put t k v) : p = (k, v) ∨ p ∈ t := by
  induction t with
  | nil => simpa [put] using h
  | cons q r ih =>
    obtain ⟨i, x⟩ := q
    unfold put at h
    split at h
    · rcases List.mem_cons.mp h with h | h
      · exact .inl h
      · exact .inr h
    · split at h
      · rcases List.mem_cons.mp h with h | h
        · exact .inl h
        · exact .inr (List.mem_cons_of_mem _ h)
      · rcases List.mem_cons.mp h with h | h
        · exact .inr (List.mem_cons.mpr (.inl h))
        · rcases ih h with h | h
          · exact .inl h
          · exact .inr (List.mem_cons_of_mem _ h)

/-- A write keeps the canonical form. -/
theorem wf_set [DecidableEq α] (d : α) (t : Tab α) (k : Nat) (v : α) (h : wf d t = true) : wf d (set d t k v) = true := by
  simp only [wf, Bool.and_eq_true, List.all_eq_true, decide_eq_true_eq] at h ⊢
  unfold set
  split
  · exact ⟨rising_del t k none h.1, fun p hp => h.2 p (mem_del t k hp)⟩
  · rename_i hv
    refine ⟨rising_put t k v none h.1 (by intro c hc; cases hc), fun p hp => ?_⟩
    rcases mem_put t k v hp with hp | hp
    · rw [hp]; exact hv
    · exact h.2 p hp

theorem wf_nil [DecidableEq α] (d : α) : wf d ([] : Tab α) = true := rfl

/-- A table with a written key is not empty, unless the value is the default. -/
theorem put_ne_nil (t : Tab α) (k : Nat) (v : α) : put t k v ≠ [] := by
  cases t with
  | nil => simp [put]
  | cons p r =>
    obtain ⟨i, x⟩ := p
    unfold put
    split
    · simp
    · split <;> simp

theorem rising_filter (t : Tab α) (f : Nat × α → Bool) (b : Option Nat) (h : risingFrom t b = true) :
    risingFrom (t.filter f) b = true := by
  induction t generalizing b with
  | nil => rfl
  | cons p r ih =>
    obtain ⟨i, x⟩ := p
    simp only [risingFrom, Bool.and_eq_true] at h
    rw [List.filter_cons]
    split
    · simp only [risingFrom, Bool.and_eq_true]
      exact ⟨h.1, ih (some i) h.2⟩
    · cases b with
      | none => exact ih none (rising_none r h.2)
      | some c =>
        simp only [decide_eq_true_eq] at h
        exact ih (some c) (rising_weaken r h.2 (by omega))

/-- Leaving entries out keeps the canonical form. -/
theorem wf_filter [DecidableEq α] (d : α) (t : Tab α) (f : Nat × α → Bool) (h : wf d t = true) :
    wf d (t.filter f) = true := by
  simp only [wf, Bool.and_eq_true, List.all_eq_true, decide_eq_true_eq] at h ⊢
  exact ⟨rising_filter t f none h.1, fun p hp => h.2 p (List.mem_filter.mp hp).1⟩

end Sys2Proof.Machine.Tab
end

