-- ==== Sys2Proof/Laws/State.lean ====
section
/-!
SUPPORT. What each update of the state leaves alone, field by field, and what it writes; the reads of units, dies and
contexts after a write.
-/

namespace Sys2Proof.Machine

variable (s : State)

/-! ### setUnit -/

@[simp] theorem State.setUnit_mem (u : Nat) (x : Unit) : (s.setUnit u x).mem = s.mem := rfl
@[simp] theorem State.setUnit_tiles (u : Nat) (x : Unit) : (s.setUnit u x).tiles = s.tiles := rfl
@[simp] theorem State.setUnit_lately (u : Nat) (x : Unit) : (s.setUnit u x).lately = s.lately := rfl
@[simp] theorem State.setUnit_seen (u : Nat) (x : Unit) : (s.setUnit u x).seen = s.seen := rfl
@[simp] theorem State.setUnit_code (u : Nat) (x : Unit) : (s.setUnit u x).code = s.code := rfl
@[simp] theorem State.setUnit_codeOld (u : Nat) (x : Unit) : (s.setUnit u x).codeOld = s.codeOld := rfl
@[simp] theorem State.setUnit_dies (u : Nat) (x : Unit) : (s.setUnit u x).dies = s.dies := rfl
@[simp] theorem State.setUnit_ctxs (u : Nat) (x : Unit) : (s.setUnit u x).ctxs = s.ctxs := rfl
@[simp] theorem State.setUnit_glob (u : Nat) (x : Unit) : (s.setUnit u x).glob = s.glob := rfl
@[simp] theorem State.setUnit_groups (u : Nat) (x : Unit) : (s.setUnit u x).groups = s.groups := rfl
@[simp] theorem State.setUnit_landings (u : Nat) (x : Unit) : (s.setUnit u x).landings = s.landings := rfl
@[simp] theorem State.setUnit_rows (u : Nat) (x : Unit) : (s.setUnit u x).rows = s.rows := rfl
@[simp] theorem State.setUnit_streams (u : Nat) (x : Unit) : (s.setUnit u x).streams = s.streams := rfl
@[simp] theorem State.setUnit_flights (u : Nat) (x : Unit) : (s.setUnit u x).flights = s.flights := rfl
@[simp] theorem State.setUnit_watches (u : Nat) (x : Unit) : (s.setUnit u x).watches = s.watches := rfl
@[simp] theorem State.setUnit_xfers (u : Nat) (x : Unit) : (s.setUnit u x).xfers = s.xfers := rfl
@[simp] theorem State.setUnit_calls (u : Nat) (x : Unit) : (s.setUnit u x).calls = s.calls := rfl
@[simp] theorem State.setUnit_fabric (u : Nat) (x : Unit) : (s.setUnit u x).fabric = s.fabric := rfl
@[simp] theorem State.setUnit_switch (u : Nat) (x : Unit) : (s.setUnit u x).switch = s.switch := rfl
@[simp] theorem State.setUnit_cycle (u : Nat) (x : Unit) : (s.setUnit u x).cycle = s.cycle := rfl
@[simp] theorem State.setUnit_time (u : Nat) (x : Unit) : (s.setUnit u x).time = s.time := rfl
@[simp] theorem State.setUnit_ids (u : Nat) (x : Unit) : (s.setUnit u x).ids = s.ids := rfl
@[simp] theorem State.setUnit_fresh (u : Nat) (x : Unit) : (s.setUnit u x).fresh = s.fresh := rfl
@[simp] theorem State.setUnit_hostOut (u : Nat) (x : Unit) : (s.setUnit u x).hostOut = s.hostOut := rfl
@[simp] theorem State.setUnit_agenda (u : Nat) (x : Unit) : (s.setUnit u x).agenda = s.agenda := rfl
@[simp] theorem State.setUnit_cur (u : Nat) (x : Unit) : (s.setUnit u x).cur = s.cur := rfl
@[simp] theorem State.setUnit_arg (u : Nat) (x : Unit) : (s.setUnit u x).arg = s.arg := rfl
@[simp] theorem State.setUnit_u (u : Nat) (x : Unit) : (s.setUnit u x).u = s.u := rfl
@[simp] theorem State.setUnit_die (u : Nat) (x : Unit) (k9 : Nat) : (s.setUnit u x).die k9 = s.die k9 := rfl
@[simp] theorem State.setUnit_ctx (u : Nat) (x : Unit) (k9 : Nat) : (s.setUnit u x).ctx k9 = s.ctx k9 := rfl
@[simp] theorem State.setUnit_tile (u : Nat) (x : Unit) (k9 : Nat) : (s.setUnit u x).tile k9 = s.tile k9 := rfl

/-! ### modUnit -/

@[simp] theorem State.modUnit_mem (u : Nat) (f : Unit → Unit) : (s.modUnit u f).mem = s.mem := rfl
@[simp] theorem State.modUnit_tiles (u : Nat) (f : Unit → Unit) : (s.modUnit u f).tiles = s.tiles := rfl
@[simp] theorem State.modUnit_lately (u : Nat) (f : Unit → Unit) : (s.modUnit u f).lately = s.lately := rfl
@[simp] theorem State.modUnit_seen (u : Nat) (f : Unit → Unit) : (s.modUnit u f).seen = s.seen := rfl
@[simp] theorem State.modUnit_code (u : Nat) (f : Unit → Unit) : (s.modUnit u f).code = s.code := rfl
@[simp] theorem State.modUnit_codeOld (u : Nat) (f : Unit → Unit) : (s.modUnit u f).codeOld = s.codeOld := rfl
@[simp] theorem State.modUnit_dies (u : Nat) (f : Unit → Unit) : (s.modUnit u f).dies = s.dies := rfl
@[simp] theorem State.modUnit_ctxs (u : Nat) (f : Unit → Unit) : (s.modUnit u f).ctxs = s.ctxs := rfl
@[simp] theorem State.modUnit_glob (u : Nat) (f : Unit → Unit) : (s.modUnit u f).glob = s.glob := rfl
@[simp] theorem State.modUnit_groups (u : Nat) (f : Unit → Unit) : (s.modUnit u f).groups = s.groups := rfl
@[simp] theorem State.modUnit_landings (u : Nat) (f : Unit → Unit) : (s.modUnit u f).landings = s.landings := rfl
@[simp] theorem State.modUnit_rows (u : Nat) (f : Unit → Unit) : (s.modUnit u f).rows = s.rows := rfl
@[simp] theorem State.modUnit_streams (u : Nat) (f : Unit → Unit) : (s.modUnit u f).streams = s.streams := rfl
@[simp] theorem State.modUnit_flights (u : Nat) (f : Unit → Unit) : (s.modUnit u f).flights = s.flights := rfl
@[simp] theorem State.modUnit_watches (u : Nat) (f : Unit → Unit) : (s.modUnit u f).watches = s.watches := rfl
@[simp] theorem State.modUnit_xfers (u : Nat) (f : Unit → Unit) : (s.modUnit u f).xfers = s.xfers := rfl
@[simp] theorem State.modUnit_calls (u : Nat) (f : Unit → Unit) : (s.modUnit u f).calls = s.calls := rfl
@[simp] theorem State.modUnit_fabric (u : Nat) (f : Unit → Unit) : (s.modUnit u f).fabric = s.fabric := rfl
@[simp] theorem State.modUnit_switch (u : Nat) (f : Unit → Unit) : (s.modUnit u f).switch = s.switch := rfl
@[simp] theorem State.modUnit_cycle (u : Nat) (f : Unit → Unit) : (s.modUnit u f).cycle = s.cycle := rfl
@[simp] theorem State.modUnit_time (u : Nat) (f : Unit → Unit) : (s.modUnit u f).time = s.time := rfl
@[simp] theorem State.modUnit_ids (u : Nat) (f : Unit → Unit) : (s.modUnit u f).ids = s.ids := rfl
@[simp] theorem State.modUnit_fresh (u : Nat) (f : Unit → Unit) : (s.modUnit u f).fresh = s.fresh := rfl
@[simp] theorem State.modUnit_hostOut (u : Nat) (f : Unit → Unit) : (s.modUnit u f).hostOut = s.hostOut := rfl
@[simp] theorem State.modUnit_agenda (u : Nat) (f : Unit → Unit) : (s.modUnit u f).agenda = s.agenda := rfl
@[simp] theorem State.modUnit_cur (u : Nat) (f : Unit → Unit) : (s.modUnit u f).cur = s.cur := rfl
@[simp] theorem State.modUnit_arg (u : Nat) (f : Unit → Unit) : (s.modUnit u f).arg = s.arg := rfl
@[simp] theorem State.modUnit_u (u : Nat) (f : Unit → Unit) : (s.modUnit u f).u = s.u := rfl
@[simp] theorem State.modUnit_die (u : Nat) (f : Unit → Unit) (k9 : Nat) : (s.modUnit u f).die k9 = s.die k9 := rfl
@[simp] theorem State.modUnit_ctx (u : Nat) (f : Unit → Unit) (k9 : Nat) : (s.modUnit u f).ctx k9 = s.ctx k9 := rfl
@[simp] theorem State.modUnit_tile (u : Nat) (f : Unit → Unit) (k9 : Nat) : (s.modUnit u f).tile k9 = s.tile k9 := rfl

/-! ### modDie -/

@[simp] theorem State.modDie_units (d : Nat) (f : Die → Die) : (s.modDie d f).units = s.units := rfl
@[simp] theorem State.modDie_mem (d : Nat) (f : Die → Die) : (s.modDie d f).mem = s.mem := rfl
@[simp] theorem State.modDie_tiles (d : Nat) (f : Die → Die) : (s.modDie d f).tiles = s.tiles := rfl
@[simp] theorem State.modDie_lately (d : Nat) (f : Die → Die) : (s.modDie d f).lately = s.lately := rfl
@[simp] theorem State.modDie_seen (d : Nat) (f : Die → Die) : (s.modDie d f).seen = s.seen := rfl
@[simp] theorem State.modDie_code (d : Nat) (f : Die → Die) : (s.modDie d f).code = s.code := rfl
@[simp] theorem State.modDie_codeOld (d : Nat) (f : Die → Die) : (s.modDie d f).codeOld = s.codeOld := rfl
@[simp] theorem State.modDie_ctxs (d : Nat) (f : Die → Die) : (s.modDie d f).ctxs = s.ctxs := rfl
@[simp] theorem State.modDie_glob (d : Nat) (f : Die → Die) : (s.modDie d f).glob = s.glob := rfl
@[simp] theorem State.modDie_groups (d : Nat) (f : Die → Die) : (s.modDie d f).groups = s.groups := rfl
@[simp] theorem State.modDie_landings (d : Nat) (f : Die → Die) : (s.modDie d f).landings = s.landings := rfl
@[simp] theorem State.modDie_rows (d : Nat) (f : Die → Die) : (s.modDie d f).rows = s.rows := rfl
@[simp] theorem State.modDie_streams (d : Nat) (f : Die → Die) : (s.modDie d f).streams = s.streams := rfl
@[simp] theorem State.modDie_flights (d : Nat) (f : Die → Die) : (s.modDie d f).flights = s.flights := rfl
@[simp] theorem State.modDie_watches (d : Nat) (f : Die → Die) : (s.modDie d f).watches = s.watches := rfl
@[simp] theorem State.modDie_xfers (d : Nat) (f : Die → Die) : (s.modDie d f).xfers = s.xfers := rfl
@[simp] theorem State.modDie_calls (d : Nat) (f : Die → Die) : (s.modDie d f).calls = s.calls := rfl
@[simp] theorem State.modDie_fabric (d : Nat) (f : Die → Die) : (s.modDie d f).fabric = s.fabric := rfl
@[simp] theorem State.modDie_switch (d : Nat) (f : Die → Die) : (s.modDie d f).switch = s.switch := rfl
@[simp] theorem State.modDie_cycle (d : Nat) (f : Die → Die) : (s.modDie d f).cycle = s.cycle := rfl
@[simp] theorem State.modDie_time (d : Nat) (f : Die → Die) : (s.modDie d f).time = s.time := rfl
@[simp] theorem State.modDie_ids (d : Nat) (f : Die → Die) : (s.modDie d f).ids = s.ids := rfl
@[simp] theorem State.modDie_fresh (d : Nat) (f : Die → Die) : (s.modDie d f).fresh = s.fresh := rfl
@[simp] theorem State.modDie_hostOut (d : Nat) (f : Die → Die) : (s.modDie d f).hostOut = s.hostOut := rfl
@[simp] theorem State.modDie_agenda (d : Nat) (f : Die → Die) : (s.modDie d f).agenda = s.agenda := rfl
@[simp] theorem State.modDie_cur (d : Nat) (f : Die → Die) : (s.modDie d f).cur = s.cur := rfl
@[simp] theorem State.modDie_arg (d : Nat) (f : Die → Die) : (s.modDie d f).arg = s.arg := rfl
@[simp] theorem State.modDie_unit (d : Nat) (f : Die → Die) (k9 : Nat) : (s.modDie d f).unit k9 = s.unit k9 := rfl
@[simp] theorem State.modDie_me (d : Nat) (f : Die → Die) : (s.modDie d f).me = s.me := rfl
@[simp] theorem State.modDie_rs (d : Nat) (f : Die → Die) (m9 : BitVec 5) : (s.modDie d f).rs m9 = s.rs m9 := rfl
@[simp] theorem State.modDie_rf (d : Nat) (f : Die → Die) (m9 : BitVec 5) : (s.modDie d f).rf m9 = s.rf m9 := rfl
@[simp] theorem State.modDie_rg (d : Nat) (f : Die → Die) (m9 : BitVec 2) : (s.modDie d f).rg m9 = s.rg m9 := rfl
@[simp] theorem State.modDie_u (d : Nat) (f : Die → Die) : (s.modDie d f).u = s.u := rfl
@[simp] theorem State.modDie_ctx (d : Nat) (f : Die → Die) (k9 : Nat) : (s.modDie d f).ctx k9 = s.ctx k9 := rfl
@[simp] theorem State.modDie_tile (d : Nat) (f : Die → Die) (k9 : Nat) : (s.modDie d f).tile k9 = s.tile k9 := rfl

/-! ### modCtx -/

@[simp] theorem State.modCtx_units (c : Nat) (f : Ctx → Ctx) : (s.modCtx c f).units = s.units := rfl
@[simp] theorem State.modCtx_mem (c : Nat) (f : Ctx → Ctx) : (s.modCtx c f).mem = s.mem := rfl
@[simp] theorem State.modCtx_tiles (c : Nat) (f : Ctx → Ctx) : (s.modCtx c f).tiles = s.tiles := rfl
@[simp] theorem State.modCtx_lately (c : Nat) (f : Ctx → Ctx) : (s.modCtx c f).lately = s.lately := rfl
@[simp] theorem State.modCtx_seen (c : Nat) (f : Ctx → Ctx) : (s.modCtx c f).seen = s.seen := rfl
@[simp] theorem State.modCtx_code (c : Nat) (f : Ctx → Ctx) : (s.modCtx c f).code = s.code := rfl
@[simp] theorem State.modCtx_codeOld (c : Nat) (f : Ctx → Ctx) : (s.modCtx c f).codeOld = s.codeOld := rfl
@[simp] theorem State.modCtx_dies (c : Nat) (f : Ctx → Ctx) : (s.modCtx c f).dies = s.dies := rfl
@[simp] theorem State.modCtx_glob (c : Nat) (f : Ctx → Ctx) : (s.modCtx c f).glob = s.glob := rfl
@[simp] theorem State.modCtx_groups (c : Nat) (f : Ctx → Ctx) : (s.modCtx c f).groups = s.groups := rfl
@[simp] theorem State.modCtx_landings (c : Nat) (f : Ctx → Ctx) : (s.modCtx c f).landings = s.landings := rfl
@[simp] theorem State.modCtx_rows (c : Nat) (f : Ctx → Ctx) : (s.modCtx c f).rows = s.rows := rfl
@[simp] theorem State.modCtx_streams (c : Nat) (f : Ctx → Ctx) : (s.modCtx c f).streams = s.streams := rfl
@[simp] theorem State.modCtx_flights (c : Nat) (f : Ctx → Ctx) : (s.modCtx c f).flights = s.flights := rfl
@[simp] theorem State.modCtx_watches (c : Nat) (f : Ctx → Ctx) : (s.modCtx c f).watches = s.watches := rfl
@[simp] theorem State.modCtx_xfers (c : Nat) (f : Ctx → Ctx) : (s.modCtx c f).xfers = s.xfers := rfl
@[simp] theorem State.modCtx_calls (c : Nat) (f : Ctx → Ctx) : (s.modCtx c f).calls = s.calls := rfl
@[simp] theorem State.modCtx_fabric (c : Nat) (f : Ctx → Ctx) : (s.modCtx c f).fabric = s.fabric := rfl
@[simp] theorem State.modCtx_switch (c : Nat) (f : Ctx → Ctx) : (s.modCtx c f).switch = s.switch := rfl
@[simp] theorem State.modCtx_cycle (c : Nat) (f : Ctx → Ctx) : (s.modCtx c f).cycle = s.cycle := rfl
@[simp] theorem State.modCtx_time (c : Nat) (f : Ctx → Ctx) : (s.modCtx c f).time = s.time := rfl
@[simp] theorem State.modCtx_ids (c : Nat) (f : Ctx → Ctx) : (s.modCtx c f).ids = s.ids := rfl
@[simp] theorem State.modCtx_fresh (c : Nat) (f : Ctx → Ctx) : (s.modCtx c f).fresh = s.fresh := rfl
@[simp] theorem State.modCtx_hostOut (c : Nat) (f : Ctx → Ctx) : (s.modCtx c f).hostOut = s.hostOut := rfl
@[simp] theorem State.modCtx_agenda (c : Nat) (f : Ctx → Ctx) : (s.modCtx c f).agenda = s.agenda := rfl
@[simp] theorem State.modCtx_cur (c : Nat) (f : Ctx → Ctx) : (s.modCtx c f).cur = s.cur := rfl
@[simp] theorem State.modCtx_arg (c : Nat) (f : Ctx → Ctx) : (s.modCtx c f).arg = s.arg := rfl
@[simp] theorem State.modCtx_unit (c : Nat) (f : Ctx → Ctx) (k9 : Nat) : (s.modCtx c f).unit k9 = s.unit k9 := rfl
@[simp] theorem State.modCtx_me (c : Nat) (f : Ctx → Ctx) : (s.modCtx c f).me = s.me := rfl
@[simp] theorem State.modCtx_rs (c : Nat) (f : Ctx → Ctx) (m9 : BitVec 5) : (s.modCtx c f).rs m9 = s.rs m9 := rfl
@[simp] theorem State.modCtx_rf (c : Nat) (f : Ctx → Ctx) (m9 : BitVec 5) : (s.modCtx c f).rf m9 = s.rf m9 := rfl
@[simp] theorem State.modCtx_rg (c : Nat) (f : Ctx → Ctx) (m9 : BitVec 2) : (s.modCtx c f).rg m9 = s.rg m9 := rfl
@[simp] theorem State.modCtx_u (c : Nat) (f : Ctx → Ctx) : (s.modCtx c f).u = s.u := rfl
@[simp] theorem State.modCtx_die (c : Nat) (f : Ctx → Ctx) (k9 : Nat) : (s.modCtx c f).die k9 = s.die k9 := rfl
@[simp] theorem State.modCtx_tile (c : Nat) (f : Ctx → Ctx) (k9 : Nat) : (s.modCtx c f).tile k9 = s.tile k9 := rfl

/-! ### modGlob -/

@[simp] theorem State.modGlob_units (f : Glob → Glob) : (s.modGlob f).units = s.units := rfl
@[simp] theorem State.modGlob_mem (f : Glob → Glob) : (s.modGlob f).mem = s.mem := rfl
@[simp] theorem State.modGlob_tiles (f : Glob → Glob) : (s.modGlob f).tiles = s.tiles := rfl
@[simp] theorem State.modGlob_lately (f : Glob → Glob) : (s.modGlob f).lately = s.lately := rfl
@[simp] theorem State.modGlob_seen (f : Glob → Glob) : (s.modGlob f).seen = s.seen := rfl
@[simp] theorem State.modGlob_code (f : Glob → Glob) : (s.modGlob f).code = s.code := rfl
@[simp] theorem State.modGlob_codeOld (f : Glob → Glob) : (s.modGlob f).codeOld = s.codeOld := rfl
@[simp] theorem State.modGlob_dies (f : Glob → Glob) : (s.modGlob f).dies = s.dies := rfl
@[simp] theorem State.modGlob_ctxs (f : Glob → Glob) : (s.modGlob f).ctxs = s.ctxs := rfl
@[simp] theorem State.modGlob_groups (f : Glob → Glob) : (s.modGlob f).groups = s.groups := rfl
@[simp] theorem State.modGlob_landings (f : Glob → Glob) : (s.modGlob f).landings = s.landings := rfl
@[simp] theorem State.modGlob_rows (f : Glob → Glob) : (s.modGlob f).rows = s.rows := rfl
@[simp] theorem State.modGlob_streams (f : Glob → Glob) : (s.modGlob f).streams = s.streams := rfl
@[simp] theorem State.modGlob_flights (f : Glob → Glob) : (s.modGlob f).flights = s.flights := rfl
@[simp] theorem State.modGlob_watches (f : Glob → Glob) : (s.modGlob f).watches = s.watches := rfl
@[simp] theorem State.modGlob_xfers (f : Glob → Glob) : (s.modGlob f).xfers = s.xfers := rfl
@[simp] theorem State.modGlob_calls (f : Glob → Glob) : (s.modGlob f).calls = s.calls := rfl
@[simp] theorem State.modGlob_fabric (f : Glob → Glob) : (s.modGlob f).fabric = s.fabric := rfl
@[simp] theorem State.modGlob_switch (f : Glob → Glob) : (s.modGlob f).switch = s.switch := rfl
@[simp] theorem State.modGlob_cycle (f : Glob → Glob) : (s.modGlob f).cycle = s.cycle := rfl
@[simp] theorem State.modGlob_time (f : Glob → Glob) : (s.modGlob f).time = s.time := rfl
@[simp] theorem State.modGlob_ids (f : Glob → Glob) : (s.modGlob f).ids = s.ids := rfl
@[simp] theorem State.modGlob_fresh (f : Glob → Glob) : (s.modGlob f).fresh = s.fresh := rfl
@[simp] theorem State.modGlob_hostOut (f : Glob → Glob) : (s.modGlob f).hostOut = s.hostOut := rfl
@[simp] theorem State.modGlob_agenda (f : Glob → Glob) : (s.modGlob f).agenda = s.agenda := rfl
@[simp] theorem State.modGlob_cur (f : Glob → Glob) : (s.modGlob f).cur = s.cur := rfl
@[simp] theorem State.modGlob_arg (f : Glob → Glob) : (s.modGlob f).arg = s.arg := rfl
@[simp] theorem State.modGlob_unit (f : Glob → Glob) (k9 : Nat) : (s.modGlob f).unit k9 = s.unit k9 := rfl
@[simp] theorem State.modGlob_me (f : Glob → Glob) : (s.modGlob f).me = s.me := rfl
@[simp] theorem State.modGlob_rs (f : Glob → Glob) (m9 : BitVec 5) : (s.modGlob f).rs m9 = s.rs m9 := rfl
@[simp] theorem State.modGlob_rf (f : Glob → Glob) (m9 : BitVec 5) : (s.modGlob f).rf m9 = s.rf m9 := rfl
@[simp] theorem State.modGlob_rg (f : Glob → Glob) (m9 : BitVec 2) : (s.modGlob f).rg m9 = s.rg m9 := rfl
@[simp] theorem State.modGlob_u (f : Glob → Glob) : (s.modGlob f).u = s.u := rfl
@[simp] theorem State.modGlob_die (f : Glob → Glob) (k9 : Nat) : (s.modGlob f).die k9 = s.die k9 := rfl
@[simp] theorem State.modGlob_ctx (f : Glob → Glob) (k9 : Nat) : (s.modGlob f).ctx k9 = s.ctx k9 := rfl
@[simp] theorem State.modGlob_tile (f : Glob → Glob) (k9 : Nat) : (s.modGlob f).tile k9 = s.tile k9 := rfl

/-! ### write -/

@[simp] theorem State.write_units (p : Nat) (bs : List Byte) : (s.write p bs).units = s.units := rfl
@[simp] theorem State.write_tiles (p : Nat) (bs : List Byte) : (s.write p bs).tiles = s.tiles := rfl
@[simp] theorem State.write_lately (p : Nat) (bs : List Byte) : (s.write p bs).lately = s.lately := rfl
@[simp] theorem State.write_seen (p : Nat) (bs : List Byte) : (s.write p bs).seen = s.seen := rfl
@[simp] theorem State.write_code (p : Nat) (bs : List Byte) : (s.write p bs).code = s.code := rfl
@[simp] theorem State.write_codeOld (p : Nat) (bs : List Byte) : (s.write p bs).codeOld = s.codeOld := rfl
@[simp] theorem State.write_dies (p : Nat) (bs : List Byte) : (s.write p bs).dies = s.dies := rfl
@[simp] theorem State.write_ctxs (p : Nat) (bs : List Byte) : (s.write p bs).ctxs = s.ctxs := rfl
@[simp] theorem State.write_glob (p : Nat) (bs : List Byte) : (s.write p bs).glob = s.glob := rfl
@[simp] theorem State.write_groups (p : Nat) (bs : List Byte) : (s.write p bs).groups = s.groups := rfl
@[simp] theorem State.write_landings (p : Nat) (bs : List Byte) : (s.write p bs).landings = s.landings := rfl
@[simp] theorem State.write_rows (p : Nat) (bs : List Byte) : (s.write p bs).rows = s.rows := rfl
@[simp] theorem State.write_streams (p : Nat) (bs : List Byte) : (s.write p bs).streams = s.streams := rfl
@[simp] theorem State.write_flights (p : Nat) (bs : List Byte) : (s.write p bs).flights = s.flights := rfl
@[simp] theorem State.write_xfers (p : Nat) (bs : List Byte) : (s.write p bs).xfers = s.xfers := rfl
@[simp] theorem State.write_calls (p : Nat) (bs : List Byte) : (s.write p bs).calls = s.calls := rfl
@[simp] theorem State.write_fabric (p : Nat) (bs : List Byte) : (s.write p bs).fabric = s.fabric := rfl
@[simp] theorem State.write_switch (p : Nat) (bs : List Byte) : (s.write p bs).switch = s.switch := rfl
@[simp] theorem State.write_cycle (p : Nat) (bs : List Byte) : (s.write p bs).cycle = s.cycle := rfl
@[simp] theorem State.write_time (p : Nat) (bs : List Byte) : (s.write p bs).time = s.time := rfl
@[simp] theorem State.write_ids (p : Nat) (bs : List Byte) : (s.write p bs).ids = s.ids := rfl
@[simp] theorem State.write_fresh (p : Nat) (bs : List Byte) : (s.write p bs).fresh = s.fresh := rfl
@[simp] theorem State.write_hostOut (p : Nat) (bs : List Byte) : (s.write p bs).hostOut = s.hostOut := rfl
@[simp] theorem State.write_agenda (p : Nat) (bs : List Byte) : (s.write p bs).agenda = s.agenda := rfl
@[simp] theorem State.write_cur (p : Nat) (bs : List Byte) : (s.write p bs).cur = s.cur := rfl
@[simp] theorem State.write_arg (p : Nat) (bs : List Byte) : (s.write p bs).arg = s.arg := rfl
@[simp] theorem State.write_unit (p : Nat) (bs : List Byte) (k9 : Nat) : (s.write p bs).unit k9 = s.unit k9 := rfl
@[simp] theorem State.write_me (p : Nat) (bs : List Byte) : (s.write p bs).me = s.me := rfl
@[simp] theorem State.write_rs (p : Nat) (bs : List Byte) (m9 : BitVec 5) : (s.write p bs).rs m9 = s.rs m9 := rfl
@[simp] theorem State.write_rf (p : Nat) (bs : List Byte) (m9 : BitVec 5) : (s.write p bs).rf m9 = s.rf m9 := rfl
@[simp] theorem State.write_rg (p : Nat) (bs : List Byte) (m9 : BitVec 2) : (s.write p bs).rg m9 = s.rg m9 := rfl
@[simp] theorem State.write_u (p : Nat) (bs : List Byte) : (s.write p bs).u = s.u := rfl
@[simp] theorem State.write_die (p : Nat) (bs : List Byte) (k9 : Nat) : (s.write p bs).die k9 = s.die k9 := rfl
@[simp] theorem State.write_ctx (p : Nat) (bs : List Byte) (k9 : Nat) : (s.write p bs).ctx k9 = s.ctx k9 := rfl
@[simp] theorem State.write_tile (p : Nat) (bs : List Byte) (k9 : Nat) : (s.write p bs).tile k9 = s.tile k9 := rfl

/-! ### setTile -/

@[simp] theorem State.setTile_units (t : Nat) (b : Bool) : (s.setTile t b).units = s.units := rfl
@[simp] theorem State.setTile_mem (t : Nat) (b : Bool) : (s.setTile t b).mem = s.mem := rfl
@[simp] theorem State.setTile_seen (t : Nat) (b : Bool) : (s.setTile t b).seen = s.seen := rfl
@[simp] theorem State.setTile_code (t : Nat) (b : Bool) : (s.setTile t b).code = s.code := rfl
@[simp] theorem State.setTile_codeOld (t : Nat) (b : Bool) : (s.setTile t b).codeOld = s.codeOld := rfl
@[simp] theorem State.setTile_dies (t : Nat) (b : Bool) : (s.setTile t b).dies = s.dies := rfl
@[simp] theorem State.setTile_ctxs (t : Nat) (b : Bool) : (s.setTile t b).ctxs = s.ctxs := rfl
@[simp] theorem State.setTile_glob (t : Nat) (b : Bool) : (s.setTile t b).glob = s.glob := rfl
@[simp] theorem State.setTile_groups (t : Nat) (b : Bool) : (s.setTile t b).groups = s.groups := rfl
@[simp] theorem State.setTile_landings (t : Nat) (b : Bool) : (s.setTile t b).landings = s.landings := rfl
@[simp] theorem State.setTile_rows (t : Nat) (b : Bool) : (s.setTile t b).rows = s.rows := rfl
@[simp] theorem State.setTile_streams (t : Nat) (b : Bool) : (s.setTile t b).streams = s.streams := rfl
@[simp] theorem State.setTile_flights (t : Nat) (b : Bool) : (s.setTile t b).flights = s.flights := rfl
@[simp] theorem State.setTile_watches (t : Nat) (b : Bool) : (s.setTile t b).watches = s.watches := rfl
@[simp] theorem State.setTile_xfers (t : Nat) (b : Bool) : (s.setTile t b).xfers = s.xfers := rfl
@[simp] theorem State.setTile_calls (t : Nat) (b : Bool) : (s.setTile t b).calls = s.calls := rfl
@[simp] theorem State.setTile_fabric (t : Nat) (b : Bool) : (s.setTile t b).fabric = s.fabric := rfl
@[simp] theorem State.setTile_switch (t : Nat) (b : Bool) : (s.setTile t b).switch = s.switch := rfl
@[simp] theorem State.setTile_cycle (t : Nat) (b : Bool) : (s.setTile t b).cycle = s.cycle := rfl
@[simp] theorem State.setTile_time (t : Nat) (b : Bool) : (s.setTile t b).time = s.time := rfl
@[simp] theorem State.setTile_ids (t : Nat) (b : Bool) : (s.setTile t b).ids = s.ids := rfl
@[simp] theorem State.setTile_fresh (t : Nat) (b : Bool) : (s.setTile t b).fresh = s.fresh := rfl
@[simp] theorem State.setTile_hostOut (t : Nat) (b : Bool) : (s.setTile t b).hostOut = s.hostOut := rfl
@[simp] theorem State.setTile_agenda (t : Nat) (b : Bool) : (s.setTile t b).agenda = s.agenda := rfl
@[simp] theorem State.setTile_cur (t : Nat) (b : Bool) : (s.setTile t b).cur = s.cur := rfl
@[simp] theorem State.setTile_arg (t : Nat) (b : Bool) : (s.setTile t b).arg = s.arg := rfl
@[simp] theorem State.setTile_unit (t : Nat) (b : Bool) (k9 : Nat) : (s.setTile t b).unit k9 = s.unit k9 := rfl
@[simp] theorem State.setTile_me (t : Nat) (b : Bool) : (s.setTile t b).me = s.me := rfl
@[simp] theorem State.setTile_rs (t : Nat) (b : Bool) (m9 : BitVec 5) : (s.setTile t b).rs m9 = s.rs m9 := rfl
@[simp] theorem State.setTile_rf (t : Nat) (b : Bool) (m9 : BitVec 5) : (s.setTile t b).rf m9 = s.rf m9 := rfl
@[simp] theorem State.setTile_rg (t : Nat) (b : Bool) (m9 : BitVec 2) : (s.setTile t b).rg m9 = s.rg m9 := rfl
@[simp] theorem State.setTile_u (t : Nat) (b : Bool) : (s.setTile t b).u = s.u := rfl
@[simp] theorem State.setTile_die (t : Nat) (b : Bool) (k9 : Nat) : (s.setTile t b).die k9 = s.die k9 := rfl
@[simp] theorem State.setTile_ctx (t : Nat) (b : Bool) (k9 : Nat) : (s.setTile t b).ctx k9 = s.ctx k9 := rfl

/-! ### land -/

@[simp] theorem State.land_units (k : Nat) (w : Land) : (s.land k w).units = s.units := rfl
@[simp] theorem State.land_mem (k : Nat) (w : Land) : (s.land k w).mem = s.mem := rfl
@[simp] theorem State.land_tiles (k : Nat) (w : Land) : (s.land k w).tiles = s.tiles := rfl
@[simp] theorem State.land_lately (k : Nat) (w : Land) : (s.land k w).lately = s.lately := rfl
@[simp] theorem State.land_seen (k : Nat) (w : Land) : (s.land k w).seen = s.seen := rfl
@[simp] theorem State.land_code (k : Nat) (w : Land) : (s.land k w).code = s.code := rfl
@[simp] theorem State.land_codeOld (k : Nat) (w : Land) : (s.land k w).codeOld = s.codeOld := rfl
@[simp] theorem State.land_dies (k : Nat) (w : Land) : (s.land k w).dies = s.dies := rfl
@[simp] theorem State.land_ctxs (k : Nat) (w : Land) : (s.land k w).ctxs = s.ctxs := rfl
@[simp] theorem State.land_glob (k : Nat) (w : Land) : (s.land k w).glob = s.glob := rfl
@[simp] theorem State.land_groups (k : Nat) (w : Land) : (s.land k w).groups = s.groups := rfl
@[simp] theorem State.land_rows (k : Nat) (w : Land) : (s.land k w).rows = s.rows := rfl
@[simp] theorem State.land_streams (k : Nat) (w : Land) : (s.land k w).streams = s.streams := rfl
@[simp] theorem State.land_flights (k : Nat) (w : Land) : (s.land k w).flights = s.flights := rfl
@[simp] theorem State.land_watches (k : Nat) (w : Land) : (s.land k w).watches = s.watches := rfl
@[simp] theorem State.land_xfers (k : Nat) (w : Land) : (s.land k w).xfers = s.xfers := rfl
@[simp] theorem State.land_calls (k : Nat) (w : Land) : (s.land k w).calls = s.calls := rfl
@[simp] theorem State.land_fabric (k : Nat) (w : Land) : (s.land k w).fabric = s.fabric := rfl
@[simp] theorem State.land_switch (k : Nat) (w : Land) : (s.land k w).switch = s.switch := rfl
@[simp] theorem State.land_cycle (k : Nat) (w : Land) : (s.land k w).cycle = s.cycle := rfl
@[simp] theorem State.land_time (k : Nat) (w : Land) : (s.land k w).time = s.time := rfl
@[simp] theorem State.land_ids (k : Nat) (w : Land) : (s.land k w).ids = s.ids := rfl
@[simp] theorem State.land_fresh (k : Nat) (w : Land) : (s.land k w).fresh = s.fresh := rfl
@[simp] theorem State.land_hostOut (k : Nat) (w : Land) : (s.land k w).hostOut = s.hostOut := rfl
@[simp] theorem State.land_agenda (k : Nat) (w : Land) : (s.land k w).agenda = s.agenda := rfl
@[simp] theorem State.land_cur (k : Nat) (w : Land) : (s.land k w).cur = s.cur := rfl
@[simp] theorem State.land_arg (k : Nat) (w : Land) : (s.land k w).arg = s.arg := rfl
@[simp] theorem State.land_unit (k : Nat) (w : Land) (k9 : Nat) : (s.land k w).unit k9 = s.unit k9 := rfl
@[simp] theorem State.land_me (k : Nat) (w : Land) : (s.land k w).me = s.me := rfl
@[simp] theorem State.land_rs (k : Nat) (w : Land) (m9 : BitVec 5) : (s.land k w).rs m9 = s.rs m9 := rfl
@[simp] theorem State.land_rf (k : Nat) (w : Land) (m9 : BitVec 5) : (s.land k w).rf m9 = s.rf m9 := rfl
@[simp] theorem State.land_rg (k : Nat) (w : Land) (m9 : BitVec 2) : (s.land k w).rg m9 = s.rg m9 := rfl
@[simp] theorem State.land_u (k : Nat) (w : Land) : (s.land k w).u = s.u := rfl
@[simp] theorem State.land_die (k : Nat) (w : Land) (k9 : Nat) : (s.land k w).die k9 = s.die k9 := rfl
@[simp] theorem State.land_ctx (k : Nat) (w : Land) (k9 : Nat) : (s.land k w).ctx k9 = s.ctx k9 := rfl
@[simp] theorem State.land_tile (k : Nat) (w : Land) (k9 : Nat) : (s.land k w).tile k9 = s.tile k9 := rfl

/-! ### fly -/

@[simp] theorem State.fly_units (f : Flight) : (s.fly f).units = s.units := rfl
@[simp] theorem State.fly_mem (f : Flight) : (s.fly f).mem = s.mem := rfl
@[simp] theorem State.fly_tiles (f : Flight) : (s.fly f).tiles = s.tiles := rfl
@[simp] theorem State.fly_lately (f : Flight) : (s.fly f).lately = s.lately := rfl
@[simp] theorem State.fly_seen (f : Flight) : (s.fly f).seen = s.seen := rfl
@[simp] theorem State.fly_code (f : Flight) : (s.fly f).code = s.code := rfl
@[simp] theorem State.fly_codeOld (f : Flight) : (s.fly f).codeOld = s.codeOld := rfl
@[simp] theorem State.fly_dies (f : Flight) : (s.fly f).dies = s.dies := rfl
@[simp] theorem State.fly_ctxs (f : Flight) : (s.fly f).ctxs = s.ctxs := rfl
@[simp] theorem State.fly_glob (f : Flight) : (s.fly f).glob = s.glob := rfl
@[simp] theorem State.fly_groups (f : Flight) : (s.fly f).groups = s.groups := rfl
@[simp] theorem State.fly_landings (f : Flight) : (s.fly f).landings = s.landings := rfl
@[simp] theorem State.fly_rows (f : Flight) : (s.fly f).rows = s.rows := rfl
@[simp] theorem State.fly_streams (f : Flight) : (s.fly f).streams = s.streams := rfl
@[simp] theorem State.fly_watches (f : Flight) : (s.fly f).watches = s.watches := rfl
@[simp] theorem State.fly_xfers (f : Flight) : (s.fly f).xfers = s.xfers := rfl
@[simp] theorem State.fly_calls (f : Flight) : (s.fly f).calls = s.calls := rfl
@[simp] theorem State.fly_fabric (f : Flight) : (s.fly f).fabric = s.fabric := rfl
@[simp] theorem State.fly_switch (f : Flight) : (s.fly f).switch = s.switch := rfl
@[simp] theorem State.fly_cycle (f : Flight) : (s.fly f).cycle = s.cycle := rfl
@[simp] theorem State.fly_time (f : Flight) : (s.fly f).time = s.time := rfl
@[simp] theorem State.fly_fresh (f : Flight) : (s.fly f).fresh = s.fresh := rfl
@[simp] theorem State.fly_hostOut (f : Flight) : (s.fly f).hostOut = s.hostOut := rfl
@[simp] theorem State.fly_agenda (f : Flight) : (s.fly f).agenda = s.agenda := rfl
@[simp] theorem State.fly_cur (f : Flight) : (s.fly f).cur = s.cur := rfl
@[simp] theorem State.fly_arg (f : Flight) : (s.fly f).arg = s.arg := rfl
@[simp] theorem State.fly_unit (f : Flight) (k9 : Nat) : (s.fly f).unit k9 = s.unit k9 := rfl
@[simp] theorem State.fly_me (f : Flight) : (s.fly f).me = s.me := rfl
@[simp] theorem State.fly_rs (f : Flight) (m9 : BitVec 5) : (s.fly f).rs m9 = s.rs m9 := rfl
@[simp] theorem State.fly_rf (f : Flight) (m9 : BitVec 5) : (s.fly f).rf m9 = s.rf m9 := rfl
@[simp] theorem State.fly_rg (f : Flight) (m9 : BitVec 2) : (s.fly f).rg m9 = s.rg m9 := rfl
@[simp] theorem State.fly_u (f : Flight) : (s.fly f).u = s.u := rfl
@[simp] theorem State.fly_die (f : Flight) (k9 : Nat) : (s.fly f).die k9 = s.die k9 := rfl
@[simp] theorem State.fly_ctx (f : Flight) (k9 : Nat) : (s.fly f).ctx k9 = s.ctx k9 := rfl
@[simp] theorem State.fly_tile (f : Flight) (k9 : Nat) : (s.fly f).tile k9 = s.tile k9 := rfl

/-! ### result -/

@[simp] theorem State.result_units (k : Nat) (ws : List (Stor × Val)) (fl : Flags) : (s.result k ws fl).units = s.units := rfl
@[simp] theorem State.result_mem (k : Nat) (ws : List (Stor × Val)) (fl : Flags) : (s.result k ws fl).mem = s.mem := rfl
@[simp] theorem State.result_tiles (k : Nat) (ws : List (Stor × Val)) (fl : Flags) : (s.result k ws fl).tiles = s.tiles := rfl
@[simp] theorem State.result_lately (k : Nat) (ws : List (Stor × Val)) (fl : Flags) : (s.result k ws fl).lately = s.lately := rfl
@[simp] theorem State.result_seen (k : Nat) (ws : List (Stor × Val)) (fl : Flags) : (s.result k ws fl).seen = s.seen := rfl
@[simp] theorem State.result_code (k : Nat) (ws : List (Stor × Val)) (fl : Flags) : (s.result k ws fl).code = s.code := rfl
@[simp] theorem State.result_codeOld (k : Nat) (ws : List (Stor × Val)) (fl : Flags) : (s.result k ws fl).codeOld = s.codeOld := rfl
@[simp] theorem State.result_dies (k : Nat) (ws : List (Stor × Val)) (fl : Flags) : (s.result k ws fl).dies = s.dies := rfl
@[simp] theorem State.result_ctxs (k : Nat) (ws : List (Stor × Val)) (fl : Flags) : (s.result k ws fl).ctxs = s.ctxs := rfl
@[simp] theorem State.result_glob (k : Nat) (ws : List (Stor × Val)) (fl : Flags) : (s.result k ws fl).glob = s.glob := rfl
@[simp] theorem State.result_groups (k : Nat) (ws : List (Stor × Val)) (fl : Flags) : (s.result k ws fl).groups = s.groups := rfl
@[simp] theorem State.result_landings (k : Nat) (ws : List (Stor × Val)) (fl : Flags) : (s.result k ws fl).landings = s.landings := rfl
@[simp] theorem State.result_rows (k : Nat) (ws : List (Stor × Val)) (fl : Flags) : (s.result k ws fl).rows = s.rows := rfl
@[simp] theorem State.result_streams (k : Nat) (ws : List (Stor × Val)) (fl : Flags) : (s.result k ws fl).streams = s.streams := rfl
@[simp] theorem State.result_watches (k : Nat) (ws : List (Stor × Val)) (fl : Flags) : (s.result k ws fl).watches = s.watches := rfl
@[simp] theorem State.result_xfers (k : Nat) (ws : List (Stor × Val)) (fl : Flags) : (s.result k ws fl).xfers = s.xfers := rfl
@[simp] theorem State.result_calls (k : Nat) (ws : List (Stor × Val)) (fl : Flags) : (s.result k ws fl).calls = s.calls := rfl
@[simp] theorem State.result_fabric (k : Nat) (ws : List (Stor × Val)) (fl : Flags) : (s.result k ws fl).fabric = s.fabric := rfl
@[simp] theorem State.result_switch (k : Nat) (ws : List (Stor × Val)) (fl : Flags) : (s.result k ws fl).switch = s.switch := rfl
@[simp] theorem State.result_cycle (k : Nat) (ws : List (Stor × Val)) (fl : Flags) : (s.result k ws fl).cycle = s.cycle := rfl
@[simp] theorem State.result_time (k : Nat) (ws : List (Stor × Val)) (fl : Flags) : (s.result k ws fl).time = s.time := rfl
@[simp] theorem State.result_fresh (k : Nat) (ws : List (Stor × Val)) (fl : Flags) : (s.result k ws fl).fresh = s.fresh := rfl
@[simp] theorem State.result_hostOut (k : Nat) (ws : List (Stor × Val)) (fl : Flags) : (s.result k ws fl).hostOut = s.hostOut := rfl
@[simp] theorem State.result_agenda (k : Nat) (ws : List (Stor × Val)) (fl : Flags) : (s.result k ws fl).agenda = s.agenda := rfl
@[simp] theorem State.result_cur (k : Nat) (ws : List (Stor × Val)) (fl : Flags) : (s.result k ws fl).cur = s.cur := rfl
@[simp] theorem State.result_arg (k : Nat) (ws : List (Stor × Val)) (fl : Flags) : (s.result k ws fl).arg = s.arg := rfl
@[simp] theorem State.result_unit (k : Nat) (ws : List (Stor × Val)) (fl : Flags) (k9 : Nat) : (s.result k ws fl).unit k9 = s.unit k9 := rfl
@[simp] theorem State.result_me (k : Nat) (ws : List (Stor × Val)) (fl : Flags) : (s.result k ws fl).me = s.me := rfl
@[simp] theorem State.result_rs (k : Nat) (ws : List (Stor × Val)) (fl : Flags) (m9 : BitVec 5) : (s.result k ws fl).rs m9 = s.rs m9 := rfl
@[simp] theorem State.result_rf (k : Nat) (ws : List (Stor × Val)) (fl : Flags) (m9 : BitVec 5) : (s.result k ws fl).rf m9 = s.rf m9 := rfl
@[simp] theorem State.result_rg (k : Nat) (ws : List (Stor × Val)) (fl : Flags) (m9 : BitVec 2) : (s.result k ws fl).rg m9 = s.rg m9 := rfl
@[simp] theorem State.result_u (k : Nat) (ws : List (Stor × Val)) (fl : Flags) : (s.result k ws fl).u = s.u := rfl
@[simp] theorem State.result_die (k : Nat) (ws : List (Stor × Val)) (fl : Flags) (k9 : Nat) : (s.result k ws fl).die k9 = s.die k9 := rfl
@[simp] theorem State.result_ctx (k : Nat) (ws : List (Stor × Val)) (fl : Flags) (k9 : Nat) : (s.result k ws fl).ctx k9 = s.ctx k9 := rfl
@[simp] theorem State.result_tile (k : Nat) (ws : List (Stor × Val)) (fl : Flags) (k9 : Nat) : (s.result k ws fl).tile k9 = s.tile k9 := rfl

/-! ### issuedAs -/

@[simp] theorem State.issuedAs_mem (n : Nat) (b : Bool) : (s.issuedAs n b).mem = s.mem := rfl
@[simp] theorem State.issuedAs_tiles (n : Nat) (b : Bool) : (s.issuedAs n b).tiles = s.tiles := rfl
@[simp] theorem State.issuedAs_lately (n : Nat) (b : Bool) : (s.issuedAs n b).lately = s.lately := rfl
@[simp] theorem State.issuedAs_seen (n : Nat) (b : Bool) : (s.issuedAs n b).seen = s.seen := rfl
@[simp] theorem State.issuedAs_code (n : Nat) (b : Bool) : (s.issuedAs n b).code = s.code := rfl
@[simp] theorem State.issuedAs_codeOld (n : Nat) (b : Bool) : (s.issuedAs n b).codeOld = s.codeOld := rfl
@[simp] theorem State.issuedAs_dies (n : Nat) (b : Bool) : (s.issuedAs n b).dies = s.dies := rfl
@[simp] theorem State.issuedAs_ctxs (n : Nat) (b : Bool) : (s.issuedAs n b).ctxs = s.ctxs := rfl
@[simp] theorem State.issuedAs_glob (n : Nat) (b : Bool) : (s.issuedAs n b).glob = s.glob := rfl
@[simp] theorem State.issuedAs_groups (n : Nat) (b : Bool) : (s.issuedAs n b).groups = s.groups := rfl
@[simp] theorem State.issuedAs_landings (n : Nat) (b : Bool) : (s.issuedAs n b).landings = s.landings := rfl
@[simp] theorem State.issuedAs_rows (n : Nat) (b : Bool) : (s.issuedAs n b).rows = s.rows := rfl
@[simp] theorem State.issuedAs_streams (n : Nat) (b : Bool) : (s.issuedAs n b).streams = s.streams := rfl
@[simp] theorem State.issuedAs_flights (n : Nat) (b : Bool) : (s.issuedAs n b).flights = s.flights := rfl
@[simp] theorem State.issuedAs_watches (n : Nat) (b : Bool) : (s.issuedAs n b).watches = s.watches := rfl
@[simp] theorem State.issuedAs_xfers (n : Nat) (b : Bool) : (s.issuedAs n b).xfers = s.xfers := rfl
@[simp] theorem State.issuedAs_calls (n : Nat) (b : Bool) : (s.issuedAs n b).calls = s.calls := rfl
@[simp] theorem State.issuedAs_fabric (n : Nat) (b : Bool) : (s.issuedAs n b).fabric = s.fabric := rfl
@[simp] theorem State.issuedAs_switch (n : Nat) (b : Bool) : (s.issuedAs n b).switch = s.switch := rfl
@[simp] theorem State.issuedAs_cycle (n : Nat) (b : Bool) : (s.issuedAs n b).cycle = s.cycle := rfl
@[simp] theorem State.issuedAs_time (n : Nat) (b : Bool) : (s.issuedAs n b).time = s.time := rfl
@[simp] theorem State.issuedAs_ids (n : Nat) (b : Bool) : (s.issuedAs n b).ids = s.ids := rfl
@[simp] theorem State.issuedAs_fresh (n : Nat) (b : Bool) : (s.issuedAs n b).fresh = s.fresh := rfl
@[simp] theorem State.issuedAs_hostOut (n : Nat) (b : Bool) : (s.issuedAs n b).hostOut = s.hostOut := rfl
@[simp] theorem State.issuedAs_agenda (n : Nat) (b : Bool) : (s.issuedAs n b).agenda = s.agenda := rfl
@[simp] theorem State.issuedAs_cur (n : Nat) (b : Bool) : (s.issuedAs n b).cur = s.cur := rfl
@[simp] theorem State.issuedAs_arg (n : Nat) (b : Bool) : (s.issuedAs n b).arg = s.arg := rfl
@[simp] theorem State.issuedAs_u (n : Nat) (b : Bool) : (s.issuedAs n b).u = s.u := rfl
@[simp] theorem State.issuedAs_die (n : Nat) (b : Bool) (k9 : Nat) : (s.issuedAs n b).die k9 = s.die k9 := rfl
@[simp] theorem State.issuedAs_ctx (n : Nat) (b : Bool) (k9 : Nat) : (s.issuedAs n b).ctx k9 = s.ctx k9 := rfl
@[simp] theorem State.issuedAs_tile (n : Nat) (b : Bool) (k9 : Nat) : (s.issuedAs n b).tile k9 = s.tile k9 := rfl

/-! ### issued -/

@[simp] theorem State.issued_mem (n : Nat) : (s.issued n).mem = s.mem := rfl
@[simp] theorem State.issued_tiles (n : Nat) : (s.issued n).tiles = s.tiles := rfl
@[simp] theorem State.issued_lately (n : Nat) : (s.issued n).lately = s.lately := rfl
@[simp] theorem State.issued_seen (n : Nat) : (s.issued n).seen = s.seen := rfl
@[simp] theorem State.issued_code (n : Nat) : (s.issued n).code = s.code := rfl
@[simp] theorem State.issued_codeOld (n : Nat) : (s.issued n).codeOld = s.codeOld := rfl
@[simp] theorem State.issued_dies (n : Nat) : (s.issued n).dies = s.dies := rfl
@[simp] theorem State.issued_ctxs (n : Nat) : (s.issued n).ctxs = s.ctxs := rfl
@[simp] theorem State.issued_glob (n : Nat) : (s.issued n).glob = s.glob := rfl
@[simp] theorem State.issued_groups (n : Nat) : (s.issued n).groups = s.groups := rfl
@[simp] theorem State.issued_landings (n : Nat) : (s.issued n).landings = s.landings := rfl
@[simp] theorem State.issued_rows (n : Nat) : (s.issued n).rows = s.rows := rfl
@[simp] theorem State.issued_streams (n : Nat) : (s.issued n).streams = s.streams := rfl
@[simp] theorem State.issued_flights (n : Nat) : (s.issued n).flights = s.flights := rfl
@[simp] theorem State.issued_watches (n : Nat) : (s.issued n).watches = s.watches := rfl
@[simp] theorem State.issued_xfers (n : Nat) : (s.issued n).xfers = s.xfers := rfl
@[simp] theorem State.issued_calls (n : Nat) : (s.issued n).calls = s.calls := rfl
@[simp] theorem State.issued_fabric (n : Nat) : (s.issued n).fabric = s.fabric := rfl
@[simp] theorem State.issued_switch (n : Nat) : (s.issued n).switch = s.switch := rfl
@[simp] theorem State.issued_cycle (n : Nat) : (s.issued n).cycle = s.cycle := rfl
@[simp] theorem State.issued_time (n : Nat) : (s.issued n).time = s.time := rfl
@[simp] theorem State.issued_ids (n : Nat) : (s.issued n).ids = s.ids := rfl
@[simp] theorem State.issued_fresh (n : Nat) : (s.issued n).fresh = s.fresh := rfl
@[simp] theorem State.issued_hostOut (n : Nat) : (s.issued n).hostOut = s.hostOut := rfl
@[simp] theorem State.issued_agenda (n : Nat) : (s.issued n).agenda = s.agenda := rfl
@[simp] theorem State.issued_cur (n : Nat) : (s.issued n).cur = s.cur := rfl
@[simp] theorem State.issued_arg (n : Nat) : (s.issued n).arg = s.arg := rfl
@[simp] theorem State.issued_u (n : Nat) : (s.issued n).u = s.u := rfl
@[simp] theorem State.issued_die (n : Nat) (k9 : Nat) : (s.issued n).die k9 = s.die k9 := rfl
@[simp] theorem State.issued_ctx (n : Nat) (k9 : Nat) : (s.issued n).ctx k9 = s.ctx k9 := rfl
@[simp] theorem State.issued_tile (n : Nat) (k9 : Nat) : (s.issued n).tile k9 = s.tile k9 := rfl

/-! ### unmark -/

@[simp] theorem State.unmark_mem (p : Stor → Bool) : (s.unmark p).mem = s.mem := rfl
@[simp] theorem State.unmark_tiles (p : Stor → Bool) : (s.unmark p).tiles = s.tiles := rfl
@[simp] theorem State.unmark_lately (p : Stor → Bool) : (s.unmark p).lately = s.lately := rfl
@[simp] theorem State.unmark_seen (p : Stor → Bool) : (s.unmark p).seen = s.seen := rfl
@[simp] theorem State.unmark_code (p : Stor → Bool) : (s.unmark p).code = s.code := rfl
@[simp] theorem State.unmark_codeOld (p : Stor → Bool) : (s.unmark p).codeOld = s.codeOld := rfl
@[simp] theorem State.unmark_dies (p : Stor → Bool) : (s.unmark p).dies = s.dies := rfl
@[simp] theorem State.unmark_ctxs (p : Stor → Bool) : (s.unmark p).ctxs = s.ctxs := rfl
@[simp] theorem State.unmark_glob (p : Stor → Bool) : (s.unmark p).glob = s.glob := rfl
@[simp] theorem State.unmark_groups (p : Stor → Bool) : (s.unmark p).groups = s.groups := rfl
@[simp] theorem State.unmark_landings (p : Stor → Bool) : (s.unmark p).landings = s.landings := rfl
@[simp] theorem State.unmark_rows (p : Stor → Bool) : (s.unmark p).rows = s.rows := rfl
@[simp] theorem State.unmark_streams (p : Stor → Bool) : (s.unmark p).streams = s.streams := rfl
@[simp] theorem State.unmark_flights (p : Stor → Bool) : (s.unmark p).flights = s.flights := rfl
@[simp] theorem State.unmark_watches (p : Stor → Bool) : (s.unmark p).watches = s.watches := rfl
@[simp] theorem State.unmark_xfers (p : Stor → Bool) : (s.unmark p).xfers = s.xfers := rfl
@[simp] theorem State.unmark_calls (p : Stor → Bool) : (s.unmark p).calls = s.calls := rfl
@[simp] theorem State.unmark_fabric (p : Stor → Bool) : (s.unmark p).fabric = s.fabric := rfl
@[simp] theorem State.unmark_switch (p : Stor → Bool) : (s.unmark p).switch = s.switch := rfl
@[simp] theorem State.unmark_cycle (p : Stor → Bool) : (s.unmark p).cycle = s.cycle := rfl
@[simp] theorem State.unmark_time (p : Stor → Bool) : (s.unmark p).time = s.time := rfl
@[simp] theorem State.unmark_ids (p : Stor → Bool) : (s.unmark p).ids = s.ids := rfl
@[simp] theorem State.unmark_fresh (p : Stor → Bool) : (s.unmark p).fresh = s.fresh := rfl
@[simp] theorem State.unmark_hostOut (p : Stor → Bool) : (s.unmark p).hostOut = s.hostOut := rfl
@[simp] theorem State.unmark_agenda (p : Stor → Bool) : (s.unmark p).agenda = s.agenda := rfl
@[simp] theorem State.unmark_cur (p : Stor → Bool) : (s.unmark p).cur = s.cur := rfl
@[simp] theorem State.unmark_arg (p : Stor → Bool) : (s.unmark p).arg = s.arg := rfl
@[simp] theorem State.unmark_u (p : Stor → Bool) : (s.unmark p).u = s.u := rfl
@[simp] theorem State.unmark_die (p : Stor → Bool) (k9 : Nat) : (s.unmark p).die k9 = s.die k9 := rfl
@[simp] theorem State.unmark_ctx (p : Stor → Bool) (k9 : Nat) : (s.unmark p).ctx k9 = s.ctx k9 := rfl
@[simp] theorem State.unmark_tile (p : Stor → Bool) (k9 : Nat) : (s.unmark p).tile k9 = s.tile k9 := rfl

/-! ### holding -/

@[simp] theorem State.holding_mem (h : Hold) : (s.holding h).mem = s.mem := rfl
@[simp] theorem State.holding_tiles (h : Hold) : (s.holding h).tiles = s.tiles := rfl
@[simp] theorem State.holding_lately (h : Hold) : (s.holding h).lately = s.lately := rfl
@[simp] theorem State.holding_seen (h : Hold) : (s.holding h).seen = s.seen := rfl
@[simp] theorem State.holding_code (h : Hold) : (s.holding h).code = s.code := rfl
@[simp] theorem State.holding_codeOld (h : Hold) : (s.holding h).codeOld = s.codeOld := rfl
@[simp] theorem State.holding_dies (h : Hold) : (s.holding h).dies = s.dies := rfl
@[simp] theorem State.holding_ctxs (h : Hold) : (s.holding h).ctxs = s.ctxs := rfl
@[simp] theorem State.holding_glob (h : Hold) : (s.holding h).glob = s.glob := rfl
@[simp] theorem State.holding_groups (h : Hold) : (s.holding h).groups = s.groups := rfl
@[simp] theorem State.holding_landings (h : Hold) : (s.holding h).landings = s.landings := rfl
@[simp] theorem State.holding_rows (h : Hold) : (s.holding h).rows = s.rows := rfl
@[simp] theorem State.holding_streams (h : Hold) : (s.holding h).streams = s.streams := rfl
@[simp] theorem State.holding_flights (h : Hold) : (s.holding h).flights = s.flights := rfl
@[simp] theorem State.holding_watches (h : Hold) : (s.holding h).watches = s.watches := rfl
@[simp] theorem State.holding_xfers (h : Hold) : (s.holding h).xfers = s.xfers := rfl
@[simp] theorem State.holding_calls (h : Hold) : (s.holding h).calls = s.calls := rfl
@[simp] theorem State.holding_fabric (h : Hold) : (s.holding h).fabric = s.fabric := rfl
@[simp] theorem State.holding_switch (h : Hold) : (s.holding h).switch = s.switch := rfl
@[simp] theorem State.holding_cycle (h : Hold) : (s.holding h).cycle = s.cycle := rfl
@[simp] theorem State.holding_time (h : Hold) : (s.holding h).time = s.time := rfl
@[simp] theorem State.holding_ids (h : Hold) : (s.holding h).ids = s.ids := rfl
@[simp] theorem State.holding_fresh (h : Hold) : (s.holding h).fresh = s.fresh := rfl
@[simp] theorem State.holding_hostOut (h : Hold) : (s.holding h).hostOut = s.hostOut := rfl
@[simp] theorem State.holding_agenda (h : Hold) : (s.holding h).agenda = s.agenda := rfl
@[simp] theorem State.holding_cur (h : Hold) : (s.holding h).cur = s.cur := rfl
@[simp] theorem State.holding_arg (h : Hold) : (s.holding h).arg = s.arg := rfl
@[simp] theorem State.holding_u (h : Hold) : (s.holding h).u = s.u := rfl
@[simp] theorem State.holding_die (h : Hold) (k9 : Nat) : (s.holding h).die k9 = s.die k9 := rfl
@[simp] theorem State.holding_ctx (h : Hold) (k9 : Nat) : (s.holding h).ctx k9 = s.ctx k9 := rfl
@[simp] theorem State.holding_tile (h : Hold) (k9 : Nat) : (s.holding h).tile k9 = s.tile k9 := rfl

/-! ### raiseAt -/

@[simp] theorem State.raiseAt_mem (u q : Nat) (a : BitVec 64) (k : Nat) (b : Bool) (f : Flt) : (s.raiseAt u q a k b f).mem = s.mem := rfl
@[simp] theorem State.raiseAt_tiles (u q : Nat) (a : BitVec 64) (k : Nat) (b : Bool) (f : Flt) : (s.raiseAt u q a k b f).tiles = s.tiles := rfl
@[simp] theorem State.raiseAt_lately (u q : Nat) (a : BitVec 64) (k : Nat) (b : Bool) (f : Flt) : (s.raiseAt u q a k b f).lately = s.lately := rfl
@[simp] theorem State.raiseAt_seen (u q : Nat) (a : BitVec 64) (k : Nat) (b : Bool) (f : Flt) : (s.raiseAt u q a k b f).seen = s.seen := rfl
@[simp] theorem State.raiseAt_code (u q : Nat) (a : BitVec 64) (k : Nat) (b : Bool) (f : Flt) : (s.raiseAt u q a k b f).code = s.code := rfl
@[simp] theorem State.raiseAt_codeOld (u q : Nat) (a : BitVec 64) (k : Nat) (b : Bool) (f : Flt) : (s.raiseAt u q a k b f).codeOld = s.codeOld := rfl
@[simp] theorem State.raiseAt_dies (u q : Nat) (a : BitVec 64) (k : Nat) (b : Bool) (f : Flt) : (s.raiseAt u q a k b f).dies = s.dies := rfl
@[simp] theorem State.raiseAt_ctxs (u q : Nat) (a : BitVec 64) (k : Nat) (b : Bool) (f : Flt) : (s.raiseAt u q a k b f).ctxs = s.ctxs := rfl
@[simp] theorem State.raiseAt_glob (u q : Nat) (a : BitVec 64) (k : Nat) (b : Bool) (f : Flt) : (s.raiseAt u q a k b f).glob = s.glob := rfl
@[simp] theorem State.raiseAt_groups (u q : Nat) (a : BitVec 64) (k : Nat) (b : Bool) (f : Flt) : (s.raiseAt u q a k b f).groups = s.groups := rfl
@[simp] theorem State.raiseAt_landings (u q : Nat) (a : BitVec 64) (k : Nat) (b : Bool) (f : Flt) : (s.raiseAt u q a k b f).landings = s.landings := rfl
@[simp] theorem State.raiseAt_rows (u q : Nat) (a : BitVec 64) (k : Nat) (b : Bool) (f : Flt) : (s.raiseAt u q a k b f).rows = s.rows := rfl
@[simp] theorem State.raiseAt_streams (u q : Nat) (a : BitVec 64) (k : Nat) (b : Bool) (f : Flt) : (s.raiseAt u q a k b f).streams = s.streams := rfl
@[simp] theorem State.raiseAt_flights (u q : Nat) (a : BitVec 64) (k : Nat) (b : Bool) (f : Flt) : (s.raiseAt u q a k b f).flights = s.flights := rfl
@[simp] theorem State.raiseAt_watches (u q : Nat) (a : BitVec 64) (k : Nat) (b : Bool) (f : Flt) : (s.raiseAt u q a k b f).watches = s.watches := rfl
@[simp] theorem State.raiseAt_xfers (u q : Nat) (a : BitVec 64) (k : Nat) (b : Bool) (f : Flt) : (s.raiseAt u q a k b f).xfers = s.xfers := rfl
@[simp] theorem State.raiseAt_calls (u q : Nat) (a : BitVec 64) (k : Nat) (b : Bool) (f : Flt) : (s.raiseAt u q a k b f).calls = s.calls := rfl
@[simp] theorem State.raiseAt_fabric (u q : Nat) (a : BitVec 64) (k : Nat) (b : Bool) (f : Flt) : (s.raiseAt u q a k b f).fabric = s.fabric := rfl
@[simp] theorem State.raiseAt_switch (u q : Nat) (a : BitVec 64) (k : Nat) (b : Bool) (f : Flt) : (s.raiseAt u q a k b f).switch = s.switch := rfl
@[simp] theorem State.raiseAt_cycle (u q : Nat) (a : BitVec 64) (k : Nat) (b : Bool) (f : Flt) : (s.raiseAt u q a k b f).cycle = s.cycle := rfl
@[simp] theorem State.raiseAt_time (u q : Nat) (a : BitVec 64) (k : Nat) (b : Bool) (f : Flt) : (s.raiseAt u q a k b f).time = s.time := rfl
@[simp] theorem State.raiseAt_ids (u q : Nat) (a : BitVec 64) (k : Nat) (b : Bool) (f : Flt) : (s.raiseAt u q a k b f).ids = s.ids := rfl
@[simp] theorem State.raiseAt_fresh (u q : Nat) (a : BitVec 64) (k : Nat) (b : Bool) (f : Flt) : (s.raiseAt u q a k b f).fresh = s.fresh := rfl
@[simp] theorem State.raiseAt_hostOut (u q : Nat) (a : BitVec 64) (k : Nat) (b : Bool) (f : Flt) : (s.raiseAt u q a k b f).hostOut = s.hostOut := rfl
@[simp] theorem State.raiseAt_agenda (u q : Nat) (a : BitVec 64) (k : Nat) (b : Bool) (f : Flt) : (s.raiseAt u q a k b f).agenda = s.agenda := rfl
@[simp] theorem State.raiseAt_cur (u q : Nat) (a : BitVec 64) (k : Nat) (b : Bool) (f : Flt) : (s.raiseAt u q a k b f).cur = s.cur := rfl
@[simp] theorem State.raiseAt_arg (u q : Nat) (a : BitVec 64) (k : Nat) (b : Bool) (f : Flt) : (s.raiseAt u q a k b f).arg = s.arg := rfl
@[simp] theorem State.raiseAt_u (u q : Nat) (a : BitVec 64) (k : Nat) (b : Bool) (f : Flt) : (s.raiseAt u q a k b f).u = s.u := rfl
@[simp] theorem State.raiseAt_die (u q : Nat) (a : BitVec 64) (k : Nat) (b : Bool) (f : Flt) (k9 : Nat) : (s.raiseAt u q a k b f).die k9 = s.die k9 := rfl
@[simp] theorem State.raiseAt_ctx (u q : Nat) (a : BitVec 64) (k : Nat) (b : Bool) (f : Flt) (k9 : Nat) : (s.raiseAt u q a k b f).ctx k9 = s.ctx k9 := rfl
@[simp] theorem State.raiseAt_tile (u q : Nat) (a : BitVec 64) (k : Nat) (b : Bool) (f : Flt) (k9 : Nat) : (s.raiseAt u q a k b f).tile k9 = s.tile k9 := rfl

/-! ### raise -/

@[simp] theorem State.raise_mem (f : Flt) : (s.raise f).mem = s.mem := rfl
@[simp] theorem State.raise_tiles (f : Flt) : (s.raise f).tiles = s.tiles := rfl
@[simp] theorem State.raise_lately (f : Flt) : (s.raise f).lately = s.lately := rfl
@[simp] theorem State.raise_seen (f : Flt) : (s.raise f).seen = s.seen := rfl
@[simp] theorem State.raise_code (f : Flt) : (s.raise f).code = s.code := rfl
@[simp] theorem State.raise_codeOld (f : Flt) : (s.raise f).codeOld = s.codeOld := rfl
@[simp] theorem State.raise_dies (f : Flt) : (s.raise f).dies = s.dies := rfl
@[simp] theorem State.raise_ctxs (f : Flt) : (s.raise f).ctxs = s.ctxs := rfl
@[simp] theorem State.raise_glob (f : Flt) : (s.raise f).glob = s.glob := rfl
@[simp] theorem State.raise_groups (f : Flt) : (s.raise f).groups = s.groups := rfl
@[simp] theorem State.raise_landings (f : Flt) : (s.raise f).landings = s.landings := rfl
@[simp] theorem State.raise_rows (f : Flt) : (s.raise f).rows = s.rows := rfl
@[simp] theorem State.raise_streams (f : Flt) : (s.raise f).streams = s.streams := rfl
@[simp] theorem State.raise_flights (f : Flt) : (s.raise f).flights = s.flights := rfl
@[simp] theorem State.raise_watches (f : Flt) : (s.raise f).watches = s.watches := rfl
@[simp] theorem State.raise_xfers (f : Flt) : (s.raise f).xfers = s.xfers := rfl
@[simp] theorem State.raise_calls (f : Flt) : (s.raise f).calls = s.calls := rfl
@[simp] theorem State.raise_fabric (f : Flt) : (s.raise f).fabric = s.fabric := rfl
@[simp] theorem State.raise_switch (f : Flt) : (s.raise f).switch = s.switch := rfl
@[simp] theorem State.raise_cycle (f : Flt) : (s.raise f).cycle = s.cycle := rfl
@[simp] theorem State.raise_time (f : Flt) : (s.raise f).time = s.time := rfl
@[simp] theorem State.raise_ids (f : Flt) : (s.raise f).ids = s.ids := rfl
@[simp] theorem State.raise_fresh (f : Flt) : (s.raise f).fresh = s.fresh := rfl
@[simp] theorem State.raise_hostOut (f : Flt) : (s.raise f).hostOut = s.hostOut := rfl
@[simp] theorem State.raise_agenda (f : Flt) : (s.raise f).agenda = s.agenda := rfl
@[simp] theorem State.raise_cur (f : Flt) : (s.raise f).cur = s.cur := rfl
@[simp] theorem State.raise_arg (f : Flt) : (s.raise f).arg = s.arg := rfl
@[simp] theorem State.raise_u (f : Flt) : (s.raise f).u = s.u := rfl
@[simp] theorem State.raise_die (f : Flt) (k9 : Nat) : (s.raise f).die k9 = s.die k9 := rfl
@[simp] theorem State.raise_ctx (f : Flt) (k9 : Nat) : (s.raise f).ctx k9 = s.ctx k9 := rfl
@[simp] theorem State.raise_tile (f : Flt) (k9 : Nat) : (s.raise f).tile k9 = s.tile k9 := rfl

/-! ### postEvent -/

@[simp] theorem State.postEvent_mem (u : Nat) (e : Event) : (s.postEvent u e).mem = s.mem := rfl
@[simp] theorem State.postEvent_tiles (u : Nat) (e : Event) : (s.postEvent u e).tiles = s.tiles := rfl
@[simp] theorem State.postEvent_lately (u : Nat) (e : Event) : (s.postEvent u e).lately = s.lately := rfl
@[simp] theorem State.postEvent_seen (u : Nat) (e : Event) : (s.postEvent u e).seen = s.seen := rfl
@[simp] theorem State.postEvent_code (u : Nat) (e : Event) : (s.postEvent u e).code = s.code := rfl
@[simp] theorem State.postEvent_codeOld (u : Nat) (e : Event) : (s.postEvent u e).codeOld = s.codeOld := rfl
@[simp] theorem State.postEvent_dies (u : Nat) (e : Event) : (s.postEvent u e).dies = s.dies := rfl
@[simp] theorem State.postEvent_ctxs (u : Nat) (e : Event) : (s.postEvent u e).ctxs = s.ctxs := rfl
@[simp] theorem State.postEvent_glob (u : Nat) (e : Event) : (s.postEvent u e).glob = s.glob := rfl
@[simp] theorem State.postEvent_groups (u : Nat) (e : Event) : (s.postEvent u e).groups = s.groups := rfl
@[simp] theorem State.postEvent_landings (u : Nat) (e : Event) : (s.postEvent u e).landings = s.landings := rfl
@[simp] theorem State.postEvent_rows (u : Nat) (e : Event) : (s.postEvent u e).rows = s.rows := rfl
@[simp] theorem State.postEvent_streams (u : Nat) (e : Event) : (s.postEvent u e).streams = s.streams := rfl
@[simp] theorem State.postEvent_flights (u : Nat) (e : Event) : (s.postEvent u e).flights = s.flights := rfl
@[simp] theorem State.postEvent_watches (u : Nat) (e : Event) : (s.postEvent u e).watches = s.watches := rfl
@[simp] theorem State.postEvent_xfers (u : Nat) (e : Event) : (s.postEvent u e).xfers = s.xfers := rfl
@[simp] theorem State.postEvent_calls (u : Nat) (e : Event) : (s.postEvent u e).calls = s.calls := rfl
@[simp] theorem State.postEvent_fabric (u : Nat) (e : Event) : (s.postEvent u e).fabric = s.fabric := rfl
@[simp] theorem State.postEvent_switch (u : Nat) (e : Event) : (s.postEvent u e).switch = s.switch := rfl
@[simp] theorem State.postEvent_cycle (u : Nat) (e : Event) : (s.postEvent u e).cycle = s.cycle := rfl
@[simp] theorem State.postEvent_time (u : Nat) (e : Event) : (s.postEvent u e).time = s.time := rfl
@[simp] theorem State.postEvent_ids (u : Nat) (e : Event) : (s.postEvent u e).ids = s.ids := rfl
@[simp] theorem State.postEvent_fresh (u : Nat) (e : Event) : (s.postEvent u e).fresh = s.fresh := rfl
@[simp] theorem State.postEvent_hostOut (u : Nat) (e : Event) : (s.postEvent u e).hostOut = s.hostOut := rfl
@[simp] theorem State.postEvent_agenda (u : Nat) (e : Event) : (s.postEvent u e).agenda = s.agenda := rfl
@[simp] theorem State.postEvent_cur (u : Nat) (e : Event) : (s.postEvent u e).cur = s.cur := rfl
@[simp] theorem State.postEvent_arg (u : Nat) (e : Event) : (s.postEvent u e).arg = s.arg := rfl
@[simp] theorem State.postEvent_u (u : Nat) (e : Event) : (s.postEvent u e).u = s.u := rfl
@[simp] theorem State.postEvent_die (u : Nat) (e : Event) (k9 : Nat) : (s.postEvent u e).die k9 = s.die k9 := rfl
@[simp] theorem State.postEvent_ctx (u : Nat) (e : Event) (k9 : Nat) : (s.postEvent u e).ctx k9 = s.ctx k9 := rfl
@[simp] theorem State.postEvent_tile (u : Nat) (e : Event) (k9 : Nat) : (s.postEvent u e).tile k9 = s.tile k9 := rfl

/-! ### tlbAdd -/

/-- Remembering translations changes a die alone. -/
theorem State.tlbAdd_eq (d : Nat) (es : List TlbEntry) : ∃ f, s.tlbAdd d es = s.modDie d f := ⟨_, rfl⟩
@[simp] theorem State.tlbAdd_units (d : Nat) (es : List TlbEntry) : (s.tlbAdd d es).units = s.units := by obtain ⟨f, h⟩ := State.tlbAdd_eq s d es; rw [h]; rfl
@[simp] theorem State.tlbAdd_mem (d : Nat) (es : List TlbEntry) : (s.tlbAdd d es).mem = s.mem := by obtain ⟨f, h⟩ := State.tlbAdd_eq s d es; rw [h]; rfl
@[simp] theorem State.tlbAdd_tiles (d : Nat) (es : List TlbEntry) : (s.tlbAdd d es).tiles = s.tiles := by obtain ⟨f, h⟩ := State.tlbAdd_eq s d es; rw [h]; rfl
@[simp] theorem State.tlbAdd_lately (d : Nat) (es : List TlbEntry) : (s.tlbAdd d es).lately = s.lately := by obtain ⟨f, h⟩ := State.tlbAdd_eq s d es; rw [h]; rfl
@[simp] theorem State.tlbAdd_seen (d : Nat) (es : List TlbEntry) : (s.tlbAdd d es).seen = s.seen := by obtain ⟨f, h⟩ := State.tlbAdd_eq s d es; rw [h]; rfl
@[simp] theorem State.tlbAdd_code (d : Nat) (es : List TlbEntry) : (s.tlbAdd d es).code = s.code := by obtain ⟨f, h⟩ := State.tlbAdd_eq s d es; rw [h]; rfl
@[simp] theorem State.tlbAdd_codeOld (d : Nat) (es : List TlbEntry) : (s.tlbAdd d es).codeOld = s.codeOld := by obtain ⟨f, h⟩ := State.tlbAdd_eq s d es; rw [h]; rfl
@[simp] theorem State.tlbAdd_ctxs (d : Nat) (es : List TlbEntry) : (s.tlbAdd d es).ctxs = s.ctxs := by obtain ⟨f, h⟩ := State.tlbAdd_eq s d es; rw [h]; rfl
@[simp] theorem State.tlbAdd_glob (d : Nat) (es : List TlbEntry) : (s.tlbAdd d es).glob = s.glob := by obtain ⟨f, h⟩ := State.tlbAdd_eq s d es; rw [h]; rfl
@[simp] theorem State.tlbAdd_groups (d : Nat) (es : List TlbEntry) : (s.tlbAdd d es).groups = s.groups := by obtain ⟨f, h⟩ := State.tlbAdd_eq s d es; rw [h]; rfl
@[simp] theorem State.tlbAdd_landings (d : Nat) (es : List TlbEntry) : (s.tlbAdd d es).landings = s.landings := by obtain ⟨f, h⟩ := State.tlbAdd_eq s d es; rw [h]; rfl
@[simp] theorem State.tlbAdd_rows (d : Nat) (es : List TlbEntry) : (s.tlbAdd d es).rows = s.rows := by obtain ⟨f, h⟩ := State.tlbAdd_eq s d es; rw [h]; rfl
@[simp] theorem State.tlbAdd_streams (d : Nat) (es : List TlbEntry) : (s.tlbAdd d es).streams = s.streams := by obtain ⟨f, h⟩ := State.tlbAdd_eq s d es; rw [h]; rfl
@[simp] theorem State.tlbAdd_flights (d : Nat) (es : List TlbEntry) : (s.tlbAdd d es).flights = s.flights := by obtain ⟨f, h⟩ := State.tlbAdd_eq s d es; rw [h]; rfl
@[simp] theorem State.tlbAdd_watches (d : Nat) (es : List TlbEntry) : (s.tlbAdd d es).watches = s.watches := by obtain ⟨f, h⟩ := State.tlbAdd_eq s d es; rw [h]; rfl
@[simp] theorem State.tlbAdd_xfers (d : Nat) (es : List TlbEntry) : (s.tlbAdd d es).xfers = s.xfers := by obtain ⟨f, h⟩ := State.tlbAdd_eq s d es; rw [h]; rfl
@[simp] theorem State.tlbAdd_calls (d : Nat) (es : List TlbEntry) : (s.tlbAdd d es).calls = s.calls := by obtain ⟨f, h⟩ := State.tlbAdd_eq s d es; rw [h]; rfl
@[simp] theorem State.tlbAdd_fabric (d : Nat) (es : List TlbEntry) : (s.tlbAdd d es).fabric = s.fabric := by obtain ⟨f, h⟩ := State.tlbAdd_eq s d es; rw [h]; rfl
@[simp] theorem State.tlbAdd_switch (d : Nat) (es : List TlbEntry) : (s.tlbAdd d es).switch = s.switch := by obtain ⟨f, h⟩ := State.tlbAdd_eq s d es; rw [h]; rfl
@[simp] theorem State.tlbAdd_cycle (d : Nat) (es : List TlbEntry) : (s.tlbAdd d es).cycle = s.cycle := by obtain ⟨f, h⟩ := State.tlbAdd_eq s d es; rw [h]; rfl
@[simp] theorem State.tlbAdd_time (d : Nat) (es : List TlbEntry) : (s.tlbAdd d es).time = s.time := by obtain ⟨f, h⟩ := State.tlbAdd_eq s d es; rw [h]; rfl
@[simp] theorem State.tlbAdd_ids (d : Nat) (es : List TlbEntry) : (s.tlbAdd d es).ids = s.ids := by obtain ⟨f, h⟩ := State.tlbAdd_eq s d es; rw [h]; rfl
@[simp] theorem State.tlbAdd_fresh (d : Nat) (es : List TlbEntry) : (s.tlbAdd d es).fresh = s.fresh := by obtain ⟨f, h⟩ := State.tlbAdd_eq s d es; rw [h]; rfl
@[simp] theorem State.tlbAdd_hostOut (d : Nat) (es : List TlbEntry) : (s.tlbAdd d es).hostOut = s.hostOut := by obtain ⟨f, h⟩ := State.tlbAdd_eq s d es; rw [h]; rfl
@[simp] theorem State.tlbAdd_agenda (d : Nat) (es : List TlbEntry) : (s.tlbAdd d es).agenda = s.agenda := by obtain ⟨f, h⟩ := State.tlbAdd_eq s d es; rw [h]; rfl
@[simp] theorem State.tlbAdd_cur (d : Nat) (es : List TlbEntry) : (s.tlbAdd d es).cur = s.cur := by obtain ⟨f, h⟩ := State.tlbAdd_eq s d es; rw [h]; rfl
@[simp] theorem State.tlbAdd_arg (d : Nat) (es : List TlbEntry) : (s.tlbAdd d es).arg = s.arg := by obtain ⟨f, h⟩ := State.tlbAdd_eq s d es; rw [h]; rfl
@[simp] theorem State.tlbAdd_unit (d : Nat) (es : List TlbEntry) (k9 : Nat) : (s.tlbAdd d es).unit k9 = s.unit k9 := by obtain ⟨f, h⟩ := State.tlbAdd_eq s d es; rw [h]; rfl
@[simp] theorem State.tlbAdd_me (d : Nat) (es : List TlbEntry) : (s.tlbAdd d es).me = s.me := by obtain ⟨f, h⟩ := State.tlbAdd_eq s d es; rw [h]; rfl
@[simp] theorem State.tlbAdd_rs (d : Nat) (es : List TlbEntry) (m9 : BitVec 5) : (s.tlbAdd d es).rs m9 = s.rs m9 := by obtain ⟨f, h⟩ := State.tlbAdd_eq s d es; rw [h]; rfl
@[simp] theorem State.tlbAdd_rf (d : Nat) (es : List TlbEntry) (m9 : BitVec 5) : (s.tlbAdd d es).rf m9 = s.rf m9 := by obtain ⟨f, h⟩ := State.tlbAdd_eq s d es; rw [h]; rfl
@[simp] theorem State.tlbAdd_rg (d : Nat) (es : List TlbEntry) (m9 : BitVec 2) : (s.tlbAdd d es).rg m9 = s.rg m9 := by obtain ⟨f, h⟩ := State.tlbAdd_eq s d es; rw [h]; rfl
@[simp] theorem State.tlbAdd_u (d : Nat) (es : List TlbEntry) : (s.tlbAdd d es).u = s.u := by obtain ⟨f, h⟩ := State.tlbAdd_eq s d es; rw [h]; rfl
@[simp] theorem State.tlbAdd_ctx (d : Nat) (es : List TlbEntry) (k9 : Nat) : (s.tlbAdd d es).ctx k9 = s.ctx k9 := by obtain ⟨f, h⟩ := State.tlbAdd_eq s d es; rw [h]; rfl
@[simp] theorem State.tlbAdd_tile (d : Nat) (es : List TlbEntry) (k9 : Nat) : (s.tlbAdd d es).tile k9 = s.tile k9 := by obtain ⟨f, h⟩ := State.tlbAdd_eq s d es; rw [h]; rfl

/-! ### modBudget -/

@[simp] theorem State.modBudget_units (d m r : Nat) (f : Budget → Budget) : (s.modBudget d m r f).units = s.units := rfl
@[simp] theorem State.modBudget_mem (d m r : Nat) (f : Budget → Budget) : (s.modBudget d m r f).mem = s.mem := rfl
@[simp] theorem State.modBudget_tiles (d m r : Nat) (f : Budget → Budget) : (s.modBudget d m r f).tiles = s.tiles := rfl
@[simp] theorem State.modBudget_lately (d m r : Nat) (f : Budget → Budget) : (s.modBudget d m r f).lately = s.lately := rfl
@[simp] theorem State.modBudget_seen (d m r : Nat) (f : Budget → Budget) : (s.modBudget d m r f).seen = s.seen := rfl
@[simp] theorem State.modBudget_code (d m r : Nat) (f : Budget → Budget) : (s.modBudget d m r f).code = s.code := rfl
@[simp] theorem State.modBudget_codeOld (d m r : Nat) (f : Budget → Budget) : (s.modBudget d m r f).codeOld = s.codeOld := rfl
@[simp] theorem State.modBudget_ctxs (d m r : Nat) (f : Budget → Budget) : (s.modBudget d m r f).ctxs = s.ctxs := rfl
@[simp] theorem State.modBudget_glob (d m r : Nat) (f : Budget → Budget) : (s.modBudget d m r f).glob = s.glob := rfl
@[simp] theorem State.modBudget_groups (d m r : Nat) (f : Budget → Budget) : (s.modBudget d m r f).groups = s.groups := rfl
@[simp] theorem State.modBudget_landings (d m r : Nat) (f : Budget → Budget) : (s.modBudget d m r f).landings = s.landings := rfl
@[simp] theorem State.modBudget_rows (d m r : Nat) (f : Budget → Budget) : (s.modBudget d m r f).rows = s.rows := rfl
@[simp] theorem State.modBudget_streams (d m r : Nat) (f : Budget → Budget) : (s.modBudget d m r f).streams = s.streams := rfl
@[simp] theorem State.modBudget_flights (d m r : Nat) (f : Budget → Budget) : (s.modBudget d m r f).flights = s.flights := rfl
@[simp] theorem State.modBudget_watches (d m r : Nat) (f : Budget → Budget) : (s.modBudget d m r f).watches = s.watches := rfl
@[simp] theorem State.modBudget_xfers (d m r : Nat) (f : Budget → Budget) : (s.modBudget d m r f).xfers = s.xfers := rfl
@[simp] theorem State.modBudget_calls (d m r : Nat) (f : Budget → Budget) : (s.modBudget d m r f).calls = s.calls := rfl
@[simp] theorem State.modBudget_fabric (d m r : Nat) (f : Budget → Budget) : (s.modBudget d m r f).fabric = s.fabric := rfl
@[simp] theorem State.modBudget_switch (d m r : Nat) (f : Budget → Budget) : (s.modBudget d m r f).switch = s.switch := rfl
@[simp] theorem State.modBudget_cycle (d m r : Nat) (f : Budget → Budget) : (s.modBudget d m r f).cycle = s.cycle := rfl
@[simp] theorem State.modBudget_time (d m r : Nat) (f : Budget → Budget) : (s.modBudget d m r f).time = s.time := rfl
@[simp] theorem State.modBudget_ids (d m r : Nat) (f : Budget → Budget) : (s.modBudget d m r f).ids = s.ids := rfl
@[simp] theorem State.modBudget_fresh (d m r : Nat) (f : Budget → Budget) : (s.modBudget d m r f).fresh = s.fresh := rfl
@[simp] theorem State.modBudget_hostOut (d m r : Nat) (f : Budget → Budget) : (s.modBudget d m r f).hostOut = s.hostOut := rfl
@[simp] theorem State.modBudget_agenda (d m r : Nat) (f : Budget → Budget) : (s.modBudget d m r f).agenda = s.agenda := rfl
@[simp] theorem State.modBudget_cur (d m r : Nat) (f : Budget → Budget) : (s.modBudget d m r f).cur = s.cur := rfl
@[simp] theorem State.modBudget_arg (d m r : Nat) (f : Budget → Budget) : (s.modBudget d m r f).arg = s.arg := rfl
@[simp] theorem State.modBudget_unit (d m r : Nat) (f : Budget → Budget) (k9 : Nat) : (s.modBudget d m r f).unit k9 = s.unit k9 := rfl
@[simp] theorem State.modBudget_me (d m r : Nat) (f : Budget → Budget) : (s.modBudget d m r f).me = s.me := rfl
@[simp] theorem State.modBudget_rs (d m r : Nat) (f : Budget → Budget) (m9 : BitVec 5) : (s.modBudget d m r f).rs m9 = s.rs m9 := rfl
@[simp] theorem State.modBudget_rf (d m r : Nat) (f : Budget → Budget) (m9 : BitVec 5) : (s.modBudget d m r f).rf m9 = s.rf m9 := rfl
@[simp] theorem State.modBudget_rg (d m r : Nat) (f : Budget → Budget) (m9 : BitVec 2) : (s.modBudget d m r f).rg m9 = s.rg m9 := rfl
@[simp] theorem State.modBudget_u (d m r : Nat) (f : Budget → Budget) : (s.modBudget d m r f).u = s.u := rfl
@[simp] theorem State.modBudget_ctx (d m r : Nat) (f : Budget → Budget) (k9 : Nat) : (s.modBudget d m r f).ctx k9 = s.ctx k9 := rfl
@[simp] theorem State.modBudget_tile (d m r : Nat) (f : Budget → Budget) (k9 : Nat) : (s.modBudget d m r f).tile k9 = s.tile k9 := rfl

/-! ### modGroup -/

@[simp] theorem State.modGroup_units (g : Group) (f : Group → Group) : (s.modGroup g f).units = s.units := rfl
@[simp] theorem State.modGroup_mem (g : Group) (f : Group → Group) : (s.modGroup g f).mem = s.mem := rfl
@[simp] theorem State.modGroup_tiles (g : Group) (f : Group → Group) : (s.modGroup g f).tiles = s.tiles := rfl
@[simp] theorem State.modGroup_lately (g : Group) (f : Group → Group) : (s.modGroup g f).lately = s.lately := rfl
@[simp] theorem State.modGroup_seen (g : Group) (f : Group → Group) : (s.modGroup g f).seen = s.seen := rfl
@[simp] theorem State.modGroup_code (g : Group) (f : Group → Group) : (s.modGroup g f).code = s.code := rfl
@[simp] theorem State.modGroup_codeOld (g : Group) (f : Group → Group) : (s.modGroup g f).codeOld = s.codeOld := rfl
@[simp] theorem State.modGroup_dies (g : Group) (f : Group → Group) : (s.modGroup g f).dies = s.dies := rfl
@[simp] theorem State.modGroup_ctxs (g : Group) (f : Group → Group) : (s.modGroup g f).ctxs = s.ctxs := rfl
@[simp] theorem State.modGroup_glob (g : Group) (f : Group → Group) : (s.modGroup g f).glob = s.glob := rfl
@[simp] theorem State.modGroup_landings (g : Group) (f : Group → Group) : (s.modGroup g f).landings = s.landings := rfl
@[simp] theorem State.modGroup_rows (g : Group) (f : Group → Group) : (s.modGroup g f).rows = s.rows := rfl
@[simp] theorem State.modGroup_streams (g : Group) (f : Group → Group) : (s.modGroup g f).streams = s.streams := rfl
@[simp] theorem State.modGroup_flights (g : Group) (f : Group → Group) : (s.modGroup g f).flights = s.flights := rfl
@[simp] theorem State.modGroup_watches (g : Group) (f : Group → Group) : (s.modGroup g f).watches = s.watches := rfl
@[simp] theorem State.modGroup_xfers (g : Group) (f : Group → Group) : (s.modGroup g f).xfers = s.xfers := rfl
@[simp] theorem State.modGroup_calls (g : Group) (f : Group → Group) : (s.modGroup g f).calls = s.calls := rfl
@[simp] theorem State.modGroup_fabric (g : Group) (f : Group → Group) : (s.modGroup g f).fabric = s.fabric := rfl
@[simp] theorem State.modGroup_switch (g : Group) (f : Group → Group) : (s.modGroup g f).switch = s.switch := rfl
@[simp] theorem State.modGroup_cycle (g : Group) (f : Group → Group) : (s.modGroup g f).cycle = s.cycle := rfl
@[simp] theorem State.modGroup_time (g : Group) (f : Group → Group) : (s.modGroup g f).time = s.time := rfl
@[simp] theorem State.modGroup_ids (g : Group) (f : Group → Group) : (s.modGroup g f).ids = s.ids := rfl
@[simp] theorem State.modGroup_fresh (g : Group) (f : Group → Group) : (s.modGroup g f).fresh = s.fresh := rfl
@[simp] theorem State.modGroup_hostOut (g : Group) (f : Group → Group) : (s.modGroup g f).hostOut = s.hostOut := rfl
@[simp] theorem State.modGroup_agenda (g : Group) (f : Group → Group) : (s.modGroup g f).agenda = s.agenda := rfl
@[simp] theorem State.modGroup_cur (g : Group) (f : Group → Group) : (s.modGroup g f).cur = s.cur := rfl
@[simp] theorem State.modGroup_arg (g : Group) (f : Group → Group) : (s.modGroup g f).arg = s.arg := rfl
@[simp] theorem State.modGroup_unit (g : Group) (f : Group → Group) (k9 : Nat) : (s.modGroup g f).unit k9 = s.unit k9 := rfl
@[simp] theorem State.modGroup_me (g : Group) (f : Group → Group) : (s.modGroup g f).me = s.me := rfl
@[simp] theorem State.modGroup_rs (g : Group) (f : Group → Group) (m9 : BitVec 5) : (s.modGroup g f).rs m9 = s.rs m9 := rfl
@[simp] theorem State.modGroup_rf (g : Group) (f : Group → Group) (m9 : BitVec 5) : (s.modGroup g f).rf m9 = s.rf m9 := rfl
@[simp] theorem State.modGroup_rg (g : Group) (f : Group → Group) (m9 : BitVec 2) : (s.modGroup g f).rg m9 = s.rg m9 := rfl
@[simp] theorem State.modGroup_u (g : Group) (f : Group → Group) : (s.modGroup g f).u = s.u := rfl
@[simp] theorem State.modGroup_die (g : Group) (f : Group → Group) (k9 : Nat) : (s.modGroup g f).die k9 = s.die k9 := rfl
@[simp] theorem State.modGroup_ctx (g : Group) (f : Group → Group) (k9 : Nat) : (s.modGroup g f).ctx k9 = s.ctx k9 := rfl
@[simp] theorem State.modGroup_tile (g : Group) (f : Group → Group) (k9 : Nat) : (s.modGroup g f).tile k9 = s.tile k9 := rfl

/-! ### setGword -/

@[simp] theorem State.setGword_units (g : Group) (k : Nat) (v : Word) : (s.setGword g k v).units = s.units := rfl
@[simp] theorem State.setGword_tiles (g : Group) (k : Nat) (v : Word) : (s.setGword g k v).tiles = s.tiles := rfl
@[simp] theorem State.setGword_lately (g : Group) (k : Nat) (v : Word) : (s.setGword g k v).lately = s.lately := rfl
@[simp] theorem State.setGword_seen (g : Group) (k : Nat) (v : Word) : (s.setGword g k v).seen = s.seen := rfl
@[simp] theorem State.setGword_code (g : Group) (k : Nat) (v : Word) : (s.setGword g k v).code = s.code := rfl
@[simp] theorem State.setGword_codeOld (g : Group) (k : Nat) (v : Word) : (s.setGword g k v).codeOld = s.codeOld := rfl
@[simp] theorem State.setGword_dies (g : Group) (k : Nat) (v : Word) : (s.setGword g k v).dies = s.dies := rfl
@[simp] theorem State.setGword_ctxs (g : Group) (k : Nat) (v : Word) : (s.setGword g k v).ctxs = s.ctxs := rfl
@[simp] theorem State.setGword_glob (g : Group) (k : Nat) (v : Word) : (s.setGword g k v).glob = s.glob := rfl
@[simp] theorem State.setGword_groups (g : Group) (k : Nat) (v : Word) : (s.setGword g k v).groups = s.groups := rfl
@[simp] theorem State.setGword_landings (g : Group) (k : Nat) (v : Word) : (s.setGword g k v).landings = s.landings := rfl
@[simp] theorem State.setGword_rows (g : Group) (k : Nat) (v : Word) : (s.setGword g k v).rows = s.rows := rfl
@[simp] theorem State.setGword_streams (g : Group) (k : Nat) (v : Word) : (s.setGword g k v).streams = s.streams := rfl
@[simp] theorem State.setGword_flights (g : Group) (k : Nat) (v : Word) : (s.setGword g k v).flights = s.flights := rfl
@[simp] theorem State.setGword_xfers (g : Group) (k : Nat) (v : Word) : (s.setGword g k v).xfers = s.xfers := rfl
@[simp] theorem State.setGword_calls (g : Group) (k : Nat) (v : Word) : (s.setGword g k v).calls = s.calls := rfl
@[simp] theorem State.setGword_fabric (g : Group) (k : Nat) (v : Word) : (s.setGword g k v).fabric = s.fabric := rfl
@[simp] theorem State.setGword_switch (g : Group) (k : Nat) (v : Word) : (s.setGword g k v).switch = s.switch := rfl
@[simp] theorem State.setGword_cycle (g : Group) (k : Nat) (v : Word) : (s.setGword g k v).cycle = s.cycle := rfl
@[simp] theorem State.setGword_time (g : Group) (k : Nat) (v : Word) : (s.setGword g k v).time = s.time := rfl
@[simp] theorem State.setGword_ids (g : Group) (k : Nat) (v : Word) : (s.setGword g k v).ids = s.ids := rfl
@[simp] theorem State.setGword_fresh (g : Group) (k : Nat) (v : Word) : (s.setGword g k v).fresh = s.fresh := rfl
@[simp] theorem State.setGword_hostOut (g : Group) (k : Nat) (v : Word) : (s.setGword g k v).hostOut = s.hostOut := rfl
@[simp] theorem State.setGword_agenda (g : Group) (k : Nat) (v : Word) : (s.setGword g k v).agenda = s.agenda := rfl
@[simp] theorem State.setGword_cur (g : Group) (k : Nat) (v : Word) : (s.setGword g k v).cur = s.cur := rfl
@[simp] theorem State.setGword_arg (g : Group) (k : Nat) (v : Word) : (s.setGword g k v).arg = s.arg := rfl
@[simp] theorem State.setGword_unit (g : Group) (k : Nat) (v : Word) (k9 : Nat) : (s.setGword g k v).unit k9 = s.unit k9 := rfl
@[simp] theorem State.setGword_me (g : Group) (k : Nat) (v : Word) : (s.setGword g k v).me = s.me := rfl
@[simp] theorem State.setGword_rs (g : Group) (k : Nat) (v : Word) (m9 : BitVec 5) : (s.setGword g k v).rs m9 = s.rs m9 := rfl
@[simp] theorem State.setGword_rf (g : Group) (k : Nat) (v : Word) (m9 : BitVec 5) : (s.setGword g k v).rf m9 = s.rf m9 := rfl
@[simp] theorem State.setGword_rg (g : Group) (k : Nat) (v : Word) (m9 : BitVec 2) : (s.setGword g k v).rg m9 = s.rg m9 := rfl
@[simp] theorem State.setGword_u (g : Group) (k : Nat) (v : Word) : (s.setGword g k v).u = s.u := rfl
@[simp] theorem State.setGword_die (g : Group) (k : Nat) (v : Word) (k9 : Nat) : (s.setGword g k v).die k9 = s.die k9 := rfl
@[simp] theorem State.setGword_ctx (g : Group) (k : Nat) (v : Word) (k9 : Nat) : (s.setGword g k v).ctx k9 = s.ctx k9 := rfl
@[simp] theorem State.setGword_tile (g : Group) (k : Nat) (v : Word) (k9 : Nat) : (s.setGword g k v).tile k9 = s.tile k9 := rfl

/-! ### beginStream -/

@[simp] theorem State.beginStream_units (b : Bool) (r : List (Nat × Nat × Nat)) (h : Nat × Nat) : (s.beginStream b r h).units = s.units := rfl
@[simp] theorem State.beginStream_mem (b : Bool) (r : List (Nat × Nat × Nat)) (h : Nat × Nat) : (s.beginStream b r h).mem = s.mem := rfl
@[simp] theorem State.beginStream_tiles (b : Bool) (r : List (Nat × Nat × Nat)) (h : Nat × Nat) : (s.beginStream b r h).tiles = s.tiles := rfl
@[simp] theorem State.beginStream_lately (b : Bool) (r : List (Nat × Nat × Nat)) (h : Nat × Nat) : (s.beginStream b r h).lately = s.lately := rfl
@[simp] theorem State.beginStream_seen (b : Bool) (r : List (Nat × Nat × Nat)) (h : Nat × Nat) : (s.beginStream b r h).seen = s.seen := rfl
@[simp] theorem State.beginStream_code (b : Bool) (r : List (Nat × Nat × Nat)) (h : Nat × Nat) : (s.beginStream b r h).code = s.code := rfl
@[simp] theorem State.beginStream_codeOld (b : Bool) (r : List (Nat × Nat × Nat)) (h : Nat × Nat) : (s.beginStream b r h).codeOld = s.codeOld := rfl
@[simp] theorem State.beginStream_dies (b : Bool) (r : List (Nat × Nat × Nat)) (h : Nat × Nat) : (s.beginStream b r h).dies = s.dies := rfl
@[simp] theorem State.beginStream_ctxs (b : Bool) (r : List (Nat × Nat × Nat)) (h : Nat × Nat) : (s.beginStream b r h).ctxs = s.ctxs := rfl
@[simp] theorem State.beginStream_glob (b : Bool) (r : List (Nat × Nat × Nat)) (h : Nat × Nat) : (s.beginStream b r h).glob = s.glob := rfl
@[simp] theorem State.beginStream_groups (b : Bool) (r : List (Nat × Nat × Nat)) (h : Nat × Nat) : (s.beginStream b r h).groups = s.groups := rfl
@[simp] theorem State.beginStream_landings (b : Bool) (r : List (Nat × Nat × Nat)) (h : Nat × Nat) : (s.beginStream b r h).landings = s.landings := rfl
@[simp] theorem State.beginStream_rows (b : Bool) (r : List (Nat × Nat × Nat)) (h : Nat × Nat) : (s.beginStream b r h).rows = s.rows := rfl
@[simp] theorem State.beginStream_flights (b : Bool) (r : List (Nat × Nat × Nat)) (h : Nat × Nat) : (s.beginStream b r h).flights = s.flights := rfl
@[simp] theorem State.beginStream_watches (b : Bool) (r : List (Nat × Nat × Nat)) (h : Nat × Nat) : (s.beginStream b r h).watches = s.watches := rfl
@[simp] theorem State.beginStream_xfers (b : Bool) (r : List (Nat × Nat × Nat)) (h : Nat × Nat) : (s.beginStream b r h).xfers = s.xfers := rfl
@[simp] theorem State.beginStream_calls (b : Bool) (r : List (Nat × Nat × Nat)) (h : Nat × Nat) : (s.beginStream b r h).calls = s.calls := rfl
@[simp] theorem State.beginStream_fabric (b : Bool) (r : List (Nat × Nat × Nat)) (h : Nat × Nat) : (s.beginStream b r h).fabric = s.fabric := rfl
@[simp] theorem State.beginStream_switch (b : Bool) (r : List (Nat × Nat × Nat)) (h : Nat × Nat) : (s.beginStream b r h).switch = s.switch := rfl
@[simp] theorem State.beginStream_cycle (b : Bool) (r : List (Nat × Nat × Nat)) (h : Nat × Nat) : (s.beginStream b r h).cycle = s.cycle := rfl
@[simp] theorem State.beginStream_time (b : Bool) (r : List (Nat × Nat × Nat)) (h : Nat × Nat) : (s.beginStream b r h).time = s.time := rfl
@[simp] theorem State.beginStream_fresh (b : Bool) (r : List (Nat × Nat × Nat)) (h : Nat × Nat) : (s.beginStream b r h).fresh = s.fresh := rfl
@[simp] theorem State.beginStream_hostOut (b : Bool) (r : List (Nat × Nat × Nat)) (h : Nat × Nat) : (s.beginStream b r h).hostOut = s.hostOut := rfl
@[simp] theorem State.beginStream_agenda (b : Bool) (r : List (Nat × Nat × Nat)) (h : Nat × Nat) : (s.beginStream b r h).agenda = s.agenda := rfl
@[simp] theorem State.beginStream_cur (b : Bool) (r : List (Nat × Nat × Nat)) (h : Nat × Nat) : (s.beginStream b r h).cur = s.cur := rfl
@[simp] theorem State.beginStream_arg (b : Bool) (r : List (Nat × Nat × Nat)) (h : Nat × Nat) : (s.beginStream b r h).arg = s.arg := rfl
@[simp] theorem State.beginStream_unit (b : Bool) (r : List (Nat × Nat × Nat)) (h : Nat × Nat) (k9 : Nat) : (s.beginStream b r h).unit k9 = s.unit k9 := rfl
@[simp] theorem State.beginStream_me (b : Bool) (r : List (Nat × Nat × Nat)) (h : Nat × Nat) : (s.beginStream b r h).me = s.me := rfl
@[simp] theorem State.beginStream_rs (b : Bool) (r : List (Nat × Nat × Nat)) (h : Nat × Nat) (m9 : BitVec 5) : (s.beginStream b r h).rs m9 = s.rs m9 := rfl
@[simp] theorem State.beginStream_rf (b : Bool) (r : List (Nat × Nat × Nat)) (h : Nat × Nat) (m9 : BitVec 5) : (s.beginStream b r h).rf m9 = s.rf m9 := rfl
@[simp] theorem State.beginStream_rg (b : Bool) (r : List (Nat × Nat × Nat)) (h : Nat × Nat) (m9 : BitVec 2) : (s.beginStream b r h).rg m9 = s.rg m9 := rfl
@[simp] theorem State.beginStream_u (b : Bool) (r : List (Nat × Nat × Nat)) (h : Nat × Nat) : (s.beginStream b r h).u = s.u := rfl
@[simp] theorem State.beginStream_die (b : Bool) (r : List (Nat × Nat × Nat)) (h : Nat × Nat) (k9 : Nat) : (s.beginStream b r h).die k9 = s.die k9 := rfl
@[simp] theorem State.beginStream_ctx (b : Bool) (r : List (Nat × Nat × Nat)) (h : Nat × Nat) (k9 : Nat) : (s.beginStream b r h).ctx k9 = s.ctx k9 := rfl
@[simp] theorem State.beginStream_tile (b : Bool) (r : List (Nat × Nat × Nat)) (h : Nat × Nat) (k9 : Nat) : (s.beginStream b r h).tile k9 = s.tile k9 := rfl

/-! ### holdPorts -/

@[simp] theorem State.holdPorts_mem (i : Instr) (n : Nat) : (s.holdPorts i n).mem = s.mem := rfl
@[simp] theorem State.holdPorts_tiles (i : Instr) (n : Nat) : (s.holdPorts i n).tiles = s.tiles := rfl
@[simp] theorem State.holdPorts_lately (i : Instr) (n : Nat) : (s.holdPorts i n).lately = s.lately := rfl
@[simp] theorem State.holdPorts_seen (i : Instr) (n : Nat) : (s.holdPorts i n).seen = s.seen := rfl
@[simp] theorem State.holdPorts_code (i : Instr) (n : Nat) : (s.holdPorts i n).code = s.code := rfl
@[simp] theorem State.holdPorts_codeOld (i : Instr) (n : Nat) : (s.holdPorts i n).codeOld = s.codeOld := rfl
@[simp] theorem State.holdPorts_dies (i : Instr) (n : Nat) : (s.holdPorts i n).dies = s.dies := rfl
@[simp] theorem State.holdPorts_ctxs (i : Instr) (n : Nat) : (s.holdPorts i n).ctxs = s.ctxs := rfl
@[simp] theorem State.holdPorts_glob (i : Instr) (n : Nat) : (s.holdPorts i n).glob = s.glob := rfl
@[simp] theorem State.holdPorts_groups (i : Instr) (n : Nat) : (s.holdPorts i n).groups = s.groups := rfl
@[simp] theorem State.holdPorts_landings (i : Instr) (n : Nat) : (s.holdPorts i n).landings = s.landings := rfl
@[simp] theorem State.holdPorts_rows (i : Instr) (n : Nat) : (s.holdPorts i n).rows = s.rows := rfl
@[simp] theorem State.holdPorts_streams (i : Instr) (n : Nat) : (s.holdPorts i n).streams = s.streams := rfl
@[simp] theorem State.holdPorts_flights (i : Instr) (n : Nat) : (s.holdPorts i n).flights = s.flights := rfl
@[simp] theorem State.holdPorts_watches (i : Instr) (n : Nat) : (s.holdPorts i n).watches = s.watches := rfl
@[simp] theorem State.holdPorts_xfers (i : Instr) (n : Nat) : (s.holdPorts i n).xfers = s.xfers := rfl
@[simp] theorem State.holdPorts_calls (i : Instr) (n : Nat) : (s.holdPorts i n).calls = s.calls := rfl
@[simp] theorem State.holdPorts_fabric (i : Instr) (n : Nat) : (s.holdPorts i n).fabric = s.fabric := rfl
@[simp] theorem State.holdPorts_switch (i : Instr) (n : Nat) : (s.holdPorts i n).switch = s.switch := rfl
@[simp] theorem State.holdPorts_cycle (i : Instr) (n : Nat) : (s.holdPorts i n).cycle = s.cycle := rfl
@[simp] theorem State.holdPorts_time (i : Instr) (n : Nat) : (s.holdPorts i n).time = s.time := rfl
@[simp] theorem State.holdPorts_ids (i : Instr) (n : Nat) : (s.holdPorts i n).ids = s.ids := rfl
@[simp] theorem State.holdPorts_fresh (i : Instr) (n : Nat) : (s.holdPorts i n).fresh = s.fresh := rfl
@[simp] theorem State.holdPorts_hostOut (i : Instr) (n : Nat) : (s.holdPorts i n).hostOut = s.hostOut := rfl
@[simp] theorem State.holdPorts_agenda (i : Instr) (n : Nat) : (s.holdPorts i n).agenda = s.agenda := rfl
@[simp] theorem State.holdPorts_cur (i : Instr) (n : Nat) : (s.holdPorts i n).cur = s.cur := rfl
@[simp] theorem State.holdPorts_arg (i : Instr) (n : Nat) : (s.holdPorts i n).arg = s.arg := rfl
@[simp] theorem State.holdPorts_u (i : Instr) (n : Nat) : (s.holdPorts i n).u = s.u := rfl
@[simp] theorem State.holdPorts_die (i : Instr) (n : Nat) (k9 : Nat) : (s.holdPorts i n).die k9 = s.die k9 := rfl
@[simp] theorem State.holdPorts_ctx (i : Instr) (n : Nat) (k9 : Nat) : (s.holdPorts i n).ctx k9 = s.ctx k9 := rfl
@[simp] theorem State.holdPorts_tile (i : Instr) (n : Nat) (k9 : Nat) : (s.holdPorts i n).tile k9 = s.tile k9 := rfl

/-! ### What the updates write -/

@[simp] theorem State.modGlob_glob (f : Glob → Glob) : (s.modGlob f).glob = f s.glob := rfl
@[simp] theorem State.write_mem (p : Nat) (bs : List Byte) : (s.write p bs).mem = wrBytes s.mem p bs := rfl
@[simp] theorem State.fly_flights (f : Flight) : (s.fly f).flights = s.flights ++ [f] := rfl
@[simp] theorem State.fly_ids (f : Flight) : (s.fly f).ids = s.ids + 1 := rfl

/-- A unit after a write of that unit. -/
theorem State.setUnit_unit (h : Tab.wf Unit.idle s.units = true) (u v : Nat) (x : Unit) :
    (s.setUnit u x).unit v = if v = u then x else s.unit v := Tab.get_set _ _ _ _ _ h
/-- Another unit after a write of a unit: no canonical form is needed. -/
@[simp] theorem State.setUnit_unit_other {u v : Nat} (x : Unit) (h : v ≠ u) : (s.setUnit u x).unit v = s.unit v :=
  Tab.get_set_other _ _ _ h
/-- A unit after a change of it. -/
theorem State.modUnit_unit (h : Tab.wf Unit.idle s.units = true) (u v : Nat) (f : Unit → Unit) :
    (s.modUnit u f).unit v = if v = u then f (s.unit u) else s.unit v := Tab.get_set _ _ _ _ _ h
@[simp] theorem State.modUnit_unit_other {u v : Nat} (f : Unit → Unit) (h : v ≠ u) : (s.modUnit u f).unit v = s.unit v :=
  Tab.get_set_other _ _ _ h
/-- A unit after a change that does not leave it idle. -/
theorem State.modUnit_unit_same (u : Nat) (f : Unit → Unit) (h : f (s.unit u) ≠ Unit.idle) :
    (s.modUnit u f).unit u = f (s.unit u) := Tab.get_set_same_of_ne _ _ _ h
/-- A die after a change. -/
theorem State.modDie_die (h : Tab.wf Die.reset s.dies = true) (d e : Nat) (f : Die → Die) :
    (s.modDie d f).die e = if e = d then f (s.die d) else s.die e := Tab.get_set _ _ _ _ _ h
/-- A context after a change. -/
theorem State.modCtx_ctx (h : Tab.wf Ctx.reset s.ctxs = true) (c e : Nat) (f : Ctx → Ctx) :
    (s.modCtx c f).ctx e = if e = c then f (s.ctx c) else s.ctx e := Tab.get_set _ _ _ _ _ h
/-- A tile after a write of its bit. -/
theorem State.setTile_tile (h : Tab.wf (true, 0) s.tiles = true) (t e : Nat) (b : Bool) :
    (s.setTile t b).tile e = if e = t then (b, (s.tile t).2 + 1) else s.tile e := Tab.get_set _ _ _ _ _ h
/-- The bit of a tile after it is written; the count of writes keeps the entry from the default. -/
theorem State.setTile_isFull (t : Nat) (b : Bool) : (s.setTile t b).isFull t = b := by
  have h : (s.setTile t b).tile t = (b, (s.tile t).2 + 1) :=
    Tab.get_set_same_of_ne _ _ _ (by simp)
  simp [State.isFull, h]

theorem State.setUnit_wf (u : Nat) (x : Unit) (h : Tab.wf Unit.idle s.units = true) :
    Tab.wf Unit.idle (s.setUnit u x).units = true := Tab.wf_set _ _ _ _ h
theorem State.modUnit_wf (u : Nat) (f : Unit → Unit) (h : Tab.wf Unit.idle s.units = true) :
    Tab.wf Unit.idle (s.modUnit u f).units = true := Tab.wf_set _ _ _ _ h

/-! ### Units -/

variable (x : Unit)

@[simp] theorem Unit.sreg_zero : x.sreg 0#5 = 0#64 := rfl
@[simp] theorem Unit.setS_zero (v : BitVec 64) : x.setS 0#5 v = x := rfl
@[simp] theorem Unit.guard_zero : x.guard 0#2 = true := rfl
@[simp] theorem Unit.setG_zero (b : Bool) : x.setG 0#2 b = x := rfl

/-- A scalar after a write of one. -/
theorem Unit.sreg_setS (h : Tab.wf 0#64 x.s = true) (n m : BitVec 5) (v : BitVec 64) :
    (x.setS n v).sreg m = if m = n ∧ n ≠ 0#5 then v else x.sreg m := by
  by_cases hn : n = 0#5
  · subst hn; simp
  · by_cases hm : m = n
    · subst hm
      have hg := Tab.get_set 0#64 x.s m.toNat m.toNat v h
      simp at hg
      simp [Unit.setS, Unit.sreg, hn, hg]
    · have hk : ¬ m.toNat = n.toNat := fun e => hm (BitVec.eq_of_toNat_eq e)
      simp [Unit.setS, Unit.sreg, hn, hm, Tab.get_set_other _ _ _ hk]

/-- A guard after a write of one. -/
theorem Unit.guard_setG (n m : BitVec 2) (b : Bool) :
    (x.setG n b).guard m = if m = n ∧ n ≠ 0#2 then b else x.guard m := by
  have key : ∀ (g : BitVec 4) (n m : BitVec 2) (b : Bool),
      (m == 0 || (if n == 0 then g else if b then g ||| (1#4 <<< n.toNat) else g &&& ~~~(1#4 <<< n.toNat)).getLsbD m.toNat)
        = if m = n ∧ n ≠ 0#2 then b else (m == 0 || g.getLsbD m.toNat) := by decide
  have h := key x.g n m b
  unfold Unit.setG Unit.guard
  rw [← h]
  split <;> rfl

/-- Setting a slot to what is not idle leaves no idle unit. -/
theorem Unit.modSlot_ne_idle (k : Nat) (f : Slot → Slot) (h : f (x.slot k) ≠ Slot.idle) :
    (x.modSlot k f).slots ≠ [] := by
  simp [Unit.modSlot, Tab.set, h, Tab.put_ne_nil]
theorem Unit.modSlot_slot (k : Nat) (f : Slot → Slot) (h : f (x.slot k) ≠ Slot.idle) :
    (x.modSlot k f).slot k = f (x.slot k) := Tab.get_set_same_of_ne _ _ _ h
@[simp] theorem Unit.modSlot_slot_other {k j : Nat} (f : Slot → Slot) (h : j ≠ k) : (x.modSlot k f).slot j = x.slot j :=
  Tab.get_set_other _ _ _ h

/-! ### Lists of spans, tiles and budgets -/

/-- What a write of spans changes: memory, and the watches on what it wrote. -/
theorem State.writeSpans_eq (sp : List (Nat × Nat)) (bs : List Byte) :
    ∃ m w, s.writeSpans sp bs = { s with mem := m, watches := w } := by
  induction sp generalizing s bs with
  | nil => exact ⟨s.mem, s.watches, rfl⟩
  | cons p r ih =>
    obtain ⟨m, w, h⟩ := ih (s.write p.1 (bs.take p.2)) (bs.drop p.2)
    exact ⟨m, w, by rw [State.writeSpans, h]; rfl⟩
@[simp] theorem State.writeSpans_mem (sp : List (Nat × Nat)) (bs : List Byte) :
    (s.writeSpans sp bs).mem = wrSpans s.mem sp bs := by
  induction sp generalizing s bs with
  | nil => rfl
  | cons p r ih => rw [State.writeSpans, ih]; rfl

/-- What writing tile bits changes: the bits, and which of them became full in this cycle. -/
theorem State.setTiles_eq (ts : List Nat) (b : Bool) : ∃ m l, s.setTiles ts b = { s with tiles := m, lately := l } := by
  induction ts generalizing s with
  | nil => exact ⟨s.tiles, s.lately, rfl⟩
  | cons t r ih =>
    obtain ⟨m, l, h⟩ := ih (s.setTile t b)
    exact ⟨m, l, by rw [State.setTiles, List.foldl_cons, ← State.setTiles, h]; rfl⟩

/-- What counting an access against budgets changes: the dies alone. -/
theorem State.charge_eq (d m : Nat) (use : List (Nat × Nat)) : ∃ ds, s.charge d m use = { s with dies := ds } := by
  induction use generalizing s with
  | nil => exact ⟨s.dies, rfl⟩
  | cons p r ih =>
    rw [State.charge, List.foldl_cons, ← State.charge]
    split
    · exact ih s
    · obtain ⟨ds, h⟩ := ih (s.modBudget d m p.1 (·.add p.2))
      exact ⟨ds, by rw [h]; rfl⟩


end Sys2Proof.Machine
end

