-- ==== Sys2Proof/Laws/Issue.lean ====
section
/-!
SUPPORT. What the shared operations of an issue do: leaving the queue, a result on its way, a fault noted.
-/

namespace Sys2Proof.Machine

open Sys2Proof.Safety

variable (s : State)

theorem Unit.trim_slots (x : Unit) (n : Nat) : (x.trim n).slots = x.slots := rfl
theorem Unit.regs_trim (x : Unit) (n : Nat) : regs (x.trim n) = regs x := rfl

/-- A change of a unit that keeps its registers and leaves it not idle keeps every unit's registers. -/
theorem State.modUnit_regs (u : Nat) (f : Unit → Unit) (hne : f (s.unit u) ≠ Unit.idle)
    (h : regs (f (s.unit u)) = regs (s.unit u)) (v : Nat) : regs ((s.modUnit u f).unit v) = regs (s.unit v) := by
  by_cases hv : v = u
  · subst hv; rw [State.modUnit_unit_same _ _ _ hne, h]
  · rw [State.modUnit_unit_other _ _ hv]

/-- The slot that the issue of an operation leaves. -/
def leftSlot (s : State) (occ : Nat) (sl : Slot) : Slot :=
  { queue := sl.queue.drop 1, busy := s.cycle + max 1 occ, last := s.cycle + 1, hold := .none, tried := 0 }

/-- The unit that the issue of an operation leaves. -/
def issuedUnit (s : State) (occ : Nat) (eff : Bool) (x : Unit) : Unit :=
  let k := s.cur.slot
  let x := x.modSlot k (leftSlot s occ)
  x.modDisp fun d => { d with buns := d.buns.map fun b =>
    if b.seq == s.cur.op.seq && eff then { b with effect := k :: b.effect } else b }

theorem State.issuedAs_eq (occ : Nat) (eff : Bool) : s.issuedAs occ eff =
    (s.modUnit s.u (issuedUnit s occ eff)).modUnit s.u fun x =>
      x.trim ((s.modUnit s.u (issuedUnit s occ eff)).oldestOpen s.u) := rfl

theorem leftSlot_ne (occ : Nat) (sl : Slot) : leftSlot s occ sl ≠ Slot.idle := by
  simp [Slot.idle, leftSlot]

theorem issuedUnit_slots (occ : Nat) (eff : Bool) (x : Unit) : (issuedUnit s occ eff x).slots ≠ [] :=
  Unit.modSlot_ne_idle x s.cur.slot (leftSlot s occ) (leftSlot_ne s occ _)

theorem issuedUnit_ne (occ : Nat) (eff : Bool) (x : Unit) : issuedUnit s occ eff x ≠ Unit.idle := fun h =>
  issuedUnit_slots s occ eff x (by rw [h]; rfl)

theorem trimmedUnit_ne (occ : Nat) (eff : Bool) (x : Unit) (n : Nat) : (issuedUnit s occ eff x).trim n ≠ Unit.idle := fun h =>
  issuedUnit_slots s occ eff x (by rw [← Unit.trim_slots _ n, h]; rfl)

/-- The unit after an issue: the one that the issue leaves, with some bundles' records forgotten. -/
theorem State.issuedAs_unit (occ : Nat) (eff : Bool) : ∃ n, (s.issuedAs occ eff).unit s.u = (issuedUnit s occ eff s.me).trim n := by
  have h1 : (s.modUnit s.u (issuedUnit s occ eff)).unit s.u = issuedUnit s occ eff s.me :=
    State.modUnit_unit_same _ _ _ (issuedUnit_ne _ _ _ _)
  refine ⟨(s.modUnit s.u (issuedUnit s occ eff)).oldestOpen s.u, ?_⟩
  rw [State.issuedAs_eq, State.modUnit_unit_same _ _ _ (by rw [h1]; exact trimmedUnit_ne _ _ _ _ _), h1]

/-- What an issue does: every register of every unit stays, the operation has left its queue. -/
theorem State.issuedAs_spec (occ : Nat) (eff : Bool) :
    (∀ u, regs ((s.issuedAs occ eff).unit u) = regs (s.unit u)) ∧ Left s (s.issuedAs occ eff) occ := by
  obtain ⟨n, hn⟩ := s.issuedAs_unit occ eff
  constructor
  · intro u
    by_cases hu : u = s.u
    · subst hu; rw [hn, Unit.regs_trim]; rfl
    · rw [State.issuedAs_eq, State.modUnit_unit_other _ _ hu, State.modUnit_unit_other _ _ hu]
  · unfold Left
    rw [hn]
    exact Unit.modSlot_slot _ s.cur.slot (leftSlot s occ) (leftSlot_ne s occ _)

/-- What an issue with effect does. -/
theorem State.issued_spec (occ : Nat) :
    (∀ u, regs ((s.issued occ).unit u) = regs (s.unit u)) ∧ Left s (s.issued occ) occ := s.issuedAs_spec occ true

/-- An exposed result and the issue of its operation. -/
theorem State.land_issued (lat : Nat) (w : Land) : Lands lat w s ((s.land lat w).issued 1) :=
  ⟨⟨((s.land lat w).issued_spec 1).1, rfl⟩, ((s.land lat w).issued_spec 1).2, rfl, rfl, rfl, rfl, rfl⟩

/-- An issue alone. -/
theorem State.issued_nothing (occ : Nat) : Nothing occ s (s.issued occ) :=
  ⟨⟨(s.issued_spec occ).1, rfl⟩, (s.issued_spec occ).2, rfl, rfl, rfl, rfl, rfl⟩

/-- A flight and the issue of its operation. -/
theorem State.fly_issued (occ : Nat) (f : Flight) : Flies occ f s ((s.fly f).issued occ) :=
  ⟨⟨((s.fly f).issued_spec occ).1, rfl⟩, ((s.fly f).issued_spec occ).2, rfl, rfl, rfl, rfl⟩

/-- A change of the issuing unit that leaves it not idle, and the issue of its operation: registers as the change leaves
them. -/
theorem State.modUnit_issued (f : Unit → Unit) (hne : f s.me ≠ Unit.idle) (hs : (f s.me).slots = s.me.slots) (occ : Nat) :
    (∀ u, regs (((s.modUnit s.u f).issued occ).unit u) = regs (if u = s.u then f s.me else s.unit u))
      ∧ Left s ((s.modUnit s.u f).issued occ) occ := by
  have hme : (s.modUnit s.u f).unit s.u = f s.me := State.modUnit_unit_same s _ _ hne
  constructor
  · intro u
    rw [((s.modUnit s.u f).issued_spec occ).1 u]
    by_cases hu : u = s.u
    · rw [if_pos hu, hu, hme]
    · rw [if_neg hu, State.modUnit_unit_other _ _ hu]
  · have h := ((s.modUnit s.u f).issued_spec occ).2
    unfold Left at h ⊢
    have hu : (s.modUnit s.u f).u = s.u := rfl
    have hm : (s.modUnit s.u f).me = f s.me := hme
    rw [hu, hm] at h
    rw [show (s.modUnit s.u f).cur = s.cur from rfl, show (s.modUnit s.u f).cycle = s.cycle from rfl] at h
    rw [h, Unit.slot, Unit.slot, hs]

/-- The issue of a control operation that decides the next bundle. -/
theorem State.redirect_issued (f : Front) : Turns f [] s ((s.redirect f).issued 1) := by
  have hne : ∀ x : Unit, ∀ g : Disp → Disp, (g x.disp).earliest ≠ 0 → x.modDisp g ≠ Unit.idle := by
    intro x g hg h
    exact hg (congrArg (fun y : Unit => y.disp.earliest) h)
  have h := s.modUnit_issued (fun x => (({ x with front := f } : Unit).modDisp fun d => { d with
      wait := none, earliest := s.cycle + 1,
      buns := d.buns.map fun b => if b.seq == s.cur.op.seq then { b with after := some f } else b }))
    (hne _ _ (by simp)) rfl 1
  obtain ⟨n, hd⟩ : ∃ n, ((s.redirect f).issued 1).unit s.u = (issuedUnit (s.redirect f) 1 true ((s.redirect f).unit s.u)).trim n :=
    (s.redirect f).issuedAs_unit 1 true
  have hr : (s.redirect f).unit s.u = (({ s.me with front := f } : Unit).modDisp fun d => { d with
      wait := none, earliest := s.cycle + 1,
      buns := d.buns.map fun b => if b.seq == s.cur.op.seq then { b with after := some f } else b }) :=
    State.modUnit_unit_same s _ _ (hne _ _ (by simp))
  refine ⟨⟨fun u => (h.1 u).trans ?_, rfl⟩, h.2, ?_, ?_, (List.append_nil _).symm, rfl, rfl, rfl, rfl⟩
  · by_cases hu : u = s.u <;> simp only [hu, if_true, if_false] <;> rfl
  · rw [hd, hr]; rfl
  · rw [hd, hr]; rfl

/-- Holding read ports changes dispatch bookkeeping alone. -/
theorem State.holdPorts_frame (i : Instr) (occ : Nat) (hs : s.me.slots ≠ []) :
    (∀ u, regs ((s.holdPorts i occ).unit u) = regs (s.unit u)) ∧
      ∀ u, ((s.holdPorts i occ).unit u).slots = (s.unit u).slots := by
  have hne : ∀ f : Disp → Disp, (s.unit s.u).modDisp f ≠ Unit.idle := fun f h => hs (by
    have := congrArg Unit.slots h
    exact this)
  constructor
  · exact State.modUnit_regs s _ _ (hne _) rfl
  · intro u
    by_cases hu : u = s.u
    · subst hu
      unfold State.holdPorts
      rw [State.modUnit_unit_same _ _ _ (hne _)]
      rfl
    · unfold State.holdPorts
      rw [State.modUnit_unit_other _ _ hu]

/-- A precise fault changes dispatch bookkeeping alone. -/
theorem State.raise_raises (f : Flt) : Raises f s (s.raise f) := by
  have hp : ∀ p : Pend, ∀ d : Disp, ∀ o : Nat × Nat,
      ((match d.pend with
        | some q => if q.seq < o.1 || (q.seq == o.1 && q.slot ≤ o.2) then d else { d with pend := some p }
        | none => { d with pend := some p }) : Disp).pend ≠ none := by
    intro p d o
    split
    · rename_i q hq
      split
      · rw [hq]; simp
      · simp
    · simp
  have hne : ∀ x : Unit, ∀ g : Disp → Disp, (g x.disp).pend ≠ none → x.modDisp g ≠ Unit.idle := by
    intro x g hg h
    apply hg
    have := congrArg (fun y : Unit => y.disp.pend) h
    exact this
  refine ⟨rfl, ⟨?_, rfl⟩, ?_⟩
  · exact State.modUnit_regs s _ _ (hne _ _ (hp _ _ (_, _))) rfl
  · unfold State.raise State.raiseAt
    rw [State.modUnit_unit_same _ _ _ (hne _ _ (hp _ _ (_, _)))]
    rfl

end Sys2Proof.Machine
end

