-- ==== Sys2Proof/Laws/Memory.lean ====
section
/-!
SUPPORT. Memory: reading after writing, and the canonical form kept by every operation over memory.
-/

namespace Sys2Proof.Machine

/-! ## One byte and many -/

theorem rdByte_wrByte_other (m : List Host.Cell) {p q : Nat} (b : Byte) (h : q ≠ p) :
    rdByte (wrByte m p b) q = rdByte m q := Tab.get_set_other 0 m b h

theorem rdByte_wrByte_same (m : List Host.Cell) (p : Nat) (b : Byte) (h : Memory.wf m = true) :
    rdByte (wrByte m p b) p = b := Tab.get_set_same 0 m p b (by
  unfold Memory.wf Tab.wf at h; exact (Bool.and_eq_true_iff.mp h).1)

theorem wf_wrByte (m : List Host.Cell) (p : Nat) (b : Byte) (h : Memory.wf m = true) : Memory.wf (wrByte m p b) = true :=
  Tab.wf_set 0 m p b h

theorem wf_wrBytes (m : List Host.Cell) (p : Nat) (bs : List Byte) (h : Memory.wf m = true) :
    Memory.wf (wrBytes m p bs) = true := by
  induction bs generalizing m p with
  | nil => exact h
  | cons b r ih => exact ih _ _ (wf_wrByte m p b h)

theorem wf_wrSpans (m : List Host.Cell) (sp : List (Nat × Nat)) (bs : List Byte) (h : Memory.wf m = true) :
    Memory.wf (wrSpans m sp bs) = true := by
  induction sp generalizing m bs with
  | nil => exact h
  | cons x r ih => exact ih _ _ (wf_wrBytes m x.1 _ h)

/-- A byte outside the bytes written reads as before. -/
theorem rdByte_wrBytes_out (m : List Host.Cell) (p : Nat) (bs : List Byte) {q : Nat} (h : q < p ∨ p + bs.length ≤ q) :
    rdByte (wrBytes m p bs) q = rdByte m q := by
  induction bs generalizing m p with
  | nil => rfl
  | cons b r ih =>
    simp only [List.length_cons] at h
    rw [wrBytes, ih _ (p + 1) (by omega), rdByte_wrByte_other m b (by omega)]

/-- A byte written reads as written. -/
theorem rdByte_wrBytes_in (m : List Host.Cell) (p : Nat) (bs : List Byte) (h : Memory.wf m = true) {i : Nat}
    (hi : i < bs.length) : rdByte (wrBytes m p bs) (p + i) = bs[i] := by
  induction bs generalizing m p i with
  | nil => cases hi
  | cons b r ih =>
    rw [wrBytes]
    cases i with
    | zero =>
      rw [rdByte_wrBytes_out _ _ _ (Or.inl (by omega)), Nat.add_zero, rdByte_wrByte_same m p b h]; rfl
    | succ j =>
      rw [show p + (j + 1) = p + 1 + j by omega, ih _ (p + 1) (wf_wrByte m p b h) (by simpa using hi)]
      rfl

/-- The bytes written read back. -/
theorem rdBytes_wrBytes (m : List Host.Cell) (p : Nat) (bs : List Byte) (h : Memory.wf m = true) :
    rdBytes (wrBytes m p bs) p bs.length = bs := by
  apply List.ext_getElem
  · simp [rdBytes]
  · intro i h1 h2
    simp only [rdBytes, List.getElem_map, List.getElem_range]
    exact rdByte_wrBytes_in m p bs h h2

/-- A range that does not meet the bytes written reads as before. -/
theorem rdBytes_wrBytes_out (m : List Host.Cell) (p : Nat) (bs : List Byte) {q n : Nat}
    (h : q + n ≤ p ∨ p + bs.length ≤ q) : rdBytes (wrBytes m p bs) q n = rdBytes m q n := by
  apply List.map_congr_left
  intro i hi
  exact rdByte_wrBytes_out m p bs (by have := List.mem_range.mp hi; omega)

/-! ## Canonical form kept by filters -/

theorem wf_memFilter (m : List Host.Cell) (f : Host.Cell → Bool) (h : Memory.wf m = true) : Memory.wf (m.filter f) = true :=
  Tab.wf_filter 0 m f h

/-- A fold of byte writes keeps the canonical form. -/
theorem wf_foldWrites {α : Type} (l : List α) (p : α → Nat) (b : α → Byte) (m : List Host.Cell) (h : Memory.wf m = true) :
    Memory.wf (l.foldl (fun m x => wrByte m (p x) (b x)) m) = true := by
  induction l generalizing m with
  | nil => exact h
  | cons x r ih => exact ih _ (wf_wrByte m _ _ h)

/-! ## The state's memory -/

variable (s : State)


theorem State.write_keeps (p : Nat) (bs : List Byte) (h : Safety.MemoryOk s) : Safety.MemoryOk (s.write p bs) :=
  wf_wrBytes s.mem p bs h

theorem State.writeSpans_keeps (sp : List (Nat × Nat)) (bs : List Byte) (h : Safety.MemoryOk s) :
    Safety.MemoryOk (s.writeSpans sp bs) := by
  unfold Safety.MemoryOk
  rw [s.writeSpans_mem sp bs]
  exact wf_wrSpans s.mem sp bs h

theorem State.setGword_keeps (g : Group) (off : Nat) (v : Word) (h : Safety.MemoryOk s) :
    Safety.MemoryOk (s.setGword g off v) := s.write_keeps _ _ h

/-- Memory of the reset state has the canonical form. -/
theorem State.reset_memoryOk : Safety.MemoryOk State.reset := rfl

/-- Two canonical memories that read alike are equal. -/
theorem Tab.ext_rising {α : Type} (d : α) (t r : Tab α) (b : Option Nat) (ht : risingFrom t b = true)
    (hr : risingFrom r b = true) (nt : ∀ p ∈ t, p.2 ≠ d) (nr : ∀ p ∈ r, p.2 ≠ d)
    (h : ∀ k, Tab.get d t k = Tab.get d r k) : t = r := by
  induction t generalizing r b with
  | nil =>
    cases r with
    | nil => rfl
    | cons y r =>
      have := h y.1
      simp [Tab.get] at this
      exact absurd this.symm (nr y (by simp))
  | cons x t ih =>
    cases r with
    | nil =>
      have := h x.1
      simp [Tab.get] at this
      exact absurd this (nt x (by simp))
    | cons y r =>
      obtain ⟨j, v⟩ := x
      obtain ⟨k, w⟩ := y
      have ht' : risingFrom t (some j) = true := by unfold risingFrom at ht; exact (Bool.and_eq_true_iff.mp ht).2
      have hr' : risingFrom r (some k) = true := by unfold risingFrom at hr; exact (Bool.and_eq_true_iff.mp hr).2
      have hjk : j = k := by
        rcases Nat.lt_trichotomy j k with c | c | c
        · have e := h j
          have : Tab.get d ((k, w) :: r) j = d := by
            have := Tab.get_of_rising d r k j hr' (by omega)
            rw [Tab.get, if_neg (by simp; omega)]; exact this
          rw [this, Tab.get, if_pos (by simp)] at e
          exact absurd e (nt (j, v) (by simp))
        · exact c
        · have e := h k
          have : Tab.get d ((j, v) :: t) k = d := by
            have := Tab.get_of_rising d t j k ht' (by omega)
            rw [Tab.get, if_neg (by simp; omega)]; exact this
          rw [this, Tab.get, if_pos (by simp)] at e
          exact absurd e.symm (nr (k, w) (by simp))
      subst hjk
      have hv := h j
      simp [Tab.get] at hv
      subst hv
      congr 1
      refine ih r (some j) ht' hr' (fun p hp => nt p (by simp [hp])) (fun p hp => nr p (by simp [hp])) ?_
      intro q
      by_cases hq : q ≤ j
      · rw [Tab.get_of_rising d t j q ht' hq, Tab.get_of_rising d r j q hr' hq]
      · have := h q
        rwa [Tab.get, if_neg (by simp; omega), Tab.get, if_neg (by simp; omega)] at this

theorem Memory.ext (m n : List Host.Cell) (hm : Memory.wf m = true) (hn : Memory.wf n = true)
    (h : ∀ p, rdByte m p = rdByte n p) : m = n := by
  unfold Memory.wf Tab.wf at hm hn
  have a := Bool.and_eq_true_iff.mp hm
  have b := Bool.and_eq_true_iff.mp hn
  exact Tab.ext_rising 0 m n none a.1 b.1 (fun p hp => by simpa using List.all_eq_true.mp a.2 p hp)
    (fun p hp => by simpa using List.all_eq_true.mp b.2 p hp) h

end Sys2Proof.Machine
end

