-- ==== Sys2Proof/Laws/Ops.lean ====
section
/-!
SUPPORT. What each shared operation of the engines can do, said once: vector results, loads, stores, requests.
-/

namespace Sys2Proof.Machine

open Sys2Proof.Safety

variable (s : State)

/-- Holding ports after an issue leaves what the issue left. -/
theorem State.issued_holdPorts (i : Instr) (occ : Nat) :
    (∀ u, regs (((s.issued occ).holdPorts i occ).unit u) = regs (s.unit u)) ∧ Left s ((s.issued occ).holdPorts i occ) occ := by
  have hme : (s.issued occ).me.slots ≠ [] := by
    show ((s.issuedAs occ true).unit s.u).slots ≠ []
    obtain ⟨n, hn⟩ := s.issuedAs_unit occ true
    rw [hn, Unit.trim_slots]
    exact issuedUnit_slots _ _ _ _
  have h := (s.issued occ).holdPorts_frame i occ hme
  refine ⟨fun u => (h.1 u).trans ((s.issued_spec occ).1 u), ?_⟩
  have hl := (s.issued_spec occ).2
  unfold Left at hl ⊢
  rw [← hl]
  exact congrArg (fun x => Tab.get Slot.idle x s.cur.slot) (h.2 s.u)

/-- A flight, the issue of its operation, its ports held. -/
theorem State.fly_issued_held (i : Instr) (occ : Nat) (f : Flight) : Flies occ f s (((s.fly f).issued occ).holdPorts i occ) :=
  ⟨⟨((s.fly f).issued_holdPorts i occ).1, rfl⟩, ((s.fly f).issued_holdPorts i occ).2, rfl, rfl, rfl, rfl⟩

/-- A vector operation's result (R230). -/
theorem State.vecDone_spec (w : BitVec 2) (i : Instr) (q : Nat) (d : Stor) (v : Val) (fl : Flags) :
    Flies (vecCycles w q) (resultOf s (vecCycles w q + 3) d v fl) s (s.vecDone w i q d v fl) :=
  s.fly_issued_held i _ _

/-- A vector operation's runs, or RUN_OVERFLOW (R230). -/
theorem State.vecOut_spec (w : BitVec 2) (i : Instr) (q : Nat) (d : Stor) (rs : List Run) (fl : Flags) :
    (rs.length ≤ 4096 → Flies (vecCycles w q) (resultOf s (vecCycles w q + 3) d (.runs rs) fl) s (s.vecOut w i q d rs fl)) ∧
      (4096 < rs.length → Raises (runOverflow rs.length) s (s.vecOut w i q d rs fl)) := by
  constructor
  · intro h
    rw [State.vecOut, if_neg (by omega)]
    exact s.vecDone_spec w i q d _ fl
  · intro h
    rw [State.vecOut, if_pos h]
    exact s.raise_raises _

/-- A meaning that is one vecOut meets its statement. -/
theorem vecOut_of (i : Instr) (w : BitVec 2) (q : Nat) (d : Stor) (rs : List Run) (fl : Flags)
    (h : exec i s = .next (s.vecOut w i q d rs fl)) : VecOut i s w d q rs fl :=
  ⟨fun l => ⟨_, h, (s.vecOut_spec w i q d rs fl).1 l⟩, fun l => ⟨_, h, (s.vecOut_spec w i q d rs fl).2 l⟩⟩

theorem mapPieces_length (f : Nat → List Word → Word × BitVec 5) (ps : List Piece) : (mapPieces f ps).1.length = ps.length := by
  induction ps with
  | nil => rfl
  | cons p r ih =>
    rw [mapPieces, List.foldr_cons]
    split
    · exact congrArg (· + 1) ih
    · exact congrArg (· + 1) ih

/-- A meaning that is one element-wise operation meets its statement. -/
theorem vecEach_of (i : Instr) (w : BitVec 2) (d : Stor) (ops : List (List Run)) (f : Nat → List Word → Word × BitVec 5)
    (h : exec i s = .next (s.elementwise w i d ops f)) : VecEach i s w d ops f := by
  unfold VecEach
  split
  · rename_i p hp
    refine ⟨_, h, ?_⟩
    rw [State.elementwise, hp]
    exact s.raise_raises _
  · rename_i hp
    have e : s.elementwise w i d ops f
        = s.vecOut w i (alignRuns ops).length d (mapPieces f (alignRuns ops)).1 (mapPieces f (alignRuns ops)).2 := by
      rw [State.elementwise, hp, State.vecOut, mapPieces_length]
    exact vecOut_of s i w _ d _ _ (h.trans (congrArg _ e))

/-! ## Accesses (R100, R111, R367, R368) -/

/-- An access that has to wait for its tiles changes nothing. -/
theorem State.grant_waits (r : Reach) (k : State → State) (h : ¬ Full s r) : s.grant r true k = s := by
  have : s.allFull (tilesOfSpans r.spans) = false := by
    rw [← Bool.not_eq_true]
    exact fun c => h fun t ht => List.all_eq_true.mp c t ht
  rw [State.grant, if_pos (by rw [this]; rfl)]

/-- Caching a translation changes the dies alone. -/
theorem State.tlbAdd_dies_only (d : Nat) (es : List TlbEntry) : ∃ ds, s.tlbAdd d es = { s with dies := ds } := by
  unfold State.tlbAdd State.modDie
  exact ⟨_, rfl⟩

/-- An access whose tiles are full, or that waits for none, and that passes no budget goes on; only the dies' caches and
budgets have changed. -/
theorem State.grant_goes (r : Reach) (w : Bool) (k : State → State) (hf : w = true → Full s r) (hb : Within s r) :
    ∃ ds, s.grant r w k = k { s with dies := ds } := by
  have : (w && !s.allFull (tilesOfSpans r.spans)) = false := by
    cases w with
    | false => rfl
    | true =>
      rw [show s.allFull (tilesOfSpans r.spans) = true from List.all_eq_true.mpr fun t ht => hf rfl t ht]
      rfl
  rw [State.grant, if_neg (by rw [this]; simp)]
  unfold Within at hb
  obtain ⟨ds, h1⟩ := s.tlbAdd_dies_only (dieOf s.u) r.tlb
  simp only [h1] at hb ⊢
  by_cases c : isCtl s.u = true
  · exact ⟨ds, if_pos c⟩
  · obtain ⟨es, h⟩ := ({ s with dies := ds } : State).charge_eq (dieOf s.u) (coreIn s.u) (useOf r.spans)
    refine ⟨es, (if_neg c).trans ?_⟩
    have n : ({ s with dies := ds } : State).overBudget (dieOf s.u) (coreIn ({ s with dies := ds } : State).u) (useOf r.spans)
        = none := hb.resolve_left c
    rw [n]
    exact congrArg k h

/-- A flight sent from a state that differs in its dies alone. -/
theorem State.flies_of_dies (ds : Tab Die) (occ : Nat) (f : Flight) :
    Flies occ f s ((({ s with dies := ds } : State).fly f).issued occ) :=
  ({ s with dies := ds } : State).fly_issued occ f

/-- What a load of the memory slot can do. -/
theorem loadOut_of (i : Instr) (size : Nat) (rs : List (BitVec 64 × Nat)) (entries extra : Nat) (d : Stor) (c : Conv)
    (h : exec i s = .next (s.loadFrom size rs entries extra d c)) : LoadOut i s size rs entries extra d c := by
  unfold LoadOut
  cases e : s.access pSL .rd false size rs with
  | error f =>
    refine ⟨_, h, ?_⟩
    rw [State.loadFrom, e]
    exact s.raise_raises f
  | ok r =>
    rw [State.loadFrom, e] at h
    cases hh : s.directHeld r.spans with
    | true =>
      refine ⟨fun _ => h.trans ?_, fun hf => absurd hf.2 (by rw [hh]; decide)⟩
      simp only [hh, if_true]
    | false =>
      simp only [hh, Bool.false_eq_true, if_false] at h
      refine ⟨fun hf => h.trans (congrArg _ (s.grant_waits r _ fun g => hf ⟨g, hh⟩)), fun hf hb => ⟨_, h, ?_⟩⟩
      obtain ⟨ds, g⟩ := s.grant_goes r true (fun s =>
        let occ := occupancy s.u r.spans entries
        (s.fly (s.flight pSL (s.cycle + r.latency s.u + occ - 1 + extra) true false r.spans (.load d c []))).issued occ)
        (fun _ => hf.1) hb
      refine Eq.mpr (congrArg (Flies _ _ s) g) ?_
      exact s.flies_of_dies ds _ _

/-- What a returning request can do at its issue. -/
theorem askOut_of (i : Instr) (r : Req) (va : BitVec 64) (dst : List Stor) (more : List Flt)
    (h : exec i s = .next (s.ask r va dst more)) : AskOut i s r va dst more := by
  unfold AskOut
  show match lowestFault (faultOf (s.reqReach s.u (s.ctxOf s.u) true r va) ++ more) with
    | some f => Goes (exec i s) (Raises f s)
    | none => _
  cases e : lowestFault (faultOf (s.reqReach s.u (s.ctxOf s.u) true r va) ++ more) with
  | some f =>
    refine ⟨_, h, ?_⟩
    rw [State.ask, e]
    exact s.raise_raises f
  | none =>
    intro c hc hb
    refine ⟨_, h, ?_⟩
    rw [State.ask, e]
    simp only [hc]
    obtain ⟨ds, g⟩ := s.grant_goes c false (fun s =>
      (s.fly (s.flight pAT (s.cycle + c.latency s.u) true true c.spans (.req r va dst))).issued 1)
      (fun h => nomatch h) hb
    refine Eq.mpr (congrArg (Flies _ _ s) g) ?_
    exact s.flies_of_dies ds _ _

/-! ## Presence of tiles (R100) and faults found after issue (R134) -/

/-- A tile that a read finds full is full. -/
theorem State.isFull_of_present {t : Nat} (h : s.present t = true) : s.isFull t = true := (Bool.and_eq_true _ _ ▸ h).1

/-- A fault found while the handler of an earlier one runs is put aside: it raises nothing. -/
theorem State.raiseLate_handling (f : Flight) (flt : Flt) (h : (s.unit f.unit).spr.sup = true) (hf : f.sup = false) :
    s.raiseLate f flt =
      s.modUnit f.unit fun x => x.modDisp fun d => { d with gaps := d.gaps ++ [(f.slot, f.seq - d.base, true)] } := by
  simp [State.raiseLate, h, hf]

/-- Any other is raised at its bundle, its operation counted as not issued. -/
theorem State.raiseLate_raises (f : Flight) (flt : Flt) (h : (s.unit f.unit).spr.sup = false ∨ f.sup = true) :
    s.raiseLate f flt = (s.modUnit f.unit fun x => x.modDisp fun d => { d with undone := (f.slot, f.seq) :: d.undone }).raiseAt
      f.unit f.seq f.addr f.slot true flt := by
  rcases h with h | h <;> simp [State.raiseLate, h]

end Sys2Proof.Machine
end

