-- ==== Sys2Proof/Laws/PerInstr.lean ====
section
/-!
SUPPORT. The family of LAWS.json, one lemma per constructor: the raw decoder of an operation's slot reads the operation's
word back, every field at every value (the checks of decode apart), and no word stands under major opcode 0.
-/

set_option linter.unusedSimpArgs false

namespace Sys2Proof.Laws

theorem lo_of {n m : Nat} {x : BitVec n} {y : BitVec m} {lo len : Nat} (h : lo + len ≤ m) :
    (x ++ y).extractLsb' lo len = y.extractLsb' lo len := BitVec.extractLsb'_append_eq_of_add_le h

theorem hi_of {n m : Nat} {x : BitVec n} {y : BitVec m} {lo len : Nat} (h : m ≤ lo) :
    (x ++ y).extractLsb' lo len = x.extractLsb' (lo - m) len := BitVec.extractLsb'_append_eq_of_le h

/-- A field is not a constant from which some of its bits differ. -/
theorem fld_bne (w : Word) (lo len p n : Nat) (c : BitVec len) (h : (fld w (lo + p) n == c.extractLsb' p n) = false)
    (hl : p + n ≤ len) : (fld w lo len == c) = false := by
  rw [beq_eq_false_iff_ne] at h ⊢
  intro e
  apply h
  rw [← e]
  ext i hi
  simp only [fld, BitVec.getElem_extractLsb', BitVec.getLsbD_extractLsb']
  rw [decide_eq_true (by omega : p + i < len), Bool.true_and]
  congr 1; omega

namespace Encoding

/-- The word of an operation is not under major opcode 0, and its slot's decoder reads the operation in it. -/
def Statement (i : Instr) : Prop :=
  ∀ k, i.slotKind = some k → (major (encode i) == 0) = false ∧ rawDecode k (encode i) = .ok i

theorem br (o : BitVec 16) : Statement (.br o) := by
  rintro kk ⟨⟩
  have he : ∀ lo len, fld (encode (.br o)) lo len = @BitVec.extractLsb' (7+9+16) lo len (0x1#7 ++ 0x0#9 ++ o) := fun _ _ => rfl
  have hm : major (encode (.br o)) = 0x1 := congrArg BitVec.toNat (show _ = 0x1#7 by rw [he]; simp (disch := decide) only [lo_of, hi_of, BitVec.extractLsb'_eq_self, Nat.reduceSub, Nat.sub_self])
  refine ⟨by rw [hm]; rfl, ?_⟩
  show rawDecodeSq _ = _
  unfold rawDecodeSq; rw [hm]
  show (if _ then _ else _) = _
  simp (disch := decide) only [lo_of, hi_of, BitVec.extractLsb'_eq_self, Nat.reduceSub, Nat.sub_self, he]
  rfl

theorem brg (g : BitVec 2) (t : BitVec 1) (o : BitVec 16) : Statement (.brg g t o) := by
  rintro kk ⟨⟩
  have he : ∀ lo len, fld (encode (.brg g t o)) lo len = @BitVec.extractLsb' (7+5+2+1+1+16) lo len (0x2#7 ++ 0x0#5 ++ g ++ t ++ 0x0#1 ++ o) := fun _ _ => rfl
  have hm : major (encode (.brg g t o)) = 0x2 := congrArg BitVec.toNat (show _ = 0x2#7 by rw [he]; simp (disch := decide) only [lo_of, hi_of, BitVec.extractLsb'_eq_self, Nat.reduceSub, Nat.sub_self])
  refine ⟨by rw [hm]; rfl, ?_⟩
  show rawDecodeSq _ = _
  unfold rawDecodeSq; rw [hm]
  show (if _ then _ else _) = _
  simp (disch := decide) only [lo_of, hi_of, BitVec.extractLsb'_eq_self, Nat.reduceSub, Nat.sub_self, he]
  rfl

theorem brz (a : BitVec 5) (o : BitVec 16) : Statement (.brz a o) := by
  rintro kk ⟨⟩
  have he : ∀ lo len, fld (encode (.brz a o)) lo len = @BitVec.extractLsb' (7+5+4+16) lo len (0x3#7 ++ a ++ 0x0#4 ++ o) := fun _ _ => rfl
  have hm : major (encode (.brz a o)) = 0x3 := congrArg BitVec.toNat (show _ = 0x3#7 by rw [he]; simp (disch := decide) only [lo_of, hi_of, BitVec.extractLsb'_eq_self, Nat.reduceSub, Nat.sub_self])
  refine ⟨by rw [hm]; rfl, ?_⟩
  show rawDecodeSq _ = _
  unfold rawDecodeSq; rw [hm]
  show (if _ then _ else _) = _
  simp (disch := decide) only [lo_of, hi_of, BitVec.extractLsb'_eq_self, Nat.reduceSub, Nat.sub_self, he]
  rfl

theorem brnz (a : BitVec 5) (o : BitVec 16) : Statement (.brnz a o) := by
  rintro kk ⟨⟩
  have he : ∀ lo len, fld (encode (.brnz a o)) lo len = @BitVec.extractLsb' (7+5+4+16) lo len (0x4#7 ++ a ++ 0x0#4 ++ o) := fun _ _ => rfl
  have hm : major (encode (.brnz a o)) = 0x4 := congrArg BitVec.toNat (show _ = 0x4#7 by rw [he]; simp (disch := decide) only [lo_of, hi_of, BitVec.extractLsb'_eq_self, Nat.reduceSub, Nat.sub_self])
  refine ⟨by rw [hm]; rfl, ?_⟩
  show rawDecodeSq _ = _
  unfold rawDecodeSq; rw [hm]
  show (if _ then _ else _) = _
  simp (disch := decide) only [lo_of, hi_of, BitVec.extractLsb'_eq_self, Nat.reduceSub, Nat.sub_self, he]
  rfl

theorem call (o : BitVec 16) : Statement (.call o) := by
  rintro kk ⟨⟩
  have he : ∀ lo len, fld (encode (.call o)) lo len = @BitVec.extractLsb' (7+9+16) lo len (0x5#7 ++ 0x0#9 ++ o) := fun _ _ => rfl
  have hm : major (encode (.call o)) = 0x5 := congrArg BitVec.toNat (show _ = 0x5#7 by rw [he]; simp (disch := decide) only [lo_of, hi_of, BitVec.extractLsb'_eq_self, Nat.reduceSub, Nat.sub_self])
  refine ⟨by rw [hm]; rfl, ?_⟩
  show rawDecodeSq _ = _
  unfold rawDecodeSq; rw [hm]
  show (if _ then _ else _) = _
  simp (disch := decide) only [lo_of, hi_of, BitVec.extractLsb'_eq_self, Nat.reduceSub, Nat.sub_self, he]
  rfl

theorem ret : Statement .ret := by
  rintro kk ⟨⟩
  exact ⟨rfl, rfl⟩

theorem jmpr (a : BitVec 5) : Statement (.jmpr a) := by
  rintro kk ⟨⟩
  have he : ∀ lo len, fld (encode (.jmpr a)) lo len = @BitVec.extractLsb' (7+5+20) lo len (0x7#7 ++ a ++ 0x0#20) := fun _ _ => rfl
  have hm : major (encode (.jmpr a)) = 0x7 := congrArg BitVec.toNat (show _ = 0x7#7 by rw [he]; simp (disch := decide) only [lo_of, hi_of, BitVec.extractLsb'_eq_self, Nat.reduceSub, Nat.sub_self])
  refine ⟨by rw [hm]; rfl, ?_⟩
  show rawDecodeSq _ = _
  unfold rawDecodeSq; rw [hm]
  show (if _ then _ else _) = _
  simp (disch := decide) only [lo_of, hi_of, BitVec.extractLsb'_eq_self, Nat.reduceSub, Nat.sub_self, he]
  rfl

theorem loopImm (c : BitVec 12) (e : BitVec 12) : Statement (.loopImm c e) := by
  rintro kk ⟨⟩
  have he : ∀ lo len, fld (encode (.loopImm c e)) lo len = @BitVec.extractLsb' (7+1+12+12) lo len (0x8#7 ++ 0x1#1 ++ c ++ e) := fun _ _ => rfl
  have hm : major (encode (.loopImm c e)) = 0x8 := congrArg BitVec.toNat (show _ = 0x8#7 by rw [he]; simp (disch := decide) only [lo_of, hi_of, BitVec.extractLsb'_eq_self, Nat.reduceSub, Nat.sub_self])
  refine ⟨by rw [hm]; rfl, ?_⟩
  show rawDecodeSq _ = _
  unfold rawDecodeSq; rw [hm]
  have hn0 : (fld (encode (.loopImm c e)) 17 8 == 0x0) = false :=
    fld_bne _ 17 8 7 1 _ (by rw [he]; simp (disch := decide) only [lo_of, hi_of, BitVec.extractLsb'_eq_self, Nat.reduceSub, Nat.sub_self]; decide) (by decide)
  show (if _ then _ else _) = _
  simp only [hn0, Bool.false_and, Bool.and_false, Bool.false_eq_true, ite_false]
  simp (disch := decide) only [lo_of, hi_of, BitVec.extractLsb'_eq_self, Nat.reduceSub, Nat.sub_self, he]
  rfl

theorem loopReg (a : BitVec 5) (e : BitVec 12) : Statement (.loopReg a e) := by
  rintro kk ⟨⟩
  have he : ∀ lo len, fld (encode (.loopReg a e)) lo len = @BitVec.extractLsb' (7+8+5+12) lo len (0x8#7 ++ 0x0#8 ++ a ++ e) := fun _ _ => rfl
  have hm : major (encode (.loopReg a e)) = 0x8 := congrArg BitVec.toNat (show _ = 0x8#7 by rw [he]; simp (disch := decide) only [lo_of, hi_of, BitVec.extractLsb'_eq_self, Nat.reduceSub, Nat.sub_self])
  refine ⟨by rw [hm]; rfl, ?_⟩
  show rawDecodeSq _ = _
  unfold rawDecodeSq; rw [hm]
  show (if _ then _ else _) = _
  simp (disch := decide) only [lo_of, hi_of, BitVec.extractLsb'_eq_self, Nat.reduceSub, Nat.sub_self, he]
  rfl

theorem looprImm (c : BitVec 12) (e : BitVec 12) : Statement (.looprImm c e) := by
  rintro kk ⟨⟩
  have he : ∀ lo len, fld (encode (.looprImm c e)) lo len = @BitVec.extractLsb' (7+1+12+12) lo len (0x9#7 ++ 0x1#1 ++ c ++ e) := fun _ _ => rfl
  have hm : major (encode (.looprImm c e)) = 0x9 := congrArg BitVec.toNat (show _ = 0x9#7 by rw [he]; simp (disch := decide) only [lo_of, hi_of, BitVec.extractLsb'_eq_self, Nat.reduceSub, Nat.sub_self])
  refine ⟨by rw [hm]; rfl, ?_⟩
  show rawDecodeSq _ = _
  unfold rawDecodeSq; rw [hm]
  have hn0 : (fld (encode (.looprImm c e)) 17 8 == 0x0) = false :=
    fld_bne _ 17 8 7 1 _ (by rw [he]; simp (disch := decide) only [lo_of, hi_of, BitVec.extractLsb'_eq_self, Nat.reduceSub, Nat.sub_self]; decide) (by decide)
  show (if _ then _ else _) = _
  simp only [hn0, Bool.false_and, Bool.and_false, Bool.false_eq_true, ite_false]
  simp (disch := decide) only [lo_of, hi_of, BitVec.extractLsb'_eq_self, Nat.reduceSub, Nat.sub_self, he]
  rfl

theorem looprReg (a : BitVec 5) (e : BitVec 12) : Statement (.looprReg a e) := by
  rintro kk ⟨⟩
  have he : ∀ lo len, fld (encode (.looprReg a e)) lo len = @BitVec.extractLsb' (7+8+5+12) lo len (0x9#7 ++ 0x0#8 ++ a ++ e) := fun _ _ => rfl
  have hm : major (encode (.looprReg a e)) = 0x9 := congrArg BitVec.toNat (show _ = 0x9#7 by rw [he]; simp (disch := decide) only [lo_of, hi_of, BitVec.extractLsb'_eq_self, Nat.reduceSub, Nat.sub_self])
  refine ⟨by rw [hm]; rfl, ?_⟩
  show rawDecodeSq _ = _
  unfold rawDecodeSq; rw [hm]
  show (if _ then _ else _) = _
  simp (disch := decide) only [lo_of, hi_of, BitVec.extractLsb'_eq_self, Nat.reduceSub, Nat.sub_self, he]
  rfl

theorem lbrk : Statement .lbrk := by
  rintro kk ⟨⟩
  exact ⟨rfl, rfl⟩

theorem retire : Statement .retire := by
  rintro kk ⟨⟩
  exact ⟨rfl, rfl⟩

theorem fencei (h : BitVec 1) : Statement (.fencei h) := by
  rintro kk ⟨⟩
  have he : ∀ lo len, fld (encode (.fencei h)) lo len = @BitVec.extractLsb' (7+24+1) lo len (0xC#7 ++ 0x0#24 ++ h) := fun _ _ => rfl
  have hm : major (encode (.fencei h)) = 0xC := congrArg BitVec.toNat (show _ = 0xC#7 by rw [he]; simp (disch := decide) only [lo_of, hi_of, BitVec.extractLsb'_eq_self, Nat.reduceSub, Nat.sub_self])
  refine ⟨by rw [hm]; rfl, ?_⟩
  show rawDecodeSq _ = _
  unfold rawDecodeSq; rw [hm]
  show (if _ then _ else _) = _
  simp (disch := decide) only [lo_of, hi_of, BitVec.extractLsb'_eq_self, Nat.reduceSub, Nat.sub_self, he]
  rfl

theorem brswap (b : BitVec 12) : Statement (.brswap b) := by
  rintro kk ⟨⟩
  have he : ∀ lo len, fld (encode (.brswap b)) lo len = @BitVec.extractLsb' (7+13+12) lo len (0xD#7 ++ 0x0#13 ++ b) := fun _ _ => rfl
  have hm : major (encode (.brswap b)) = 0xD := congrArg BitVec.toNat (show _ = 0xD#7 by rw [he]; simp (disch := decide) only [lo_of, hi_of, BitVec.extractLsb'_eq_self, Nat.reduceSub, Nat.sub_self])
  refine ⟨by rw [hm]; rfl, ?_⟩
  show rawDecodeSq _ = _
  unfold rawDecodeSq; rw [hm]
  show (if _ then _ else _) = _
  simp (disch := decide) only [lo_of, hi_of, BitVec.extractLsb'_eq_self, Nat.reduceSub, Nat.sub_self, he]
  rfl

theorem waitt (a : BitVec 5) : Statement (.waitt a) := by
  rintro kk ⟨⟩
  have he : ∀ lo len, fld (encode (.waitt a)) lo len = @BitVec.extractLsb' (7+5+20) lo len (0xE#7 ++ a ++ 0x0#20) := fun _ _ => rfl
  have hm : major (encode (.waitt a)) = 0xE := congrArg BitVec.toNat (show _ = 0xE#7 by rw [he]; simp (disch := decide) only [lo_of, hi_of, BitVec.extractLsb'_eq_self, Nat.reduceSub, Nat.sub_self])
  refine ⟨by rw [hm]; rfl, ?_⟩
  show rawDecodeSq _ = _
  unfold rawDecodeSq; rw [hm]
  show (if _ then _ else _) = _
  simp (disch := decide) only [lo_of, hi_of, BitVec.extractLsb'_eq_self, Nat.reduceSub, Nat.sub_self, he]
  rfl

theorem frame : Statement .frame := by
  rintro kk ⟨⟩
  exact ⟨rfl, rfl⟩

theorem frameX : Statement .frameX := by
  rintro kk ⟨⟩
  exact ⟨rfl, rfl⟩

theorem rfmode (m : BitVec 8) : Statement (.rfmode m) := by
  rintro kk ⟨⟩
  have he : ∀ lo len, fld (encode (.rfmode m)) lo len = @BitVec.extractLsb' (7+17+8) lo len (0x10#7 ++ 0x0#17 ++ m) := fun _ _ => rfl
  have hm : major (encode (.rfmode m)) = 0x10 := congrArg BitVec.toNat (show _ = 0x10#7 by rw [he]; simp (disch := decide) only [lo_of, hi_of, BitVec.extractLsb'_eq_self, Nat.reduceSub, Nat.sub_self])
  refine ⟨by rw [hm]; rfl, ?_⟩
  show rawDecodeSq _ = _
  unfold rawDecodeSq; rw [hm]
  show (if _ then _ else _) = _
  simp (disch := decide) only [lo_of, hi_of, BitVec.extractLsb'_eq_self, Nat.reduceSub, Nat.sub_self, he]
  rfl

theorem setrm (m : BitVec 3) : Statement (.setrm m) := by
  rintro kk ⟨⟩
  have he : ∀ lo len, fld (encode (.setrm m)) lo len = @BitVec.extractLsb' (7+22+3) lo len (0x11#7 ++ 0x0#22 ++ m) := fun _ _ => rfl
  have hm : major (encode (.setrm m)) = 0x11 := congrArg BitVec.toNat (show _ = 0x11#7 by rw [he]; simp (disch := decide) only [lo_of, hi_of, BitVec.extractLsb'_eq_self, Nat.reduceSub, Nat.sub_self])
  refine ⟨by rw [hm]; rfl, ?_⟩
  show rawDecodeSq _ = _
  unfold rawDecodeSq; rw [hm]
  show (if _ then _ else _) = _
  simp (disch := decide) only [lo_of, hi_of, BitVec.extractLsb'_eq_self, Nat.reduceSub, Nat.sub_self, he]
  rfl

theorem setefr (t : BitVec 2) (v : BitVec 16) : Statement (.setefr t v) := by
  rintro kk ⟨⟩
  have he : ∀ lo len, fld (encode (.setefr t v)) lo len = @BitVec.extractLsb' (7+2+7+16) lo len (0x12#7 ++ t ++ 0x0#7 ++ v) := fun _ _ => rfl
  have hm : major (encode (.setefr t v)) = 0x12 := congrArg BitVec.toNat (show _ = 0x12#7 by rw [he]; simp (disch := decide) only [lo_of, hi_of, BitVec.extractLsb'_eq_self, Nat.reduceSub, Nat.sub_self])
  refine ⟨by rw [hm]; rfl, ?_⟩
  show rawDecodeSq _ = _
  unfold rawDecodeSq; rw [hm]
  show (if _ then _ else _) = _
  simp (disch := decide) only [lo_of, hi_of, BitVec.extractLsb'_eq_self, Nat.reduceSub, Nat.sub_self, he]
  rfl

theorem getsp (d : BitVec 5) (p : BitVec 12) : Statement (.getsp d p) := by
  rintro kk ⟨⟩
  have he : ∀ lo len, fld (encode (.getsp d p)) lo len = @BitVec.extractLsb' (7+5+8+12) lo len (0x13#7 ++ d ++ 0x0#8 ++ p) := fun _ _ => rfl
  have hm : major (encode (.getsp d p)) = 0x13 := congrArg BitVec.toNat (show _ = 0x13#7 by rw [he]; simp (disch := decide) only [lo_of, hi_of, BitVec.extractLsb'_eq_self, Nat.reduceSub, Nat.sub_self])
  refine ⟨by rw [hm]; rfl, ?_⟩
  show rawDecodeSq _ = _
  unfold rawDecodeSq; rw [hm]
  show (if _ then _ else _) = _
  simp (disch := decide) only [lo_of, hi_of, BitVec.extractLsb'_eq_self, Nat.reduceSub, Nat.sub_self, he]
  rfl

theorem setsp (a : BitVec 5) (p : BitVec 12) : Statement (.setsp a p) := by
  rintro kk ⟨⟩
  have he : ∀ lo len, fld (encode (.setsp a p)) lo len = @BitVec.extractLsb' (7+5+5+3+12) lo len (0x14#7 ++ 0x0#5 ++ a ++ 0x0#3 ++ p) := fun _ _ => rfl
  have hm : major (encode (.setsp a p)) = 0x14 := congrArg BitVec.toNat (show _ = 0x14#7 by rw [he]; simp (disch := decide) only [lo_of, hi_of, BitVec.extractLsb'_eq_self, Nat.reduceSub, Nat.sub_self])
  refine ⟨by rw [hm]; rfl, ?_⟩
  show rawDecodeSq _ = _
  unfold rawDecodeSq; rw [hm]
  show (if _ then _ else _) = _
  simp (disch := decide) only [lo_of, hi_of, BitVec.extractLsb'_eq_self, Nat.reduceSub, Nat.sub_self, he]
  rfl

theorem trap (n : BitVec 8) : Statement (.trap n) := by
  rintro kk ⟨⟩
  have he : ∀ lo len, fld (encode (.trap n)) lo len = @BitVec.extractLsb' (7+17+8) lo len (0x1C#7 ++ 0x0#17 ++ n) := fun _ _ => rfl
  have hm : major (encode (.trap n)) = 0x1C := congrArg BitVec.toNat (show _ = 0x1C#7 by rw [he]; simp (disch := decide) only [lo_of, hi_of, BitVec.extractLsb'_eq_self, Nat.reduceSub, Nat.sub_self])
  refine ⟨by rw [hm]; rfl, ?_⟩
  show rawDecodeSq _ = _
  unfold rawDecodeSq; rw [hm]
  show (if _ then _ else _) = _
  simp (disch := decide) only [lo_of, hi_of, BitVec.extractLsb'_eq_self, Nat.reduceSub, Nat.sub_self, he]
  rfl

theorem sysret : Statement .sysret := by
  rintro kk ⟨⟩
  exact ⟨rfl, rfl⟩

theorem sysretS : Statement .sysretS := by
  rintro kk ⟨⟩
  exact ⟨rfl, rfl⟩

theorem add (d : BitVec 5) (a : BitVec 5) (b : BitVec 5) : Statement (.add d a b) := by
  rintro kk ⟨⟩
  have he : ∀ lo len, fld (encode (.add d a b)) lo len = @BitVec.extractLsb' (7+5+5+5+10) lo len (0x20#7 ++ d ++ a ++ b ++ 0x0#10) := fun _ _ => rfl
  have hm : major (encode (.add d a b)) = 0x20 := congrArg BitVec.toNat (show _ = 0x20#7 by rw [he]; simp (disch := decide) only [lo_of, hi_of, BitVec.extractLsb'_eq_self, Nat.reduceSub, Nat.sub_self])
  refine ⟨by rw [hm]; rfl, ?_⟩
  show rawDecodeSq _ = _
  unfold rawDecodeSq; rw [hm]
  show (if _ then _ else _) = _
  simp (disch := decide) only [lo_of, hi_of, BitVec.extractLsb'_eq_self, Nat.reduceSub, Nat.sub_self, he]
  rfl

theorem addi (d : BitVec 5) (a : BitVec 5) (i : BitVec 15) : Statement (.addi d a i) := by
  rintro kk ⟨⟩
  have he : ∀ lo len, fld (encode (.addi d a i)) lo len = @BitVec.extractLsb' (7+5+5+15) lo len (0x21#7 ++ d ++ a ++ i) := fun _ _ => rfl
  have hm : major (encode (.addi d a i)) = 0x21 := congrArg BitVec.toNat (show _ = 0x21#7 by rw [he]; simp (disch := decide) only [lo_of, hi_of, BitVec.extractLsb'_eq_self, Nat.reduceSub, Nat.sub_self])
  refine ⟨by rw [hm]; rfl, ?_⟩
  show rawDecodeSq _ = _
  unfold rawDecodeSq; rw [hm]
  show Except.ok _ = _
  simp (disch := decide) only [lo_of, hi_of, BitVec.extractLsb'_eq_self, Nat.reduceSub, Nat.sub_self, he]

theorem sub (d : BitVec 5) (a : BitVec 5) (b : BitVec 5) : Statement (.sub d a b) := by
  rintro kk ⟨⟩
  have he : ∀ lo len, fld (encode (.sub d a b)) lo len = @BitVec.extractLsb' (7+5+5+5+10) lo len (0x22#7 ++ d ++ a ++ b ++ 0x0#10) := fun _ _ => rfl
  have hm : major (encode (.sub d a b)) = 0x22 := congrArg BitVec.toNat (show _ = 0x22#7 by rw [he]; simp (disch := decide) only [lo_of, hi_of, BitVec.extractLsb'_eq_self, Nat.reduceSub, Nat.sub_self])
  refine ⟨by rw [hm]; rfl, ?_⟩
  show rawDecodeSq _ = _
  unfold rawDecodeSq; rw [hm]
  show (if _ then _ else _) = _
  simp (disch := decide) only [lo_of, hi_of, BitVec.extractLsb'_eq_self, Nat.reduceSub, Nat.sub_self, he]
  rfl

theorem mul (d : BitVec 5) (a : BitVec 5) (b : BitVec 5) : Statement (.mul d a b) := by
  rintro kk ⟨⟩
  have he : ∀ lo len, fld (encode (.mul d a b)) lo len = @BitVec.extractLsb' (7+5+5+5+10) lo len (0x23#7 ++ d ++ a ++ b ++ 0x0#10) := fun _ _ => rfl
  have hm : major (encode (.mul d a b)) = 0x23 := congrArg BitVec.toNat (show _ = 0x23#7 by rw [he]; simp (disch := decide) only [lo_of, hi_of, BitVec.extractLsb'_eq_self, Nat.reduceSub, Nat.sub_self])
  refine ⟨by rw [hm]; rfl, ?_⟩
  show rawDecodeSq _ = _
  unfold rawDecodeSq; rw [hm]
  show (if _ then _ else _) = _
  simp (disch := decide) only [lo_of, hi_of, BitVec.extractLsb'_eq_self, Nat.reduceSub, Nat.sub_self, he]
  rfl

theorem mulh (d : BitVec 5) (a : BitVec 5) (b : BitVec 5) (u : BitVec 1) : Statement (.mulh d a b u) := by
  rintro kk ⟨⟩
  have he : ∀ lo len, fld (encode (.mulh d a b u)) lo len = @BitVec.extractLsb' (7+5+5+5+1+1+8) lo len (0x24#7 ++ d ++ a ++ b ++ 0x0#1 ++ u ++ 0x0#8) := fun _ _ => rfl
  have hm : major (encode (.mulh d a b u)) = 0x24 := congrArg BitVec.toNat (show _ = 0x24#7 by rw [he]; simp (disch := decide) only [lo_of, hi_of, BitVec.extractLsb'_eq_self, Nat.reduceSub, Nat.sub_self])
  refine ⟨by rw [hm]; rfl, ?_⟩
  show rawDecodeSq _ = _
  unfold rawDecodeSq; rw [hm]
  show (if _ then _ else _) = _
  simp (disch := decide) only [lo_of, hi_of, BitVec.extractLsb'_eq_self, Nat.reduceSub, Nat.sub_self, he]
  rfl

theorem div (d : BitVec 5) (a : BitVec 5) (b : BitVec 5) (u : BitVec 1) : Statement (.div d a b u) := by
  rintro kk ⟨⟩
  have he : ∀ lo len, fld (encode (.div d a b u)) lo len = @BitVec.extractLsb' (7+5+5+5+1+1+8) lo len (0x25#7 ++ d ++ a ++ b ++ 0x0#1 ++ u ++ 0x0#8) := fun _ _ => rfl
  have hm : major (encode (.div d a b u)) = 0x25 := congrArg BitVec.toNat (show _ = 0x25#7 by rw [he]; simp (disch := decide) only [lo_of, hi_of, BitVec.extractLsb'_eq_self, Nat.reduceSub, Nat.sub_self])
  refine ⟨by rw [hm]; rfl, ?_⟩
  show rawDecodeSq _ = _
  unfold rawDecodeSq; rw [hm]
  show (if _ then _ else _) = _
  simp (disch := decide) only [lo_of, hi_of, BitVec.extractLsb'_eq_self, Nat.reduceSub, Nat.sub_self, he]
  rfl

theorem and (d : BitVec 5) (a : BitVec 5) (b : BitVec 5) : Statement (.and d a b) := by
  rintro kk ⟨⟩
  have he : ∀ lo len, fld (encode (.and d a b)) lo len = @BitVec.extractLsb' (7+5+5+5+10) lo len (0x26#7 ++ d ++ a ++ b ++ 0x0#10) := fun _ _ => rfl
  have hm : major (encode (.and d a b)) = 0x26 := congrArg BitVec.toNat (show _ = 0x26#7 by rw [he]; simp (disch := decide) only [lo_of, hi_of, BitVec.extractLsb'_eq_self, Nat.reduceSub, Nat.sub_self])
  refine ⟨by rw [hm]; rfl, ?_⟩
  show rawDecodeSq _ = _
  unfold rawDecodeSq; rw [hm]
  show (if _ then _ else _) = _
  simp (disch := decide) only [lo_of, hi_of, BitVec.extractLsb'_eq_self, Nat.reduceSub, Nat.sub_self, he]
  rfl

theorem or (d : BitVec 5) (a : BitVec 5) (b : BitVec 5) : Statement (.or d a b) := by
  rintro kk ⟨⟩
  have he : ∀ lo len, fld (encode (.or d a b)) lo len = @BitVec.extractLsb' (7+5+5+5+10) lo len (0x27#7 ++ d ++ a ++ b ++ 0x0#10) := fun _ _ => rfl
  have hm : major (encode (.or d a b)) = 0x27 := congrArg BitVec.toNat (show _ = 0x27#7 by rw [he]; simp (disch := decide) only [lo_of, hi_of, BitVec.extractLsb'_eq_self, Nat.reduceSub, Nat.sub_self])
  refine ⟨by rw [hm]; rfl, ?_⟩
  show rawDecodeSq _ = _
  unfold rawDecodeSq; rw [hm]
  show (if _ then _ else _) = _
  simp (disch := decide) only [lo_of, hi_of, BitVec.extractLsb'_eq_self, Nat.reduceSub, Nat.sub_self, he]
  rfl

theorem xor (d : BitVec 5) (a : BitVec 5) (b : BitVec 5) : Statement (.xor d a b) := by
  rintro kk ⟨⟩
  have he : ∀ lo len, fld (encode (.xor d a b)) lo len = @BitVec.extractLsb' (7+5+5+5+10) lo len (0x28#7 ++ d ++ a ++ b ++ 0x0#10) := fun _ _ => rfl
  have hm : major (encode (.xor d a b)) = 0x28 := congrArg BitVec.toNat (show _ = 0x28#7 by rw [he]; simp (disch := decide) only [lo_of, hi_of, BitVec.extractLsb'_eq_self, Nat.reduceSub, Nat.sub_self])
  refine ⟨by rw [hm]; rfl, ?_⟩
  show rawDecodeSq _ = _
  unfold rawDecodeSq; rw [hm]
  show (if _ then _ else _) = _
  simp (disch := decide) only [lo_of, hi_of, BitVec.extractLsb'_eq_self, Nat.reduceSub, Nat.sub_self, he]
  rfl

theorem shlReg (d : BitVec 5) (a : BitVec 5) (b : BitVec 5) : Statement (.shlReg d a b) := by
  rintro kk ⟨⟩
  have he : ∀ lo len, fld (encode (.shlReg d a b)) lo len = @BitVec.extractLsb' (7+5+5+5+10) lo len (0x29#7 ++ d ++ a ++ b ++ 0x0#10) := fun _ _ => rfl
  have hm : major (encode (.shlReg d a b)) = 0x29 := congrArg BitVec.toNat (show _ = 0x29#7 by rw [he]; simp (disch := decide) only [lo_of, hi_of, BitVec.extractLsb'_eq_self, Nat.reduceSub, Nat.sub_self])
  refine ⟨by rw [hm]; rfl, ?_⟩
  show rawDecodeSq _ = _
  unfold rawDecodeSq; rw [hm]
  show (if _ then _ else _) = _
  simp (disch := decide) only [lo_of, hi_of, BitVec.extractLsb'_eq_self, Nat.reduceSub, Nat.sub_self, he]
  rfl

theorem shlImm (d : BitVec 5) (a : BitVec 5) (i : BitVec 6) : Statement (.shlImm d a i) := by
  rintro kk ⟨⟩
  have he : ∀ lo len, fld (encode (.shlImm d a i)) lo len = @BitVec.extractLsb' (7+5+5+9+6) lo len (0x29#7 ++ d ++ a ++ 0x8#9 ++ i) := fun _ _ => rfl
  have hm : major (encode (.shlImm d a i)) = 0x29 := congrArg BitVec.toNat (show _ = 0x29#7 by rw [he]; simp (disch := decide) only [lo_of, hi_of, BitVec.extractLsb'_eq_self, Nat.reduceSub, Nat.sub_self])
  refine ⟨by rw [hm]; rfl, ?_⟩
  show rawDecodeSq _ = _
  unfold rawDecodeSq; rw [hm]
  have hn0 : (fld (encode (.shlImm d a i)) 0 10 == 0x0) = false :=
    fld_bne _ 0 10 6 4 _ (by rw [he]; simp (disch := decide) only [lo_of, hi_of, BitVec.extractLsb'_eq_self, Nat.reduceSub, Nat.sub_self]; decide) (by decide)
  show (if _ then _ else _) = _
  simp only [hn0, Bool.false_and, Bool.and_false, Bool.false_eq_true, ite_false]
  simp (disch := decide) only [lo_of, hi_of, BitVec.extractLsb'_eq_self, Nat.reduceSub, Nat.sub_self, he]
  rfl

theorem shrReg (d : BitVec 5) (a : BitVec 5) (b : BitVec 5) : Statement (.shrReg d a b) := by
  rintro kk ⟨⟩
  have he : ∀ lo len, fld (encode (.shrReg d a b)) lo len = @BitVec.extractLsb' (7+5+5+5+10) lo len (0x2A#7 ++ d ++ a ++ b ++ 0x0#10) := fun _ _ => rfl
  have hm : major (encode (.shrReg d a b)) = 0x2A := congrArg BitVec.toNat (show _ = 0x2A#7 by rw [he]; simp (disch := decide) only [lo_of, hi_of, BitVec.extractLsb'_eq_self, Nat.reduceSub, Nat.sub_self])
  refine ⟨by rw [hm]; rfl, ?_⟩
  show rawDecodeSq _ = _
  unfold rawDecodeSq; rw [hm]
  show (if _ then _ else _) = _
  simp (disch := decide) only [lo_of, hi_of, BitVec.extractLsb'_eq_self, Nat.reduceSub, Nat.sub_self, he]
  rfl

theorem shrImm (d : BitVec 5) (a : BitVec 5) (i : BitVec 6) : Statement (.shrImm d a i) := by
  rintro kk ⟨⟩
  have he : ∀ lo len, fld (encode (.shrImm d a i)) lo len = @BitVec.extractLsb' (7+5+5+9+6) lo len (0x2A#7 ++ d ++ a ++ 0x8#9 ++ i) := fun _ _ => rfl
  have hm : major (encode (.shrImm d a i)) = 0x2A := congrArg BitVec.toNat (show _ = 0x2A#7 by rw [he]; simp (disch := decide) only [lo_of, hi_of, BitVec.extractLsb'_eq_self, Nat.reduceSub, Nat.sub_self])
  refine ⟨by rw [hm]; rfl, ?_⟩
  show rawDecodeSq _ = _
  unfold rawDecodeSq; rw [hm]
  have hn0 : (fld (encode (.shrImm d a i)) 0 10 == 0x0) = false :=
    fld_bne _ 0 10 6 4 _ (by rw [he]; simp (disch := decide) only [lo_of, hi_of, BitVec.extractLsb'_eq_self, Nat.reduceSub, Nat.sub_self]; decide) (by decide)
  show (if _ then _ else _) = _
  simp only [hn0, Bool.false_and, Bool.and_false, Bool.false_eq_true, ite_false]
  simp (disch := decide) only [lo_of, hi_of, BitVec.extractLsb'_eq_self, Nat.reduceSub, Nat.sub_self, he]
  rfl

theorem sarReg (d : BitVec 5) (a : BitVec 5) (b : BitVec 5) : Statement (.sarReg d a b) := by
  rintro kk ⟨⟩
  have he : ∀ lo len, fld (encode (.sarReg d a b)) lo len = @BitVec.extractLsb' (7+5+5+5+10) lo len (0x2B#7 ++ d ++ a ++ b ++ 0x0#10) := fun _ _ => rfl
  have hm : major (encode (.sarReg d a b)) = 0x2B := congrArg BitVec.toNat (show _ = 0x2B#7 by rw [he]; simp (disch := decide) only [lo_of, hi_of, BitVec.extractLsb'_eq_self, Nat.reduceSub, Nat.sub_self])
  refine ⟨by rw [hm]; rfl, ?_⟩
  show rawDecodeSq _ = _
  unfold rawDecodeSq; rw [hm]
  show (if _ then _ else _) = _
  simp (disch := decide) only [lo_of, hi_of, BitVec.extractLsb'_eq_self, Nat.reduceSub, Nat.sub_self, he]
  rfl

theorem sarImm (d : BitVec 5) (a : BitVec 5) (i : BitVec 6) : Statement (.sarImm d a i) := by
  rintro kk ⟨⟩
  have he : ∀ lo len, fld (encode (.sarImm d a i)) lo len = @BitVec.extractLsb' (7+5+5+9+6) lo len (0x2B#7 ++ d ++ a ++ 0x8#9 ++ i) := fun _ _ => rfl
  have hm : major (encode (.sarImm d a i)) = 0x2B := congrArg BitVec.toNat (show _ = 0x2B#7 by rw [he]; simp (disch := decide) only [lo_of, hi_of, BitVec.extractLsb'_eq_self, Nat.reduceSub, Nat.sub_self])
  refine ⟨by rw [hm]; rfl, ?_⟩
  show rawDecodeSq _ = _
  unfold rawDecodeSq; rw [hm]
  have hn0 : (fld (encode (.sarImm d a i)) 0 10 == 0x0) = false :=
    fld_bne _ 0 10 6 4 _ (by rw [he]; simp (disch := decide) only [lo_of, hi_of, BitVec.extractLsb'_eq_self, Nat.reduceSub, Nat.sub_self]; decide) (by decide)
  show (if _ then _ else _) = _
  simp only [hn0, Bool.false_and, Bool.and_false, Bool.false_eq_true, ite_false]
  simp (disch := decide) only [lo_of, hi_of, BitVec.extractLsb'_eq_self, Nat.reduceSub, Nat.sub_self, he]
  rfl

theorem rotlReg (d : BitVec 5) (a : BitVec 5) (b : BitVec 5) : Statement (.rotlReg d a b) := by
  rintro kk ⟨⟩
  have he : ∀ lo len, fld (encode (.rotlReg d a b)) lo len = @BitVec.extractLsb' (7+5+5+5+10) lo len (0x2C#7 ++ d ++ a ++ b ++ 0x0#10) := fun _ _ => rfl
  have hm : major (encode (.rotlReg d a b)) = 0x2C := congrArg BitVec.toNat (show _ = 0x2C#7 by rw [he]; simp (disch := decide) only [lo_of, hi_of, BitVec.extractLsb'_eq_self, Nat.reduceSub, Nat.sub_self])
  refine ⟨by rw [hm]; rfl, ?_⟩
  show rawDecodeSq _ = _
  unfold rawDecodeSq; rw [hm]
  show (if _ then _ else _) = _
  simp (disch := decide) only [lo_of, hi_of, BitVec.extractLsb'_eq_self, Nat.reduceSub, Nat.sub_self, he]
  rfl

theorem rotlImm (d : BitVec 5) (a : BitVec 5) (i : BitVec 6) : Statement (.rotlImm d a i) := by
  rintro kk ⟨⟩
  have he : ∀ lo len, fld (encode (.rotlImm d a i)) lo len = @BitVec.extractLsb' (7+5+5+9+6) lo len (0x2C#7 ++ d ++ a ++ 0x8#9 ++ i) := fun _ _ => rfl
  have hm : major (encode (.rotlImm d a i)) = 0x2C := congrArg BitVec.toNat (show _ = 0x2C#7 by rw [he]; simp (disch := decide) only [lo_of, hi_of, BitVec.extractLsb'_eq_self, Nat.reduceSub, Nat.sub_self])
  refine ⟨by rw [hm]; rfl, ?_⟩
  show rawDecodeSq _ = _
  unfold rawDecodeSq; rw [hm]
  have hn0 : (fld (encode (.rotlImm d a i)) 0 10 == 0x0) = false :=
    fld_bne _ 0 10 6 4 _ (by rw [he]; simp (disch := decide) only [lo_of, hi_of, BitVec.extractLsb'_eq_self, Nat.reduceSub, Nat.sub_self]; decide) (by decide)
  show (if _ then _ else _) = _
  simp only [hn0, Bool.false_and, Bool.and_false, Bool.false_eq_true, ite_false]
  simp (disch := decide) only [lo_of, hi_of, BitVec.extractLsb'_eq_self, Nat.reduceSub, Nat.sub_self, he]
  rfl

theorem min (d : BitVec 5) (a : BitVec 5) (b : BitVec 5) (u : BitVec 1) : Statement (.min d a b u) := by
  rintro kk ⟨⟩
  have he : ∀ lo len, fld (encode (.min d a b u)) lo len = @BitVec.extractLsb' (7+5+5+5+1+1+8) lo len (0x2D#7 ++ d ++ a ++ b ++ 0x0#1 ++ u ++ 0x0#8) := fun _ _ => rfl
  have hm : major (encode (.min d a b u)) = 0x2D := congrArg BitVec.toNat (show _ = 0x2D#7 by rw [he]; simp (disch := decide) only [lo_of, hi_of, BitVec.extractLsb'_eq_self, Nat.reduceSub, Nat.sub_self])
  refine ⟨by rw [hm]; rfl, ?_⟩
  show rawDecodeSq _ = _
  unfold rawDecodeSq; rw [hm]
  show (if _ then _ else _) = _
  simp (disch := decide) only [lo_of, hi_of, BitVec.extractLsb'_eq_self, Nat.reduceSub, Nat.sub_self, he]
  rfl

theorem max (d : BitVec 5) (a : BitVec 5) (b : BitVec 5) (u : BitVec 1) : Statement (.max d a b u) := by
  rintro kk ⟨⟩
  have he : ∀ lo len, fld (encode (.max d a b u)) lo len = @BitVec.extractLsb' (7+5+5+5+1+1+8) lo len (0x2E#7 ++ d ++ a ++ b ++ 0x0#1 ++ u ++ 0x0#8) := fun _ _ => rfl
  have hm : major (encode (.max d a b u)) = 0x2E := congrArg BitVec.toNat (show _ = 0x2E#7 by rw [he]; simp (disch := decide) only [lo_of, hi_of, BitVec.extractLsb'_eq_self, Nat.reduceSub, Nat.sub_self])
  refine ⟨by rw [hm]; rfl, ?_⟩
  show rawDecodeSq _ = _
  unfold rawDecodeSq; rw [hm]
  show (if _ then _ else _) = _
  simp (disch := decide) only [lo_of, hi_of, BitVec.extractLsb'_eq_self, Nat.reduceSub, Nat.sub_self, he]
  rfl

theorem cmp (c : BitVec 3) (g : BitVec 2) (a : BitVec 5) (b : BitVec 5) : Statement (.cmp c g a b) := by
  rintro kk ⟨⟩
  have he : ∀ lo len, fld (encode (.cmp c g a b)) lo len = @BitVec.extractLsb' (7+3+2+5+5+10) lo len (0x2F#7 ++ c ++ g ++ a ++ b ++ 0x0#10) := fun _ _ => rfl
  have hm : major (encode (.cmp c g a b)) = 0x2F := congrArg BitVec.toNat (show _ = 0x2F#7 by rw [he]; simp (disch := decide) only [lo_of, hi_of, BitVec.extractLsb'_eq_self, Nat.reduceSub, Nat.sub_self])
  refine ⟨by rw [hm]; rfl, ?_⟩
  show rawDecodeSq _ = _
  unfold rawDecodeSq; rw [hm]
  show (if _ then _ else _) = _
  simp (disch := decide) only [lo_of, hi_of, BitVec.extractLsb'_eq_self, Nat.reduceSub, Nat.sub_self, he]
  rfl

theorem cmpi (c : BitVec 3) (g : BitVec 2) (a : BitVec 5) (i : BitVec 15) : Statement (.cmpi c g a i) := by
  rintro kk ⟨⟩
  have he : ∀ lo len, fld (encode (.cmpi c g a i)) lo len = @BitVec.extractLsb' (7+3+2+5+15) lo len (0x30#7 ++ c ++ g ++ a ++ i) := fun _ _ => rfl
  have hm : major (encode (.cmpi c g a i)) = 0x30 := congrArg BitVec.toNat (show _ = 0x30#7 by rw [he]; simp (disch := decide) only [lo_of, hi_of, BitVec.extractLsb'_eq_self, Nat.reduceSub, Nat.sub_self])
  refine ⟨by rw [hm]; rfl, ?_⟩
  show rawDecodeSq _ = _
  unfold rawDecodeSq; rw [hm]
  show Except.ok _ = _
  simp (disch := decide) only [lo_of, hi_of, BitVec.extractLsb'_eq_self, Nat.reduceSub, Nat.sub_self, he]

theorem sel (d : BitVec 5) (a : BitVec 5) (b : BitVec 5) (g : BitVec 2) : Statement (.sel d a b g) := by
  rintro kk ⟨⟩
  have he : ∀ lo len, fld (encode (.sel d a b g)) lo len = @BitVec.extractLsb' (7+5+5+5+8+2) lo len (0x31#7 ++ d ++ a ++ b ++ 0x0#8 ++ g) := fun _ _ => rfl
  have hm : major (encode (.sel d a b g)) = 0x31 := congrArg BitVec.toNat (show _ = 0x31#7 by rw [he]; simp (disch := decide) only [lo_of, hi_of, BitVec.extractLsb'_eq_self, Nat.reduceSub, Nat.sub_self])
  refine ⟨by rw [hm]; rfl, ?_⟩
  show rawDecodeSq _ = _
  unfold rawDecodeSq; rw [hm]
  show (if _ then _ else _) = _
  simp (disch := decide) only [lo_of, hi_of, BitVec.extractLsb'_eq_self, Nat.reduceSub, Nat.sub_self, he]
  rfl

theorem clz (d : BitVec 5) (a : BitVec 5) : Statement (.clz d a) := by
  rintro kk ⟨⟩
  have he : ∀ lo len, fld (encode (.clz d a)) lo len = @BitVec.extractLsb' (7+5+5+15) lo len (0x32#7 ++ d ++ a ++ 0x0#15) := fun _ _ => rfl
  have hm : major (encode (.clz d a)) = 0x32 := congrArg BitVec.toNat (show _ = 0x32#7 by rw [he]; simp (disch := decide) only [lo_of, hi_of, BitVec.extractLsb'_eq_self, Nat.reduceSub, Nat.sub_self])
  refine ⟨by rw [hm]; rfl, ?_⟩
  show rawDecodeSq _ = _
  unfold rawDecodeSq; rw [hm]
  show (if _ then _ else _) = _
  simp (disch := decide) only [lo_of, hi_of, BitVec.extractLsb'_eq_self, Nat.reduceSub, Nat.sub_self, he]
  rfl

theorem popc (d : BitVec 5) (a : BitVec 5) : Statement (.popc d a) := by
  rintro kk ⟨⟩
  have he : ∀ lo len, fld (encode (.popc d a)) lo len = @BitVec.extractLsb' (7+5+5+15) lo len (0x33#7 ++ d ++ a ++ 0x0#15) := fun _ _ => rfl
  have hm : major (encode (.popc d a)) = 0x33 := congrArg BitVec.toNat (show _ = 0x33#7 by rw [he]; simp (disch := decide) only [lo_of, hi_of, BitVec.extractLsb'_eq_self, Nat.reduceSub, Nat.sub_self])
  refine ⟨by rw [hm]; rfl, ?_⟩
  show rawDecodeSq _ = _
  unfold rawDecodeSq; rw [hm]
  show (if _ then _ else _) = _
  simp (disch := decide) only [lo_of, hi_of, BitVec.extractLsb'_eq_self, Nat.reduceSub, Nat.sub_self, he]
  rfl

theorem bfx (d : BitVec 5) (a : BitVec 5) (x : BitVec 1) (p : BitVec 6) (w : BitVec 6) : Statement (.bfx d a x p w) := by
  rintro kk ⟨⟩
  have he : ∀ lo len, fld (encode (.bfx d a x p w)) lo len = @BitVec.extractLsb' (7+5+5+2+1+6+6) lo len (0x34#7 ++ d ++ a ++ 0x0#2 ++ x ++ p ++ w) := fun _ _ => rfl
  have hm : major (encode (.bfx d a x p w)) = 0x34 := congrArg BitVec.toNat (show _ = 0x34#7 by rw [he]; simp (disch := decide) only [lo_of, hi_of, BitVec.extractLsb'_eq_self, Nat.reduceSub, Nat.sub_self])
  refine ⟨by rw [hm]; rfl, ?_⟩
  show rawDecodeSq _ = _
  unfold rawDecodeSq; rw [hm]
  show (if _ then _ else _) = _
  simp (disch := decide) only [lo_of, hi_of, BitVec.extractLsb'_eq_self, Nat.reduceSub, Nat.sub_self, he]
  rfl

theorem bfi (d : BitVec 5) (a : BitVec 5) (p : BitVec 6) (w : BitVec 6) : Statement (.bfi d a p w) := by
  rintro kk ⟨⟩
  have he : ∀ lo len, fld (encode (.bfi d a p w)) lo len = @BitVec.extractLsb' (7+5+5+3+6+6) lo len (0x35#7 ++ d ++ a ++ 0x0#3 ++ p ++ w) := fun _ _ => rfl
  have hm : major (encode (.bfi d a p w)) = 0x35 := congrArg BitVec.toNat (show _ = 0x35#7 by rw [he]; simp (disch := decide) only [lo_of, hi_of, BitVec.extractLsb'_eq_self, Nat.reduceSub, Nat.sub_self])
  refine ⟨by rw [hm]; rfl, ?_⟩
  show rawDecodeSq _ = _
  unfold rawDecodeSq; rw [hm]
  show (if _ then _ else _) = _
  simp (disch := decide) only [lo_of, hi_of, BitVec.extractLsb'_eq_self, Nat.reduceSub, Nat.sub_self, he]
  rfl

theorem movgToScalar (d : BitVec 5) (g : BitVec 2) : Statement (.movgToScalar d g) := by
  rintro kk ⟨⟩
  have he : ∀ lo len, fld (encode (.movgToScalar d g)) lo len = @BitVec.extractLsb' (7+5+6+2+12) lo len (0x36#7 ++ d ++ 0x0#6 ++ g ++ 0x0#12) := fun _ _ => rfl
  have hm : major (encode (.movgToScalar d g)) = 0x36 := congrArg BitVec.toNat (show _ = 0x36#7 by rw [he]; simp (disch := decide) only [lo_of, hi_of, BitVec.extractLsb'_eq_self, Nat.reduceSub, Nat.sub_self])
  refine ⟨by rw [hm]; rfl, ?_⟩
  show rawDecodeSq _ = _
  unfold rawDecodeSq; rw [hm]
  show (if _ then _ else _) = _
  simp (disch := decide) only [lo_of, hi_of, BitVec.extractLsb'_eq_self, Nat.reduceSub, Nat.sub_self, he]
  rfl

theorem movgToGuard (a : BitVec 5) (g : BitVec 2) : Statement (.movgToGuard a g) := by
  rintro kk ⟨⟩
  have he : ∀ lo len, fld (encode (.movgToGuard a g)) lo len = @BitVec.extractLsb' (7+5+5+1+2+12) lo len (0x36#7 ++ 0x0#5 ++ a ++ 0x1#1 ++ g ++ 0x0#12) := fun _ _ => rfl
  have hm : major (encode (.movgToGuard a g)) = 0x36 := congrArg BitVec.toNat (show _ = 0x36#7 by rw [he]; simp (disch := decide) only [lo_of, hi_of, BitVec.extractLsb'_eq_self, Nat.reduceSub, Nat.sub_self])
  refine ⟨by rw [hm]; rfl, ?_⟩
  show rawDecodeSq _ = _
  unfold rawDecodeSq; rw [hm]
  have hn0 : (fld (encode (.movgToGuard a g)) 14 6 == 0x0) = false :=
    fld_bne _ 14 6 0 1 _ (by rw [he]; simp (disch := decide) only [lo_of, hi_of, BitVec.extractLsb'_eq_self, Nat.reduceSub, Nat.sub_self]; decide) (by decide)
  show (if _ then _ else _) = _
  simp only [hn0, Bool.false_and, Bool.and_false, Bool.false_eq_true, ite_false]
  simp (disch := decide) only [lo_of, hi_of, BitVec.extractLsb'_eq_self, Nat.reduceSub, Nat.sub_self, he]
  rfl

theorem li (d : BitVec 5) (i : BitVec 20) : Statement (.li d i) := by
  rintro kk ⟨⟩
  have he : ∀ lo len, fld (encode (.li d i)) lo len = @BitVec.extractLsb' (7+5+20) lo len (0x37#7 ++ d ++ i) := fun _ _ => rfl
  have hm : major (encode (.li d i)) = 0x37 := congrArg BitVec.toNat (show _ = 0x37#7 by rw [he]; simp (disch := decide) only [lo_of, hi_of, BitVec.extractLsb'_eq_self, Nat.reduceSub, Nat.sub_self])
  refine ⟨by rw [hm]; rfl, ?_⟩
  show rawDecodeSq _ = _
  unfold rawDecodeSq; rw [hm]
  show Except.ok _ = _
  simp (disch := decide) only [lo_of, hi_of, BitVec.extractLsb'_eq_self, Nat.reduceSub, Nat.sub_self, he]

theorem lih (d : BitVec 5) (p : BitVec 2) (i : BitVec 16) : Statement (.lih d p i) := by
  rintro kk ⟨⟩
  have he : ∀ lo len, fld (encode (.lih d p i)) lo len = @BitVec.extractLsb' (7+5+2+2+16) lo len (0x38#7 ++ d ++ p ++ 0x0#2 ++ i) := fun _ _ => rfl
  have hm : major (encode (.lih d p i)) = 0x38 := congrArg BitVec.toNat (show _ = 0x38#7 by rw [he]; simp (disch := decide) only [lo_of, hi_of, BitVec.extractLsb'_eq_self, Nat.reduceSub, Nat.sub_self])
  refine ⟨by rw [hm]; rfl, ?_⟩
  show rawDecodeSq _ = _
  unfold rawDecodeSq; rw [hm]
  show (if _ then _ else _) = _
  simp (disch := decide) only [lo_of, hi_of, BitVec.extractLsb'_eq_self, Nat.reduceSub, Nat.sub_self, he]
  rfl

theorem fadd (d : BitVec 5) (a : BitVec 5) (b : BitVec 5) : Statement (.fadd d a b) := by
  rintro kk ⟨⟩
  have he : ∀ lo len, fld (encode (.fadd d a b)) lo len = @BitVec.extractLsb' (7+5+5+5+10) lo len (0x40#7 ++ d ++ a ++ b ++ 0x0#10) := fun _ _ => rfl
  have hm : major (encode (.fadd d a b)) = 0x40 := congrArg BitVec.toNat (show _ = 0x40#7 by rw [he]; simp (disch := decide) only [lo_of, hi_of, BitVec.extractLsb'_eq_self, Nat.reduceSub, Nat.sub_self])
  refine ⟨by rw [hm]; rfl, ?_⟩
  show rawDecodeSq _ = _
  unfold rawDecodeSq; rw [hm]
  show (if _ then _ else _) = _
  simp (disch := decide) only [lo_of, hi_of, BitVec.extractLsb'_eq_self, Nat.reduceSub, Nat.sub_self, he]
  rfl

theorem fsub (d : BitVec 5) (a : BitVec 5) (b : BitVec 5) : Statement (.fsub d a b) := by
  rintro kk ⟨⟩
  have he : ∀ lo len, fld (encode (.fsub d a b)) lo len = @BitVec.extractLsb' (7+5+5+5+10) lo len (0x41#7 ++ d ++ a ++ b ++ 0x0#10) := fun _ _ => rfl
  have hm : major (encode (.fsub d a b)) = 0x41 := congrArg BitVec.toNat (show _ = 0x41#7 by rw [he]; simp (disch := decide) only [lo_of, hi_of, BitVec.extractLsb'_eq_self, Nat.reduceSub, Nat.sub_self])
  refine ⟨by rw [hm]; rfl, ?_⟩
  show rawDecodeSq _ = _
  unfold rawDecodeSq; rw [hm]
  show (if _ then _ else _) = _
  simp (disch := decide) only [lo_of, hi_of, BitVec.extractLsb'_eq_self, Nat.reduceSub, Nat.sub_self, he]
  rfl

theorem fmul (d : BitVec 5) (a : BitVec 5) (b : BitVec 5) : Statement (.fmul d a b) := by
  rintro kk ⟨⟩
  have he : ∀ lo len, fld (encode (.fmul d a b)) lo len = @BitVec.extractLsb' (7+5+5+5+10) lo len (0x42#7 ++ d ++ a ++ b ++ 0x0#10) := fun _ _ => rfl
  have hm : major (encode (.fmul d a b)) = 0x42 := congrArg BitVec.toNat (show _ = 0x42#7 by rw [he]; simp (disch := decide) only [lo_of, hi_of, BitVec.extractLsb'_eq_self, Nat.reduceSub, Nat.sub_self])
  refine ⟨by rw [hm]; rfl, ?_⟩
  show rawDecodeSq _ = _
  unfold rawDecodeSq; rw [hm]
  show (if _ then _ else _) = _
  simp (disch := decide) only [lo_of, hi_of, BitVec.extractLsb'_eq_self, Nat.reduceSub, Nat.sub_self, he]
  rfl

theorem ffma (d : BitVec 5) (a : BitVec 5) (b : BitVec 5) (c : BitVec 5) : Statement (.ffma d a b c) := by
  rintro kk ⟨⟩
  have he : ∀ lo len, fld (encode (.ffma d a b c)) lo len = @BitVec.extractLsb' (7+5+5+5+5+5) lo len (0x43#7 ++ d ++ a ++ b ++ c ++ 0x0#5) := fun _ _ => rfl
  have hm : major (encode (.ffma d a b c)) = 0x43 := congrArg BitVec.toNat (show _ = 0x43#7 by rw [he]; simp (disch := decide) only [lo_of, hi_of, BitVec.extractLsb'_eq_self, Nat.reduceSub, Nat.sub_self])
  refine ⟨by rw [hm]; rfl, ?_⟩
  show rawDecodeSq _ = _
  unfold rawDecodeSq; rw [hm]
  show (if _ then _ else _) = _
  simp (disch := decide) only [lo_of, hi_of, BitVec.extractLsb'_eq_self, Nat.reduceSub, Nat.sub_self, he]
  rfl

theorem fmin (d : BitVec 5) (a : BitVec 5) (b : BitVec 5) : Statement (.fmin d a b) := by
  rintro kk ⟨⟩
  have he : ∀ lo len, fld (encode (.fmin d a b)) lo len = @BitVec.extractLsb' (7+5+5+5+10) lo len (0x44#7 ++ d ++ a ++ b ++ 0x0#10) := fun _ _ => rfl
  have hm : major (encode (.fmin d a b)) = 0x44 := congrArg BitVec.toNat (show _ = 0x44#7 by rw [he]; simp (disch := decide) only [lo_of, hi_of, BitVec.extractLsb'_eq_self, Nat.reduceSub, Nat.sub_self])
  refine ⟨by rw [hm]; rfl, ?_⟩
  show rawDecodeSq _ = _
  unfold rawDecodeSq; rw [hm]
  show (if _ then _ else _) = _
  simp (disch := decide) only [lo_of, hi_of, BitVec.extractLsb'_eq_self, Nat.reduceSub, Nat.sub_self, he]
  rfl

theorem fmax (d : BitVec 5) (a : BitVec 5) (b : BitVec 5) : Statement (.fmax d a b) := by
  rintro kk ⟨⟩
  have he : ∀ lo len, fld (encode (.fmax d a b)) lo len = @BitVec.extractLsb' (7+5+5+5+10) lo len (0x45#7 ++ d ++ a ++ b ++ 0x0#10) := fun _ _ => rfl
  have hm : major (encode (.fmax d a b)) = 0x45 := congrArg BitVec.toNat (show _ = 0x45#7 by rw [he]; simp (disch := decide) only [lo_of, hi_of, BitVec.extractLsb'_eq_self, Nat.reduceSub, Nat.sub_self])
  refine ⟨by rw [hm]; rfl, ?_⟩
  show rawDecodeSq _ = _
  unfold rawDecodeSq; rw [hm]
  show (if _ then _ else _) = _
  simp (disch := decide) only [lo_of, hi_of, BitVec.extractLsb'_eq_self, Nat.reduceSub, Nat.sub_self, he]
  rfl

theorem fcmp (c : BitVec 3) (g : BitVec 2) (a : BitVec 5) (b : BitVec 5) : Statement (.fcmp c g a b) := by
  rintro kk ⟨⟩
  have he : ∀ lo len, fld (encode (.fcmp c g a b)) lo len = @BitVec.extractLsb' (7+3+2+5+5+10) lo len (0x46#7 ++ c ++ g ++ a ++ b ++ 0x0#10) := fun _ _ => rfl
  have hm : major (encode (.fcmp c g a b)) = 0x46 := congrArg BitVec.toNat (show _ = 0x46#7 by rw [he]; simp (disch := decide) only [lo_of, hi_of, BitVec.extractLsb'_eq_self, Nat.reduceSub, Nat.sub_self])
  refine ⟨by rw [hm]; rfl, ?_⟩
  show rawDecodeSq _ = _
  unfold rawDecodeSq; rw [hm]
  show (if _ then _ else _) = _
  simp (disch := decide) only [lo_of, hi_of, BitVec.extractLsb'_eq_self, Nat.reduceSub, Nat.sub_self, he]
  rfl

theorem fcvt (d : BitVec 5) (a : BitVec 5) (v : BitVec 5) : Statement (.fcvt d a v) := by
  rintro kk ⟨⟩
  have he : ∀ lo len, fld (encode (.fcvt d a v)) lo len = @BitVec.extractLsb' (7+5+5+5+10) lo len (0x47#7 ++ d ++ a ++ v ++ 0x0#10) := fun _ _ => rfl
  have hm : major (encode (.fcvt d a v)) = 0x47 := congrArg BitVec.toNat (show _ = 0x47#7 by rw [he]; simp (disch := decide) only [lo_of, hi_of, BitVec.extractLsb'_eq_self, Nat.reduceSub, Nat.sub_self])
  refine ⟨by rw [hm]; rfl, ?_⟩
  show rawDecodeSq _ = _
  unfold rawDecodeSq; rw [hm]
  show (if _ then _ else _) = _
  simp (disch := decide) only [lo_of, hi_of, BitVec.extractLsb'_eq_self, Nat.reduceSub, Nat.sub_self, he]
  rfl

theorem frcp (d : BitVec 5) (a : BitVec 5) : Statement (.frcp d a) := by
  rintro kk ⟨⟩
  have he : ∀ lo len, fld (encode (.frcp d a)) lo len = @BitVec.extractLsb' (7+5+5+15) lo len (0x48#7 ++ d ++ a ++ 0x0#15) := fun _ _ => rfl
  have hm : major (encode (.frcp d a)) = 0x48 := congrArg BitVec.toNat (show _ = 0x48#7 by rw [he]; simp (disch := decide) only [lo_of, hi_of, BitVec.extractLsb'_eq_self, Nat.reduceSub, Nat.sub_self])
  refine ⟨by rw [hm]; rfl, ?_⟩
  show rawDecodeSq _ = _
  unfold rawDecodeSq; rw [hm]
  show (if _ then _ else _) = _
  simp (disch := decide) only [lo_of, hi_of, BitVec.extractLsb'_eq_self, Nat.reduceSub, Nat.sub_self, he]
  rfl

theorem frsq (d : BitVec 5) (a : BitVec 5) : Statement (.frsq d a) := by
  rintro kk ⟨⟩
  have he : ∀ lo len, fld (encode (.frsq d a)) lo len = @BitVec.extractLsb' (7+5+5+15) lo len (0x49#7 ++ d ++ a ++ 0x0#15) := fun _ _ => rfl
  have hm : major (encode (.frsq d a)) = 0x49 := congrArg BitVec.toNat (show _ = 0x49#7 by rw [he]; simp (disch := decide) only [lo_of, hi_of, BitVec.extractLsb'_eq_self, Nat.reduceSub, Nat.sub_self])
  refine ⟨by rw [hm]; rfl, ?_⟩
  show rawDecodeSq _ = _
  unfold rawDecodeSq; rw [hm]
  show (if _ then _ else _) = _
  simp (disch := decide) only [lo_of, hi_of, BitVec.extractLsb'_eq_self, Nat.reduceSub, Nat.sub_self, he]
  rfl

theorem fexp2 (d : BitVec 5) (a : BitVec 5) : Statement (.fexp2 d a) := by
  rintro kk ⟨⟩
  have he : ∀ lo len, fld (encode (.fexp2 d a)) lo len = @BitVec.extractLsb' (7+5+5+15) lo len (0x4A#7 ++ d ++ a ++ 0x0#15) := fun _ _ => rfl
  have hm : major (encode (.fexp2 d a)) = 0x4A := congrArg BitVec.toNat (show _ = 0x4A#7 by rw [he]; simp (disch := decide) only [lo_of, hi_of, BitVec.extractLsb'_eq_self, Nat.reduceSub, Nat.sub_self])
  refine ⟨by rw [hm]; rfl, ?_⟩
  show rawDecodeSq _ = _
  unfold rawDecodeSq; rw [hm]
  show (if _ then _ else _) = _
  simp (disch := decide) only [lo_of, hi_of, BitVec.extractLsb'_eq_self, Nat.reduceSub, Nat.sub_self, he]
  rfl

theorem flog2 (d : BitVec 5) (a : BitVec 5) : Statement (.flog2 d a) := by
  rintro kk ⟨⟩
  have he : ∀ lo len, fld (encode (.flog2 d a)) lo len = @BitVec.extractLsb' (7+5+5+15) lo len (0x4B#7 ++ d ++ a ++ 0x0#15) := fun _ _ => rfl
  have hm : major (encode (.flog2 d a)) = 0x4B := congrArg BitVec.toNat (show _ = 0x4B#7 by rw [he]; simp (disch := decide) only [lo_of, hi_of, BitVec.extractLsb'_eq_self, Nat.reduceSub, Nat.sub_self])
  refine ⟨by rw [hm]; rfl, ?_⟩
  show rawDecodeSq _ = _
  unfold rawDecodeSq; rw [hm]
  show (if _ then _ else _) = _
  simp (disch := decide) only [lo_of, hi_of, BitVec.extractLsb'_eq_self, Nat.reduceSub, Nat.sub_self, he]
  rfl

theorem vadd (w : BitVec 2) (d : BitVec 6) (a : BitVec 6) (p : BitVec 2) (b : BitVec 6) (q : BitVec 2) : Statement (.vadd w d a p b q) := by
  rintro kk ⟨⟩
  have he : ∀ lo len, fld (encode (.vadd w d a p b q)) lo len = @BitVec.extractLsb' (7+2+6+6+2+6+2+1) lo len (0x1#7 ++ w ++ d ++ a ++ p ++ b ++ q ++ 0x0#1) := fun _ _ => rfl
  have hm : major (encode (.vadd w d a p b q)) = 0x1 := congrArg BitVec.toNat (show _ = 0x1#7 by rw [he]; simp (disch := decide) only [lo_of, hi_of, BitVec.extractLsb'_eq_self, Nat.reduceSub, Nat.sub_self])
  refine ⟨by rw [hm]; rfl, ?_⟩
  show rawDecodeV _ = _
  unfold rawDecodeV; rw [hm]
  show (if _ then _ else _) = _
  simp (disch := decide) only [lo_of, hi_of, BitVec.extractLsb'_eq_self, Nat.reduceSub, Nat.sub_self, he]
  rfl

theorem vsub (w : BitVec 2) (d : BitVec 6) (a : BitVec 6) (p : BitVec 2) (b : BitVec 6) (q : BitVec 2) : Statement (.vsub w d a p b q) := by
  rintro kk ⟨⟩
  have he : ∀ lo len, fld (encode (.vsub w d a p b q)) lo len = @BitVec.extractLsb' (7+2+6+6+2+6+2+1) lo len (0x2#7 ++ w ++ d ++ a ++ p ++ b ++ q ++ 0x0#1) := fun _ _ => rfl
  have hm : major (encode (.vsub w d a p b q)) = 0x2 := congrArg BitVec.toNat (show _ = 0x2#7 by rw [he]; simp (disch := decide) only [lo_of, hi_of, BitVec.extractLsb'_eq_self, Nat.reduceSub, Nat.sub_self])
  refine ⟨by rw [hm]; rfl, ?_⟩
  show rawDecodeV _ = _
  unfold rawDecodeV; rw [hm]
  show (if _ then _ else _) = _
  simp (disch := decide) only [lo_of, hi_of, BitVec.extractLsb'_eq_self, Nat.reduceSub, Nat.sub_self, he]
  rfl

theorem vmul (w : BitVec 2) (d : BitVec 6) (a : BitVec 6) (p : BitVec 2) (b : BitVec 6) (q : BitVec 2) : Statement (.vmul w d a p b q) := by
  rintro kk ⟨⟩
  have he : ∀ lo len, fld (encode (.vmul w d a p b q)) lo len = @BitVec.extractLsb' (7+2+6+6+2+6+2+1) lo len (0x3#7 ++ w ++ d ++ a ++ p ++ b ++ q ++ 0x0#1) := fun _ _ => rfl
  have hm : major (encode (.vmul w d a p b q)) = 0x3 := congrArg BitVec.toNat (show _ = 0x3#7 by rw [he]; simp (disch := decide) only [lo_of, hi_of, BitVec.extractLsb'_eq_self, Nat.reduceSub, Nat.sub_self])
  refine ⟨by rw [hm]; rfl, ?_⟩
  show rawDecodeV _ = _
  unfold rawDecodeV; rw [hm]
  show (if _ then _ else _) = _
  simp (disch := decide) only [lo_of, hi_of, BitVec.extractLsb'_eq_self, Nat.reduceSub, Nat.sub_self, he]
  rfl

theorem vmin (w : BitVec 2) (d : BitVec 6) (a : BitVec 6) (p : BitVec 2) (b : BitVec 6) (q : BitVec 2) : Statement (.vmin w d a p b q) := by
  rintro kk ⟨⟩
  have he : ∀ lo len, fld (encode (.vmin w d a p b q)) lo len = @BitVec.extractLsb' (7+2+6+6+2+6+2+1) lo len (0x4#7 ++ w ++ d ++ a ++ p ++ b ++ q ++ 0x0#1) := fun _ _ => rfl
  have hm : major (encode (.vmin w d a p b q)) = 0x4 := congrArg BitVec.toNat (show _ = 0x4#7 by rw [he]; simp (disch := decide) only [lo_of, hi_of, BitVec.extractLsb'_eq_self, Nat.reduceSub, Nat.sub_self])
  refine ⟨by rw [hm]; rfl, ?_⟩
  show rawDecodeV _ = _
  unfold rawDecodeV; rw [hm]
  show (if _ then _ else _) = _
  simp (disch := decide) only [lo_of, hi_of, BitVec.extractLsb'_eq_self, Nat.reduceSub, Nat.sub_self, he]
  rfl

theorem vmax (w : BitVec 2) (d : BitVec 6) (a : BitVec 6) (p : BitVec 2) (b : BitVec 6) (q : BitVec 2) : Statement (.vmax w d a p b q) := by
  rintro kk ⟨⟩
  have he : ∀ lo len, fld (encode (.vmax w d a p b q)) lo len = @BitVec.extractLsb' (7+2+6+6+2+6+2+1) lo len (0x5#7 ++ w ++ d ++ a ++ p ++ b ++ q ++ 0x0#1) := fun _ _ => rfl
  have hm : major (encode (.vmax w d a p b q)) = 0x5 := congrArg BitVec.toNat (show _ = 0x5#7 by rw [he]; simp (disch := decide) only [lo_of, hi_of, BitVec.extractLsb'_eq_self, Nat.reduceSub, Nat.sub_self])
  refine ⟨by rw [hm]; rfl, ?_⟩
  show rawDecodeV _ = _
  unfold rawDecodeV; rw [hm]
  show (if _ then _ else _) = _
  simp (disch := decide) only [lo_of, hi_of, BitVec.extractLsb'_eq_self, Nat.reduceSub, Nat.sub_self, he]
  rfl

theorem vfma (w : BitVec 2) (d : BitVec 6) (a : BitVec 6) (p : BitVec 2) (b : BitVec 6) (q : BitVec 2) (c : BitVec 1) : Statement (.vfma w d a p b q c) := by
  rintro kk ⟨⟩
  have he : ∀ lo len, fld (encode (.vfma w d a p b q c)) lo len = @BitVec.extractLsb' (7+2+6+6+2+6+2+1) lo len (0x6#7 ++ w ++ d ++ a ++ p ++ b ++ q ++ c) := fun _ _ => rfl
  have hm : major (encode (.vfma w d a p b q c)) = 0x6 := congrArg BitVec.toNat (show _ = 0x6#7 by rw [he]; simp (disch := decide) only [lo_of, hi_of, BitVec.extractLsb'_eq_self, Nat.reduceSub, Nat.sub_self])
  refine ⟨by rw [hm]; rfl, ?_⟩
  show rawDecodeV _ = _
  unfold rawDecodeV; rw [hm]
  show Except.ok _ = _
  simp (disch := decide) only [lo_of, hi_of, BitVec.extractLsb'_eq_self, Nat.reduceSub, Nat.sub_self, he]

theorem vabs (w : BitVec 2) (d : BitVec 6) (a : BitVec 6) (p : BitVec 2) (m : BitVec 1) (k : BitVec 3) : Statement (.vabs w d a p m k) := by
  rintro kk ⟨⟩
  have he : ∀ lo len, fld (encode (.vabs w d a p m k)) lo len = @BitVec.extractLsb' (7+2+6+6+2+4+1+3+1) lo len (0x7#7 ++ w ++ d ++ a ++ p ++ 0x0#4 ++ m ++ k ++ 0x0#1) := fun _ _ => rfl
  have hm : major (encode (.vabs w d a p m k)) = 0x7 := congrArg BitVec.toNat (show _ = 0x7#7 by rw [he]; simp (disch := decide) only [lo_of, hi_of, BitVec.extractLsb'_eq_self, Nat.reduceSub, Nat.sub_self])
  refine ⟨by rw [hm]; rfl, ?_⟩
  show rawDecodeV _ = _
  unfold rawDecodeV; rw [hm]
  show (if _ then _ else _) = _
  simp (disch := decide) only [lo_of, hi_of, BitVec.extractLsb'_eq_self, Nat.reduceSub, Nat.sub_self, he]
  rfl

theorem vcvt (w : BitVec 2) (d : BitVec 6) (a : BitVec 6) (p : BitVec 2) (v : BitVec 4) (m : BitVec 1) (k : BitVec 3) : Statement (.vcvt w d a p v m k) := by
  rintro kk ⟨⟩
  have he : ∀ lo len, fld (encode (.vcvt w d a p v m k)) lo len = @BitVec.extractLsb' (7+2+6+6+2+4+1+3+1) lo len (0x8#7 ++ w ++ d ++ a ++ p ++ v ++ m ++ k ++ 0x0#1) := fun _ _ => rfl
  have hm : major (encode (.vcvt w d a p v m k)) = 0x8 := congrArg BitVec.toNat (show _ = 0x8#7 by rw [he]; simp (disch := decide) only [lo_of, hi_of, BitVec.extractLsb'_eq_self, Nat.reduceSub, Nat.sub_self])
  refine ⟨by rw [hm]; rfl, ?_⟩
  show rawDecodeV _ = _
  unfold rawDecodeV; rw [hm]
  show (if _ then _ else _) = _
  simp (disch := decide) only [lo_of, hi_of, BitVec.extractLsb'_eq_self, Nat.reduceSub, Nat.sub_self, he]
  rfl

theorem vexp2 (w : BitVec 2) (d : BitVec 6) (a : BitVec 6) (p : BitVec 2) (m : BitVec 1) (k : BitVec 3) : Statement (.vexp2 w d a p m k) := by
  rintro kk ⟨⟩
  have he : ∀ lo len, fld (encode (.vexp2 w d a p m k)) lo len = @BitVec.extractLsb' (7+2+6+6+2+4+1+3+1) lo len (0x9#7 ++ w ++ d ++ a ++ p ++ 0x0#4 ++ m ++ k ++ 0x0#1) := fun _ _ => rfl
  have hm : major (encode (.vexp2 w d a p m k)) = 0x9 := congrArg BitVec.toNat (show _ = 0x9#7 by rw [he]; simp (disch := decide) only [lo_of, hi_of, BitVec.extractLsb'_eq_self, Nat.reduceSub, Nat.sub_self])
  refine ⟨by rw [hm]; rfl, ?_⟩
  show rawDecodeV _ = _
  unfold rawDecodeV; rw [hm]
  show (if _ then _ else _) = _
  simp (disch := decide) only [lo_of, hi_of, BitVec.extractLsb'_eq_self, Nat.reduceSub, Nat.sub_self, he]
  rfl

theorem vlog2 (w : BitVec 2) (d : BitVec 6) (a : BitVec 6) (p : BitVec 2) (m : BitVec 1) (k : BitVec 3) : Statement (.vlog2 w d a p m k) := by
  rintro kk ⟨⟩
  have he : ∀ lo len, fld (encode (.vlog2 w d a p m k)) lo len = @BitVec.extractLsb' (7+2+6+6+2+4+1+3+1) lo len (0xA#7 ++ w ++ d ++ a ++ p ++ 0x0#4 ++ m ++ k ++ 0x0#1) := fun _ _ => rfl
  have hm : major (encode (.vlog2 w d a p m k)) = 0xA := congrArg BitVec.toNat (show _ = 0xA#7 by rw [he]; simp (disch := decide) only [lo_of, hi_of, BitVec.extractLsb'_eq_self, Nat.reduceSub, Nat.sub_self])
  refine ⟨by rw [hm]; rfl, ?_⟩
  show rawDecodeV _ = _
  unfold rawDecodeV; rw [hm]
  show (if _ then _ else _) = _
  simp (disch := decide) only [lo_of, hi_of, BitVec.extractLsb'_eq_self, Nat.reduceSub, Nat.sub_self, he]
  rfl

theorem vrcp (w : BitVec 2) (d : BitVec 6) (a : BitVec 6) (p : BitVec 2) (m : BitVec 1) (k : BitVec 3) : Statement (.vrcp w d a p m k) := by
  rintro kk ⟨⟩
  have he : ∀ lo len, fld (encode (.vrcp w d a p m k)) lo len = @BitVec.extractLsb' (7+2+6+6+2+4+1+3+1) lo len (0xB#7 ++ w ++ d ++ a ++ p ++ 0x0#4 ++ m ++ k ++ 0x0#1) := fun _ _ => rfl
  have hm : major (encode (.vrcp w d a p m k)) = 0xB := congrArg BitVec.toNat (show _ = 0xB#7 by rw [he]; simp (disch := decide) only [lo_of, hi_of, BitVec.extractLsb'_eq_self, Nat.reduceSub, Nat.sub_self])
  refine ⟨by rw [hm]; rfl, ?_⟩
  show rawDecodeV _ = _
  unfold rawDecodeV; rw [hm]
  show (if _ then _ else _) = _
  simp (disch := decide) only [lo_of, hi_of, BitVec.extractLsb'_eq_self, Nat.reduceSub, Nat.sub_self, he]
  rfl

theorem vrsq (w : BitVec 2) (d : BitVec 6) (a : BitVec 6) (p : BitVec 2) (m : BitVec 1) (k : BitVec 3) : Statement (.vrsq w d a p m k) := by
  rintro kk ⟨⟩
  have he : ∀ lo len, fld (encode (.vrsq w d a p m k)) lo len = @BitVec.extractLsb' (7+2+6+6+2+4+1+3+1) lo len (0xC#7 ++ w ++ d ++ a ++ p ++ 0x0#4 ++ m ++ k ++ 0x0#1) := fun _ _ => rfl
  have hm : major (encode (.vrsq w d a p m k)) = 0xC := congrArg BitVec.toNat (show _ = 0xC#7 by rw [he]; simp (disch := decide) only [lo_of, hi_of, BitVec.extractLsb'_eq_self, Nat.reduceSub, Nat.sub_self])
  refine ⟨by rw [hm]; rfl, ?_⟩
  show rawDecodeV _ = _
  unfold rawDecodeV; rw [hm]
  show (if _ then _ else _) = _
  simp (disch := decide) only [lo_of, hi_of, BitVec.extractLsb'_eq_self, Nat.reduceSub, Nat.sub_self, he]
  rfl

theorem fp32MaskedForms (w : BitVec 2) (d : BitVec 6) (p : BitVec 2) (b : BitVec 6) (q : BitVec 2) (k : BitVec 3) (f : BitVec 4) : Statement (.fp32MaskedForms w d p b q k f) := by
  rintro kk ⟨⟩
  have he : ∀ lo len, fld (encode (.fp32MaskedForms w d p b q k f)) lo len = @BitVec.extractLsb' (7+2+6+2+6+2+3+4) lo len (0xD#7 ++ w ++ d ++ p ++ b ++ q ++ k ++ f) := fun _ _ => rfl
  have hm : major (encode (.fp32MaskedForms w d p b q k f)) = 0xD := congrArg BitVec.toNat (show _ = 0xD#7 by rw [he]; simp (disch := decide) only [lo_of, hi_of, BitVec.extractLsb'_eq_self, Nat.reduceSub, Nat.sub_self])
  refine ⟨by rw [hm]; rfl, ?_⟩
  show rawDecodeV _ = _
  unfold rawDecodeV; rw [hm]
  show Except.ok _ = _
  simp (disch := decide) only [lo_of, hi_of, BitVec.extractLsb'_eq_self, Nat.reduceSub, Nat.sub_self, he]

theorem fp32ScalarForms (w : BitVec 2) (d : BitVec 6) (a : BitVec 6) (p : BitVec 2) (s : BitVec 5) (f : BitVec 4) : Statement (.fp32ScalarForms w d a p s f) := by
  rintro kk ⟨⟩
  have he : ∀ lo len, fld (encode (.fp32ScalarForms w d a p s f)) lo len = @BitVec.extractLsb' (7+2+6+6+2+5+4) lo len (0xE#7 ++ w ++ d ++ a ++ p ++ s ++ f) := fun _ _ => rfl
  have hm : major (encode (.fp32ScalarForms w d a p s f)) = 0xE := congrArg BitVec.toNat (show _ = 0xE#7 by rw [he]; simp (disch := decide) only [lo_of, hi_of, BitVec.extractLsb'_eq_self, Nat.reduceSub, Nat.sub_self])
  refine ⟨by rw [hm]; rfl, ?_⟩
  show rawDecodeV _ = _
  unfold rawDecodeV; rw [hm]
  show Except.ok _ = _
  simp (disch := decide) only [lo_of, hi_of, BitVec.extractLsb'_eq_self, Nat.reduceSub, Nat.sub_self, he]

theorem viadd (w : BitVec 2) (d : BitVec 6) (a : BitVec 6) (p : BitVec 2) (b : BitVec 6) (q : BitVec 2) : Statement (.viadd w d a p b q) := by
  rintro kk ⟨⟩
  have he : ∀ lo len, fld (encode (.viadd w d a p b q)) lo len = @BitVec.extractLsb' (7+2+6+6+2+6+2+1) lo len (0x10#7 ++ w ++ d ++ a ++ p ++ b ++ q ++ 0x0#1) := fun _ _ => rfl
  have hm : major (encode (.viadd w d a p b q)) = 0x10 := congrArg BitVec.toNat (show _ = 0x10#7 by rw [he]; simp (disch := decide) only [lo_of, hi_of, BitVec.extractLsb'_eq_self, Nat.reduceSub, Nat.sub_self])
  refine ⟨by rw [hm]; rfl, ?_⟩
  show rawDecodeV _ = _
  unfold rawDecodeV; rw [hm]
  show (if _ then _ else _) = _
  simp (disch := decide) only [lo_of, hi_of, BitVec.extractLsb'_eq_self, Nat.reduceSub, Nat.sub_self, he]
  rfl

theorem visub (w : BitVec 2) (d : BitVec 6) (a : BitVec 6) (p : BitVec 2) (b : BitVec 6) (q : BitVec 2) : Statement (.visub w d a p b q) := by
  rintro kk ⟨⟩
  have he : ∀ lo len, fld (encode (.visub w d a p b q)) lo len = @BitVec.extractLsb' (7+2+6+6+2+6+2+1) lo len (0x11#7 ++ w ++ d ++ a ++ p ++ b ++ q ++ 0x0#1) := fun _ _ => rfl
  have hm : major (encode (.visub w d a p b q)) = 0x11 := congrArg BitVec.toNat (show _ = 0x11#7 by rw [he]; simp (disch := decide) only [lo_of, hi_of, BitVec.extractLsb'_eq_self, Nat.reduceSub, Nat.sub_self])
  refine ⟨by rw [hm]; rfl, ?_⟩
  show rawDecodeV _ = _
  unfold rawDecodeV; rw [hm]
  show (if _ then _ else _) = _
  simp (disch := decide) only [lo_of, hi_of, BitVec.extractLsb'_eq_self, Nat.reduceSub, Nat.sub_self, he]
  rfl

theorem vimul (w : BitVec 2) (d : BitVec 6) (a : BitVec 6) (p : BitVec 2) (b : BitVec 6) (q : BitVec 2) : Statement (.vimul w d a p b q) := by
  rintro kk ⟨⟩
  have he : ∀ lo len, fld (encode (.vimul w d a p b q)) lo len = @BitVec.extractLsb' (7+2+6+6+2+6+2+1) lo len (0x12#7 ++ w ++ d ++ a ++ p ++ b ++ q ++ 0x0#1) := fun _ _ => rfl
  have hm : major (encode (.vimul w d a p b q)) = 0x12 := congrArg BitVec.toNat (show _ = 0x12#7 by rw [he]; simp (disch := decide) only [lo_of, hi_of, BitVec.extractLsb'_eq_self, Nat.reduceSub, Nat.sub_self])
  refine ⟨by rw [hm]; rfl, ?_⟩
  show rawDecodeV _ = _
  unfold rawDecodeV; rw [hm]
  show (if _ then _ else _) = _
  simp (disch := decide) only [lo_of, hi_of, BitVec.extractLsb'_eq_self, Nat.reduceSub, Nat.sub_self, he]
  rfl

theorem vand (w : BitVec 2) (d : BitVec 6) (a : BitVec 6) (p : BitVec 2) (b : BitVec 6) (q : BitVec 2) : Statement (.vand w d a p b q) := by
  rintro kk ⟨⟩
  have he : ∀ lo len, fld (encode (.vand w d a p b q)) lo len = @BitVec.extractLsb' (7+2+6+6+2+6+2+1) lo len (0x13#7 ++ w ++ d ++ a ++ p ++ b ++ q ++ 0x0#1) := fun _ _ => rfl
  have hm : major (encode (.vand w d a p b q)) = 0x13 := congrArg BitVec.toNat (show _ = 0x13#7 by rw [he]; simp (disch := decide) only [lo_of, hi_of, BitVec.extractLsb'_eq_self, Nat.reduceSub, Nat.sub_self])
  refine ⟨by rw [hm]; rfl, ?_⟩
  show rawDecodeV _ = _
  unfold rawDecodeV; rw [hm]
  show (if _ then _ else _) = _
  simp (disch := decide) only [lo_of, hi_of, BitVec.extractLsb'_eq_self, Nat.reduceSub, Nat.sub_self, he]
  rfl

theorem vor (w : BitVec 2) (d : BitVec 6) (a : BitVec 6) (p : BitVec 2) (b : BitVec 6) (q : BitVec 2) : Statement (.vor w d a p b q) := by
  rintro kk ⟨⟩
  have he : ∀ lo len, fld (encode (.vor w d a p b q)) lo len = @BitVec.extractLsb' (7+2+6+6+2+6+2+1) lo len (0x14#7 ++ w ++ d ++ a ++ p ++ b ++ q ++ 0x0#1) := fun _ _ => rfl
  have hm : major (encode (.vor w d a p b q)) = 0x14 := congrArg BitVec.toNat (show _ = 0x14#7 by rw [he]; simp (disch := decide) only [lo_of, hi_of, BitVec.extractLsb'_eq_self, Nat.reduceSub, Nat.sub_self])
  refine ⟨by rw [hm]; rfl, ?_⟩
  show rawDecodeV _ = _
  unfold rawDecodeV; rw [hm]
  show (if _ then _ else _) = _
  simp (disch := decide) only [lo_of, hi_of, BitVec.extractLsb'_eq_self, Nat.reduceSub, Nat.sub_self, he]
  rfl

theorem vxor (w : BitVec 2) (d : BitVec 6) (a : BitVec 6) (p : BitVec 2) (b : BitVec 6) (q : BitVec 2) : Statement (.vxor w d a p b q) := by
  rintro kk ⟨⟩
  have he : ∀ lo len, fld (encode (.vxor w d a p b q)) lo len = @BitVec.extractLsb' (7+2+6+6+2+6+2+1) lo len (0x15#7 ++ w ++ d ++ a ++ p ++ b ++ q ++ 0x0#1) := fun _ _ => rfl
  have hm : major (encode (.vxor w d a p b q)) = 0x15 := congrArg BitVec.toNat (show _ = 0x15#7 by rw [he]; simp (disch := decide) only [lo_of, hi_of, BitVec.extractLsb'_eq_self, Nat.reduceSub, Nat.sub_self])
  refine ⟨by rw [hm]; rfl, ?_⟩
  show rawDecodeV _ = _
  unfold rawDecodeV; rw [hm]
  show (if _ then _ else _) = _
  simp (disch := decide) only [lo_of, hi_of, BitVec.extractLsb'_eq_self, Nat.reduceSub, Nat.sub_self, he]
  rfl

theorem vshl (w : BitVec 2) (d : BitVec 6) (a : BitVec 6) (p : BitVec 2) (b : BitVec 6) (q : BitVec 2) : Statement (.vshl w d a p b q) := by
  rintro kk ⟨⟩
  have he : ∀ lo len, fld (encode (.vshl w d a p b q)) lo len = @BitVec.extractLsb' (7+2+6+6+2+6+2+1) lo len (0x16#7 ++ w ++ d ++ a ++ p ++ b ++ q ++ 0x0#1) := fun _ _ => rfl
  have hm : major (encode (.vshl w d a p b q)) = 0x16 := congrArg BitVec.toNat (show _ = 0x16#7 by rw [he]; simp (disch := decide) only [lo_of, hi_of, BitVec.extractLsb'_eq_self, Nat.reduceSub, Nat.sub_self])
  refine ⟨by rw [hm]; rfl, ?_⟩
  show rawDecodeV _ = _
  unfold rawDecodeV; rw [hm]
  show (if _ then _ else _) = _
  simp (disch := decide) only [lo_of, hi_of, BitVec.extractLsb'_eq_self, Nat.reduceSub, Nat.sub_self, he]
  rfl

theorem vshr (w : BitVec 2) (d : BitVec 6) (a : BitVec 6) (p : BitVec 2) (b : BitVec 6) (q : BitVec 2) : Statement (.vshr w d a p b q) := by
  rintro kk ⟨⟩
  have he : ∀ lo len, fld (encode (.vshr w d a p b q)) lo len = @BitVec.extractLsb' (7+2+6+6+2+6+2+1) lo len (0x17#7 ++ w ++ d ++ a ++ p ++ b ++ q ++ 0x0#1) := fun _ _ => rfl
  have hm : major (encode (.vshr w d a p b q)) = 0x17 := congrArg BitVec.toNat (show _ = 0x17#7 by rw [he]; simp (disch := decide) only [lo_of, hi_of, BitVec.extractLsb'_eq_self, Nat.reduceSub, Nat.sub_self])
  refine ⟨by rw [hm]; rfl, ?_⟩
  show rawDecodeV _ = _
  unfold rawDecodeV; rw [hm]
  show (if _ then _ else _) = _
  simp (disch := decide) only [lo_of, hi_of, BitVec.extractLsb'_eq_self, Nat.reduceSub, Nat.sub_self, he]
  rfl

theorem vshrA (w : BitVec 2) (d : BitVec 6) (a : BitVec 6) (p : BitVec 2) (b : BitVec 6) (q : BitVec 2) : Statement (.vshrA w d a p b q) := by
  rintro kk ⟨⟩
  have he : ∀ lo len, fld (encode (.vshrA w d a p b q)) lo len = @BitVec.extractLsb' (7+2+6+6+2+6+2+1) lo len (0x18#7 ++ w ++ d ++ a ++ p ++ b ++ q ++ 0x0#1) := fun _ _ => rfl
  have hm : major (encode (.vshrA w d a p b q)) = 0x18 := congrArg BitVec.toNat (show _ = 0x18#7 by rw [he]; simp (disch := decide) only [lo_of, hi_of, BitVec.extractLsb'_eq_self, Nat.reduceSub, Nat.sub_self])
  refine ⟨by rw [hm]; rfl, ?_⟩
  show rawDecodeV _ = _
  unfold rawDecodeV; rw [hm]
  show (if _ then _ else _) = _
  simp (disch := decide) only [lo_of, hi_of, BitVec.extractLsb'_eq_self, Nat.reduceSub, Nat.sub_self, he]
  rfl

theorem vimin (w : BitVec 2) (d : BitVec 6) (a : BitVec 6) (p : BitVec 2) (b : BitVec 6) (q : BitVec 2) : Statement (.vimin w d a p b q) := by
  rintro kk ⟨⟩
  have he : ∀ lo len, fld (encode (.vimin w d a p b q)) lo len = @BitVec.extractLsb' (7+2+6+6+2+6+2+1) lo len (0x19#7 ++ w ++ d ++ a ++ p ++ b ++ q ++ 0x0#1) := fun _ _ => rfl
  have hm : major (encode (.vimin w d a p b q)) = 0x19 := congrArg BitVec.toNat (show _ = 0x19#7 by rw [he]; simp (disch := decide) only [lo_of, hi_of, BitVec.extractLsb'_eq_self, Nat.reduceSub, Nat.sub_self])
  refine ⟨by rw [hm]; rfl, ?_⟩
  show rawDecodeV _ = _
  unfold rawDecodeV; rw [hm]
  show (if _ then _ else _) = _
  simp (disch := decide) only [lo_of, hi_of, BitVec.extractLsb'_eq_self, Nat.reduceSub, Nat.sub_self, he]
  rfl

theorem vimax (w : BitVec 2) (d : BitVec 6) (a : BitVec 6) (p : BitVec 2) (b : BitVec 6) (q : BitVec 2) : Statement (.vimax w d a p b q) := by
  rintro kk ⟨⟩
  have he : ∀ lo len, fld (encode (.vimax w d a p b q)) lo len = @BitVec.extractLsb' (7+2+6+6+2+6+2+1) lo len (0x1A#7 ++ w ++ d ++ a ++ p ++ b ++ q ++ 0x0#1) := fun _ _ => rfl
  have hm : major (encode (.vimax w d a p b q)) = 0x1A := congrArg BitVec.toNat (show _ = 0x1A#7 by rw [he]; simp (disch := decide) only [lo_of, hi_of, BitVec.extractLsb'_eq_self, Nat.reduceSub, Nat.sub_self])
  refine ⟨by rw [hm]; rfl, ?_⟩
  show rawDecodeV _ = _
  unfold rawDecodeV; rw [hm]
  show (if _ then _ else _) = _
  simp (disch := decide) only [lo_of, hi_of, BitVec.extractLsb'_eq_self, Nat.reduceSub, Nat.sub_self, he]
  rfl

theorem viminU (w : BitVec 2) (d : BitVec 6) (a : BitVec 6) (p : BitVec 2) (b : BitVec 6) (q : BitVec 2) : Statement (.viminU w d a p b q) := by
  rintro kk ⟨⟩
  have he : ∀ lo len, fld (encode (.viminU w d a p b q)) lo len = @BitVec.extractLsb' (7+2+6+6+2+6+2+1) lo len (0x1B#7 ++ w ++ d ++ a ++ p ++ b ++ q ++ 0x0#1) := fun _ _ => rfl
  have hm : major (encode (.viminU w d a p b q)) = 0x1B := congrArg BitVec.toNat (show _ = 0x1B#7 by rw [he]; simp (disch := decide) only [lo_of, hi_of, BitVec.extractLsb'_eq_self, Nat.reduceSub, Nat.sub_self])
  refine ⟨by rw [hm]; rfl, ?_⟩
  show rawDecodeV _ = _
  unfold rawDecodeV; rw [hm]
  show (if _ then _ else _) = _
  simp (disch := decide) only [lo_of, hi_of, BitVec.extractLsb'_eq_self, Nat.reduceSub, Nat.sub_self, he]
  rfl

theorem vimaxU (w : BitVec 2) (d : BitVec 6) (a : BitVec 6) (p : BitVec 2) (b : BitVec 6) (q : BitVec 2) : Statement (.vimaxU w d a p b q) := by
  rintro kk ⟨⟩
  have he : ∀ lo len, fld (encode (.vimaxU w d a p b q)) lo len = @BitVec.extractLsb' (7+2+6+6+2+6+2+1) lo len (0x1C#7 ++ w ++ d ++ a ++ p ++ b ++ q ++ 0x0#1) := fun _ _ => rfl
  have hm : major (encode (.vimaxU w d a p b q)) = 0x1C := congrArg BitVec.toNat (show _ = 0x1C#7 by rw [he]; simp (disch := decide) only [lo_of, hi_of, BitVec.extractLsb'_eq_self, Nat.reduceSub, Nat.sub_self])
  refine ⟨by rw [hm]; rfl, ?_⟩
  show rawDecodeV _ = _
  unfold rawDecodeV; rw [hm]
  show (if _ then _ else _) = _
  simp (disch := decide) only [lo_of, hi_of, BitVec.extractLsb'_eq_self, Nat.reduceSub, Nat.sub_self, he]
  rfl

theorem int32MaskedForms (w : BitVec 2) (d : BitVec 6) (p : BitVec 2) (b : BitVec 6) (q : BitVec 2) (k : BitVec 3) (f : BitVec 4) : Statement (.int32MaskedForms w d p b q k f) := by
  rintro kk ⟨⟩
  have he : ∀ lo len, fld (encode (.int32MaskedForms w d p b q k f)) lo len = @BitVec.extractLsb' (7+2+6+2+6+2+3+4) lo len (0x1D#7 ++ w ++ d ++ p ++ b ++ q ++ k ++ f) := fun _ _ => rfl
  have hm : major (encode (.int32MaskedForms w d p b q k f)) = 0x1D := congrArg BitVec.toNat (show _ = 0x1D#7 by rw [he]; simp (disch := decide) only [lo_of, hi_of, BitVec.extractLsb'_eq_self, Nat.reduceSub, Nat.sub_self])
  refine ⟨by rw [hm]; rfl, ?_⟩
  show rawDecodeV _ = _
  unfold rawDecodeV; rw [hm]
  show Except.ok _ = _
  simp (disch := decide) only [lo_of, hi_of, BitVec.extractLsb'_eq_self, Nat.reduceSub, Nat.sub_self, he]

theorem int32ScalarForms (w : BitVec 2) (d : BitVec 6) (a : BitVec 6) (p : BitVec 2) (s : BitVec 5) (f : BitVec 4) : Statement (.int32ScalarForms w d a p s f) := by
  rintro kk ⟨⟩
  have he : ∀ lo len, fld (encode (.int32ScalarForms w d a p s f)) lo len = @BitVec.extractLsb' (7+2+6+6+2+5+4) lo len (0x1E#7 ++ w ++ d ++ a ++ p ++ s ++ f) := fun _ _ => rfl
  have hm : major (encode (.int32ScalarForms w d a p s f)) = 0x1E := congrArg BitVec.toNat (show _ = 0x1E#7 by rw [he]; simp (disch := decide) only [lo_of, hi_of, BitVec.extractLsb'_eq_self, Nat.reduceSub, Nat.sub_self])
  refine ⟨by rw [hm]; rfl, ?_⟩
  show rawDecodeV _ = _
  unfold rawDecodeV; rw [hm]
  show Except.ok _ = _
  simp (disch := decide) only [lo_of, hi_of, BitVec.extractLsb'_eq_self, Nat.reduceSub, Nat.sub_self, he]

theorem vcmp (w : BitVec 2) (m : BitVec 3) (a : BitVec 6) (p : BitVec 2) (b : BitVec 6) (q : BitVec 2) (i : BitVec 1) (c : BitVec 3) : Statement (.vcmp w m a p b q i c) := by
  rintro kk ⟨⟩
  have he : ∀ lo len, fld (encode (.vcmp w m a p b q i c)) lo len = @BitVec.extractLsb' (7+2+3+6+2+6+2+1+3) lo len (0x20#7 ++ w ++ m ++ a ++ p ++ b ++ q ++ i ++ c) := fun _ _ => rfl
  have hm : major (encode (.vcmp w m a p b q i c)) = 0x20 := congrArg BitVec.toNat (show _ = 0x20#7 by rw [he]; simp (disch := decide) only [lo_of, hi_of, BitVec.extractLsb'_eq_self, Nat.reduceSub, Nat.sub_self])
  refine ⟨by rw [hm]; rfl, ?_⟩
  show rawDecodeV _ = _
  unfold rawDecodeV; rw [hm]
  show Except.ok _ = _
  simp (disch := decide) only [lo_of, hi_of, BitVec.extractLsb'_eq_self, Nat.reduceSub, Nat.sub_self, he]

theorem vcmpScalar (w : BitVec 2) (m : BitVec 3) (a : BitVec 6) (p : BitVec 2) (s : BitVec 5) (i : BitVec 1) (c : BitVec 3) : Statement (.vcmpScalar w m a p s i c) := by
  rintro kk ⟨⟩
  have he : ∀ lo len, fld (encode (.vcmpScalar w m a p s i c)) lo len = @BitVec.extractLsb' (7+2+3+6+2+5+3+1+3) lo len (0x21#7 ++ w ++ m ++ a ++ p ++ s ++ 0x0#3 ++ i ++ c) := fun _ _ => rfl
  have hm : major (encode (.vcmpScalar w m a p s i c)) = 0x21 := congrArg BitVec.toNat (show _ = 0x21#7 by rw [he]; simp (disch := decide) only [lo_of, hi_of, BitVec.extractLsb'_eq_self, Nat.reduceSub, Nat.sub_self])
  refine ⟨by rw [hm]; rfl, ?_⟩
  show rawDecodeV _ = _
  unfold rawDecodeV; rw [hm]
  show (if _ then _ else _) = _
  simp (disch := decide) only [lo_of, hi_of, BitVec.extractLsb'_eq_self, Nat.reduceSub, Nat.sub_self, he]
  rfl

theorem vsel (w : BitVec 2) (d : BitVec 6) (p : BitVec 2) (b : BitVec 6) (q : BitVec 2) (k : BitVec 3) : Statement (.vsel w d p b q k) := by
  rintro kk ⟨⟩
  have he : ∀ lo len, fld (encode (.vsel w d p b q k)) lo len = @BitVec.extractLsb' (7+2+6+2+6+2+3+4) lo len (0x22#7 ++ w ++ d ++ p ++ b ++ q ++ k ++ 0x0#4) := fun _ _ => rfl
  have hm : major (encode (.vsel w d p b q k)) = 0x22 := congrArg BitVec.toNat (show _ = 0x22#7 by rw [he]; simp (disch := decide) only [lo_of, hi_of, BitVec.extractLsb'_eq_self, Nat.reduceSub, Nat.sub_self])
  refine ⟨by rw [hm]; rfl, ?_⟩
  show rawDecodeV _ = _
  unfold rawDecodeV; rw [hm]
  show (if _ then _ else _) = _
  simp (disch := decide) only [lo_of, hi_of, BitVec.extractLsb'_eq_self, Nat.reduceSub, Nat.sub_self, he]
  rfl

theorem mand (w : BitVec 2) (d : BitVec 3) (a : BitVec 3) (b : BitVec 3) : Statement (.mand w d a b) := by
  rintro kk ⟨⟩
  have he : ∀ lo len, fld (encode (.mand w d a b)) lo len = @BitVec.extractLsb' (7+2+3+3+3+14) lo len (0x23#7 ++ w ++ d ++ a ++ b ++ 0x0#14) := fun _ _ => rfl
  have hm : major (encode (.mand w d a b)) = 0x23 := congrArg BitVec.toNat (show _ = 0x23#7 by rw [he]; simp (disch := decide) only [lo_of, hi_of, BitVec.extractLsb'_eq_self, Nat.reduceSub, Nat.sub_self])
  refine ⟨by rw [hm]; rfl, ?_⟩
  show rawDecodeV _ = _
  unfold rawDecodeV; rw [hm]
  show (if _ then _ else _) = _
  simp (disch := decide) only [lo_of, hi_of, BitVec.extractLsb'_eq_self, Nat.reduceSub, Nat.sub_self, he]
  rfl

theorem mor (w : BitVec 2) (d : BitVec 3) (a : BitVec 3) (b : BitVec 3) : Statement (.mor w d a b) := by
  rintro kk ⟨⟩
  have he : ∀ lo len, fld (encode (.mor w d a b)) lo len = @BitVec.extractLsb' (7+2+3+3+3+14) lo len (0x24#7 ++ w ++ d ++ a ++ b ++ 0x0#14) := fun _ _ => rfl
  have hm : major (encode (.mor w d a b)) = 0x24 := congrArg BitVec.toNat (show _ = 0x24#7 by rw [he]; simp (disch := decide) only [lo_of, hi_of, BitVec.extractLsb'_eq_self, Nat.reduceSub, Nat.sub_self])
  refine ⟨by rw [hm]; rfl, ?_⟩
  show rawDecodeV _ = _
  unfold rawDecodeV; rw [hm]
  show (if _ then _ else _) = _
  simp (disch := decide) only [lo_of, hi_of, BitVec.extractLsb'_eq_self, Nat.reduceSub, Nat.sub_self, he]
  rfl

theorem mxor (w : BitVec 2) (d : BitVec 3) (a : BitVec 3) (b : BitVec 3) : Statement (.mxor w d a b) := by
  rintro kk ⟨⟩
  have he : ∀ lo len, fld (encode (.mxor w d a b)) lo len = @BitVec.extractLsb' (7+2+3+3+3+14) lo len (0x25#7 ++ w ++ d ++ a ++ b ++ 0x0#14) := fun _ _ => rfl
  have hm : major (encode (.mxor w d a b)) = 0x25 := congrArg BitVec.toNat (show _ = 0x25#7 by rw [he]; simp (disch := decide) only [lo_of, hi_of, BitVec.extractLsb'_eq_self, Nat.reduceSub, Nat.sub_self])
  refine ⟨by rw [hm]; rfl, ?_⟩
  show rawDecodeV _ = _
  unfold rawDecodeV; rw [hm]
  show (if _ then _ else _) = _
  simp (disch := decide) only [lo_of, hi_of, BitVec.extractLsb'_eq_self, Nat.reduceSub, Nat.sub_self, he]
  rfl

theorem mnot (w : BitVec 2) (d : BitVec 3) (a : BitVec 3) : Statement (.mnot w d a) := by
  rintro kk ⟨⟩
  have he : ∀ lo len, fld (encode (.mnot w d a)) lo len = @BitVec.extractLsb' (7+2+3+3+17) lo len (0x26#7 ++ w ++ d ++ a ++ 0x0#17) := fun _ _ => rfl
  have hm : major (encode (.mnot w d a)) = 0x26 := congrArg BitVec.toNat (show _ = 0x26#7 by rw [he]; simp (disch := decide) only [lo_of, hi_of, BitVec.extractLsb'_eq_self, Nat.reduceSub, Nat.sub_self])
  refine ⟨by rw [hm]; rfl, ?_⟩
  show rawDecodeV _ = _
  unfold rawDecodeV; rw [hm]
  show (if _ then _ else _) = _
  simp (disch := decide) only [lo_of, hi_of, BitVec.extractLsb'_eq_self, Nat.reduceSub, Nat.sub_self, he]
  rfl

theorem mcnt (w : BitVec 2) (d : BitVec 5) (a : BitVec 3) : Statement (.mcnt w d a) := by
  rintro kk ⟨⟩
  have he : ∀ lo len, fld (encode (.mcnt w d a)) lo len = @BitVec.extractLsb' (7+2+5+3+15) lo len (0x27#7 ++ w ++ d ++ a ++ 0x0#15) := fun _ _ => rfl
  have hm : major (encode (.mcnt w d a)) = 0x27 := congrArg BitVec.toNat (show _ = 0x27#7 by rw [he]; simp (disch := decide) only [lo_of, hi_of, BitVec.extractLsb'_eq_self, Nat.reduceSub, Nat.sub_self])
  refine ⟨by rw [hm]; rfl, ?_⟩
  show rawDecodeV _ = _
  unfold rawDecodeV; rw [hm]
  show (if _ then _ else _) = _
  simp (disch := decide) only [lo_of, hi_of, BitVec.extractLsb'_eq_self, Nat.reduceSub, Nat.sub_self, he]
  rfl

theorem vcoal (w : BitVec 2) (d : BitVec 6) (a : BitVec 6) (p : BitVec 2) (z : BitVec 1) (m : BitVec 1) : Statement (.vcoal w d a p z m) := by
  rintro kk ⟨⟩
  have he : ∀ lo len, fld (encode (.vcoal w d a p z m)) lo len = @BitVec.extractLsb' (7+2+6+6+2+1+1+7) lo len (0x30#7 ++ w ++ d ++ a ++ p ++ z ++ m ++ 0x0#7) := fun _ _ => rfl
  have hm : major (encode (.vcoal w d a p z m)) = 0x30 := congrArg BitVec.toNat (show _ = 0x30#7 by rw [he]; simp (disch := decide) only [lo_of, hi_of, BitVec.extractLsb'_eq_self, Nat.reduceSub, Nat.sub_self])
  refine ⟨by rw [hm]; rfl, ?_⟩
  show rawDecodeV _ = _
  unfold rawDecodeV; rw [hm]
  show (if _ then _ else _) = _
  simp (disch := decide) only [lo_of, hi_of, BitVec.extractLsb'_eq_self, Nat.reduceSub, Nat.sub_self, he]
  rfl

theorem vlen (w : BitVec 2) (d : BitVec 5) (a : BitVec 6) (p : BitVec 2) (q : BitVec 2) (m : BitVec 1) : Statement (.vlen w d a p q m) := by
  rintro kk ⟨⟩
  have he : ∀ lo len, fld (encode (.vlen w d a p q m)) lo len = @BitVec.extractLsb' (7+2+5+6+2+2+1+7) lo len (0x31#7 ++ w ++ d ++ a ++ p ++ q ++ m ++ 0x0#7) := fun _ _ => rfl
  have hm : major (encode (.vlen w d a p q m)) = 0x31 := congrArg BitVec.toNat (show _ = 0x31#7 by rw [he]; simp (disch := decide) only [lo_of, hi_of, BitVec.extractLsb'_eq_self, Nat.reduceSub, Nat.sub_self])
  refine ⟨by rw [hm]; rfl, ?_⟩
  show rawDecodeV _ = _
  unfold rawDecodeV; rw [hm]
  show (if _ then _ else _) = _
  simp (disch := decide) only [lo_of, hi_of, BitVec.extractLsb'_eq_self, Nat.reduceSub, Nat.sub_self, he]
  rfl

theorem vsplat (w : BitVec 2) (d : BitVec 6) (s : BitVec 5) (n : BitVec 5) (m : BitVec 1) (v : BitVec 1) : Statement (.vsplat w d s n m v) := by
  rintro kk ⟨⟩
  have he : ∀ lo len, fld (encode (.vsplat w d s n m v)) lo len = @BitVec.extractLsb' (7+2+6+5+5+1+1+5) lo len (0x32#7 ++ w ++ d ++ s ++ n ++ m ++ v ++ 0x0#5) := fun _ _ => rfl
  have hm : major (encode (.vsplat w d s n m v)) = 0x32 := congrArg BitVec.toNat (show _ = 0x32#7 by rw [he]; simp (disch := decide) only [lo_of, hi_of, BitVec.extractLsb'_eq_self, Nat.reduceSub, Nat.sub_self])
  refine ⟨by rw [hm]; rfl, ?_⟩
  show rawDecodeV _ = _
  unfold rawDecodeV; rw [hm]
  show (if _ then _ else _) = _
  simp (disch := decide) only [lo_of, hi_of, BitVec.extractLsb'_eq_self, Nat.reduceSub, Nat.sub_self, he]
  rfl

theorem viota (w : BitVec 2) (d : BitVec 6) (s : BitVec 5) (n : BitVec 5) : Statement (.viota w d s n) := by
  rintro kk ⟨⟩
  have he : ∀ lo len, fld (encode (.viota w d s n)) lo len = @BitVec.extractLsb' (7+2+6+5+5+7) lo len (0x33#7 ++ w ++ d ++ s ++ n ++ 0x0#7) := fun _ _ => rfl
  have hm : major (encode (.viota w d s n)) = 0x33 := congrArg BitVec.toNat (show _ = 0x33#7 by rw [he]; simp (disch := decide) only [lo_of, hi_of, BitVec.extractLsb'_eq_self, Nat.reduceSub, Nat.sub_self])
  refine ⟨by rw [hm]; rfl, ?_⟩
  show rawDecodeV _ = _
  unfold rawDecodeV; rw [hm]
  have hn0 : (fld (encode (.viota w d s n)) 0 9 == 0x1) = false :=
    fld_bne _ 0 9 0 7 _ (by rw [he]; simp (disch := decide) only [lo_of, hi_of, BitVec.extractLsb'_eq_self, Nat.reduceSub, Nat.sub_self]; decide) (by decide)
  show (if _ then _ else _) = _
  simp only [hn0, Bool.false_and, Bool.and_false, Bool.false_eq_true, ite_false]
  simp (disch := decide) only [lo_of, hi_of, BitVec.extractLsb'_eq_self, Nat.reduceSub, Nat.sub_self, he]
  rfl

theorem viotaSeg (w : BitVec 2) (d : BitVec 6) (a : BitVec 6) (p : BitVec 2) : Statement (.viotaSeg w d a p) := by
  rintro kk ⟨⟩
  have he : ∀ lo len, fld (encode (.viotaSeg w d a p)) lo len = @BitVec.extractLsb' (7+2+6+6+2+9) lo len (0x33#7 ++ w ++ d ++ a ++ p ++ 0x1#9) := fun _ _ => rfl
  have hm : major (encode (.viotaSeg w d a p)) = 0x33 := congrArg BitVec.toNat (show _ = 0x33#7 by rw [he]; simp (disch := decide) only [lo_of, hi_of, BitVec.extractLsb'_eq_self, Nat.reduceSub, Nat.sub_self])
  refine ⟨by rw [hm]; rfl, ?_⟩
  show rawDecodeV _ = _
  unfold rawDecodeV; rw [hm]
  show (if _ then _ else _) = _
  simp (disch := decide) only [lo_of, hi_of, BitVec.extractLsb'_eq_self, Nat.reduceSub, Nat.sub_self, he]
  rfl

theorem vslice (w : BitVec 2) (d : BitVec 6) (a : BitVec 6) (p : BitVec 2) (s : BitVec 5) : Statement (.vslice w d a p s) := by
  rintro kk ⟨⟩
  have he : ∀ lo len, fld (encode (.vslice w d a p s)) lo len = @BitVec.extractLsb' (7+2+6+6+2+5+4) lo len (0x34#7 ++ w ++ d ++ a ++ p ++ s ++ 0x0#4) := fun _ _ => rfl
  have hm : major (encode (.vslice w d a p s)) = 0x34 := congrArg BitVec.toNat (show _ = 0x34#7 by rw [he]; simp (disch := decide) only [lo_of, hi_of, BitVec.extractLsb'_eq_self, Nat.reduceSub, Nat.sub_self])
  refine ⟨by rw [hm]; rfl, ?_⟩
  show rawDecodeV _ = _
  unfold rawDecodeV; rw [hm]
  show (if _ then _ else _) = _
  simp (disch := decide) only [lo_of, hi_of, BitVec.extractLsb'_eq_self, Nat.reduceSub, Nat.sub_self, he]
  rfl

theorem vcat (w : BitVec 2) (d : BitVec 6) (a : BitVec 6) (p : BitVec 2) (b : BitVec 6) (q : BitVec 2) : Statement (.vcat w d a p b q) := by
  rintro kk ⟨⟩
  have he : ∀ lo len, fld (encode (.vcat w d a p b q)) lo len = @BitVec.extractLsb' (7+2+6+6+2+6+2+1) lo len (0x35#7 ++ w ++ d ++ a ++ p ++ b ++ q ++ 0x0#1) := fun _ _ => rfl
  have hm : major (encode (.vcat w d a p b q)) = 0x35 := congrArg BitVec.toNat (show _ = 0x35#7 by rw [he]; simp (disch := decide) only [lo_of, hi_of, BitVec.extractLsb'_eq_self, Nat.reduceSub, Nat.sub_self])
  refine ⟨by rw [hm]; rfl, ?_⟩
  show rawDecodeV _ = _
  unfold rawDecodeV; rw [hm]
  show (if _ then _ else _) = _
  simp (disch := decide) only [lo_of, hi_of, BitVec.extractLsb'_eq_self, Nat.reduceSub, Nat.sub_self, he]
  rfl

theorem vpick (w : BitVec 2) (d : BitVec 6) (a : BitVec 6) (p : BitVec 2) (b : BitVec 6) (q : BitVec 2) : Statement (.vpick w d a p b q) := by
  rintro kk ⟨⟩
  have he : ∀ lo len, fld (encode (.vpick w d a p b q)) lo len = @BitVec.extractLsb' (7+2+6+6+2+6+2+1) lo len (0x36#7 ++ w ++ d ++ a ++ p ++ b ++ q ++ 0x0#1) := fun _ _ => rfl
  have hm : major (encode (.vpick w d a p b q)) = 0x36 := congrArg BitVec.toNat (show _ = 0x36#7 by rw [he]; simp (disch := decide) only [lo_of, hi_of, BitVec.extractLsb'_eq_self, Nat.reduceSub, Nat.sub_self])
  refine ⟨by rw [hm]; rfl, ?_⟩
  show rawDecodeV _ = _
  unfold rawDecodeV; rw [hm]
  show (if _ then _ else _) = _
  simp (disch := decide) only [lo_of, hi_of, BitVec.extractLsb'_eq_self, Nat.reduceSub, Nat.sub_self, he]
  rfl

theorem vsegset (w : BitVec 2) (d : BitVec 6) (a : BitVec 6) (p : BitVec 2) (k : BitVec 3) : Statement (.vsegset w d a p k) := by
  rintro kk ⟨⟩
  have he : ∀ lo len, fld (encode (.vsegset w d a p k)) lo len = @BitVec.extractLsb' (7+2+6+6+2+5+3+1) lo len (0x37#7 ++ w ++ d ++ a ++ p ++ 0x1#5 ++ k ++ 0x0#1) := fun _ _ => rfl
  have hm : major (encode (.vsegset w d a p k)) = 0x37 := congrArg BitVec.toNat (show _ = 0x37#7 by rw [he]; simp (disch := decide) only [lo_of, hi_of, BitVec.extractLsb'_eq_self, Nat.reduceSub, Nat.sub_self])
  refine ⟨by rw [hm]; rfl, ?_⟩
  show rawDecodeV _ = _
  unfold rawDecodeV; rw [hm]
  show (if _ then _ else _) = _
  simp (disch := decide) only [lo_of, hi_of, BitVec.extractLsb'_eq_self, Nat.reduceSub, Nat.sub_self, he]
  rfl

theorem vsegclr (w : BitVec 2) (d : BitVec 6) (a : BitVec 6) (p : BitVec 2) (m : BitVec 1) (k : BitVec 3) : Statement (.vsegclr w d a p m k) := by
  rintro kk ⟨⟩
  have he : ∀ lo len, fld (encode (.vsegclr w d a p m k)) lo len = @BitVec.extractLsb' (7+2+6+6+2+4+1+3+1) lo len (0x38#7 ++ w ++ d ++ a ++ p ++ 0x0#4 ++ m ++ k ++ 0x0#1) := fun _ _ => rfl
  have hm : major (encode (.vsegclr w d a p m k)) = 0x38 := congrArg BitVec.toNat (show _ = 0x38#7 by rw [he]; simp (disch := decide) only [lo_of, hi_of, BitVec.extractLsb'_eq_self, Nat.reduceSub, Nat.sub_self])
  refine ⟨by rw [hm]; rfl, ?_⟩
  show rawDecodeV _ = _
  unfold rawDecodeV; rw [hm]
  show (if _ then _ else _) = _
  simp (disch := decide) only [lo_of, hi_of, BitVec.extractLsb'_eq_self, Nat.reduceSub, Nat.sub_self, he]
  rfl

theorem vspread (w : BitVec 2) (d : BitVec 6) (a : BitVec 6) (p : BitVec 2) (b : BitVec 6) (q : BitVec 2) : Statement (.vspread w d a p b q) := by
  rintro kk ⟨⟩
  have he : ∀ lo len, fld (encode (.vspread w d a p b q)) lo len = @BitVec.extractLsb' (7+2+6+6+2+6+2+1) lo len (0x39#7 ++ w ++ d ++ a ++ p ++ b ++ q ++ 0x0#1) := fun _ _ => rfl
  have hm : major (encode (.vspread w d a p b q)) = 0x39 := congrArg BitVec.toNat (show _ = 0x39#7 by rw [he]; simp (disch := decide) only [lo_of, hi_of, BitVec.extractLsb'_eq_self, Nat.reduceSub, Nat.sub_self])
  refine ⟨by rw [hm]; rfl, ?_⟩
  show rawDecodeV _ = _
  unfold rawDecodeV; rw [hm]
  show (if _ then _ else _) = _
  simp (disch := decide) only [lo_of, hi_of, BitVec.extractLsb'_eq_self, Nat.reduceSub, Nat.sub_self, he]
  rfl

theorem vrsum (w : BitVec 2) (d : BitVec 5) (a : BitVec 6) (p : BitVec 2) (m : BitVec 1) (k : BitVec 3) : Statement (.vrsum w d a p m k) := by
  rintro kk ⟨⟩
  have he : ∀ lo len, fld (encode (.vrsum w d a p m k)) lo len = @BitVec.extractLsb' (7+2+5+1+6+2+4+1+3+1) lo len (0x40#7 ++ w ++ d ++ 0x0#1 ++ a ++ p ++ 0x0#4 ++ m ++ k ++ 0x0#1) := fun _ _ => rfl
  have hm : major (encode (.vrsum w d a p m k)) = 0x40 := congrArg BitVec.toNat (show _ = 0x40#7 by rw [he]; simp (disch := decide) only [lo_of, hi_of, BitVec.extractLsb'_eq_self, Nat.reduceSub, Nat.sub_self])
  refine ⟨by rw [hm]; rfl, ?_⟩
  show rawDecodeV _ = _
  unfold rawDecodeV; rw [hm]
  show (if _ then _ else _) = _
  simp (disch := decide) only [lo_of, hi_of, BitVec.extractLsb'_eq_self, Nat.reduceSub, Nat.sub_self, he]
  rfl

theorem vrsumSeg (w : BitVec 2) (d : BitVec 6) (a : BitVec 6) (p : BitVec 2) (m : BitVec 1) (k : BitVec 3) : Statement (.vrsumSeg w d a p m k) := by
  rintro kk ⟨⟩
  have he : ∀ lo len, fld (encode (.vrsumSeg w d a p m k)) lo len = @BitVec.extractLsb' (7+2+6+6+2+4+1+3+1) lo len (0x40#7 ++ w ++ d ++ a ++ p ++ 0x0#4 ++ m ++ k ++ 0x1#1) := fun _ _ => rfl
  have hm : major (encode (.vrsumSeg w d a p m k)) = 0x40 := congrArg BitVec.toNat (show _ = 0x40#7 by rw [he]; simp (disch := decide) only [lo_of, hi_of, BitVec.extractLsb'_eq_self, Nat.reduceSub, Nat.sub_self])
  refine ⟨by rw [hm]; rfl, ?_⟩
  show rawDecodeV _ = _
  unfold rawDecodeV; rw [hm]
  have hn0 : (fld (encode (.vrsumSeg w d a p m k)) 0 1 == 0x0) = false :=
    by rw [he]; simp (disch := decide) only [lo_of, hi_of, BitVec.extractLsb'_eq_self, Nat.reduceSub, Nat.sub_self]; decide
  show (if _ then _ else _) = _
  simp only [hn0, Bool.false_and, Bool.and_false, Bool.false_eq_true, ite_false]
  simp (disch := decide) only [lo_of, hi_of, BitVec.extractLsb'_eq_self, Nat.reduceSub, Nat.sub_self, he]
  rfl

theorem vrssq (w : BitVec 2) (d : BitVec 5) (a : BitVec 6) (p : BitVec 2) (m : BitVec 1) (k : BitVec 3) : Statement (.vrssq w d a p m k) := by
  rintro kk ⟨⟩
  have he : ∀ lo len, fld (encode (.vrssq w d a p m k)) lo len = @BitVec.extractLsb' (7+2+5+1+6+2+4+1+3+1) lo len (0x41#7 ++ w ++ d ++ 0x0#1 ++ a ++ p ++ 0x0#4 ++ m ++ k ++ 0x0#1) := fun _ _ => rfl
  have hm : major (encode (.vrssq w d a p m k)) = 0x41 := congrArg BitVec.toNat (show _ = 0x41#7 by rw [he]; simp (disch := decide) only [lo_of, hi_of, BitVec.extractLsb'_eq_self, Nat.reduceSub, Nat.sub_self])
  refine ⟨by rw [hm]; rfl, ?_⟩
  show rawDecodeV _ = _
  unfold rawDecodeV; rw [hm]
  show (if _ then _ else _) = _
  simp (disch := decide) only [lo_of, hi_of, BitVec.extractLsb'_eq_self, Nat.reduceSub, Nat.sub_self, he]
  rfl

theorem vrssqSeg (w : BitVec 2) (d : BitVec 6) (a : BitVec 6) (p : BitVec 2) (m : BitVec 1) (k : BitVec 3) : Statement (.vrssqSeg w d a p m k) := by
  rintro kk ⟨⟩
  have he : ∀ lo len, fld (encode (.vrssqSeg w d a p m k)) lo len = @BitVec.extractLsb' (7+2+6+6+2+4+1+3+1) lo len (0x41#7 ++ w ++ d ++ a ++ p ++ 0x0#4 ++ m ++ k ++ 0x1#1) := fun _ _ => rfl
  have hm : major (encode (.vrssqSeg w d a p m k)) = 0x41 := congrArg BitVec.toNat (show _ = 0x41#7 by rw [he]; simp (disch := decide) only [lo_of, hi_of, BitVec.extractLsb'_eq_self, Nat.reduceSub, Nat.sub_self])
  refine ⟨by rw [hm]; rfl, ?_⟩
  show rawDecodeV _ = _
  unfold rawDecodeV; rw [hm]
  have hn0 : (fld (encode (.vrssqSeg w d a p m k)) 0 1 == 0x0) = false :=
    by rw [he]; simp (disch := decide) only [lo_of, hi_of, BitVec.extractLsb'_eq_self, Nat.reduceSub, Nat.sub_self]; decide
  show (if _ then _ else _) = _
  simp only [hn0, Bool.false_and, Bool.and_false, Bool.false_eq_true, ite_false]
  simp (disch := decide) only [lo_of, hi_of, BitVec.extractLsb'_eq_self, Nat.reduceSub, Nat.sub_self, he]
  rfl

theorem vrmax (w : BitVec 2) (d : BitVec 5) (a : BitVec 6) (p : BitVec 2) (m : BitVec 1) (k : BitVec 3) : Statement (.vrmax w d a p m k) := by
  rintro kk ⟨⟩
  have he : ∀ lo len, fld (encode (.vrmax w d a p m k)) lo len = @BitVec.extractLsb' (7+2+5+1+6+2+4+1+3+1) lo len (0x42#7 ++ w ++ d ++ 0x0#1 ++ a ++ p ++ 0x0#4 ++ m ++ k ++ 0x0#1) := fun _ _ => rfl
  have hm : major (encode (.vrmax w d a p m k)) = 0x42 := congrArg BitVec.toNat (show _ = 0x42#7 by rw [he]; simp (disch := decide) only [lo_of, hi_of, BitVec.extractLsb'_eq_self, Nat.reduceSub, Nat.sub_self])
  refine ⟨by rw [hm]; rfl, ?_⟩
  show rawDecodeV _ = _
  unfold rawDecodeV; rw [hm]
  show (if _ then _ else _) = _
  simp (disch := decide) only [lo_of, hi_of, BitVec.extractLsb'_eq_self, Nat.reduceSub, Nat.sub_self, he]
  rfl

theorem vrmaxSeg (w : BitVec 2) (d : BitVec 6) (a : BitVec 6) (p : BitVec 2) (m : BitVec 1) (k : BitVec 3) : Statement (.vrmaxSeg w d a p m k) := by
  rintro kk ⟨⟩
  have he : ∀ lo len, fld (encode (.vrmaxSeg w d a p m k)) lo len = @BitVec.extractLsb' (7+2+6+6+2+4+1+3+1) lo len (0x42#7 ++ w ++ d ++ a ++ p ++ 0x0#4 ++ m ++ k ++ 0x1#1) := fun _ _ => rfl
  have hm : major (encode (.vrmaxSeg w d a p m k)) = 0x42 := congrArg BitVec.toNat (show _ = 0x42#7 by rw [he]; simp (disch := decide) only [lo_of, hi_of, BitVec.extractLsb'_eq_self, Nat.reduceSub, Nat.sub_self])
  refine ⟨by rw [hm]; rfl, ?_⟩
  show rawDecodeV _ = _
  unfold rawDecodeV; rw [hm]
  have hn0 : (fld (encode (.vrmaxSeg w d a p m k)) 0 1 == 0x0) = false :=
    by rw [he]; simp (disch := decide) only [lo_of, hi_of, BitVec.extractLsb'_eq_self, Nat.reduceSub, Nat.sub_self]; decide
  show (if _ then _ else _) = _
  simp only [hn0, Bool.false_and, Bool.and_false, Bool.false_eq_true, ite_false]
  simp (disch := decide) only [lo_of, hi_of, BitVec.extractLsb'_eq_self, Nat.reduceSub, Nat.sub_self, he]
  rfl

theorem vrmin (w : BitVec 2) (d : BitVec 5) (a : BitVec 6) (p : BitVec 2) (m : BitVec 1) (k : BitVec 3) : Statement (.vrmin w d a p m k) := by
  rintro kk ⟨⟩
  have he : ∀ lo len, fld (encode (.vrmin w d a p m k)) lo len = @BitVec.extractLsb' (7+2+5+1+6+2+4+1+3+1) lo len (0x43#7 ++ w ++ d ++ 0x0#1 ++ a ++ p ++ 0x0#4 ++ m ++ k ++ 0x0#1) := fun _ _ => rfl
  have hm : major (encode (.vrmin w d a p m k)) = 0x43 := congrArg BitVec.toNat (show _ = 0x43#7 by rw [he]; simp (disch := decide) only [lo_of, hi_of, BitVec.extractLsb'_eq_self, Nat.reduceSub, Nat.sub_self])
  refine ⟨by rw [hm]; rfl, ?_⟩
  show rawDecodeV _ = _
  unfold rawDecodeV; rw [hm]
  show (if _ then _ else _) = _
  simp (disch := decide) only [lo_of, hi_of, BitVec.extractLsb'_eq_self, Nat.reduceSub, Nat.sub_self, he]
  rfl

theorem vrminSeg (w : BitVec 2) (d : BitVec 6) (a : BitVec 6) (p : BitVec 2) (m : BitVec 1) (k : BitVec 3) : Statement (.vrminSeg w d a p m k) := by
  rintro kk ⟨⟩
  have he : ∀ lo len, fld (encode (.vrminSeg w d a p m k)) lo len = @BitVec.extractLsb' (7+2+6+6+2+4+1+3+1) lo len (0x43#7 ++ w ++ d ++ a ++ p ++ 0x0#4 ++ m ++ k ++ 0x1#1) := fun _ _ => rfl
  have hm : major (encode (.vrminSeg w d a p m k)) = 0x43 := congrArg BitVec.toNat (show _ = 0x43#7 by rw [he]; simp (disch := decide) only [lo_of, hi_of, BitVec.extractLsb'_eq_self, Nat.reduceSub, Nat.sub_self])
  refine ⟨by rw [hm]; rfl, ?_⟩
  show rawDecodeV _ = _
  unfold rawDecodeV; rw [hm]
  have hn0 : (fld (encode (.vrminSeg w d a p m k)) 0 1 == 0x0) = false :=
    by rw [he]; simp (disch := decide) only [lo_of, hi_of, BitVec.extractLsb'_eq_self, Nat.reduceSub, Nat.sub_self]; decide
  show (if _ then _ else _) = _
  simp only [hn0, Bool.false_and, Bool.and_false, Bool.false_eq_true, ite_false]
  simp (disch := decide) only [lo_of, hi_of, BitVec.extractLsb'_eq_self, Nat.reduceSub, Nat.sub_self, he]
  rfl

theorem vscan (w : BitVec 2) (d : BitVec 6) (a : BitVec 6) (p : BitVec 2) (m : BitVec 1) (k : BitVec 3) (x : BitVec 1) : Statement (.vscan w d a p m k x) := by
  rintro kk ⟨⟩
  have he : ∀ lo len, fld (encode (.vscan w d a p m k x)) lo len = @BitVec.extractLsb' (7+2+6+6+2+4+1+3+1) lo len (0x44#7 ++ w ++ d ++ a ++ p ++ 0x0#4 ++ m ++ k ++ x) := fun _ _ => rfl
  have hm : major (encode (.vscan w d a p m k x)) = 0x44 := congrArg BitVec.toNat (show _ = 0x44#7 by rw [he]; simp (disch := decide) only [lo_of, hi_of, BitVec.extractLsb'_eq_self, Nat.reduceSub, Nat.sub_self])
  refine ⟨by rw [hm]; rfl, ?_⟩
  show rawDecodeV _ = _
  unfold rawDecodeV; rw [hm]
  show (if _ then _ else _) = _
  simp (disch := decide) only [lo_of, hi_of, BitVec.extractLsb'_eq_self, Nat.reduceSub, Nat.sub_self, he]
  rfl

theorem vmaxk (w : BitVec 2) (d : BitVec 5) (a : BitVec 6) (p : BitVec 2) (m : BitVec 1) (k : BitVec 3) : Statement (.vmaxk w d a p m k) := by
  rintro kk ⟨⟩
  have he : ∀ lo len, fld (encode (.vmaxk w d a p m k)) lo len = @BitVec.extractLsb' (7+2+5+1+6+2+4+1+3+1) lo len (0x50#7 ++ w ++ d ++ 0x0#1 ++ a ++ p ++ 0x0#4 ++ m ++ k ++ 0x0#1) := fun _ _ => rfl
  have hm : major (encode (.vmaxk w d a p m k)) = 0x50 := congrArg BitVec.toNat (show _ = 0x50#7 by rw [he]; simp (disch := decide) only [lo_of, hi_of, BitVec.extractLsb'_eq_self, Nat.reduceSub, Nat.sub_self])
  refine ⟨by rw [hm]; rfl, ?_⟩
  show rawDecodeV _ = _
  unfold rawDecodeV; rw [hm]
  show (if _ then _ else _) = _
  simp (disch := decide) only [lo_of, hi_of, BitVec.extractLsb'_eq_self, Nat.reduceSub, Nat.sub_self, he]
  rfl

theorem vmaxkSeg (w : BitVec 2) (d : BitVec 6) (a : BitVec 6) (p : BitVec 2) (m : BitVec 1) (k : BitVec 3) : Statement (.vmaxkSeg w d a p m k) := by
  rintro kk ⟨⟩
  have he : ∀ lo len, fld (encode (.vmaxkSeg w d a p m k)) lo len = @BitVec.extractLsb' (7+2+6+6+2+4+1+3+1) lo len (0x50#7 ++ w ++ d ++ a ++ p ++ 0x0#4 ++ m ++ k ++ 0x1#1) := fun _ _ => rfl
  have hm : major (encode (.vmaxkSeg w d a p m k)) = 0x50 := congrArg BitVec.toNat (show _ = 0x50#7 by rw [he]; simp (disch := decide) only [lo_of, hi_of, BitVec.extractLsb'_eq_self, Nat.reduceSub, Nat.sub_self])
  refine ⟨by rw [hm]; rfl, ?_⟩
  show rawDecodeV _ = _
  unfold rawDecodeV; rw [hm]
  have hn0 : (fld (encode (.vmaxkSeg w d a p m k)) 0 1 == 0x0) = false :=
    by rw [he]; simp (disch := decide) only [lo_of, hi_of, BitVec.extractLsb'_eq_self, Nat.reduceSub, Nat.sub_self]; decide
  show (if _ then _ else _) = _
  simp only [hn0, Bool.false_and, Bool.and_false, Bool.false_eq_true, ite_false]
  simp (disch := decide) only [lo_of, hi_of, BitVec.extractLsb'_eq_self, Nat.reduceSub, Nat.sub_self, he]
  rfl

theorem vexpk (w : BitVec 2) (d : BitVec 6) (a : BitVec 6) (p : BitVec 2) (b : BitVec 6) (q : BitVec 2) : Statement (.vexpk w d a p b q) := by
  rintro kk ⟨⟩
  have he : ∀ lo len, fld (encode (.vexpk w d a p b q)) lo len = @BitVec.extractLsb' (7+2+6+6+2+6+2+1) lo len (0x51#7 ++ w ++ d ++ a ++ p ++ b ++ q ++ 0x0#1) := fun _ _ => rfl
  have hm : major (encode (.vexpk w d a p b q)) = 0x51 := congrArg BitVec.toNat (show _ = 0x51#7 by rw [he]; simp (disch := decide) only [lo_of, hi_of, BitVec.extractLsb'_eq_self, Nat.reduceSub, Nat.sub_self])
  refine ⟨by rw [hm]; rfl, ?_⟩
  show rawDecodeV _ = _
  unfold rawDecodeV; rw [hm]
  show (if _ then _ else _) = _
  simp (disch := decide) only [lo_of, hi_of, BitVec.extractLsb'_eq_self, Nat.reduceSub, Nat.sub_self, he]
  rfl

theorem vsck (w : BitVec 2) (d : BitVec 6) (a : BitVec 6) (p : BitVec 2) (b : BitVec 6) (q : BitVec 2) : Statement (.vsck w d a p b q) := by
  rintro kk ⟨⟩
  have he : ∀ lo len, fld (encode (.vsck w d a p b q)) lo len = @BitVec.extractLsb' (7+2+6+6+2+6+2+1) lo len (0x52#7 ++ w ++ d ++ a ++ p ++ b ++ q ++ 0x0#1) := fun _ _ => rfl
  have hm : major (encode (.vsck w d a p b q)) = 0x52 := congrArg BitVec.toNat (show _ = 0x52#7 by rw [he]; simp (disch := decide) only [lo_of, hi_of, BitVec.extractLsb'_eq_self, Nat.reduceSub, Nat.sub_self])
  refine ⟨by rw [hm]; rfl, ?_⟩
  show rawDecodeV _ = _
  unfold rawDecodeV; rw [hm]
  show (if _ then _ else _) = _
  simp (disch := decide) only [lo_of, hi_of, BitVec.extractLsb'_eq_self, Nat.reduceSub, Nat.sub_self, he]
  rfl

theorem vsckSeg (w : BitVec 2) (d : BitVec 6) (a : BitVec 6) (p : BitVec 2) (b : BitVec 6) (q : BitVec 2) : Statement (.vsckSeg w d a p b q) := by
  rintro kk ⟨⟩
  have he : ∀ lo len, fld (encode (.vsckSeg w d a p b q)) lo len = @BitVec.extractLsb' (7+2+6+6+2+6+2+1) lo len (0x52#7 ++ w ++ d ++ a ++ p ++ b ++ q ++ 0x1#1) := fun _ _ => rfl
  have hm : major (encode (.vsckSeg w d a p b q)) = 0x52 := congrArg BitVec.toNat (show _ = 0x52#7 by rw [he]; simp (disch := decide) only [lo_of, hi_of, BitVec.extractLsb'_eq_self, Nat.reduceSub, Nat.sub_self])
  refine ⟨by rw [hm]; rfl, ?_⟩
  show rawDecodeV _ = _
  unfold rawDecodeV; rw [hm]
  have hn0 : (fld (encode (.vsckSeg w d a p b q)) 0 1 == 0x0) = false :=
    by rw [he]; simp (disch := decide) only [lo_of, hi_of, BitVec.extractLsb'_eq_self, Nat.reduceSub, Nat.sub_self]; decide
  show (if _ then _ else _) = _
  simp only [hn0, Bool.false_and, Bool.and_false, Bool.false_eq_true, ite_false]
  simp (disch := decide) only [lo_of, hi_of, BitVec.extractLsb'_eq_self, Nat.reduceSub, Nat.sub_self, he]
  rfl

theorem lds (d : BitVec 5) (b : BitVec 5) (o : BitVec 15) : Statement (.lds d b o) := by
  rintro kk ⟨⟩
  have he : ∀ lo len, fld (encode (.lds d b o)) lo len = @BitVec.extractLsb' (7+5+5+15) lo len (0x1#7 ++ d ++ b ++ o) := fun _ _ => rfl
  have hm : major (encode (.lds d b o)) = 0x1 := congrArg BitVec.toNat (show _ = 0x1#7 by rw [he]; simp (disch := decide) only [lo_of, hi_of, BitVec.extractLsb'_eq_self, Nat.reduceSub, Nat.sub_self])
  refine ⟨by rw [hm]; rfl, ?_⟩
  show rawDecodeMe _ = _
  unfold rawDecodeMe; rw [hm]
  show Except.ok _ = _
  simp (disch := decide) only [lo_of, hi_of, BitVec.extractLsb'_eq_self, Nat.reduceSub, Nat.sub_self, he]

theorem sts (d : BitVec 5) (b : BitVec 5) (o : BitVec 15) : Statement (.sts d b o) := by
  rintro kk ⟨⟩
  have he : ∀ lo len, fld (encode (.sts d b o)) lo len = @BitVec.extractLsb' (7+5+5+15) lo len (0x2#7 ++ d ++ b ++ o) := fun _ _ => rfl
  have hm : major (encode (.sts d b o)) = 0x2 := congrArg BitVec.toNat (show _ = 0x2#7 by rw [he]; simp (disch := decide) only [lo_of, hi_of, BitVec.extractLsb'_eq_self, Nat.reduceSub, Nat.sub_self])
  refine ⟨by rw [hm]; rfl, ?_⟩
  show rawDecodeMe _ = _
  unfold rawDecodeMe; rw [hm]
  show Except.ok _ = _
  simp (disch := decide) only [lo_of, hi_of, BitVec.extractLsb'_eq_self, Nat.reduceSub, Nat.sub_self, he]

theorem ldsW (d : BitVec 5) (b : BitVec 5) (o : BitVec 15) : Statement (.ldsW d b o) := by
  rintro kk ⟨⟩
  have he : ∀ lo len, fld (encode (.ldsW d b o)) lo len = @BitVec.extractLsb' (7+5+5+15) lo len (0x3#7 ++ d ++ b ++ o) := fun _ _ => rfl
  have hm : major (encode (.ldsW d b o)) = 0x3 := congrArg BitVec.toNat (show _ = 0x3#7 by rw [he]; simp (disch := decide) only [lo_of, hi_of, BitVec.extractLsb'_eq_self, Nat.reduceSub, Nat.sub_self])
  refine ⟨by rw [hm]; rfl, ?_⟩
  show rawDecodeMe _ = _
  unfold rawDecodeMe; rw [hm]
  show Except.ok _ = _
  simp (disch := decide) only [lo_of, hi_of, BitVec.extractLsb'_eq_self, Nat.reduceSub, Nat.sub_self, he]

theorem ldsWu (d : BitVec 5) (b : BitVec 5) (o : BitVec 15) : Statement (.ldsWu d b o) := by
  rintro kk ⟨⟩
  have he : ∀ lo len, fld (encode (.ldsWu d b o)) lo len = @BitVec.extractLsb' (7+5+5+15) lo len (0x4#7 ++ d ++ b ++ o) := fun _ _ => rfl
  have hm : major (encode (.ldsWu d b o)) = 0x4 := congrArg BitVec.toNat (show _ = 0x4#7 by rw [he]; simp (disch := decide) only [lo_of, hi_of, BitVec.extractLsb'_eq_self, Nat.reduceSub, Nat.sub_self])
  refine ⟨by rw [hm]; rfl, ?_⟩
  show rawDecodeMe _ = _
  unfold rawDecodeMe; rw [hm]
  show Except.ok _ = _
  simp (disch := decide) only [lo_of, hi_of, BitVec.extractLsb'_eq_self, Nat.reduceSub, Nat.sub_self, he]

theorem ldsH (d : BitVec 5) (b : BitVec 5) (o : BitVec 15) : Statement (.ldsH d b o) := by
  rintro kk ⟨⟩
  have he : ∀ lo len, fld (encode (.ldsH d b o)) lo len = @BitVec.extractLsb' (7+5+5+15) lo len (0x5#7 ++ d ++ b ++ o) := fun _ _ => rfl
  have hm : major (encode (.ldsH d b o)) = 0x5 := congrArg BitVec.toNat (show _ = 0x5#7 by rw [he]; simp (disch := decide) only [lo_of, hi_of, BitVec.extractLsb'_eq_self, Nat.reduceSub, Nat.sub_self])
  refine ⟨by rw [hm]; rfl, ?_⟩
  show rawDecodeMe _ = _
  unfold rawDecodeMe; rw [hm]
  show Except.ok _ = _
  simp (disch := decide) only [lo_of, hi_of, BitVec.extractLsb'_eq_self, Nat.reduceSub, Nat.sub_self, he]

theorem ldsHu (d : BitVec 5) (b : BitVec 5) (o : BitVec 15) : Statement (.ldsHu d b o) := by
  rintro kk ⟨⟩
  have he : ∀ lo len, fld (encode (.ldsHu d b o)) lo len = @BitVec.extractLsb' (7+5+5+15) lo len (0x6#7 ++ d ++ b ++ o) := fun _ _ => rfl
  have hm : major (encode (.ldsHu d b o)) = 0x6 := congrArg BitVec.toNat (show _ = 0x6#7 by rw [he]; simp (disch := decide) only [lo_of, hi_of, BitVec.extractLsb'_eq_self, Nat.reduceSub, Nat.sub_self])
  refine ⟨by rw [hm]; rfl, ?_⟩
  show rawDecodeMe _ = _
  unfold rawDecodeMe; rw [hm]
  show Except.ok _ = _
  simp (disch := decide) only [lo_of, hi_of, BitVec.extractLsb'_eq_self, Nat.reduceSub, Nat.sub_self, he]

theorem ldsB (d : BitVec 5) (b : BitVec 5) (o : BitVec 15) : Statement (.ldsB d b o) := by
  rintro kk ⟨⟩
  have he : ∀ lo len, fld (encode (.ldsB d b o)) lo len = @BitVec.extractLsb' (7+5+5+15) lo len (0x7#7 ++ d ++ b ++ o) := fun _ _ => rfl
  have hm : major (encode (.ldsB d b o)) = 0x7 := congrArg BitVec.toNat (show _ = 0x7#7 by rw [he]; simp (disch := decide) only [lo_of, hi_of, BitVec.extractLsb'_eq_self, Nat.reduceSub, Nat.sub_self])
  refine ⟨by rw [hm]; rfl, ?_⟩
  show rawDecodeMe _ = _
  unfold rawDecodeMe; rw [hm]
  show Except.ok _ = _
  simp (disch := decide) only [lo_of, hi_of, BitVec.extractLsb'_eq_self, Nat.reduceSub, Nat.sub_self, he]

theorem ldsBu (d : BitVec 5) (b : BitVec 5) (o : BitVec 15) : Statement (.ldsBu d b o) := by
  rintro kk ⟨⟩
  have he : ∀ lo len, fld (encode (.ldsBu d b o)) lo len = @BitVec.extractLsb' (7+5+5+15) lo len (0x8#7 ++ d ++ b ++ o) := fun _ _ => rfl
  have hm : major (encode (.ldsBu d b o)) = 0x8 := congrArg BitVec.toNat (show _ = 0x8#7 by rw [he]; simp (disch := decide) only [lo_of, hi_of, BitVec.extractLsb'_eq_self, Nat.reduceSub, Nat.sub_self])
  refine ⟨by rw [hm]; rfl, ?_⟩
  show rawDecodeMe _ = _
  unfold rawDecodeMe; rw [hm]
  show Except.ok _ = _
  simp (disch := decide) only [lo_of, hi_of, BitVec.extractLsb'_eq_self, Nat.reduceSub, Nat.sub_self, he]

theorem stsW (d : BitVec 5) (b : BitVec 5) (o : BitVec 15) : Statement (.stsW d b o) := by
  rintro kk ⟨⟩
  have he : ∀ lo len, fld (encode (.stsW d b o)) lo len = @BitVec.extractLsb' (7+5+5+15) lo len (0x9#7 ++ d ++ b ++ o) := fun _ _ => rfl
  have hm : major (encode (.stsW d b o)) = 0x9 := congrArg BitVec.toNat (show _ = 0x9#7 by rw [he]; simp (disch := decide) only [lo_of, hi_of, BitVec.extractLsb'_eq_self, Nat.reduceSub, Nat.sub_self])
  refine ⟨by rw [hm]; rfl, ?_⟩
  show rawDecodeMe _ = _
  unfold rawDecodeMe; rw [hm]
  show Except.ok _ = _
  simp (disch := decide) only [lo_of, hi_of, BitVec.extractLsb'_eq_self, Nat.reduceSub, Nat.sub_self, he]

theorem stsH (d : BitVec 5) (b : BitVec 5) (o : BitVec 15) : Statement (.stsH d b o) := by
  rintro kk ⟨⟩
  have he : ∀ lo len, fld (encode (.stsH d b o)) lo len = @BitVec.extractLsb' (7+5+5+15) lo len (0xA#7 ++ d ++ b ++ o) := fun _ _ => rfl
  have hm : major (encode (.stsH d b o)) = 0xA := congrArg BitVec.toNat (show _ = 0xA#7 by rw [he]; simp (disch := decide) only [lo_of, hi_of, BitVec.extractLsb'_eq_self, Nat.reduceSub, Nat.sub_self])
  refine ⟨by rw [hm]; rfl, ?_⟩
  show rawDecodeMe _ = _
  unfold rawDecodeMe; rw [hm]
  show Except.ok _ = _
  simp (disch := decide) only [lo_of, hi_of, BitVec.extractLsb'_eq_self, Nat.reduceSub, Nat.sub_self, he]

theorem stsB (d : BitVec 5) (b : BitVec 5) (o : BitVec 15) : Statement (.stsB d b o) := by
  rintro kk ⟨⟩
  have he : ∀ lo len, fld (encode (.stsB d b o)) lo len = @BitVec.extractLsb' (7+5+5+15) lo len (0xB#7 ++ d ++ b ++ o) := fun _ _ => rfl
  have hm : major (encode (.stsB d b o)) = 0xB := congrArg BitVec.toNat (show _ = 0xB#7 by rw [he]; simp (disch := decide) only [lo_of, hi_of, BitVec.extractLsb'_eq_self, Nat.reduceSub, Nat.sub_self])
  refine ⟨by rw [hm]; rfl, ?_⟩
  show rawDecodeMe _ = _
  unfold rawDecodeMe; rw [hm]
  show Except.ok _ = _
  simp (disch := decide) only [lo_of, hi_of, BitVec.extractLsb'_eq_self, Nat.reduceSub, Nat.sub_self, he]

theorem ldv (v : BitVec 6) (b : BitVec 5) (n : BitVec 5) (f : BitVec 4) (c : BitVec 2) : Statement (.ldv v b n f c) := by
  rintro kk ⟨⟩
  have he : ∀ lo len, fld (encode (.ldv v b n f c)) lo len = @BitVec.extractLsb' (7+6+5+5+4+2+3) lo len (0x10#7 ++ v ++ b ++ n ++ f ++ c ++ 0x0#3) := fun _ _ => rfl
  have hm : major (encode (.ldv v b n f c)) = 0x10 := congrArg BitVec.toNat (show _ = 0x10#7 by rw [he]; simp (disch := decide) only [lo_of, hi_of, BitVec.extractLsb'_eq_self, Nat.reduceSub, Nat.sub_self])
  refine ⟨by rw [hm]; rfl, ?_⟩
  show rawDecodeMe _ = _
  unfold rawDecodeMe; rw [hm]
  show (if _ then _ else _) = _
  simp (disch := decide) only [lo_of, hi_of, BitVec.extractLsb'_eq_self, Nat.reduceSub, Nat.sub_self, he]
  rfl

theorem ldvc (v : BitVec 6) (b : BitVec 5) (n : BitVec 5) (f : BitVec 4) (c : BitVec 2) : Statement (.ldvc v b n f c) := by
  rintro kk ⟨⟩
  have he : ∀ lo len, fld (encode (.ldvc v b n f c)) lo len = @BitVec.extractLsb' (7+6+5+5+4+2+3) lo len (0x11#7 ++ v ++ b ++ n ++ f ++ c ++ 0x0#3) := fun _ _ => rfl
  have hm : major (encode (.ldvc v b n f c)) = 0x11 := congrArg BitVec.toNat (show _ = 0x11#7 by rw [he]; simp (disch := decide) only [lo_of, hi_of, BitVec.extractLsb'_eq_self, Nat.reduceSub, Nat.sub_self])
  refine ⟨by rw [hm]; rfl, ?_⟩
  show rawDecodeMe _ = _
  unfold rawDecodeMe; rw [hm]
  show (if _ then _ else _) = _
  simp (disch := decide) only [lo_of, hi_of, BitVec.extractLsb'_eq_self, Nat.reduceSub, Nat.sub_self, he]
  rfl

theorem stv (v : BitVec 6) (b : BitVec 5) (f : BitVec 4) (c : BitVec 2) (p : BitVec 2) : Statement (.stv v b f c p) := by
  rintro kk ⟨⟩
  have he : ∀ lo len, fld (encode (.stv v b f c p)) lo len = @BitVec.extractLsb' (7+6+5+5+4+2+2+1) lo len (0x12#7 ++ v ++ b ++ 0x0#5 ++ f ++ c ++ p ++ 0x0#1) := fun _ _ => rfl
  have hm : major (encode (.stv v b f c p)) = 0x12 := congrArg BitVec.toNat (show _ = 0x12#7 by rw [he]; simp (disch := decide) only [lo_of, hi_of, BitVec.extractLsb'_eq_self, Nat.reduceSub, Nat.sub_self])
  refine ⟨by rw [hm]; rfl, ?_⟩
  show rawDecodeMe _ = _
  unfold rawDecodeMe; rw [hm]
  show (if _ then _ else _) = _
  simp (disch := decide) only [lo_of, hi_of, BitVec.extractLsb'_eq_self, Nat.reduceSub, Nat.sub_self, he]
  rfl

theorem ldr (v : BitVec 6) (b : BitVec 5) (n : BitVec 5) (m : BitVec 1) : Statement (.ldr v b n m) := by
  rintro kk ⟨⟩
  have he : ∀ lo len, fld (encode (.ldr v b n m)) lo len = @BitVec.extractLsb' (7+6+5+5+8+1) lo len (0x13#7 ++ v ++ b ++ n ++ 0x0#8 ++ m) := fun _ _ => rfl
  have hm : major (encode (.ldr v b n m)) = 0x13 := congrArg BitVec.toNat (show _ = 0x13#7 by rw [he]; simp (disch := decide) only [lo_of, hi_of, BitVec.extractLsb'_eq_self, Nat.reduceSub, Nat.sub_self])
  refine ⟨by rw [hm]; rfl, ?_⟩
  show rawDecodeMe _ = _
  unfold rawDecodeMe; rw [hm]
  show (if _ then _ else _) = _
  simp (disch := decide) only [lo_of, hi_of, BitVec.extractLsb'_eq_self, Nat.reduceSub, Nat.sub_self, he]
  rfl

theorem str (v : BitVec 6) (b : BitVec 5) (n : BitVec 5) (p : BitVec 2) (m : BitVec 1) : Statement (.str v b n p m) := by
  rintro kk ⟨⟩
  have he : ∀ lo len, fld (encode (.str v b n p m)) lo len = @BitVec.extractLsb' (7+6+5+5+6+2+1) lo len (0x14#7 ++ v ++ b ++ n ++ 0x0#6 ++ p ++ m) := fun _ _ => rfl
  have hm : major (encode (.str v b n p m)) = 0x14 := congrArg BitVec.toNat (show _ = 0x14#7 by rw [he]; simp (disch := decide) only [lo_of, hi_of, BitVec.extractLsb'_eq_self, Nat.reduceSub, Nat.sub_self])
  refine ⟨by rw [hm]; rfl, ?_⟩
  show rawDecodeMe _ = _
  unfold rawDecodeMe; rw [hm]
  show (if _ then _ else _) = _
  simp (disch := decide) only [lo_of, hi_of, BitVec.extractLsb'_eq_self, Nat.reduceSub, Nat.sub_self, he]
  rfl

theorem ldvr (v : BitVec 6) (i : BitVec 5) (n : BitVec 5) (h : BitVec 3) (e : BitVec 1) (x : BitVec 1) (c : BitVec 2) (k : BitVec 1) : Statement (.ldvr v i n h e x c k) := by
  rintro kk ⟨⟩
  have he : ∀ lo len, fld (encode (.ldvr v i n h e x c k)) lo len = @BitVec.extractLsb' (7+6+5+5+3+1+1+2+1+1) lo len (0x15#7 ++ v ++ i ++ n ++ h ++ e ++ x ++ c ++ k ++ 0x0#1) := fun _ _ => rfl
  have hm : major (encode (.ldvr v i n h e x c k)) = 0x15 := congrArg BitVec.toNat (show _ = 0x15#7 by rw [he]; simp (disch := decide) only [lo_of, hi_of, BitVec.extractLsb'_eq_self, Nat.reduceSub, Nat.sub_self])
  refine ⟨by rw [hm]; rfl, ?_⟩
  show rawDecodeMe _ = _
  unfold rawDecodeMe; rw [hm]
  show (if _ then _ else _) = _
  simp (disch := decide) only [lo_of, hi_of, BitVec.extractLsb'_eq_self, Nat.reduceSub, Nat.sub_self, he]
  rfl

theorem stvr (v : BitVec 6) (i : BitVec 5) (n : BitVec 5) (h : BitVec 3) (e : BitVec 1) (x : BitVec 1) (c : BitVec 2) (p : BitVec 2) : Statement (.stvr v i n h e x c p) := by
  rintro kk ⟨⟩
  have he : ∀ lo len, fld (encode (.stvr v i n h e x c p)) lo len = @BitVec.extractLsb' (7+6+5+5+3+1+1+2+2) lo len (0x16#7 ++ v ++ i ++ n ++ h ++ e ++ x ++ c ++ p) := fun _ _ => rfl
  have hm : major (encode (.stvr v i n h e x c p)) = 0x16 := congrArg BitVec.toNat (show _ = 0x16#7 by rw [he]; simp (disch := decide) only [lo_of, hi_of, BitVec.extractLsb'_eq_self, Nat.reduceSub, Nat.sub_self])
  refine ⟨by rw [hm]; rfl, ?_⟩
  show rawDecodeMe _ = _
  unfold rawDecodeMe; rw [hm]
  show Except.ok _ = _
  simp (disch := decide) only [lo_of, hi_of, BitVec.extractLsb'_eq_self, Nat.reduceSub, Nat.sub_self, he]

theorem shld (h : BitVec 3) (b : BitVec 5) (o : BitVec 5) : Statement (.shld h b o) := by
  rintro kk ⟨⟩
  have he : ∀ lo len, fld (encode (.shld h b o)) lo len = @BitVec.extractLsb' (7+3+2+5+5+10) lo len (0x18#7 ++ h ++ 0x0#2 ++ b ++ o ++ 0x0#10) := fun _ _ => rfl
  have hm : major (encode (.shld h b o)) = 0x18 := congrArg BitVec.toNat (show _ = 0x18#7 by rw [he]; simp (disch := decide) only [lo_of, hi_of, BitVec.extractLsb'_eq_self, Nat.reduceSub, Nat.sub_self])
  refine ⟨by rw [hm]; rfl, ?_⟩
  show rawDecodeMe _ = _
  unfold rawDecodeMe; rw [hm]
  show (if _ then _ else _) = _
  simp (disch := decide) only [lo_of, hi_of, BitVec.extractLsb'_eq_self, Nat.reduceSub, Nat.sub_self, he]
  rfl

theorem shwin (h : BitVec 3) (o : BitVec 5) : Statement (.shwin h o) := by
  rintro kk ⟨⟩
  have he : ∀ lo len, fld (encode (.shwin h o)) lo len = @BitVec.extractLsb' (7+3+7+5+10) lo len (0x19#7 ++ h ++ 0x0#7 ++ o ++ 0x0#10) := fun _ _ => rfl
  have hm : major (encode (.shwin h o)) = 0x19 := congrArg BitVec.toNat (show _ = 0x19#7 by rw [he]; simp (disch := decide) only [lo_of, hi_of, BitVec.extractLsb'_eq_self, Nat.reduceSub, Nat.sub_self])
  refine ⟨by rw [hm]; rfl, ?_⟩
  show rawDecodeMe _ = _
  unfold rawDecodeMe; rw [hm]
  show (if _ then _ else _) = _
  simp (disch := decide) only [lo_of, hi_of, BitVec.extractLsb'_eq_self, Nat.reduceSub, Nat.sub_self, he]
  rfl

theorem shchk (h : BitVec 3) (g : BitVec 2) : Statement (.shchk h g) := by
  rintro kk ⟨⟩
  have he : ∀ lo len, fld (encode (.shchk h g)) lo len = @BitVec.extractLsb' (7+3+2+20) lo len (0x1A#7 ++ h ++ g ++ 0x0#20) := fun _ _ => rfl
  have hm : major (encode (.shchk h g)) = 0x1A := congrArg BitVec.toNat (show _ = 0x1A#7 by rw [he]; simp (disch := decide) only [lo_of, hi_of, BitVec.extractLsb'_eq_self, Nat.reduceSub, Nat.sub_self])
  refine ⟨by rw [hm]; rfl, ?_⟩
  show rawDecodeMe _ = _
  unfold rawDecodeMe; rw [hm]
  show (if _ then _ else _) = _
  simp (disch := decide) only [lo_of, hi_of, BitVec.extractLsb'_eq_self, Nat.reduceSub, Nat.sub_self, he]
  rfl

theorem shq (d : BitVec 5) (h : BitVec 3) (i : BitVec 5) (q : BitVec 4) : Statement (.shq d h i q) := by
  rintro kk ⟨⟩
  have he : ∀ lo len, fld (encode (.shq d h i q)) lo len = @BitVec.extractLsb' (7+5+3+5+4+8) lo len (0x1B#7 ++ d ++ h ++ i ++ q ++ 0x0#8) := fun _ _ => rfl
  have hm : major (encode (.shq d h i q)) = 0x1B := congrArg BitVec.toNat (show _ = 0x1B#7 by rw [he]; simp (disch := decide) only [lo_of, hi_of, BitVec.extractLsb'_eq_self, Nat.reduceSub, Nat.sub_self])
  refine ⟨by rw [hm]; rfl, ?_⟩
  show rawDecodeMe _ = _
  unfold rawDecodeMe; rw [hm]
  show (if _ then _ else _) = _
  simp (disch := decide) only [lo_of, hi_of, BitVec.extractLsb'_eq_self, Nat.reduceSub, Nat.sub_self, he]
  rfl

theorem waitf (n : BitVec 5) (b : BitVec 5) (o : BitVec 15) : Statement (.waitf n b o) := by
  rintro kk ⟨⟩
  have he : ∀ lo len, fld (encode (.waitf n b o)) lo len = @BitVec.extractLsb' (7+5+5+15) lo len (0x20#7 ++ n ++ b ++ o) := fun _ _ => rfl
  have hm : major (encode (.waitf n b o)) = 0x20 := congrArg BitVec.toNat (show _ = 0x20#7 by rw [he]; simp (disch := decide) only [lo_of, hi_of, BitVec.extractLsb'_eq_self, Nat.reduceSub, Nat.sub_self])
  refine ⟨by rw [hm]; rfl, ?_⟩
  show rawDecodeMe _ = _
  unfold rawDecodeMe; rw [hm]
  show Except.ok _ = _
  simp (disch := decide) only [lo_of, hi_of, BitVec.extractLsb'_eq_self, Nat.reduceSub, Nat.sub_self, he]

theorem setf (n : BitVec 5) (b : BitVec 5) (o : BitVec 15) : Statement (.setf n b o) := by
  rintro kk ⟨⟩
  have he : ∀ lo len, fld (encode (.setf n b o)) lo len = @BitVec.extractLsb' (7+5+5+15) lo len (0x21#7 ++ n ++ b ++ o) := fun _ _ => rfl
  have hm : major (encode (.setf n b o)) = 0x21 := congrArg BitVec.toNat (show _ = 0x21#7 by rw [he]; simp (disch := decide) only [lo_of, hi_of, BitVec.extractLsb'_eq_self, Nat.reduceSub, Nat.sub_self])
  refine ⟨by rw [hm]; rfl, ?_⟩
  show rawDecodeMe _ = _
  unfold rawDecodeMe; rw [hm]
  show Except.ok _ = _
  simp (disch := decide) only [lo_of, hi_of, BitVec.extractLsb'_eq_self, Nat.reduceSub, Nat.sub_self, he]

theorem clrf (n : BitVec 5) (b : BitVec 5) (o : BitVec 15) : Statement (.clrf n b o) := by
  rintro kk ⟨⟩
  have he : ∀ lo len, fld (encode (.clrf n b o)) lo len = @BitVec.extractLsb' (7+5+5+15) lo len (0x22#7 ++ n ++ b ++ o) := fun _ _ => rfl
  have hm : major (encode (.clrf n b o)) = 0x22 := congrArg BitVec.toNat (show _ = 0x22#7 by rw [he]; simp (disch := decide) only [lo_of, hi_of, BitVec.extractLsb'_eq_self, Nat.reduceSub, Nat.sub_self])
  refine ⟨by rw [hm]; rfl, ?_⟩
  show rawDecodeMe _ = _
  unfold rawDecodeMe; rw [hm]
  show Except.ok _ = _
  simp (disch := decide) only [lo_of, hi_of, BitVec.extractLsb'_eq_self, Nat.reduceSub, Nat.sub_self, he]

theorem mscl (m : BitVec 2) (b : BitVec 5) (o : BitVec 15) : Statement (.mscl m b o) := by
  rintro kk ⟨⟩
  have he : ∀ lo len, fld (encode (.mscl m b o)) lo len = @BitVec.extractLsb' (7+3+2+5+15) lo len (0x23#7 ++ 0x0#3 ++ m ++ b ++ o) := fun _ _ => rfl
  have hm : major (encode (.mscl m b o)) = 0x23 := congrArg BitVec.toNat (show _ = 0x23#7 by rw [he]; simp (disch := decide) only [lo_of, hi_of, BitVec.extractLsb'_eq_self, Nat.reduceSub, Nat.sub_self])
  refine ⟨by rw [hm]; rfl, ?_⟩
  show rawDecodeMe _ = _
  unfold rawDecodeMe; rw [hm]
  show (if _ then _ else _) = _
  simp (disch := decide) only [lo_of, hi_of, BitVec.extractLsb'_eq_self, Nat.reduceSub, Nat.sub_self, he]
  rfl

theorem star (d : BitVec 5) (a : BitVec 5) (n : BitVec 7) (f : BitVec 4) : Statement (.star d a n f) := by
  rintro kk ⟨⟩
  have he : ∀ lo len, fld (encode (.star d a n f)) lo len = @BitVec.extractLsb' (7+5+5+7+4+4) lo len (0x24#7 ++ d ++ a ++ n ++ f ++ 0x0#4) := fun _ _ => rfl
  have hm : major (encode (.star d a n f)) = 0x24 := congrArg BitVec.toNat (show _ = 0x24#7 by rw [he]; simp (disch := decide) only [lo_of, hi_of, BitVec.extractLsb'_eq_self, Nat.reduceSub, Nat.sub_self])
  refine ⟨by rw [hm]; rfl, ?_⟩
  show rawDecodeMe _ = _
  unfold rawDecodeMe; rw [hm]
  show (if _ then _ else _) = _
  simp (disch := decide) only [lo_of, hi_of, BitVec.extractLsb'_eq_self, Nat.reduceSub, Nat.sub_self, he]
  rfl

theorem fence (a : BitVec 3) : Statement (.fence a) := by
  rintro kk ⟨⟩
  have he : ∀ lo len, fld (encode (.fence a)) lo len = @BitVec.extractLsb' (7+3+22) lo len (0x28#7 ++ a ++ 0x0#22) := fun _ _ => rfl
  have hm : major (encode (.fence a)) = 0x28 := congrArg BitVec.toNat (show _ = 0x28#7 by rw [he]; simp (disch := decide) only [lo_of, hi_of, BitVec.extractLsb'_eq_self, Nat.reduceSub, Nat.sub_self])
  refine ⟨by rw [hm]; rfl, ?_⟩
  show rawDecodeMe _ = _
  unfold rawDecodeMe; rw [hm]
  show (if _ then _ else _) = _
  simp (disch := decide) only [lo_of, hi_of, BitVec.extractLsb'_eq_self, Nat.reduceSub, Nat.sub_self, he]
  rfl

theorem xfence (a : BitVec 3) (b : BitVec 3) : Statement (.xfence a b) := by
  rintro kk ⟨⟩
  have he : ∀ lo len, fld (encode (.xfence a b)) lo len = @BitVec.extractLsb' (7+3+3+19) lo len (0x29#7 ++ a ++ b ++ 0x0#19) := fun _ _ => rfl
  have hm : major (encode (.xfence a b)) = 0x29 := congrArg BitVec.toNat (show _ = 0x29#7 by rw [he]; simp (disch := decide) only [lo_of, hi_of, BitVec.extractLsb'_eq_self, Nat.reduceSub, Nat.sub_self])
  refine ⟨by rw [hm]; rfl, ?_⟩
  show rawDecodeMe _ = _
  unfold rawDecodeMe; rw [hm]
  show (if _ then _ else _) = _
  simp (disch := decide) only [lo_of, hi_of, BitVec.extractLsb'_eq_self, Nat.reduceSub, Nat.sub_self, he]
  rfl

theorem drain (a : BitVec 3) : Statement (.drain a) := by
  rintro kk ⟨⟩
  have he : ∀ lo len, fld (encode (.drain a)) lo len = @BitVec.extractLsb' (7+3+22) lo len (0x2A#7 ++ a ++ 0x0#22) := fun _ _ => rfl
  have hm : major (encode (.drain a)) = 0x2A := congrArg BitVec.toNat (show _ = 0x2A#7 by rw [he]; simp (disch := decide) only [lo_of, hi_of, BitVec.extractLsb'_eq_self, Nat.reduceSub, Nat.sub_self])
  refine ⟨by rw [hm]; rfl, ?_⟩
  show rawDecodeMe _ = _
  unfold rawDecodeMe; rw [hm]
  show (if _ then _ else _) = _
  simp (disch := decide) only [lo_of, hi_of, BitVec.extractLsb'_eq_self, Nat.reduceSub, Nat.sub_self, he]
  rfl

theorem atom (d : BitVec 5) (b : BitVec 5) (v : BitVec 5) (o : BitVec 3) (t : BitVec 2) (u : BitVec 1) : Statement (.atom d b v o t u) := by
  rintro kk ⟨⟩
  have he : ∀ lo len, fld (encode (.atom d b v o t u)) lo len = @BitVec.extractLsb' (7+5+5+5+3+2+1+1+3) lo len (0x30#7 ++ d ++ b ++ v ++ o ++ t ++ 0x0#1 ++ u ++ 0x0#3) := fun _ _ => rfl
  have hm : major (encode (.atom d b v o t u)) = 0x30 := congrArg BitVec.toNat (show _ = 0x30#7 by rw [he]; simp (disch := decide) only [lo_of, hi_of, BitVec.extractLsb'_eq_self, Nat.reduceSub, Nat.sub_self])
  refine ⟨by rw [hm]; rfl, ?_⟩
  show rawDecodeMe _ = _
  unfold rawDecodeMe; rw [hm]
  have hn0 : (fld (encode (.atom d b v o t u)) 4 1 == 0x1) = false :=
    by rw [he]; simp (disch := decide) only [lo_of, hi_of, BitVec.extractLsb'_eq_self, Nat.reduceSub, Nat.sub_self]; decide
  show (if _ then _ else _) = _
  simp only [hn0, Bool.false_and, Bool.and_false, Bool.false_eq_true, ite_false]
  simp (disch := decide) only [lo_of, hi_of, BitVec.extractLsb'_eq_self, Nat.reduceSub, Nat.sub_self, he]
  rfl

theorem atomN (b : BitVec 5) (v : BitVec 5) (o : BitVec 3) (t : BitVec 2) (u : BitVec 1) : Statement (.atomN b v o t u) := by
  rintro kk ⟨⟩
  have he : ∀ lo len, fld (encode (.atomN b v o t u)) lo len = @BitVec.extractLsb' (7+5+5+5+3+2+1+1+3) lo len (0x30#7 ++ 0x0#5 ++ b ++ v ++ o ++ t ++ 0x1#1 ++ u ++ 0x0#3) := fun _ _ => rfl
  have hm : major (encode (.atomN b v o t u)) = 0x30 := congrArg BitVec.toNat (show _ = 0x30#7 by rw [he]; simp (disch := decide) only [lo_of, hi_of, BitVec.extractLsb'_eq_self, Nat.reduceSub, Nat.sub_self])
  refine ⟨by rw [hm]; rfl, ?_⟩
  show rawDecodeMe _ = _
  unfold rawDecodeMe; rw [hm]
  show (if _ then _ else _) = _
  simp (disch := decide) only [lo_of, hi_of, BitVec.extractLsb'_eq_self, Nat.reduceSub, Nat.sub_self, he]
  rfl

theorem acas (d : BitVec 5) (b : BitVec 5) (e : BitVec 5) (v : BitVec 5) (t : BitVec 2) : Statement (.acas d b e v t) := by
  rintro kk ⟨⟩
  have he : ∀ lo len, fld (encode (.acas d b e v t)) lo len = @BitVec.extractLsb' (7+5+5+5+5+2+3) lo len (0x31#7 ++ d ++ b ++ e ++ v ++ t ++ 0x0#3) := fun _ _ => rfl
  have hm : major (encode (.acas d b e v t)) = 0x31 := congrArg BitVec.toNat (show _ = 0x31#7 by rw [he]; simp (disch := decide) only [lo_of, hi_of, BitVec.extractLsb'_eq_self, Nat.reduceSub, Nat.sub_self])
  refine ⟨by rw [hm]; rfl, ?_⟩
  show rawDecodeMe _ = _
  unfold rawDecodeMe; rw [hm]
  show (if _ then _ else _) = _
  simp (disch := decide) only [lo_of, hi_of, BitVec.extractLsb'_eq_self, Nat.reduceSub, Nat.sub_self, he]
  rfl

theorem rsf (v : BitVec 5) (b : BitVec 5) : Statement (.rsf v b) := by
  rintro kk ⟨⟩
  have he : ∀ lo len, fld (encode (.rsf v b)) lo len = @BitVec.extractLsb' (7+5+5+15) lo len (0x32#7 ++ v ++ b ++ 0x0#15) := fun _ _ => rfl
  have hm : major (encode (.rsf v b)) = 0x32 := congrArg BitVec.toNat (show _ = 0x32#7 by rw [he]; simp (disch := decide) only [lo_of, hi_of, BitVec.extractLsb'_eq_self, Nat.reduceSub, Nat.sub_self])
  refine ⟨by rw [hm]; rfl, ?_⟩
  show rawDecodeMe _ = _
  unfold rawDecodeMe; rw [hm]
  show (if _ then _ else _) = _
  simp (disch := decide) only [lo_of, hi_of, BitVec.extractLsb'_eq_self, Nat.reduceSub, Nat.sub_self, he]
  rfl

theorem rsfV (v : BitVec 6) (b : BitVec 5) (p : BitVec 2) : Statement (.rsfV v b p) := by
  rintro kk ⟨⟩
  have he : ∀ lo len, fld (encode (.rsfV v b p)) lo len = @BitVec.extractLsb' (7+6+5+11+2+1) lo len (0x32#7 ++ v ++ b ++ 0x0#11 ++ p ++ 0x1#1) := fun _ _ => rfl
  have hm : major (encode (.rsfV v b p)) = 0x32 := congrArg BitVec.toNat (show _ = 0x32#7 by rw [he]; simp (disch := decide) only [lo_of, hi_of, BitVec.extractLsb'_eq_self, Nat.reduceSub, Nat.sub_self])
  refine ⟨by rw [hm]; rfl, ?_⟩
  show rawDecodeMe _ = _
  unfold rawDecodeMe; rw [hm]
  have hn0 : (fld (encode (.rsfV v b p)) 0 15 == 0x0) = false :=
    fld_bne _ 0 15 0 1 _ (by rw [he]; simp (disch := decide) only [lo_of, hi_of, BitVec.extractLsb'_eq_self, Nat.reduceSub, Nat.sub_self]; decide) (by decide)
  show (if _ then _ else _) = _
  simp only [hn0, Bool.false_and, Bool.and_false, Bool.false_eq_true, ite_false]
  simp (disch := decide) only [lo_of, hi_of, BitVec.extractLsb'_eq_self, Nat.reduceSub, Nat.sub_self, he]
  rfl

theorem rsb (v : BitVec 5) (b : BitVec 5) : Statement (.rsb v b) := by
  rintro kk ⟨⟩
  have he : ∀ lo len, fld (encode (.rsb v b)) lo len = @BitVec.extractLsb' (7+5+5+15) lo len (0x33#7 ++ v ++ b ++ 0x0#15) := fun _ _ => rfl
  have hm : major (encode (.rsb v b)) = 0x33 := congrArg BitVec.toNat (show _ = 0x33#7 by rw [he]; simp (disch := decide) only [lo_of, hi_of, BitVec.extractLsb'_eq_self, Nat.reduceSub, Nat.sub_self])
  refine ⟨by rw [hm]; rfl, ?_⟩
  show rawDecodeMe _ = _
  unfold rawDecodeMe; rw [hm]
  show (if _ then _ else _) = _
  simp (disch := decide) only [lo_of, hi_of, BitVec.extractLsb'_eq_self, Nat.reduceSub, Nat.sub_self, he]
  rfl

theorem rsbV (v : BitVec 6) (b : BitVec 5) (p : BitVec 2) : Statement (.rsbV v b p) := by
  rintro kk ⟨⟩
  have he : ∀ lo len, fld (encode (.rsbV v b p)) lo len = @BitVec.extractLsb' (7+6+5+11+2+1) lo len (0x33#7 ++ v ++ b ++ 0x0#11 ++ p ++ 0x1#1) := fun _ _ => rfl
  have hm : major (encode (.rsbV v b p)) = 0x33 := congrArg BitVec.toNat (show _ = 0x33#7 by rw [he]; simp (disch := decide) only [lo_of, hi_of, BitVec.extractLsb'_eq_self, Nat.reduceSub, Nat.sub_self])
  refine ⟨by rw [hm]; rfl, ?_⟩
  show rawDecodeMe _ = _
  unfold rawDecodeMe; rw [hm]
  have hn0 : (fld (encode (.rsbV v b p)) 0 15 == 0x0) = false :=
    fld_bne _ 0 15 0 1 _ (by rw [he]; simp (disch := decide) only [lo_of, hi_of, BitVec.extractLsb'_eq_self, Nat.reduceSub, Nat.sub_self]; decide) (by decide)
  show (if _ then _ else _) = _
  simp only [hn0, Bool.false_and, Bool.and_false, Bool.false_eq_true, ite_false]
  simp (disch := decide) only [lo_of, hi_of, BitVec.extractLsb'_eq_self, Nat.reduceSub, Nat.sub_self, he]
  rfl

theorem rso (v : BitVec 5) (b : BitVec 5) (i : BitVec 5) (w : BitVec 6) : Statement (.rso v b i w) := by
  rintro kk ⟨⟩
  have he : ∀ lo len, fld (encode (.rso v b i w)) lo len = @BitVec.extractLsb' (7+5+5+5+6+4) lo len (0x34#7 ++ v ++ b ++ i ++ w ++ 0x0#4) := fun _ _ => rfl
  have hm : major (encode (.rso v b i w)) = 0x34 := congrArg BitVec.toNat (show _ = 0x34#7 by rw [he]; simp (disch := decide) only [lo_of, hi_of, BitVec.extractLsb'_eq_self, Nat.reduceSub, Nat.sub_self])
  refine ⟨by rw [hm]; rfl, ?_⟩
  show rawDecodeMe _ = _
  unfold rawDecodeMe; rw [hm]
  show (if _ then _ else _) = _
  simp (disch := decide) only [lo_of, hi_of, BitVec.extractLsb'_eq_self, Nat.reduceSub, Nat.sub_self, he]
  rfl

theorem rsoV (v : BitVec 6) (b : BitVec 5) (i : BitVec 5) (w : BitVec 6) (p : BitVec 2) : Statement (.rsoV v b i w p) := by
  rintro kk ⟨⟩
  have he : ∀ lo len, fld (encode (.rsoV v b i w p)) lo len = @BitVec.extractLsb' (7+6+5+5+6+2+1) lo len (0x34#7 ++ v ++ b ++ i ++ w ++ p ++ 0x1#1) := fun _ _ => rfl
  have hm : major (encode (.rsoV v b i w p)) = 0x34 := congrArg BitVec.toNat (show _ = 0x34#7 by rw [he]; simp (disch := decide) only [lo_of, hi_of, BitVec.extractLsb'_eq_self, Nat.reduceSub, Nat.sub_self])
  refine ⟨by rw [hm]; rfl, ?_⟩
  show rawDecodeMe _ = _
  unfold rawDecodeMe; rw [hm]
  have hn0 : (fld (encode (.rsoV v b i w p)) 0 4 == 0x0) = false :=
    fld_bne _ 0 4 0 1 _ (by rw [he]; simp (disch := decide) only [lo_of, hi_of, BitVec.extractLsb'_eq_self, Nat.reduceSub, Nat.sub_self]; decide) (by decide)
  show (if _ then _ else _) = _
  simp only [hn0, Bool.false_and, Bool.and_false, Bool.false_eq_true, ite_false]
  simp (disch := decide) only [lo_of, hi_of, BitVec.extractLsb'_eq_self, Nat.reduceSub, Nat.sub_self, he]
  rfl

theorem roopen (d : BitVec 5) (b : BitVec 5) (c : BitVec 5) (w : BitVec 6) : Statement (.roopen d b c w) := by
  rintro kk ⟨⟩
  have he : ∀ lo len, fld (encode (.roopen d b c w)) lo len = @BitVec.extractLsb' (7+5+5+5+6+4) lo len (0x35#7 ++ d ++ b ++ c ++ w ++ 0x0#4) := fun _ _ => rfl
  have hm : major (encode (.roopen d b c w)) = 0x35 := congrArg BitVec.toNat (show _ = 0x35#7 by rw [he]; simp (disch := decide) only [lo_of, hi_of, BitVec.extractLsb'_eq_self, Nat.reduceSub, Nat.sub_self])
  refine ⟨by rw [hm]; rfl, ?_⟩
  show rawDecodeMe _ = _
  unfold rawDecodeMe; rw [hm]
  have hn0 : (fld (encode (.roopen d b c w)) 0 4 == 0x8) = false :=
    by rw [he]; simp (disch := decide) only [lo_of, hi_of, BitVec.extractLsb'_eq_self, Nat.reduceSub, Nat.sub_self]; decide
  show (if _ then _ else _) = _
  simp only [hn0, Bool.false_and, Bool.and_false, Bool.false_eq_true, ite_false]
  simp (disch := decide) only [lo_of, hi_of, BitVec.extractLsb'_eq_self, Nat.reduceSub, Nat.sub_self, he]
  rfl

theorem roopenX (d : BitVec 5) (w : BitVec 6) : Statement (.roopenX d w) := by
  rintro kk ⟨⟩
  have he : ∀ lo len, fld (encode (.roopenX d w)) lo len = @BitVec.extractLsb' (7+5+10+6+4) lo len (0x35#7 ++ d ++ 0x0#10 ++ w ++ 0x8#4) := fun _ _ => rfl
  have hm : major (encode (.roopenX d w)) = 0x35 := congrArg BitVec.toNat (show _ = 0x35#7 by rw [he]; simp (disch := decide) only [lo_of, hi_of, BitVec.extractLsb'_eq_self, Nat.reduceSub, Nat.sub_self])
  refine ⟨by rw [hm]; rfl, ?_⟩
  show rawDecodeMe _ = _
  unfold rawDecodeMe; rw [hm]
  show (if _ then _ else _) = _
  simp (disch := decide) only [lo_of, hi_of, BitVec.extractLsb'_eq_self, Nat.reduceSub, Nat.sub_self, he]
  rfl

theorem binit (e : BitVec 5) (b : BitVec 5) : Statement (.binit e b) := by
  rintro kk ⟨⟩
  have he : ∀ lo len, fld (encode (.binit e b)) lo len = @BitVec.extractLsb' (7+5+5+15) lo len (0x36#7 ++ e ++ b ++ 0x0#15) := fun _ _ => rfl
  have hm : major (encode (.binit e b)) = 0x36 := congrArg BitVec.toNat (show _ = 0x36#7 by rw [he]; simp (disch := decide) only [lo_of, hi_of, BitVec.extractLsb'_eq_self, Nat.reduceSub, Nat.sub_self])
  refine ⟨by rw [hm]; rfl, ?_⟩
  show rawDecodeMe _ = _
  unfold rawDecodeMe; rw [hm]
  show (if _ then _ else _) = _
  simp (disch := decide) only [lo_of, hi_of, BitVec.extractLsb'_eq_self, Nat.reduceSub, Nat.sub_self, he]
  rfl

theorem binitV (e : BitVec 5) (b : BitVec 5) (n : BitVec 5) : Statement (.binitV e b n) := by
  rintro kk ⟨⟩
  have he : ∀ lo len, fld (encode (.binitV e b n)) lo len = @BitVec.extractLsb' (7+5+5+5+10) lo len (0x36#7 ++ e ++ b ++ n ++ 0x1#10) := fun _ _ => rfl
  have hm : major (encode (.binitV e b n)) = 0x36 := congrArg BitVec.toNat (show _ = 0x36#7 by rw [he]; simp (disch := decide) only [lo_of, hi_of, BitVec.extractLsb'_eq_self, Nat.reduceSub, Nat.sub_self])
  refine ⟨by rw [hm]; rfl, ?_⟩
  show rawDecodeMe _ = _
  unfold rawDecodeMe; rw [hm]
  have hn0 : (fld (encode (.binitV e b n)) 0 15 == 0x0) = false :=
    fld_bne _ 0 15 0 10 _ (by rw [he]; simp (disch := decide) only [lo_of, hi_of, BitVec.extractLsb'_eq_self, Nat.reduceSub, Nat.sub_self]; decide) (by decide)
  show (if _ then _ else _) = _
  simp only [hn0, Bool.false_and, Bool.and_false, Bool.false_eq_true, ite_false]
  simp (disch := decide) only [lo_of, hi_of, BitVec.extractLsb'_eq_self, Nat.reduceSub, Nat.sub_self, he]
  rfl

theorem bfin (d : BitVec 5) (b : BitVec 5) : Statement (.bfin d b) := by
  rintro kk ⟨⟩
  have he : ∀ lo len, fld (encode (.bfin d b)) lo len = @BitVec.extractLsb' (7+5+5+15) lo len (0x37#7 ++ d ++ b ++ 0x0#15) := fun _ _ => rfl
  have hm : major (encode (.bfin d b)) = 0x37 := congrArg BitVec.toNat (show _ = 0x37#7 by rw [he]; simp (disch := decide) only [lo_of, hi_of, BitVec.extractLsb'_eq_self, Nat.reduceSub, Nat.sub_self])
  refine ⟨by rw [hm]; rfl, ?_⟩
  show rawDecodeMe _ = _
  unfold rawDecodeMe; rw [hm]
  show (if _ then _ else _) = _
  simp (disch := decide) only [lo_of, hi_of, BitVec.extractLsb'_eq_self, Nat.reduceSub, Nat.sub_self, he]
  rfl

theorem bfinV (b : BitVec 5) (n : BitVec 5) (v : BitVec 6) : Statement (.bfinV b n v) := by
  rintro kk ⟨⟩
  have he : ∀ lo len, fld (encode (.bfinV b n v)) lo len = @BitVec.extractLsb' (7+5+5+5+6+4) lo len (0x37#7 ++ 0x0#5 ++ b ++ n ++ v ++ 0x1#4) := fun _ _ => rfl
  have hm : major (encode (.bfinV b n v)) = 0x37 := congrArg BitVec.toNat (show _ = 0x37#7 by rw [he]; simp (disch := decide) only [lo_of, hi_of, BitVec.extractLsb'_eq_self, Nat.reduceSub, Nat.sub_self])
  refine ⟨by rw [hm]; rfl, ?_⟩
  show rawDecodeMe _ = _
  unfold rawDecodeMe; rw [hm]
  have hn0 : (fld (encode (.bfinV b n v)) 0 15 == 0x0) = false :=
    fld_bne _ 0 15 0 4 _ (by rw [he]; simp (disch := decide) only [lo_of, hi_of, BitVec.extractLsb'_eq_self, Nat.reduceSub, Nat.sub_self]; decide) (by decide)
  show (if _ then _ else _) = _
  simp only [hn0, Bool.false_and, Bool.and_false, Bool.false_eq_true, ite_false]
  simp (disch := decide) only [lo_of, hi_of, BitVec.extractLsb'_eq_self, Nat.reduceSub, Nat.sub_self, he]
  rfl

theorem bnorm (b : BitVec 5) : Statement (.bnorm b) := by
  rintro kk ⟨⟩
  have he : ∀ lo len, fld (encode (.bnorm b)) lo len = @BitVec.extractLsb' (7+5+5+15) lo len (0x38#7 ++ 0x0#5 ++ b ++ 0x0#15) := fun _ _ => rfl
  have hm : major (encode (.bnorm b)) = 0x38 := congrArg BitVec.toNat (show _ = 0x38#7 by rw [he]; simp (disch := decide) only [lo_of, hi_of, BitVec.extractLsb'_eq_self, Nat.reduceSub, Nat.sub_self])
  refine ⟨by rw [hm]; rfl, ?_⟩
  show rawDecodeMe _ = _
  unfold rawDecodeMe; rw [hm]
  show (if _ then _ else _) = _
  simp (disch := decide) only [lo_of, hi_of, BitVec.extractLsb'_eq_self, Nat.reduceSub, Nat.sub_self, he]
  rfl

theorem bnormV (b : BitVec 5) (n : BitVec 5) : Statement (.bnormV b n) := by
  rintro kk ⟨⟩
  have he : ∀ lo len, fld (encode (.bnormV b n)) lo len = @BitVec.extractLsb' (7+5+5+5+10) lo len (0x38#7 ++ 0x0#5 ++ b ++ n ++ 0x1#10) := fun _ _ => rfl
  have hm : major (encode (.bnormV b n)) = 0x38 := congrArg BitVec.toNat (show _ = 0x38#7 by rw [he]; simp (disch := decide) only [lo_of, hi_of, BitVec.extractLsb'_eq_self, Nat.reduceSub, Nat.sub_self])
  refine ⟨by rw [hm]; rfl, ?_⟩
  show rawDecodeMe _ = _
  unfold rawDecodeMe; rw [hm]
  have hn0 : (fld (encode (.bnormV b n)) 0 15 == 0x0) = false :=
    fld_bne _ 0 15 0 10 _ (by rw [he]; simp (disch := decide) only [lo_of, hi_of, BitVec.extractLsb'_eq_self, Nat.reduceSub, Nat.sub_self]; decide) (by decide)
  show (if _ then _ else _) = _
  simp only [hn0, Bool.false_and, Bool.and_false, Bool.false_eq_true, ite_false]
  simp (disch := decide) only [lo_of, hi_of, BitVec.extractLsb'_eq_self, Nat.reduceSub, Nat.sub_self, he]
  rfl

theorem dqpush (b : BitVec 5) (v : BitVec 5) (t : BitVec 5) : Statement (.dqpush b v t) := by
  rintro kk ⟨⟩
  have he : ∀ lo len, fld (encode (.dqpush b v t)) lo len = @BitVec.extractLsb' (7+5+5+5+5+5) lo len (0x39#7 ++ 0x0#5 ++ b ++ v ++ t ++ 0x0#5) := fun _ _ => rfl
  have hm : major (encode (.dqpush b v t)) = 0x39 := congrArg BitVec.toNat (show _ = 0x39#7 by rw [he]; simp (disch := decide) only [lo_of, hi_of, BitVec.extractLsb'_eq_self, Nat.reduceSub, Nat.sub_self])
  refine ⟨by rw [hm]; rfl, ?_⟩
  show rawDecodeMe _ = _
  unfold rawDecodeMe; rw [hm]
  show (if _ then _ else _) = _
  simp (disch := decide) only [lo_of, hi_of, BitVec.extractLsb'_eq_self, Nat.reduceSub, Nat.sub_self, he]
  rfl

theorem dqpop (d : BitVec 5) (b : BitVec 5) (t : BitVec 5) : Statement (.dqpop d b t) := by
  rintro kk ⟨⟩
  have he : ∀ lo len, fld (encode (.dqpop d b t)) lo len = @BitVec.extractLsb' (7+5+5+5+5+5) lo len (0x3A#7 ++ d ++ b ++ 0x0#5 ++ t ++ 0x0#5) := fun _ _ => rfl
  have hm : major (encode (.dqpop d b t)) = 0x3A := congrArg BitVec.toNat (show _ = 0x3A#7 by rw [he]; simp (disch := decide) only [lo_of, hi_of, BitVec.extractLsb'_eq_self, Nat.reduceSub, Nat.sub_self])
  refine ⟨by rw [hm]; rfl, ?_⟩
  show rawDecodeMe _ = _
  unfold rawDecodeMe; rw [hm]
  show (if _ then _ else _) = _
  simp (disch := decide) only [lo_of, hi_of, BitVec.extractLsb'_eq_self, Nat.reduceSub, Nat.sub_self, he]
  rfl

theorem dqsteal (d : BitVec 5) (b : BitVec 5) (t : BitVec 5) : Statement (.dqsteal d b t) := by
  rintro kk ⟨⟩
  have he : ∀ lo len, fld (encode (.dqsteal d b t)) lo len = @BitVec.extractLsb' (7+5+5+5+5+5) lo len (0x3B#7 ++ d ++ b ++ 0x0#5 ++ t ++ 0x0#5) := fun _ _ => rfl
  have hm : major (encode (.dqsteal d b t)) = 0x3B := congrArg BitVec.toNat (show _ = 0x3B#7 by rw [he]; simp (disch := decide) only [lo_of, hi_of, BitVec.extractLsb'_eq_self, Nat.reduceSub, Nat.sub_self])
  refine ⟨by rw [hm]; rfl, ?_⟩
  show rawDecodeMe _ = _
  unfold rawDecodeMe; rw [hm]
  show (if _ then _ else _) = _
  simp (disch := decide) only [lo_of, hi_of, BitVec.extractLsb'_eq_self, Nat.reduceSub, Nat.sub_self, he]
  rfl

theorem bara (d : BitVec 5) (b : BitVec 5) : Statement (.bara d b) := by
  rintro kk ⟨⟩
  have he : ∀ lo len, fld (encode (.bara d b)) lo len = @BitVec.extractLsb' (7+5+5+15) lo len (0x3C#7 ++ d ++ b ++ 0x0#15) := fun _ _ => rfl
  have hm : major (encode (.bara d b)) = 0x3C := congrArg BitVec.toNat (show _ = 0x3C#7 by rw [he]; simp (disch := decide) only [lo_of, hi_of, BitVec.extractLsb'_eq_self, Nat.reduceSub, Nat.sub_self])
  refine ⟨by rw [hm]; rfl, ?_⟩
  show rawDecodeMe _ = _
  unfold rawDecodeMe; rw [hm]
  show (if _ then _ else _) = _
  simp (disch := decide) only [lo_of, hi_of, BitVec.extractLsb'_eq_self, Nat.reduceSub, Nat.sub_self, he]
  rfl

theorem barw (b : BitVec 5) (p : BitVec 5) : Statement (.barw b p) := by
  rintro kk ⟨⟩
  have he : ∀ lo len, fld (encode (.barw b p)) lo len = @BitVec.extractLsb' (7+5+5+5+10) lo len (0x3D#7 ++ 0x0#5 ++ b ++ p ++ 0x0#10) := fun _ _ => rfl
  have hm : major (encode (.barw b p)) = 0x3D := congrArg BitVec.toNat (show _ = 0x3D#7 by rw [he]; simp (disch := decide) only [lo_of, hi_of, BitVec.extractLsb'_eq_self, Nat.reduceSub, Nat.sub_self])
  refine ⟨by rw [hm]; rfl, ?_⟩
  show rawDecodeMe _ = _
  unfold rawDecodeMe; rw [hm]
  show (if _ then _ else _) = _
  simp (disch := decide) only [lo_of, hi_of, BitVec.extractLsb'_eq_self, Nat.reduceSub, Nat.sub_self, he]
  rfl

theorem tgrow (d : BitVec 5) (n : BitVec 5) : Statement (.tgrow d n) := by
  rintro kk ⟨⟩
  have he : ∀ lo len, fld (encode (.tgrow d n)) lo len = @BitVec.extractLsb' (7+5+5+15) lo len (0x3E#7 ++ d ++ n ++ 0x0#15) := fun _ _ => rfl
  have hm : major (encode (.tgrow d n)) = 0x3E := congrArg BitVec.toNat (show _ = 0x3E#7 by rw [he]; simp (disch := decide) only [lo_of, hi_of, BitVec.extractLsb'_eq_self, Nat.reduceSub, Nat.sub_self])
  refine ⟨by rw [hm]; rfl, ?_⟩
  show rawDecodeMe _ = _
  unfold rawDecodeMe; rw [hm]
  show (if _ then _ else _) = _
  simp (disch := decide) only [lo_of, hi_of, BitVec.extractLsb'_eq_self, Nat.reduceSub, Nat.sub_self, he]
  rfl

theorem sdclaim (d : BitVec 5) (b : BitVec 5) : Statement (.sdclaim d b) := by
  rintro kk ⟨⟩
  have he : ∀ lo len, fld (encode (.sdclaim d b)) lo len = @BitVec.extractLsb' (7+5+5+15) lo len (0x3F#7 ++ d ++ b ++ 0x0#15) := fun _ _ => rfl
  have hm : major (encode (.sdclaim d b)) = 0x3F := congrArg BitVec.toNat (show _ = 0x3F#7 by rw [he]; simp (disch := decide) only [lo_of, hi_of, BitVec.extractLsb'_eq_self, Nat.reduceSub, Nat.sub_self])
  refine ⟨by rw [hm]; rfl, ?_⟩
  show rawDecodeMe _ = _
  unfold rawDecodeMe; rw [hm]
  show (if _ then _ else _) = _
  simp (disch := decide) only [lo_of, hi_of, BitVec.extractLsb'_eq_self, Nat.reduceSub, Nat.sub_self, he]
  rfl

theorem sdfree (d : BitVec 5) (l : BitVec 5) : Statement (.sdfree d l) := by
  rintro kk ⟨⟩
  have he : ∀ lo len, fld (encode (.sdfree d l)) lo len = @BitVec.extractLsb' (7+5+5+15) lo len (0x40#7 ++ d ++ l ++ 0x0#15) := fun _ _ => rfl
  have hm : major (encode (.sdfree d l)) = 0x40 := congrArg BitVec.toNat (show _ = 0x40#7 by rw [he]; simp (disch := decide) only [lo_of, hi_of, BitVec.extractLsb'_eq_self, Nat.reduceSub, Nat.sub_self])
  refine ⟨by rw [hm]; rfl, ?_⟩
  show rawDecodeMe _ = _
  unfold rawDecodeMe; rw [hm]
  show (if _ then _ else _) = _
  simp (disch := decide) only [lo_of, hi_of, BitVec.extractLsb'_eq_self, Nat.reduceSub, Nat.sub_self, he]
  rfl

theorem waitm (v : BitVec 5) (b : BitVec 5) (c : BitVec 3) (o : BitVec 12) : Statement (.waitm v b c o) := by
  rintro kk ⟨⟩
  have he : ∀ lo len, fld (encode (.waitm v b c o)) lo len = @BitVec.extractLsb' (7+5+5+3+12) lo len (0x41#7 ++ v ++ b ++ c ++ o) := fun _ _ => rfl
  have hm : major (encode (.waitm v b c o)) = 0x41 := congrArg BitVec.toNat (show _ = 0x41#7 by rw [he]; simp (disch := decide) only [lo_of, hi_of, BitVec.extractLsb'_eq_self, Nat.reduceSub, Nat.sub_self])
  refine ⟨by rw [hm]; rfl, ?_⟩
  show rawDecodeMe _ = _
  unfold rawDecodeMe; rw [hm]
  show Except.ok _ = _
  simp (disch := decide) only [lo_of, hi_of, BitVec.extractLsb'_eq_self, Nat.reduceSub, Nat.sub_self, he]

theorem evpop (d : BitVec 5) (e : BitVec 5) : Statement (.evpop d e) := by
  rintro kk ⟨⟩
  have he : ∀ lo len, fld (encode (.evpop d e)) lo len = @BitVec.extractLsb' (7+5+5+15) lo len (0x60#7 ++ d ++ e ++ 0x0#15) := fun _ _ => rfl
  have hm : major (encode (.evpop d e)) = 0x60 := congrArg BitVec.toNat (show _ = 0x60#7 by rw [he]; simp (disch := decide) only [lo_of, hi_of, BitVec.extractLsb'_eq_self, Nat.reduceSub, Nat.sub_self])
  refine ⟨by rw [hm]; rfl, ?_⟩
  show rawDecodeMe _ = _
  unfold rawDecodeMe; rw [hm]
  show (if _ then _ else _) = _
  simp (disch := decide) only [lo_of, hi_of, BitVec.extractLsb'_eq_self, Nat.reduceSub, Nat.sub_self, he]
  rfl

theorem evpopNb (d : BitVec 5) (e : BitVec 5) : Statement (.evpopNb d e) := by
  rintro kk ⟨⟩
  have he : ∀ lo len, fld (encode (.evpopNb d e)) lo len = @BitVec.extractLsb' (7+5+5+15) lo len (0x60#7 ++ d ++ e ++ 0x1#15) := fun _ _ => rfl
  have hm : major (encode (.evpopNb d e)) = 0x60 := congrArg BitVec.toNat (show _ = 0x60#7 by rw [he]; simp (disch := decide) only [lo_of, hi_of, BitVec.extractLsb'_eq_self, Nat.reduceSub, Nat.sub_self])
  refine ⟨by rw [hm]; rfl, ?_⟩
  show rawDecodeMe _ = _
  unfold rawDecodeMe; rw [hm]
  have hn0 : (fld (encode (.evpopNb d e)) 0 15 == 0x0) = false :=
    by rw [he]; simp (disch := decide) only [lo_of, hi_of, BitVec.extractLsb'_eq_self, Nat.reduceSub, Nat.sub_self]; decide
  show (if _ then _ else _) = _
  simp only [hn0, Bool.false_and, Bool.and_false, Bool.false_eq_true, ite_false]
  simp (disch := decide) only [lo_of, hi_of, BitVec.extractLsb'_eq_self, Nat.reduceSub, Nat.sub_self, he]
  rfl

theorem launch (b : BitVec 5) : Statement (.launch b) := by
  rintro kk ⟨⟩
  have he : ∀ lo len, fld (encode (.launch b)) lo len = @BitVec.extractLsb' (7+5+5+15) lo len (0x61#7 ++ 0x0#5 ++ b ++ 0x0#15) := fun _ _ => rfl
  have hm : major (encode (.launch b)) = 0x61 := congrArg BitVec.toNat (show _ = 0x61#7 by rw [he]; simp (disch := decide) only [lo_of, hi_of, BitVec.extractLsb'_eq_self, Nat.reduceSub, Nat.sub_self])
  refine ⟨by rw [hm]; rfl, ?_⟩
  show rawDecodeMe _ = _
  unfold rawDecodeMe; rw [hm]
  show (if _ then _ else _) = _
  simp (disch := decide) only [lo_of, hi_of, BitVec.extractLsb'_eq_self, Nat.reduceSub, Nat.sub_self, he]
  rfl

theorem notify (n : BitVec 11) : Statement (.notify n) := by
  rintro kk ⟨⟩
  have he : ∀ lo len, fld (encode (.notify n)) lo len = @BitVec.extractLsb' (7+14+11) lo len (0x62#7 ++ 0x0#14 ++ n) := fun _ _ => rfl
  have hm : major (encode (.notify n)) = 0x62 := congrArg BitVec.toNat (show _ = 0x62#7 by rw [he]; simp (disch := decide) only [lo_of, hi_of, BitVec.extractLsb'_eq_self, Nat.reduceSub, Nat.sub_self])
  refine ⟨by rw [hm]; rfl, ?_⟩
  show rawDecodeMe _ = _
  unfold rawDecodeMe; rw [hm]
  show (if _ then _ else _) = _
  simp (disch := decide) only [lo_of, hi_of, BitVec.extractLsb'_eq_self, Nat.reduceSub, Nat.sub_self, he]
  rfl

theorem mzero (a : BitVec 3) : Statement (.mzero a) := by
  rintro kk ⟨⟩
  have he : ∀ lo len, fld (encode (.mzero a)) lo len = @BitVec.extractLsb' (7+3+22) lo len (0x1#7 ++ a ++ 0x0#22) := fun _ _ => rfl
  have hm : major (encode (.mzero a)) = 0x1 := congrArg BitVec.toNat (show _ = 0x1#7 by rw [he]; simp (disch := decide) only [lo_of, hi_of, BitVec.extractLsb'_eq_self, Nat.reduceSub, Nat.sub_self])
  refine ⟨by rw [hm]; rfl, ?_⟩
  show rawDecodeMx _ = _
  unfold rawDecodeMx; rw [hm]
  show (if _ then _ else _) = _
  simp (disch := decide) only [lo_of, hi_of, BitVec.extractLsb'_eq_self, Nat.reduceSub, Nat.sub_self, he]
  rfl

theorem mldb (g : BitVec 2) (a : BitVec 5) (f : BitVec 3) (s : BitVec 2) (x : BitVec 1) : Statement (.mldb g a f s x) := by
  rintro kk ⟨⟩
  have he : ∀ lo len, fld (encode (.mldb g a f s x)) lo len = @BitVec.extractLsb' (7+2+5+3+2+1+12) lo len (0x2#7 ++ g ++ a ++ f ++ s ++ x ++ 0x0#12) := fun _ _ => rfl
  have hm : major (encode (.mldb g a f s x)) = 0x2 := congrArg BitVec.toNat (show _ = 0x2#7 by rw [he]; simp (disch := decide) only [lo_of, hi_of, BitVec.extractLsb'_eq_self, Nat.reduceSub, Nat.sub_self])
  refine ⟨by rw [hm]; rfl, ?_⟩
  show rawDecodeMx _ = _
  unfold rawDecodeMx; rw [hm]
  show (if _ then _ else _) = _
  simp (disch := decide) only [lo_of, hi_of, BitVec.extractLsb'_eq_self, Nat.reduceSub, Nat.sub_self, he]
  rfl

theorem mgenbPure (n : BitVec 4) (s : BitVec 3) (c : BitVec 5) (f : BitVec 2) : Statement (.mgenbPure n s c f) := by
  rintro kk ⟨⟩
  have he : ∀ lo len, fld (encode (.mgenbPure n s c f)) lo len = @BitVec.extractLsb' (7+4+3+5+11+2) lo len (0x3#7 ++ n ++ s ++ c ++ 0x0#11 ++ f) := fun _ _ => rfl
  have hm : major (encode (.mgenbPure n s c f)) = 0x3 := congrArg BitVec.toNat (show _ = 0x3#7 by rw [he]; simp (disch := decide) only [lo_of, hi_of, BitVec.extractLsb'_eq_self, Nat.reduceSub, Nat.sub_self])
  refine ⟨by rw [hm]; rfl, ?_⟩
  show rawDecodeMx _ = _
  unfold rawDecodeMx; rw [hm]
  show (if _ then _ else _) = _
  simp (disch := decide) only [lo_of, hi_of, BitVec.extractLsb'_eq_self, Nat.reduceSub, Nat.sub_self, he]
  rfl

theorem mgenbAdd (n : BitVec 4) (s : BitVec 3) (c : BitVec 5) (b : BitVec 5) (l : BitVec 5) (f : BitVec 2) : Statement (.mgenbAdd n s c b l f) := by
  rintro kk ⟨⟩
  have he : ∀ lo len, fld (encode (.mgenbAdd n s c b l f)) lo len = @BitVec.extractLsb' (7+4+3+5+5+5+1+2) lo len (0x3#7 ++ n ++ s ++ c ++ b ++ l ++ 0x1#1 ++ f) := fun _ _ => rfl
  have hm : major (encode (.mgenbAdd n s c b l f)) = 0x3 := congrArg BitVec.toNat (show _ = 0x3#7 by rw [he]; simp (disch := decide) only [lo_of, hi_of, BitVec.extractLsb'_eq_self, Nat.reduceSub, Nat.sub_self])
  refine ⟨by rw [hm]; rfl, ?_⟩
  show rawDecodeMx _ = _
  unfold rawDecodeMx; rw [hm]
  have hn0 : (fld (encode (.mgenbAdd n s c b l f)) 2 11 == 0x0) = false :=
    fld_bne _ 2 11 0 1 _ (by rw [he]; simp (disch := decide) only [lo_of, hi_of, BitVec.extractLsb'_eq_self, Nat.reduceSub, Nat.sub_self]; decide) (by decide)
  show (if _ then _ else _) = _
  simp only [hn0, Bool.false_and, Bool.and_false, Bool.false_eq_true, ite_false]
  simp (disch := decide) only [lo_of, hi_of, BitVec.extractLsb'_eq_self, Nat.reduceSub, Nat.sub_self, he]
  rfl

theorem mswap : Statement .mswap := by
  rintro kk ⟨⟩
  exact ⟨rfl, rfl⟩

theorem mma (a : BitVec 3) (g : BitVec 2) (s : BitVec 5) (m : BitVec 7) (f : BitVec 3) (c : BitVec 2) (x : BitVec 1) : Statement (.mma a g s m f c x) := by
  rintro kk ⟨⟩
  have he : ∀ lo len, fld (encode (.mma a g s m f c x)) lo len = @BitVec.extractLsb' (7+3+2+5+7+3+2+1+2) lo len (0x5#7 ++ a ++ g ++ s ++ m ++ f ++ c ++ x ++ 0x0#2) := fun _ _ => rfl
  have hm : major (encode (.mma a g s m f c x)) = 0x5 := congrArg BitVec.toNat (show _ = 0x5#7 by rw [he]; simp (disch := decide) only [lo_of, hi_of, BitVec.extractLsb'_eq_self, Nat.reduceSub, Nat.sub_self])
  refine ⟨by rw [hm]; rfl, ?_⟩
  show rawDecodeMx _ = _
  unfold rawDecodeMx; rw [hm]
  show (if _ then _ else _) = _
  simp (disch := decide) only [lo_of, hi_of, BitVec.extractLsb'_eq_self, Nat.reduceSub, Nat.sub_self, he]
  rfl

theorem mmat (a : BitVec 3) (g : BitVec 2) (s : BitVec 5) (p : BitVec 5) (f : BitVec 3) (c : BitVec 2) (x : BitVec 1) : Statement (.mmat a g s p f c x) := by
  rintro kk ⟨⟩
  have he : ∀ lo len, fld (encode (.mmat a g s p f c x)) lo len = @BitVec.extractLsb' (7+3+2+5+5+3+2+1+4) lo len (0x6#7 ++ a ++ g ++ s ++ p ++ f ++ c ++ x ++ 0x0#4) := fun _ _ => rfl
  have hm : major (encode (.mmat a g s p f c x)) = 0x6 := congrArg BitVec.toNat (show _ = 0x6#7 by rw [he]; simp (disch := decide) only [lo_of, hi_of, BitVec.extractLsb'_eq_self, Nat.reduceSub, Nat.sub_self])
  refine ⟨by rw [hm]; rfl, ?_⟩
  show rawDecodeMx _ = _
  unfold rawDecodeMx; rw [hm]
  show (if _ then _ else _) = _
  simp (disch := decide) only [lo_of, hi_of, BitVec.extractLsb'_eq_self, Nat.reduceSub, Nat.sub_self, he]
  rfl

theorem mmag (a : BitVec 3) (n : BitVec 4) (e : BitVec 3) (c : BitVec 5) (m : BitVec 7) (f : BitVec 3) : Statement (.mmag a n e c m f) := by
  rintro kk ⟨⟩
  have he : ∀ lo len, fld (encode (.mmag a n e c m f)) lo len = @BitVec.extractLsb' (7+3+4+3+5+7+3) lo len (0x7#7 ++ a ++ n ++ e ++ c ++ m ++ f) := fun _ _ => rfl
  have hm : major (encode (.mmag a n e c m f)) = 0x7 := congrArg BitVec.toNat (show _ = 0x7#7 by rw [he]; simp (disch := decide) only [lo_of, hi_of, BitVec.extractLsb'_eq_self, Nat.reduceSub, Nat.sub_self])
  refine ⟨by rw [hm]; rfl, ?_⟩
  show rawDecodeMx _ = _
  unfold rawDecodeMx; rw [hm]
  show Except.ok _ = _
  simp (disch := decide) only [lo_of, hi_of, BitVec.extractLsb'_eq_self, Nat.reduceSub, Nat.sub_self, he]

theorem mcop (s : BitVec 5) : Statement (.mcop s) := by
  rintro kk ⟨⟩
  have he : ∀ lo len, fld (encode (.mcop s)) lo len = @BitVec.extractLsb' (7+5+20) lo len (0x8#7 ++ s ++ 0x0#20) := fun _ _ => rfl
  have hm : major (encode (.mcop s)) = 0x8 := congrArg BitVec.toNat (show _ = 0x8#7 by rw [he]; simp (disch := decide) only [lo_of, hi_of, BitVec.extractLsb'_eq_self, Nat.reduceSub, Nat.sub_self])
  refine ⟨by rw [hm]; rfl, ?_⟩
  show rawDecodeMx _ = _
  unfold rawDecodeMx; rw [hm]
  have hn0 : (fld (encode (.mcop s)) 0 25 == 0x1) = false :=
    fld_bne _ 0 25 0 20 _ (by rw [he]; simp (disch := decide) only [lo_of, hi_of, BitVec.extractLsb'_eq_self, Nat.reduceSub, Nat.sub_self]; decide) (by decide)
  show (if _ then _ else _) = _
  simp only [hn0, Bool.false_and, Bool.and_false, Bool.false_eq_true, ite_false]
  simp (disch := decide) only [lo_of, hi_of, BitVec.extractLsb'_eq_self, Nat.reduceSub, Nat.sub_self, he]
  rfl

theorem mcopMad : Statement .mcopMad := by
  rintro kk ⟨⟩
  exact ⟨rfl, rfl⟩

theorem mdrv (v : BitVec 6) (a : BitVec 3) (r : BitVec 5) (f : BitVec 3) (c : BitVec 1) : Statement (.mdrv v a r f c) := by
  rintro kk ⟨⟩
  have he : ∀ lo len, fld (encode (.mdrv v a r f c)) lo len = @BitVec.extractLsb' (7+6+3+5+3+1+7) lo len (0x9#7 ++ v ++ a ++ r ++ f ++ c ++ 0x0#7) := fun _ _ => rfl
  have hm : major (encode (.mdrv v a r f c)) = 0x9 := congrArg BitVec.toNat (show _ = 0x9#7 by rw [he]; simp (disch := decide) only [lo_of, hi_of, BitVec.extractLsb'_eq_self, Nat.reduceSub, Nat.sub_self])
  refine ⟨by rw [hm]; rfl, ?_⟩
  show rawDecodeMx _ = _
  unfold rawDecodeMx; rw [hm]
  show (if _ then _ else _) = _
  simp (disch := decide) only [lo_of, hi_of, BitVec.extractLsb'_eq_self, Nat.reduceSub, Nat.sub_self, he]
  rfl

theorem mdrs (a : BitVec 3) (g : BitVec 2) (s : BitVec 5) (r : BitVec 5) (f : BitVec 3) : Statement (.mdrs a g s r f) := by
  rintro kk ⟨⟩
  have he : ∀ lo len, fld (encode (.mdrs a g s r f)) lo len = @BitVec.extractLsb' (7+3+2+5+5+3+7) lo len (0xA#7 ++ a ++ g ++ s ++ r ++ f ++ 0x0#7) := fun _ _ => rfl
  have hm : major (encode (.mdrs a g s r f)) = 0xA := congrArg BitVec.toNat (show _ = 0xA#7 by rw [he]; simp (disch := decide) only [lo_of, hi_of, BitVec.extractLsb'_eq_self, Nat.reduceSub, Nat.sub_self])
  refine ⟨by rw [hm]; rfl, ?_⟩
  show rawDecodeMx _ = _
  unfold rawDecodeMx; rw [hm]
  show (if _ then _ else _) = _
  simp (disch := decide) only [lo_of, hi_of, BitVec.extractLsb'_eq_self, Nat.reduceSub, Nat.sub_self, he]
  rfl

theorem madp (a : BitVec 3) (g : BitVec 2) (s : BitVec 5) (v : BitVec 6) (p : BitVec 2) (m : BitVec 7) : Statement (.madp a g s v p m) := by
  rintro kk ⟨⟩
  have he : ∀ lo len, fld (encode (.madp a g s v p m)) lo len = @BitVec.extractLsb' (7+3+2+5+6+2+7) lo len (0xB#7 ++ a ++ g ++ s ++ v ++ p ++ m) := fun _ _ => rfl
  have hm : major (encode (.madp a g s v p m)) = 0xB := congrArg BitVec.toNat (show _ = 0xB#7 by rw [he]; simp (disch := decide) only [lo_of, hi_of, BitVec.extractLsb'_eq_self, Nat.reduceSub, Nat.sub_self])
  refine ⟨by rw [hm]; rfl, ?_⟩
  show rawDecodeMx _ = _
  unfold rawDecodeMx; rw [hm]
  show Except.ok _ = _
  simp (disch := decide) only [lo_of, hi_of, BitVec.extractLsb'_eq_self, Nat.reduceSub, Nat.sub_self, he]

theorem madt (d : BitVec 5) (i : BitVec 5) (a : BitVec 5) (b : BitVec 5) : Statement (.madt d i a b) := by
  rintro kk ⟨⟩
  have he : ∀ lo len, fld (encode (.madt d i a b)) lo len = @BitVec.extractLsb' (7+5+5+5+5+5) lo len (0xC#7 ++ d ++ i ++ a ++ b ++ 0x0#5) := fun _ _ => rfl
  have hm : major (encode (.madt d i a b)) = 0xC := congrArg BitVec.toNat (show _ = 0xC#7 by rw [he]; simp (disch := decide) only [lo_of, hi_of, BitVec.extractLsb'_eq_self, Nat.reduceSub, Nat.sub_self])
  refine ⟨by rw [hm]; rfl, ?_⟩
  show rawDecodeMx _ = _
  unfold rawDecodeMx; rw [hm]
  show (if _ then _ else _) = _
  simp (disch := decide) only [lo_of, hi_of, BitVec.extractLsb'_eq_self, Nat.reduceSub, Nat.sub_self, he]
  rfl

theorem mbase (a : BitVec 5) : Statement (.mbase a) := by
  rintro kk ⟨⟩
  have he : ∀ lo len, fld (encode (.mbase a)) lo len = @BitVec.extractLsb' (7+5+20) lo len (0xD#7 ++ a ++ 0x0#20) := fun _ _ => rfl
  have hm : major (encode (.mbase a)) = 0xD := congrArg BitVec.toNat (show _ = 0xD#7 by rw [he]; simp (disch := decide) only [lo_of, hi_of, BitVec.extractLsb'_eq_self, Nat.reduceSub, Nat.sub_self])
  refine ⟨by rw [hm]; rfl, ?_⟩
  show rawDecodeMx _ = _
  unfold rawDecodeMx; rw [hm]
  show (if _ then _ else _) = _
  simp (disch := decide) only [lo_of, hi_of, BitVec.extractLsb'_eq_self, Nat.reduceSub, Nat.sub_self, he]
  rfl

theorem mmaRag (a : BitVec 3) (g : BitVec 2) (s : BitVec 5) (x : BitVec 5) (h : BitVec 3) (f : BitVec 3) (c : BitVec 2) (k : BitVec 1) : Statement (.mmaRag a g s x h f c k) := by
  rintro kk ⟨⟩
  have he : ∀ lo len, fld (encode (.mmaRag a g s x h f c k)) lo len = @BitVec.extractLsb' (7+3+2+5+5+3+3+2+1+1) lo len (0xE#7 ++ a ++ g ++ s ++ x ++ h ++ f ++ c ++ k ++ 0x0#1) := fun _ _ => rfl
  have hm : major (encode (.mmaRag a g s x h f c k)) = 0xE := congrArg BitVec.toNat (show _ = 0xE#7 by rw [he]; simp (disch := decide) only [lo_of, hi_of, BitVec.extractLsb'_eq_self, Nat.reduceSub, Nat.sub_self])
  refine ⟨by rw [hm]; rfl, ?_⟩
  show rawDecodeMx _ = _
  unfold rawDecodeMx; rw [hm]
  show (if _ then _ else _) = _
  simp (disch := decide) only [lo_of, hi_of, BitVec.extractLsb'_eq_self, Nat.reduceSub, Nat.sub_self, he]
  rfl

theorem mdrvRag (v : BitVec 6) (a : BitVec 3) (r : BitVec 5) (x : BitVec 5) (h : BitVec 3) (f : BitVec 3) : Statement (.mdrvRag v a r x h f) := by
  rintro kk ⟨⟩
  have he : ∀ lo len, fld (encode (.mdrvRag v a r x h f)) lo len = @BitVec.extractLsb' (7+6+3+5+5+3+3) lo len (0xF#7 ++ v ++ a ++ r ++ x ++ h ++ f) := fun _ _ => rfl
  have hm : major (encode (.mdrvRag v a r x h f)) = 0xF := congrArg BitVec.toNat (show _ = 0xF#7 by rw [he]; simp (disch := decide) only [lo_of, hi_of, BitVec.extractLsb'_eq_self, Nat.reduceSub, Nat.sub_self])
  refine ⟨by rw [hm]; rfl, ?_⟩
  show rawDecodeMx _ = _
  unfold rawDecodeMx; rw [hm]
  show Except.ok _ = _
  simp (disch := decide) only [lo_of, hi_of, BitVec.extractLsb'_eq_self, Nat.reduceSub, Nat.sub_self, he]

theorem gload (n : BitVec 4) (a : BitVec 5) : Statement (.gload n a) := by
  rintro kk ⟨⟩
  have he : ∀ lo len, fld (encode (.gload n a)) lo len = @BitVec.extractLsb' (7+4+5+16) lo len (0x1#7 ++ n ++ a ++ 0x0#16) := fun _ _ => rfl
  have hm : major (encode (.gload n a)) = 0x1 := congrArg BitVec.toNat (show _ = 0x1#7 by rw [he]; simp (disch := decide) only [lo_of, hi_of, BitVec.extractLsb'_eq_self, Nat.reduceSub, Nat.sub_self])
  refine ⟨by rw [hm]; rfl, ?_⟩
  show rawDecodeGn _ = _
  unfold rawDecodeGn; rw [hm]
  show (if _ then _ else _) = _
  simp (disch := decide) only [lo_of, hi_of, BitVec.extractLsb'_eq_self, Nat.reduceSub, Nat.sub_self, he]
  rfl

theorem gfree (n : BitVec 4) : Statement (.gfree n) := by
  rintro kk ⟨⟩
  have he : ∀ lo len, fld (encode (.gfree n)) lo len = @BitVec.extractLsb' (7+4+21) lo len (0x2#7 ++ n ++ 0x0#21) := fun _ _ => rfl
  have hm : major (encode (.gfree n)) = 0x2 := congrArg BitVec.toNat (show _ = 0x2#7 by rw [he]; simp (disch := decide) only [lo_of, hi_of, BitVec.extractLsb'_eq_self, Nat.reduceSub, Nat.sub_self])
  refine ⟨by rw [hm]; rfl, ?_⟩
  show rawDecodeGn _ = _
  unfold rawDecodeGn; rw [hm]
  show (if _ then _ else _) = _
  simp (disch := decide) only [lo_of, hi_of, BitVec.extractLsb'_eq_self, Nat.reduceSub, Nat.sub_self, he]
  rfl

theorem gseed (s : BitVec 3) (a : BitVec 5) : Statement (.gseed s a) := by
  rintro kk ⟨⟩
  have he : ∀ lo len, fld (encode (.gseed s a)) lo len = @BitVec.extractLsb' (7+3+5+17) lo len (0x3#7 ++ s ++ a ++ 0x0#17) := fun _ _ => rfl
  have hm : major (encode (.gseed s a)) = 0x3 := congrArg BitVec.toNat (show _ = 0x3#7 by rw [he]; simp (disch := decide) only [lo_of, hi_of, BitVec.extractLsb'_eq_self, Nat.reduceSub, Nat.sub_self])
  refine ⟨by rw [hm]; rfl, ?_⟩
  show rawDecodeGn _ = _
  unfold rawDecodeGn; rw [hm]
  show (if _ then _ else _) = _
  simp (disch := decide) only [lo_of, hi_of, BitVec.extractLsb'_eq_self, Nat.reduceSub, Nat.sub_self, he]
  rfl

theorem geval (v : BitVec 6) (n : BitVec 4) (s : BitVec 3) (c : BitVec 5) (l : BitVec 5) (a : BitVec 1) : Statement (.geval v n s c l a) := by
  rintro kk ⟨⟩
  have he : ∀ lo len, fld (encode (.geval v n s c l a)) lo len = @BitVec.extractLsb' (7+6+4+3+5+5+1+1) lo len (0x4#7 ++ v ++ n ++ s ++ c ++ l ++ a ++ 0x0#1) := fun _ _ => rfl
  have hm : major (encode (.geval v n s c l a)) = 0x4 := congrArg BitVec.toNat (show _ = 0x4#7 by rw [he]; simp (disch := decide) only [lo_of, hi_of, BitVec.extractLsb'_eq_self, Nat.reduceSub, Nat.sub_self])
  refine ⟨by rw [hm]; rfl, ?_⟩
  show rawDecodeGn _ = _
  unfold rawDecodeGn; rw [hm]
  show (if _ then _ else _) = _
  simp (disch := decide) only [lo_of, hi_of, BitVec.extractLsb'_eq_self, Nat.reduceSub, Nat.sub_self, he]
  rfl

theorem gstat (d : BitVec 5) (n : BitVec 4) (s : BitVec 3) (q : BitVec 4) : Statement (.gstat d n s q) := by
  rintro kk ⟨⟩
  have he : ∀ lo len, fld (encode (.gstat d n s q)) lo len = @BitVec.extractLsb' (7+5+4+3+4+9) lo len (0x5#7 ++ d ++ n ++ s ++ q ++ 0x0#9) := fun _ _ => rfl
  have hm : major (encode (.gstat d n s q)) = 0x5 := congrArg BitVec.toNat (show _ = 0x5#7 by rw [he]; simp (disch := decide) only [lo_of, hi_of, BitVec.extractLsb'_eq_self, Nat.reduceSub, Nat.sub_self])
  refine ⟨by rw [hm]; rfl, ?_⟩
  show rawDecodeGn _ = _
  unfold rawDecodeGn; rw [hm]
  show (if _ then _ else _) = _
  simp (disch := decide) only [lo_of, hi_of, BitVec.extractLsb'_eq_self, Nat.reduceSub, Nat.sub_self, he]
  rfl

theorem cpy (t : BitVec 5) (a : BitVec 5) (b : BitVec 5) (h : BitVec 3) (s : BitVec 1) (f : BitVec 1) (q : BitVec 1) : Statement (.cpy t a b h s f q) := by
  rintro kk ⟨⟩
  have he : ∀ lo len, fld (encode (.cpy t a b h s f q)) lo len = @BitVec.extractLsb' (7+5+5+5+3+1+1+4+1) lo len (0x1#7 ++ t ++ a ++ b ++ h ++ s ++ f ++ 0x0#4 ++ q) := fun _ _ => rfl
  have hm : major (encode (.cpy t a b h s f q)) = 0x1 := congrArg BitVec.toNat (show _ = 0x1#7 by rw [he]; simp (disch := decide) only [lo_of, hi_of, BitVec.extractLsb'_eq_self, Nat.reduceSub, Nat.sub_self])
  refine ⟨by rw [hm]; rfl, ?_⟩
  show rawDecodeTx _ = _
  unfold rawDecodeTx; rw [hm]
  have hn0 : (fld (encode (.cpy t a b h s f q)) 1 4 == 0x2) = false :=
    by rw [he]; simp (disch := decide) only [lo_of, hi_of, BitVec.extractLsb'_eq_self, Nat.reduceSub, Nat.sub_self]; decide
  show (if _ then _ else _) = _
  simp only [hn0, Bool.false_and, Bool.and_false, Bool.false_eq_true, ite_false]
  simp (disch := decide) only [lo_of, hi_of, BitVec.extractLsb'_eq_self, Nat.reduceSub, Nat.sub_self, he]
  rfl

theorem cpyZ (t : BitVec 5) (a : BitVec 5) (b : BitVec 5) (f : BitVec 1) (q : BitVec 1) : Statement (.cpyZ t a b f q) := by
  rintro kk ⟨⟩
  have he : ∀ lo len, fld (encode (.cpyZ t a b f q)) lo len = @BitVec.extractLsb' (7+5+5+5+4+1+4+1) lo len (0x1#7 ++ t ++ a ++ b ++ 0x0#4 ++ f ++ 0x2#4 ++ q) := fun _ _ => rfl
  have hm : major (encode (.cpyZ t a b f q)) = 0x1 := congrArg BitVec.toNat (show _ = 0x1#7 by rw [he]; simp (disch := decide) only [lo_of, hi_of, BitVec.extractLsb'_eq_self, Nat.reduceSub, Nat.sub_self])
  refine ⟨by rw [hm]; rfl, ?_⟩
  show rawDecodeTx _ = _
  unfold rawDecodeTx; rw [hm]
  show (if _ then _ else _) = _
  simp (disch := decide) only [lo_of, hi_of, BitVec.extractLsb'_eq_self, Nat.reduceSub, Nat.sub_self, he]
  rfl

theorem cpyr (t : BitVec 5) (a : BitVec 5) (b : BitVec 5) (h : BitVec 3) (s : BitVec 1) (f : BitVec 1) (e : BitVec 1) (x : BitVec 1) (q : BitVec 1) : Statement (.cpyr t a b h s f e x q) := by
  rintro kk ⟨⟩
  have he : ∀ lo len, fld (encode (.cpyr t a b h s f e x q)) lo len = @BitVec.extractLsb' (7+5+5+5+3+1+1+1+1+2+1) lo len (0x2#7 ++ t ++ a ++ b ++ h ++ s ++ f ++ e ++ x ++ 0x0#2 ++ q) := fun _ _ => rfl
  have hm : major (encode (.cpyr t a b h s f e x q)) = 0x2 := congrArg BitVec.toNat (show _ = 0x2#7 by rw [he]; simp (disch := decide) only [lo_of, hi_of, BitVec.extractLsb'_eq_self, Nat.reduceSub, Nat.sub_self])
  refine ⟨by rw [hm]; rfl, ?_⟩
  show rawDecodeTx _ = _
  unfold rawDecodeTx; rw [hm]
  show (if _ then _ else _) = _
  simp (disch := decide) only [lo_of, hi_of, BitVec.extractLsb'_eq_self, Nat.reduceSub, Nat.sub_self, he]
  rfl

theorem xpose (t : BitVec 5) (d : BitVec 5) (s : BitVec 5) (k : BitVec 4) (q : BitVec 1) : Statement (.xpose t d s k q) := by
  rintro kk ⟨⟩
  have he : ∀ lo len, fld (encode (.xpose t d s k q)) lo len = @BitVec.extractLsb' (7+5+5+5+5+4+1) lo len (0x3#7 ++ t ++ d ++ s ++ 0x0#5 ++ k ++ q) := fun _ _ => rfl
  have hm : major (encode (.xpose t d s k q)) = 0x3 := congrArg BitVec.toNat (show _ = 0x3#7 by rw [he]; simp (disch := decide) only [lo_of, hi_of, BitVec.extractLsb'_eq_self, Nat.reduceSub, Nat.sub_self])
  refine ⟨by rw [hm]; rfl, ?_⟩
  show rawDecodeTx _ = _
  unfold rawDecodeTx; rw [hm]
  show (if _ then _ else _) = _
  simp (disch := decide) only [lo_of, hi_of, BitVec.extractLsb'_eq_self, Nat.reduceSub, Nat.sub_self, he]
  rfl

theorem xcvt (t : BitVec 5) (d : BitVec 5) (s : BitVec 5) (n : BitVec 5) (k : BitVec 4) (q : BitVec 1) : Statement (.xcvt t d s n k q) := by
  rintro kk ⟨⟩
  have he : ∀ lo len, fld (encode (.xcvt t d s n k q)) lo len = @BitVec.extractLsb' (7+5+5+5+5+4+1) lo len (0x4#7 ++ t ++ d ++ s ++ n ++ k ++ q) := fun _ _ => rfl
  have hm : major (encode (.xcvt t d s n k q)) = 0x4 := congrArg BitVec.toNat (show _ = 0x4#7 by rw [he]; simp (disch := decide) only [lo_of, hi_of, BitVec.extractLsb'_eq_self, Nat.reduceSub, Nat.sub_self])
  refine ⟨by rw [hm]; rfl, ?_⟩
  show rawDecodeTx _ = _
  unfold rawDecodeTx; rw [hm]
  show Except.ok _ = _
  simp (disch := decide) only [lo_of, hi_of, BitVec.extractLsb'_eq_self, Nat.reduceSub, Nat.sub_self, he]

theorem xexp (t : BitVec 5) (d : BitVec 5) (s : BitVec 5) (q : BitVec 1) : Statement (.xexp t d s q) := by
  rintro kk ⟨⟩
  have he : ∀ lo len, fld (encode (.xexp t d s q)) lo len = @BitVec.extractLsb' (7+5+5+5+9+1) lo len (0x5#7 ++ t ++ d ++ s ++ 0x0#9 ++ q) := fun _ _ => rfl
  have hm : major (encode (.xexp t d s q)) = 0x5 := congrArg BitVec.toNat (show _ = 0x5#7 by rw [he]; simp (disch := decide) only [lo_of, hi_of, BitVec.extractLsb'_eq_self, Nat.reduceSub, Nat.sub_self])
  refine ⟨by rw [hm]; rfl, ?_⟩
  show rawDecodeTx _ = _
  unfold rawDecodeTx; rw [hm]
  show (if _ then _ else _) = _
  simp (disch := decide) only [lo_of, hi_of, BitVec.extractLsb'_eq_self, Nat.reduceSub, Nat.sub_self, he]
  rfl

theorem imload (t : BitVec 5) (a : BitVec 5) (q : BitVec 1) : Statement (.imload t a q) := by
  rintro kk ⟨⟩
  have he : ∀ lo len, fld (encode (.imload t a q)) lo len = @BitVec.extractLsb' (7+5+5+14+1) lo len (0x6#7 ++ t ++ a ++ 0x0#14 ++ q) := fun _ _ => rfl
  have hm : major (encode (.imload t a q)) = 0x6 := congrArg BitVec.toNat (show _ = 0x6#7 by rw [he]; simp (disch := decide) only [lo_of, hi_of, BitVec.extractLsb'_eq_self, Nat.reduceSub, Nat.sub_self])
  refine ⟨by rw [hm]; rfl, ?_⟩
  show rawDecodeTx _ = _
  unfold rawDecodeTx; rw [hm]
  show (if _ then _ else _) = _
  simp (disch := decide) only [lo_of, hi_of, BitVec.extractLsb'_eq_self, Nat.reduceSub, Nat.sub_self, he]
  rfl

theorem cwaitt (d : BitVec 5) (t : BitVec 5) : Statement (.cwaitt d t) := by
  rintro kk ⟨⟩
  have he : ∀ lo len, fld (encode (.cwaitt d t)) lo len = @BitVec.extractLsb' (7+5+5+15) lo len (0x7#7 ++ d ++ t ++ 0x0#15) := fun _ _ => rfl
  have hm : major (encode (.cwaitt d t)) = 0x7 := congrArg BitVec.toNat (show _ = 0x7#7 by rw [he]; simp (disch := decide) only [lo_of, hi_of, BitVec.extractLsb'_eq_self, Nat.reduceSub, Nat.sub_self])
  refine ⟨by rw [hm]; rfl, ?_⟩
  show rawDecodeTx _ = _
  unfold rawDecodeTx; rw [hm]
  show (if _ then _ else _) = _
  simp (disch := decide) only [lo_of, hi_of, BitVec.extractLsb'_eq_self, Nat.reduceSub, Nat.sub_self, he]
  rfl

theorem cpoll (d : BitVec 5) (t : BitVec 5) : Statement (.cpoll d t) := by
  rintro kk ⟨⟩
  have he : ∀ lo len, fld (encode (.cpoll d t)) lo len = @BitVec.extractLsb' (7+5+5+15) lo len (0x8#7 ++ d ++ t ++ 0x0#15) := fun _ _ => rfl
  have hm : major (encode (.cpoll d t)) = 0x8 := congrArg BitVec.toNat (show _ = 0x8#7 by rw [he]; simp (disch := decide) only [lo_of, hi_of, BitVec.extractLsb'_eq_self, Nat.reduceSub, Nat.sub_self])
  refine ⟨by rw [hm]; rfl, ?_⟩
  show rawDecodeTx _ = _
  unfold rawDecodeTx; rw [hm]
  show (if _ then _ else _) = _
  simp (disch := decide) only [lo_of, hi_of, BitVec.extractLsb'_eq_self, Nat.reduceSub, Nat.sub_self, he]
  rfl

theorem chdef (c : BitVec 6) (b : BitVec 5) (d : BitVec 5) : Statement (.chdef c b d) := by
  rintro kk ⟨⟩
  have he : ∀ lo len, fld (encode (.chdef c b d)) lo len = @BitVec.extractLsb' (7+6+5+5+9) lo len (0x20#7 ++ c ++ b ++ d ++ 0x0#9) := fun _ _ => rfl
  have hm : major (encode (.chdef c b d)) = 0x20 := congrArg BitVec.toNat (show _ = 0x20#7 by rw [he]; simp (disch := decide) only [lo_of, hi_of, BitVec.extractLsb'_eq_self, Nat.reduceSub, Nat.sub_self])
  refine ⟨by rw [hm]; rfl, ?_⟩
  show rawDecodeTx _ = _
  unfold rawDecodeTx; rw [hm]
  show (if _ then _ else _) = _
  simp (disch := decide) only [lo_of, hi_of, BitVec.extractLsb'_eq_self, Nat.reduceSub, Nat.sub_self, he]
  rfl

theorem csend (c : BitVec 6) (a : BitVec 5) (n : BitVec 5) (d : BitVec 5) (q : BitVec 1) : Statement (.csend c a n d q) := by
  rintro kk ⟨⟩
  have he : ∀ lo len, fld (encode (.csend c a n d q)) lo len = @BitVec.extractLsb' (7+6+5+5+5+3+1) lo len (0x21#7 ++ c ++ a ++ n ++ d ++ 0x0#3 ++ q) := fun _ _ => rfl
  have hm : major (encode (.csend c a n d q)) = 0x21 := congrArg BitVec.toNat (show _ = 0x21#7 by rw [he]; simp (disch := decide) only [lo_of, hi_of, BitVec.extractLsb'_eq_self, Nat.reduceSub, Nat.sub_self])
  refine ⟨by rw [hm]; rfl, ?_⟩
  show rawDecodeTx _ = _
  unfold rawDecodeTx; rw [hm]
  show (if _ then _ else _) = _
  simp (disch := decide) only [lo_of, hi_of, BitVec.extractLsb'_eq_self, Nat.reduceSub, Nat.sub_self, he]
  rfl

theorem crecv (c : BitVec 6) (a : BitVec 5) (n : BitVec 5) (d : BitVec 5) (q : BitVec 1) : Statement (.crecv c a n d q) := by
  rintro kk ⟨⟩
  have he : ∀ lo len, fld (encode (.crecv c a n d q)) lo len = @BitVec.extractLsb' (7+6+5+5+5+3+1) lo len (0x22#7 ++ c ++ a ++ n ++ d ++ 0x0#3 ++ q) := fun _ _ => rfl
  have hm : major (encode (.crecv c a n d q)) = 0x22 := congrArg BitVec.toNat (show _ = 0x22#7 by rw [he]; simp (disch := decide) only [lo_of, hi_of, BitVec.extractLsb'_eq_self, Nat.reduceSub, Nat.sub_self])
  refine ⟨by rw [hm]; rfl, ?_⟩
  show rawDecodeTx _ = _
  unfold rawDecodeTx; rw [hm]
  show (if _ then _ else _) = _
  simp (disch := decide) only [lo_of, hi_of, BitVec.extractLsb'_eq_self, Nat.reduceSub, Nat.sub_self, he]
  rfl

theorem ca2ac (c : BitVec 6) (a : BitVec 5) (d : BitVec 5) (q : BitVec 1) : Statement (.ca2ac c a d q) := by
  rintro kk ⟨⟩
  have he : ∀ lo len, fld (encode (.ca2ac c a d q)) lo len = @BitVec.extractLsb' (7+6+5+5+8+1) lo len (0x23#7 ++ c ++ a ++ d ++ 0x0#8 ++ q) := fun _ _ => rfl
  have hm : major (encode (.ca2ac c a d q)) = 0x23 := congrArg BitVec.toNat (show _ = 0x23#7 by rw [he]; simp (disch := decide) only [lo_of, hi_of, BitVec.extractLsb'_eq_self, Nat.reduceSub, Nat.sub_self])
  refine ⟨by rw [hm]; rfl, ?_⟩
  show rawDecodeTx _ = _
  unfold rawDecodeTx; rw [hm]
  show (if _ then _ else _) = _
  simp (disch := decide) only [lo_of, hi_of, BitVec.extractLsb'_eq_self, Nat.reduceSub, Nat.sub_self, he]
  rfl

theorem ca2ap (c : BitVec 6) (a : BitVec 5) (d : BitVec 5) (q : BitVec 1) : Statement (.ca2ap c a d q) := by
  rintro kk ⟨⟩
  have he : ∀ lo len, fld (encode (.ca2ap c a d q)) lo len = @BitVec.extractLsb' (7+6+5+5+8+1) lo len (0x24#7 ++ c ++ a ++ d ++ 0x0#8 ++ q) := fun _ _ => rfl
  have hm : major (encode (.ca2ap c a d q)) = 0x24 := congrArg BitVec.toNat (show _ = 0x24#7 by rw [he]; simp (disch := decide) only [lo_of, hi_of, BitVec.extractLsb'_eq_self, Nat.reduceSub, Nat.sub_self])
  refine ⟨by rw [hm]; rfl, ?_⟩
  show rawDecodeTx _ = _
  unfold rawDecodeTx; rw [hm]
  show (if _ then _ else _) = _
  simp (disch := decide) only [lo_of, hi_of, BitVec.extractLsb'_eq_self, Nat.reduceSub, Nat.sub_self, he]
  rfl

theorem cswr (c : BitVec 6) (v : BitVec 5) (d : BitVec 5) (o : BitVec 3) (q : BitVec 1) : Statement (.cswr c v d o q) := by
  rintro kk ⟨⟩
  have he : ∀ lo len, fld (encode (.cswr c v d o q)) lo len = @BitVec.extractLsb' (7+6+5+5+3+5+1) lo len (0x25#7 ++ c ++ v ++ d ++ o ++ 0x0#5 ++ q) := fun _ _ => rfl
  have hm : major (encode (.cswr c v d o q)) = 0x25 := congrArg BitVec.toNat (show _ = 0x25#7 by rw [he]; simp (disch := decide) only [lo_of, hi_of, BitVec.extractLsb'_eq_self, Nat.reduceSub, Nat.sub_self])
  refine ⟨by rw [hm]; rfl, ?_⟩
  show rawDecodeTx _ = _
  unfold rawDecodeTx; rw [hm]
  show (if _ then _ else _) = _
  simp (disch := decide) only [lo_of, hi_of, BitVec.extractLsb'_eq_self, Nat.reduceSub, Nat.sub_self, he]
  rfl

theorem cdig (c : BitVec 6) (a : BitVec 5) (n : BitVec 5) (q : BitVec 1) : Statement (.cdig c a n q) := by
  rintro kk ⟨⟩
  have he : ∀ lo len, fld (encode (.cdig c a n q)) lo len = @BitVec.extractLsb' (7+6+5+5+8+1) lo len (0x26#7 ++ c ++ a ++ n ++ 0x0#8 ++ q) := fun _ _ => rfl
  have hm : major (encode (.cdig c a n q)) = 0x26 := congrArg BitVec.toNat (show _ = 0x26#7 by rw [he]; simp (disch := decide) only [lo_of, hi_of, BitVec.extractLsb'_eq_self, Nat.reduceSub, Nat.sub_self])
  refine ⟨by rw [hm]; rfl, ?_⟩
  show rawDecodeTx _ = _
  unfold rawDecodeTx; rw [hm]
  show (if _ then _ else _) = _
  simp (disch := decide) only [lo_of, hi_of, BitVec.extractLsb'_eq_self, Nat.reduceSub, Nat.sub_self, he]
  rfl

theorem cnrm (c : BitVec 6) (a : BitVec 5) (n : BitVec 5) (d : BitVec 5) (q : BitVec 1) : Statement (.cnrm c a n d q) := by
  rintro kk ⟨⟩
  have he : ∀ lo len, fld (encode (.cnrm c a n d q)) lo len = @BitVec.extractLsb' (7+6+5+5+5+3+1) lo len (0x27#7 ++ c ++ a ++ n ++ d ++ 0x0#3 ++ q) := fun _ _ => rfl
  have hm : major (encode (.cnrm c a n d q)) = 0x27 := congrArg BitVec.toNat (show _ = 0x27#7 by rw [he]; simp (disch := decide) only [lo_of, hi_of, BitVec.extractLsb'_eq_self, Nat.reduceSub, Nat.sub_self])
  refine ⟨by rw [hm]; rfl, ?_⟩
  show rawDecodeTx _ = _
  unfold rawDecodeTx; rw [hm]
  show (if _ then _ else _) = _
  simp (disch := decide) only [lo_of, hi_of, BitVec.extractLsb'_eq_self, Nat.reduceSub, Nat.sub_self, he]
  rfl

theorem cpause (c : BitVec 6) : Statement (.cpause c) := by
  rintro kk ⟨⟩
  have he : ∀ lo len, fld (encode (.cpause c)) lo len = @BitVec.extractLsb' (7+6+19) lo len (0x28#7 ++ c ++ 0x0#19) := fun _ _ => rfl
  have hm : major (encode (.cpause c)) = 0x28 := congrArg BitVec.toNat (show _ = 0x28#7 by rw [he]; simp (disch := decide) only [lo_of, hi_of, BitVec.extractLsb'_eq_self, Nat.reduceSub, Nat.sub_self])
  refine ⟨by rw [hm]; rfl, ?_⟩
  show rawDecodeTx _ = _
  unfold rawDecodeTx; rw [hm]
  have hn0 : (fld (encode (.cpause c)) 0 25 == 0x40000) = false :=
    fld_bne _ 0 25 0 19 _ (by rw [he]; simp (disch := decide) only [lo_of, hi_of, BitVec.extractLsb'_eq_self, Nat.reduceSub, Nat.sub_self]; decide) (by decide)
  show (if _ then _ else _) = _
  simp only [hn0, Bool.false_and, Bool.and_false, Bool.false_eq_true, ite_false]
  simp (disch := decide) only [lo_of, hi_of, BitVec.extractLsb'_eq_self, Nat.reduceSub, Nat.sub_self, he]
  rfl

theorem cpauseAll : Statement .cpauseAll := by
  rintro kk ⟨⟩
  exact ⟨rfl, rfl⟩

theorem cres (c : BitVec 6) : Statement (.cres c) := by
  rintro kk ⟨⟩
  have he : ∀ lo len, fld (encode (.cres c)) lo len = @BitVec.extractLsb' (7+6+19) lo len (0x29#7 ++ c ++ 0x0#19) := fun _ _ => rfl
  have hm : major (encode (.cres c)) = 0x29 := congrArg BitVec.toNat (show _ = 0x29#7 by rw [he]; simp (disch := decide) only [lo_of, hi_of, BitVec.extractLsb'_eq_self, Nat.reduceSub, Nat.sub_self])
  refine ⟨by rw [hm]; rfl, ?_⟩
  show rawDecodeTx _ = _
  unfold rawDecodeTx; rw [hm]
  have hn0 : (fld (encode (.cres c)) 0 25 == 0x40000) = false :=
    fld_bne _ 0 25 0 19 _ (by rw [he]; simp (disch := decide) only [lo_of, hi_of, BitVec.extractLsb'_eq_self, Nat.reduceSub, Nat.sub_self]; decide) (by decide)
  show (if _ then _ else _) = _
  simp only [hn0, Bool.false_and, Bool.and_false, Bool.false_eq_true, ite_false]
  simp (disch := decide) only [lo_of, hi_of, BitVec.extractLsb'_eq_self, Nat.reduceSub, Nat.sub_self, he]
  rfl

theorem cresAll : Statement .cresAll := by
  rintro kk ⟨⟩
  exact ⟨rfl, rfl⟩

theorem gagree (c : BitVec 6) (v : BitVec 5) (d : BitVec 5) (q : BitVec 1) : Statement (.gagree c v d q) := by
  rintro kk ⟨⟩
  have he : ∀ lo len, fld (encode (.gagree c v d q)) lo len = @BitVec.extractLsb' (7+6+5+5+8+1) lo len (0x2A#7 ++ c ++ v ++ d ++ 0x0#8 ++ q) := fun _ _ => rfl
  have hm : major (encode (.gagree c v d q)) = 0x2A := congrArg BitVec.toNat (show _ = 0x2A#7 by rw [he]; simp (disch := decide) only [lo_of, hi_of, BitVec.extractLsb'_eq_self, Nat.reduceSub, Nat.sub_self])
  refine ⟨by rw [hm]; rfl, ?_⟩
  show rawDecodeTx _ = _
  unfold rawDecodeTx; rw [hm]
  show (if _ then _ else _) = _
  simp (disch := decide) only [lo_of, hi_of, BitVec.extractLsb'_eq_self, Nat.reduceSub, Nat.sub_self, he]
  rfl

theorem reset : Statement .reset := nofun

theorem lifeCycleChange : Statement .lifeCycleChange := nofun

theorem linkFailure : Statement .linkFailure := nofun

theorem thermalAlert : Statement .thermalAlert := nofun

theorem bundleDispatch : Statement .bundleDispatch := nofun

theorem exposedResultLands : Statement .exposedResultLands := nofun

theorem presenceResultArrives : Statement .presenceResultArrives := nofun

theorem taskDispatch : Statement .taskDispatch := nofun

theorem coResidentDispatch : Statement .coResidentDispatch := nofun

theorem replayDispatch : Statement .replayDispatch := nofun

theorem preq : Statement .preq := nofun

theorem taskPreemption : Statement .taskPreemption := nofun

theorem preemptionLimitExpiry : Statement .preemptionLimitExpiry := nofun

theorem swctlArm : Statement .swctlArm := nofun

theorem swctlCancel : Statement .swctlCancel := nofun

theorem switchInstant : Statement .switchInstant := nofun

theorem switchDrainLimit : Statement .switchDrainLimit := nofun

theorem gangSwitchSave : Statement .gangSwitchSave := nofun

theorem gangSwitchRestore : Statement .gangSwitchRestore := nofun

theorem portSyncOperation : Statement .portSyncOperation := nofun

theorem waitmSatisfied : Statement .waitmSatisfied := nofun

theorem waittDeadline : Statement .waittDeadline := nofun

theorem parkrep : Statement .parkrep := nofun

theorem tlbinvGo : Statement .tlbinvGo := nofun

theorem tlbInvalidationComplete : Statement .tlbInvalidationComplete := nofun

theorem budgetPeriodBoundary : Statement .budgetPeriodBoundary := nofun

theorem budgetThaw : Statement .budgetThaw := nofun

theorem budgetKill : Statement .budgetKill := nofun

theorem hostBar4Access : Statement .hostBar4Access := nofun

theorem cxlMemAccess : Statement .cxlMemAccess := nofun

theorem msixTableWrite : Statement .msixTableWrite := nofun

theorem registerWrite : Statement .registerWrite := nofun

theorem generatorRegistration : Statement .generatorRegistration := nofun

theorem registrationComplete : Statement .registrationComplete := nofun

theorem codeLoad : Statement .codeLoad := nofun

theorem codeLoadComplete : Statement .codeLoadComplete := nofun

theorem ctxCreate : Statement .ctxCreate := nofun

theorem ctxCreateComplete : Statement .ctxCreateComplete := nofun

theorem ctxTeardown : Statement .ctxTeardown := nofun

theorem teardownComplete : Statement .teardownComplete := nofun

theorem csctlStart : Statement .csctlStart := nofun

theorem supervisorControllerStart : Statement .supervisorControllerStart := nofun

theorem supervisorControllerStop : Statement .supervisorControllerStop := nofun

theorem attestationRequest : Statement .attestationRequest := nofun

theorem attestationReportReady : Statement .attestationReportReady := nofun

theorem accumulatorRowLands : Statement .accumulatorRowLands := nofun

theorem mldbLoadComplete : Statement .mldbLoadComplete := nofun

theorem mgenbCommit : Statement .mgenbCommit := nofun

theorem genBoundDetected : Statement .genBoundDetected := nofun

theorem mdrsTileRelease : Statement .mdrsTileRelease := nofun

theorem gloadCopyComplete : Statement .gloadCopyComplete := nofun

theorem transferTileRelease : Statement .transferTileRelease := nofun

theorem transferComplete : Statement .transferComplete := nofun

theorem transformComplete : Statement .transformComplete := nofun

theorem armNoticeArrival : Statement .armNoticeArrival := nofun

theorem collectivePacketArrival : Statement .collectivePacketArrival := nofun

theorem abortPacketReceipt : Statement .abortPacketReceipt := nofun

theorem switchContribution : Statement .switchContribution := nofun

theorem switchSlotTimeout : Statement .switchSlotTimeout := nofun

theorem agreementContribution : Statement .agreementContribution := nofun

theorem agreementTimeout : Statement .agreementTimeout := nofun

theorem normPartialArrival : Statement .normPartialArrival := nofun

theorem digestArrival : Statement .digestArrival := nofun

theorem writePerformed : Statement .writePerformed := nofun

theorem lastPacketAccepted : Statement .lastPacketAccepted := nofun

theorem switchPacketDrop : Statement .switchPacketDrop := nofun

theorem msiXEnable : Statement .msiXEnable := nofun

theorem cxlCacheSnoop : Statement .cxlCacheSnoop := nofun

end Encoding

end Sys2Proof.Laws
end

