-- ==== Sys2Proof/Laws/Work.lean ====
section
/-!
SUPPORT. What each update of the work that is under way leaves alone, field by field: flights, transfers, calls,
channel entries, packets and messages.
-/

namespace Sys2Proof.Machine

variable (s : State)

/-! ### A message to the host is noted. -/

@[simp] theorem State.say_units (x : HostMsg) : (s.say x).units = s.units := rfl
@[simp] theorem State.say_mem (x : HostMsg) : (s.say x).mem = s.mem := rfl
@[simp] theorem State.say_tiles (x : HostMsg) : (s.say x).tiles = s.tiles := rfl
@[simp] theorem State.say_code (x : HostMsg) : (s.say x).code = s.code := rfl
@[simp] theorem State.say_codeOld (x : HostMsg) : (s.say x).codeOld = s.codeOld := rfl
@[simp] theorem State.say_dies (x : HostMsg) : (s.say x).dies = s.dies := rfl
@[simp] theorem State.say_ctxs (x : HostMsg) : (s.say x).ctxs = s.ctxs := rfl
@[simp] theorem State.say_glob (x : HostMsg) : (s.say x).glob = s.glob := rfl
@[simp] theorem State.say_groups (x : HostMsg) : (s.say x).groups = s.groups := rfl
@[simp] theorem State.say_landings (x : HostMsg) : (s.say x).landings = s.landings := rfl
@[simp] theorem State.say_rows (x : HostMsg) : (s.say x).rows = s.rows := rfl
@[simp] theorem State.say_flights (x : HostMsg) : (s.say x).flights = s.flights := rfl
@[simp] theorem State.say_watches (x : HostMsg) : (s.say x).watches = s.watches := rfl
@[simp] theorem State.say_xfers (x : HostMsg) : (s.say x).xfers = s.xfers := rfl
@[simp] theorem State.say_calls (x : HostMsg) : (s.say x).calls = s.calls := rfl
@[simp] theorem State.say_fabric (x : HostMsg) : (s.say x).fabric = s.fabric := rfl
@[simp] theorem State.say_switch (x : HostMsg) : (s.say x).switch = s.switch := rfl
@[simp] theorem State.say_cycle (x : HostMsg) : (s.say x).cycle = s.cycle := rfl
@[simp] theorem State.say_time (x : HostMsg) : (s.say x).time = s.time := rfl
@[simp] theorem State.say_ids (x : HostMsg) : (s.say x).ids = s.ids := rfl
@[simp] theorem State.say_fresh (x : HostMsg) : (s.say x).fresh = s.fresh := rfl
@[simp] theorem State.say_agenda (x : HostMsg) : (s.say x).agenda = s.agenda := rfl
@[simp] theorem State.say_cur (x : HostMsg) : (s.say x).cur = s.cur := rfl
@[simp] theorem State.say_arg (x : HostMsg) : (s.say x).arg = s.arg := rfl
@[simp] theorem State.say_unit (x : HostMsg) (k9 : Nat) : (s.say x).unit k9 = s.unit k9 := rfl

/-! ### A flight changes. -/

@[simp] theorem State.modFlight_units (f : Flight) (h : Flight → Flight) : (s.modFlight f h).units = s.units := rfl
@[simp] theorem State.modFlight_mem (f : Flight) (h : Flight → Flight) : (s.modFlight f h).mem = s.mem := rfl
@[simp] theorem State.modFlight_tiles (f : Flight) (h : Flight → Flight) : (s.modFlight f h).tiles = s.tiles := rfl
@[simp] theorem State.modFlight_code (f : Flight) (h : Flight → Flight) : (s.modFlight f h).code = s.code := rfl
@[simp] theorem State.modFlight_codeOld (f : Flight) (h : Flight → Flight) : (s.modFlight f h).codeOld = s.codeOld := rfl
@[simp] theorem State.modFlight_dies (f : Flight) (h : Flight → Flight) : (s.modFlight f h).dies = s.dies := rfl
@[simp] theorem State.modFlight_ctxs (f : Flight) (h : Flight → Flight) : (s.modFlight f h).ctxs = s.ctxs := rfl
@[simp] theorem State.modFlight_glob (f : Flight) (h : Flight → Flight) : (s.modFlight f h).glob = s.glob := rfl
@[simp] theorem State.modFlight_groups (f : Flight) (h : Flight → Flight) : (s.modFlight f h).groups = s.groups := rfl
@[simp] theorem State.modFlight_landings (f : Flight) (h : Flight → Flight) : (s.modFlight f h).landings = s.landings := rfl
@[simp] theorem State.modFlight_rows (f : Flight) (h : Flight → Flight) : (s.modFlight f h).rows = s.rows := rfl
@[simp] theorem State.modFlight_watches (f : Flight) (h : Flight → Flight) : (s.modFlight f h).watches = s.watches := rfl
@[simp] theorem State.modFlight_xfers (f : Flight) (h : Flight → Flight) : (s.modFlight f h).xfers = s.xfers := rfl
@[simp] theorem State.modFlight_calls (f : Flight) (h : Flight → Flight) : (s.modFlight f h).calls = s.calls := rfl
@[simp] theorem State.modFlight_fabric (f : Flight) (h : Flight → Flight) : (s.modFlight f h).fabric = s.fabric := rfl
@[simp] theorem State.modFlight_switch (f : Flight) (h : Flight → Flight) : (s.modFlight f h).switch = s.switch := rfl
@[simp] theorem State.modFlight_cycle (f : Flight) (h : Flight → Flight) : (s.modFlight f h).cycle = s.cycle := rfl
@[simp] theorem State.modFlight_time (f : Flight) (h : Flight → Flight) : (s.modFlight f h).time = s.time := rfl
@[simp] theorem State.modFlight_ids (f : Flight) (h : Flight → Flight) : (s.modFlight f h).ids = s.ids := rfl
@[simp] theorem State.modFlight_fresh (f : Flight) (h : Flight → Flight) : (s.modFlight f h).fresh = s.fresh := rfl
@[simp] theorem State.modFlight_hostOut (f : Flight) (h : Flight → Flight) : (s.modFlight f h).hostOut = s.hostOut := rfl
@[simp] theorem State.modFlight_agenda (f : Flight) (h : Flight → Flight) : (s.modFlight f h).agenda = s.agenda := rfl
@[simp] theorem State.modFlight_cur (f : Flight) (h : Flight → Flight) : (s.modFlight f h).cur = s.cur := rfl
@[simp] theorem State.modFlight_arg (f : Flight) (h : Flight → Flight) : (s.modFlight f h).arg = s.arg := rfl
@[simp] theorem State.modFlight_unit (f : Flight) (h : Flight → Flight) (k9 : Nat) : (s.modFlight f h).unit k9 = s.unit k9 := rfl

/-! ### A flight ends. -/

@[simp] theorem State.dropFlight_units (f : Flight) : (s.dropFlight f).units = s.units := rfl
@[simp] theorem State.dropFlight_mem (f : Flight) : (s.dropFlight f).mem = s.mem := rfl
@[simp] theorem State.dropFlight_tiles (f : Flight) : (s.dropFlight f).tiles = s.tiles := rfl
@[simp] theorem State.dropFlight_code (f : Flight) : (s.dropFlight f).code = s.code := rfl
@[simp] theorem State.dropFlight_codeOld (f : Flight) : (s.dropFlight f).codeOld = s.codeOld := rfl
@[simp] theorem State.dropFlight_dies (f : Flight) : (s.dropFlight f).dies = s.dies := rfl
@[simp] theorem State.dropFlight_ctxs (f : Flight) : (s.dropFlight f).ctxs = s.ctxs := rfl
@[simp] theorem State.dropFlight_glob (f : Flight) : (s.dropFlight f).glob = s.glob := rfl
@[simp] theorem State.dropFlight_groups (f : Flight) : (s.dropFlight f).groups = s.groups := rfl
@[simp] theorem State.dropFlight_landings (f : Flight) : (s.dropFlight f).landings = s.landings := rfl
@[simp] theorem State.dropFlight_rows (f : Flight) : (s.dropFlight f).rows = s.rows := rfl
@[simp] theorem State.dropFlight_watches (f : Flight) : (s.dropFlight f).watches = s.watches := rfl
@[simp] theorem State.dropFlight_xfers (f : Flight) : (s.dropFlight f).xfers = s.xfers := rfl
@[simp] theorem State.dropFlight_calls (f : Flight) : (s.dropFlight f).calls = s.calls := rfl
@[simp] theorem State.dropFlight_fabric (f : Flight) : (s.dropFlight f).fabric = s.fabric := rfl
@[simp] theorem State.dropFlight_switch (f : Flight) : (s.dropFlight f).switch = s.switch := rfl
@[simp] theorem State.dropFlight_cycle (f : Flight) : (s.dropFlight f).cycle = s.cycle := rfl
@[simp] theorem State.dropFlight_time (f : Flight) : (s.dropFlight f).time = s.time := rfl
@[simp] theorem State.dropFlight_ids (f : Flight) : (s.dropFlight f).ids = s.ids := rfl
@[simp] theorem State.dropFlight_fresh (f : Flight) : (s.dropFlight f).fresh = s.fresh := rfl
@[simp] theorem State.dropFlight_hostOut (f : Flight) : (s.dropFlight f).hostOut = s.hostOut := rfl
@[simp] theorem State.dropFlight_agenda (f : Flight) : (s.dropFlight f).agenda = s.agenda := rfl
@[simp] theorem State.dropFlight_cur (f : Flight) : (s.dropFlight f).cur = s.cur := rfl
@[simp] theorem State.dropFlight_arg (f : Flight) : (s.dropFlight f).arg = s.arg := rfl
@[simp] theorem State.dropFlight_unit (f : Flight) (k9 : Nat) : (s.dropFlight f).unit k9 = s.unit k9 := rfl

/-! ### A transfer changes. -/

@[simp] theorem State.modXfer_units (n : Nat) (f : Xfer → Xfer) : (s.modXfer n f).units = s.units := rfl
@[simp] theorem State.modXfer_mem (n : Nat) (f : Xfer → Xfer) : (s.modXfer n f).mem = s.mem := rfl
@[simp] theorem State.modXfer_tiles (n : Nat) (f : Xfer → Xfer) : (s.modXfer n f).tiles = s.tiles := rfl
@[simp] theorem State.modXfer_code (n : Nat) (f : Xfer → Xfer) : (s.modXfer n f).code = s.code := rfl
@[simp] theorem State.modXfer_codeOld (n : Nat) (f : Xfer → Xfer) : (s.modXfer n f).codeOld = s.codeOld := rfl
@[simp] theorem State.modXfer_dies (n : Nat) (f : Xfer → Xfer) : (s.modXfer n f).dies = s.dies := rfl
@[simp] theorem State.modXfer_ctxs (n : Nat) (f : Xfer → Xfer) : (s.modXfer n f).ctxs = s.ctxs := rfl
@[simp] theorem State.modXfer_glob (n : Nat) (f : Xfer → Xfer) : (s.modXfer n f).glob = s.glob := rfl
@[simp] theorem State.modXfer_groups (n : Nat) (f : Xfer → Xfer) : (s.modXfer n f).groups = s.groups := rfl
@[simp] theorem State.modXfer_landings (n : Nat) (f : Xfer → Xfer) : (s.modXfer n f).landings = s.landings := rfl
@[simp] theorem State.modXfer_rows (n : Nat) (f : Xfer → Xfer) : (s.modXfer n f).rows = s.rows := rfl
@[simp] theorem State.modXfer_flights (n : Nat) (f : Xfer → Xfer) : (s.modXfer n f).flights = s.flights := rfl
@[simp] theorem State.modXfer_watches (n : Nat) (f : Xfer → Xfer) : (s.modXfer n f).watches = s.watches := rfl
@[simp] theorem State.modXfer_calls (n : Nat) (f : Xfer → Xfer) : (s.modXfer n f).calls = s.calls := rfl
@[simp] theorem State.modXfer_fabric (n : Nat) (f : Xfer → Xfer) : (s.modXfer n f).fabric = s.fabric := rfl
@[simp] theorem State.modXfer_switch (n : Nat) (f : Xfer → Xfer) : (s.modXfer n f).switch = s.switch := rfl
@[simp] theorem State.modXfer_cycle (n : Nat) (f : Xfer → Xfer) : (s.modXfer n f).cycle = s.cycle := rfl
@[simp] theorem State.modXfer_time (n : Nat) (f : Xfer → Xfer) : (s.modXfer n f).time = s.time := rfl
@[simp] theorem State.modXfer_ids (n : Nat) (f : Xfer → Xfer) : (s.modXfer n f).ids = s.ids := rfl
@[simp] theorem State.modXfer_fresh (n : Nat) (f : Xfer → Xfer) : (s.modXfer n f).fresh = s.fresh := rfl
@[simp] theorem State.modXfer_hostOut (n : Nat) (f : Xfer → Xfer) : (s.modXfer n f).hostOut = s.hostOut := rfl
@[simp] theorem State.modXfer_agenda (n : Nat) (f : Xfer → Xfer) : (s.modXfer n f).agenda = s.agenda := rfl
@[simp] theorem State.modXfer_cur (n : Nat) (f : Xfer → Xfer) : (s.modXfer n f).cur = s.cur := rfl
@[simp] theorem State.modXfer_arg (n : Nat) (f : Xfer → Xfer) : (s.modXfer n f).arg = s.arg := rfl
@[simp] theorem State.modXfer_unit (n : Nat) (f : Xfer → Xfer) (k9 : Nat) : (s.modXfer n f).unit k9 = s.unit k9 := rfl

/-! ### A call changes. -/

@[simp] theorem State.modCall_units (n : Nat) (f : Call → Call) : (s.modCall n f).units = s.units := rfl
@[simp] theorem State.modCall_mem (n : Nat) (f : Call → Call) : (s.modCall n f).mem = s.mem := rfl
@[simp] theorem State.modCall_tiles (n : Nat) (f : Call → Call) : (s.modCall n f).tiles = s.tiles := rfl
@[simp] theorem State.modCall_code (n : Nat) (f : Call → Call) : (s.modCall n f).code = s.code := rfl
@[simp] theorem State.modCall_codeOld (n : Nat) (f : Call → Call) : (s.modCall n f).codeOld = s.codeOld := rfl
@[simp] theorem State.modCall_dies (n : Nat) (f : Call → Call) : (s.modCall n f).dies = s.dies := rfl
@[simp] theorem State.modCall_ctxs (n : Nat) (f : Call → Call) : (s.modCall n f).ctxs = s.ctxs := rfl
@[simp] theorem State.modCall_glob (n : Nat) (f : Call → Call) : (s.modCall n f).glob = s.glob := rfl
@[simp] theorem State.modCall_groups (n : Nat) (f : Call → Call) : (s.modCall n f).groups = s.groups := rfl
@[simp] theorem State.modCall_landings (n : Nat) (f : Call → Call) : (s.modCall n f).landings = s.landings := rfl
@[simp] theorem State.modCall_rows (n : Nat) (f : Call → Call) : (s.modCall n f).rows = s.rows := rfl
@[simp] theorem State.modCall_flights (n : Nat) (f : Call → Call) : (s.modCall n f).flights = s.flights := rfl
@[simp] theorem State.modCall_watches (n : Nat) (f : Call → Call) : (s.modCall n f).watches = s.watches := rfl
@[simp] theorem State.modCall_xfers (n : Nat) (f : Call → Call) : (s.modCall n f).xfers = s.xfers := rfl
@[simp] theorem State.modCall_fabric (n : Nat) (f : Call → Call) : (s.modCall n f).fabric = s.fabric := rfl
@[simp] theorem State.modCall_switch (n : Nat) (f : Call → Call) : (s.modCall n f).switch = s.switch := rfl
@[simp] theorem State.modCall_cycle (n : Nat) (f : Call → Call) : (s.modCall n f).cycle = s.cycle := rfl
@[simp] theorem State.modCall_time (n : Nat) (f : Call → Call) : (s.modCall n f).time = s.time := rfl
@[simp] theorem State.modCall_ids (n : Nat) (f : Call → Call) : (s.modCall n f).ids = s.ids := rfl
@[simp] theorem State.modCall_fresh (n : Nat) (f : Call → Call) : (s.modCall n f).fresh = s.fresh := rfl
@[simp] theorem State.modCall_hostOut (n : Nat) (f : Call → Call) : (s.modCall n f).hostOut = s.hostOut := rfl
@[simp] theorem State.modCall_agenda (n : Nat) (f : Call → Call) : (s.modCall n f).agenda = s.agenda := rfl
@[simp] theorem State.modCall_cur (n : Nat) (f : Call → Call) : (s.modCall n f).cur = s.cur := rfl
@[simp] theorem State.modCall_arg (n : Nat) (f : Call → Call) : (s.modCall n f).arg = s.arg := rfl
@[simp] theorem State.modCall_unit (n : Nat) (f : Call → Call) (k9 : Nat) : (s.modCall n f).unit k9 = s.unit k9 := rfl

/-! ### A channel entry changes. -/

@[simp] theorem State.modChan_units (c : Nat) (ch : BitVec 6) (f : Chan → Chan) : (s.modChan c ch f).units = s.units := rfl
@[simp] theorem State.modChan_mem (c : Nat) (ch : BitVec 6) (f : Chan → Chan) : (s.modChan c ch f).mem = s.mem := rfl
@[simp] theorem State.modChan_tiles (c : Nat) (ch : BitVec 6) (f : Chan → Chan) : (s.modChan c ch f).tiles = s.tiles := rfl
@[simp] theorem State.modChan_code (c : Nat) (ch : BitVec 6) (f : Chan → Chan) : (s.modChan c ch f).code = s.code := rfl
@[simp] theorem State.modChan_codeOld (c : Nat) (ch : BitVec 6) (f : Chan → Chan) : (s.modChan c ch f).codeOld = s.codeOld := rfl
@[simp] theorem State.modChan_dies (c : Nat) (ch : BitVec 6) (f : Chan → Chan) : (s.modChan c ch f).dies = s.dies := rfl
@[simp] theorem State.modChan_glob (c : Nat) (ch : BitVec 6) (f : Chan → Chan) : (s.modChan c ch f).glob = s.glob := rfl
@[simp] theorem State.modChan_groups (c : Nat) (ch : BitVec 6) (f : Chan → Chan) : (s.modChan c ch f).groups = s.groups := rfl
@[simp] theorem State.modChan_landings (c : Nat) (ch : BitVec 6) (f : Chan → Chan) : (s.modChan c ch f).landings = s.landings := rfl
@[simp] theorem State.modChan_rows (c : Nat) (ch : BitVec 6) (f : Chan → Chan) : (s.modChan c ch f).rows = s.rows := rfl
@[simp] theorem State.modChan_flights (c : Nat) (ch : BitVec 6) (f : Chan → Chan) : (s.modChan c ch f).flights = s.flights := rfl
@[simp] theorem State.modChan_watches (c : Nat) (ch : BitVec 6) (f : Chan → Chan) : (s.modChan c ch f).watches = s.watches := rfl
@[simp] theorem State.modChan_xfers (c : Nat) (ch : BitVec 6) (f : Chan → Chan) : (s.modChan c ch f).xfers = s.xfers := rfl
@[simp] theorem State.modChan_calls (c : Nat) (ch : BitVec 6) (f : Chan → Chan) : (s.modChan c ch f).calls = s.calls := rfl
@[simp] theorem State.modChan_fabric (c : Nat) (ch : BitVec 6) (f : Chan → Chan) : (s.modChan c ch f).fabric = s.fabric := rfl
@[simp] theorem State.modChan_switch (c : Nat) (ch : BitVec 6) (f : Chan → Chan) : (s.modChan c ch f).switch = s.switch := rfl
@[simp] theorem State.modChan_cycle (c : Nat) (ch : BitVec 6) (f : Chan → Chan) : (s.modChan c ch f).cycle = s.cycle := rfl
@[simp] theorem State.modChan_time (c : Nat) (ch : BitVec 6) (f : Chan → Chan) : (s.modChan c ch f).time = s.time := rfl
@[simp] theorem State.modChan_ids (c : Nat) (ch : BitVec 6) (f : Chan → Chan) : (s.modChan c ch f).ids = s.ids := rfl
@[simp] theorem State.modChan_fresh (c : Nat) (ch : BitVec 6) (f : Chan → Chan) : (s.modChan c ch f).fresh = s.fresh := rfl
@[simp] theorem State.modChan_hostOut (c : Nat) (ch : BitVec 6) (f : Chan → Chan) : (s.modChan c ch f).hostOut = s.hostOut := rfl
@[simp] theorem State.modChan_agenda (c : Nat) (ch : BitVec 6) (f : Chan → Chan) : (s.modChan c ch f).agenda = s.agenda := rfl
@[simp] theorem State.modChan_cur (c : Nat) (ch : BitVec 6) (f : Chan → Chan) : (s.modChan c ch f).cur = s.cur := rfl
@[simp] theorem State.modChan_arg (c : Nat) (ch : BitVec 6) (f : Chan → Chan) : (s.modChan c ch f).arg = s.arg := rfl
@[simp] theorem State.modChan_unit (c : Nat) (ch : BitVec 6) (f : Chan → Chan) (k9 : Nat) : (s.modChan c ch f).unit k9 = s.unit k9 := rfl

/-! ### A packet leaves the fabric. -/

@[simp] theorem State.dropPacket_units (n : Nat) : (s.dropPacket n).units = s.units := rfl
@[simp] theorem State.dropPacket_mem (n : Nat) : (s.dropPacket n).mem = s.mem := rfl
@[simp] theorem State.dropPacket_tiles (n : Nat) : (s.dropPacket n).tiles = s.tiles := rfl
@[simp] theorem State.dropPacket_code (n : Nat) : (s.dropPacket n).code = s.code := rfl
@[simp] theorem State.dropPacket_codeOld (n : Nat) : (s.dropPacket n).codeOld = s.codeOld := rfl
@[simp] theorem State.dropPacket_dies (n : Nat) : (s.dropPacket n).dies = s.dies := rfl
@[simp] theorem State.dropPacket_ctxs (n : Nat) : (s.dropPacket n).ctxs = s.ctxs := rfl
@[simp] theorem State.dropPacket_glob (n : Nat) : (s.dropPacket n).glob = s.glob := rfl
@[simp] theorem State.dropPacket_groups (n : Nat) : (s.dropPacket n).groups = s.groups := rfl
@[simp] theorem State.dropPacket_landings (n : Nat) : (s.dropPacket n).landings = s.landings := rfl
@[simp] theorem State.dropPacket_rows (n : Nat) : (s.dropPacket n).rows = s.rows := rfl
@[simp] theorem State.dropPacket_flights (n : Nat) : (s.dropPacket n).flights = s.flights := rfl
@[simp] theorem State.dropPacket_watches (n : Nat) : (s.dropPacket n).watches = s.watches := rfl
@[simp] theorem State.dropPacket_xfers (n : Nat) : (s.dropPacket n).xfers = s.xfers := rfl
@[simp] theorem State.dropPacket_calls (n : Nat) : (s.dropPacket n).calls = s.calls := rfl
@[simp] theorem State.dropPacket_switch (n : Nat) : (s.dropPacket n).switch = s.switch := rfl
@[simp] theorem State.dropPacket_cycle (n : Nat) : (s.dropPacket n).cycle = s.cycle := rfl
@[simp] theorem State.dropPacket_time (n : Nat) : (s.dropPacket n).time = s.time := rfl
@[simp] theorem State.dropPacket_ids (n : Nat) : (s.dropPacket n).ids = s.ids := rfl
@[simp] theorem State.dropPacket_fresh (n : Nat) : (s.dropPacket n).fresh = s.fresh := rfl
@[simp] theorem State.dropPacket_hostOut (n : Nat) : (s.dropPacket n).hostOut = s.hostOut := rfl
@[simp] theorem State.dropPacket_agenda (n : Nat) : (s.dropPacket n).agenda = s.agenda := rfl
@[simp] theorem State.dropPacket_cur (n : Nat) : (s.dropPacket n).cur = s.cur := rfl
@[simp] theorem State.dropPacket_arg (n : Nat) : (s.dropPacket n).arg = s.arg := rfl
@[simp] theorem State.dropPacket_unit (n : Nat) (k9 : Nat) : (s.dropPacket n).unit k9 = s.unit k9 := rfl

@[simp] theorem State.say_hostOut (x : HostMsg) : (s.say x).hostOut = s.hostOut ++ [x] := rfl

/-- An ended flight is not among those on their way. -/
theorem State.dropFlight_gone (f g : Flight) (h : g ∈ (s.dropFlight f).flights) : g ∈ s.flights ∧ g.id ≠ f.id := by
  simpa [State.dropFlight] using h

end Sys2Proof.Machine
end

