-- ==== Sys2Proof/Tests/Slice0.lean ====
section
/-!
SUPPORT. The model's own tests: ill-formed operations refused, words decoded, single steps on small states, and, for every
statement with hypotheses, states and operands that meet them.
-/

namespace Sys2Proof.Tests

open Sys2Proof.Machine Sys2Proof.Safety

set_option Elab.async false

/-! ## Well-formedness (R58) -/

/-- A field that the form leaves unused is not zero (0x02). -/
theorem test_wf_unused_fields : [Instr.vabs 0 1 2 0 0 3, .vexp2 0 1 2 0 0 1, .vlog2 0 1 2 0 0 1, .vrcp 0 1 2 0 0 1,
    .vrsq 0 1 2 0 0 1, .vcvt 0 1 2 0 1 0 1, .vsegclr 0 1 2 0 0 1, .vscan 0 1 2 0 0 1 0, .vrsum 0 1 2 0 0 1,
    .vrsumSeg 0 1 2 0 0 1, .vrssq 0 1 2 0 0 1, .vrssqSeg 0 1 2 0 0 1, .vrmax 0 1 2 0 0 1, .vrmaxSeg 0 1 2 0 0 1,
    .vrmin 0 1 2 0 0 1, .vrminSeg 0 1 2 0 0 1, .vmaxk 0 1 2 0 0 1, .vmaxkSeg 0 1 2 0 0 1, .vcoal 0 8 1 0 0 1,
    .vcoal 0 1 8 0 0 1, .vcoal 0 1 2 1 0 1, .vcoal 0 1 2 0 1 1, .vlen 0 1 8 0 0 1, .vlen 0 1 2 1 0 1, .vsplat 0 8 0 1 1 0,
    .vsplat 0 1 2 1 1 0, .vsplat 0 1 2 1 0 1, .ldv 1 2 0 0 1, .ldvc 1 2 0 6 1, .stv 1 2 5 3 0, .str 1 2 3 1 1,
    .mldb 0 1 0 2 0, .mma 0 0 1 3 0 1 0, .mmat 0 0 1 2 2 1 0, .mmaRag 0 0 1 2 3 0 1 0, .gstat 1 2 0 6,
    .gstat 1 0 2 0].all (fun i => !i.resOk && !i.wf) = true := by decide

/-- Width 0b11 is illegal (0x05). -/
theorem test_wf_width : [Instr.vadd 3 1 2 0 3 0, .vfma 3 1 2 0 3 0 0, .fp32MaskedForms 3 1 0 2 0 1 0, .mand 3 1 2 3,
    .mcnt 3 1 2, .vsplat 3 1 2 3 0 0, .vrsum 3 1 2 0 0 0, .vscan 3 1 2 0 0 0 0, .vsckSeg 3 1 2 0 3 0].all
      (fun i => !i.widthOk && !i.wf) = true := by decide

/-- A reserved code in an operand field (0x09), in sq. -/
theorem test_wf_values_sq : [Instr.loopImm 4 0, .loopReg 1 0, .looprImm 4 0, .looprReg 1 0, .setrm 6, .setrm 7, .setefr 3 0,
    .setefr 1 0x0100, .setefr 0 0x0003, .setefr 2 0x0040, .getsp 1 0x00F, .setsp 1 0x062, .cmp 6 1 2 3, .cmp 0 0 2 3,
    .cmpi 7 1 2 3, .cmpi 0 0 2 3, .fcmp 5 1 2 3, .fcmp 0 0 2 3, .movgToGuard 1 0, .bfx 1 2 0 1 63, .bfi 1 2 63 1,
    .fcvt 1 2 0, .fcvt 1 2 15].all (fun i => !i.valOk && !i.wf) = true := by decide

/-- A reserved code in an operand field (0x09), in the vector slots. -/
theorem test_wf_values_v : [Instr.vcvt 0 1 2 0 0 0 0, .vcvt 0 1 2 0 9 0 0, .fp32MaskedForms 0 1 0 2 0 1 5,
    .fp32ScalarForms 0 1 2 0 3 6, .int32MaskedForms 0 1 0 2 0 1 13, .int32ScalarForms 0 1 2 0 3 14, .vcmp 0 1 2 0 3 0 0 7,
    .vcmpScalar 0 1 2 0 3 0 7, .vlen 0 1 2 0 3 0].all (fun i => !i.valOk && !i.wf) = true := by decide

/-- A reserved code in an operand field (0x09), in me. -/
theorem test_wf_values_me : [Instr.ldv 1 2 0 10 0, .ldvc 1 2 0 15 0, .stv 1 2 10 0 0, .ldr 8 1 2 1, .str 8 1 2 0 1,
    .ldvr 1 2 3 0 0 1 0 0, .stvr 1 2 3 0 0 1 0 0, .shchk 0 0, .shq 1 0 2 11, .star 1 2 3 5, .fence 5, .drain 5, .xfence 7 0,
    .xfence 0 7, .atom 1 2 3 7 0 0, .atom 1 2 3 0 3 0, .atom 1 2 3 1 2 0, .atom 1 2 3 0 0 1, .atomN 1 2 4 2 1, .acas 1 2 3 4 2,
    .dqpop 4 1 4, .dqsteal 4 1 4, .waitm 1 2 6 0, .evpop 4 4, .evpopNb 4 4].all (fun i => !i.valOk && !i.wf) = true := by
  decide

/-- A reserved code in an operand field (0x09), in mx, gn and tx. -/
theorem test_wf_values_mx_gn_tx : [Instr.mldb 0 1 5 0 1, .mldb 0 1 4 0 0, .mldb 0 1 0 0 1, .mma 0 0 1 3 5 0 1,
    .mmaRag 0 0 1 2 3 6 0 1, .mmat 0 0 1 2 4 0 1, .mmag 0 0 0 1 3 4, .mdrv 1 2 3 6 0, .mdrs 0 0 1 2 6, .mdrvRag 1 0 2 3 0 7,
    .gstat 1 0 0 7, .cpyr 1 2 3 0 0 0 0 1 0, .xpose 1 2 3 3 0, .xcvt 1 2 3 4 0 0, .xcvt 1 2 3 4 11 0, .cswr 1 2 3 3 0].all
      (fun i => !i.valOk && !i.wf) = true := by decide

/-- The same operations at the last values that the fields allow are well formed. -/
theorem test_wf_accepts : [Instr.vabs 0 1 2 0 1 3, .vcoal 0 7 7 0 0 1, .vsplat 2 7 0 1 1 1, .ldv 1 2 0 9 1, .str 7 1 2 0 1,
    .mldb 3 1 4 2 1, .mmaRag 0 0 1 2 3 0 0 0, .gstat 1 0 7 6, .setrm 5, .setefr 2 0x002A, .getsp 1 0x00E, .setsp 1 0x061,
    .cmpi 5 3 2 3, .fcmp 4 1 2 3, .bfx 1 2 0 1 62, .bfi 1 2 63 0, .fcvt 1 2 14, .vcvt 0 1 2 0 8 0 0, .int32ScalarForms 0 1 2 0 3 13,
    .vcmp 0 1 2 0 3 0 1 7, .ldvr 1 2 3 0 1 1 0 0, .shq 1 0 2 10, .star 1 2 3 4, .xfence 6 6, .atom 1 2 3 5 1 1, .atom 1 2 3 6 2 0,
    .dqpop 0 1 0, .waitm 1 2 5 0, .mmat 0 0 1 2 3 0 1, .xpose 1 2 3 2 0, .xcvt 1 2 3 4 10 0, .cswr 1 2 3 2 0].all Instr.wf = true := by
  decide

/-! ## Decoding

The words of these lists were written out field by field from the encodings of R60, R158, R173, R197, R233, R272, R303,
R312 and R333, one for each operation that has a word, with operands that differ where the fields allow it. -/

/-- Each word of a list decodes, in its slot, to the operation beside it. -/
def reads (k : SlotKind) (l : List (Word × Instr)) : Bool := l.all fun p => decodeSlot k p.1 == .ok (some p.2)

theorem test_words_sq_1 : reads .sq [
    (0x0200A5CD, .br 42445), (0x040E5359, .brg 3 1 21337), (0x0630882F, .brz 3 34863), (0x08E02DF8, .brnz 14 11768),
    (0x0A005D02, .call 23810), (0x0C000000, .ret), (0x0FF00000, .jmpr 31), (0x110A318B, .loopImm 163 395),
    (0x10008039, .loopReg 8 57), (0x13742080, .looprImm 1858 128), (0x12001A57, .looprReg 1 2647),
    (0x14000000, .lbrk), (0x16000000, .retire), (0x18000001, .fencei 1), (0x1A000043, .brswap 67),
    (0x1DC00000, .waitt 28)] = true := by
  decide

theorem test_words_sq_2 : reads .sq [
    (0x1E000000, .frame), (0x1E000001, .frameX), (0x200000DA, .rfmode 218), (0x22000003, .setrm 3),
    (0x24002925, .setefr 0 10533), (0x27900011, .getsp 25 17), (0x280F8061, .setsp 31 97), (0x380000D7, .trap 215),
    (0x3A000000, .sysret), (0x3A000001, .sysretS), (0x40B77C00, .add 11 14 31), (0x42B50ADE, .addi 11 10 2782),
    (0x45396000, .sub 19 18 24), (0x47112C00, .mul 17 2 11), (0x48814D00, .mulh 8 2 19 1),
    (0x4B3ED900, .div 19 29 22 1)] = true := by
  decide

theorem test_words_sq_3 : reads .sq [
    (0x4C180C00, .and 1 16 3), (0x4F4E8800, .or 20 29 2), (0x50E31000, .xor 14 6 4), (0x539DAC00, .shlReg 25 27 11),
    (0x5288020A, .shlImm 8 16 10), (0x55E13800, .shrReg 30 2 14), (0x5590820B, .shrImm 25 1 11),
    (0x56389C00, .sarReg 3 17 7), (0x572A023A, .sarImm 18 20 58), (0x59C83800, .rotlReg 28 16 14),
    (0x59B70233, .rotlImm 27 14 51), (0x5BBD3100, .min 27 26 12 1), (0x5C4B7500, .max 4 22 29 1),
    (0x5E99DC00, .cmp 2 1 19 23), (0x613E6ECD, .cmpi 4 3 28 28365), (0x63363C01, .sel 19 12 15 1)] = true := by
  decide

theorem test_words_sq_4 : reads .sq [
    (0x65E38000, .clz 30 7), (0x66818000, .popc 8 3), (0x697F9B42, .bfx 23 31 1 45 2), (0x6AA58621, .bfi 10 11 24 33),
    (0x6C703000, .movgToScalar 7 3), (0x6C02E000, .movgToGuard 5 2), (0x6F5A245F, .li 21 664671),
    (0x70B84810, .lih 11 2 18448), (0x81883400, .fadd 24 16 13), (0x83654400, .fsub 22 10 17),
    (0x85523400, .fmul 21 4 13), (0x86F74E20, .ffma 15 14 19 17), (0x88D8D000, .fmin 13 17 20),
    (0x8A1D5800, .fmax 1 26 22), (0x8D3A5400, .fcmp 4 3 20 21), (0x8E6B3800, .fcvt 6 22 14)] = true := by
  decide

theorem test_words_sq_5 : reads .sq [
    (0x917A0000, .frcp 23 20), (0x93E30000, .frsq 30 6), (0x95AE0000, .fexp2 26 28), (0x97740000, .flog2 23 8)] = true := by
  decide

theorem test_words_v_1 : reads .v [
    (0x02C55C66, .vadd 1 34 43 2 12 3), (0x0561D3C6, .vsub 2 48 58 1 56 3), (0x06EC5704, .vmul 1 54 10 3 32 2),
    (0x08C33D7E, .vmin 1 33 39 2 47 3), (0x0B48AE52, .vmax 2 36 21 3 10 1), (0x0C0E8D87, .vfma 0 7 17 2 48 3 1),
    (0x0F42E61E, .vabs 2 33 28 3 1 7), (0x11614EB8, .vcvt 2 48 41 3 5 1 4), (0x132F461C, .vexp2 2 23 40 3 1 6),
    (0x15277618, .vlog2 2 19 46 3 1 4), (0x172EAE1E, .vrcp 2 23 21 3 1 7), (0x1937F61A, .vrsq 2 27 62 3 1 5),
    (0x1A95D150, .fp32MaskedForms 1 10 3 40 2 5 0), (0x1CFD9664, .fp32ScalarForms 1 62 50 3 6 4),
    (0x20DCDF9C, .viadd 1 46 27 3 51 2), (0x230C4B0E, .visub 2 6 9 1 33 3)] = true := by
  decide

theorem test_words_v_2 : reads .v [
    (0x24B1E764, .vimul 1 24 60 3 44 2), (0x2736F782, .vand 2 27 30 3 48 1), (0x29254782, .vor 2 18 40 3 48 1),
    (0x2B53D70A, .vxor 2 41 58 3 33 1), (0x2CB19714, .vshl 1 24 50 3 34 2), (0x2F63328E, .vshr 2 49 38 1 17 3),
    (0x310D2FCA, .vshrA 2 6 37 3 57 1), (0x32966476, .vimin 1 11 12 2 14 3), (0x355BB33E, .vimax 2 45 54 1 39 3),
    (0x3698DDF6, .viminU 1 12 27 2 62 3), (0x38AF16CC, .vimaxU 1 23 34 3 25 2),
    (0x3B0CF9F8, .int32MaskedForms 2 6 1 60 3 7 8), (0x3CF33F44, .int32ScalarForms 1 57 39 3 20 4),
    (0x415C5FB4, .vcmp 2 5 49 1 62 3 0 4), (0x4368B785, .vcmpScalar 2 6 34 3 15 0 5), (0x448D39C0, .vsel 1 6 2 28 3 4)] = true := by
  decide

theorem test_words_v_3 : reads .v [
    (0x46A78000, .mand 1 2 3 6), (0x48C68000, .mor 1 4 3 2), (0x4AA7C000, .mxor 1 2 3 7), (0x4D6A0000, .mnot 2 6 5),
    (0x4ED28000, .mcnt 1 20 5), (0x61574700, .vcoal 2 43 40 3 1 0), (0x637A7D00, .vlen 2 30 39 3 1 0),
    (0x64F5A980, .vsplat 1 58 26 19 0 0), (0x66B7F900, .viota 1 27 31 18), (0x66963E01, .viotaSeg 1 11 7 3),
    (0x69552F20, .vslice 2 42 37 3 18), (0x6B7EA7CA, .vcat 2 63 20 3 57 1), (0x6D35CE5A, .vpick 2 26 57 3 11 1),
    (0x6F170A1C, .vsegset 2 11 33 1 6), (0x714CFE1C, .vsegclr 2 38 31 3 1 6), (0x736B46BA, .vspread 2 53 40 3 23 1)] = true := by
  decide

theorem test_words_v_4 : reads .v [
    (0x8141DE1A, .vrsum 2 16 59 3 1 5), (0x8109661D, .vrsumSeg 2 4 44 3 1 6), (0x8324C61A, .vrssq 2 9 24 3 1 5),
    (0x837F561B, .vrssqSeg 2 63 42 3 1 5), (0x85388E18, .vrmax 2 14 17 3 1 4), (0x85791E1B, .vrmaxSeg 2 60 35 3 1 5),
    (0x877D3618, .vrmin 2 31 38 3 1 4), (0x875EC61F, .vrminSeg 2 47 24 3 1 7), (0x890F9E1A, .vscan 2 7 51 3 1 5 0),
    (0xA118461A, .vmaxk 2 6 8 3 1 5), (0xA1349619, .vmaxkSeg 2 26 18 3 1 4), (0xA2973CE6, .vexpk 1 11 39 2 28 3),
    (0xA56356A2, .vsck 2 49 42 3 20 1), (0xA542667B, .vsckSeg 2 33 12 3 15 1)] = true := by
  decide

theorem test_words_mx_1 : reads .mx [
    (0x03000000, .mzero 4), (0x057D9000, .mldb 2 31 3 0 1), (0x07F7A003, .mgenbPure 15 5 29 3),
    (0x07521935, .mgenbAdd 10 4 16 25 6 1), (0x08000000, .mswap), (0x0A34D694, .mma 0 3 9 86 4 2 1),
    (0x0D0DA5D0, .mmat 4 0 27 9 3 2 1), (0x0E63A633, .mmag 1 8 7 9 70 3), (0x10300000, .mcop 3),
    (0x10000001, .mcopMad), (0x136F7D80, .mdrv 45 7 15 5 1), (0x15F46100, .mdrs 7 3 8 24 2),
    (0x166633DD, .madp 1 2 12 25 3 93), (0x18944320, .madt 9 8 16 25), (0x1B700000, .mbase 23),
    (0x1CC876CA, .mmaRag 3 0 16 29 5 4 2 1)] = true := by
  decide

theorem test_words_mx_2 : reads .mx [
    (0x1FDB3054, .mdrvRag 59 3 6 1 2 4)] = true := by
  decide

theorem test_words_gn_1 : reads .gn [
    (0x02700000, .gload 3 16), (0x04800000, .gfree 4), (0x074C0000, .gseed 5 6), (0x084E62C2, .geval 9 12 6 5 16 1),
    (0x0BAB0800, .gstat 26 11 0 4)] = true := by
  decide

theorem test_words_me_1 : reads .me [
    (0x0384E5BF, .lds 24 9 26047), (0x04EB8D6D, .sts 14 23 3437), (0x070631C0, .ldsW 16 12 12736),
    (0x081F6C84, .ldsWu 1 30 27780), (0x0A5A4D41, .ldsH 5 20 19777), (0x0C5F2427, .ldsHu 5 30 9255),
    (0x0F2D4492, .ldsB 18 26 17554), (0x102B7FB5, .ldsBu 2 22 32693), (0x13134554, .stsW 17 6 17748),
    (0x14C3C33E, .stsH 12 7 17214), (0x17ABA672, .stsB 26 23 9842), (0x21009518, .ldv 32 2 10 8 3),
    (0x23B53B28, .ldvc 54 20 29 9 1), (0x250D40FC, .stv 33 21 7 3 2), (0x263EF401, .ldr 7 27 26 1),
    (0x29E33E06, .str 60 12 31 3 0)] = true := by
  decide

theorem test_words_me_2 : reads .me [
    (0x2BE60EEA, .ldvr 60 24 7 3 1 0 2 1), (0x2C93B3EE, .stvr 18 14 25 7 1 0 3 2), (0x3081A400, .shld 2 3 9),
    (0x33806400, .shwin 6 25), (0x35A00000, .shchk 6 2), (0x36E92A00, .shq 14 4 18 10),
    (0x41B2504A, .waitf 27 4 20554), (0x4342CD1A, .setf 20 5 19738), (0x4443C01F, .clrf 4 7 16415),
    (0x461B88BD, .mscl 1 23 2237), (0x48D74910, .star 13 14 73 1), (0x50C00000, .fence 3), (0x52680000, .xfence 1 5),
    (0x55000000, .drain 4), (0x613E3A20, .atom 19 28 14 4 1 0), (0x600E5A30, .atomN 28 22 4 1 0)] = true := by
  decide

theorem test_words_me_3 : reads .me [
    (0x632CC3A8, .acas 18 25 16 29 1), (0x64E40000, .rsf 14 8), (0x64D20005, .rsfV 26 8 2), (0x67E58000, .rsb 30 11),
    (0x662FC003, .rsbV 5 31 1), (0x692A5C50, .rso 18 20 23 5), (0x69219CD7, .rsoV 36 6 14 26 3),
    (0x6A5DBA80, .roopen 5 27 14 40), (0x6AB000D8, .roopenX 11 13), (0x6C1F0000, .binit 1 30),
    (0x6C98F001, .binitV 9 17 28), (0x6E9F0000, .bfin 9 30), (0x6E086821, .bfinV 16 26 2), (0x700E8000, .bnorm 29),
    (0x700CC801, .bnormV 25 18), (0x720E69C0, .dqpush 28 26 14)] = true := by
  decide

theorem test_words_me_4 : reads .me [
    (0x746A0100, .dqpop 6 20 8), (0x77248140, .dqsteal 18 9 10), (0x78EB8000, .bara 14 23), (0x7A08BC00, .barw 17 15),
    (0x7D078000, .tgrow 16 15), (0x7FBF8000, .sdclaim 27 31), (0x81028000, .sdfree 16 5),
    (0x8283A0AE, .waitm 8 7 2 174), (0xC0340000, .evpop 3 8), (0xC1DB0001, .evpopNb 29 22), (0xC2060000, .launch 12),
    (0xC4000530, .notify 1328)] = true := by
  decide

theorem test_words_tx_1 : reads .tx [
    (0x03F76EC1, .cpy 31 14 27 5 1 0 1), (0x03B95805, .cpyZ 27 18 22 0 1), (0x0599C271, .cpyr 25 19 16 4 1 1 1 0 1),
    (0x07D65805, .xpose 29 12 22 2 1), (0x0854268D, .xcvt 5 8 9 20 6 1), (0x0A322001, .xexp 3 4 8 1),
    (0x0D320001, .imload 19 4 1), (0x0E7C8000, .cwaitt 7 25), (0x10DE0000, .cpoll 13 28),
    (0x4045F000, .chdef 8 23 24), (0x4388EBB1, .csend 49 3 21 27 1), (0x4499FCB1, .crecv 19 7 30 11 1),
    (0x46130C01, .ca2ac 2 12 6 1), (0x48292201, .ca2ap 5 4 17 1), (0x4A9BDA81, .cswr 19 15 13 2 1),
    (0x4CDA0401, .cdig 27 8 2 1)] = true := by
  decide

theorem test_words_tx_2 : reads .tx [
    (0x4F247CB1, .cnrm 36 17 30 11 1), (0x51F00000, .cpause 62), (0x50040000, .cpauseAll), (0x53080000, .cres 33),
    (0x52040000, .cresAll), (0x552F5E01, .gagree 37 29 15 1)] = true := by
  decide
/-! The words that the spec itself prints beside an operation's text (R139, R140, R158 to R168, R175 to R219, R237 to R257,
R273 to R284, R304 to R310, R315 to R327, R335 to R351), in each slot that they stand in. -/

theorem test_spec_words_sq_1 : reads .sq [
    (0x38000011, .trap 17), (0x3A000000, .sysret), (0x3A000001, .sysretS), (0x0200FFFD, .br 65533),
    (0x0670000C, .brz 7 12), (0x12007004, .looprReg 7 4), (0x54448203, .shrImm 4 9 3), (0x4A531D00, .div 5 6 7 1),
    (0x60918005, .cmpi 2 1 3 5), (0x70443F00, .lih 4 1 16128), (0x80731800, .fadd 7 6 6),
    (0x871810A0, .ffma 17 16 4 5), (0x8F019000, .fcvt 16 3 4)] = true := by
  decide

theorem test_spec_words_me_1 : reads .me [
    (0x16317FFF, .stsB 3 2 32767), (0x3630A600, .shq 3 0 10 6), (0x2A329630, .ldvr 6 10 11 0 1 1 0 0),
    (0x40121000, .waitf 1 4 4096), (0x46220200, .mscl 2 4 512), (0x48638310, .star 6 7 3 1),
    (0x60049030, .atomN 9 4 0 1 0), (0x603492C0, .atom 3 9 4 5 2 0), (0x625498E8, .acas 5 9 6 7 1),
    (0x64448000, .rsf 4 9), (0x66320003, .rsbV 6 8 1), (0x6C54A801, .binitV 5 9 10), (0x6E748000, .bfin 7 9),
    (0x6844AC30, .rso 4 9 11 3), (0x6A34A830, .roopen 3 9 10 3), (0x72061120, .dqpush 12 4 9),
    (0x76860120, .dqsteal 8 12 9), (0x78548000, .bara 5 9), (0x7A049400, .barw 9 5), (0x7C638000, .tgrow 6 7)] = true := by
  decide

theorem test_spec_words_me_2 : reads .me [
    (0x7E448000, .sdclaim 4 9), (0x80428000, .sdfree 4 5), (0x82313008, .waitm 3 2 3 8), (0xC0428000, .evpop 4 5),
    (0xC2030000, .launch 6), (0xC4000003, .notify 3)] = true := by
  decide

theorem test_spec_words_v_1 : reads .v [
    (0x1A860490, .fp32MaskedForms 1 3 0 2 1 1 0), (0x1C060845, .fp32ScalarForms 0 3 1 0 4 5),
    (0x0D080812, .vfma 2 4 1 0 2 1 0), (0x10060820, .vcvt 0 3 1 0 1 0 0), (0x3C0A0870, .int32ScalarForms 0 5 1 0 7 0),
    (0x40104092, .vcmp 0 1 1 0 2 1 0 2), (0x44060EA0, .vsel 0 3 0 7 1 2), (0x4614C000, .mand 0 1 2 3),
    (0x4E150000, .mcnt 0 5 2), (0x60060900, .vcoal 0 3 1 0 1 0), (0x62141200, .vlen 0 5 1 0 2 0),
    (0x640202E0, .vsplat 0 1 0 5 1 1), (0x66060801, .viotaSeg 0 3 1 0), (0x68060840, .vslice 0 3 1 0 4),
    (0x72060812, .vspread 0 3 1 0 2 1), (0x80140814, .vrsum 0 5 1 0 1 2), (0x88860801, .vscan 1 3 1 0 0 0 1)] = true := by
  decide

theorem test_spec_words_mx_1 : reads .mx [
    (0x02C00000, .mzero 3), (0x10900000, .mcop 9), (0x10000001, .mcopMad), (0x06654B64, .mgenbAdd 3 1 10 11 12 0),
    (0x06094002, .mgenbPure 0 2 10 2), (0x0F1431F8, .mmag 4 5 0 12 63 0), (0x123D1980, .mdrv 7 5 3 1 1),
    (0x1E193250, .mdrvRag 3 1 6 9 2 0), (0x14239880, .mdrs 0 2 7 6 1), (0x183214C0, .madt 3 4 5 6),
    (0x1A700000, .mbase 7), (0x1692949F, .madp 2 1 5 10 1 31)] = true := by
  decide

theorem test_spec_words_gn_1 : reads .gn [
    (0x02040000, .gload 0 4), (0x04600000, .gfree 3), (0x060A0000, .gseed 0 5), (0x0861A52E, .geval 12 3 2 10 11 1),
    (0x0A920000, .gstat 9 2 0 0), (0x0A902C00, .gstat 9 0 1 6)] = true := by
  decide

theorem test_spec_words_tx_1 : reads .tx [
    (0x0E048000, .cwaitt 0 9), (0x10B40000, .cpoll 11 8), (0x02921481, .cpy 9 4 5 1 0 0 1),
    (0x04921519, .cpyr 9 4 5 2 0 0 1 1 1), (0x02921424, .cpyZ 9 4 5 1 0), (0x06931C02, .xpose 9 6 7 1 0),
    (0x08931D02, .xcvt 9 6 7 8 1 0), (0x0A931C00, .xexp 9 6 7 0), (0x0C920001, .imload 9 4 1),
    (0x4021C600, .chdef 4 7 3), (0x44218A80, .crecv 4 6 5 8 0), (0x42190A91, .csend 3 4 5 9 1),
    (0x46320E00, .ca2ac 6 8 7 0), (0x48321201, .ca2ap 6 8 9 1), (0x4E218AA0, .cnrm 4 6 5 10 0),
    (0x4C390A00, .cdig 7 4 5 0), (0x4A290C00, .cswr 5 4 6 0 0), (0x54398A00, .gagree 7 6 5 0),
    (0x50040000, .cpauseAll), (0x52180000, .cres 3)] = true := by
  decide

/-- MLDB.NI BG2:[S4], SC1 by the layout of R272 with F = 4, as R264 numbers the narrow integers. -/
theorem test_words_mldb_ni : decodeSlot .mx 0x05123000 = .ok (some (.mldb 2 4 4 1 1)) := by decide

/-- Unassigned codes, reserved bits, width 0b11 and reserved values are refused by the subcode of R58. -/
theorem test_words_refused : decodeSlot .sq 0xFE000000 = .error .unassigned ∧ decodeSlot .sq 0x02010000 = .error .reserved ∧
    decodeSlot .v 0x03800000 = .error .width ∧ decodeSlot .sq 0x22000006 = .error .value ∧
    decodeSlot .sq 0x00000001 = .error .reserved ∧ decodeSlot .tx 0x00000000 = .ok none := by decide
/-! ## Small states -/

/-- The queue entry that the states below issue: bundle 5 at address 40. -/
def op5 : QOp := { QOp.nop with seq := 5, addr := 40 }

/-- Reset with one running unit, at the head of whose slot stands `op5`, and the changes `f` to the unit, `g` to the rest. -/
def st (u k : Nat) (f : Machine.Unit → Machine.Unit) (g : State → State) : State :=
  g { State.reset with
    units := [(u, f { Unit.idle with on := true, slots := [(k, { Slot.idle with queue := [op5] })] })], cur := ⟨u, k, op5⟩ }

/-- A unit with the scalars of a list. -/
def sc (l : List (Nat × BitVec 64)) (x : Machine.Unit) : Machine.Unit := { x with s := l }

/-- Core 0 with `op5` at the head of slot `k` and the scalars of a list. -/
def at0 (k : Nat) (l : List (Nat × BitVec 64)) : State := st 0 k (sc l) id

/-- The address of a byte of the core's own scratchpad (R97). -/
def own (off : Nat) : BitVec 64 := 0x2000000010000000 + BitVec.ofNat 64 off

/-- A task of context 0 with the group record at place 4096 of the vault of die 0. -/
def task0 : Task := ⟨0, 0x1000000000001000, 0, false, true, false, false, 7, 384, 0⟩

/-- The group of that task. -/
def group0 : Group :=
  { ctx := 0, recd := 0x1000000000001000, place := vaultPlace 0 4096, entry := 0, args := 0x55, saveBase := 0x1000000000002000,
    stride := 64, clset := 1, cluster := false, cores := false, replay := false, tev := false, doneAddr := 0, tag := 7,
    ctl := 384, count0 := 4, begun := false, replays := [], growing := 0, num := 0 }

/-- A flight of unit 0 with nothing to touch, numbered `n`. -/
def fly (n : Nat) (w : Fly) : Flight := ⟨n, 0, 3, 24, 6, pSL, 0, 0, false, false, [], none, false, none, false, 0, w⟩

/-- An outcome is a next state with a property. -/
def nextIs (o : Host.Outcome State Fault Refusal) (p : State → Bool) : Bool :=
  match o with
  | .next t => p t
  | _ => false

/-- A die's time is the package's or one more (R18). -/
theorem timeOf_near (s : State) (d : Nat) : s.timeOf d = s.time ∨ s.timeOf d = s.time + 1 := by
  unfold State.timeOf; split <;> simp

/-- A resident context whose vault window on die 0 is the first MiB. -/
def ctx0 : Ctx := { Ctx.reset with state := 1, vwin := [(0, 0x100000000)] }

/-- Core 0 with the scalars of a list, its context running with a vault window. -/
def in0 (k : Nat) (l : List (Nat × BitVec 64)) (g : State → State) : State :=
  st 0 k (sc l) fun s => g { s with ctxs := [(0, ctx0)], glob := { s.glob with running := some 0 } }

/-- The address of a byte of the vault of die 0. -/
def vlt (off : Nat) : BitVec 64 := 0x1000000000000000 + BitVec.ofNat 64 off

/-- A returning request passes its checks and its budget. -/
def asks (s : State) (r : Req) (va : BitVec 64) : Bool :=
  match s.reqReach s.u (s.ctxOf s.u) true r va with
  | .ok c => ((s.tlbAdd (dieOf s.u) c.tlb).overBudget (dieOf s.u) (coreIn s.u) (useOf c.spans)).isNone
  | .error _ => false

/-- A state whose first flight is a request at its port, over memory of a list of cells. -/
def port (r : Req) (va : BitVec 64) (ds : List Stor) (p n : Nat) (m : List Host.Cell) : State :=
  in0 6 [] fun s => { s with
    mem := m, flights := [{ fly 1 (.req r va ds) with path := pAT, reads := true, writes := true, spans := [(p, n)] }] }

/-! ## Single steps

The expected values are the rules' own, worked out by hand. -/

/-- The value of the one scalar that an operation leaves on its way, with its flags and its latency. -/
def lands (o : Host.Outcome State Fault Refusal) : Option (BitVec 64 × BitVec 5 × Nat) :=
  match o with
  | .next t => match t.landings with | [⟨_, _, _, _, i, d, .scalar _ v f⟩] => some (v, f, d - i) | _ => none
  | _ => none

/-- The runs that a vector operation leaves on their way, with their flags and their latency. -/
def flies (o : Host.Outcome State Fault Refusal) : Option (Val × BitVec 5 × Nat) :=
  match o with
  | .next t => match t.flights with
    | [f] => match f.what with | .result [(_, v)] fl => some (v, fl, f.due - f.issued) | _ => none
    | _ => none
  | _ => none

/-- The code and subcode of the fault that an operation notes. -/
def faults (o : Host.Outcome State Fault Refusal) : Option (Byte × Byte) :=
  match o with
  | .next t => (t.unit 0).disp.pend.map fun p => (p.code, p.sub)
  | _ => none

/-- R164: an addition wraps. -/
theorem test_add_wraps : lands (exec (.add 1 2 3) (at0 1 [(2, 0xFFFFFFFFFFFFFFFF), (3, 2)])) = some (1, 0, 1) := by decide
/-- R164: S0 reads as 0. -/
theorem test_sub_from_zero : lands (exec (.sub 1 0 3) (at0 1 [(3, 2)])) = some (0xFFFFFFFFFFFFFFFE, 0, 1) := by decide
/-- R164: division by zero gives all ones; the most negative number by −1 gives itself. -/
theorem test_div_corners : lands (exec (.div 1 2 3 0) (at0 1 [(2, 7)])) = some (0xFFFFFFFFFFFFFFFF, 0, 20) ∧
    lands (exec (.div 1 2 3 0) (at0 1 [(2, 0x8000000000000000), (3, 0xFFFFFFFFFFFFFFFF)])) = some (0x8000000000000000, 0, 20) := by decide
/-- R164: division rounds toward zero. -/
theorem test_div_negative : lands (exec (.div 1 2 3 0) (at0 1 [(2, 0xFFFFFFFFFFFFFFF9), (3, 2)])) = some (0xFFFFFFFFFFFFFFFD, 0, 20) := by decide
/-- R164: the upper half of (−1) (−1) is 0, and of its unsigned square 2^64 − 2. -/
theorem test_mulh : lands (exec (.mulh 1 2 2 0) (at0 1 [(2, 0xFFFFFFFFFFFFFFFF)])) = some (0, 0, 3) ∧
    lands (exec (.mulh 1 2 2 1) (at0 1 [(2, 0xFFFFFFFFFFFFFFFF)])) = some (0xFFFFFFFFFFFFFFFE, 0, 3) := by decide
/-- R164: a shift by a register uses six bits. -/
theorem test_shift_amount : lands (exec (.shlReg 1 2 3) (at0 1 [(2, 1), (3, 65)])) = some (2, 0, 1) ∧
    lands (exec (.sarReg 1 2 3) (at0 1 [(2, 0x8000000000000000), (3, 63)])) = some (0xFFFFFFFFFFFFFFFF, 0, 1) := by decide
/-- R164: a rotation by 0 changes nothing. -/
theorem test_rotl_zero : lands (exec (.rotlImm 1 2 0) (at0 1 [(2, 0x8000000000000001)])) = some (0x8000000000000001, 0, 1) := by decide
/-- R166: BFX takes the field of W + 1 bits at P, sign-extended with X. -/
theorem test_bfx : lands (exec (.bfx 1 2 1 4 3) (at0 1 [(2, 0x80)])) = some (0xFFFFFFFFFFFFFFF8, 0, 1) ∧
    lands (exec (.bfx 1 2 0 4 3) (at0 1 [(2, 0x80)])) = some (8, 0, 1) := by decide
/-- R166: LIH replaces 16 bits at 16 P. -/
theorem test_lih : lands (exec (.lih 4 1 0x3F00) (at0 1 [(4, 0xFFFFFFFFFFFFFFFF)])) = some (0xFFFFFFFF3F00FFFF, 0, 1) := by decide
/-- R167: 1 + 1 is 2, and 1 + 2^−24 rounds to even (R72). -/
theorem test_fadd : lands (exec (.fadd 1 2 2) (at0 1 [(2, 0x3F800000)])) = some (0x40000000, 0, 4) ∧
    (lands (exec (.fadd 1 2 3) (at0 1 [(2, 0x3F800000), (3, 0x33800000)]))).map (·.1) = some 0x3F800000 := by decide
/-- R76: infinity less infinity is the canonical NaN. -/
theorem test_fsub_infinities : (lands (exec (.fsub 1 2 2) (at0 1 [(2, 0x7F800000)]))).map (·.1) = some 0x7FC00000 := by decide
/-- R167: the reciprocal of 4 is 0.25. -/
theorem test_frcp : lands (exec (.frcp 1 2) (at0 1 [(2, 0x40800000)])) = some (0x3E800000, 0, 8) := by decide
/-- R159: a branch by −3 bundles from bundle 40. -/
theorem test_br_back : nextIs (exec (.br 0xFFFD) (at0 1 [])) (fun t => (t.unit 0).front.pc == 37) = true := by decide
/-- R159: CALL leaves the next address for S15. -/
theorem test_call : lands (exec (.call 5) (at0 1 [])) = some (41, 0, 1) := by decide
/-- R160: LOOP with a count of 0 goes on after END. -/
theorem test_loop_zero : nextIs (exec (.loopImm 0 4) (at0 1 []))
    (fun t => (t.unit 0).front.pc == 45 && (t.unit 0).front.loops == []) = true := by decide
/-- R139: TRAP notes its number. -/
theorem test_trap : faults (exec (.trap 17) (at0 1 [])) = some (0x30, 17) := by decide
/-- R163: a supervisor register in user mode is PROTECTION 0x07. -/
theorem test_getsp_closed : faults (exec (.getsp 1 0x041) (at0 1 [])) = some (0x19, 7) := by decide

/-- Core 0 with vector registers V1, V2 and mask M1. -/
def vec (k : Nat) (a b m : List Run) (l : List (Nat × BitVec 64)) : State :=
  st 0 k (fun x => { x with s := l, eng := { x.eng with v := [(1, a), (2, b)], m := [(1, m)] } }) id

/-- R228: cuts at every start of either operand; a null run of one stays. -/
theorem test_viadd_aligns : flies (exec (.viadd 0 3 1 0 2 0) (vec 2 [⟨1, 2, true⟩, ⟨0xFFFFFFFF, 2, false⟩] [⟨10, 3, true⟩, nullRun, ⟨20, 1, true⟩] [] [])) =
    some (.runs [⟨11, 2, true⟩, ⟨9, 1, false⟩, nullRun, ⟨19, 1, true⟩], 0, 4) := by decide
/-- R228: operands of different lengths are LENGTH_MISMATCH. -/
theorem test_viadd_lengths : faults (exec (.viadd 0 3 1 0 2 0) (vec 2 [⟨1, 2, true⟩] [⟨10, 3, true⟩] [] [])) = some (0x09, 0) := by decide
/-- R245: VCOAL merges equal neighbours, not across a start. -/
theorem test_vcoal : flies (exec (.vcoal 0 3 1 0 0 0) (vec 2 [⟨5, 1, true⟩, ⟨5, 2, false⟩, ⟨5, 1, true⟩] [] [] [])) =
    some (.runs [⟨5, 3, true⟩, ⟨5, 1, true⟩], 0, 4) := by decide
/-- R247: VSPLAT writes one run. -/
theorem test_vsplat : flies (exec (.vsplat 0 3 4 5 0 0) (vec 2 [] [] [] [(4, 9), (5, 100)])) = some (.runs [⟨9, 100, true⟩], 0, 4) := by decide
/-- R246: VLEN counts elements, runs and segments. -/
theorem test_vlen : (List.range 3).map (fun q => flies (exec (.vlen 0 5 1 0 (BitVec.ofNat 2 q) 0) (vec 2 [⟨5, 3, true⟩, ⟨6, 2, false⟩, nullRun] [] [] []))) =
    [some (.scalar 5, 0, 4), some (.scalar 3, 0, 4), some (.scalar 2, 0, 4)] := by decide
/-- R255: the sum of five ones and two halves is 6. -/
theorem test_vrsum : flies (exec (.vrsum 0 5 1 0 0 0) (vec 2 [⟨0x3F800000, 5, true⟩, ⟨0x3F000000, 2, false⟩] [] [] [])) =
    some (.scalar 0x40C00000, 0, 4) := by decide
/-- R243: VSEL takes the second where the mask is 1. -/
theorem test_vsel : flies (exec (.vsel 0 1 0 2 0 1) (vec 2 [⟨1, 3, true⟩] [⟨2, 3, true⟩] [⟨0, 1, true⟩, ⟨1, 2, false⟩] [])) =
    some (.runs [⟨1, 1, true⟩, ⟨2, 2, false⟩], 0, 4) := by decide

/-- R175: STS.H stores the low half-word, its low byte first. -/
theorem test_sts_h : nextIs (exec (.stsH 3 2 0x7FFE) (in0 6 [(2, own 16), (3, 0x12345678)] id))
    (fun t => (t.flights.map fun f => (f.spans, f.what)) == [([(scratchPlace 0 14, 2)], .store [0x78, 0x56])]) = true := by decide
/-- R116: a misaligned load is ALIGNMENT. -/
theorem test_lds_misaligned : faults (exec (.lds 3 2 4) (in0 6 [(2, own 0)] id)) = some (0x1A, 0) := by decide
/-- R100: a load of an empty tile waits. -/
theorem test_lds_waits : nextIs (exec (.lds 3 2 0) (in0 6 [(2, own 0)] fun s => { s with tiles := [(tileOf (scratchPlace 0 0), (false, 1))] }))
    (fun t => t.flights == [] && ((t.unit 0).slot 6).queue == [op5]) = true := by decide
/-- R198: ATOM.ADD.I32 at the port wraps and answers with the old value, sign-extended. -/
theorem test_atom_add : nextIs (exec .portSyncOperation (port (.atom 0 0 false 1) (vlt 64) [.s 1] (vaultPlace 0 64) 4
      [(vaultPlace 0 64, 0xFF), (vaultPlace 0 64 + 1, 0xFF), (vaultPlace 0 64 + 2, 0xFF), (vaultPlace 0 64 + 3, 0xFF)]))
    (fun t => t.mem == [] && (t.flights.map (·.what)) == [.result [(.s 1, .scalar 0xFFFFFFFFFFFFFFFF)] 0]) = true := by decide
/-- R187: CLRF leaves the clearing of its tiles on its way. -/
theorem test_clrf : nextIs (exec (.clrf 1 2 0) (in0 6 [(2, own 4096)] id))
    (fun t => (t.flights.map (·.what)) == [.bits [tileOf (scratchPlace 0 4096), tileOf (scratchPlace 0 8192)] false]) = true := by decide
/-- R263: MSWAP exchanges the planes. -/
theorem test_mswap : nextIs (exec .mswap (st 0 4 (fun x => { x with eng := { x.eng with shadow := { Plane.zero with fb := 2 } } }) id))
    (fun t => (t.unit 0).eng.active.fb == 2 && (t.unit 0).eng.shadow.fb == 0) = true := by decide
/-- R305: GSEED's seed is present two cycles on. -/
theorem test_gseed : flies (exec (.gseed 0 5) (st 0 5 (sc [(5, 77)]) id)) = some (.scalar 77, 0, 2) := by decide
/-- R300: SRNOISE depends on c0 XOR c2 and c1 XOR c3 only. -/
theorem test_srnoise : evalGen srNoise 5 3 9 1 2 = evalGen srNoise 5 2 11 0 0 := by decide
/-- R291: the SHA3-256 digest of the empty string (FIPS 202). -/
theorem test_sha3_empty : sha3 [] = [0xA7, 0xFF, 0xC6, 0xF8, 0xBF, 0x1E, 0xD7, 0x66, 0x51, 0xC1, 0x47, 0x56, 0xA0, 0x61, 0xD6, 0x62, 0xF5, 0x80, 0xFF,
    0x4D, 0xE4, 0x3B, 0x49, 0xFA, 0x82, 0xD8, 0x0A, 0x4B, 0x80, 0xF8, 0x43, 0x4A] := by decide +kernel
/-- R326: the CRC-64/ECMA-182 of the digits 1 to 9. -/
theorem test_crc64 : crc64 [0x31, 0x32, 0x33, 0x34, 0x35, 0x36, 0x37, 0x38, 0x39] = 0x6C40DF5F0B497347 := by decide +kernel
/-- R313: a copy takes token 1, and clears its destination tile. -/
theorem test_cpy_token : nextIs (exec (.cpyZ 9 4 5 0 0) (in0 7 [(4, own 0), (5, own 4096)] id))
    (fun t => (t.unit 0).tok == 1 && (t.xfers.map (·.tok)) == [1]) = true := by decide
/-- R8, R9: core 6 of die 13 is core 214, of global cluster 53, its home vault number 6 of die 13. -/
theorem test_core_numbers : dieOf 214 = 13 ∧ clusterOf 214 = 53 ∧ coreIn 214 = 6 := by decide
/-- R13: dies 0 and 23 are eight hops apart. -/
theorem test_hops : hops 0 23 = 8 := by decide

/-- A unit that the package does not have is the model's one fault. -/
theorem test_absent_unit : (match step { State.reset with agenda := [.slot 480 1] } with | .fault .absentUnit => true | _ => false) = true := by
  decide
/-- A word that withFetchWord places runs in the very next step. -/
theorem test_fetched_word : nextIs (step (State.reset.withFetchWord 32 0x1E000000)) (fun t => t != State.reset) = true := by decide +kernel

/-! ## Witnesses: numbers -/

/-- RoundingRule: an exact value in range. -/
theorem witness_RoundingRule_exact : (0 : BitVec 3).toNat ≤ 5 ∧ (0 : Nat) < 2 ^ 24 ∧ OnGrid fp32 (ratOf false 3 0) ∧
    (∀ z, OnGrid fp32 z → ¬ (ratOf false 3 0 < z ∧ z < ratOf false 3 0)) ∧ |ratOf false 3 0| ≤ 4 := by
  refine ⟨by decide, by decide, ⟨3, 0, by decide, by decide, by norm_num [ratOf]⟩, fun z _ h => ?_, by norm_num [ratOf]⟩
  exact absurd (h.1.trans h.2) (lt_irrefl _)

/-- RoundingRule: a value beyond the greatest finite one, exact on the unbounded grid. -/
theorem witness_RoundingRule_overflow : OnGrid fp32 (ratOf true 1 128) ∧
    ((2 ^ 24 - 1 : Nat) : ℚ) * 2 ^ (104 : Int) < |ratOf true 1 128| := by
  refine ⟨⟨1, 128, by decide, by decide, by norm_num [ratOf]⟩, by norm_num [ratOf]⟩

/-- RoundingRule: a tie between neighbours, which every clause of `Chosen` answers. -/
theorem witness_RoundingRule_tie : OnGrid fp32 16777216 ∧ OnGrid fp32 16777218 ∧
    (∀ z, OnGrid fp32 z → ¬ ((16777216 : ℚ) < z ∧ z < 16777218)) ∧ (16777216 : ℚ) < ratOf false 16777217 0 ∧
    ratOf false 16777217 0 < 16777218 ∧ Chosen 0 0 (ratOf false 16777217 0) 16777216 16777218 16777216 ∧
    Chosen 1 0 (ratOf false 16777217 0) 16777216 16777218 16777216 ∧
    Chosen 2 0 (ratOf false 16777217 0) 16777216 16777218 16777216 ∧
    Chosen 3 0 (ratOf false 16777217 0) 16777216 16777218 16777218 ∧
    Chosen 4 0 (ratOf false 16777217 0) 16777216 16777218 16777218 ∧
    Chosen 5 8388607 (ratOf false 16777217 0) 16777216 16777218 16777218 ∧
    Chosen 5 8388608 (ratOf false 16777217 0) 16777216 16777218 16777216 := by
  refine ⟨⟨1, 24, by decide, by decide, by norm_num⟩, ⟨8388609, 1, by decide, by decide, by norm_num⟩, ?_, by norm_num [ratOf],
    by norm_num [ratOf], ?_, ?_, rfl, rfl, ?_, ?_, ?_⟩
  · rintro z ⟨n, q, hn, -, hz⟩ ⟨h1, h2⟩
    have h0 : (0 : ℚ) < z := lt_trans (by norm_num) h1
    rw [abs_of_pos h0] at hz
    have hn' : (n : ℚ) < 16777216 := by exact_mod_cast (show n < 16777216 from hn)
    rcases le_or_gt q 0 with hq | hq
    · have : (2 : ℚ) ^ q ≤ 1 := zpow_le_one_of_nonpos₀ (by norm_num) hq
      nlinarith [(Nat.cast_nonneg n : (0 : ℚ) ≤ n)]
    · obtain ⟨k, rfl⟩ : ∃ k : Nat, q = k + 1 := ⟨(q - 1).toNat, by omega⟩
      have e : z = 2 * ((n * 2 ^ k : Nat) : ℚ) := by rw [hz]; push_cast; rw [zpow_add₀ (by norm_num)]; norm_cast; ring
      rw [e] at h1 h2
      have a : (8388608 : ℚ) < ((n * 2 ^ k : Nat) : ℚ) := by linarith
      have b : ((n * 2 ^ k : Nat) : ℚ) < 8388609 := by linarith
      norm_cast at a b
      omega
  · refine ⟨Or.inl rfl, ?_, ?_, fun _ => ⟨4194304, by norm_num⟩⟩ <;> norm_num [ratOf]
  all_goals show (_ : ℚ) = ite _ _ _; norm_num [ratOf]

/-- RoundingRule: integers below, in and above a range, exact and not. -/
theorem witness_RoundingRule_integers : ((3 : Int) : ℚ) = ratOf false 3 0 ∧ ((0 : Int) : ℚ) < ratOf false 1 (-1) ∧
    ratOf false 1 (-1) < ((0 : Int) : ℚ) + 1 ∧ Chosen 0 0 (ratOf false 1 (-1)) ((0 : Int) : ℚ) (((0 : Int) : ℚ) + 1) ((0 : Int) : ℚ) ∧
    (3 : Int) < 4 ∧ (2 : Int) < 3 := by
  refine ⟨by norm_num [ratOf], by norm_num [ratOf], by norm_num [ratOf], ⟨Or.inl (by norm_num), ?_, ?_, fun _ => ⟨0, by norm_num⟩⟩,
    by decide, by decide⟩ <;> norm_num [ratOf]

/-- RoundingRule: encodings of every class, at the edges, and a NaN's payload. -/
theorem witness_RoundingRule_encodings : [fp32, bf16, fp16, e5m2, e4m3].all (fun f =>
    let top := (2 ^ f.ew - 1) * 2 ^ f.fw
    let bot := top + if f.fw = 3 then 7 else 1
    decide (0 < 2 * 2 ^ (f.ew + f.fw)) && decide (bot < 2 ^ (f.ew + f.fw)) && decide (bot / 2 ^ f.fw % 2 ^ f.ew = 2 ^ f.ew - 1)) = true ∧
    (0 : Nat) < 2 ^ 22 := by decide

/-! ## Witnesses: the sequencer -/

/-- IntegerResults: a bit field that ends at bit 63, and one that does not fit. -/
theorem witness_IntegerResults : (63 : BitVec 6).toNat + (0 : BitVec 6).toNat + 1 ≤ 64 ∧
    ¬ (63 : BitVec 6).toNat + (1 : BitVec 6).toNat + 1 ≤ 64 := by decide

/-- BranchResults: taken and not, register targets at the last bundle of a half, past it, and on a stream. -/
theorem witness_BranchResults : (at0 1 []).me.stream = false ∧ (at0 1 []).me.front.half = false ∧
    (4095 : BitVec 64).toNat < 8192 ∧ ((4095 : BitVec 64).toNat / 4096 = 1 ↔ (at0 1 []).me.front.half = true) ∧
    (4095 : BitVec 64).toNat % 4096 < 4096 ∧ ¬ ((4096 : BitVec 64).toNat / 4096 = 1 ↔ (at0 1 []).me.front.half = true) ∧
    isCtl (st 384 1 id id).u = true ∧ ¬ (1024 : BitVec 64).toNat % 4096 < 1024 ∧
    (st 384 1 (fun x => { x with stream := true }) id).me.stream = true ∧ (64 : BitVec 64).toNat % 32 = 0 ∧
    (at0 1 []).rg 0 = decide ((1 : BitVec 1) = 1) ∧ (at0 1 []).rg 1 ≠ decide ((1 : BitVec 1) = 1) ∧ (at0 1 []).rs 1 = 0 ∧
    (at0 1 [(1, 5)]).rs 1 ≠ 0 := by decide

/-- A loop level that ends at bundle 40. -/
def level : Loop := ⟨3, 0, 38, 40, true⟩

/-- LoopResults: counts 0 and 1, depths 0, 5 and 6, and levels that end elsewhere, go on and close. -/
theorem witness_LoopResults : (0 : BitVec 12).toNat = 0 ∧ (1 : BitVec 12).toNat ≠ 0 ∧
    (st 0 1 (fun x => { x with front := { x.front with loops := List.replicate 5 level } }) id).me.front.loops.length < 6 ∧
    ¬ (st 0 1 (fun x => { x with front := { x.front with loops := List.replicate 6 level } }) id).me.front.loops.length < 6 ∧
    (at0 1 []).me.front.loops = [] ∧ level.last ≠ 39 ∧ (level.index + 1).toNat < level.count.toNat ∧
    ¬ (({ level with index := 2 } : Loop).index + 1).toNat < level.count.toNat := by decide

/-- ModeResults: a coherent other half, and one that is not, with and without loops. -/
theorem witness_ModeResults_swap : Heads (at0 1 []) ∧ (at0 1 []).me.spr.coherent.getLsbD 1 = true ∧
    (at0 1 []).me.front.loops = [] ∧
    (st 0 1 (fun x => { x with spr := { x.spr with coherent := 1 } }) id).me.spr.coherent.getLsbD 1 = false ∧
    (st 0 1 (fun x => { x with front := { x.front with loops := [level] } }) id).me.front.loops ≠ [] := by
  simp only [Heads]; decide

/-- ModeResults: image loads done and not. -/
theorem witness_ModeResults_fencei : Heads (at0 1 []) ∧ (at0 1 []).imloadsDone (at0 1 []).u (at0 1 []).cur.op.seq true = true ∧
    (let s := st 0 1 id fun s => { s with xfers := [{ s.xfer 0 0 (.imload true) [⟨own 0, 0, 0⟩] with seq := 3 }] }
     Heads s ∧ s.imloadsDone s.u s.cur.op.seq true = false) := by
  simp only [Heads]; decide

/-- Core 0 with WAITT's hold on time 9. -/
def held9 : State := st 0 1 (fun x => { x with slots := [(1, { Slot.idle with queue := [op5], hold := .wait 9 })] }) id

/-- ModeResults: a time that has come, one that has not, and a wait in either case. -/
theorem witness_ModeResults_waitt : Heads (at0 1 []) ∧ ((at0 1 []).me.slot 1).hold = .none ∧
    ((at0 1 []).rs 1).toNat ≤ ((at0 1 []).timeOf 0).toNat ∧ ((at0 1 []).timeOf 0).toNat < ((at0 1 [(1, 9)]).rs 1).toNat ∧
    (at0 1 [(1, 9)]).cur.slot = 1 ∧ Heads held9 ∧ (held9.me.slot 1).hold = .wait 9 ∧ (held9.timeOf 0).toNat < 9 ∧
    9 ≤ (({ held9 with time := 9 } : State).timeOf 0).toNat := by
  refine ⟨rfl, rfl, Nat.zero_le _, ?_, rfl, rfl, rfl, ?_, ?_⟩
  · rcases timeOf_near (at0 1 []) 0 with h | h <;> rw [h] <;> decide
  · rcases timeOf_near held9 0 with h | h <;> rw [h] <;> decide
  · rcases timeOf_near { held9 with time := 9 } 0 with h | h <;> rw [h] <;> decide

/-- ModeResults: FRAME with every older bundle issued, and register marks that allow an RFMODE. -/
theorem witness_ModeResults_frame : Heads (at0 1 []) ∧
    (∀ k ∈ slotsOf (at0 1 []).u, (at0 1 []).cur.op.seq ≤ (st 0 1 (fun x => { x with disp := { x.disp with seq := 6 } }) id).me.headSeq k) ∧
    (∀ k ∈ (at0 1 []).me.disp.marks, k.1 ≤ (at0 1 []).cur.op.seq → False) := by
  simp only [Heads]; decide

/-- RetireEnds: a controller, and a task on one core, with everything issued and drained. -/
theorem witness_RetireEnds :
    (let s := st 384 1 (fun x => { x with disp := { x.disp with seq := 6 } }) id
     UnitsOk s ∧ MemoryOk s ∧ (∀ k ∈ slotsOf s.u, k ≠ 1 → s.cur.op.seq < s.me.headSeq k) ∧ s.drained s.u = true ∧
       isCtl s.u = true) ∧
    (let s := st 0 1 (fun x => { x with task := some task0, disp := { x.disp with seq := 6 } })
       fun s => { s with groups := [group0], glob := { s.glob with running := some 0 } }
     UnitsOk s ∧ MemoryOk s ∧ (∀ k ∈ slotsOf s.u, k ≠ 1 → s.cur.op.seq < s.me.headSeq k) ∧ s.drained s.u = true ∧
       isCtl s.u = false ∧ s.me.task = some task0 ∧ task0.cluster = false ∧ s.groupOf task0 = some group0 ∧ group0 ∈ s.groups ∧
       s.retireRoom task0 = true ∧ s.gword group0 24 + 1 ≠ s.gword group0 32) := by
  simp only [UnitsOk, MemoryOk]; decide

/-- SpecialRegisters: closed to user mode and open to a supervisor, a pending FFLAGS read, a PREQ of a core of the cluster
and of another. -/
theorem witness_SpecialRegisters : (at0 1 []).me.spr.sup = false ∧ (at0 1 []).isSup 0 = false ∧
    (st 0 1 (fun x => { x with spr := { x.spr with sup := true } }) id).me.spr.sup = true ∧
    (at0 1 []).earlyFlags 0 5 = none ∧ ((3 : BitVec 64).toNat < 384 ∧ (3 : BitVec 64).toNat / 4 = clusterOf 384) ∧
    ¬ ((4 : BitVec 64).toNat < 384 ∧ (4 : BitVec 64).toNat / 4 = clusterOf 384) := by decide

/-- TrapRaises: an operation of slot 1 whose guard is false. -/
theorem witness_TrapRaises :
    let o : QOp := { op5 with word := 0x38000011, guard := 1 }
    let s := st 0 1 (fun x => { x with slots := [(1, { Slot.idle with queue := [o] })] }) id
    UnitsOk s ∧ ((s.unit 0).slot 1).queue = [o] ∧ decodeSlot .sq o.word = .ok (some (.trap 17)) ∧
      (s.unit 0).guard o.guard = false ∧ s.earlyGuard 0 o = none ∧ s.blocked 0 1 o = none ∧ s.stampMet 0 o = true ∧ (s.unit 0).disp.buns = [] := by
  simp only [UnitsOk]; decide

/-- SysretReturns: user mode, a wait, a bad resume point and a good one. -/
theorem witness_SysretReturns : (at0 1 []).me.spr.sup = false ∧ (at0 1 []).isSup 0 = false ∧
    (let s := st 0 1 (fun x => { x with spr := { x.spr with sup := true, epc := 0 }, disp := { x.disp with seq := 6 } }) id
     s.me.spr.sup = true ∧ s.earlierIssued s.u s.cur.op.seq = true ∧ s.landed s.u s.cur.op.seq = true ∧
       (s.me.spr.epc.extractLsb' 48 3).toNat = 0) ∧
    (let s := st 0 1 (fun x => { x with spr := { x.spr with sup := true, epc := 0x0001000000000010 }, disp := { x.disp with seq := 6 } }) id
     s.earlierIssued s.u s.cur.op.seq = true ∧ s.landed s.u s.cur.op.seq = true ∧ (s.me.spr.epc.extractLsb' 0 5).toNat = 16 ∧
       (s.me.spr.epc.extractLsb' 48 3).toNat = 1 ∧ (s.me.spr.epc.extractLsb' 51 13).toNat = 0) ∧
    (let s := st 0 1 (fun x => { x with spr := { x.spr with sup := true }, disp := { x.disp with seq := 6 } })
       fun s => { s with landings := [⟨0, 3, 24, 1, 0, 9, .rm 1⟩] }
     ¬ (s.earlierIssued s.u s.cur.op.seq = true ∧ s.landed s.u s.cur.op.seq = true)) := by decide

/-- Core 0 at the end of a cluster-shape task's part: cores 1 and 2 have retired, core 3 as given. -/
def quarter (y : Machine.Unit) (m : List Host.Cell) : State :=
  let t : Task := { task0 with cluster := true }
  let gone : Machine.Unit := { Unit.idle with task := some { t with retired := true } }
  let s := st 0 1 (fun x => { x with task := some t, disp := { x.disp with seq := 6 } }) id
  { s with units := s.units ++ [(1, gone), (2, gone), (3, y)], mem := m, ctxs := [(0, ctx0)],
           groups := [{ group0 with cluster := true, doneAddr := 0x1000000000003000 }], glob := { s.glob with running := some 0 } }

/-- RetireEnds: a cluster's task whose fourth core goes on, has saved and has retired; a group that the last task completes, its
completion word in the vault, no fault and a fault before. -/
theorem witness_RetireEnds_cluster :
    let t : Task := { task0 with cluster := true }
    let on (y : Machine.Unit) := quarter { y with task := some t } []
    taskUnits 0 t = [0, 1, 2, 3] ∧ (on { Unit.idle with on := true }).me.task = some t ∧ ((on Unit.idle).unit 3).disp.closed = false ∧
      (((on Unit.idle).unit 3).task.map (·.retired)) = some false ∧
      ((on { Unit.idle with disp := { Disp.reset with closed := true } }).unit 3).disp.closed = true ∧
      (on Unit.idle).drained 0 = true ∧
      (let s := quarter { Unit.idle with task := some { t with retired := true } } [(vaultPlace 0 4096 + 4, 1), (vaultPlace 0 4096 + 32, 1)]
       let g : Group := { group0 with cluster := true, doneAddr := 0x1000000000003000 }
       UnitsOk s ∧ MemoryOk s ∧ (∀ v ∈ taskUnits 0 t, v ≠ 0 → (((s.unit v).task.map (·.retired)) = some true)) ∧ s.groupOf t = some g ∧
         s.retireRoom t = true ∧ s.gword g 24 + 1 = s.gword g 32 ∧ g.growing = 0 ∧ (s.unit g.ctl).owed = [] ∧ s.gword g 4 = 1 ∧
         g.doneAddr.toNat % 8 = 0 ∧
         s.reach 0x1FF (dieOf g.ctl) g.ctx pSL .wr false g.doneAddr 8 = .ok ⟨[(vaultPlace 0 0x3000, 8)], []⟩) := by
  simp only [UnitsOk, MemoryOk]; decide +kernel
/-! ## Witnesses: the vector engine -/

/-- `n` runs of `c` elements, the first with B. -/
def many (n c : Nat) : List Run := (List.range n).map fun k => ⟨BitVec.ofNat 32 k, c, decide (k = 0)⟩

/-- AlignmentRule: operands of one length with cuts and null runs, and a third of another length. -/
theorem witness_AlignmentRule : (∀ x ∈ [[(⟨7, 1, true⟩ : Run), nullRun, ⟨8, 2, true⟩]], runsLen x = runsLen (many 3 1)) ∧
    runsLen (many 2 1) ≠ runsLen (many 3 1) := by decide

/-- VectorFp, VectorUnary, VectorInt, VectorMasks (by VecEach): lengths that agree, lengths that do not, and a result of
4,097 runs. -/
theorem witness_VecEach :
    (let s := vec 2 (many 2 3) (many 3 2) (many 1 6) []
     mismatch [s.me.vreg 1, s.me.vreg 2, s.me.mreg 1] = none ∧
        (alignRuns [s.me.vreg 1, s.me.vreg 2, s.me.mreg 1]).length ≤ 4096) ∧
    (let s := vec 2 (many 2 3) (many 3 3) [] []
     mismatch [s.me.vreg 1, s.me.vreg 2] = some (6, 9)) := by decide

theorem witness_VecEach_overflow : mismatch [List.replicate 4097 nullRun] = none ∧
    4096 < (alignRuns [List.replicate 4097 nullRun]).length := by decide +kernel

/-- VectorStructure: VLEN's queries, VSPLAT, VIOTA, VIOTA.SEG and VSLICE at the ends of their ranges. -/
theorem witness_VectorStructure_ranges : (2 : BitVec 2) ≠ 3 ∧ (16777215 : BitVec 64).toNat < 2 ^ 24 ∧
    2 ^ 24 ≤ (16777216 : BitVec 64).toNat ∧ (4096 : BitVec 64).toNat ≤ 4096 ∧ 4096 < (4097 : BitVec 64).toNat ∧
    (let s := vec 2 (many 2 3) [] [] [(3, 0x0000000200000004), (4, 0x0000000300000004)]
     runsLen (s.me.vreg 1) + (s.me.vreg 1).countP (·.cnt = 0) ≤ 4096 ∧
       (s.rs 3).toNat % 2 ^ 32 + (s.rs 3).toNat / 2 ^ 32 ≤ runsLen (s.me.vreg 1) ∧
       runsLen (s.me.vreg 1) < (s.rs 4).toNat % 2 ^ 32 + (s.rs 4).toNat / 2 ^ 32) ∧
    (let s := vec 2 [⟨9, 4097, true⟩] [] [] []
     4096 < runsLen (s.me.vreg 1) + (s.me.vreg 1).countP (·.cnt = 0)) := by decide

/-- VectorStructure: VCAT at the greatest length and run count, and past each. -/
theorem witness_VectorStructure_vcat :
    (let s := vec 2 [⟨9, 8388608, true⟩] [⟨9, 8388607, true⟩] [] []
     (s.me.vreg 1 ++ s.me.vreg 2).length ≤ 4096 ∧ runsLen (s.me.vreg 1) + runsLen (s.me.vreg 2) < 2 ^ 24) ∧
    (let s := vec 2 [⟨9, 8388608, true⟩] [⟨9, 8388608, true⟩] [] []
     (s.me.vreg 1 ++ s.me.vreg 2).length ≤ 4096 ∧ 2 ^ 24 ≤ runsLen (s.me.vreg 1) + runsLen (s.me.vreg 2)) ∧
    4096 < (many 4096 1 ++ many 1 1).length := by
  refine ⟨by decide, by decide, by decide +kernel⟩

/-- VectorStructure: VPICK in range and past it, VSEGSET and VSEGCLR on equal and unequal lengths, VSPREAD likewise. -/
theorem witness_VectorStructure_pairs :
    (let s := vec 2 (many 2 3) [⟨5, 1, true⟩, nullRun] [⟨1, 6, true⟩] []
     (∀ r ∈ s.me.vreg 2, r.cnt ≠ 0 → r.val.toNat < runsLen (s.me.vreg 1)) ∧ runsLen (s.me.vreg 1) = runsLen (s.me.mreg 1)) ∧
    (let s := vec 2 (many 2 3) [⟨5, 1, true⟩, ⟨6, 1, false⟩] [⟨1, 5, true⟩] []
     s.me.vreg 2 = [⟨5, 1, true⟩] ++ ⟨6, 1, false⟩ :: [] ∧ (∀ o ∈ [(⟨5, 1, true⟩ : Run)], o.cnt ≠ 0 → o.val.toNat < runsLen (s.me.vreg 1)) ∧
        (1 : Nat) ≠ 0 ∧ runsLen (s.me.vreg 1) ≤ (6 : Word).toNat ∧ runsLen (s.me.vreg 1) ≠ runsLen (s.me.mreg 1) ∧
        (segSet (marksIn (s.me.mreg 1)) (s.me.vreg 1)).length ≤ 4096) ∧
    (let s := vec 2 [⟨5, 1, true⟩, nullRun] [⟨7, 4, true⟩, ⟨8, 1, true⟩] [] []
     (segmentsOf (s.me.vreg 2)).length = (segValues 0 (s.me.vreg 1)).length) ∧
    (let s := vec 2 [⟨5, 1, true⟩] [⟨7, 4, true⟩, ⟨8, 1, true⟩] [] []
     (segmentsOf (s.me.vreg 2)).length ≠ (segValues 0 (s.me.vreg 1)).length) := by decide

/-- VectorReductions: no mask, a mask of the length, one of another; scans of 4,096 and 4,097 runs; segments that match and
do not. -/
theorem witness_VectorReductions :
    (let s := vec 2 (many 2 3) [] [⟨1, 6, true⟩] []
     ((0 : BitVec 1) = 1 → runsLen (s.me.vreg 1) = runsLen (s.me.mreg 1)) ∧ runsLen (s.me.vreg 1) = runsLen (s.me.mreg 1)) ∧
    (let s := vec 2 (many 2 3) [] [⟨1, 5, true⟩] []
     ¬ ((1 : BitVec 1) = 1 → runsLen (s.me.vreg 1) = runsLen (s.me.mreg 1))) ∧
    (let s := vec 2 [⟨0x3F800000, 4096, true⟩] [] [] []
     ((0 : BitVec 1) = 1 → runsLen (s.me.vreg 1) = runsLen (s.me.mreg 1)) ∧ scanCount (maskedPieces (s.me.vreg 1) none) ≤ 4096) ∧
    (let s := vec 2 [⟨0x3F800000, 4097, true⟩] [] [] []
     4096 < scanCount (maskedPieces (s.me.vreg 1) none)) ∧
    (let s := vec 2 (many 2 3) [⟨3, 1, true⟩] [] []
     (segmentsBy (·.b) (alignRuns [s.me.vreg 1])).length = (segValues 0 (s.me.vreg 2)).length) ∧
    (let s := vec 2 (many 2 3) [⟨3, 1, true⟩, nullRun] [] []
     (segmentsBy (·.b) (alignRuns [s.me.vreg 1])).length ≠ (segValues 0 (s.me.vreg 2)).length) := by decide

/-! ## Witnesses: memory -/

/-- A load of `n` bytes at an address: it is checked, its tiles are full, its budget is not passed. -/
def loads (s : State) (size : Nat) (rs : List (BitVec 64 × Nat)) : Bool :=
  match s.access pSL .rd false size rs with
  | .ok r => (tilesOfSpans r.spans).all s.isFull &&
      ((s.tlbAdd (dieOf s.u) r.tlb).overBudget (dieOf s.u) (coreIn s.u) (useOf r.spans)).isNone
  | .error _ => false

/-- ScalarAccesses, and the other loads and stores: the last doubleword of the own scratchpad, one past it, a misaligned one,
a tile that is empty, a vault access under the default budget. -/
theorem witness_ScalarAccesses : loads (in0 6 [] id) 8 [(own 0x7FFFF8, 8)] = true ∧
    (∃ f, (in0 6 [] id).access pSL .rd false 8 [(own 0x7FFFFC, 8)] = .error f ∧ f.code = 0x19 ∧ f.sub = 3) ∧
    (∃ f, (in0 6 [] id).access pSL .rd false 8 [(own 4, 8)] = .error f ∧ f.code = 0x1A) ∧
    loads (in0 6 [] fun s => { s with tiles := [(0, (false, 1))] }) 8 [(own 8, 8)] = false ∧
    loads (in0 6 [] id) 8 [(vlt 0xFFFF8, 8)] = true ∧
    (match (in0 6 [] id).access pSL .wr false 8 [(vlt 8, 8)] with | .ok r => r.spans == [(vaultPlace 0 8, 8)] | _ => false) = true := by
  refine ⟨by decide, ⟨_, rfl, by decide⟩, ⟨_, rfl, by decide⟩, by decide, by decide, by decide⟩

/-- Within holds of an access under a budget that it keeps, and fails under one that it passes. -/
theorem witness_Within : Within (in0 6 [] id) ⟨[(vaultPlace 0 8, 8)], []⟩ ∧
    ¬ Within (in0 6 [] fun s => { s with dies := [(0, { Die.reset with budgets := [(0, ⟨false, 0, 0⟩)] })] })
      ⟨[(vaultPlace 0 8, 8)], []⟩ ∧ Within (st 384 6 id id) ⟨[], []⟩ := by
  simp only [Within]; decide

/-- VectorAccesses: formats 0 and 9, element counts at and past 16,384 and 2^24, run counts at and past 4,096. -/
theorem witness_VectorAccesses : (9 : BitVec 4) ≤ 9 ∧ ((7 : BitVec 4) = 7 ∧ 16384 < (16385 : BitVec 64).toNat) ∧
    ¬ (2 ^ 24 ≤ (16777215 : BitVec 64).toNat ∨ False) ∧ 2 ^ 24 ≤ (16777216 : BitVec 64).toNat ∧
    (4096 : BitVec 64).toNat ≤ 4096 ∧ 4096 < (4097 : BitVec 64).toNat ∧
    loads (in0 6 [] id) 4 [(own 0, packedBytes 0 3 false)] = true := by decide

/-- A shape register of rank 1, one FP32 element a row, two sequences of 1 and 2 rows, rows 4 bytes apart in the scratchpad. -/
def shape1 : Shape :=
  ⟨[9, 0, 0, 0, 1, 0, 0, 0, 2, 0, 0, 0] ++ List.replicate 20 0 ++ [4, 0, 0, 0, 0, 0, 0, 0] ++ leBytes 8 (own 0).toNat ++ List.replicate 16 0,
    own 0x1000, 0, 3, [0, 1, 3]⟩

/-- Core 0 with that shape register in H1 and a vector register. -/
def shp (k : Nat) (a : List Run) (l : List (Nat × BitVec 64)) (g : State → State) : State :=
  st 0 k (fun x => { x with s := l, eng := { x.eng with v := [(1, a)], h := [(1, shape1)] } }) fun s =>
    g { s with ctxs := [(0, ctx0)], glob := { s.glob with running := some 0 } }

/-- RaggedAccesses: an empty register, a selection inside the window and one outside, a store that fits and one that does
not, ranges that pass their checks and ranges that do not. -/
theorem witness_RaggedAccesses : ((shp 6 [] [] id).me.shape 0 = Shape.empty ∧ Shape.empty.rank = 0 ∧ shape1.rank ≠ 0 ∧
    shape1.fmt ≠ 10 ∧ shape1.select 1 false false 0 2 = .ok [(0, 1), (1, 2)] ∧
    shape1.select 1 false false 0 0 = .ok []) ∧
    (∃ f, shape1.select 1 false false 1 2 = .error f) ∧
    shape1.storeFault 1 false false 0 2 [⟨5, 1, true⟩, ⟨6, 2, true⟩] = none ∧
    (∃ f, shape1.storeFault 1 false false 0 2 [⟨5, 1, true⟩] = some f) ∧
    (([(0, 1), (1, 2)] : List (Nat × Nat)).map fun q => q.2 * shape1.elems).sum < 2 ^ 24 ∧
    (shp 6 [] [] id).stage2 .rd (shape1.ranges (packedBytes 0 1 false) [(0, 1), (1, 2)]) shape1.rowAlign shape1.misaligned = none ∧
    (∃ f, (shp 6 [] [] id).stage2 .rd [(own 0x7FFFFE, 4)] shape1.rowAlign shape1.misaligned = some f) ∧
    2 ^ 24 ≤ (([(0, 16777216)] : List (Nat × Nat)).map fun q => q.2 * shape1.elems).sum := by
  exact ⟨by decide, ⟨_, rfl⟩, by decide, ⟨_, rfl⟩, by decide, by decide, ⟨_, rfl⟩, by decide⟩

/-- ShapeRegisters: a record that is read, a register that is empty, a query that answers and one outside the window. -/
theorem witness_ShapeRegisters : loads (shp 6 [] [] id) 64 [(own 0x1000, 64)] = true ∧ ((shp 6 [] [] id).me.shape 0).rank = 0 ∧
    ((shp 6 [] [] id).me.shape 1).rank ≠ 0 ∧ shape1.query 1 4 2 = .ok 3 ∧ (∃ f, shape1.query 1 4 3 = .error f) := by
  refine ⟨by decide, by decide, by decide, by decide, ⟨_, rfl⟩⟩

/-- TileOperations: full tiles and an empty one, scale bytes of the own scratchpad, of the vault and behind a direct store, rows
of the own accumulators up to the last. -/
theorem witness_TileOperations : ((at0 6 []).tileReach 0 (own 0) .rd).toBool = true ∧
    (∃ r, (at0 6 []).tileReach 0 (own 0) .rd = .ok r ∧ Full (at0 6 []) r) ∧
    (∃ r, (at0 6 []).tileReach 0 (own 0) .rd = .ok r ∧ ¬ Full { at0 6 [] with tiles := [(0, (false, 1))] } r) ∧
    (∃ f, (at0 6 []).tileReach 0 (vlt 0) .wr = .error f) ∧
    (∃ r, (at0 6 []).access pSL .rd false 512 [(own 512, 512)] = .ok r ∧ (∀ p ∈ r.spans, spaceOf p.1 = 2 ∧ isDirect 0 p.1 = true) ∧
      (∀ g ∈ (at0 6 []).flights, g.unit ≠ 0) ∧ Full (at0 6 []) r ∧ Within (at0 6 []) r) ∧
    (∃ r, (in0 6 [] id).access pSL .rd false 512 [(vlt 512, 512)] = .ok r ∧ ¬ ∀ p ∈ r.spans, spaceOf p.1 = 2 ∧ isDirect 0 p.1 = true) ∧
    (let f : Flight := { fly 1 (.store [1]) with writes := true, spans := [(scratchPlace 0 512, 1)] }
     f.unit = 0 ∧ f.open = true ∧ f.direct = true ∧ f.writes = true ∧ ¬ (at0 6 []).cur.op.seq ≤ f.seq) := by
  refine ⟨by decide, ⟨_, rfl, by simp only [Full]; decide⟩, ⟨_, rfl, by simp only [Full]; decide⟩, ⟨_, rfl⟩,
    ⟨_, rfl, by decide, by decide, by simp only [Full]; decide, by simp only [Within]; decide⟩, ⟨_, rfl, by decide⟩, by decide⟩

/-- TileOperations: STAR of the last four rows of bank 1. -/
theorem witness_TileOperations_star :
    let src : BitVec 64 := 0x400000001001F800
    let s := at0 6 [(1, src), (2, own 0)]
    s.glob.earlyTrap = false ∧ (s.rs 1).toNat / 2 ^ 60 = 4 ∧ holderOf s.u true (s.rs 1).toNat = .ok s.u ∧
      (s.rs 1).toNat / 2 ^ 9 % 128 + 4 ≤ 128 ∧ ∃ r w, s.access pSL .rd true 512 [(s.rs 1, 512 * 4)] = .ok r ∧
        s.access pSL .wr false 2 [(s.rs 2, 4 * 128 * 2)] = .ok w ∧ Within s w ∧
        r.spans = [(accPlace s.u (1 * 65536 + 124 * 512), 512 * 4)] := by
  refine ⟨by decide, by decide, by decide, by decide, _, _, rfl, rfl, by simp only [Within]; decide, by decide⟩

/-- Fences: nothing to wait for, an access that the fence orders, and a transfer that DRAIN and XFENCE wait for. -/
theorem witness_Fences : (∀ f ∈ (at0 6 []).flights, (at0 6 []).fenced 0 5 1 [pSL, pAT] f = false) ∧
    (at0 6 []).fenced 0 5 4 [pSL, pAT] { fly 1 (.store [1]) with writes := true, spans := [(scratchPlace 0 512, 1)] } = true ∧
    (at0 6 []).pathDone 0 = true ∧
    ({ at0 6 [] with flights := [{ fly 1 (.store [1]) with writes := true, spans := [(scratchPlace 0 512, 1)] }] } : State).pathDone 0 = false ∧
    (st 0 6 (fun x => { x with slots := [(6, { Slot.idle with queue := [op5], hold := .wait 3 })] }) id).me.slot 6 ≠ Slot.idle ∧
    (let x : Xfer := { (at0 6 []).xfer 1 0 .copy [⟨own 0, own 64, 8⟩] with seq := 3 }
     x.unit = 0 ∧ x.task = (at0 6 []).me.task ∧ x.seq < 5 ∧ (at0 6 []).xferOpen x = true) := by decide

/-- TileOperations: a tile whose bit the core's own CLRF is about to write; an MSCL of the own scratchpad aligned and misaligned,
of a vault misaligned and beyond the window; an access of the own scratchpad that would overtake a store to the home vault. -/
theorem witness_TileOperations_holds :
    (let w := fly 1 (.bits [0] false)
     let s : State := { at0 6 [] with flights := [w] }
     w ∈ s.flights ∧ w.unit = s.u ∧ 0 ∈ w.what.bitTiles ∧ (∃ r, s.tileReach 0 (own 0) .rd = .ok r ∧ 0 ∈ tilesOfSpans r.spans)) ∧
    (ownScratch 0 (own 512).toNat = true ∧ (own 512).toNat % 512 = 0 ∧ (own 8).toNat % 512 ≠ 0 ∧ ownScratch 0 (vlt 8).toNat = false ∧
      ((in0 6 [] id).reach 0 0 0 pSL .rd false (own 512) 512).toBool = true ∧ ((in0 6 [] id).reach 0 0 0 pSL .rd false (vlt 8) 512).toBool = true) ∧
    (∃ e, (in0 6 [] id).reach 0 0 0 pSL .rd false (vlt 0x100000) 512 = .error e ∧ e.code = 0x19 ∧ 4 ≤ e.sub.toNat) ∧
    (∃ e, (in0 6 [] id).reach 0 0 0 pSL .rd false 0x0100000000000000 512 = .error e ∧ e.code.toNat < 0x19) ∧
    (let s : State := { at0 6 [] with flights := [{ fly 1 (.store [1]) with due := 100, writes := true, spans := [(vaultPlace 0 512, 1)] }] }
     s.directHeld [(scratchPlace 0 512, 64)] = true ∧ s.readHeld [(scratchPlace 0 512, 512)] = true) := by
  refine ⟨⟨by decide, by decide, by decide, _, rfl, by decide⟩, by decide, ⟨_, rfl, by decide⟩, ⟨_, rfl, by decide⟩, by decide⟩
/-! ## Witnesses: the sync engine -/

/-- The task and group of core 0, a barrier group's task when `co` holds. -/
def tasked (k : Nat) (l : List (Nat × BitVec 64)) (co : Bool) : State :=
  st 0 k (fun x => { x with s := l, task := some task0 }) fun s => { s with
    ctxs := [(0, ctx0)], glob := { s.glob with running := some 0 }, groups := [{ group0 with cores := co }] }

/-- SyncRequests: requests that pass, counts at both ends, requests that fault, a barrier's member and no member, a budget. -/
theorem witness_SyncRequests : asks (in0 6 [] id) (.atom 0 0 false 1) (vlt 64) = true ∧
    asks (in0 6 [] id) (.acas 1 0 1) (own 64) = true ∧ asks (in0 6 [] id) .pop (vlt 64) = true ∧
    asks (in0 6 [] id) .claim (vlt 0) = true ∧ asks (in0 6 [] id) (.roopen 3 4096 false) (vlt 64) = true ∧
    asks (in0 6 [] id) (.atom 0 0 false 1) (vlt 66) = false ∧
    (1 ≤ (1 : Nat) ∧ (4096 : Nat) ≤ 4096) ∧ ¬ (1 ≤ (0 : Nat) ∧ (0 : Nat) ≤ 4096) ∧ ¬ (4097 : Nat) ≤ 4096 ∧
    (tasked 6 [] true).barrierFaults (vlt 64) = [] ∧ (tasked 6 [] false).barrierFaults (vlt 64) ≠ [] ∧
    Within (in0 6 [] id) ((in0 6 [] id).tellReach [(.rsf 1, vlt 64), (.rsf 1, vlt 68)]) ∧
    Within (in0 6 [] id) ((in0 6 [] id).tellReach [(.rsf 1, vlt 66)]) := by
  simp only [Within]; decide

/-- SyncWaits: BFIN and BFIN.V of 1 and 4,096 objects, of none and of one too many; TGROW's counts, with a task and without. -/
theorem witness_SyncWaits : ((List.range 1).map (fun j => (in0 6 [] id).reqReach 0 ((in0 6 [] id).ctxOf 0) true (.bfin true 1 [] 0)
        (vlt 64 + BitVec.ofNat 64 (32 * j))) = [(⟨[(vaultPlace 0 64, 32)], []⟩ : Reach)].map .ok ∧
      Within (in0 6 [] id) ⟨[(vaultPlace 0 64, 32)], []⟩) ∧
    (1 ≤ (4096 : BitVec 64).toNat ∧ (4096 : BitVec 64).toNat ≤ 4096) ∧ (0 : BitVec 64).toNat = 0 ∧ 4096 < (4097 : BitVec 64).toNat ∧
    ((2147483648 : BitVec 64).toNat ≤ 2 ^ 31 ∧ 1 ≤ (2147483648 : BitVec 64).toNat) ∧ 2 ^ 31 < (2147483649 : BitVec 64).toNat ∧
    (in0 6 [] id).me.task = none ∧ (tasked 6 [] false).me.task = some task0 ∧
    (tasked 6 [] false).groupOf task0 = some group0 := by
  simp only [Within]; decide

/-- SyncWaits: a word to watch, a wait under way and one that has ended. -/
theorem witness_SyncWaits_watch : (∃ q, (tasked 6 [] true).reach 0 0 ((tasked 6 [] true).ctxOf 0) pAT .rd false (vlt 64) 64 = .ok q ∧
      (tasked 6 [] true).barrierFaults (vlt 64) = [] ∧ (∀ y ∈ q.spans, (spaceOf y.1 == 1 || spaceOf y.1 == 2) = true) ∧
      onePort q.spans = true ∧ (vlt 64).toNat % 64 = 0 ∧ Within (tasked 6 [] true) q) ∧
    ((tasked 6 [] true).me.slot 6).hold = .none ∧
    ((st 0 6 (fun x => { x with slots := [(6, { Slot.idle with queue := [op5], hold := .wait 3 })] }) id).me.slot 6).hold = .wait 3 ∧
    ((st 0 6 (fun x => { x with slots := [(6, { Slot.idle with queue := [op5], hold := .done 0 })] }) id).me.slot 6).hold = .done 0 := by
  refine ⟨⟨_, rfl, by decide, by decide, by decide, by decide, by simp only [Within]; decide⟩, by decide, by decide, by decide⟩

/-- ControllerOperations: an event and none, a record in the vault and elsewhere, an earlier access, vectors that go out, are
masked and are not enabled. -/
theorem witness_ControllerOperations : Heads (st 384 6 (fun x => { x with events := [⟨1, 2⟩] }) id) ∧
    (st 384 6 (fun x => { x with events := [⟨1, 2⟩] }) id).me.events = ⟨1, 2⟩ :: [] ∧ (st 384 6 id id).me.events = [] ∧
    (vlt 4096).toNat / 2 ^ 60 = 1 ∧ (own 4096).toNat / 2 ^ 60 ≠ 1 ∧
    (∀ f ∈ (st 384 6 id id).flights, (st 384 6 id id).fenced 384 5 3 [pSL, pAT] f = false) ∧
    (st 384 6 id id).fenced 384 5 3 [pSL, pAT] { fly 1 (.store [1]) with unit := 384, writes := true, spans := [(vaultPlace 0 8, 1)] } = true ∧
    (st 384 6 id id).xfers = [] ∧ (st 384 6 id id).glob.msixEnable = false ∧
    (st 384 6 id fun s => { s with glob := { s.glob with msixEnable := true, msix := [(0, 5)] } }).glob.msixEnable = true ∧
    ((st 384 6 id fun s => { s with glob := { s.glob with msixEnable := true, msix := [(0, 5)] } }).glob.vector 0).getLsbD 96 = false ∧
    ((st 384 6 id id).glob.vector 2047).getLsbD 96 = true := by
  simp only [Heads]; decide

/-- PortOperations: an atomic with a register for its answer and one with none, at the last word of the window. -/
theorem witness_PortOperations_atomics : AtPort (port (.atom 0 0 false 1) (vlt 0xFFFFC) [.s 1] (vaultPlace 0 0xFFFFC) 4 [])
      { fly 1 (.req (.atom 0 0 false 1) (vlt 0xFFFFC) [.s 1]) with
        path := pAT, reads := true, writes := true, spans := [(vaultPlace 0 0xFFFFC, 4)] }
      (.atom 0 0 false 1) (vlt 0xFFFFC) [.s 1] (vaultPlace 0 0xFFFFC) ∧
    AtPort (port (.atom 6 1 true 1) (vlt 64) [] (vaultPlace 0 64) 8 [])
      { fly 1 (.req (.atom 6 1 true 1) (vlt 64) []) with path := pAT, reads := true, writes := true, spans := [(vaultPlace 0 64, 8)] }
      (.atom 6 1 true 1) (vlt 64) [] (vaultPlace 0 64) ∧ MemoryOk (port (.atom 6 1 true 1) (vlt 64) [] (vaultPlace 0 64) 8 []) := by
  simp only [AtPort, MemoryOk]; decide

/-- A deque of capacity 2 at offset 64 of the vault with `n` entries. -/
def dq (n : Byte) : List Host.Cell := (if n = 0 then [] else [(vaultPlace 0 64 + 8, n)]) ++ [(vaultPlace 0 64 + 16, 1)]

/-- PortOperations: deques that are empty, and full, at capacity 2. -/
theorem witness_PortOperations_deques : [0, 1, 2].all (fun n =>
    let s := port (.push 9) (vlt 64) [.s 1] (vaultPlace 0 64) 64 (dq n)
    let p := vaultPlace 0 64
    Memory.wf s.mem && (List.range 64).all (fun k => k < 17 || rdByte s.mem (p + k) == 0) && (rdByte s.mem (p + 16)).toNat == 1 &&
      (rd64 s.mem (p + 8) - rd64 s.mem p).toNat == n.toNat && decide (n.toNat ≤ 2 ^ 1) && decide (p % 2 ^ 25 + 64 + 8 * 2 ^ 1 ≤ 2 ^ 25) &&
      ((s.flights[s.arg.n]?).map s.mayPerform == some true) && (s.flights.headD (fly 0 (.store []))).spans.headD (0, 0) == (p, 64)) = true := by
  decide

/-- PortOperations: a barrier of size 2 before its first and its last arrival. -/
theorem witness_PortOperations_barrier : [0, 1].all (fun (n : Byte) =>
    let p := vaultPlace 0 64
    let s := port .bara (vlt 64) [.s 1] p 64 ((p, 2) :: if n = 0 then [] else [(p + 4, n)])
    Memory.wf s.mem && (List.range 64).all (fun k => k < 12 || rdByte s.mem (p + k) == 0) &&
      decide (rd32 s.mem (p + 4) < rd32 s.mem p) && ((s.flights[s.arg.n]?).map s.mayPerform == some true)) = true := by decide

/-- The flight of `port` is at its port. -/
def stands (s : State) : Bool :=
  match s.flights[s.arg.n]? with
  | some f => s.mayPerform f && !f.parked && f.bad.isNone && (f.spans.headD (0, 0)).1 == vaultPlace 0 64
  | none => false

/-- PortOperations: FP32 atomics, reduce-stores and BN3 objects at their port, with BFIN the first of its objects. -/
theorem witness_PortOperations_reductions :
    [Req.atom 0 2 false 5, .atom 4 2 false 5, .atom 5 2 false 5, .atom 6 2 true 5, .rsf 5, .rsb 5, .binit 3, .bnorm, .bfin false 1 [] 0].all (fun r =>
      stands (port r (vlt 64) [] (vaultPlace 0 64) 32 [])) = true ∧
    (port (.bfin false 1 [] 0) (vlt 64) [.s 1] (vaultPlace 0 64) 32 []).arg.m = 0 ∧
    Tab.wf 0 ((port .bnorm (vlt 64) [] (vaultPlace 0 64) 32 []).ctx 0).axr = true := by decide

/-- A state with an ordered window 3 that expects `n` deposits. -/
def windowed (r : Req) (n : Nat) (opened : Bool) : State :=
  let s := port r (vlt 64) [.s 1] (vaultPlace 0 64) 4 []
  { s with ctxs := [(0, { ctx0 with wins := [(3, some ⟨vaultPlace 0 64, opened, n, []⟩)] })] }

/-- PortOperations: a deposit that an open window of two takes, one that completes a window of one, one with no window; openings of
a free identifier, of one in use, with room and past 4,096; closings of an open window and of none, one under way. -/
theorem witness_PortOperations_windows :
    [windowed (.rso 3 1 5) 2 true, windowed (.rso 3 1 5) 1 true, windowed (.roopen 3 4096 false) 2 true, windowed (.roopen 3 9 true) 2 false,
      windowed (.roopen 4 4094 false) 2 true, windowed (.roopen 4 4095 false) 2 true, windowed (.roclose 3 false) 2 true,
      windowed (.roclose 3 true) 2 true, windowed (.roclose 4 false) 2 true].all (fun s =>
        stands s && (Tab.get none (s.ctx 0).wins 3).isSome && (Tab.get none (s.ctx 0).wins 4).isNone && Tab.wf none (s.ctx 0).wins) = true ∧
    ([] ++ [(vaultPlace 0 64, (1 : Word), (5 : Word))]).length < 2 ∧ 1 ≤ ([] ++ [(vaultPlace 0 64, (1 : Word), (5 : Word))]).length ∧
    (windowed (.roopen 4 4094 false) 2 true).reserved 0 (portOf (vaultPlace 0 64)) = 2 ∧ 4094 + 2 ≤ 4096 ∧ 4096 < 4095 + 2 ∧
    (windowed (.roopen 4 4094 false) 2 true).closing 0 4 = false ∧ (windowed (.roclose 3 true) 2 true).closing 0 3 = true := by decide

/-- PortOperations: a deposit whose bits the object holds, at both ends of its 96. -/
theorem witness_PortOperations_deposit : (0 : Nat) < 2 ^ 31 ∧ (1 : Nat) ≠ 0 ∧ (5 : Int) - 95 ≤ -90 ∧
    (-90 : Int) + (Nat.log2 1 : Int) ≤ 5 ∧ (5 : Int) + (Nat.log2 1 : Int) ≤ 5 := by decide

/-- A group record of one task on cluster 0, its shape field as given. -/
def record (shape : Nat) : List Host.Cell :=
  (if shape = 0 then [] else [(vaultPlace 0 64 + 9, BitVec.ofNat 8 (64 * shape))]) ++ [(vaultPlace 0 64 + 12, 1), (vaultPlace 0 64 + 32, 1)]

/-- PortOperations: SDCLAIM of a record that is good, SDFREE of a lease that is held, that is not and past 63. -/
theorem witness_PortOperations_leases : stands (port .claim (vlt 64) [.s 1] (vaultPlace 0 64) 64 []) = true ∧
    ([0, 63, 64].all fun n => stands (port (.free n) (vlt 64) [.s 1] (vaultPlace 0 64) 4 [])) = true ∧
    (63 : BitVec 64).toNat ≤ 63 ∧ ¬ (64 : BitVec 64).toNat ≤ 63 ∧
    (Tab.get none ([(63, some (⟨1, 2, [], []⟩ : Lease))] : Tab (Option Lease)) 63 ≠ none) ∧
    Tab.get none ([(63, some (⟨1, 2, [], []⟩ : Lease))] : Tab (Option Lease)) 0 = none ∧
    (claimLease [] (List.replicate 64 0)).1 = 0 ∧ (claimLease [(0, some ⟨0, 0, List.replicate 4 0, List.replicate 4 0⟩)] (List.replicate 64 0)).1 = 1 ∧
    (claimLease [] (List.replicate 63 0 ++ [1])).1 = 3 := by decide +kernel

/-- PortOperations: TGROW with room and past 2^32 − 1, LAUNCH of a good record and of a bad one. -/
theorem witness_PortOperations_groups :
    (let s := port (.grow 5) (vlt 64) [.s 1] (vaultPlace 0 64) 4 [(vaultPlace 0 4096 + 32, 4)]
     let f := s.flights.map fun f => { f with task := some task0 }
     let t : State := { s with flights := f, groups := [{ group0 with growing := 1 }] }
     stands t = true ∧ task0.ctx = 0 ∧ t.groupOf task0 = some { group0 with growing := 1 } ∧
       (t.gword group0 32).toNat + (5 : BitVec 64).toNat < 2 ^ 32 ∧ 2 ^ 32 ≤ (t.gword group0 32).toNat + (0xFFFFFFFC : BitVec 64).toNat ∧
       t.gword group0 24 ≠ t.gword group0 32 ∧ t.gword group0 24 ≠ t.gword group0 32 + 5) ∧
    (let s := port (.launch true) (vlt 64) [] (vaultPlace 0 64) 64 (record 0)
     MemoryOk s ∧ stands s = true ∧ s.launchFault 0 (leNat (rdBytes s.mem (vaultPlace 0 64) 64)) = none) ∧
    (let s := port (.launch true) (vlt 64) [] (vaultPlace 0 64) 64 (record 2)
     MemoryOk s ∧ stands s = true ∧ s.launchFault 0 (leNat (rdBytes s.mem (vaultPlace 0 64) 64)) = some 8) := by
  simp only [MemoryOk]; decide +kernel
/-! ## Witnesses: the matrix and generator engines -/

/-- An image of one micro-operation that yields its first coordinate. -/
def echo : Image := ⟨0x4F484345, 1 + 512, List.replicate 32 0, [0xB8000000], [], []⟩
/-- An image that meets its bound of one step. -/
def bounded : Image := ⟨0x444E4F42, 1 + 1024, List.replicate 32 0, [0x08000000, 0xB8000000], [], []⟩

theorem echo_ok (seed : BitVec 64) (c0 c1 c2 c3 : Word) : evalGen echo seed c0 c1 c2 c3 = .ok c0 := rfl
theorem bounded_error (seed : BitVec 64) (c0 c1 c2 c3 : Word) : evalGen bounded seed c0 c1 c2 c3 = .error 1 := rfl

/-- Core 0 with changed engine registers and the scalars of a list. -/
def eng (k : Nat) (l : List (Nat × BitVec 64)) (e : Eng → Eng) : State :=
  st 0 k (fun x => { x with s := l, eng := e x.eng }) fun s => { s with ctxs := [(0, ctx0)], glob := { s.glob with running := some 0 } }

/-- A load of the shadow plane, of MGENB.ADD's group 1 or of MLDB, that ends in cycle 0. -/
def load (gen bad : Bool) : MxLoad := ⟨0, if gen then some 1 else none, .zero, gen, bad, none, [], 0⟩

/-- The shape register with a third sequence that its window does not hold. -/
def shape3 : Shape := { shape1 with hdr := shape1.hdr.set 8 3 }

/-- A row on its way to bank 2, row 127. -/
def row2 : RowLanding := ⟨0, none, 3, 24, 0, 0, 2, 127, ⟨0, [], 0, 8, none, .zero, [true], some 0, none⟩⟩

/-- MatrixControl: earlier rows in the bank and none, Invar mode and not, a load under way and none, CELLOP values with and
without a reserved entry at either end. -/
theorem witness_MatrixControl : (Heads (eng 4 [] id) ∧ (∀ r ∈ (eng 4 [] id).rows, r.unit ≠ 0) ∧
    (let s := st 0 4 (fun x => { x with spr := { x.spr with inv := true } }) fun s => { s with rows := [row2] }
     Heads s ∧ (∃ r ∈ s.rows, r.unit = s.u ∧ r.bank = 2 ∧ r.seq < s.cur.op.seq) ∧ s.me.spr.inv = true ∧ s.me.spr.sup = false) ∧
    (let s := st 0 4 id fun s => { s with rows := [row2] }
     (∃ r ∈ s.rows, r.unit = s.u ∧ r.bank = 2 ∧ r.seq < s.cur.op.seq) ∧ ¬ (s.me.spr.inv = true ∧ s.me.spr.sup = false)) ∧
    (eng 4 [] id).me.eng.load = none ∧ (eng 4 [] fun e => { e with load := some (load false false) }).me.eng.load ≠ none) ∧
    (∃ i, i < 16 ∧ (0xC0000000 : Word).toNat / 4 ^ i % 4 = 3) ∧ (∃ i, i < 16 ∧ (0x3 : Word).toNat / 4 ^ i % 4 = 3) ∧
    ¬ ∃ i, i < 16 ∧ (0x9999AAAA : Word).toNat / 4 ^ i % 4 = 3 := by
  simp only [Heads]
  refine ⟨by decide, ⟨15, by decide⟩, ⟨0, by decide⟩, ?_⟩
  rintro ⟨i, h, e⟩; revert e; revert i; decide

/-- PlaneLoads: an empty and a filled slot, a hold, and operands at the ends of a group and past them. -/
theorem witness_PlaneLoads : ((eng 4 [] id).me.eng.load = none ∧ (eng 4 [] id).genHeld 1 = false ∧ (eng 4 [] id).me.gslot 3 = none ∧
    (eng 4 [] fun e => { e with gn := [(3, some echo)] }).me.gslot 3 = some echo ∧
    (eng 4 [] fun e => { e with genUses := [(3, 0, 9)] }).genHeld 1 = true) ∧
    (∀ j k, j < 128 → k < 128 → ∃ w, evalGen echo ((eng 4 [] id).me.seed 1) (BitVec.ofNat 32 j) (BitVec.ofNat 32 k) 0 0 = .ok w) ∧
    lowestFault ([] ++ operandFaults (BitVec.ofNat 64 (2 ^ 21 - 32768)) 32768 .rd) = none ∧
    (∃ f, lowestFault ([] ++ operandFaults (BitVec.ofNat 64 (2 ^ 21 - 32704)) 32768 .rd) = some f) ∧
    (∃ f, lowestFault ([] ++ operandFaults 32 32768 .rd) = some f) ∧ (eng 4 [] id).operandsReady 0 5 = true ∧
    Full (eng 4 [] id) ⟨[(groupPlace 0 1 0, 32768)], []⟩ ∧ Within (eng 4 [] id) ⟨[(groupPlace 0 1 0, 32768)], []⟩ ∧
    ¬ Full { eng 4 [] id with tiles := [(tileOf (groupPlace 0 1 0), (false, 1))] } ⟨[(groupPlace 0 1 0, 32768)], []⟩ ∧
    ({ eng 4 [] id with flights := [{ fly 1 (.store [1]) with writes := true, spans := [(scratchPlace 0 512, 1)] }] } : State).operandsReady 0 5 = false := by
  refine ⟨by decide, fun j k _ _ => ⟨_, rfl⟩, by decide, ⟨_, rfl⟩, ⟨_, rfl⟩, by decide,
    by simp only [Full]; decide, by simp only [Within]; decide, by simp only [Full]; decide, by decide⟩

/-- MatrixPasses: pairs of formats that have a rate and that have none, with the load of a bank group in the way and not, a
shape register whose rows are in its window, even pitches, and generators that yield values. -/
theorem witness_MatrixPasses : ((eng 4 [] id).pairRate 0 = some (1, 1) ∧ (eng 4 [] id).pairRate 1 = none ∧ (0 : BitVec 3) ≠ 4 ∧
    (eng 4 [] fun e => { e with load := some (load true false) }).me.eng.load.bind (·.group) = some 1 ∧
    memberFaults 1 shape1 [(0, 0), (0, 2)] = [] ∧ memberFaults 1 shape3 [(0, 0), (0, 3)] ≠ [] ∧ memberFaults 0 Shape.empty [(0, 0)] ≠ [] ∧
    (eng 4 [] id).genHeld 2 = false ∧ (eng 4 [] fun e => { e with genUses := [(3, 1, 9)] }).genHeld 2 = true ∧
    (eng 4 [] fun e => { e with gn := [(3, some echo)] }).me.gslot 3 = some echo) ∧
    (∀ r j, r < 1 → j < 128 → evalGen echo 0 (BitVec.ofNat 32 r) (BitVec.ofNat 32 j) 0 0 = .ok (BitVec.ofNat 32 r)) := by
  exact ⟨by decide, fun r j _ _ => rfl⟩

/-- PlaneLoads and MatrixPasses: the first evaluation of all, and one that others precede, meets its image's bound. -/
theorem witness_PlaneLoads_bound : (eng 4 [] fun e => { e with gn := [(3, some bounded)] }).me.gslot 3 = some bounded ∧
    (∃ op, evalGen bounded ((eng 4 [] id).me.seed 1) 0 0 0 0 = .error op) ∧ (∀ m, m < 0 → ∃ w, evalGen bounded 0 0 (BitVec.ofNat 32 m) 0 0 = .ok w) ∧
    (0 : Nat) < 128 * 128 ∧ (0 : Nat) < 128 * 1 :=
  ⟨by decide, ⟨1, bounded_error _ _ _ _ _⟩, fun m h => absurd h (Nat.not_lt_zero m), by decide, by decide⟩

/-- MatrixDrains: rows up to 127 and past it, runs at and past 4,096, members inside the window and outside, spans that fit. -/
theorem witness_MatrixDrains : ((eng 4 [] id).glob.earlyTrap = false ∧
    (let sr : BitVec 64 := 0x000000000000017E
     (sr.extractLsb' 0 7).toNat + ((sr.extractLsb' 8 7).toNat + 1) ≤ 128) ∧
    (let sr : BitVec 64 := 0x000000000000017F
     128 < (sr.extractLsb' 0 7).toNat + ((sr.extractLsb' 8 7).toNat + 1)) ∧
    (5 : BitVec 3).toNat ≤ 5) ∧
    ((List.range 32).flatMap fun _ => List.replicate 128 nullRun).length ≤ 4096 ∧
    4096 < ((List.range 33).flatMap fun _ => List.replicate 128 nullRun).length ∧
    lowestFault (memberFaults 1 shape1 [(0, 2), (0, 2)] ++ []) = none ∧
    (∃ e, lowestFault (memberFaults 1 shape3 [(0, 3), (0, 2)] ++ []) = some e) ∧
    ([] ++ operandFaults (BitVec.ofNat 64 (2 ^ 21 - 512)) 512 .wr : List Flt) = [] ∧
    (∃ e, lowestFault ([prot 0x10 129] ++ operandFaults 0 512 .wr) = some e) := by
  exact ⟨by decide, by simp, by simp, by decide, ⟨_, rfl⟩, by decide, ⟨_, rfl⟩⟩

/-- MatrixDrains: MDRV of rows past 127 that are 4,096 runs, and 4,224. -/
theorem witness_MatrixDrains_both : [0x0000000000007F01, 0x0000000000207F01].map (fun (sr : BitVec 64) =>
    ((sr.extractLsb' 0 7).toNat, (sr.extractLsb' 8 7).toNat + 1, (sr.extractLsb' 16 7).toNat + 1)) = [(1, 128, 1), (1, 128, 33)] ∧
    128 < 1 + 128 ∧ 128 * 1 ≤ 4096 ∧ 4096 < 128 * 33 ∧ memberFaults 0 Shape.empty [(0, 0)] ≠ [] := by decide

/-- Adapters: matrices in the vault and past its window, runs that name a live entry and a stale one, counts that fit. -/
theorem witness_Adapters : (vlt 0).toNat / 2 ^ 60 = 1 ∧
    ((in0 4 [] id).access pMX .rd false 64 [(vlt 0, 256), (vlt 0xFFF00, 256)]).toBool = true ∧
    ((in0 4 [] id).access pMX .rd false 64 [(vlt 0, 256), (vlt 0xFFF40, 256)]).toBool = false ∧
    CtxsOk (in0 4 [] id) ∧ Tab.wf 0 ((in0 4 [] id).ctx 0).btag = true ∧ Tab.wf 0 ((in0 4 [] id).ctx 0).adapters = true ∧
    (let s := st 0 4 id fun s => { s with ctxs := [(0, { ctx0 with adapters := [(3, 1#128 <<< 31 ||| 1#128 <<< 16)] })] }
     s.stale 0x0103 = none ∧ (s.stale 0x0203).isSome = true ∧ (s.stale 0x0104).isSome = true) ∧
    runsLen [⟨0x0103, 1, true⟩] = (0 : BitVec 7).toNat + 1 ∧ (in0 4 [] id).homeFault (vaultPlace 0 0, 256) = none ∧
    ((in0 4 [] id).homeFault (vaultPlace 0 0x100000, 256)).isSome = true := by
  refine ⟨by decide, by decide +kernel, by decide +kernel, by simp only [CtxsOk]; decide, by decide, by decide, by decide +kernel,
    by decide, by decide +kernel, by decide +kernel⟩

/-- MatrixEvents: a row that is due and one that is not, loads that are over, an evaluation at its bound, a tile to release
that is the last of its operation and one that is not. -/
theorem witness_MatrixEvents :
    (let s := st 0 4 id fun s => { s with rows := [row2, { row2 with due := 9 }] }
     MemoryOk s ∧ UnitsOk s ∧ s.rows[0]? = some row2 ∧ s.rowDue 0 row2 = true ∧ s.rowDue 1 { row2 with due := 9 } = false ∧
       row2.work.cells.getD 0 false = true ∧ row2.work.cells.getD 1 false = false ∧ row2.work.fl = some 0) ∧
    (let s := eng 4 [] fun e => { e with load := some (load true false) }
     (s.unit 0).eng.load = some (load true false) ∧ (load true false).bad = false ∧ (load false false).gen = false ∧ (load true false).due ≤ s.cycle) ∧
    (let p : Pend := ⟨3, 24, 5, 0x10, 1, 0, 0, 0, 0, 0, 7, 0, 0, true⟩
     let f : Flight := { fly 1 (.bound (some 4)) with bad := some p }
     let s : State := { eng 4 [] id with flights := [f] }
     MemoryOk s ∧ UnitsOk s ∧ s.flights[0]? = some f ∧ f.due ≤ s.cycle ∧ s.current f = true ∧ (s.unit 0).disp.pend = none) ∧
    (let f : Flight := { fly 1 (.drain [1] 7 0) with path := pAC, task := none }
     let g : Flight := { fly 2 (.drain [1] 8 0) with path := pAC, task := none }
     let s : State := { eng 4 [] id with flights := [f] }
     s.flights[0]? = some f ∧ f.writes = false ∧ (∀ q ∈ s.flights, q.id ≠ f.id → q.issued ≠ f.issued) ∧ s.current f = true ∧
       g.id ≠ f.id ∧ g.unit = f.unit ∧ g.seq = f.seq ∧ g.slot = f.slot ∧ g.issued = f.issued) := by
  simp only [MemoryOk, UnitsOk]; decide +kernel

/-- GeneratorResults: slots in use and free, names that are known, built in and unknown, counts at and past 4,096, evaluations
that yield values and that meet their bound. -/
theorem witness_GeneratorResults : ((∀ u ∈ (eng 5 [] id).me.eng.genUses, u.1 ≠ 3) ∧
    (∃ u ∈ (eng 5 [] fun e => { e with genUses := [(3, 1, 9)] }).me.eng.genUses, u.1 = 3 ∧ u.2.1 ≠ 0 ∧ (0 : Nat) < u.2.2) ∧
    ((eng 5 [] id).ctx 0).registry.find? (fun g => g.name == 0x4F484345) = none ∧
    (({ ctx0 with registry := [echo] } : Ctx).registry.find? fun g => g.name == 0x4F484345) = some echo ∧
    ((0x0000000500001000 : BitVec 64).extractLsb' 0 32).toNat ≤ 4096 ∧ 4096 < ((0x1001 : BitVec 64).extractLsb' 0 32).toNat ∧
    (eng 5 [] id).me.gslot 3 = none ∧ (eng 5 [] fun e => { e with gn := [(3, some bounded)] }).me.gslot 3 = some bounded) ∧
    (∀ i, i < 4096 → evalGen echo 0 (BitVec.ofNat 32 i) 7 5 0 = .ok (BitVec.ofNat 32 i)) ∧ (0 : Nat) < 1 ∧
    evalGen bounded 0 0 7 5 0 = .error 1 ∧ (6 : BitVec 4) = 6 ∧ (5 : BitVec 4) ≠ 6 := by
  exact ⟨by decide, fun i _ => rfl, by decide, rfl, by decide⟩

/-! ## Witnesses: the transfer and collective engines -/

/-- TransferIssue: room and none, Invar mode and not, an empty and a filled shape register, rows of whole bytes and not, at
most 4 GiB and more, selections that cross a boundary, stop at one and fault. -/
theorem witness_TransferIssue : ((shp 7 [] [] id).xferFull = false ∧
    (shp 7 [] [] fun s => { s with xfers := List.replicate 64 (s.xfer 1 0 .copy []) }).xferFull = true ∧
    (shp 7 [] [] fun s => { s with xfers := List.replicate 63 (s.xfer 1 0 .copy []) }).xferFull = false ∧
    (shp 7 [] [] id).me.spr.inv = false ∧
    ((shp 7 [] [] id).me.shape 0).rank = 0 ∧ shape1.rank ≠ 0 ∧ shape1.fmt ≠ 10 ∧ (shape1.dim 1 * shape1.dim 2 * shape1.dim 3 * fmtBits shape1.fmt) % 8 = 0 ∧
    (let r := { shape1 with hdr := shape1.hdr.set 5 8 }
     r.fmt ≠ 10 ∧ (r.dim 1 * r.dim 2 * r.dim 3 * fmtBits r.fmt) % 8 ≠ 0) ∧
    4 * (List.replicate 3 0).length ≤ 2 ^ 32 ∧ 2 ^ 32 < 1073741825 * (List.range 4).length) ∧
    (∃ f, shape1.select 1 false false 1 2 = .error f) ∧ shape1.select 1 false false 0 2 = .ok [(0, 1), (1, 2)] ∧
    shape1.select 1 true false 0 3 = .ok [(0, 1), (1, 2)] ∧ shape1.bound (0 + 1) = some 1 ∧
    (some 1).any (fun j => [0, 1, 2].any fun k => decide (j ≤ k)) = true ∧ UnitsOk (shp 7 [] [] id) := by
  simp only [UnitsOk]
  exact ⟨by decide +kernel, ⟨_, rfl⟩, by decide⟩

/-- TransformIssue: tiles aligned at both ends of the scratchpad, counts at and past 4,096 and no multiple of 32, ranges that
end at its end, tiles that are full and not, a block of one run. -/
theorem witness_TransformIssue : (at0 7 []).xferFull = false ∧ (2 : BitVec 4).toNat ≤ 2 ∧ (8384512 : Nat) % 4096 = 0 ∧
    (1 ≤ (10 : BitVec 4).toNat ∧ (10 : BitVec 4).toNat ≤ 10) ∧ 4096 < (4097 : Nat) ∧ (9 ≤ (9 : BitVec 4).toNat ∧ 33 % 32 ≠ 0) ∧
    ((4096 : Nat) ≤ 4096 ∧ 4096 % 32 = 0 ∧ 0 < 4096 ∧ 8372224 % 64 = 0 ∧ 8372224 + 4 * 4096 ≤ 2 ^ 23) ∧
    (∀ k ∈ ownTiles 0 0 4096, (at0 7 []).isFull k = true) ∧
    (¬ ∀ k ∈ ownTiles 0 0 4096, ({ at0 7 [] with tiles := [(0, (false, 1))] } : State).isFull k = true) ∧
    (at0 7 []).me.spr.inv = false ∧
    (let h := blockHdr ([0xC7, 0, 0, 0, 1, 0, 0, 0, 5] ++ List.replicate 23 0)
     h.ok = true ∧ blockRunsOk h [0, 0, 0x80, 0x3F, 5, 0, 0, 1] = true ∧ h.nruns = 1 ∧ h.len = 5 ∧
       8388568 % 8 = 0 ∧ 64 + 32 + 8 * h.nruns ≤ 2 ^ 23 ∧ 8388544 + h.len * (fmtBits h.fmt / 8) ≤ 2 ^ 23) := by decide +kernel

/-- TransferEvents: a token whose status stands, one whose status has gone, and the states of a copy and a transform at
their ends. -/
theorem witness_TransferEvents : (let e := Tab.get ((0 : BitVec 16), (0 : BitVec 14)) [(3, (3, 1))] (3 % 256)
     (3 : BitVec 16) ≠ 0 ∧ e.1 = 3 ∧ e.2.extractLsb' 0 8 ≠ 0) ∧
    (let e := Tab.get ((0 : BitVec 16), (0 : BitVec 14)) [(3, (3, 0))] (3 % 256)
     e.1 = 3 ∧ e.2.extractLsb' 0 8 = 0) ∧
    (let x : Xfer := { (in0 7 [] id).xfer 3 0 .copy [] with left := [2], tiles := [(2, 0)] }
     let s := in0 7 [] fun s => { s with xfers := [x], arg := { s.arg with m := 2 } }
     s.xfers[s.arg.n]? = some x ∧ UnitsOk s ∧ MemoryOk s ∧ x.tok ≠ 0 ∧ x.kind = .copy ∧ s.arg.m ∈ x.left ∧ x.rows = [] ∧
       s.flights = [] ∧ x.recd = false ∧ s.txFrozen x.unit = false ∧ s.xferCurrent x = true) ∧
    (let x : Xfer := { (in0 7 [] id).xfer 3 0 .copy [⟨own 0, own 8192, 8⟩] with left := [2], tiles := [(2, 0)] }
     let s := in0 7 [] fun s => { s with xfers := [x], arg := { s.arg with m := 2 } }
     x.rows ≠ [] ∧ ∃ q, s.xferReach x .wr (own 8192) 8 = .ok q ∧ 2 ∈ tilesOfSpans q.spans) ∧
    (let x : Xfer := { (in0 7 [] id).xfer 3 0 .transform [⟨0, 64, 4⟩] with left := [0], due := 0, buf := [1, 2, 3, 4] }
     let s := in0 7 [] fun s => { s with xfers := [x] }
     x.kind = .transform ∧ x.rows = [⟨0, 64, 4⟩] ∧ x.recd = false ∧ x.due ≤ s.cycle ∧ s.xferCurrent x = true) := by
  simp only [UnitsOk, MemoryOk]
  refine ⟨by decide, by decide, by decide, ⟨by decide, _, rfl, by decide⟩, by decide⟩

/-- TransferEvents: tiles of a code image and of a block whose writes have all been made; a status that an earlier event of the engine
holds back, and one that nothing does; a copy while tx is frozen. -/
theorem witness_TransferEvents_held :
    (let x (k : XKind) (r : Bool) : Xfer := { (in0 7 [] id).xfer 3 1 k [] with left := if r then [] else [2], tiles := [(2, 0)], recd := r }
     let s (l : List Xfer) := in0 7 [] fun s => { s with xfers := l, arg := { s.arg with m := 2 } }
     2 ∈ (x .block false).left ∧ (x .block false).rows = [] ∧ (s [x .block false]).flights = [] ∧
       (s [x .block false]).heldXfer 0 = false ∧ (s [x .copy false, x .copy true]).heldXfer 0 = true ∧ (s []).txFrozen 0 = false ∧
       (x (.imload true) false).kind ≠ .transform ∧ (x (.imload true) false).kind ≠ .block ∧
       ({ s [] with dies := [(0, { Die.reset with frozenTx := [0] })] } : State).txFrozen 0 = true) := by decide

/-- TransferEvents: the last write of a copy without writes in flight has been issued. -/
theorem witness_TransferEvents_last : (in0 7 [] id).lastIssued ((in0 7 [] id).xfer 3 0 .copy []) = true := by
  cases h : Config.trainedCxl (in0 7 [] id).glob.boots <;> (unfold State.lastIssued; rw [h]; decide)

/-- A channel entry of handle 7 on die 0: its kind, its peer, its operation and format. -/
def chanOf (kind peer rop fmt : Nat) : Chan :=
  { Chan.none with
    defd := true,
    desc := [BitVec.ofNat 64 (7 * 2 ^ 48), BitVec.ofNat 64 (peer + kind * 2 ^ 30 + fmt * 2 ^ 32 + 1 * 2 ^ 40 + rop * 2 ^ 48),
      BitVec.ofNat 64 (64 * 8 + 2 * 2 ^ 16), 0] }

/-- A binding of handle 7: two members, of which this die is number 0; it may contribute to agreement rounds. -/
def bind7 : BitVec 128 := BitVec.ofNat 128 (7 + 2 * 2 ^ 32 + 2 ^ 62 + 2 ^ 63)

/-- Core 0 with a send channel 1, a receive channel 3, a group channel 2, a norm channel 4 and scalars. -/
def coll (l : List (Nat × BitVec 64)) (g : State → State) : State :=
  st 0 7 (sc l) fun s => g { s with
    ctxs := [(0, { ctx0 with
      ports := [(0, bind7)],
      chans := [(1, chanOf 0 1 0 0), (2, chanOf 2 0 1 0), (3, chanOf 1 1 0 0), (4, chanOf 1 0xFFF 1 0)] })],
    glob := { s.glob with running := some 0 } }

/-- CallIssue: each kind of entry usable, with counts at the ends of their ranges, tiles armed up to the depth and past it. -/
theorem witness_CallIssue : CallsOk (coll [] id) ∧ (coll [] id).defining 0 1 = false ∧
    ({ coll [] id with flights := [fly 1 (.chdef 1 3 true)] } : State).defining 0 1 = true ∧
    (let x := (coll [] id).myChan 1
     x.defd = true ∧ x.die = dieOf 0 ∧ (x.kind == 0) = true ∧ x.stale = false ∧ x.aborted = false ∧ x.len = 64) ∧
    (let x := (coll [] id).myChan 3
     (x.kind == 1) = true ∧ x.armed + 2 ≤ x.depth ∧ x.depth < x.armed + 3 ∧ (x.senders ((coll [] id).bindOf 0 x)).length * (x.len / 4) ≠ 0) ∧
    (let x := (coll [] id).myChan 4
     let y := (coll [] id).myChan 2
     (x.kind == 1 && x.peer == 0xFFF && x.fmt == 0 && x.rop == 1 && y.defd && y.kind == 2 && y.handle == x.handle) = true ∧
       x.link = 2 ∧ (x.senders ((coll [] id).bindOf 0 x)).length * (x.len / 4) ≠ 0) ∧
    (let x := (coll [] id).myChan 2
     (x.kind == 2 && (x.fmt == 0 || x.fmt == 5)) = true ∧ ((coll [] id).bindOf 0 x).getLsbD 62 = true) ∧
    (decide (1 ≤ 32) && decide (32 ≤ 32)) = true ∧ (decide (1 ≤ 33) && decide (33 ≤ 32)) = false ∧
    (decide (8 ≤ 8) && decide (8 ≤ 2 ^ 24) && 8 % 8 == 0) = true ∧ (decide (8 ≤ 12) && decide (12 ≤ 2 ^ 24) && 12 % 8 == 0) = false ∧
    ((coll [] id).myChan 5).defd = false ∧
    ({ (coll [] id).myChan 1 with stale := true } : Chan).stale = true := by
  simp only [CallsOk]
  refine ⟨⟨by decide, ?_⟩, by decide +kernel⟩
  intro c y h
  have e : ∀ c, ((coll [] id).ctx c).saved = none := fun c => by
    by_cases hc : c = 0
    · subst hc; rfl
    · have : (0 == c) = false := by simpa using fun h => hc h.symm
      simp [coll, st, State.ctx, Tab.get, this, Ctx.reset]
  rw [e c] at h; exact absurd h (by simp)

/-- A state in which an all-to-all record of two ranks, `n` words from rank 1, stands in the scratchpad. -/
def recorded (n : Byte) : State :=
  { coll [] id with mem := (scratchPlace 0 0x1010, 2) :: if n = 0 then [] else [(scratchPlace 0 0x104C, n)] }

/-- Its bytes. -/
def recordOf (n : Byte) : List Byte := rdBytes (recorded n).mem (scratchPlace 0 0x1000) 88

/-- CallIssue: tiles of the own scratchpad to arm; an all-to-all record of two ranks with words to receive, and none, in a tile
that is full and in one that is not; the words that its counts place. -/
theorem witness_CallIssue_reach : ((coll [] id).reach 0 (dieOf 0) 0 pCO .wr false (own 0x7FE000) (4096 * 2) =
      .ok ⟨[(scratchPlace 0 0x7FE000, 4096 * 2)], []⟩ ∧ spaceOf (scratchPlace 0 0x7FE000) = 2 ∧
    scratchPlace 0 0x7FE000 % 2 ^ 64 / 2 ^ 23 = 0 ∧ (own 0x7FE000).toNat % 4096 = 0) ∧
    (let r : Reach := ⟨[(scratchPlace 0 0x1000, 88)], []⟩
     (recorded 5).a2aReach 0 0 0 (own 0x1000) 2 = .ok r ∧ Full (recorded 5) r ∧
       ¬ Full { recorded 5 with tiles := [(tileOf (scratchPlace 0 0x1000), (false, 1))] } r) ∧
    [0, 5].all (fun n => (a2aBad (recordOf n) (own 0x1000) 2 true).isNone &&
      sumWords ((List.range 2).map fun j => BitVec.ofNat 32 (leNat (((recordOf n).drop (64 + 4 * (2 + j))).take 4))) == n.toNat) = true ∧
    (match (recorded 5).reach 0 0 0 pCO .wr false (own 0) (4 * 5) with
      | .ok q => tileWords q.spans == [(0, 5)] && placeWords [(0, 0), (0, 5)] == [(0, 5)]
      | .error _ => false) = true ∧
    bindN bind7 = 2 := by
  simp only [Full]; decide +kernel

/-- CallIssue: CA2AC's arrays of RC and RP within the vault window, and past it. -/
theorem witness_CallIssue_counts : ((coll [] id).reach 0 0 0 pCO .wr false (vlt 0x1000 + BitVec.ofNat 64 (64 + 4 * 2)) (8 * 2)).toBool = true ∧
    ((coll [] id).reach 0 0 0 pCO .wr false (vlt 0xFFFC0 + BitVec.ofNat 64 (64 + 4 * 2)) (8 * 2)).toBool = false := by decide

/-- CallIssue: CHDEF with its entry idle; with a call of it in flight; with the engine frozen; of a descriptor in the scratchpad. -/
theorem witness_CallIssue_chdef : (coll [] id).calls = [] ∧ (coll [] id).defining 0 1 = false ∧ ((coll [] id).die 0).frozenColl = false ∧
    (callOf (coll [] id) 1 false).ch = 1 ∧ (callOf (coll [] id) 1 false).ctx = 0 ∧
    (({ coll [] id with dies := [(0, { Die.reset with frozenColl := true })] } : State).die 0).frozenColl = true ∧
    (own 32).toNat % 32 = 0 ∧ ((coll [] id).reach 0 0 0 pCO .rd false (own 32) 32).toBool = true := by decide
/-- A packet of handle 7 from rank 1 to rank 0, on die 0. -/
def pkt (kind : Nat) (sig : Word) (ws : List Word) : Packet :=
  ⟨9, 0, 7, 0, 1, 0, none, some 0, kind, 1, 0, 0, 0, sig, 0, own 0, ws⟩

/-- A call of a kind on a channel. -/
def call (kind : Nat) (ch : BitVec 6) (sig : Word) (n : Nat) : Call :=
  { callOf (coll [] id) ch false with kind := kind, sig := sig, n := n, base := own 0, tiles := [(scratchPlace 0 0, 16)], id := 4 }

/-- A state with a packet in the fabric and a call in flight. -/
def arriving (p : Packet) (k : Call) : State := coll [] fun s => { s with fabric := [p], calls := [k], ids := 5 }

/-- A packet that its call takes: the switch passes it, its call is found and stands, and its signature is the one expected. -/
def taken (p : Packet) (k : Call) : Bool :=
  let s := arriving p k
  s.fabric[s.arg.n]? == some p && s.dropCause p == none && p.dstDie == some 0 && Memory.wf s.mem && s.callFor p 0 p.wants == some k &&
    !s.callPaused k && s.expects p k == p.sig

/-- A packet with the signature that its call expects. -/
def fits (p : Packet) (k : Call) : Packet := { p with sig := (coll [] id).expects p k }

/-- The calls of the packets below: a CSEND, a CRECV, a CA2AC of two ranks, a CA2AP with 2 words to receive and 5 to send to rank 1, a
norm, a digest. -/
def callOn (kind : Nat) : Call :=
  { call kind (if kind = 1 then 1 else if kind = 2 then 3 else if kind = 7 then 4 else 2) 77 (if kind = 3 then 2 else 8) with
    counts := [0, 5], rcv := [0, 2] }

/-- CallArrivals and CallPauses: entries defined and not; a packet of every kind at the call that takes it. -/
theorem witness_CallArrivals : (((coll [] id).chan 0 1).defd = true ∧ ((coll [] id).chan 0 1).die = dieOf 0 ∧
    ((coll [] id).chan 0 9).defd = false ∧ (coll [] id).fabric = []) ∧
    [(pkArm, [], 1), (pkArm, [5], 4), (pkTile, List.replicate 16 1, 2), (pkCount, [5], 3), (pkPay, [5], 4), (pkNorm, [5], 7), (pkDig, [5, 6], 6)].all
      (fun (y : Nat × List Word × Nat) => let k := callOn y.2.2
        taken (fits (pkt y.1 0 y.2.1) k) k) = true ∧
    ((5 : Word) = (callOn 4).counts.getD 1 0 ∧ (callOn 4).n ≠ 0 ∧ (callOn 3).got.length + 1 < (callOn 3).n ∧
      (callOn 6).got.length + 1 < bindN ((coll [] id).bindOf 0 ((coll [] id).chan 0 2)) ∧
      (callOn 7).got.length + 1 < bindN ((coll [] id).bindOf 0 ((coll [] id).chan 0 4)) ∧ [(5 : Word)].length < (callOn 4).n) ∧
    (callOn 2).tiles[(0 : Nat)]? = some (scratchPlace 0 0, 16) ∧ 0 + 16 ≤ ((coll [] id).chan 0 3).len / 4 ∧
    (coll [] id).reach 0 0 0 pCO .wr false (own 0 + BitVec.ofNat 64 (4 * 0)) (4 * 1) = .ok ⟨[(scratchPlace 0 0, 4)], []⟩ ∧
    (pkt pkAbort 0 [0, 0]).kind = pkAbort ∧ (pkt pkSwr 0 []).kind = pkSwr := by decide +kernel

/-- CallArrivals: a packet whose call is still to issue, whose entry has passed its number, with a call of another class there and
none, whose call stands still, whose signature is another. -/
theorem witness_CallArrivals_rest :
    (let p := pkt pkCount 77 [5]
     let s := coll [] fun s => { s with fabric := [p] }
     s.callFor p 0 p.wants = none ∧ s.packetLost p 0 p.entry = false) ∧
    (let p := pkt pkCount 77 [5]
     let passed : State := coll [] fun s => { s with
       fabric := [p], ctxs := s.ctxs.map fun c => (c.1, { c.2 with chans := c.2.chans.map fun x => (x.1, { x.2 with sseq := 1, aborted := x.1 == 0 }) }) }
     passed.callFor p 0 p.wants = none ∧ passed.glob.running = some p.ctx ∧ passed.packetLost p 0 p.entry = true ∧ passed.rival p 0 = none ∧
       (({ passed with calls := [callOn 6] } : State).rival p 0).isSome = true) ∧
    (let s : State := { arriving (pkt pkCount 77 [5]) (callOn 3) with dies := [(0, { Die.reset with frozenColl := true })] }
     let k := { callOn 3 with behind := true }
     s.callPaused k = true) ∧
    (let p := pkt pkTile 78 (List.replicate 16 1)
     let s := arriving p (callOn 2)
     s.callFor p 0 p.wants = some (callOn 2) ∧ s.expects p (callOn 2) ≠ p.sig ∧ (s.binding 0 0 7).isSome = true) := by decide +kernel

/-- CollectiveArithmetic: NaN and no NaN, infinities of both signs, a list with a sum of zero and one without. -/
theorem witness_CollectiveArithmetic : (decodeF fp32 (0x7FC00000 : Word).toNat = .nan false false 0 ∧
    decodeF fp32 (0x3F800000 : Word).toNat = .num false 8388608 (-23) ∧ decodeF fp32 (0x7F800000 : Word).toNat = .inf false ∧
    decodeF fp32 (0xFF800000 : Word).toNat = .inf true ∧ decodeF fp32 (0xBF800000 : Word).toNat = .num true 8388608 (-23) ∧ ([0] : List Word) ≠ []) ∧
    [ratOf false 8388608 (-23), ratOf true 8388608 (-23)].sum = 0 ∧ [ratOf false 8388608 (-23)].sum ≠ 0 := by
  exact ⟨by decide, by norm_num [ratOf], by norm_num [ratOf]⟩

/-- A reduction slot of handle 7 that has one part of `n`, begun at 0 with the default timer. -/
def slot7 (round : Bool) (n : Nat) : SwSlot := ⟨round, 7, 0, 77, n, 0, 0, [pkt (if round then pkAgree else pkSwr) 77 [1]]⟩

/-- A state with a packet in the fabric, the switch's slots of a list, at a time in nanoseconds. -/
def switching (p : Packet) (l : List SwSlot) (t : BitVec 64) : State :=
  coll [] fun s => { s with fabric := [p], switch := { s.switch with slots := l }, time := t }

/-- SwitchSteps: a first contribution, one that joins and one that completes, a timer that stands and one that has expired. -/
theorem witness_SwitchSteps_slots : (let p := pkt pkSwr 77 [1]
     let s := switching p [] 0
     s.fabric[s.arg.n]? = some p ∧ s.dropCause p = none ∧ s.switch.late p.handle p.seq = false ∧
       (s.switch.slots.find? fun y => !y.round && y.handle == p.handle && y.seq == p.seq) = none ∧ 1 < s.packetN p ∧
       (s.switch.slots.filter fun y => !y.round).length < 4096) ∧
    (let p := pkt pkSwr 77 [1]
     let s := switching p [slot7 false 3] 19999
     (s.switch.slots.find? fun y => !y.round && y.handle == p.handle && y.seq == p.seq) = some (slot7 false 3) ∧
       (slot7 false 3).expired s.time = false ∧ (slot7 false 3).sig = p.sig ∧ (slot7 false 3).parts.length + 1 < (slot7 false 3).n ∧
       (slot7 false 2).n ≤ (slot7 false 2).parts.length + 1 ∧ (slot7 false 3).expired 20000 = true ∧
       s.switch.slots[s.arg.n]? = some (slot7 false 3) ∧ (slot7 false 3).round = false) := by decide +kernel

/-- SwitchSteps: an agreement round's first contribution and a later one, its timer, and packets that are dropped. -/
theorem witness_SwitchSteps_rounds : (let p := pkt pkAgree 0 [1]
     let s := switching p [] 0
     s.dropCause p = none ∧ (s.switch.slots.find? fun y => y.round && y.handle == p.handle) = none ∧ p.src ≠ 0x1FFF ∧ 1 < s.packetN p) ∧
    (let p := pkt pkAgree 0 [1]
     let x := slot7 true 3
     let s := switching p [x] 99999999
     (s.switch.slots.find? fun y => y.round && y.handle == p.handle) = some x ∧ x.expired s.time = false ∧
       (({ x with parts := x.parts ++ [p] } : SwSlot).parts.filter fun z => z.src != 0x1FFF).length < x.n ∧ x.expired 100000000 = true ∧
       x.round = true ∧ x.parts = pkt pkAgree 77 [1] :: []) ∧
    (let p := { pkt pkTile 0 [1] with version := 5 }
     (switching p [] 0).dropCause p = some 2) ∧
    (let p := { pkt pkTile 0 [1] with src := 0x1FFF }
     (switching p [] 0).dropCause p = some 1) ∧
    (let k := { call 1 1 0 1 with next := 1 }
     let s := coll [] fun s => { s with calls := [k], ids := 5 }
     s.calls[s.arg.n]? = some k ∧ k.kind = 1 ∧ k.fin = false ∧ s.callLocal k = true ∧ s.packetsOut k.id = false ∧ k.post = false) := by
  decide +kernel

/-- SwitchSteps: a contribution whose call is in flight, and one whose call has ended. -/
theorem witness_SwitchSteps_withdrawn : (let p := { pkt pkSwr 77 [1] with srcDie := some 0, call := 4 }
     let s := switching p [] 0
     s.dropCause p = none ∧ s.withdrawn p = true ∧ ({ s with calls := [callOn 5] } : State).withdrawn p = false) ∧
    (switching (pkt pkSwr 77 [1]) [] 0).withdrawn (pkt pkSwr 77 [1]) = false := by decide +kernel
/-! ## Witnesses: events -/

/-- LandingEvents: a result of every kind that may land, one that is not due, and results and writes of flights. -/
theorem witness_LandingEvents : [Land.scalar 3 5 1, .scalar 0 5 0, .guard 2 true 0, .guard 0 false 0, .rm 4, .efr 0 1, .efr 1 1, .efr 2 1,
      .flags 31, .mzero 7, .scale 3 (List.replicate 512 1), .rfmode 0x0F, .spr 0x015 31, .spr 0x016 1, .spr 0x030 5, .spr 0x041 0, .spr 0x050 1,
      .spr 0x051 1, .spr 0x060 9, .spr 0x061 0x21, .spr 0x022 1].all (fun w =>
    let l : Landing := ⟨0, 3, 24, 1, 0, 0, w⟩
    let s := in0 6 [] fun s => { s with landings := [l, { l with due := 1, seq := 4 }] }
    Tab.wf Unit.idle s.units && Memory.wf s.mem && s.landings[0]? == some l && s.mayLand l && !s.mayLand { l with due := 1, seq := 4 } &&
      Tab.wf 0 (s.unit l.unit).s) = true ∧
    [Fly.result [(.v 3, .runs [])] 0, .result [(.s 1, .scalar 1), (.s 2, .scalar 2)] 0, .load (.s 3) (.scalar 1 false) [], .result [(.gn 3, .image (some srNoise))] 0].all (fun w =>
      let f := { fly 1 w with spans := [(scratchPlace 0 0, 1)], reads := true }
      let s := in0 6 [] fun s => { s with flights := [f] }
      s.flights[0]? == some f && s.mayArrive f && !s.mayArrive { f with due := 1 }) = true ∧
    (fly 1 (.result [(.v 3, .runs [])] 0)).isCopy = false ∧
    (match (Conv.scalar 1 false).value (rdSpans [] [(scratchPlace 0 0, 1)]) with | .ok v => v == .scalar 0 | .error _ => false) = true ∧
    [Fly.store [7], .bits [2] true, .star 6 0 0 1 124 1 3].all (fun w =>
      let f := { fly 1 w with spans := [(scratchPlace 0 0, 1)], writes := true }
      let s := in0 6 [] fun s => { s with flights := [f] }
      s.flights[0]? == some f && s.mayPerform f && !s.mayPerform { f with due := 1 }) = true := by decide +kernel

/-- Core 0 idle in a running context with a live group, its count as a list of memory cells. -/
def grouped (g : Group) (m : List Host.Cell) : State :=
  { State.reset with ctxs := [(0, ctx0)], glob := { State.reset.glob with running := some 0 }, groups := [g], mem := m }

/-- COUNT of the group's record, 4. -/
def count4 : List Host.Cell := [(vaultPlace 0 4096 + 32, 4)]

/-- DispatchEvents: a unit that may dispatch a good bundle, a bad one, and one that may not; an index, a replay and a
co-resident launch to take, and no work. -/
theorem witness_DispatchEvents :
    (let s := st 0 1 (fun x => { x with slots := [] }) id
     s.mayDispatch 0 = true ∧ (s.unit 0).stream = false ∧ (s.unit 0).front.inHalf 0 = true ∧ (s.unit 0).spr.inv = false ∧ (s.unit 0).preempt = none ∧
       decodeBundle 0 false 0 0 none (s.codeAt 0 0 true) = .ok [] ∧ (s.unit 0).disp.skips = List.replicate 8 0) ∧
    (let s := st 0 1 (fun x => { x with slots := [] }) fun s => { s with code := [(codeKey 0 0, 1#256 <<< 32)] }
     decodeBundle 0 false 0 0 none (s.codeAt 0 0 true) = .error (2, 1)) ∧
    (st 0 1 (fun x => { x with on := false }) id).mayDispatch 0 = false ∧
    (let s := grouped group0 count4
     UnitsOk s ∧ MemoryOk s ∧ s.workFor 0 = some (.index group0) ∧ s.turn 0 = true ∧ spaceOf group0.place < 2 ∧ s.turn 1 = false) ∧
    (let g := { group0 with replay := true, replays := [2] }
     let s := grouped g []
     s.workFor 0 = some (.replay g 2) ∧ s.turn 0 = true) ∧
    (grouped group0 []).workFor 0 = none ∧
    (let g := { group0 with cores := true }
     let s := grouped g count4
     let free := g.units.filter fun v => s.workFor v == some (.together g)
     g.cores = true ∧ g.begun = false ∧ s.glob.running = some g.ctx ∧ s.glob.swState ≠ 2 ∧ g.count0.toNat ≤ free.length ∧ g.cluster = false ∧
       s.groups[0]? = some g) := by
  simp only [UnitsOk, MemoryOk]; decide +kernel

/-- A core whose task stands at a drain point with a pre-emption request, a save slot of `n` bytes beside it. -/
def draining (n : Word) (d : Bool) : State :=
  st 0 1 (fun x => { x with slots := [], task := some task0, preempt := some ⟨0, 2000000, false⟩ }) fun s => { s with
    ctxs := [(0, ctx0)], glob := { s.glob with running := some 0 }, groups := [{ group0 with stride := n }],
    code := if d then [(codeKey 0 0, 1#256 <<< 31)] else [] }

/-- PreemptionEvents: PREQ of a core with a task and without; a task that has drained and not; a slot that is too small and
one that fits; a limit that has passed. -/
theorem witness_PreemptionEvents : (let l : Landing := ⟨384, 3, 24, 1, 0, 0, .spr 0x031 0⟩
     let s := st 0 1 (fun x => { x with task := some task0 }) fun s => { s with glob := { s.glob with running := some 0 }, landings := [l] }
     UnitsOk s ∧ MemoryOk s ∧ s.landings[0]? = some l ∧ s.mayLand l = true ∧ (s.unit 0).task ≠ none ∧ s.ctxOf 0 = s.ctxOf l.unit ∧
       (s.unit 0).on = true ∧ (s.unit 0).preempt = none ∧ (s.unit 1).task = none ∧ s.mayLand { l with due := 1 } = false) ∧
    (let s := draining 65536 true
     UnitsOk s ∧ MemoryOk s ∧ (s.unit 0).preempt = some ⟨0, 2000000, false⟩ ∧ (s.unit 0).task = some task0 ∧ (s.unit 0).disp.closed = false ∧
       s.drainedAt 0 false = true ∧ s.groupOf task0 = some { group0 with stride := 65536 } ∧ task0.cluster = false) ∧
    (draining 64 false).drainedAt 0 false = false ∧
    ((group0.slot 0).1).toNat / 2 ^ 60 = 1 ∧
    (draining 65536 true).reach 0 0 0 pSL .wr false (group0.slot 0).1 26000 = .ok ⟨[(vaultPlace 0 0x2000, 26000)], []⟩ := by
  simp only [UnitsOk, MemoryOk]; decide +kernel

/-- The image of that core. -/
theorem draining_image : (((draining 65536 true).unit 0).image 0).length = 22920 := by decide +kernel

/-- PreemptionEvents: a save slot that is too small, and one that fits. -/
theorem witness_PreemptionEvents_slot :
    (({ group0 with stride := 64 } : Group).slot 0).2 < (((draining 64 true).unit 0).image 0).length ∧
    (((draining 65536 true).unit 0).image 0).length ≤ (({ group0 with stride := 65536 } : Group).slot 0).2 := by
  have h : (draining 64 true).unit 0 = (draining 65536 true).unit 0 := rfl
  rw [h, draining_image]; decide

/-- PreemptionEvents: the limit before and after it has passed. -/
theorem witness_PreemptionEvents_limit : ¬ (0 : BitVec 64).toNat + (2000000 : Word).toNat ≤ ((draining 64 false).timeOf 0).toNat ∧
    (0 : BitVec 64).toNat + (2000000 : Word).toNat ≤ (({ draining 64 false with time := 2000000 } : State).timeOf 0).toNat := by
  constructor
  · rcases timeOf_near (draining 64 false) 0 with h | h <;> rw [h] <;> decide
  · rcases timeOf_near { draining 64 false with time := 2000000 } 0 with h | h <;> rw [h] <;> decide

/-- A state with SWCTL, SWITCHAT, the step of a switch and the running context. -/
def gang (ctl : Byte) (at' : BitVec 64) (step : Nat) (run : Option (BitVec 3)) (t : BitVec 64) (v : BitVec 64) : State :=
  { State.reset with
    units := [(0, { Unit.idle with on := true, task := some task0, preempt := some ⟨0, 2000000, true⟩ })], ctxs := [(0, ctx0), (1, { ctx0 with fresh := true })],
    glob := { State.reset.glob with swctl := ctl, switchat := at', swStep := step, running := run }, time := t,
    arg := { EvArg.zero with v := v } }

/-- GangSwitchEvents: writes that arm and cancel, in every state; a context and none; a unit that has not drained; a save that may
go and one that waits; the incoming context named, fixed at the instant, gone since and none; a saved context with no image. -/
theorem witness_GangSwitchEvents : UnitsOk (gang 0x61 5 0 (some 0) 0 0x21) ∧ CtxsOk (gang 0x61 5 0 (some 0) 0 0x21) ∧
    (((0x21 : BitVec 64).setWidth 8 : Byte).getLsbD 5 = true ∧ ((0x10 : BitVec 64).setWidth 8 : Byte).getLsbD 5 = false ∧
    (gang 0x01 5 0 (some 0) 0 0).glob.swState = 0 ∧ (gang 0x61 5 0 (some 0) 0 0).glob.swState = 1 ∧ (gang 0x81 5 1 (some 0) 0 0).glob.swState = 2) ∧
    ((gang 0x61 5 0 none 5 0).glob.running = none ∧ (gang 0x61 5 0 (some 0) 5 0).glob.running = some 0 ∧
    (gang 0x81 5 1 (some 0) 5 0).glob.swStep = 1 ∧ (0 : Nat) % 24 ∉ (gang 0x81 5 1 (some 0) 5 0).glob.swDies ∧
    (gang 0x61 5 0 (some 0) 5 0).incoming = some 1 ∧ (gang 0x71 5 0 (some 0) 5 0).incoming = none) ∧
    (let s := gang 0x81 5 1 (some 0) 1200000 0
     0 ∈ s.unitsOf 0 ∧ s.gangDrained 0 = false ∧ (s.unit 0).preempt = some ⟨0, 2000000, true⟩ ∧ (s.unit 0).task ≠ none ∧ s.maySave 0 = false) ∧
    (let s := gang 0x81 5 1 (some 0) 0 0
     ({ s with units := [], glob := { s.glob with swDies := List.range 24 } } : State).maySave 0 = true) ∧
    (let s := gang 0x81 5 2 none 0 0
     let r : State := { s with glob := { s.glob with swIn := some 1 } }
     CtxsOk r ∧ r.glob.swStep = 2 ∧ r.glob.swIn = some 1 ∧ (r.ctx 1).state = 1 ∧ (r.ctx 1).fatal = false ∧ (r.ctx 1).retry = [] ∧ (r.ctx 1).saved = none ∧
       (({ r with ctxs := [(1, { ctx0 with saved := some Saved.fresh })] } : State).ctx 1).saved = some Saved.fresh ∧ Saved.fresh.images = [] ∧
       s.glob.swIn = none ∧ (r.ctx 2).state ≠ 1) := by
  simp only [UnitsOk, CtxsOk]; decide +kernel

/-- GangSwitchEvents: an instant before it has come and when it has; a drain's limit before it has passed and when it has. -/
theorem witness_GangSwitchEvents_times : (gang 0x61 5 0 (some 0) 3 0).timeOf 0 < (gang 0x61 5 0 (some 0) 3 0).glob.switchat ∧
    ¬ (gang 0x61 5 0 (some 0) 5 0).timeOf 0 < (gang 0x61 5 0 (some 0) 5 0).glob.switchat ∧
    ¬ (0 : Nat) + (2000000 : Word).toNat ≤ ((gang 0x81 5 1 (some 0) 1999998 0).timeOf 0).toNat ∧
    (0 : Nat) + (2000000 : Word).toNat ≤ ((gang 0x81 5 1 (some 0) 2000000 0).timeOf 0).toNat := by
  refine ⟨?_, ?_, ?_, ?_⟩
  · rcases timeOf_near (gang 0x61 5 0 (some 0) 3 0) 0 with h | h <;> rw [h] <;> decide
  · rcases timeOf_near (gang 0x61 5 0 (some 0) 5 0) 0 with h | h <;> rw [h] <;> decide
  · rcases timeOf_near (gang 0x81 5 1 (some 0) 1999998 0) 0 with h | h <;> rw [h] <;> decide
  · rcases timeOf_near (gang 0x81 5 1 (some 0) 2000000 0) 0 with h | h <;> rw [h] <;> decide

/-- WaitAndBudgetEvents: waits that end and do not, parked requests with their context running, resident and gone, TLBINV's
refusals, completions, periods, masters and kills. -/
theorem witness_WaitAndBudgetEvents : (let w : Watch := ⟨3, 0, 6, vaultPlace 0 64, 8, 5, 1, true, true, 0, 0⟩
     let s := st 0 6 (fun x => { x with slots := [(6, { Slot.idle with queue := [op5], hold := .wait 3 })] }) fun s => { s with watches := [w] }
     UnitsOk s ∧ CtxsOk s ∧ DiesOk s ∧ s.watches[0]? = some w ∧ w.met = true ∧ w.due ≤ s.cycle ∧ (s.unit 0).stream = false ∧
       ((s.unit 0).slot 6).hold = .wait w.id ∧ ({ w with met := false } : Watch).met = false) ∧
    (let o : QOp := { op5 with word := 0x1DC00000 }
     let s := st 0 1 (fun x => { x with slots := [(1, { Slot.idle with queue := [o], hold := .wait 9 })] }) id
     ((s.unit 0).slot 1).queue = o :: [] ∧ decodeSlot .sq o.word = .ok (some (.waitt 28)) ∧ ((s.unit 0).slot 1).hold = .wait 9) ∧
    (let f : Flight := { fly 1 (.req (.rsf 1) (vlt 64) []) with parked := true, path := pAT, task := none }
     let s := in0 6 [] fun s => { s with flights := [f] }
     (s.flights.filter fun f => f.parked && dieOf f.unit == 0 && s.flightCtx f == 0) = [f] ∧ s.glob.running = some 0 ∧
       (s.reqReach 0 0 false (.rsf 1) (vlt 64)).toBool = true) ∧
    (in0 6 [] id).flights = [] ∧ (in0 6 [] id).glob.running ≠ some 1 ∧ ((in0 6 [] id).ctx 1).state ≠ 1 ∧
    (in0 6 [] fun s => { s with glob := { s.glob with running := none } }).glob.running ≠ some 0 ∧ ((in0 6 [] id).ctx 0).state = 1 ∧
    (let w := ((0x80 : BitVec 64) ||| 0x80) &&& 0xFFFFFFFFFFFF00C7
     (w.extractLsb' 0 3).toNat = 0 ∧ w.extractLsb' 16 8 = 0 ∧ ((in0 6 [] id).ctx 0).tlbinv.getLsbD 7 = false) ∧
    (let s := in0 6 [] fun s => { s with ctxs := [(0, { ctx0 with tlbinv := 0x80 })] }
     (s.ctx 0).tlbinv.getLsbD 7 = true ∧ s.flights = []) ∧
    ((0x10080 : BitVec 64).extractLsb' 16 8 : BitVec 8) ≠ 0 ∧
    ((33 : Nat) % 34 = 33 ∧ (1 : Nat) % 24 ≠ 0) ∧ ¬ ((33 : Nat) % 34 = 33 ∧ (0 : Nat) % 24 ≠ 0) ∧ (15 : Nat) % 34 < 16 ∧
    ((tasked 6 [] false).unit 0).task = some task0 ∧ ((in0 6 [] id).unit 0).task = none ∧ (16 ≤ (31 : Nat) ∧ (31 : Nat) < 32) ∧
    (∀ x ∈ (in0 6 [] id).xfers, x.unit ≠ 15) ∧ ((in0 6 [] id).die 0).frozenColl = false := by
  simp only [UnitsOk, CtxsOk, DiesOk]
  exact ⟨⟨by decide, by decide, ⟨by decide, fun d => rfl⟩, by decide⟩, by decide +kernel⟩

/-- WaitAndBudgetEvents: a period before its boundary, and at it. -/
theorem witness_WaitAndBudgetEvents_period : ((in0 6 [] id).timeOf 0).toNat < ((in0 6 [] id).die 0).bbnext.toNat ∧
    ((in0 6 [] id).die 0).bbnext.toNat ≤ ((in0 6 [] fun s => { s with time := 1000000 }).timeOf 0).toNat := by
  constructor
  · rcases timeOf_near (in0 6 [] id) 0 with h | h <;> rw [h] <;> decide
  · rcases timeOf_near (in0 6 [] fun s => { s with time := 1000000 }) 0 with h | h <;> rw [h] <;> decide

/-- WaitAndBudgetEvents: registers that BOOTFAIL, and a failed link, keep the host from; accesses and waits that an invalidation of the
whole context waits for; a frozen core whose wait stands. -/
theorem witness_WaitAndBudgetEvents_reach :
    (let s := in0 6 [] id
     (s.glob.bootfail = false ∧ s.routeBad 0 23 = false) ∧
       ({ s with glob := { s.glob with bootfail := true } } : State).glob.bootfail = true ∧
       ({ s with glob := { s.glob with links := [(0, 1)] } } : State).routeBad 0 1 = true) ∧
    (let f := { fly 1 (.store [1]) with writes := true, spans := [(hbmPlace 0, 8)] }
     let s := in0 6 [] fun s => { s with flights := [f], watches := [⟨3, 0, 6, hbmPlace 0, 8, 5, 1, true, true, 0, 0⟩] }
     f ∈ s.flights ∧ f.open = true ∧ s.flightCtx f = 0 ∧ s.usesDropped 0 0xC0 (hbmPlace 0, 8) = true ∧ s.ctxOf 0 = 0) ∧
    (let s := st 0 6 (fun x => { x with frozen := true, slots := [(6, { Slot.idle with queue := [op5], hold := .done 0 })] }) id
     (s.unit 0).frozen = true ∧ ((s.unit 0).slot 6).hold = .done 0) := by decide
/-! ## Witnesses: the host and the machine as a whole -/

/-- A resident context whose vault window backs the first GiB of the CXL window at 1 GiB, reads and writes. -/
def hostSt (a : EvArg) (g : Glob → Glob) (c : Ctx → Ctx) : State :=
  { State.reset with
    ctxs := [(0, c { ctx0 with hmwin := BitVec.ofNat 128 (1 + 2 ^ 30 + 2 ^ 90 + 2 ^ 100) })],
    glob := g { State.reset.glob with apbase := 0x1000000000000000 }, arg := a }

/-- An access of `n` bytes of the aperture or a window, of a register or the MSI-X table. -/
def acc (off : Nat) (wide wr : Bool) : EvArg := ⟨0, 0, off, wide, wr, 0xFF00000000⟩

/-- HostEvents: an aperture access that passes, misaligned, past the aperture, of a context that is gone and under teardown,
with the port frozen. -/
theorem witness_HostEvents_bar4 : CtxsOk (hostSt (acc 0xFFFF8 true true) id id) ∧
    Tab.wf (1#128 <<< 96) (hostSt (acc 0xFFFF8 true true) id id).glob.msix = true ∧
    ((hostSt (acc 0xFFFF8 true true) id id).die 0).frozenHost = false ∧ (hostSt (acc 0 true true) id id).glob.bootfail = false ∧
    0xFFFF8 % 8 = 0 ∧ 0xFFFF8 < 2 ^ 36 ∧ 0xFFFFC % 8 ≠ 0 ∧ 2 ^ 36 ≤ 68719476736 ∧
    ((hostSt (acc 0 true true) id id).ctx 0).state = 1 ∧ ((hostSt (acc 0 true true) id fun c => { c with state := 2 }).ctx 0).state = 2 ∧
    ((hostSt (acc 0 true true) id fun c => { c with state := 0 }).ctx 0).state ≠ 1 ∧ (hostSt (acc 0 true true) id id).flights = [] ∧
    (hostSt (acc 0 true true) id id).reach 0x1FF 0 0 pHI .wr false 0x10000000000FFFF8 8 = .ok ⟨[(vaultPlace 0 0xFFFF8, 8)], []⟩ ∧
    (hostSt (acc 0 true true) id id).overBudget 0 33 (useOf [(vaultPlace 0 0xFFFF8, 8)]) = none ∧
    (({ hostSt (acc 0 true true) id id with dies := [(0, { Die.reset with frozenHost := true })] } : State).die 0).frozenHost = true := by
  simp only [CtxsOk]; decide +kernel

/-- HostEvents: an aperture access of accumulator space and a CXL.mem access of a page that is not mapped fault. -/
theorem witness_HostEvents_faults :
    ((hostSt (acc 0 true true) id id).reach 0x1FF 0 0 pHI .wr false 0x4000000000000000 8).toBool = false ∧
    ((hostSt (acc 0 true true) id id).reach 0x1FF 0 0 pHI .rd false 0 8).toBool = false := by decide +kernel

/-- HostEvents: accesses whose address is a multiple of their size and whose is not, with the aperture's base a multiple and not;
BOOTFAIL; a register block beyond a failed link. -/
theorem witness_HostEvents_skew :
    (let s := hostSt (acc 0xFFFF8 true true) id id
     (s.glob.apbase + BitVec.ofNat 64 0xFFFF8).toNat % 8 = 0 ∧ (s.glob.apbase + BitVec.ofNat 64 0xFFFFC).toNat % 8 ≠ 0) ∧
    (hostSt (acc 4 true true) id id).reach 0x1FF 0 0 pHI .wr false 0x1000000000000004 8 = .ok ⟨[(vaultPlace 0 4, 8)], []⟩ ∧
    (hostSt (acc 0 true true) (fun g => { g with bootfail := true }) id).glob.bootfail = true ∧
    (hostSt (acc 0x810000 true true) (fun g => { g with links := [(0, 1)] }) id).routeBad 0 ((0x810000 - 0x800000) / 0x10000) = true := by
  decide +kernel

/-- HostEvents: a CXL.mem access at the first byte of its window, at its last, and past it. -/
theorem witness_HostEvents_cxl : (let w := ((hostSt (acc 0x40000000 true true) id id).ctx 0).hmwin
     w.getLsbD 0 = true ∧ (w.extractLsb' 30 34).toNat * 2 ^ 30 = 0x40000000 ∧ (w.extractLsb' 90 10).toNat * 2 ^ 30 = 0x40000000 ∧
       w.getLsbD 100 = true ∧ ¬ 0x80000000 < 0x40000000 + 0x40000000) ∧
    (List.range 8).all (fun j => j == 0 || !((hostSt (acc 0 true true) id id).ctx j).hmwin.getLsbD 0) = true := by decide +kernel

/-- A context whose partition is the first GiB and whose first 64 KiB page is mapped there, its tables at 64 KiB. -/
def paged : State :=
  { hostSt (acc 0x40000000 true true) id (fun c => { c with
      ptroot := 0x10000, spart := 0x100, hmwin := BitVec.ofNat 128 (1 + 2 ^ 30 + 2 ^ 90 + 2 ^ 100) }) with
    mem := (List.range 5).flatMap fun k =>
      let p := 0x10000 + 0x10000 * k
      let e := if k = 4 then 2 + 4 + 8 else 1 + (p + 0x10000)
      (indexed' p (leBytes 8 e)).filter fun q => q.2 != 0 }
where
  /-- Bytes at consecutive places. -/
  indexed' (p : Nat) : List Byte → List Host.Cell
    | [] => []
    | b :: r => (p, b) :: indexed' (p + 1) r

/-- HostEvents: the page that a CXL.mem access reaches. -/
theorem witness_HostEvents_page : Memory.wf paged.mem = true ∧
    (match paged.reach 0x1FF 0 0 pHI .wr false 0 8 with
      | .ok q => q.spans == [(0, 8)] && (paged.overBudget 0 33 (useOf q.spans)).isNone
      | .error _ => false) = true := by decide +kernel

/-- HostEvents: MSI-X table writes of either half, registers of both widths, alerts that go out and that pend, links that fail
and that cannot. -/
theorem witness_HostEvents_registers : (0x7FF8 : Nat) < 0x8000 ∧ 0x7FF8 / 8 % 2 ≠ 0 ∧ 0x7FF0 / 8 % 2 = 0 ∧ (0x7FF8 : Nat) % 8 = 0 ∧
    (0x100000 + 0x10000 * 7 + 0x1B4) % 4 = 0 ∧ (0x180000 : Nat) ≤ 0x180000 ∧ (hostSt (acc 0 true true) id id).glob.swState ≠ 2 ∧
    (let g := (hostSt (acc 0 true true) (fun g => { g with msixEnable := true, msix := [(2047, 5)] }) id).glob
     g.msixEnable = true ∧ (g.vector 2047).getLsbD 96 = false) ∧ (hostSt (acc 0 true true) id id).glob.msixEnable = false ∧
    (hops 0 1 = 1 ∧ ((0 : Nat), (1 : Nat)) ∉ (hostSt (acc 0 true true) id id).glob.links) ∧ hops 0 2 ≠ 1 := by decide

/-- DeviceControl: registrations to begin, under way and ended; loads likewise; contexts in every state; partitions that fit,
overlap and do not. -/
theorem witness_DeviceControl_contexts : UnitsOk (hostSt (acc 0 true true) id id) ∧ CtxsOk (hostSt (acc 0 true true) id id) ∧
    Tab.wf 0 (hostSt (acc 0 true true) id id).code = true ∧ ctx0.gregc.getLsbD 31 = false ∧ (0x80000000 : BitVec 64).getLsbD 31 = true ∧
    ctx0.reging = none ∧ ({ ctx0 with reging := some (1, some echo) } : Ctx).reging = some (1, some echo) ∧ ctx0.registry.length < 256 ∧
    Die.reset.iclc.getLsbD 31 = false ∧ ({ Die.reset with iclc := 0x80000000 } : Die).iclc.getLsbD 31 = true ∧
    ((hostSt (acc 0 true true) id id).loadCode 0 0x81000000).2 = none ∧
    ((hostSt (acc 0 true true) id id).ctx ((0x81000000 : BitVec 64).extractLsb' 24 3).toNat).state ≠ 1 ∧ Die.reset.load = none ∧
    ({ Die.reset with load := some (1, 0, [5]) } : Die).load = some (1, 0, [5]) ∧ (in0 6 [] id).runs 0 = true ∧
    (let x := { Ctx.reset with spart := 0x0100 }
     x.state = 0 ∧ (x.spart.extractLsb' 8 6).toNat ≠ 0 ∧ (x.spart.extractLsb' 0 6).toNat + (x.spart.extractLsb' 8 6).toNat ≤ 48) ∧
    (let x := { Ctx.reset with spart := 0x012F }
     (x.spart.extractLsb' 0 6).toNat + (x.spart.extractLsb' 8 6).toNat ≤ 48) ∧
    ¬ (48 : Nat) + 1 ≤ 48 ∧ ctx0.state = 1 ∧ ({ ctx0 with state := 3 } : Ctx).state = 3 ∧ ({ ctx0 with state := 2 } : Ctx).state = 2 ∧
    (hostSt (acc 0 true true) id id).runs 0 = false := by
  simp only [UnitsOk, CtxsOk]; decide +kernel

/-- DeviceControl: the device before and after a failed boot, a die that the host reaches and one that it does not; a switch whose
outgoing context is torn down. -/
theorem witness_DeviceControl_reach : (hostSt (acc 0 true true) id id).glob.bootfail = false ∧
    (hostSt (acc 0 true true) (fun g => { g with bootfail := true }) id).glob.bootfail = true ∧ (hostSt (acc 0 true true) id id).routeBad 0 23 = false ∧
    (hostSt (acc 0 true true) (fun g => { g with links := [(0, 1)] }) id).routeBad 0 1 = true ∧
    ((in0 6 [] fun s => { s with glob := { s.glob with swStep := 1 } }).runs 0 = true ∧ (in0 6 [] id).glob.swStep ≠ 1) ∧ ctx0.fatal = false := by decide

/-- DeviceControl: DiesOk; controllers that may start, start in a running context and may not; the supervisor's; reports. -/
theorem witness_DeviceControl_controllers : DiesOk (hostSt (acc 0 true true) id id) ∧
    (let s := in0 6 [] id
     (∀ p ∈ (s.ctx 0).csctl, p.1 ≠ 0 → (p.2.extractLsb' 64 7).toNat ≠ 0) ∧ s.isSup 384 = false ∧ (0 : Nat) < 96 ∧ s.runs 0 = true ∧ s.glob.swState ≠ 2 ∧
       (s.unit 384).on = false) ∧
    (hostSt (acc 0 true true) (fun g => { g with svctl := 0x8000 }) id).isSup 384 = true ∧
    (384 + ((((95 : BitVec 64) ||| 0x8000) &&& 0x877F).extractLsb' 0 7).toNat < 480) ∧ (hostSt (acc 0 true true) id id).glob.svctl.getLsbD 15 = false ∧
    (hostSt (acc 0 true true) (fun g => { g with svctl := 0x8000 }) id).glob.svctl.getLsbD 15 = true ∧
    (hostSt (acc 0 true true) id id).glob.attctl.getLsbD 0 = false ∧ (hostSt (acc 0 true true) (fun g => { g with attctl := 1 }) id).glob.attctl.getLsbD 0 = true ∧
    (hostSt (acc 0 true true) id id).glob.attnonce.length = 32 := by
  simp only [DiesOk]
  exact ⟨⟨by decide, fun d => rfl⟩, by decide⟩

/-- RoundTrip: an operation of each kind of slot. -/
theorem witness_RoundTrip : (Instr.add 1 2 3).slotKind = some .sq ∧ (Instr.add 1 2 3).wf = true ∧ (Instr.vadd 0 1 2 0 3 0).slotKind = some .v ∧
    (Instr.mzero 7).slotKind = some .mx ∧ (Instr.gfree 3).slotKind = some .gn ∧ (Instr.lds 1 2 3).slotKind = some .me ∧
    (Instr.cpoll 1 2).slotKind = some .tx ∧ Instr.writePerformed.slotKind = none := by decide

/-- An operation with an ADD at the head of slot 1 of core 0, its guard as given, and a schedule that names it. -/
def scheduled (g : BitVec 2) (m : Move) : State :=
  let o : QOp := { op5 with word := 0x40110C00, guard := g }
  { st 0 1 (fun x => { x with slots := [(1, { Slot.idle with queue := [o] })] }) id with agenda := [m] }

/-- StepRunsDecoded: a head that runs, one whose guard is false, one that is blocked, an empty queue, an event and a unit that
is absent. -/
theorem witness_StepRunsDecoded :
    (let s := scheduled 0 (.slot 0 1)
     let b : State := { s with agenda := [] }
     let o : QOp := { op5 with word := 0x40110C00 }
     s.agenda = .slot 0 1 :: [] ∧ ((b.unit 0).slot 1).queue = o :: [] ∧ decodeSlot (slotKindOf 1) o.word = .ok (some (.add 1 2 3)) ∧
       b.blocked 0 1 o = none ∧ b.stampMet 0 o = true ∧ (b.unit 0).disp.buns = [] ∧ (b.unit 0).guard o.guard = true ∧
       ({ b.tried 0 1 o.seq with cur := ⟨0, 1, o⟩ } : State).portLoses 0 1 o (.add 1 2 3) = false ∧ b.glob.earlyTrap = false ∧
       (b.unit 0).spr.rfmode = 0xFF ∧ (b.unit 0).disp.wake = [] ∧ ((b.unit 0).slot 2).queue = []) ∧
    ((scheduled 1 (.slot 0 1)).unit 0).guard 1 = false ∧
    (let s := scheduled 0 (.slot 0 1)
     ({ s with units := [(0, { s.unit 0 with slots := [(1, { (s.unit 0).slot 1 with busy := 9 })] })] } : State).blocked 0 1 { op5 with word := 0x40110C00 } ≠ none) ∧
    (480 : Nat) ≤ 480 ∧ decodeTableWord 32 0x40110C00 = some (.chdef 2 4 6) ∧ 0x40110C00 < 2 ^ 32 := by decide +kernel

/-- StepRunsDecoded: guards of colliding slots that can be read together; a head that loses its port to an older one; a false guard that
is on its way, and one that is not. -/
theorem witness_StepRunsDecoded_pairs :
    (let o : QOp := { op5 with word := 0x40110C00 }
     let n : Bun := ⟨5, 40, false, 0, .reset, none, false, [], [(1, 2)], none, false, false⟩
     let s := st 0 1 (fun x => { x with
       slots := [(1, { Slot.idle with queue := [o] }), (2, { Slot.idle with queue := [o] })], disp := { x.disp with seq := 6, buns := [n] } }) id
     s.pairsReady 0 n = true ∧ ((s.unit 0).disp.buns.find? fun b => b.seq == o.seq && s.pairsReady 0 b) = some n) ∧
    (let s := scheduled 1 (.slot 0 1)
     let o : QOp := { op5 with word := 0x40110C00, guard := 1 }
     (s.unit 0).guardOf 1 o = false ∧ s.blocked 0 1 o = none ∧ s.stampMet 0 o = true ∧ s.earlyGuard 0 o = none ∧
       (({ s with landings := [⟨0, 3, 24, 1, 0, 9, .guard 1 true 0⟩], glob := { s.glob with earlyTrap := true } } : State).earlyGuard 0 o).isSome = true) ∧
    (let s := st 0 4 (fun x => { x with
       slots := [(3, { Slot.idle with queue := [{ op5 with seq := 4, word := encode (.vadd 0 1 2 0 3 0) }] }), (2, Slot.idle)] }) id
     s.portLoses 0 2 { op5 with word := encode (.vadd 0 1 2 0 3 0) } (.vadd 0 1 2 0 3 0) = true) := by decide +kernel

/-- A fault of bundle 5, slot 1, of core 0. -/
def pend5 : Pend := ⟨5, 40, 1, 0x30, 17, 17, 0, 0, 0, 0, 7, 0, 0, true⟩

/-- ExceptionEntry: a task whose context has a handler, one whose context has none, a controller with room in its log. -/
theorem witness_ExceptionEntry :
    (let s := st 0 1 (fun x => { x with task := some task0, disp := { x.disp with seq := 6, pend := some pend5 } })
       fun s => { s with ctxs := [(0, { ctx0 with tctl := 0x2005 })], glob := { s.glob with running := some 0 } }
     UnitsOk s ∧ CtxsOk s ∧ MemoryOk s ∧ (s.unit 0).disp.pend = some pend5 ∧ s.deliverable 0 pend5 = true ∧ (s.unit 0).stream = false ∧
       (s.unit 0).task ≠ none ∧ (s.unit 0).spr.sup = false ∧ (s.ctx 0).tctl.getLsbD 13 = true ∧ pend5.code ≠ 0x22 ∧ pend5.code ≠ 0x31) ∧
    ctx0.tctl.getLsbD 13 = false ∧
    (let s := st 384 1 (fun x => { x with disp := { x.disp with pend := some pend5 } })
       fun s => { s with ctxs := [(0, { ctx0 with flbase := vlt 0x10000 })], glob := { s.glob with running := some 0 } }
     ((0 : Nat) + 65536 - 0) % 65536 ≠ 16 ∧ (vlt 0x10000).toNat / 2 ^ 60 ≤ 1 ∧ (s.ctx 0).flctl = 4 ∧ s.ctxOf 384 = 0 ∧
       s.reach 0x1FF 0 0 pHI .wr false (vlt 0x10000) 64 = .ok ⟨[(vaultPlace 0 0x10000, 64)], []⟩) := by
  simp only [UnitsOk, CtxsOk, MemoryOk]; decide +kernel

/-- UserModeKeepsTrapState: SETSP of a user register leaves its write on its way in user mode. -/
theorem witness_UserModeKeepsTrapState : UnitsOk (at0 1 []) ∧ (Instr.setsp 1 0x016).slotKind ≠ none ∧ (at0 1 []).me.spr.sup = false ∧
    (at0 1 []).isSup (at0 1 []).u = false ∧
    nextIs (exec (.setsp 1 0x016) (at0 1 [])) (fun t => t.landings.any fun l => l.what == .spr 0x016 0) = true := by
  simp only [UnitsOk]; decide +kernel

/-- AddressChecks: a walk that ends in a page, one that finds nothing and one that finds a malformed entry. -/
theorem witness_AddressChecks_walk : (walk paged.mem (fun _ => false) [] 4 0x10000 0).sub = 0 ∧
    (walk paged.mem (fun _ => false) [] 4 0x10000 0).lvl = 0 ∧ (walk paged.mem (fun _ => false) [] 4 0x10000 0x10000).sub = 1 ∧
    (walk [(0x10000, 3)] (fun _ => false) [] 4 0x10000 0).sub = 3 ∧ (walk paged.mem (fun t => t == 0) [] 4 0x10000 0).sub = 16 ∧
    (walk paged.mem (fun _ => false) [0x20000] 4 0x10000 0).sub = 5 ∧
    paged.tlbHit 0 0 0 = none ∧ (0 : Nat) % 65536 + 65536 ≤ 65536 ∧ permits .wr true true false = true ∧ permits .wr true false false = false ∧
    paged.routeBad 0 0 = false ∧ ({ paged with glob := { paged.glob with links := [(0, 1)] } } : State).routeBad 0 1 = true := by decide +kernel

/-- AddressChecks: a matrix operand in the core's home vault, in another vault of its die, and on another die. -/
theorem witness_AddressChecks_home : (let p := 0 * 2 ^ 20 + 0xFFF00
     p / 2 ^ 25 = coreIn 0 ∧ (p + 256 - 1) / 2 ^ 25 = coreIn 0 ∧ p / 2 ^ 25 ≠ coreIn 1) ∧ ((vlt 0).extractLsb' 29 5).toNat = 0 ∧ dieOf 16 ≠ 0 ∧
    (in0 4 [] id).routeBad 1 0 = false := by decide

/-- AddressChecks: each space at the edges of its fields. -/
theorem witness_AddressChecks_spaces : ((0x5000000000000000 : BitVec 64).extractLsb' 60 4).toNat = 5 ∧
    ((0x0100000000000000 : BitVec 64).extractLsb' 56 4) ≠ 0 ∧ ((vlt 0xFFFFF).extractLsb' 60 4) = 1 ∧
    (0xFFFFF + 1 ≤ ((0x100000000 : BitVec 64).extractLsb' 32 10).toNat * 2 ^ 20) ∧ ¬ 0x100000 + 1 ≤ ((0x100000000 : BitVec 64).extractLsb' 32 10).toNat * 2 ^ 20 ∧
    24 ≤ ((0x1000000300000000 : BitVec 64).extractLsb' 29 5).toNat ∧ ((0x1000000400000000 : BitVec 64).extractLsb' 34 26) ≠ 0 ∧
    (own 0x7FFFFF).getLsbD 28 = true ∧ ((own 0x7FFFFF).extractLsb' 34 26) = 0 ∧ ((own 0x7FFFFF).extractLsb' 23 4).toNat = 0 ∧
    (0x7FFFFF + 1 ≤ 2 ^ 23) ∧ 2 ^ 23 < 0x7FFFFF + 2 ∧ (0x2000000000800000 : BitVec 64).getLsbD 28 = false ∧
    ((0x2000000000800000 : BitVec 64).extractLsb' 23 4).toNat = 1 ∧ (0x2000000008000000 : BitVec 64).getLsbD 27 = true ∧
    ((0x3000000000001000 : BitVec 64).extractLsb' 60 4) = 3 ∧ ((0x400000000007FFFC : BitVec 64).extractLsb' 60 4) = 4 ∧
    0x7FFFC + 4 ≤ 2 ^ 19 ∧ 2 ^ 19 < 0x7FFFC + 5 := by decide

/-- AddressChecks: a host window that admits an access at both of its ends, one that admits no write, and none. -/
theorem witness_AddressChecks_host : (let w : BitVec 128 := BitVec.ofNat 128 (1 + 2 * 2 ^ 12 + 3 * 2 ^ 76)
     w.getLsbD 0 = true ∧ w.getLsbD 1 = false ∧ (w.extractLsb' 12 48).toNat = 2 ∧ (w.extractLsb' 76 48).toNat = 3 ∧ 2 ≤ 0x2000 / 4096 ∧
       (0x2000 + (0x2000 - 1)) / 4096 ≤ 3) ∧ ({ ctx0 with hwin := [(0, 3)] } : Ctx).hwin = [(0, 3)] ∧ ctx0.hwin = [] := by decide

/-! ## Witnesses: faults found after issue, and what ports answer -/

/-- Core 0 in its handler, `op5` a SYSRET that resumes at slot 1 of bundle 2, with three operations of slot 2 to skip, of which one
was found faulty while the handler ran. -/
def handling (k : Nat) (g : State → State) : State :=
  st 0 k (fun x => { x with
    spr := { x.spr with sup := true, epc := BitVec.ofNat 64 (2 * 2 ^ 51 + 2 ^ 48 + 3 * 2 ^ 5) },
    disp := { x.disp with seq := 6, base := 1, gaps := [(2, 4, true), (2, 7, false)] } }) g

/-- SysretReturns: the operation whose fault was found late is not skipped. -/
theorem witness_SysretReturns_gaps : (handling 1 id).earlierIssued 0 5 = true ∧ (handling 1 id).landed 0 5 = true ∧
    ((handling 1 id).me.disp.gaps.filter fun e => e.1 == 2 && e.2.2).length = 1 ∧
    nextIs (exec .sysret (handling 1 id)) (fun t => (t.unit 0).disp.skips.getD 2 0 == 2 && !(t.unit 0).spr.sup &&
      (t.unit 0).front.pc == 2) = true := by decide +kernel

/-- MatrixEvents and ExceptionEntry: GEN_BOUND of a later bundle before the handler of an earlier fault runs, and while it runs; an
earlier fault delivered with an operation of a later bundle put aside. -/
theorem witness_MatrixEvents_late :
    (let p : Pend := ⟨3, 24, 5, 0x10, 1, 0, 0, 0, 0, 0, 7, 0, 0, true⟩
     let f : Flight := { fly 1 (.bound (some 4)) with bad := some p }
     let s := handling 5 fun s => { s with flights := [f] }
     s.flights[0]? = some f ∧ f.due ≤ s.cycle ∧ s.current f = true ∧ (s.unit 0).spr.sup = true ∧ f.sup = false ∧
       nextIs (exec .genBoundDetected s) (fun t => (t.unit 0).disp.pend.isNone &&
         (t.unit 0).disp.gaps == [(2, 4, true), (2, 7, false), (6, 2, true)]) = true) ∧
    (let s := st 0 1 (fun x => { x with
         task := some task0, slots := [(6, { Slot.idle with queue := [{ op5 with seq := 8 }] })], disp := { x.disp with seq := 9, undone := [(6, 7)], ahead := [(6, 9)] } }) id
     (s.unit 0).issuedFrom 5 6 = 3 ∧ (s.unit 0).gapsFrom 5 = [(6, 2, false), (6, 3, false)]) := by decide +kernel

/-- PortOperations: two additions to one word, which the port merges. -/
theorem witness_PortOperations_merged :
    let q : Flight := { fly 1 (.req (.atom 0 0 false 1) (vlt 64) [.s 1]) with
      path := pAT, reads := true, writes := true, spans := [(vaultPlace 0 64, 4)] }
    let h : Flight := { q with id := 2, what := .req (.atom 0 0 false 4) (vlt 64) [.s 2] }
    let s := in0 6 [] fun s => { s with mem := [(vaultPlace 0 64, 3)], flights := [q, h], arg := { s.arg with m := 1 } }
    AtPort s q (.atom 0 0 false 1) (vlt 64) [.s 1] (vaultPlace 0 64) ∧ MemoryOk s ∧ h ∈ s.flights ∧ h.id ≠ q.id ∧
      h.place = vaultPlace 0 64 ∧ (s.entryAt q).pendingIn (vaultPlace 0 64 / 64) h = true ∧
      (∀ j ∈ s.flights, j.id ≠ q.id → (s.entryAt q).pendingIn (vaultPlace 0 64 / 64) j = true → j = h) ∧
      nextIs (exec .portSyncOperation s) (fun t => rd32 t.mem (vaultPlace 0 64) == 8 && t.flights.all fun j =>
        j.what == .result [(.s (BitVec.ofNat 5 j.id), .scalar (if j.id == 1 then 3 else 4))] 0) = true := by
  simp only [AtPort, MemoryOk]; decide +kernel

/-- PortOperations: deques whose capacity field is past 58, and with more entries than their capacity; a barrier with a reserved byte
and one that is full. -/
theorem witness_PortOperations_malformed :
    [(vaultPlace 0 64 + 17, (1 : Byte)), (vaultPlace 0 64 + 8, 2)].all (fun c =>
      [Req.push 9, .pop, .steal].all fun r =>
        let ds : List Stor := match r with | .push _ => [.s 1] | _ => [.s 1, .s 2]
        let s := port r (vlt 64) ds (vaultPlace 0 64) 64 [c]
        stands s && nextIs (exec .portSyncOperation s) (fun t => t.mem == s.mem && t.flights.any fun j => match j.what with
          | .result ((d, v) :: _) _ => d == .s 1 && v == .scalar 3
          | _ => false)) = true ∧
    [[(vaultPlace 0 64, (2 : Byte)), (vaultPlace 0 64 + 12, 1)], [(vaultPlace 0 64, 2), (vaultPlace 0 64 + 4, 2)]].all (fun m =>
      let s := port .bara (vlt 64) [.s 1] (vaultPlace 0 64) 64 m
      stands s && nextIs (exec .portSyncOperation s) (fun t => t.mem == s.mem && t.flights.any fun j =>
        j.what == .result [(.s 1, .scalar (BitVec.allOnes 64))] 0)) = true := by decide +kernel

/-- PortOperations: BFIN.V's first object of two, and its last. -/
theorem witness_PortOperations_vector :
    [[], [(0, (7 : Word))]].all (fun (got : List (Nat × Word)) =>
      let s := { port (.bfin true 2 got 0) (vlt 64) [.v 1] (vaultPlace 0 64) 32 [] with
        flights := [{ fly 1 (.req (.bfin true 2 got 0) (vlt 64) [.v 1]) with
          path := pAT, reads := true, spans := [(vaultPlace 0 64, 32), (vaultPlace 0 96, 32)] }],
        arg := { EvArg.zero with m := got.length } }
      (s.flights.headD (fly 0 (.store []))).spans[s.arg.m]? == some (vaultPlace 0 64 + 32 * s.arg.m, 32) &&
        nextIs (exec .portSyncOperation s) (fun t => match (t.flights.headD (fly 0 (.store []))).what with
          | .req (.bfin true 2 got _) _ _ => got.length == 1 && s.arg.m == 0
          | .result [(d, .runs r)] _ => d == .v 1 && r.length == 2 && (r.headD nullRun).val == 7 && s.arg.m == 1
          | _ => false)) = true := by decide +kernel

/-! ## Witnesses: the ends of calls, and what the switch answers -/

/-- `coll` with entry `ch` of context 0 changed, and scalars. -/
def collWith (l : List (Nat × BitVec 64)) (ch : Nat) (f : Chan → Chan) : State :=
  coll l fun s => { s with ctxs := s.ctxs.map fun c => (c.1, { c.2 with chans := c.2.chans.map fun x => (x.1, if x.1 == ch then f x.2 else x.2) }) }

/-- Whether the last flight delivers a value to a scalar. -/
def sent (t : State) (d : BitVec 5) (v : BitVec 64) : Bool := t.flights.getLast?.any fun f => f.what == .result [(.s d, .scalar v)] 0

/-- CallIssue: CSEND and CSWR on an aborted entry; CRECV of a reduction over one member. -/
theorem witness_CallIssue_ended :
    (let s := collWith [(2, 3)] 1 fun x => { x with aborted := true, sseq := 9 }
     s.defining 0 1 = false ∧ (s.myChan 1).defd = true ∧ (s.myChan 1).die = 0 ∧ (s.myChan 1).stale = false ∧ (s.myChan 1).aborted = true ∧
       (s.myChan 1).kind = 0 ∧ (s.rs 2).toNat = 3 ∧
       nextIs (exec (.csend 1 6 2 4 0) s) (fun t => t.calls == [] && sent t 4 9) = true) ∧
    (let s := collWith [] 2 fun x => { x with aborted := true }
     (s.myChan 2).aborted = true ∧ (s.myChan 2).kind = 2 ∧ (s.myChan 2).fmt = 0 ∧
       nextIs (exec (.cswr 2 6 4 0 0) s) (fun t => t.calls == [] && sent t 4 (2#64 <<< 32)) = true) ∧
    (let s := { collWith [(2, 2), (1, own 0)] 3 fun x => { x with desc := (x.desc.set 1 (BitVec.ofNat 64 (0xFFF + 2 ^ 30 + 2 ^ 40 + 2 ^ 48))) } with
       tiles := [(0, (false, 1)), (1, (false, 1))] }
     let s : State := { s with ctxs := s.ctxs.map fun c => (c.1, { c.2 with ports := [(0, bind7 - BitVec.ofNat 128 (2 ^ 32))] }) }
     (s.myChan 3).senders (s.bindOf 0 (s.myChan 3)) = [] ∧ (s.myChan 3).armed + 2 ≤ (s.myChan 3).depth ∧ (s.myChan 3).aborted = false ∧
       s.reach 0 (dieOf 0) 0 pCO .wr false (s.rs 1) (4096 * 2) = .ok ⟨[(scratchPlace 0 0, 4096 * 2)], []⟩ ∧
       nextIs (exec (.crecv 3 1 2 4 0) s) (fun t => t.calls == [] && t.isFull 0 && t.isFull 1) = true) := by
  decide +kernel

/-- CallArrivals: the last count of a CA2AC, one whose sum does not fit, the last partial of a norm, digests that agree and that
differ. -/
theorem witness_CallArrivals_ends :
    ([((3 : BitVec 64), (0x100000008 : BitVec 64)), (0xFFFFFFFF, 0x600000000)].all fun (y : BitVec 64 × BitVec 64) =>
      let k := { callOn 3 with dst := some 4, next := 3, got := [(0, y.1)], base := own 0x1000 }
      let p := fits (pkt pkCount 0 [5]) k
      let s := arriving p k
      taken p k && !k.post && !s.coWriting k.id && nextIs (exec .collectivePacketArrival s) fun t => t.fabric == [] &&
        if y.1 == 3 then t.calls.length == 1 && t.mem == s.mem && t.flights.any (fun f => f.path == pCO && f.writes &&
          f.spans == [(scratchPlace 0 0x1048, 16)] &&
          f.what == .coStore k.id [3, 0, 0, 0, 5, 0, 0, 0, 0, 0, 0, 0, 3, 0, 0, 0] [(tileOf (scratchPlace 0 0x1048), 0)])
        else t.calls == [] && sent t 4 y.2) = true ∧
    (arriving (pkt pkCount 0 [5]) (callOn 3)).reach 0 0 0 pCO .wr false (own 0x1000 + BitVec.ofNat 64 (64 + 4 * 2)) 16 =
      .ok ⟨[(scratchPlace 0 0x1048, 16)], []⟩ ∧
    (let k := { callOn 7 with dst := some 4, next := 9, got := [(0, 0x3F800000)], tiles := [(scratchPlace 0 0, 0)] }
     let p := fits (pkt pkNorm 0 [0x3F800000]) k
     taken p k = true ∧ (k.n + 1) * (((coll [] id).chan 0 4).senders ((coll [] id).bindOf 0 ((coll [] id).chan 0 4))).length ≤ k.next ∧
       nextIs (exec .normPartialArrival (arriving p k)) (fun t => t.calls == [] && sent t 4 0x20140000000) = true) ∧
    ([5, 6].all fun (x : BitVec 64) =>
      let k := { callOn 6 with next := 3, got := [(0, x)] }
      let p := fits (pkt pkDig 0 [5, 0]) k
      taken p k && nextIs (exec .digestArrival (arriving p k)) fun t => t.calls == [] && t.fabric == []) = true := by decide +kernel

/-- CallArrivals: an arm notice for a CSEND of another signature, and a payload for the vault over the engine's budget. -/
theorem witness_CallArrivals_admitted :
    (let k := callOn 1
     let p := pkt pkArm ((coll [] id).expects (pkt pkArm 0 []) k + 1) []
     let s := arriving p k
     s.callFor p 0 p.wants = some k ∧ s.callPaused k = false ∧ s.expects p k ≠ p.sig ∧ p.noticeToSend = true ∧
       nextIs (exec .armNoticeArrival s) (fun t => t.fabric == [] && t.calls == [{ k with notices := [(p.tile, p.src, p.va, 0)] }]) = true) ∧
    (let k := callOn 4
     let p := fits { pkt pkPay 0 [5] with va := vlt 0x1000 } k
     let s := { arriving p k with dies := [(0, { Die.reset with budgets := [(budgetKey 32 0, ⟨false, 7, 7⟩)] })] }
     taken p k = true ∧ s.reach 0 0 0 pCO .wr false (vlt 0x1000) 4 = .ok ⟨[(vaultPlace 0 0x1000, 4)], []⟩ ∧
       (s.overBudget 0 32 (useOf [(vaultPlace 0 0x1000, 4)])).isSome = true) := by decide +kernel

/-- A CSWR in flight whose contribution is out, and a GAGREE. -/
def joined (kind : Nat) (seq : Word) : Call := { callOn 5 with kind := kind, dst := some 4, next := 1, seq := seq }

/-- The contribution of that call, as its port sends it. -/
def part (kind : Nat) (w : Word) : Packet := { pkt kind 77 [w] with srcDie := some 0, call := 4, src := 0 }

/-- SwitchSteps: a contribution that comes after its slot was freed, its port's and another's; the last of a slot and the timer, which
deliver to the calls of this package; an agreement's timer. -/
theorem witness_SwitchSteps_results :
    (let s := { switching (part pkSwr 1) [] 0 with calls := [joined 5 0], switch := { slots := [], freed := [(7, some 0)], version := [], bound := [] } }
     s.withdrawn (part pkSwr 1) = false ∧ s.dropCause (part pkSwr 1) = none ∧ s.switch.late 7 0 = true ∧
       ({ s with fabric := [pkt pkSwr 77 [1]] } : State).dropCause (pkt pkSwr 77 [1]) = none ∧ (joined 5 0).bears = true ∧
       nextIs (exec .switchContribution s) (fun t => t.calls == [] && t.fabric == [] && sent t 4 (0x47FC00000)) = true) ∧
    (let s := { switching (part pkSwr 5) [slot7 false 2] 19999 with calls := [joined 5 0] }
     s.withdrawn (part pkSwr 5) = false ∧ (slot7 false 2).expired s.time = false ∧ ((coll [] id).chan 0 2).rpt = 0 ∧
       nextIs (exec .switchContribution s) (fun t => t.calls == [] && t.switch.slots == [] && t.switch.late 7 0 && sent t 4 0x20100000005) = true) ∧
    (let s := { switching (part pkSwr 5) [{ slot7 false 3 with parts := [part pkSwr 5] }] 20000 with calls := [joined 5 0], fabric := [] }
     ({ slot7 false 3 with parts := [part pkSwr 5] } : SwSlot).expired s.time = true ∧
       nextIs (exec .switchSlotTimeout s) (fun t => t.calls == [] && t.switch.slots == [] && sent t 4 0x10300000005) = true) ∧
    (let s := { switching (part pkAgree 1) [{ slot7 true 3 with parts := [part pkAgree 1] }] 100000000 with calls := [joined 8 0], fabric := [] }
     ({ slot7 true 3 with parts := [part pkAgree 1] } : SwSlot).expired s.time = true ∧ ((part pkAgree 1).words.headD 0).getLsbD 0 = true ∧
       nextIs (exec .agreementTimeout s) (fun t => t.calls == [] && t.switch.slots == [] &&
         Tab.get none t.switch.version 7 == some 1) = true) := by decide +kernel

/-- WaitAndBudgetEvents: a copy in a transfer queue, and a call of a frozen collective engine, that KILL ends. -/
theorem witness_WaitAndBudgetEvents_kill :
    (let x : Xfer := { (in0 7 [] id).xfer 3 0 .copy [⟨own 0, own 8192, 8⟩] with left := [2, 3], tiles := [(2, 0), (3, 0)] }
     let s := in0 7 [] fun s => { s with xfers := [x], arg := { s.arg with m := 16 } }
     x.unit = 16 * 0 + 16 - 16 ∧ x.kind ≠ .transform ∧ x.recd = false ∧ x.tok ≠ 0 ∧ s.xferCurrent x = true ∧ s.glob.bootfail = false ∧
       s.routeBad 0 0 = false ∧ nextIs (exec .budgetKill s) (fun t => (t.unit 0).ringGet x.tok == 3 &&
         t.xfers.all fun y => y.recd && y.rows == [] && !y.left.contains (tileOf (scratchPlace 0 8192))) = true) ∧
    (let k := callOn 1
     let s := { coll [] id with calls := [k], dies := [(0, { Die.reset with frozenColl := true })], arg := { EvArg.zero with m := 32 } }
     (s.die 0).frozenColl = true ∧ k.die = 0 ∧ k.fin = false ∧ s.binding 0 0 7 = some bind7 ∧
       nextIs (exec .budgetKill s) (fun t => (List.range 2).all fun r => t.fabric.any fun p =>
         p.kind == pkAbort && p.handle == 7 && p.srcDie == some 0 && p.dst == r) = true) := by decide +kernel

/-- A switch in its first step since time 0 at time `x`, a contribution of a CSWR not concluded. -/
def late5 (x : BitVec 64) : State := { coll [] id with
  calls := [joined 5 0], time := x, glob := { (coll [] id).glob with swStep := 1 } }

/-- Its late contributions, by the counter of the call's die. -/
theorem late5_parts (x : BitVec 64) : (late5 x).lateParts 0 = if 1200000 ≤ ((late5 x).timeOf 0).toNat then [joined 5 0] else [] := by
  have e : (late5 x).glob.swTime.toNat + ((late5 x).ctx 0).switchLimit.toNat = 1200000 := by
    show (late5 0).glob.swTime.toNat + ((late5 0).ctx 0).switchLimit.toNat = 1200000; decide
  have c : ((late5 x).contributing 0 (joined 5 0) && (joined 5 0).status == 0 &&
    !(late5 x).fabric.any fun p => p.kind == pkAbort && p.call == (joined 5 0).id) = true := rfl
  unfold State.lateParts
  rw [if_pos (show ((late5 x).glob.swStep == 1) = true from rfl)]
  show List.filter _ [joined 5 0] = _
  simp only [List.filter_cons, List.filter_nil, show (joined 5 0).die = 0 from rfl, show (0 : BitVec 3).toNat = 0 from rfl, e,
    Bool.and_eq_true, decide_eq_true_eq]
  simp only [Bool.and_eq_true] at c
  simp only [c, and_true]

/-- GangSwitchEvents: no contribution is late before the limit, and one that no core awaits is past it. -/
theorem witness_GangSwitchEvents_parts :
    (coll [] id).lateParts 0 = [] ∧ (late5 0).contributing 0 (joined 5 0) = true ∧ (late5 1199998).lateParts 0 = [] ∧
      (late5 1200000).lateParts 0 = [joined 5 0] ∧ (late5 0).maySave 0 = false := by
  refine ⟨by decide, by decide, ?_, ?_, by decide⟩ <;> rw [late5_parts]
  · rcases timeOf_near (late5 1199998) 0 with h | h <;> rw [h] <;> decide
  · rcases timeOf_near (late5 1200000) 0 with h | h <;> rw [h] <;> decide

/-- StepRunsDecoded: of a bundle whose colliding slots 1 and 2 have had their guards read, the guard of slot 3 has still to be read. -/
theorem witness_StepRunsDecoded_read :
    let n : Bun := ⟨5, 40, false, 0, .reset, none, false, [], [(1, 2)], some [(1, true), (2, true)], false, false⟩
    let x := (st 0 1 (fun x => { x with disp := { x.disp with seq := 6, buns := [n] } }) id).unit 0
    x.guardRead 1 op5 = true ∧ x.guardRead 3 op5 = false := by decide

/-- PlaneLoads, MatrixPasses and Adapters: a granule that the matrix engine has read ahead in the cycle in which another core's store to its
row performs; one whose tile is empty, and one that the core's own store is about to change, are not read ahead. -/
theorem witness_MatrixPasses_ahead :
    let p := scratchPlace 0 0x1000
    let s : State := { at0 4 [] with mem := [(p, 3)] }
    let t := (s.operandPart 0 (p + 3)).write p [5, 6, 7, 8, 9, 10, 11, 12, 13]
    rdBytes (t.mxMem 0) p 9 = [3, 0, 0, 0, 0, 0, 0, 0, 13] ∧ rdBytes (t.mxMem 1) p 9 = rdBytes t.mem p 9 ∧
      (({ s with tiles := [(tileOf p, (false, 1))] } : State).operandPart 0 p).seen = [] ∧
      (({ s with flights := [{ fly 1 (.store [1]) with writes := true, spans := [(p, 1)] }] } : State).operandPart 0 p).seen = [] := by
  decide +kernel


/-! ## Witnesses: reads cycle by cycle, and what they hold -/

/-- A stream of unit 0 in bundle 3 with reads to come and bytes read, the last first, in a cycle in which the line at `p` is read. -/
def reading (p : Nat) (todo : List (Nat × Nat × Nat)) (got : List (List Byte)) : Stream := ⟨9, 0, 3, none, true, todo, [(p, 64)], got, (0, 0)⟩

/-- LandingEvents: a load and a store of two granules of which the first lies in a bank that is read, and neither. -/
theorem witness_LandingEvents_banks :
    (let p := scratchPlace 0 0x1038
     let f := { fly 1 (.store [1, 2, 3, 4, 5, 6, 7, 8, 9, 10, 11, 12, 13, 14, 15, 16]) with writes := true, spans := [(p, 16)] }
     let s : State := { at0 6 [] with flights := [f], streams := [reading (scratchPlace 0 0x1000) [] []] }
     s.mayPerform f = true ∧ s.writeWaits f = true ∧ granuleParts f.spans = [(p, 8), (p + 8, 8)] ∧ s.bankBusy (p, 8) = true ∧
       s.bankBusy (p + 8, 8) = false ∧ ({ s with streams := [] } : State).writeWaits f = false ∧
       nextIs (exec .writePerformed s) (fun t => rdBytes t.mem p 16 == List.replicate 8 0 ++ [9, 10, 11, 12, 13, 14, 15, 16] &&
         t.flights.map (fun g => (g.what, g.spans)) == [(.store [1, 2, 3, 4, 5, 6, 7, 8], [(p, 8)])]) = true) ∧
    (let p := scratchPlace 0 0x1038
     let f := { fly 1 (.load (.s 3) (.scalar 8 false) []) with reads := true, spans := [(p, 16)] }
     let s : State := { at0 6 [] with flights := [f], streams := [reading (scratchPlace 0 0x1000) [] []] }
     s.mayArrive f = true ∧ (f.open && s.banksHold [] f.spans) = true ∧
       (f.open && ({ s with streams := [] } : State).banksHold [] f.spans) = false ∧
       nextIs (exec .presenceResultArrives s) (fun t => match (t.flights.headD f).what with
         | .load _ _ got => got.map (·.1) == (List.range 8).map (p + 8 + ·)
         | _ => false) = true) := by decide +kernel

/-- PlaneLoads, MatrixPasses and Adapters: a stream that has read all, and what a row, a column, a plane and an adapter row take from it. -/
theorem witness_MatrixPasses_streams :
    (let g := (List.range 128).map fun k => List.replicate 8 (BitVec.ofNat 8 (k + 1))
     let r := reading 0 [] g
     let s : State := { at0 4 [] with streams := [r] }
     let m : MxLoad := ⟨0, none, ⟨[], 0, 8, List.replicate 512 0, false⟩, false, false, some 9, [], 0⟩
     let w : RowWork := ⟨0, [], 0, 8, none, ⟨[], 0, 0, List.replicate 512 0, false⟩, List.replicate 128 true, none, some (9, .row 2)⟩
     m.stream = some r.id ∧ s.stream? r.id = some r ∧ r.got.length = 128 ∧
       (s.resolve w).codes.getD 0 0 = 0x7E7E ∧
       (s.resolve { w with src := some (9, .column 0 4 2) }).codes.take 2 = [0x8080, 0x7F7F]) ∧
    (let r : Stream := reading 0 [] (List.replicate 2 (List.replicate 256 (0x3F : Byte)) ++ List.replicate 128 [(0x3F : Byte), 0x3F])
     ((List.range 130).all fun k => (r.chunk [] k).length == if k < 128 then 2 * 1 else 256) = true ∧
       (({ at0 4 [] with streams := [r] } : State).stream? 9).isSome = true) := by decide +kernel

/-- TransformIssue and TransferEvents: a transform with reads to come and one that has made them; what is left to be written and nothing;
runs that are malformed, and a destination past the scratchpad. -/
theorem witness_TransformIssue_work :
    (let w : XWork := .xpose 1
     let x : Xfer := { (at0 7 []).xfer 0 0 .transform [] with work := some (9, w) }
     let r (todo : List (Nat × Nat × Nat)) : Stream := { reading 0 todo [[1, 2, 3, 4]] with mx := false }
     let s (todo : List (Nat × Nat × Nat)) : State := { at0 7 [] with xfers := [x], streams := [r todo] }
     x.work = some (9, w) ∧ (s []).stream? 9 = some (r []) ∧ (r [(1, 2, 3)]).todo ≠ [] ∧ (r []).todo = [] ∧
       (w.result 0 (r []).got.reverse.flatten).2.2 = none ∧ x.kind = .transform ∧ x.work ≠ none) ∧
    (let x : Xfer := { (at0 7 []).xfer 0 0 .transform [⟨0, 64, 4⟩] with tok := 1, due := 0, buf := [1, 2, 3, 4], left := [0] }
     let s : State := { at0 7 [] with xfers := [x] }
     x.work = none ∧ x.due ≤ s.cycle ∧ s.heldXfer x.unit = false ∧ s.xferCurrent x = true ∧ x.rows = [⟨0, 64, 4⟩] ∧
       nextIs (exec .transformComplete s) (fun t => rdBytes t.mem (scratchPlace 0 64) 4 == [1, 2, 3, 4] && t.isFull 0) = true) ∧
    (let hdr (n : Byte) : List Byte := List.replicate 8 0 ++ n :: List.replicate 23 0
     blockRunsOk (blockHdr (hdr 0)) [] = true ∧ blockRunsOk (blockHdr (hdr 1)) [] = false ∧
       ¬ (2 ^ 23 + 1 + (blockHdr (hdr 0)).len * (fmtBits (blockHdr (hdr 0)).fmt / 8) ≤ 2 ^ 23)) := by decide +kernel

/-- VectorStructure: a VSEGSET whose result is too long and whose operands do not match. -/
theorem witness_VectorStructure_segset : (many 4095 1 ++ [(⟨9, 3, false⟩ : Run)]).length ≤ 4096 ∧
    runsLen (many 4095 1 ++ [⟨9, 3, false⟩]) ≠ runsLen [⟨0, 4096, true⟩, ⟨1, 1, false⟩] ∧
    4096 < (segSet (marksIn [⟨0, 4096, true⟩, ⟨1, 1, false⟩]) (many 4095 1 ++ [⟨9, 3, false⟩])).length := by decide +kernel

/-- DispatchEvents: a core whose cluster as a unit has older work, and one whose cluster has none; a co-resident group's part in both. -/
theorem witness_DispatchEvents_cluster :
    let old : Group := { group0 with cluster := true }
    let g : Group := { group0 with cores := true, recd := 0x1000000000002000, place := vaultPlace 0 8192, num := 1 }
    let s : State := { grouped old ((vaultPlace 0 8192 + 32, 4) :: count4) with groups := [old, g] }
    s.ofCluster 0 (s.workFor 0) = true ∧ s.workFor 1 = some (.together g) ∧ s.ofCluster 4 ((grouped g count4).workFor 4) = false ∧
      s.groups[1]? = some g := by decide +kernel

/-- PreemptionEvents: a PREQ of the supervisor controller, while no context runs, for a core with a task. -/
theorem witness_PreemptionEvents_sup :
    let l : Landing := ⟨384, 3, 24, 1, 0, 0, .spr 0x031 0⟩
    let s := st 0 1 (fun x => { x with task := some { task0 with ctx := 2 } }) fun s => { s with
      glob := { s.glob with svctl := 0x8000 }, landings := [l] }
    s.isSup l.unit = true ∧ s.ctxOf 0 ≠ s.ctxOf l.unit ∧ s.mayLand l = true ∧ (s.unit 0).task ≠ none ∧
      nextIs (exec .preq s) (fun t => (t.unit 0).preempt.isSome) = true := by
  refine ⟨by decide, by decide, by decide, by decide, ?_⟩
  rfl

/-- StepRunsDecoded: a fault of slot 2 of a bundle whose slot 1 may still issue in this cycle, and one of slot 1. -/
theorem witness_StepRunsDecoded_rank :
    let o : QOp := { op5 with word := 0x40110C00 }
    let s := st 0 1 (fun x => { x with slots := [(1, { Slot.idle with queue := [o] }), (2, { Slot.idle with queue := [o] })] }) id
    s.lowerReady 0 2 5 = true ∧ s.lowerReady 0 1 5 = false ∧
      (s.concluded (s.modUnit 0 fun x => x.modDisp fun d => { d with pend := some { pend5 with slot := 2 } }) 0 = s) := by
  decide +kernel

/-- AddressChecks: a malformed scratchpad address of a die beyond a failed link; two host windows that only together permit an access. -/
theorem witness_AddressChecks_absent :
    (let s : State := { at0 6 [] with glob := { (at0 6 []).glob with links := [(0, 1)] } }
     let va : BitVec 64 := 0x2000000428000000
     s.routeBad 0 1 = true ∧ va.extractLsb' 34 26 ≠ 0 ∧ va.getLsbD 28 = false ∧ (va.extractLsb' 29 5).toNat = 1 ∧
       (match s.reach 0 0 0 pSL .rd false va 8 with | .ok _ => false | .error f => f.code == 0x19 && f.sub == 1) = true) ∧
    (let w (a b : Nat) : BitVec 128 := BitVec.ofNat 128 (1 + a * 2 ^ 12 + b * 2 ^ 76)
     let s := in0 6 [] fun s => { s with ctxs := [(0, { ctx0 with hwin := [(0, w 2 2), (1, w 3 3)] })] }
     s.reach 0 0 0 pSL .rd false 0x3000000000002FFC 8 = .ok ⟨[(hostPlace 0x2FFC, 8)], []⟩ ∧
       (s.reach 0 0 0 pSL .rd false 0x3000000000003FFC 8).toBool = false) := by decide +kernel

/-! ## Witnesses: the collective engine's own accesses -/

/-- A state in which an all-to-all record of two ranks, 5 words from rank 1, stands in the vault; of the engine's budget of 1,000 bytes
`n` are used. -/
def recordedV (n : Nat) : State :=
  { coll [] id with
    mem := [(vaultPlace 0 0x1010, 2), (vaultPlace 0 0x104C, 5)],
    dies := [(0, { Die.reset with budgets := [(budgetKey 32 0, ⟨false, BitVec.ofNat 31 n, 1000⟩)] })] }

/-- CallIssue: a CA2AP whose record can be read, within the budget and beyond it; one held by an earlier call's write of the record's
granules; a CHDEF with its descriptor's tile full and empty, and beyond the budget. -/
theorem witness_CallIssue_reads :
    (let r : Reach := ⟨[(vaultPlace 0 0x1000, 88)], []⟩
     let s := recordedV 0
     let t := recordedV 1000
     let f := { fly 0 (.coStore 0 [1] []) with path := pCO, writes := true, spans := [(vaultPlace 0 0x1010, 1)] }
     s.a2aReach 0 0 0 (vlt 0x1000) 2 = .ok r ∧ Full s r ∧ s.coHeld s.u s.ids false r.spans = false ∧ s.banksHold [] r.spans = false ∧
       (s.die 0).frozenColl = false ∧ s.overBudget 0 32 (useOf r.spans) = none ∧ t.overBudget 0 32 (useOf r.spans) ≠ none ∧
       ({ s with flights := [f], ids := 5 } : State).coHeld s.u 5 false r.spans = true ∧
       (a2aBad (rdSpans s.mem r.spans) (vlt 0x1000) 2 true).isNone = true) ∧
    (let r : Reach := ⟨[(vaultPlace 0 0x1000, 32)], []⟩
     let q : Reach := ⟨[(scratchPlace 0 0x1000, 32)], []⟩
     let s : State := { recordedV 0 with calls := [] }
     s.defining 0 1 = false ∧ s.reach 0 0 0 pCO .rd false (vlt 0x1000) 32 = .ok r ∧ Full s r ∧
       s.reach 0 0 0 pCO .rd false (own 0x1000) 32 = .ok q ∧
       ¬ Full { s with tiles := [(tileOf (scratchPlace 0 0x1000), (false, 1))] } q ∧
       s.overBudget 0 32 (useOf r.spans) = none ∧ (recordedV 1000).overBudget 0 32 (useOf r.spans) ≠ none) := by
  simp only [Full]; decide +kernel

/-- CallArrivals: the write of a CA2AC's RC and RP, and of a CA2AP's own share, that may perform. -/
theorem witness_CallArrivals_writes :
    (let p := scratchPlace 0 0x1048
     let bs : List Byte := [3, 0, 0, 0, 5, 0, 0, 0, 0, 0, 0, 0, 3, 0, 0, 0]
     let k := { callOn 3 with dst := some 4, next := 3, got := [(0, 3), (1, 5)], base := own 0x1000 }
     let f := { fly 6 (.coStore k.id bs [(tileOf p, 0)]) with path := pCO, writes := true, spans := [(p, 16)] }
     let s := coll [] fun s => { s with calls := [k], flights := [f], tiles := [(tileOf p, (false, 1))], ids := 7 }
     s.mayPerform f = true ∧ s.writeWaits f = false ∧ s.call? k.id = some k ∧ k.fin = false ∧ k.post = false ∧
       nextIs (exec .writePerformed s) (fun t => t.calls == [] && rdBytes t.mem p 16 == bs && t.isFull (tileOf p) && sent t 4 0x100000008) = true) ∧
    (let p := scratchPlace 0 0x1048
     let k := { callOn 4 with n := 7, value := 2, got := [(0, own 0), (1, own 0x1048)], tiles := [(tileOf p, 2), (99, 5)] }
     let f := { fly 6 (.coStore k.id [1, 0, 0, 0, 2, 0, 0, 0] [(tileOf p, 2)]) with path := pCO, writes := true, spans := [(p, 8)] }
     let s := coll [] fun s => { s with calls := [k], flights := [f], tiles := [(tileOf p, (false, 1))], ids := 7 }
     s.mayPerform f = true ∧ s.writeWaits f = false ∧
       nextIs (exec .writePerformed s) (fun t => t.calls.map (fun y => (y.n, y.next, y.tiles.contains (99, 5))) == [(5, 1, true)] &&
         t.isFull (tileOf p) && rdBytes t.mem p 8 == [1, 0, 0, 0, 2, 0, 0, 0]) = true) := by decide +kernel

/-- CallArrivals: words held by an earlier write to their granules and by a matrix read of their banks, and not held; an arm notice of a
count that is not the one to be sent. -/
theorem witness_CallArrivals_held :
    (let k := { callOn 2 with id := 4 }
     let f := { fly 1 (.coStore 2 [1] []) with path := pCO, writes := true, spans := [(scratchPlace 0 0, 1)] }
     let s := coll [] fun s => { s with calls := [k], ids := 7 }
     s.callHeld k true [(scratchPlace 0 0, 64)] = false ∧
       ({ s with flights := [f] } : State).callHeld k true [(scratchPlace 0 0, 64)] = true ∧
       ({ s with streams := [reading (scratchPlace 0 0) [] []] } : State).callHeld k true [(scratchPlace 0 0, 64)] = true) ∧
    (let k := callOn 4
     let p := fits (pkt pkArm 0 [6]) k
     taken p k = true ∧ p.words ≠ [] ∧ p.words.headD 0 ≠ k.counts.getD p.src 0 ∧ ((coll [] id).binding 0 0 7).isSome = true) := by decide +kernel

/-- SwitchSteps: a binding of the fabric manager's with a member, a candidate and neither; a CSEND of which a packet was refused. -/
theorem witness_SwitchSteps_bound :
    (let b : SwBind := ⟨3, [0], [1]⟩
     let s := (switching (part pkSwr 1) [] 0).bindHandle 7 b
     s.bound 7 = some b ∧ s.packetN (part pkSwr 1) = 3 ∧ s.dropCause (part pkSwr 1) = none ∧
       s.dropCause { part pkSwr 1 with srcDie := some 1 } = some 1 ∧ s.dropCause { part pkAgree 1 with srcDie := some 1 } = none ∧
       s.dropCause { part pkAgree 1 with srcDie := some 2 } = some 1 ∧
       s.dropCause { part pkSwr 1 with version := 5 } = some 2 ∧ Tab.wf none (switching (part pkSwr 1) [] 0).switch.freed = true) ∧
    (let k := { call 1 1 0 1 with next := 1, refused := true }
     let s := coll [] fun s => { s with calls := [k], ids := 5 }
     k.kind = 1 ∧ s.callLocal k = true ∧ nextIs (exec .lastPacketAccepted s) (fun t => t.calls == [k]) = true) ∧
    (let k := joined 5 0
     let s : State := { coll [] id with calls := [k] }
     s.coWriting k.id = false ∧ s.reportLocal k = false ∧ s.callLocal k = true) := by decide +kernel
/-- Conversions: entries that are well formed and malformed, one element and 4,096, a mode that is not SR. -/
theorem witness_Conversions : orphan (((leWords 8 [1, 0, 0, 0, 2, 0, 0, 1]).map (entryOf false)).map (·.1)) = false ∧
    ((leWords 8 [1, 0, 0, 0, 2, 0, 0, 1]).map (entryOf false)).all (fun e => !e.2 && e.1.cnt != 0) = true ∧
    (∃ e ∈ (leWords 8 [0, 0, 0, 0, 0, 0, 0, 0]).map (entryOf false), e.2 = true ∨ e.1.cnt = 0 ∧ e.1.b = false) ∧
    (0 < 1 ∧ ([1, 2, 3, 4] : List Byte).length = 4 * 1 ∧ 1 ≤ 4096) ∧ (List.replicate 16384 (0 : Byte)).length = 4 * 4096 ∧
    (4 : BitVec 3) ≠ 5 ∧ (1 ≤ (4 : BitVec 3).toNat ∧ (4 : BitVec 3).toNat ≤ 4) := by
  refine ⟨by decide, by decide, by decide, by decide, List.length_replicate, by decide, by decide⟩

/-- Reset with a snoop of the host to come. -/
def snooped : State := { State.reset with agenda := [.event .cxlCacheSnoop .zero] }

/-- StepKeepsMemory and StepKeepsTables: a state in which both invariants hold and a step goes on. -/
theorem witness_StepKeeps : MemoryOk snooped ∧ TablesOk snooped ∧
    nextIs (step snooped) (fun t => t.hostOut == [.snoop]) = true := by
  refine ⟨rfl, ⟨rfl, rfl, ⟨rfl, fun d => rfl⟩, ⟨fun k h => absurd h (by simp [snooped, State.reset]), fun c y h => ?_⟩, rfl, rfl, fun u => rfl,
    fun c => ⟨rfl, rfl, fun y h => ?_⟩⟩, by decide⟩ <;> exact absurd h (by simp [snooped, State.reset, State.ctx, Tab.get, Ctx.reset])

end Sys2Proof.Tests
end

namespace Sys2Proof.Laws

namespace Encoding

/-- Every operation's word reads back: the laws of the single operations, in the order of `Instr`'s constructors. -/
theorem statement (i : Instr) : Statement i :=
  i.casesOn
    br brg brz brnz call jmpr loopImm loopReg looprImm looprReg fencei brswap waitt rfmode setrm setefr getsp setsp
    trap add addi sub mul mulh div and or xor shlReg shlImm shrReg shrImm sarReg sarImm rotlReg rotlImm min max cmp
    cmpi sel clz popc bfx bfi movgToScalar movgToGuard li lih fadd fsub fmul ffma fmin fmax fcmp fcvt frcp frsq fexp2
    flog2 vadd vsub vmul vmin vmax vfma vabs vcvt vexp2 vlog2 vrcp vrsq fp32MaskedForms fp32ScalarForms viadd visub
    vimul vand vor vxor vshl vshr vshrA vimin vimax viminU vimaxU int32MaskedForms int32ScalarForms vcmp vcmpScalar
    vsel mand mor mxor mnot mcnt vcoal vlen vsplat viota viotaSeg vslice vcat vpick vsegset vsegclr vspread vrsum
    vrsumSeg vrssq vrssqSeg vrmax vrmaxSeg vrmin vrminSeg vscan vmaxk vmaxkSeg vexpk vsck vsckSeg lds sts ldsW ldsWu
    ldsH ldsHu ldsB ldsBu stsW stsH stsB ldv ldvc stv ldr str ldvr stvr shld shwin shchk shq waitf setf clrf mscl star
    fence xfence drain atom atomN acas rsf rsfV rsb rsbV rso rsoV roopen roopenX binit binitV bfin bfinV bnorm bnormV
    dqpush dqpop dqsteal bara barw tgrow sdclaim sdfree waitm evpop evpopNb launch notify mzero mldb mgenbPure
    mgenbAdd mma mmat mmag mcop mdrv mdrs madp madt mbase mmaRag mdrvRag gload gfree gseed geval gstat cpy cpyZ cpyr
    xpose xcvt xexp imload cwaitt cpoll chdef csend crecv ca2ac ca2ap cswr cdig cnrm cpause cres gagree reset
    lifeCycleChange linkFailure thermalAlert bundleDispatch exposedResultLands presenceResultArrives taskDispatch
    coResidentDispatch replayDispatch preq taskPreemption preemptionLimitExpiry swctlArm swctlCancel switchInstant
    switchDrainLimit gangSwitchSave gangSwitchRestore portSyncOperation waitmSatisfied waittDeadline parkrep tlbinvGo
    tlbInvalidationComplete budgetPeriodBoundary budgetThaw budgetKill hostBar4Access cxlMemAccess msixTableWrite
    registerWrite generatorRegistration registrationComplete codeLoad codeLoadComplete ctxCreate ctxCreateComplete
    ctxTeardown teardownComplete csctlStart supervisorControllerStart supervisorControllerStop attestationRequest
    attestationReportReady accumulatorRowLands mldbLoadComplete mgenbCommit genBoundDetected mdrsTileRelease
    gloadCopyComplete transferTileRelease transferComplete transformComplete armNoticeArrival collectivePacketArrival
    abortPacketReceipt switchContribution switchSlotTimeout agreementContribution agreementTimeout normPartialArrival
    digestArrival ret lbrk retire frame frameX sysret sysretS mswap mcopMad cpauseAll cresAll writePerformed
    lastPacketAccepted switchPacketDrop msiXEnable cxlCacheSnoop

end Encoding

/-- Decode's checks pass an operation that meets all three of them (R58). -/
theorem checked_of_wf {i : Instr} (h : i.wf = true) : checked i = .ok i := by
  simp only [Instr.wf, Bool.and_eq_true] at h
  obtain ⟨⟨hres, hwidth⟩, hval⟩ := h
  simp [checked, hres, hwidth, hval]

/-- A word under another major opcode than 0 is not the NOP (R40). -/
theorem ne_zero_of_major {w : Word} (h : (major w == 0) = false) : w ≠ 0#32 := by
  rintro rfl
  exact absurd h (by decide)

/-- What a slot's raw decoder reads, and the checks pass, is the operation in the slot's word. -/
theorem decodeSlot_of_rawDecode {k : SlotKind} {w : Word} {i : Instr} (hmajor : (major w == 0) = false)
    (hraw : rawDecode k w = .ok i) (hwf : i.wf = true) : decodeSlot k w = .ok (some i) := by
  simp [decodeSlot, ne_zero_of_major hmajor, hmajor, hraw, checked_of_wf hwf]

/-- Settles O54: each operation's word reads back raw, and a well-formed operation passes the checks. -/
theorem roundTrip : Obligations.RoundTrip := by
  intro i k hslot hwf
  obtain ⟨hmajor, hraw⟩ := Encoding.statement i k hslot
  exact decodeSlot_of_rawDecode hmajor hraw hwf

end Sys2Proof.Laws

namespace Sys2Proof.Machine

open Sys2Proof.Safety

/-! ## Requests without an answer (R195, R202) -/

/-- The elements of a register are as many as the counts of its runs say (R87). -/
theorem length_elems (rs : List Run) : (elems rs).length = runsLen rs := by
  induction rs with
  | nil => rfl
  | cons r rs ih => simp_all [elems, runsLen]

/-- A state with flights `fs` of its issuing operation on their way and its dies' caches and budgets at `ds`. -/
def sent (s : State) (ds : Tab Die) (fs : List Flight) : State :=
  { s with dies := ds, flights := s.flights ++ fs, ids := s.ids + fs.length }

/-- One request is told by the flight that `toldFlight` states, whatever dies have cached since. -/
theorem sent_tell (s : State) (ds : Tab Die) (fs : List Flight) (r : Req) (va : BitVec 64) :
    (sent s ds fs).tell s r va = sent s ds (fs ++ [toldFlight s fs.length r va]) := by
  have hfly (f : Flight) : (sent s ds fs).fly f = sent s ds (fs ++ [f]) := by
    simp [sent, State.fly, List.append_assoc, Nat.add_assoc]
  rw [← hfly]
  unfold State.tell toldFlight
  dsimp only
  rw [show (sent s ds fs).ids = s.ids + fs.length from rfl]
  cases ({ s with ids := s.ids + fs.length } : State).reqReach s.u (s.ctxOf s.u) false r va <;> rfl

/-- Requests told in order are on their way in order. -/
theorem sent_tells (s : State) (ds : Tab Die) (fs : List Flight) (rs : List (Req × BitVec 64)) :
    rs.foldl (fun t p => t.tell s p.1 p.2) (sent s ds fs)
      = sent s ds (fs ++ rs.mapIdx fun k p => toldFlight s (fs.length + k) p.1 p.2) := by
  induction rs generalizing fs with
  | nil => simp
  | cons p rs ih =>
    rw [List.foldl_cons, sent_tell, ih]
    simp [List.mapIdx_cons, Nat.add_assoc, Nat.add_comm 1]

/-- The issue of an operation whose flights are on their way, its ports held. -/
theorem sent_issued_held (s : State) (ds : Tab Die) (fs : List Flight) (i : Instr) (occ : Nat) :
    FliesAll occ fs s (((sent s ds fs).issued occ).holdPorts i occ) :=
  ⟨⟨((sent s ds fs).issued_holdPorts i occ).1, rfl⟩, ((sent s ds fs).issued_holdPorts i occ).2, rfl, rfl, rfl, rfl⟩

/-- What requests without an answer do at their issue. -/
theorem tellOut_of (s : State) (i : Instr) (rs : List (Req × BitVec 64)) (occ : Nat)
    (h : exec i s = .next (s.tellAll i rs occ)) : TellOut i s rs occ := by
  intro hb
  refine ⟨_, h, ?_⟩
  obtain ⟨ds, hg⟩ := s.grant_goes (s.tellReach rs) false
    (fun t => ((rs.foldl (fun t p => t.tell s p.1 p.2) t).issued occ).holdPorts i occ) (fun h => nomatch h) hb
  have hs : ({ s with dies := ds } : State) = sent s ds [] := by simp [sent]
  have ht := sent_tells s ds [] rs
  simp only [List.length_nil, Nat.zero_add, List.nil_append] at ht
  rw [State.tellAll, hg, hs, ht]
  exact sent_issued_held s ds _ i occ

/-- A vector reduce-store tells one request for each element (R202). -/
theorem tellOut_of_reduceVec (s : State) (i : Instr) (mk : Word → Req) (size : Nat) (v : BitVec 6) (b : BitVec 5)
    (h : exec i s = .next (s.reduceVec i mk size v b)) :
    TellOut i s ((elems (s.me.vreg v)).mapIdx fun k y => (mk y, s.rs b + BitVec.ofNat 64 (size * k)))
      (s.vecOcc (s.rs b) (size * (elems (s.me.vreg v)).length) (s.me.vreg v).length) := by
  rw [length_elems]
  exact tellOut_of s i _ _ h

/-- A form over at most 4,096 objects tells one request for each (R204). -/
theorem tellOut_of_objects (s : State) (i : Instr) (r : Req) (n : Nat) (va : BitVec 64) (hn : n ≤ 4096)
    (h : exec i s = .next (s.objects i r n va)) :
    TellOut i s ((List.range n).map fun k => (r, va + BitVec.ofNat 64 (32 * k))) (s.vecOcc va (32 * n) 0) :=
  tellOut_of s i _ _ (h.trans (by rw [State.objects, if_neg (by omega)]))

/-! ## Requests to the sync directory (R206, R212) -/

/-- A request to the directory raises the fault of its way, or leaves for die 0. -/
theorem askDirectory_goes (s : State) (i : Instr) (r : Req) (dst : Stor) (ps : List Nat)
    (h : exec i s = .next (s.askDirectory r dst ps)) :
    match s.dirFaults 0 .wr ps with
    | f :: _ => Goes (exec i s) (Raises f s)
    | [] => Goes (exec i s) (Flies 1 (s.flight pAT (s.cycle + latency s.u directory) false true [] (.req r 0 [dst])) s) := by
  rw [h, State.askDirectory]
  cases s.dirFaults 0 .wr ps with
  | nil => exact ⟨_, rfl, s.fly_issued 1 _⟩
  | cons f _ => exact ⟨_, rfl, s.raise_raises f⟩

/-- ROOPEN raises the lowest fault of its count, its address and its way, or leaves by the directory (R206). -/
theorem roopen_goes (s : State) (d b n : BitVec 5) (w : BitVec 6) :
    let count := (s.rs n).toNat
    let q := s.reqReach s.u (s.ctxOf s.u) true (.roopen w count false) (s.rs b)
    let place := match q with | .ok q => q.spans.map (·.1) | .error _ => []
    match lowestFault (faultOf q ++ s.dirFaults (s.rs b) .wr place ++ if 1 ≤ count ∧ count ≤ 4096 then [] else [prot 0x10 (s.rs n)]) with
    | some f => Goes (exec (.roopen d b n w) s) (Raises f s)
    | none => ∀ c, q = .ok c → Within s c → Goes (exec (.roopen d b n w) s)
        (Flies 1 (s.flight pAT (s.cycle + latency s.u directory + 350 * c.levels) true true c.spans
          (.req (.roopen w count false) (s.rs b) [.s (s.ps d)])) s) := by
  dsimp only
  have hexec : exec (.roopen d b n w) s = execRoopen d b n w s := rfl
  rw [hexec]
  unfold execRoopen
  dsimp only
  simp only [Bool.and_eq_true, decide_eq_true_eq]
  generalize s.reqReach s.u (s.ctxOf s.u) true (.roopen w (s.rs n).toNat false) (s.rs b) = q
  generalize lowestFault _ = f
  cases f with
  | some f => exact ⟨_, rfl, s.raise_raises f⟩
  | none =>
    rintro c rfl hb
    obtain ⟨ds, hg⟩ := s.grant_goes c false (fun t => (t.fly (t.flight pAT (t.cycle + latency t.u directory + 350 * c.levels)
      true true c.spans (.req (.roopen w (s.rs n).toNat false) (t.rs b) [.s (t.ps d)]))).issued 1) (fun h => nomatch h) hb
    exact ⟨_, congrArg Host.Outcome.next hg, s.flies_of_dies ds _ _⟩

end Sys2Proof.Machine

namespace Sys2Proof.Laws

open Sys2Proof.Machine

/-- Settles O25: each form is one of the shared operations of an issue, by the requests that it makes. -/
theorem syncRequests : Obligations.SyncRequests := by
  intro s d b v e n a o t p u w
  dsimp only
  have bit : decide (u = 1) = bit1 u := rfl
  rw [bit]
  refine ⟨askOut_of s _ _ _ _ _ rfl, tellOut_of s _ _ _ rfl, askOut_of s _ _ _ _ _ rfl, tellOut_of s _ _ _ rfl,
    tellOut_of s _ _ _ rfl, tellOut_of s _ _ _ rfl, tellOut_of_reduceVec s _ _ _ a b rfl, tellOut_of_reduceVec s _ _ _ a b rfl,
    tellOut_of_reduceVec s _ _ _ a b rfl, roopen_goes s d b n w, askDirectory_goes s _ _ _ _ rfl, tellOut_of s _ _ _ rfl,
    tellOut_of s _ _ _ rfl,
    fun hn => ⟨tellOut_of_objects s _ _ _ _ hn rfl, tellOut_of_objects s _ _ _ _ hn rfl⟩, askOut_of s _ _ _ _ _ rfl,
    askOut_of s _ _ _ _ _ rfl, askOut_of s _ _ _ _ _ rfl, askOut_of s _ _ _ _ _ rfl, askOut_of s _ _ _ _ _ rfl,
    askDirectory_goes s _ _ _ _ rfl⟩

end Sys2Proof.Laws

namespace Sys2Proof.Machine

/-! ## What a wipe leaves (R369) -/

/-- A read of a table some of whose keys have been left out. -/
theorem Tab.get_filter_keys {α : Type} (d : α) (t : Tab α) (keep : Nat → Bool) (k : Nat) :
    Tab.get d (t.filter fun p => keep p.1) k = if keep k = true then Tab.get d t k else d := by
  induction t with
  | nil => simp
  | cons p t ih =>
    obtain ⟨j, x⟩ := p
    by_cases hj : j = k
    · subst hj
      cases hk : keep j <;> simp_all [Tab.get]
    · cases hk : keep j <;> simp_all [Tab.get]

/-- A table of which the keys below `n` have been written, all with one value. -/
theorem Tab.get_writeAll {α : Type} [DecidableEq α] (d v : α) (n k : Nat) :
    Tab.get d ((List.range n).foldl (fun t j => Tab.set d t j v) []) k = if k < n then v else d := by
  have wf (n : Nat) : Tab.wf d ((List.range n).foldl (fun t j => Tab.set d t j v) []) = true := by
    induction n with
    | zero => rfl
    | succ n ih => rw [List.range_succ, List.foldl_append]; exact Tab.wf_set _ _ _ _ ih
  induction n with
  | zero => simp
  | succ n ih =>
    rw [List.range_succ, List.foldl_append, List.foldl_cons, List.foldl_nil, Tab.get_set _ _ _ _ _ (wf n), ih]
    by_cases hk : k = n
    · simp [hk]
    · simp [hk, show k < n + 1 ↔ k < n by omega]

/-- After a wipe every byte reads 0 but those of host memory, which read as before. -/
theorem wiped_rdByte (s : State) (p : Nat) : rdByte s.wiped.mem p = if spaceOf p = 3 then rdByte s.mem p else 0 := by
  have h := Tab.get_filter_keys 0 s.mem (fun k => spaceOf k == 3) p
  simp only [beq_iff_eq] at h
  exact h

/-- After a wipe each die of the package is as after reset, its budget period begun anew. -/
theorem wiped_die (s : State) (g : Glob) (d : Nat) :
    ({ s.wiped with glob := g } : State).die d = if d < 24 then { Die.reset with bbnext := s.time + 1000000 } else Die.reset := by
  have h := Tab.get_writeAll Die.reset { Die.reset with bbnext := s.time + 1000000 } 24 d
  unfold State.die State.wiped
  rw [h]

/-- Every table of the reset state is empty, and so in its canonical form. -/
theorem reset_tablesOk : Safety.TablesOk State.reset := by
  refine ⟨rfl, rfl, ⟨rfl, fun d => rfl⟩, ⟨fun k h => (List.not_mem_nil h).elim, fun c y h => ?_⟩,
    rfl, rfl, fun u => rfl, fun c => ⟨rfl, rfl, fun y h => ?_⟩⟩
  · exact nomatch (h : (none : Option Saved) = some y)
  · exact nomatch (h : (none : Option Saved) = some y)

end Sys2Proof.Machine

namespace Sys2Proof.Laws

open Sys2Proof.Machine

/-- Settles O51: reset is a literal state, and a wipe differs from it in host memory, the clock and the dies' periods. -/
theorem resetState : Obligations.ResetState := by
  unfold Obligations.ResetState
  intro blank wiped
  have hwiped (s : State) (g : Glob) (h : g.running = none ∧ g.svctl = 0 ∧ g.swctl = 0 ∧ g.switchat = 0) :
      wiped s { s.wiped with glob := g } := by
    exact ⟨⟨fun p hp => (wiped_rdByte s p).trans (if_neg hp), fun k => rfl, fun u => rfl, fun c => rfl, fun k => rfl, rfl, rfl, rfl,
      rfl, rfl, rfl, rfl, rfl, rfl, rfl, h⟩, rfl, rfl, fun p hp => (wiped_rdByte s p).trans (if_pos hp), wiped_die s g⟩
  refine ⟨?_, fun p => rfl, fun d => rfl, rfl, reset_tablesOk, ?_, ?_, ⟨rfl, rfl, rfl⟩, fun s => ⟨?_, ?_⟩⟩
  · exact ⟨fun p _ => rfl, fun k => rfl, fun u => rfl, fun c => rfl, fun k => rfl, rfl, rfl, rfl, rfl, rfl, rfl, rfl, rfl, rfl, rfl,
      rfl, rfl, rfl, rfl⟩
  · refine ⟨fun r => ?_, fun r => ?_, fun r => rfl, fun r => rfl, fun r => rfl, fun r => rfl, fun r => rfl, rfl, rfl, rfl, rfl, rfl,
      rfl, rfl, rfl, rfl, rfl, rfl, rfl, rfl, rfl, rfl⟩
    · simp [Machine.Unit.sreg, Machine.Unit.idle]
    · simp [Machine.Unit.guard, Machine.Unit.idle, Bool.beq_eq_decide_eq]
  · exact ⟨rfl, rfl, rfl, fun d => rfl, rfl, rfl, rfl, rfl, rfl, rfl⟩
  · refine ⟨_, rfl, hwiped s _ ⟨rfl, rfl, rfl, rfl⟩, rfl, ?_, Iff.rfl⟩
    simp
  · refine ⟨_, rfl, hwiped s _ ⟨rfl, rfl, rfl, rfl⟩, ?_, ?_⟩
    · exact BitVec.eq_of_toNat_eq (by simp)
    · simp [and_assoc]

end Sys2Proof.Laws

namespace Sys2Proof.Machine

/-! ## Fields of a word (R2) -/

/-- A field of a word, as a number. -/
theorem toNat_field {w : Nat} (x : BitVec w) (lo len : Nat) : (x.extractLsb' lo len).toNat = x.toNat / 2 ^ lo % 2 ^ len := by
  rw [BitVec.extractLsb'_toNat, Nat.shiftRight_eq_div_pow]

/-- A field holds a value when the number does. -/
theorem field_eq_iff {w : Nat} (x : BitVec w) (lo len : Nat) (y : BitVec len) :
    x.extractLsb' lo len = y ↔ x.toNat / 2 ^ lo % 2 ^ len = y.toNat := by
  rw [← BitVec.toNat_inj, toNat_field]

/-- A bit of a word, as a number. -/
theorem getLsbD_iff {w : Nat} (x : BitVec w) (k : Nat) : x.getLsbD k = true ↔ x.toNat / 2 ^ k % 2 = 1 := by
  rw [BitVec.getLsbD, Nat.testBit_eq_decide_div_mod_eq, decide_eq_true_eq]

/-! ## Page tables (R104 to R106) -/

/-- A page-table entry is malformed by its reserved bits, its type at its level, or its address (R105). -/
theorem pteBad_iff (lvl : Nat) (e : BitVec 64) :
    pteBad lvl e.toNat = true ↔
      e.extractLsb' 41 23 ≠ 0 ∨ e.extractLsb' 5 7 ≠ 0 ∨ e.extractLsb' 0 2 = 3 ∨ e.extractLsb' 0 2 = 1 ∧ lvl = 0 ∨
        e.extractLsb' 0 2 = 2 ∧ 3 ≤ lvl ∨ e.extractLsb' 0 2 = 2 ∧ (e.extractLsb' 12 29).toNat * 4096 % pageSize lvl ≠ 0 ∨
        24 ≤ (e.extractLsb' 12 29).toNat * 4096 / 2 ^ 36 ∨ 48 * 2 ^ 30 ≤ (e.extractLsb' 12 29).toNat * 4096 % 2 ^ 36 := by
  have htop : e.toNat / 2 ^ 41 % 2 ^ 23 = e.toNat / 2 ^ 41 := Nat.mod_eq_of_lt (by have := e.isLt; omega)
  simp only [Nat.reducePow] at htop
  simp only [pteBad, toNat_field, field_eq_iff, htop, Nat.pow_zero, Nat.div_one, ne_eq, Bool.or_eq_true, Bool.and_eq_true,
    decide_eq_true_eq, beq_iff_eq, bne_iff_ne, or_assoc, ge_iff_le, BitVec.toNat_ofNat, BitVec.ofNat_eq_ofNat, Nat.zero_mod,
    Nat.reducePow, Nat.reduceMod, Nat.reduceMul]

/-- A walk reads one entry and goes down one level, or ends (R106). -/
theorem walk_eq (m : List Host.Cell) (cut : Nat → Bool) (bad : List Nat) (lvl t va : Nat) :
    walk m cut bad lvl t va =
      let a := t + 8 * ptIndex lvl va
      let e := (rd64 m a).toNat
      if cut (a / 2 ^ 36) then ⟨16, e, a, lvl⟩ else if bad.contains a then ⟨5, e, a, lvl⟩
      else if pteBad lvl e then ⟨3, e, a, lvl⟩ else if e % 4 == 0 then ⟨1, e, a, lvl⟩
      else if e % 4 == 2 then ⟨0, e, a, lvl⟩ else if lvl = 0 then ⟨3, e, a, 0⟩
      else walk m cut bad (lvl - 1) (e / 4096 % 2 ^ 29 * 4096) va := by
  cases lvl with
  | zero => rfl
  | succ l => rfl

/-- One level of a walk, by the entry `e` that it reads (R106). -/
theorem walk_level (m : List Host.Cell) (cut : Nat → Bool) (bad : List Nat) (lvl t va : Nat) (e : BitVec 64)
    (he : rd64 m (t + 8 * ptIndex lvl va) = e) :
    let a := t + 8 * ptIndex lvl va
    walk m cut bad lvl t va =
      if cut (a / 2 ^ 36) = true then ⟨16, e.toNat, a, lvl⟩ else if a ∈ bad then ⟨5, e.toNat, a, lvl⟩
      else if pteBad lvl e.toNat = true then ⟨3, e.toNat, a, lvl⟩ else if e.extractLsb' 0 2 = 0 then ⟨1, e.toNat, a, lvl⟩
      else if e.extractLsb' 0 2 = 2 then ⟨0, e.toNat, a, lvl⟩ else if lvl = 0 then ⟨3, e.toNat, a, 0⟩
      else walk m cut bad (lvl - 1) ((e.extractLsb' 12 29).toNat * 4096) va := by
  have hlow (k : Nat) : e.extractLsb' 0 2 = BitVec.ofNat 2 k ↔ e.toNat % 4 = k % 4 := by
    rw [field_eq_iff, Nat.pow_zero, Nat.div_one, BitVec.toNat_ofNat]; norm_num
  have hadd : (e.extractLsb' 12 29).toNat * 4096 = e.toNat / 4096 % 2 ^ 29 * 4096 := by
    rw [toNat_field, show (4096 : Nat) = 2 ^ 12 from rfl]
  intro a
  rw [walk_eq]
  simp only [a, he, hadd, hlow 0, hlow 2, BitVec.ofNat_eq_ofNat, List.contains_iff_mem, beq_iff_eq, Nat.zero_mod, Nat.reduceMod]

/-- The index bits of a level, of an address below 2^56 (R104). -/
theorem ptIndex_eq (lvl va : Nat) (hva : va < 2 ^ 56) (hlvl : lvl ≤ 4) :
    (if lvl = 4 then va / 2 ^ 48 else if lvl = 3 then va / 2 ^ 39 % 512 else if lvl = 2 then va / 2 ^ 30 % 512
      else if lvl = 1 then va / 2 ^ 21 % 512 else va / 2 ^ 16 % 32) = ptIndex lvl va := by
  have h4 : va / 2 ^ 48 = va / 2 ^ 48 % 256 := (Nat.mod_eq_of_lt (by omega)).symm
  interval_cases lvl
  · rfl
  · rfl
  · rfl
  · rfl
  · exact h4

/-- The page size of a leaf at a level (R104). -/
theorem pageSize_eq (lvl : Nat) : (if lvl = 0 then 2 ^ 16 else if lvl = 1 then 2 ^ 21 else 2 ^ 30) = pageSize lvl := by
  match lvl with
  | 0 => rfl
  | 1 => rfl
  | n + 2 => rfl

/-! ## Host windows (R109) -/

/-- A host window permits an access of a page. -/
def permitsPage (wr : Bool) (k : Nat) (w : BitVec 128) : Prop :=
  w.getLsbD 0 = true ∧ (wr = true → w.getLsbD 1 = true) ∧ (w.extractLsb' 12 48).toNat ≤ k ∧ k ≤ (w.extractLsb' 76 48).toNat

/-- The windows' test of a page, as `hostPages` makes it. -/
def testsPage (wr : Bool) (k : Nat) (h : Nat × BitVec 128) : Bool :=
  h.2.getLsbD 0 && (!wr || h.2.getLsbD 1) && decide (h.2.toNat / 4096 % 2 ^ 48 ≤ k) && decide (k ≤ h.2.toNat / 2 ^ 76 % 2 ^ 48)

theorem testsPage_iff (wr : Bool) (k : Nat) (h : Nat × BitVec 128) : testsPage wr k h = true ↔ permitsPage wr k h.2 := by
  rw [testsPage, permitsPage, toNat_field, toNat_field, show (4096 : Nat) = 2 ^ 12 from rfl]
  cases wr <;> simp [and_assoc]

/-- One turn of the windows: the pages that the first window found permits, and then the rest. -/
theorem hostPages_succ (ws : Tab (BitVec 128)) (wr : Bool) (fuel p last : Nat) :
    hostPages ws wr (fuel + 1) p last = true ↔
      last < p ∨ ∃ h, ws.find? (testsPage wr p) = some h ∧ hostPages ws wr fuel ((h.2.extractLsb' 76 48).toNat + 1) last = true := by
  have hdef : hostPages ws wr (fuel + 1) p last = (decide (last < p) || ((ws.find? (testsPage wr p)).map fun h =>
      hostPages ws wr fuel ((h.2.extractLsb' 76 48).toNat + 1) last).getD false) := by
    simp only [hostPages, toNat_field]
    cases hf : ws.find? (testsPage wr p) <;> (unfold testsPage at hf; rw [hf]; rfl)
  rw [hdef, Bool.or_eq_true, decide_eq_true_eq]
  cases ws.find? (testsPage wr p) <;> simp

/-- A list holds fewer elements that pass the stricter of two tests, where one passes the other alone. -/
theorem countP_lt_countP {α : Type} (l : List α) (p q : α → Bool) (hqp : ∀ x, q x = true → p x = true) {x : α} (hx : x ∈ l)
    (hp : p x = true) (hq : ¬ q x = true) : l.countP q < l.countP p := by
  have hcount : l.countP q = (l.filter p).countP q := by
    rw [List.countP_filter]
    exact List.countP_congr fun y _ => by have := hqp y; simp; tauto
  rw [hcount, List.countP_eq_length_filter (p := p), List.countP_lt_length_iff]
  exact ⟨x, List.mem_filter.mpr ⟨hx, hp⟩, by simpa using hq⟩

/-- Windows that together permit every page from `p` to `last` are found, in as many turns as windows end at `p` or later. -/
theorem hostPages_of_cover (ws : Tab (BitVec 128)) (wr : Bool) (last fuel p : Nat)
    (hcover : ∀ k, p ≤ k → k ≤ last → ∃ h ∈ ws, permitsPage wr k h.2)
    (hfuel : ws.countP (fun h => decide (p ≤ (h.2.extractLsb' 76 48).toNat)) < fuel) : hostPages ws wr fuel p last = true := by
  induction fuel generalizing p with
  | zero => exact absurd hfuel (Nat.not_lt_zero _)
  | succ fuel ih =>
    rw [hostPages_succ]
    by_cases hl : last < p
    · exact .inl hl
    · obtain ⟨g, hg, hpg⟩ := hcover p (Nat.le_refl p) (Nat.le_of_not_lt hl)
      obtain ⟨h, hf⟩ := Option.isSome_iff_exists.mp (List.find?_isSome.mpr ⟨g, hg, (testsPage_iff wr p g).mpr hpg⟩)
      have hend : p ≤ (h.2.extractLsb' 76 48).toNat := ((testsPage_iff wr p h).mp (List.find?_some hf)).2.2.2
      refine .inr ⟨h, hf, ih _ (fun k hk => hcover k (by omega)) ?_⟩
      have hlt := countP_lt_countP ws (fun x => decide (p ≤ (x.2.extractLsb' 76 48).toNat))
        (fun x => decide ((h.2.extractLsb' 76 48).toNat + 1 ≤ (x.2.extractLsb' 76 48).toNat))
        (fun x hx => by simp only [decide_eq_true_eq] at hx ⊢; omega)
        (List.mem_of_find?_eq_some hf) (by simpa using hend) (by simp)
      omega

/-- A page that no window permits is found out, whatever windows come before it. -/
theorem hostPages_of_gap (ws : Tab (BitVec 128)) (wr : Bool) (last k : Nat) (hk : k ≤ last)
    (hgap : ¬ ∃ h ∈ ws, permitsPage wr k h.2) (fuel p : Nat) (hp : p ≤ k) : hostPages ws wr fuel p last = false := by
  induction fuel generalizing p with
  | zero => rfl
  | succ fuel ih =>
    rw [← Bool.not_eq_true, hostPages_succ]
    rintro (hl | ⟨h, hf, hr⟩)
    · omega
    · obtain ⟨hon, hwr, hfirst, -⟩ := (testsPage_iff wr p h).mp (List.find?_some hf)
      have hend : (h.2.extractLsb' 76 48).toNat < k :=
        Nat.lt_of_not_le fun hle => hgap ⟨h, List.mem_of_find?_eq_some hf, hon, hwr, Nat.le_trans hfirst hp, hle⟩
      rw [ih _ hend] at hr
      exact Bool.false_ne_true hr

/-! ## Pages of HBM (R106, R107) -/

/-- A range within one 64 KiB page is that one piece. -/
theorem pageParts_page (va n : Nat) (hn : 1 ≤ n) (h : va % 65536 + n ≤ 65536) : pageParts va n = [(va, n)] := by
  have hq : (va + n - 1) / 65536 - va / 65536 + 1 = 1 := by omega
  have hlo : max va (va / 65536 * 65536) = va := by omega
  have hhi : min (va + n) ((va / 65536 + 1) * 65536) - va = n := by omega
  unfold pageParts
  rw [if_neg (by simp; omega), hq]
  simp [List.range_succ, hlo, hhi]

/-- A range within one page is checked as that page. -/
theorem reachHbm_page (s : State) (d : Nat) (c : BitVec 3) (va n : Nat) (a : Acc) (hn : 1 ≤ n) (h : va % 65536 + n ≤ 65536) :
    s.reachHbm d c va n a = s.reachPage d c a (va, n) := by
  rw [State.reachHbm, pageParts_page va n hn h, List.foldl_cons, List.foldl_nil]
  cases s.reachPage d c a (va, n) <;> rfl

/-- The fault of a page-table walk (R106). -/
def walkFault (va : BitVec 64) (w : WalkEnd) (sub : Byte) : Flt :=
  { Flt.of 0x18 sub va with info1 := BitVec.ofNat 64 w.eaddr, xinfo := BitVec.ofNat 27 w.lvl }

/-- One page that the TLB does not translate: the end of its walk, its permissions, the way to its stack. -/
theorem reachPage_of_miss (s : State) (d : Nat) (c : BitVec 3) (a : Acc) (va : BitVec 64) (n : Nat) (hva : va.toNat < 2 ^ 56)
    (hmiss : s.tlbHit d c va.toNat = none) :
    let w := s.walkFrom d c va.toNat
    let pa := w.entry / 4096 % 2 ^ 29 * 4096 + va.toNat % pageSize w.lvl
    (w.sub = 16 → s.reachPage d c a (va.toNat, n) = .error (prot 1 va)) ∧
    (w.sub ≠ 0 → w.sub ≠ 16 → s.reachPage d c a (va.toNat, n) = .error (walkFault va w (BitVec.ofNat 8 w.sub))) ∧
    (w.sub = 0 → permits a (w.entry.testBit 2) (w.entry.testBit 3) (w.entry.testBit 4) = false →
      s.reachPage d c a (va.toNat, n) = .error (walkFault va w 2)) ∧
    (w.sub = 0 → permits a (w.entry.testBit 2) (w.entry.testBit 3) (w.entry.testBit 4) = true →
      (s.routeBad d (pa / 2 ^ 36) = true → s.reachPage d c a (va.toNat, n) = .error (prot 1 va)) ∧
      (s.routeBad d (pa / 2 ^ 36) = false → ∃ es, s.reachPage d c a (va.toNat, n) = .ok ⟨[(pa, n)], es⟩)) := by
  intro w pa
  have hbits : permits a (w.entry / 4 % 2 == 1) (w.entry / 8 % 2 == 1) (w.entry / 16 % 2 == 1)
      = permits a (w.entry.testBit 2) (w.entry.testBit 3) (w.entry.testBit 4) := by
    simp only [Nat.testBit_eq_decide_div_mod_eq, Bool.beq_eq_decide_eq, Nat.reducePow]
  have hback : BitVec.ofNat 64 va.toNat = va := BitVec.eq_of_toNat_eq (by simp)
  unfold State.reachPage State.xlatePage
  simp only [hmiss, hback, Nat.not_le.mpr hva, if_false]
  rw [show s.walkFrom d c va.toNat = w from rfl, show w.entry / 4096 % 2 ^ 29 * 4096 + va.toNat % pageSize w.lvl = pa from rfl]
  simp only [hbits]
  refine ⟨fun h => ?_, fun h h16 => ?_, fun h hp => ?_, fun h hp => ⟨fun hr => ?_, fun hr => ?_⟩⟩
  · simp [h]
  · simp [h, h16, walkFault]
  · simp [h, hp, walkFault]
  · simp [h, hp, hr, -Nat.reducePow]
  · simp [h, hp, hr, hbmPlace, -Nat.reducePow]

/-! ## Spaces (R96 to R98, R101, R109) -/

/-- The space of an address is its highest field (R96). -/
theorem space_eq (va : BitVec 64) : va.toNat / 2 ^ 60 = (va.extractLsb' 60 4).toNat := by
  rw [toNat_field]; have := va.isLt; omega

/-- Which paths reach each space (R98). -/
theorem pathOk_eq (path : BitVec 3) (a : Acc) (star : Bool) :
    pathOk path 0 a star = decide (path = pSL ∨ path = pTR ∨ path = pAT ∨ path = pHI) ∧
    pathOk path 1 a star = decide (path ≠ pAC ∧ path ≠ pNone) ∧ pathOk path 2 a star = decide (path ≠ pNone) ∧
    pathOk path 3 a star = decide (path = pSL ∨ path = pTR) ∧
    pathOk path 4 a star = decide (a = .rd ∧ (path = pTR ∨ path = pSL ∧ star = true)) := by
  cases a <;> cases star <;> revert path <;> decide

section

variable (s : State) (u d : Nat) (c path : BitVec 3) (a : Acc) (star : Bool) (va : BitVec 64) (n : Nat)

/-- PROTECTION with a subcode, of an access on a path. -/
def refused (sub : Byte) : Except Flt Reach := .error ((prot sub va).on path a)

/-- An address of an undefined space is refused. -/
theorem reach_undefined (hx : 5 ≤ va.toNat / 2 ^ 60) : s.reach u d c path a star va n = refused path a va 2 := by
  obtain ⟨k, hk⟩ := Nat.exists_eq_add_of_le' hx
  unfold State.reach
  dsimp only
  rw [hk]
  rfl

/-- An access of HBM: its pages, then its path. -/
theorem reach_hbm (hx : va.toNat / 2 ^ 60 = 0) : s.reach u d c path a star va n =
    if va.extractLsb' 56 4 ≠ 0 then .error ((Flt.of 0x18 4 va).on path a)
    else match s.reachHbm d c (va.toNat % 2 ^ 56) n a with
      | .error f => .error (f.on path a)
      | .ok r => if pathOk path 0 a star = true then .ok r else refused path a va 4 := by
  have hfield : va.extractLsb' 56 4 ≠ 0 ↔ (va.toNat % 2 ^ 60 / 2 ^ 56 != 0) = true := by
    rw [bne_iff_ne, Ne, field_eq_iff, BitVec.ofNat_eq_ofNat, BitVec.toNat_ofNat, Nat.zero_mod]; omega
  unfold State.reach
  simp only [hx]
  by_cases h : va.extractLsb' 56 4 ≠ 0
  · rw [if_pos h, if_pos (hfield.mp h)]
  · rw [if_neg h, if_neg (mt hfield.mpr h)]
    cases s.reachHbm d c (va.toNat % 2 ^ 56) n a with
    | error f => rfl
    | ok r => cases pathOk path 0 a star <;> rfl

/-- An access of vault memory: its die, its reserved bits, its path, its window, and the home vault of matrix operands. -/
theorem reach_vault (hx : va.toNat / 2 ^ 60 = 1) (hn : 1 ≤ n) :
    let t := (va.extractLsb' 29 5).toNat
    let off := (va.extractLsb' 0 29).toNat
    let w := Tab.get 0 (s.ctx c.toNat).vwin t
    let p := (w.extractLsb' 0 9).toNat * 2 ^ 20 + off
    s.reach u d c path a star va n =
      if 24 ≤ t ∨ s.routeBad d t = true then refused path a va 1
      else if va.extractLsb' 34 26 ≠ 0 then refused path a va 3
      else if path = pAC ∨ path = pNone ∨ path = pMX ∧ t ≠ d then refused path a va 4
      else if (w.extractLsb' 32 10).toNat * 2 ^ 20 < off + n then refused path a va 5
      else if path = pMX ∧ ¬ (p / 2 ^ 25 = coreIn u ∧ (p + n - 1) / 2 ^ 25 = coreIn u) then refused path a va 4
      else .ok ⟨[(vaultPlace t p, n)], []⟩ := by
  intro t off w p
  have ht : va.toNat / 2 ^ 29 % 32 = t := (toNat_field va 29 5).symm
  have hoff : va.toNat % 2 ^ 29 = off := by rw [← Nat.div_one va.toNat]; exact (toNat_field va 0 29).symm
  have hres : va.extractLsb' 34 26 ≠ 0 ↔ va.toNat / 2 ^ 34 % 2 ^ 26 ≠ 0 := not_congr (field_eq_iff ..)
  have hsize : w.toNat / 2 ^ 32 % 1024 = (w.extractLsb' 32 10).toNat := (toNat_field w 32 10).symm
  have hbase : w.toNat % 512 = (w.extractLsb' 0 9).toNat := by rw [← Nat.div_one w.toNat]; exact (toNat_field w 0 9).symm
  have hpath : pathOk path 1 a star = false ∨ path = pMX ∧ t ≠ d ↔ path = pAC ∨ path = pNone ∨ path = pMX ∧ t ≠ d := by
    rw [(pathOk_eq path a star).2.1, decide_eq_false_iff_not]; tauto
  have hwin (x : Nat) : off + n > x ∨ x ≤ off ↔ x < off + n := by omega
  have hhome : (p / 2 ^ 25 == coreIn u && (p + n - 1) / 2 ^ 25 == coreIn u) = false ↔
      ¬ (p / 2 ^ 25 = coreIn u ∧ (p + n - 1) / 2 ^ 25 = coreIn u) := by
    rw [← Bool.not_eq_true, Bool.and_eq_true, beq_iff_eq, beq_iff_eq]
  have hw : Tab.get 0 (s.ctx c.toNat).vwin t = w := rfl
  have hp : (w.extractLsb' 0 9).toNat * 2 ^ 20 + off = p := rfl
  unfold State.reach
  simp only [hx, ht, hoff, hw, hsize, hbase, hp, hres, hpath, hwin, hhome, Bool.or_eq_true, Bool.and_eq_true, Bool.not_eq_true',
    bne_iff_ne, beq_iff_eq, decide_eq_true_eq, ge_iff_le]
  split_ifs <;> rfl

/-- The core whose scratchpad an address names, as a die reaches it (R97): an absent core, a malformed address, or the core. -/
theorem holder_scratch :
    let t := (va.extractLsb' 29 5).toNat
    let k := (va.extractLsb' 23 4).toNat
    let own := va.getLsbD 28
    let h := if own = true then u else 16 * t + k
    s.holder u d false va.toNat =
      if 24 ≤ t ∨ own = true ∧ 384 ≤ u ∨ ¬ own = true ∧ s.routeBad d t = true then .error 1
      else if va.extractLsb' 34 26 ≠ 0 ∨ va.getLsbD 27 = true ∨ own = true ∧ (t ≠ 0 ∨ k ≠ 0) then .error 3
      else if s.routeBad d (h / 16) = true then .error 1 else .ok h := by
  intro t k own h
  have ht : va.toNat / 2 ^ 29 % 32 = t := (toNat_field va 29 5).symm
  have hk : va.toNat / 2 ^ 23 % 16 = k := (toNat_field va 23 4).symm
  have hown : va.toNat / 2 ^ 28 % 2 = 1 ↔ own = true := (getLsbD_iff va 28).symm
  have hfar : va.toNat / 2 ^ 28 % 2 = 0 ↔ own = false := by rw [← Bool.not_eq_true, ← hown]; omega
  have hres : va.extractLsb' 34 26 ≠ 0 ↔ va.toNat / 2 ^ 34 % 2 ^ 26 ≠ 0 := not_congr (field_eq_iff ..)
  have hbit : va.getLsbD 27 = true ↔ va.toNat / 2 ^ 27 % 2 ≠ 0 := by rw [getLsbD_iff]; omega
  unfold State.holder holderOf
  simp only [ht, hk, hres, hbit, Bool.or_eq_true, Bool.and_eq_true, bne_iff_ne, beq_iff_eq, decide_eq_true_eq, ge_iff_le, hown,
    Bool.false_eq_true, false_and, or_false]
  by_cases ho : own = true
  · have hh : h = u := if_pos ho
    have hnear : ¬ va.toNat / 2 ^ 28 % 2 = 0 := by rw [hfar, ho]; decide
    simp only [ho, hh, hnear, if_true, true_and, not_true, false_and, or_false, or_assoc]
    by_cases h24 : 24 ≤ t
    · simp [h24]
    · by_cases hu : 384 ≤ u
      · simp [h24, hu]
      · simp only [h24, hu, if_false, or_self]
        split_ifs <;> simp [*]
  · have hh : h = 16 * t + k := if_neg ho
    have hdie : (t * 16 + k) / 16 = t := by have := Nat.mod_lt (va.toNat / 2 ^ 23) (show 0 < 16 by decide); omega
    have hnear : va.toNat / 2 ^ 28 % 2 = 0 := hfar.mpr (Bool.eq_false_iff.mpr ho)
    simp only [ho, hh, Nat.mul_comm 16 t, hnear, Bool.false_eq_true, if_false, true_and, not_false_eq_true, false_and, false_or,
      or_false]
    by_cases h24 : 24 ≤ t
    · simp [h24]
    · simp only [h24, Nat.lt_of_not_le h24, if_false, true_and, false_or]
      split_ifs <;> simp_all

/-- An access of a scratchpad: the core that holds it, the scratchpad's end, its path. -/
theorem reach_scratch (hx : va.toNat / 2 ^ 60 = 2) : s.reach u d c path a star va n =
    match s.holder u d false va.toNat with
    | .error sub => refused path a va sub
    | .ok core =>
      let off := (va.extractLsb' 0 23).toNat
      if 2 ^ 23 < off + n then refused path a va 3
      else if path = pNone ∨ (path = pMX ∨ path = pAC) ∧ core ≠ u then refused path a va 4
      else .ok ⟨[(scratchPlace core off, n)], []⟩ := by
  have hoff : va.toNat % 2 ^ 23 = (va.extractLsb' 0 23).toNat := by rw [toNat_field, Nat.pow_zero, Nat.div_one]
  have hpath : pathOk path 2 a star = false ↔ path = pNone := by
    rw [(pathOk_eq path a star).2.2.1, decide_eq_false_iff_not, not_not]
  unfold State.reach
  simp only [hx]
  cases s.holder u d false va.toNat with
  | error sub => rfl
  | ok core =>
    simp only [hoff, hpath, Bool.or_eq_true, Bool.and_eq_true, Bool.not_eq_true', bne_iff_ne, beq_iff_eq, gt_iff_lt]
    split_ifs <;> rfl

/-- An access of host memory: the way to the host port, its path, and the windows of all its pages. -/
theorem reach_host (hx : va.toNat / 2 ^ 60 = 3) : s.reach u d c path a star va n =
    let p := va.toNat % 2 ^ 60
    if s.routeBad d 0 = true then refused path a va 1
    else if ¬ (path = pSL ∨ path = pTR) then refused path a va 4
    else if hostPages (s.ctx c.toNat).hwin (a == .wr || a == .rw) 9 (p / 4096) ((p + (n - 1)) / 4096) = true then
      .ok ⟨[(hostPlace p, n)], []⟩
    else refused path a va 5 := by
  have hpath : pathOk path 3 a star = false ↔ ¬ (path = pSL ∨ path = pTR) := by
    rw [(pathOk_eq path a star).2.2.2.1, decide_eq_false_iff_not]
  unfold State.reach
  simp only [hx, hpath, Bool.not_eq_true']
  split_ifs <;> rfl

/-- An access of accumulator rows: the core that holds them, their end, its path. -/
theorem reach_rows (hx : va.toNat / 2 ^ 60 = 4) : s.reach u d c path a star va n =
    match s.holder u d true va.toNat with
    | .error sub => refused path a va sub
    | .ok core =>
      let off := (va.extractLsb' 0 19).toNat
      if 2 ^ 19 < off + n then refused path a va 3
      else if ¬ (a = .rd ∧ (path = pTR ∨ path = pSL ∧ star = true)) then refused path a va 4
      else .ok ⟨[(accPlace core off, n)], []⟩ := by
  have hoff : va.toNat % 2 ^ 19 = (va.extractLsb' 0 19).toNat := by rw [toNat_field, Nat.pow_zero, Nat.div_one]
  have hpath : pathOk path 4 a star = false ↔ ¬ (a = .rd ∧ (path = pTR ∨ path = pSL ∧ star = true)) := by
    rw [(pathOk_eq path a star).2.2.2.2, decide_eq_false_iff_not]
  unfold State.reach
  simp only [hx]
  cases s.holder u d true va.toNat with
  | error sub => rfl
  | ok core =>
    simp only [hoff, hpath, Bool.not_eq_true', gt_iff_lt]
    split_ifs <;> rfl

/-- The core whose accumulators an address names by its die and core fields, if the die is there and reached. -/
theorem holder_rows (hres : va.extractLsb' 34 26 = 0) (hbank : va.extractLsb' 19 4 = 0) (hown : va.extractLsb' 27 2 = 0)
    (ht : (va.extractLsb' 29 5).toNat < 24) :
    let h := 16 * (va.extractLsb' 29 5).toNat + (va.extractLsb' 23 4).toNat
    s.routeBad d (h / 16) = false → s.holder u d true va.toNat = .ok h := by
  intro h hr
  have htt : va.toNat / 2 ^ 29 % 32 = (va.extractLsb' 29 5).toNat := (toNat_field va 29 5).symm
  have hk : va.toNat / 2 ^ 23 % 16 = (va.extractLsb' 23 4).toNat := (toNat_field va 23 4).symm
  have hh : (va.extractLsb' 29 5).toNat * 16 + (va.extractLsb' 23 4).toNat = h := by omega
  rw [field_eq_iff] at hres hbank hown
  simp only [BitVec.ofNat_eq_ofNat, BitVec.toNat_ofNat, Nat.zero_mod] at hres hbank hown
  have hloc : va.toNat / 2 ^ 28 % 2 = 0 := by omega
  have hbit : va.toNat / 2 ^ 27 % 2 = 0 := by omega
  have hbank' : va.toNat / 2 ^ 19 % 16 = 0 := hbank
  unfold State.holder holderOf
  simp only [htt, hk, hres, hbank', hloc, hbit, hh]
  rw [if_neg (Nat.not_le.mpr ht)]
  exact if_neg (Bool.eq_false_iff.mp hr)

end

end Sys2Proof.Machine

namespace Sys2Proof.Laws

open Sys2Proof.Machine

/-- Settles O60: each level of a walk by the entry that it reads, then each space by its own check. -/
theorem addressChecks : Obligations.AddressChecks := by
  refine ⟨?_, ?_⟩
  · intro m cut bad' lvl t va hlvl hva
    dsimp only
    rw [ptIndex_eq lvl va hva hlvl, pageSize_eq]
    generalize he : rd64 m (t + 8 * ptIndex lvl va) = e
    have hw := walk_level m cut bad' lvl t va e he
    dsimp only at hw
    rw [← pteBad_iff lvl e, hw]
    refine ⟨fun hc => if_pos hc, fun hc hr => ?_, fun ⟨hc, hr⟩ hb => ?_, fun ⟨hc, hr⟩ hb ht => ?_, fun ⟨hc, hr⟩ hb ht => ?_,
      fun ⟨hc, hr⟩ hb ht => ?_⟩ <;> rw [if_neg (Bool.eq_false_iff.mp hc)]
    · rw [if_pos hr]
    · rw [if_neg hr, if_pos hb]
    · rw [if_neg hr, if_neg hb, if_pos ht]
    · rw [if_neg hr, if_neg hb, if_neg (by rw [ht]; decide), if_pos ht]
    · have hl : lvl ≠ 0 := fun h => hb ((pteBad_iff lvl e).mpr (.inr (.inr (.inr (.inl ⟨ht, h⟩)))))
      rw [if_neg hr, if_neg hb, if_neg (by rw [ht]; decide), if_neg (by rw [ht]; decide), if_neg hl]
  · intro s u d c path a star va n
    dsimp only
    intro hn
    have hspace {k : Nat} (h : va.extractLsb' 60 4 = BitVec.ofNat 4 k) (hk : k < 16) : va.toNat / 2 ^ 60 = k := by
      rw [space_eq, h, BitVec.toNat_ofNat, Nat.mod_eq_of_lt hk]
    refine ⟨fun h => ?_, fun h hres => ?_, fun h hva hpage hmiss => ?_, fun h => ?_, fun h => ?_, fun h hr => ?_,
      fun h hres hbank hown ht hr => ?_⟩
    · exact reach_undefined s u d c path a star va n (by rwa [space_eq])
    · rw [reach_hbm _ _ _ _ _ _ _ _ _ (hspace h (by decide)), if_pos hres]; rfl
    · have hres : va.extractLsb' 56 4 = 0 := by
        rw [field_eq_iff, show BitVec.toNat (0 : BitVec 4) = 0 from rfl]; omega
      have hroot : ptRoot (s.ctx c.toNat) = ((s.ctx c.toNat).ptroot.extractLsb' 12 29).toNat * 4096 := by
        rw [toNat_field]; rfl
      rw [reach_hbm _ _ _ _ _ _ _ _ _ (hspace h (by decide)), if_neg (not_not.mpr hres), Nat.mod_eq_of_lt hva,
        reachHbm_page s d c _ n a hn hpage]
      obtain ⟨hcut, hend, hno, hyes⟩ := reachPage_of_miss s d c a va n hva hmiss
      unfold State.walkFrom at hcut hend hno hyes
      rw [hroot] at hcut hend hno hyes
      refine ⟨fun hw => ?_, fun hw h16 => ?_, fun hw hp => ?_,
        fun hw hp => ⟨fun hr => ?_, fun hr => ⟨fun hpath => ?_, fun hpath => ?_⟩⟩⟩
      · rw [hcut hw]; rfl
      · rw [hend hw h16]; rfl
      · rw [hno hw hp]; rfl
      · rw [(hyes hw hp).1 hr]; rfl
      · obtain ⟨es, hes⟩ := (hyes hw hp).2 hr
        rw [hes, (pathOk_eq path a star).1, decide_eq_true hpath]
        exact ⟨es, rfl⟩
      · obtain ⟨es, hes⟩ := (hyes hw hp).2 hr
        have hno : ¬ (path = pSL ∨ path = pTR ∨ path = pAT ∨ path = pHI) := by
          rcases hpath with rfl | rfl | rfl <;> decide
        rw [hes, (pathOk_eq path a star).1, decide_eq_false hno]
        rfl
    · have hv := reach_vault s u d c path a star va n (hspace h (by decide)) hn
      dsimp only at hv
      rw [hv]
      refine ⟨fun habs => ?_, fun habs hres => ?_, fun habs hres hp => ?_, fun habs hres hp => ?_, fun habs hres hp => ?_⟩
      · rw [if_pos habs]; rfl
      · rw [if_neg habs, if_pos hres]; rfl
      · rw [if_neg habs, if_neg (not_not.mpr hres), if_pos (.inl hp)]; rfl
      · have hmx : path ≠ pMX := by rcases hp with rfl | rfl | rfl | rfl | rfl <;> decide
        have hok : ¬ (path = pAC ∨ path = pNone) := by rcases hp with rfl | rfl | rfl | rfl | rfl <;> decide
        rw [if_neg habs, if_neg (not_not.mpr hres), if_neg (by tauto)]
        refine ⟨fun hw => ?_, fun hw => ?_⟩
        · rw [if_pos hw]; rfl
        · rw [if_neg (Nat.not_lt.mpr hw), if_neg (fun hm => hmx hm.1)]
      · have hok : ¬ (path = pAC ∨ path = pNone) := by subst hp; decide
        rw [if_neg habs, if_neg (not_not.mpr hres)]
        refine ⟨fun ht => ?_, fun ht hw => ?_, fun ht hw hh => ?_, fun ht hw hh => ?_⟩
        · rw [if_pos (.inr (.inr ⟨hp, ht⟩))]; rfl
        · rw [if_neg (by tauto), if_pos hw]; rfl
        · rw [if_neg (by tauto), if_neg (Nat.not_lt.mpr hw), if_pos ⟨hp, hh⟩]; rfl
        · rw [if_neg (by tauto), if_neg (Nat.not_lt.mpr hw), if_neg (fun hm => hm.2 hh)]
    · have hk := holder_scratch s u d va
      dsimp only at hk
      rw [reach_scratch _ _ _ _ _ _ _ _ _ (hspace h (by decide)), hk]
      refine ⟨fun habs => ?_, fun habs hbad => ?_, fun habs hbad g hown hfar => ?_⟩
      · rw [if_pos habs]; rfl
      · rw [if_neg habs, if_pos hbad]; rfl
      · have hg : (if va.getLsbD 28 = true then u else 16 * (va.extractLsb' 29 5).toNat + (va.extractLsb' 23 4).toNat) = g := by
          split_ifs with ho
          · exact (hown ho).symm
          · exact (hfar ho).symm
        rw [if_neg habs, if_neg hbad, hg]
        refine ⟨fun hr => ?_, fun hr => ?_⟩
        · rw [if_pos hr]; rfl
        · rw [if_neg (Bool.eq_false_iff.mp hr)]
          refine ⟨fun hoff => if_pos hoff, fun hoff h7 hg hp => ?_, fun hoff h7 hp => ?_⟩
          · exact (if_neg (Nat.not_lt.mpr hoff)).trans (if_pos (.inr ⟨hp, hg⟩))
          · exact (if_neg (Nat.not_lt.mpr hoff)).trans (if_neg (by show ¬ (path = 7 ∨ _); tauto))
    · rw [reach_host _ _ _ _ _ _ _ _ _ (hspace h (by decide))]
      dsimp only
      rw [if_neg (Bool.eq_false_iff.mp hr)]
      have hwr : (a == .wr || a == .rw) = true ↔ a = .wr ∨ a = .rw := by rw [Bool.or_eq_true, beq_iff_eq, beq_iff_eq]
      refine ⟨fun hp => ?_, fun hp => ?_⟩
      · rw [if_pos (by tauto)]; rfl
      · rw [if_neg (not_not.mpr hp)]
        refine ⟨fun hlen hmay => if_pos ?_, fun k hk hno => if_neg (Bool.eq_false_iff.mp ?_)⟩
        · exact hostPages_of_cover _ _ _ _ _ (fun k h1 h2 => by simpa only [permitsPage, hwr] using hmay k ⟨h1, h2⟩)
            (Nat.lt_of_le_of_lt List.countP_le_length (by omega))
        · exact hostPages_of_gap _ _ _ k hk.2 (by simpa only [permitsPage, hwr] using hno) _ _ hk.1
    · rw [reach_rows _ _ _ _ _ _ _ _ _ (hspace h (by decide)), holder_rows s u d va hres hbank hown ht hr]
      dsimp only
      refine ⟨fun hoff => ?_, fun hoff ha hpath => ?_, fun hoff hpath => ?_⟩
      · rw [if_pos hoff]; rfl
      · rw [if_neg (Nat.not_lt.mpr hoff), if_neg (not_not.mpr ⟨ha, hpath⟩)]
      · rw [if_neg (Nat.not_lt.mpr hoff), if_pos (by tauto)]; rfl

end Sys2Proof.Laws

namespace Sys2Proof.Machine

/-! ## Words written in part (R359) -/

/-- A field that a write's mask covers takes the written value. -/
theorem merge_field_written (old v m : BitVec 64) (lo len : Nat) (hm : m.extractLsb' lo len = BitVec.allOnes len) :
    (merge old v m).extractLsb' lo len = v.extractLsb' lo len := by
  ext i hi
  have hb : m.getLsbD (lo + i) = true := by simpa [hi] using congrArg (BitVec.getLsbD · i) hm
  simp [merge, hb]

/-- A field that a write's mask leaves out keeps its value. -/
theorem merge_field_kept (old v m : BitVec 64) (lo len : Nat) (hm : m.extractLsb' lo len = 0) :
    (merge old v m).extractLsb' lo len = old.extractLsb' lo len := by
  ext i hi
  have hb : m.getLsbD (lo + i) = false := by simpa [hi] using congrArg (BitVec.getLsbD · i) hm
  have hlt : old.getLsbD (lo + i) = true → lo + i < 64 := fun h => BitVec.lt_of_getLsbD h
  simp only [merge, BitVec.getElem_extractLsb', BitVec.getLsbD_or, BitVec.getLsbD_and, BitVec.getLsbD_not, hb]
  grind

/-- A write of every bit replaces the word. -/
theorem merge_all (old v : BitVec 64) : merge old v (BitVec.allOnes 64) = v := by
  rw [merge, BitVec.not_allOnes, BitVec.and_allOnes, BitVec.and_zero, BitVec.zero_or]

/-- The half of a register of 128 bits is a field of it. -/
theorem half128_eq (x : BitVec 128) (k : Nat) : half128 x k = x.extractLsb' (64 * k) 64 :=
  BitVec.eq_of_toNat_eq (by simp [half128, BitVec.extractLsb'_toNat, BitVec.toNat_ushiftRight])

/-- A doubleword is its two words. -/
theorem words_eq (x : BitVec 64) : x.extractLsb' 32 32 ++ x.extractLsb' 0 32 = x := BitVec.extractLsb'_append_extractLsb'

/-- A write of the low word leaves the high word. -/
theorem merge_low (old v : BitVec 64) : merge old (v &&& 0xFFFFFFFF) 0xFFFFFFFF = old.extractLsb' 32 32 ++ v.extractLsb' 0 32 := by
  rw [← words_eq (merge _ _ _), merge_field_kept _ _ _ 32 32 (by decide), merge_field_written _ _ _ 0 32 (by decide),
    BitVec.extractLsb'_and, show (0xFFFFFFFF : BitVec 64).extractLsb' 0 32 = BitVec.allOnes 32 by decide, BitVec.and_allOnes]

/-- A write of the high word leaves the low word. -/
theorem merge_high (old v : BitVec 64) :
    merge old ((v &&& 0xFFFFFFFF) <<< 32) 0xFFFFFFFF00000000 = v.extractLsb' 0 32 ++ old.extractLsb' 0 32 := by
  have hv : ((v &&& 0xFFFFFFFF) <<< 32).extractLsb' 32 32 = v.extractLsb' 0 32 := by
    have hshift (x : BitVec 64) : (x <<< 32).extractLsb' 32 32 = x.extractLsb' 0 32 := by
      ext i hi
      simp
      omega
    rw [hshift, BitVec.extractLsb'_and, show (0xFFFFFFFF : BitVec 64).extractLsb' 0 32 = BitVec.allOnes 32 by decide,
      BitVec.and_allOnes]
  rw [← words_eq (merge _ _ _), merge_field_written _ _ _ 32 32 (by decide), merge_field_kept _ _ _ 0 32 (by decide), hv]

/-! ## Accesses of the host (R116, R131, R358) -/

/-- The flight of a write by the host. -/
def hostFlight (s : State) (c : BitVec 3) (q : Reach) (a : EvArg) : Flight :=
  ⟨s.ids, 0x1FF, 0, 0, 0, pHI, s.cycle, s.cycle, !a.wr, a.wr, q.spans, some ⟨c, 0, 0, false, false, false, false, 0, 0, 0⟩,
    false, none, false, 0, .store (leBytes (if a.wide then 8 else 4) a.v.toNat)⟩

/-- A host access within its budget, with no earlier one on its way: a write is on its way, a read answers. Of the rest of the state
only the dies and the count of the host's writes change. -/
theorem hostAccess_eq (s : State) (c : BitVec 3) (q : Reach) (a : EvArg) (hcalm : ∀ f ∈ s.flights, f.path ≠ pHI)
    (hbudget : s.overBudget 0 33 (useOf q.spans) = none) : ∃ ds, s.hostAccess c q a =
      if a.wr = true then { s with
        dies := ds, flights := s.flights ++ [hostFlight s c q a], ids := s.ids + 1,
        glob := { s.glob with hostWrites := s.glob.hostWrites + 1 } }
      else { s with dies := ds, hostOut := s.hostOut ++ [.data (BitVec.ofNat 64 (leNat (rdSpans s.mem q.spans)))] } := by
  obtain ⟨ds, htlb⟩ := s.tlbAdd_dies_only 0 q.tlb
  obtain ⟨es, hcharge⟩ := ({ s with dies := ds } : State).charge_eq 0 33 (useOf q.spans)
  have hnone (g : Flight → Bool) : s.flights.any (fun f => f.path == pHI && g f) = false :=
    List.any_eq_false.mpr fun f hf => by simp [hcalm f hf]
  refine ⟨es, ?_⟩
  unfold State.hostAccess
  simp only [hbudget, htlb, hcharge]
  by_cases hw : a.wr = true
  · rw [if_pos hw, if_pos hw]; rfl
  · rw [if_neg hw, if_neg hw, hnone]; rfl

/-- What such an access leaves of memory, of units, and of what was on its way and sent. -/
theorem hostAccess_out (s : State) (c : BitVec 3) (q : Reach) (a : EvArg) (hcalm : ∀ f ∈ s.flights, f.path ≠ pHI)
    (hbudget : s.overBudget 0 33 (useOf q.spans) = none) :
    let t := s.hostAccess c q a
    t.mem = s.mem ∧ t.units = s.units ∧
      if a.wr = true then t.hostOut = s.hostOut ∧ ∃ f, t.flights = s.flights ++ [f] ∧ f.path = pHI ∧ f.spans = q.spans ∧
        f.writes = true ∧ f.what = .store (leBytes (if a.wide = true then 8 else 4) a.v.toNat)
      else t.hostOut = s.hostOut ++ [.data (BitVec.ofNat 64 (leNat (rdSpans s.mem q.spans)))] ∧ t.flights = s.flights := by
  obtain ⟨ds, ht⟩ := hostAccess_eq s c q a hcalm hbudget
  dsimp only
  rw [ht]
  by_cases hw : a.wr = true
  · rw [if_pos hw, if_pos hw]
    exact ⟨rfl, rfl, rfl, hostFlight s c q a, rfl, rfl, rfl, hw, rfl⟩
  · rw [if_neg hw, if_neg hw]
    exact ⟨rfl, rfl, rfl, rfl⟩

/-- What an access of a resident context's memory comes to, by its checks: a fault is logged, and a read that faults answers `x`. -/
def hostAnswer (s : State) (c : BitVec 3) (x : HostMsg) (r : Except Flt Reach) : State :=
  match r with
  | .error f => if s.arg.wr = true then s.logFault (hostWho c) f else (s.logFault (hostWho c) f).say x
  | .ok q => s.hostAccess c q s.arg

/-- An access of an address of a resident context. -/
def hostTries (s : State) (c : BitVec 3) (va : BitVec 64) (x : HostMsg) : State :=
  hostAnswer s c x (s.hostReach c s.arg.wr va (if s.arg.wide = true then 8 else 4))

section

variable (s : State) (c : BitVec 3) (va : BitVec 64) (x : HostMsg)

/-- An address that faults is logged. -/
theorem hostTries_fault {f : Flt}
    (h : s.reach 0x1FF 0 c pHI (if s.arg.wr = true then .wr else .rd) false va (if s.arg.wide = true then 8 else 4) = .error f) :
    hostTries s c va x = if s.arg.wr = true then s.logFault (hostWho c) f else (s.logFault (hostWho c) f).say x := by
  simp only [hostTries, hostAnswer, State.hostReach, h]

/-- A misaligned address is logged. -/
theorem hostTries_skew {q : Reach} (hskew : va.toNat % (if s.arg.wide = true then 8 else 4) ≠ 0)
    (h : s.reach 0x1FF 0 c pHI (if s.arg.wr = true then .wr else .rd) false va (if s.arg.wide = true then 8 else 4) = .ok q) :
    let l := s.logFault (hostWho c) ((align va (if s.arg.wide = true then 8 else 4)).on pHI (if s.arg.wr = true then .wr else .rd))
    hostTries s c va x = if s.arg.wr = true then l else l.say x := by
  simp only [hostTries, hostAnswer, State.hostReach, h, bne_iff_ne.mpr hskew, if_true]

/-- An aligned access that its address allows goes on. -/
theorem hostTries_ok {q : Reach} (hskew : ¬ va.toNat % (if s.arg.wide = true then 8 else 4) ≠ 0)
    (h : s.reach 0x1FF 0 c pHI (if s.arg.wr = true then .wr else .rd) false va (if s.arg.wide = true then 8 else 4) = .ok q) :
    hostTries s c va x = s.hostAccess c q s.arg := by
  simp only [hostTries, hostAnswer, State.hostReach, h, if_neg (mt bne_iff_ne.mp hskew)]

/-- An access through the aperture, of a host port that is not frozen and a package that booted. -/
theorem hostBar4Access_eq (hf : (s.die 0).frozenHost = false) (hb : s.glob.bootfail = false) : exec .hostBar4Access s = .next (
    let st := (s.ctx s.glob.apctx.toNat).state
    if 2 ^ 36 ≤ s.arg.off then if s.arg.wr = true then s else s.say .unsupported
    else if st = 2 then if s.arg.wr = true then s else s.say (.data (BitVec.allOnes 64))
    else if st ≠ 1 then if s.arg.wr = true then s else s.say .unsupported
    else hostTries s s.glob.apctx (s.glob.apbase + BitVec.ofNat 64 s.arg.off) .unsupported) := by
  show execHostBar4Access s = _
  unfold execHostBar4Access hostTries hostAnswer
  simp only [hf, hb, Bool.false_eq_true, if_false, beq_iff_eq, bne_iff_ne]
  cases s.hostReach s.glob.apctx s.arg.wr (s.glob.apbase + BitVec.ofNat 64 s.arg.off) (if s.arg.wide = true then 8 else 4) <;>
    split_ifs <;> rfl

/-- One context whose window holds an address, where no other's does. -/
theorem find_only (p : Nat → Bool) (c : Nat) (hc : c < 8) (hothers : ∀ j, j < 8 → j ≠ c → p j = false) :
    (List.range 8).find? p = if p c = true then some c else none := by
  split_ifs with h
  · exact List.find?_range_eq_some.mpr ⟨h, List.mem_range.mpr hc, fun j hj => by simp [hothers j (by omega) (by omega)]⟩
  · refine List.find?_eq_none.mpr fun j hj hp => ?_
    by_cases hjc : j = c
    · exact h (hjc ▸ hp)
    · exact Bool.false_ne_true ((hothers j (List.mem_range.mp hj) hjc).symm.trans hp)

/-- Whether a window of host physical addresses holds an address, as `execCxlMemAccess` tests it. -/
def windowHolds (w : BitVec 128) (off : Nat) : Bool :=
  w.toNat % 2 == 1 && decide (w.toNat / 2 ^ 30 % 2 ^ 34 * 2 ^ 30 ≤ off) &&
    decide (off < (w.toNat / 2 ^ 30 % 2 ^ 34 + w.toNat / 2 ^ 90 % 1024) * 2 ^ 30)

/-- The test of a window, by its fields (R357). -/
theorem windowHolds_iff (w : BitVec 128) (off : Nat) : windowHolds w off = true ↔
    w.getLsbD 0 = true ∧ (w.extractLsb' 30 34).toNat * 2 ^ 30 ≤ off ∧
      off < (w.extractLsb' 30 34).toNat * 2 ^ 30 + (w.extractLsb' 90 10).toNat * 2 ^ 30 := by
  rw [windowHolds, toNat_field, toNat_field, getLsbD_iff, Nat.pow_zero, Nat.div_one, Nat.add_mul]
  simp only [Bool.and_eq_true, beq_iff_eq, decide_eq_true_eq, and_assoc, Nat.reducePow]

/-- An access through a window of host physical addresses, where one context alone has its window enabled. -/
theorem cxlMemAccess_eq (hf : (s.die 0).frozenHost = false) (hb : s.glob.bootfail = false) (c : Nat) (hc : c < 8)
    (hothers : ∀ j, j < 8 → j ≠ c → (s.ctx j).hmwin.getLsbD 0 = false) : exec .cxlMemAccess s = .next (
    let w := (s.ctx c).hmwin
    let base := (w.extractLsb' 30 34).toNat * 2 ^ 30
    let no := if s.arg.wr = true then s else s.say .poison
    if Config.trainedCxl s.glob.boots = false then no
    else if ¬ (w.getLsbD 0 = true ∧ base ≤ s.arg.off ∧ s.arg.off < base + (w.extractLsb' 90 10).toNat * 2 ^ 30) then no
    else if (s.ctx c).state ≠ 1 ∨ s.arg.wr = true ∧ ¬ w.getLsbD 100 = true then no
    else hostTries s (BitVec.ofNat 3 c) (BitVec.ofNat 64 ((w.extractLsb' 64 26).toNat * 2 ^ 30 + (s.arg.off - base))) .poison) := by
  have hhit := find_only (fun j => windowHolds (s.ctx j).hmwin s.arg.off) c hc fun j hj hjc =>
    Bool.eq_false_iff.mpr fun h => Bool.false_ne_true ((hothers j hj hjc).symm.trans ((windowHolds_iff _ _).mp h).1)
  have hrefuse : ((s.ctx c).state != 1 || s.arg.wr && (s.ctx c).hmwin.toNat / 2 ^ 100 % 2 == 0) = true ↔
      (s.ctx c).state ≠ 1 ∨ s.arg.wr = true ∧ ¬ (s.ctx c).hmwin.getLsbD 100 = true := by
    rw [Bool.or_eq_true, bne_iff_ne, Bool.and_eq_true, beq_iff_eq, getLsbD_iff, ← Nat.mod_two_ne_one]
  show execCxlMemAccess s = _
  unfold execCxlMemAccess
  rw [if_neg (by simp [hf])]
  generalize hh : List.find? _ _ = hit
  replace hh := hh.symm.trans hhit
  by_cases htrained : Config.trainedCxl s.glob.boots = false
  · rw [if_pos (by simp [htrained]), if_pos htrained]
  rw [if_neg (by simp [htrained, hb]), if_neg htrained]
  by_cases hw : windowHolds (s.ctx c).hmwin s.arg.off = true
  · obtain rfl : hit = some c := hh.trans (if_pos hw)
    rw [if_neg (not_not.mpr ((windowHolds_iff _ _).mp hw))]
    by_cases hno : (s.ctx c).state ≠ 1 ∨ s.arg.wr = true ∧ ¬ (s.ctx c).hmwin.getLsbD 100 = true
    · rw [if_pos hno]
      exact if_pos (hrefuse.mpr hno)
    · rw [if_neg hno, toNat_field, toNat_field]
      refine (if_neg (mt hrefuse.mp hno)).trans ?_
      unfold hostTries
      generalize s.hostReach _ _ _ _ = r
      cases r <;> rfl
  · rw [hh, if_neg hw, if_pos (mt (windowHolds_iff _ _).mpr hw)]

end

/-- An access that only a port trained as CXL carries out. -/
theorem goes_taken (s t : State) (x : HostMsg) {P : State → Prop} (hyes : P t) :
    Safety.Goes (.next (if Config.trainedCxl s.glob.boots = false then if s.arg.wr = true then s else s.say x else t)) fun t =>
      if Config.trainedCxl s.glob.boots = true then P t
      else if s.arg.wr = true then t = s else t = { s with hostOut := s.hostOut ++ [x] } := by
  refine ⟨_, rfl, ?_⟩
  cases Config.trainedCxl s.glob.boots
  · rw [if_pos rfl, if_neg Bool.false_ne_true]
    split_ifs <;> rfl
  · exact hyes

/-! ## Registers (R359) -/

section

variable (s : State)

/-- A write of eight bytes writes every bit of its doubleword. -/
theorem registerWrite_wide (hboot : s.glob.bootfail = false) (hodd : s.arg.off % 8 = 0) (hw : s.arg.wide = true) :
    exec .registerWrite s = .next (s.writeBar0 s.arg.off s.arg.v (BitVec.allOnes 64)) := by
  show execRegisterWrite s = _
  simp [execRegisterWrite, aligned48, State.withheld, hboot, hodd, hw]

/-- A write of four bytes writes the word of its doubleword that it names. -/
theorem registerWrite_narrow (hboot : s.glob.bootfail = false) (hodd : s.arg.off % 4 = 0) (hw : s.arg.wide = false) :
    exec .registerWrite s = .next (s.writeBar0 (s.arg.off / 8 * 8)
      (if s.arg.off % 8 = 4 then (s.arg.v &&& 0xFFFFFFFF) <<< 32 else s.arg.v &&& 0xFFFFFFFF)
      (if s.arg.off % 8 = 4 then 0xFFFFFFFF00000000 else 0xFFFFFFFF)) := by
  show execRegisterWrite s = _
  simp [execRegisterWrite, aligned48, State.withheld, hboot, hodd, hw]

/-- Registers of a context's block. -/
theorem writeBar0_ctx (c o : Nat) (v m : BitVec 64) (hc : c < 8) (ho : o < 0x10000) :
    s.writeBar0 (0x100000 + 0x10000 * c + o) v m = s.writeCtxReg c o v m := by
  rw [State.writeBar0, if_neg (by omega), if_pos (by omega), show (0x100000 + 0x10000 * c + o - 0x100000) / 0x10000 = c by omega,
    show (0x100000 + 0x10000 * c + o) % 0x10000 = o by omega]

/-- The base of a context's fault log. -/
theorem writeCtxReg_flbase (c : Nat) (v m : BitVec 64) : s.writeCtxReg c 0x1A0 v m =
    s.modCtx c fun x => { x with flbase := merge x.flbase v (m &&& 0xFFFFFFFFFFFFFFC0) } := rfl

/-- Where a context's generator image is read from (R299). -/
theorem writeCtxReg_grega (c : Nat) (v m : BitVec 64) :
    s.writeCtxReg c 0x1B0 v m = s.modCtx c fun x => { x with grega := merge x.grega v m } := rfl

/-- No register stands between the contexts' blocks and the dies'. -/
theorem writeBar0_between (o : Nat) (v m : BitVec 64) (h1 : 0x180000 ≤ o) (h2 : o < 0x800000) : s.writeBar0 o v m = s := by
  rw [State.writeBar0, if_neg (by omega), if_neg (by omega), if_neg (by simp; omega)]

/-- A register of a die beyond a failed link is not reached. -/
theorem writeBar0_cut (o : Nat) (v m : BitVec 64) (h1 : 0x800000 ≤ o) (hcut : s.routeBad 0 ((o - 0x800000) / 0x10000) = true) :
    s.writeBar0 o v m = s := by
  rw [State.writeBar0, if_neg (by omega), if_neg (by omega), if_neg (by simp [State.cutOff, h1, hcut])]

/-! ## Messages (R364) -/

/-- A write of an entry of the table. -/
def withVector (s : State) (k : Nat) (x : BitVec 128) : State :=
  s.modGlob fun g => { g with msix := Tab.set (1#128 <<< 96) g.msix k x }

/-- A vector after a write of the table. -/
theorem withVector_vector (hwf : Tab.wf (1#128 <<< 96) s.glob.msix = true) (k j : Nat) (x : BitVec 128) :
    (withVector s k x).glob.vector j = if j = k then x else s.glob.vector j :=
  Tab.get_set _ _ _ _ _ hwf

/-- A write of a doubleword of the table. -/
theorem msixTableWrite_wide (hb : s.glob.bootfail = false) (hw : s.arg.wide = true) (hodd : s.arg.off % 8 = 0)
    (hoff : s.arg.off < 0x8000) :
    let k := s.arg.off / 16
    let old := s.glob.vector k
    let new := if s.arg.off / 8 % 2 = 0 then old.extractLsb' 64 64 ++ s.arg.v else s.arg.v ++ old.extractLsb' 0 64
    exec .msixTableWrite s = .next (withVector s k new).sendPending := by
  have hword : s.arg.off / 8 * 8 / 16 = s.arg.off / 16 := by omega
  have hhalf : s.arg.off / 8 * 8 / 8 % 2 = s.arg.off / 8 % 2 := by omega
  show execMsixTableWrite s = _
  simp only [execMsixTableWrite, aligned48, hw, hb, hodd, hword, hhalf, if_true, merge_all, setHalf, half128_eq, beq_iff_eq]
  rw [if_neg (by decide), if_neg (Nat.not_le.mpr hoff)]
  rfl

/-- The messages that are no longer held back. -/
def released (g : Glob) : List Nat :=
  (List.range 2048).filter fun n => g.msixPending.contains n && g.msixEnable && !(g.vector n).getLsbD 96

/-- Sending what is no longer held back changes the pending bits and what the host was sent. -/
theorem sendPending_eq : s.sendPending = { s with
    glob := { s.glob with msixPending := s.glob.msixPending.filter fun n => !(released s.glob).contains n },
    hostOut := s.hostOut ++ (released s.glob).map HostMsg.vector } := rfl

/-- A pending bit stays exactly where its message was not sent. -/
theorem pending_sendPending (j : Nat) :
    j ∈ s.sendPending.glob.msixPending ↔ j ∈ s.glob.msixPending ∧ j ∉ released s.glob := by
  rw [sendPending_eq]
  simp

/-- A pending message is sent once its vector is neither disabled nor masked. -/
theorem mem_released (g : Glob) (j : Nat) (hj : j < 2048) (hp : j ∈ g.msixPending) :
    j ∈ released g ↔ g.msixEnable = true ∧ (g.vector j).getLsbD 96 = false := by
  simp [released, hj, hp]

/-- What becomes of a pending message: it is sent where its vector is neither disabled nor masked, and stays pending elsewhere. -/
theorem sendPending_answers (j : Nat) (hj : j < 2048) (hp : j ∈ s.glob.msixPending) :
    let t := s.sendPending
    if s.glob.msixEnable = true ∧ (t.glob.vector j).getLsbD 96 = false then
      .vector j ∈ t.hostOut ∧ j ∉ t.glob.msixPending
    else j ∈ t.glob.msixPending := by
  have hrel := mem_released s.glob j hj hp
  dsimp only
  rw [pending_sendPending, show s.sendPending.glob.vector j = s.glob.vector j from rfl]
  split_ifs with h
  · exact ⟨List.mem_append_right _ (List.mem_map.mpr ⟨j, hrel.mpr h, rfl⟩), fun hno => hno.2 (hrel.mpr h)⟩
  · exact ⟨hp, mt hrel.mp h⟩

end

section

variable (s : State) (n : Nat)

/-- A vector that is neither disabled nor masked is sent. -/
theorem sendVector_sent (hen : s.glob.msixEnable = true) (hmask : (s.glob.vector n).getLsbD 96 = false) :
    s.sendVector n = { s with hostOut := s.hostOut ++ [.vector n] } := by
  rw [State.sendVector, Glob.post, if_pos (by rw [hen, hmask]; rfl)]

/-- A vector that is disabled or masked is pending. -/
theorem sendVector_held (h : s.glob.msixEnable = false ∨ (s.glob.vector n).getLsbD 96 = true) :
    n ∈ (s.sendVector n).glob.msixPending ∧ (s.sendVector n).hostOut = s.hostOut := by
  have hno : ¬ (s.glob.msixEnable && !(s.glob.vector n).getLsbD 96) = true := by
    rcases h with h | h <;> simp [h]
  rw [State.sendVector, Glob.post, if_neg hno]
  refine ⟨?_, List.append_nil _⟩
  dsimp only
  split_ifs with hp
  · exact List.contains_iff_mem.mp hp
  · exact List.mem_cons_self

end

/-! ## Links (R13) -/

/-- A link's two ends are the route between them, in both directions. -/
theorem route_link : ∀ n, n < 24 → ∀ m, m < 24 → hops n m = 1 → route n m = [n, m] ∧ route m n = [m, n] := by
  decide

end Sys2Proof.Machine

namespace Sys2Proof.Laws

open Sys2Proof.Machine


/-- Settles O49: each event of the host by the equation of its access, its register, its message or its link. -/
theorem hostEvents : Obligations.HostEvents := by
  intro s hctx hmsix
  dsimp only
  refine ⟨fun hf => ⟨?_, ?_⟩, fun hf hb => ?_, fun ⟨hf, hb⟩ hst => ⟨fun hw => ?_, fun hw => ?_⟩,
    fun ⟨hf, hb⟩ hoff hst => ⟨fun hw => ?_, fun hw => ?_⟩, fun ⟨hf, hb⟩ hskew hoff hst hcalm q hq hbud => ?_,
    fun ⟨hf, hb⟩ hskew hoff hst q hq => ?_, fun ⟨hf, hb⟩ hoff hst f hq => ?_, fun ⟨hf, hb⟩ c hc hothers => ?_,
    fun hodd => ⟨?_, ?_⟩, fun hb hw hodd hoff => ?_, ?_, fun c hc hb hodd => ?_, ?_, fun hen hmask => ?_, fun hheld => ?_,
    fun hno => ?_, fun hl => ?_⟩
  · show execHostBar4Access s = _
    rw [execHostBar4Access, if_pos hf]
  · show execCxlMemAccess s = _
    rw [execCxlMemAccess, if_pos hf]
  · refine ⟨_, ?_, rfl⟩
    show execHostBar4Access s = _
    simp [execHostBar4Access, hf, hb, State.say]
  · show exec _ s = _
    rw [hostBar4Access_eq s hf hb]
    simp only [hw, if_true]
    grind
  · refine ⟨_, ?_, rfl⟩
    rw [hostBar4Access_eq s hf hb]
    simp only [hw, Bool.false_eq_true, if_false, State.say]
    grind
  · show exec _ s = _
    rw [hostBar4Access_eq s hf hb]
    dsimp only
    rw [if_neg (Nat.not_le.mpr hoff), if_pos hst, if_pos hw]
  · refine ⟨_, ?_, rfl⟩
    rw [hostBar4Access_eq s hf hb]
    dsimp only
    rw [if_neg (Nat.not_le.mpr hoff), if_pos hst, if_neg (Bool.eq_false_iff.mp hw)]
    rfl
  · refine ⟨_, ?_, hostAccess_out s s.glob.apctx q s.arg hcalm hbud⟩
    rw [hostBar4Access_eq s hf hb, hostTries_ok s _ _ _ hskew hq]
    dsimp only
    rw [if_neg (Nat.not_le.mpr hoff), hst]
    rfl
  · refine ⟨_, ?_, hostTries_skew s _ _ _ hskew hq⟩
    rw [hostBar4Access_eq s hf hb]
    dsimp only
    rw [if_neg (Nat.not_le.mpr hoff), hst]
    rfl
  · refine ⟨_, ?_, hostTries_fault s _ _ _ hq⟩
    rw [hostBar4Access_eq s hf hb]
    dsimp only
    rw [if_neg (Nat.not_le.mpr hoff), hst]
    rfl
  · have heq := cxlMemAccess_eq s hf hb c hc hothers
    dsimp only at heq
    refine ⟨fun hin => ⟨fun hw => ?_, fun hw => ?_⟩, fun hin hst hwr hskew hcalm q hq hbud => ?_,
      fun hin hst hwr hskew q hq => ?_, fun hin hst hwr f hq => ?_⟩
    · show exec _ s = _
      rw [heq, if_pos hin, if_pos hw, ite_self]
    · refine ⟨_, heq, ?_⟩
      rw [if_pos hin, if_neg (Bool.eq_false_iff.mp hw), ite_self]
      rfl
    all_goals
      have hok : ¬ ((s.ctx c).state ≠ 1 ∨ s.arg.wr = true ∧ ¬ (s.ctx c).hmwin.getLsbD 100 = true) := by tauto
      rw [heq, if_neg (not_not.mpr hin), if_neg hok]
      refine goes_taken s _ .poison ?_
    · rw [hostTries_ok s _ _ _ hskew hq]
      exact hostAccess_out s _ q s.arg hcalm hbud
    · exact hostTries_skew s _ _ _ hskew hq
    · exact hostTries_fault s _ _ _ hq
  · refine ⟨_, ?_, rfl⟩
    show execMsixTableWrite s = _
    simp [execMsixTableWrite, aligned48, hodd, State.say]
  · refine ⟨_, ?_, rfl⟩
    show execRegisterWrite s = _
    simp [execRegisterWrite, aligned48, hodd, State.say]
  · have hk := msixTableWrite_wide s hb hw (by rw [hw] at hodd; exact not_not.mp hodd) hoff
    dsimp only at hk
    refine ⟨_, hk, ?_, fun j hj => ?_, fun j hj hp => ?_⟩
    · exact (withVector_vector s hmsix _ _ _).trans (if_pos rfl)
    · exact (withVector_vector s hmsix _ _ _).trans (if_neg hj)
    · exact sendPending_answers (withVector s _ _) j hj hp
  · refine ⟨_, rfl, rfl, rfl, fun j => ?_, rfl, rfl⟩
    exact pending_sendPending (s.modGlob fun g => { g with msixEnable := s.arg.v.getLsbD 0 }) j
  · have wide (hw : s.arg.wide = true) := registerWrite_wide s hb (by rw [hw] at hodd; exact not_not.mp hodd) hw
    have narrow (hw : s.arg.wide = false) := registerWrite_narrow s hb (by rw [hw] at hodd; exact not_not.mp hodd) hw
    have ctx (f : Ctx → Ctx) : (s.modCtx c f).ctx c = f (s.ctx c) := (s.modCtx_ctx hctx c c f).trans (if_pos rfl)
    refine ⟨fun hw h hsw => ⟨_, wide hw, ?_, ?_⟩, fun hw h => ⟨_, wide hw, ?_, ?_⟩, fun hw h => ⟨_, wide hw, ?_⟩,
      fun hw h => ⟨_, wide hw, ?_⟩, fun hw h => ⟨_, narrow hw, ?_⟩, fun hw h => ⟨_, narrow hw, ?_⟩, fun h1 h2 => ?_,
      fun h1 h2 hcut => ?_⟩
    · rw [h]
      show (s.glob.writeSwitchat (merge s.glob.switchat s.arg.v (BitVec.allOnes 64))).switchat = s.arg.v
      rw [Glob.writeSwitchat, if_neg (mt beq_iff_eq.mp hsw), merge_all]
    · rw [h]; exact ⟨rfl, rfl⟩
    · rw [h]
      exact merge_field_written s.glob.apbase s.arg.v _ 36 28 (by decide)
    · rw [h]; exact ⟨rfl, rfl⟩
    · rw [h, writeBar0_ctx s c 0x1A0 _ _ hc (by decide), writeCtxReg_flbase]
      refine ⟨?_, rfl, rfl⟩
      rw [ctx]
      exact merge_field_written _ s.arg.v _ 6 58 (by decide)
    · rw [h, writeBar0_ctx s c 0x1B0 _ _ hc (by decide), writeCtxReg_grega]
      refine ⟨?_, rfl, rfl⟩
      rw [ctx]
      exact merge_all _ _
    · rw [if_neg (by omega), if_neg (by omega), show s.arg.off / 8 * 8 = 0x100000 + 0x10000 * c + 0x1B0 by omega,
        writeBar0_ctx s c 0x1B0 _ _ hc (by decide), writeCtxReg_grega]
      refine ⟨?_, rfl, rfl⟩
      rw [ctx]
      exact merge_low _ _
    · rw [if_pos (by omega), if_pos (by omega), show s.arg.off / 8 * 8 = 0x100000 + 0x10000 * c + 0x1B0 by omega,
        writeBar0_ctx s c 0x1B0 _ _ hc (by decide), writeCtxReg_grega]
      refine ⟨?_, rfl, rfl⟩
      rw [ctx]
      exact merge_high _ _
    · show exec _ s = _
      by_cases hw : s.arg.wide = true
      · rw [wide hw, writeBar0_between s _ _ _ h1 h2]
      · rw [narrow (Bool.eq_false_iff.mpr hw), writeBar0_between s _ _ _ (by omega) (by omega)]
    · show exec _ s = _
      by_cases hw : s.arg.wide = true
      · rw [wide hw, writeBar0_cut s _ _ _ h1 hcut]
      · rw [narrow (Bool.eq_false_iff.mpr hw), writeBar0_cut s _ _ _ (by omega) ?_]
        rwa [show (s.arg.off / 8 * 8 - 0x800000) / 0x10000 = (s.arg.off - 0x800000) / 0x10000 by omega]
  · exact ⟨_, rfl, rfl⟩
  · refine ⟨_, rfl, ?_⟩
    rw [sendVector_sent _ _ hen hmask]
  · refine ⟨_, rfl, ?_⟩
    exact sendVector_held _ _ hheld
  · show execLinkFailure s = _
    rw [execLinkFailure, if_neg (by simpa using hno)]
  · obtain ⟨hn, hm, hhop, h1, h2⟩ := hl
    obtain ⟨hto, hback⟩ := route_link _ hn _ hm hhop
    refine ⟨_, ?_, rfl, ?_, ?_⟩
    · show execLinkFailure s = _
      exact if_pos (by simp [hn, hm, hhop, h1, h2])
    · simp [State.routeBad, hto]
    · simp [State.routeBad, hback]

end Sys2Proof.Laws

namespace Sys2Proof.Machine

open Sys2Proof.Safety

/-! ## The built-in image (R300) -/

section

variable (x0 x1 x2 x3 k0 k1 y0 y1 : Word)

/-- A lane with the coordinates, the seed's words in registers 4 and 5, and two words in registers 6 and 7. -/
def noiseLane : Lane := ⟨[x0, x1, x2, x3, k0, k1, y0, y1, 0, 0, 0, 0, 0, 0, 0, 0], 0⟩

/-- The first word after a mixing round: the product's high word, the round's key and the other word. -/
def noiseHigh : Word := BitVec.ofNat 32 (y0.toNat * 0x9B1F4C63 / 2 ^ 32) ^^^ k0 ^^^ y1

/-- The second word after a mixing round. -/
def noiseLow : Word := BitVec.ofNat 32 (y0.toNat * 0x9B1F4C63)

/-- SRNOISE first folds its four coordinates into two words, the even ones into the first. -/
theorem srNoise_fold_even : execUop srNoise (noiseLane x0 x1 x2 x3 k0 k1 y0 y1) 0 =
    (noiseLane x0 x1 x2 x3 k0 k1 (x0 ^^^ x2) y1, .go 1) := rfl

/-- The odd coordinates are folded into the second word. -/
theorem srNoise_fold_odd : execUop srNoise (noiseLane x0 x1 x2 x3 k0 k1 y0 y1) 1 =
    (noiseLane x0 x1 x2 x3 k0 k1 y0 (x1 ^^^ x3), .go 2) := rfl

/-- A mixing round takes the two words and the round's key, and steps the key. -/
theorem srNoise_mix (i : Nat) (hi : i = 2 ∨ i = 4 ∨ i = 5) : execUop srNoise (noiseLane x0 x1 x2 x3 k0 k1 y0 y1) i =
    (noiseLane x0 x1 x2 x3 (k0 + 0x7F4A7C15) k1 (noiseHigh k0 y0 y1) (noiseLow y0), .go (i + 1)) := by
  rcases hi with rfl | rfl | rfl <;> rfl

/-- The seed's second word enters after the first round. -/
theorem srNoise_key : execUop srNoise (noiseLane x0 x1 x2 x3 k0 k1 y0 y1) 3 =
    (noiseLane x0 x1 x2 x3 k0 k1 (y0 ^^^ k1) y1, .go 4) := rfl

/-- The first word is the value. -/
theorem srNoise_out : execUop srNoise (noiseLane x0 x1 x2 x3 k0 k1 y0 y1) 6 =
    (noiseLane x0 x1 x2 x3 k0 k1 y0 y1, .out y0) := rfl

/-- A step that goes on. -/
theorem runLane_go (n : Nat) (g : Image) (l l' : Lane) (i j : Nat) (h : execUop g l i = (l', .go j)) :
    runLane (n + 1) g l i = runLane n g l' j := by
  rw [runLane, h]

/-- A step that ends the evaluation. -/
theorem runLane_out (n : Nat) (g : Image) (l l' : Lane) (i : Nat) (w : Word) (h : execUop g l i = (l', .out w)) :
    runLane (n + 1) g l i = .ok w := by
  rw [runLane, h]

end

/-- SRNOISE's value, of its folded coordinates and its seed's words: three rounds, the seed's second word entering after the first. -/
def noiseValue (k0 k1 y0 y1 : Word) : Word :=
  let k := k0 + 0x7F4A7C15
  let z0 := noiseHigh k0 y0 y1 ^^^ k1
  let z1 := noiseLow y0
  noiseHigh (k + 0x7F4A7C15) (noiseHigh k z0 z1) (noiseLow z0)

/-- SRNOISE always yields a value, that of its coordinates folded in pairs. -/
theorem evalGen_srNoise (seed : BitVec 64) (c0 c1 c2 c3 : Word) : evalGen srNoise seed c0 c1 c2 c3 =
    .ok (noiseValue (seed.setWidth 32) ((seed >>> 32).setWidth 32) (c0 ^^^ c2) (c1 ^^^ c3)) := by
  have hfuel : srNoise.bound = 7 := rfl
  have hstart : Lane.start c0 c1 c2 c3 seed = noiseLane c0 c1 c2 c3 (seed.setWidth 32) ((seed >>> 32).setWidth 32) 0 0 := rfl
  rw [evalGen, hfuel, hstart, runLane_go _ _ _ _ _ _ (srNoise_fold_even ..), runLane_go _ _ _ _ _ _ (srNoise_fold_odd ..),
    runLane_go _ _ _ _ _ _ (srNoise_mix _ _ _ _ _ _ _ _ 2 (by decide)), runLane_go _ _ _ _ _ _ (srNoise_key ..),
    runLane_go _ _ _ _ _ _ (srNoise_mix _ _ _ _ _ _ _ _ 4 (by decide)),
    runLane_go _ _ _ _ _ _ (srNoise_mix _ _ _ _ _ _ _ _ 5 (by decide)), runLane_out _ _ _ _ _ _ (srNoise_out ..)]
  rfl

/-! ## Evaluations in order (R297, R306) -/

/-- One evaluation of `evalAll`, before those of the rest. -/
def evalCons (g : Image) (seed : BitVec 64) (c : (Word × Word × Word) × Nat)
    (acc : List Word × Option (Nat × Nat × Word × Word × Word)) : List Word × Option (Nat × Nat × Word × Word × Word) :=
  match evalGen g seed c.1.1 c.1.2.1 c.1.2.2 0 with
  | .ok w => (w :: acc.1, acc.2)
  | .error i => ([], some (c.2, i, c.1.1, c.1.2.1, c.1.2.2))

/-- `evalAll` adds one evaluation after another, from the last. -/
theorem evalAll_eq (g : Image) (seed : BitVec 64) (cs : List (Word × Word × Word)) :
    evalAll g seed cs = (cs.zipIdx 0).foldr (evalCons g seed) ([], none) := rfl

section

variable (g : Image) (seed : BitVec 64)

/-- Evaluations that all yield their values. -/
theorem evalAll_values (cs : List (Word × Word × Word)) (w : Nat → Word)
    (h : ∀ i c, cs[i]? = some c → evalGen g seed c.1 c.2.1 c.2.2 0 = .ok (w i)) :
    evalAll g seed cs = ((List.range cs.length).map w, none) := by
  rw [evalAll_eq]
  generalize 0 = k
  induction cs generalizing k w with
  | nil => rfl
  | cons c cs ih =>
    rw [List.zipIdx_cons, List.foldr_cons, ih (fun i => w (i + 1)) (fun i c hc => h (i + 1) c hc), evalCons, h 0 c rfl]
    simp [List.range_succ_eq_map, Function.comp_def]

/-- The first evaluation that meets its bound, with its place and its coordinates. -/
theorem evalAll_bound (cs : List (Word × Word × Word)) (i op : Nat) (c : Word × Word × Word) (hi : cs[i]? = some c)
    (herr : evalGen g seed c.1 c.2.1 c.2.2 0 = .error op)
    (h : ∀ j c, j < i → cs[j]? = some c → ∃ w, evalGen g seed c.1 c.2.1 c.2.2 0 = .ok w) :
    (evalAll g seed cs).2 = some (i, op, c) := by
  have hgen (k : Nat) : ((cs.zipIdx k).foldr (evalCons g seed) ([], none)).2 = some (k + i, op, c) := by
    induction cs generalizing k i with
    | nil => simp at hi
    | cons c' cs ih =>
      rw [List.zipIdx_cons, List.foldr_cons, evalCons]
      cases i with
      | zero =>
        obtain rfl : c' = c := by simpa using hi
        rw [herr]; rfl
      | succ i =>
        obtain ⟨w, hw⟩ := h 0 c' (Nat.succ_pos i) rfl
        rw [hw]
        rw [show k + (i + 1) = k + 1 + i by omega]
        exact ih i (by simpa using hi) (fun j c hj hc => h (j + 1) c (by omega) hc) (k + 1)
  rw [evalAll_eq, hgen, Nat.zero_add]

/-- The coordinates of an evaluation of a line. -/
theorem genLine_get (sc : BitVec 64) (c2 : Word) (x : BitVec 1) (n i : Nat) (hi : i < n) :
    (genLine sc c2 (bit1 x) n)[i]? = some (sc.extractLsb' 0 32 + (if x = 1 then BitVec.ofNat 32 i else 0),
      sc.extractLsb' 32 32 + (if x = 1 then 0 else BitVec.ofNat 32 i), c2) := by
  have hlow : sc.setWidth 32 = sc.extractLsb' 0 32 := BitVec.eq_of_toNat_eq (by simp [BitVec.extractLsb'_toNat])
  have hhigh : (sc >>> 32).setWidth 32 = sc.extractLsb' 32 32 := BitVec.eq_of_toNat_eq (by simp [BitVec.extractLsb'_toNat])
  have hx : bit1 x = decide (x = 1) := rfl
  rw [genLine, List.getElem?_map, List.getElem?_range hi, hx]
  by_cases h : x = 1
  · rw [if_pos h, if_pos h, ← hlow, ← hhigh]
    simp [h]
  · rw [if_neg h, if_neg h, ← hlow, ← hhigh]
    simp [show ¬ x = 1#1 from h]

/-- A line has as many coordinates as it is asked for. -/
theorem genLine_length (sc : BitVec 64) (c2 : Word) (a : Bool) (n : Nat) : (genLine sc c2 a n).length = n := by
  simp [genLine]

end

/-! ## Evaluations in flight (R296) -/

section

variable (s : State)

/-- The engines of the issuing unit with one more evaluation of GEVAL in flight, until a cycle (R296). -/
def genAdds (n : BitVec 4) (till : Nat) : Eng :=
  { s.me.eng with genUses := (n, 0, till) :: s.me.eng.genUses.filter fun u => decide (s.cycle < u.2.2) }

/-- An evaluation in flight keeps its unit from being idle. -/
theorem genAdds_ne_idle (n : BitVec 4) (till : Nat) : { s.me with eng := genAdds s n till } ≠ Unit.idle := fun h =>
  List.cons_ne_nil _ _ (congrArg (fun x : Unit => x.eng.genUses) h)

/-- An evaluation in flight changes its unit's engines alone. -/
theorem genBegin_me (n : BitVec 4) (till : Nat) : (s.genBegin n 0 till).me = { s.me with eng := genAdds s n till } :=
  State.modUnit_unit_same s _ _ (genAdds_ne_idle s n till)

/-- A flight of the issuing operation is the same once an evaluation is in flight. -/
theorem genBegin_flight (n : BitVec 4) (till : Nat) (path : BitVec 3) (due : Nat) (rd wr : Bool) (sp : List (Nat × Nat)) (w : Fly) :
    (s.genBegin n 0 till).flight path due rd wr sp w = s.flight path due rd wr sp w := by
  unfold State.flight
  rw [genBegin_me]
  rfl

/-- An evaluation in flight, a flight, and the issue of the operation. -/
theorem genBegin_fly_issued (n : BitVec 4) (till : Nat) (fl : Flight) (occ : Nat) :
    let t := ((s.genBegin n 0 till).fly fl).issued occ
    Own { s.me with eng := genAdds s n till } s t ∧ Left s t occ ∧ t.landings = s.landings ∧ t.flights = s.flights ++ [fl] := by
  obtain ⟨hregs, hleft⟩ := (s.fly fl).modUnit_issued (fun x => { x with eng := genAdds s n till }) (genAdds_ne_idle s n till) rfl occ
  exact ⟨⟨hregs, rfl⟩, hleft, rfl, rfl⟩

/-- Whether an evaluation of another kind is in flight (R296). -/
theorem genHeld_iff (kind : Nat) : s.genHeld kind = true ↔ ∃ u ∈ s.me.eng.genUses, u.2.1 ≠ kind ∧ s.cycle < u.2.2 := by
  simp [State.genHeld]

/-- Whether an evaluation that uses a slot is in flight, or has still to issue (R301). -/
theorem genUsing_iff (n : BitVec 4) : s.genUsing n = true ↔ (∃ u ∈ s.me.eng.genUses, u.1 = n ∧ s.cycle < u.2.2) ∨
    ∃ o ∈ (s.me.slot 4).queue, o.seq < s.cur.op.seq ∧ (o.instr 4).bind genSlot? = some n := by
  simp [State.genUsing]

/-- The image of a name: the built-in one, or one of the context's registry (R300, R304). -/
theorem imageNamed_eq (c : BitVec 3) (name : BitVec 64) : s.imageNamed c name =
    if name = 0x204553494F4E5253 then some srNoise else (s.ctx c.toNat).registry.find? fun g => g.name == name := by
  rw [State.imageNamed, srNoiseName]
  simp only [beq_iff_eq]

/-- An evaluation has at least one cycle of its engine (R295). -/
theorem one_le_pace (g : Image) : 1 ≤ g.pace := by unfold Image.pace; omega

/-- The engine's cycles of `k` evaluations end with the admission of the last. -/
theorem occupancy_eq (g : Image) (k : Nat) (hk : k ≠ 0) :
    max 1 (ceilDiv (k * g.pace) 128) = g.admission (k - 1) + 1 := by
  have hpos : 1 ≤ k * g.pace := Nat.mul_pos (Nat.pos_of_ne_zero hk) (one_le_pace g)
  rw [Image.admission, Nat.sub_add_cancel (Nat.pos_of_ne_zero hk), ceilDiv]
  omega

/-- The admission of an evaluation, by the cycles of those up to it (R297). -/
theorem admission_eq (g : Image) (i : Nat) : g.admission i = ceilDiv ((i + 1) * g.pace) 128 - 1 := by
  rw [Image.admission, ceilDiv, Nat.add_sub_assoc (by decide)]

/-- The runs of an evaluation's values: one for each, the first of them a start. -/
theorem firstB_values (w : Nat → Word) (k : Nat) : firstB (((List.range k).map w).map fun y => ⟨y, 1, false⟩) =
    (List.range k).map fun i => ⟨w i, 1, decide (i = 0)⟩ := by
  cases k with
  | zero => rfl
  | succ k => simp [List.range_succ_eq_map, firstB]

section

variable (v : BitVec 6) (n : BitVec 4) (sd : BitVec 3) (c l : BitVec 5) (x : BitVec 1)

/-- How GEVAL issues, by its evaluations: a vector result, or the fault of the first that meets its bound (R297, R306). -/
def gevalDone (g : Image) (k : Nat) (r : List Word × Option (Nat × Nat × Word × Word × Word)) : State :=
  let occ := max 1 (ceilDiv (k * g.pace) 128)
  match r.2 with
  | none =>
    let t := if k = 0 then s else s.genBegin n 0 (s.cycle + g.admission (k - 1) + 16 * g.pace)
    (t.result (occ + 16 * g.pace + 3) [(.v v, .runs (firstB (r.1.map fun w => ⟨w, 1, false⟩)))] 0).issued occ
  | some (i, op, c0, c1, c2) =>
    let due := s.cycle + g.admission i + 16 * g.pace
    ((s.genBegin n 0 (due + 1)).boundAt due (some v) (genBound 1 g (s.me.seed sd) c0 c1 c2 0 0 n op)).issued occ

/-- The coordinates that GEVAL evaluates at. -/
def gevalLine : List (Word × Word × Word) :=
  genLine (s.rs c) ((s.rs l).extractLsb' 32 32) (bit1 x) ((s.rs l).extractLsb' 0 32).toNat

/-- GEVAL up to its evaluations: what it waits for, and the faults of its count and of its slot. -/
theorem geval_eq : exec (.geval v n sd c l x) s =
    let k := ((s.rs l).extractLsb' 0 32).toNat
    if s.genHeld 0 = true then .next s
    else if 4096 < k then .next (s.raise (runOverflow k))
    else match s.me.gslot n with
      | none => .next (s.raise (genUnknown 0))
      | some g => .next (gevalDone s v n sd g k (evalAll g (s.me.seed sd) (gevalLine s c l x))) := by
  have hlow : ((s.rs l).extractLsb' 0 32).toNat = (s.rs l).toNat % 2 ^ 32 := by simp [BitVec.extractLsb'_toNat]
  have hhigh : (s.rs l).extractLsb' 32 32 = (s.rs l >>> 32).setWidth 32 :=
    BitVec.eq_of_toNat_eq (by simp [BitVec.extractLsb'_toNat])
  show execGeval v n sd c l x s = _
  unfold execGeval gevalDone gevalLine
  simp only [hlow, hhigh, beq_iff_eq] <;> split_ifs <;> cases s.me.gslot n <;> rfl

/-- GEVAL with a resident image evaluates at its coordinates. -/
theorem geval_goes (g : Image) (hheld : ¬ s.genHeld 0 = true) (hk : ((s.rs l).extractLsb' 0 32).toNat ≤ 4096)
    (hg : s.me.gslot n = some g) : exec (.geval v n sd c l x) s = .next
      (gevalDone s v n sd g ((s.rs l).extractLsb' 0 32).toNat (evalAll g (s.me.seed sd) (gevalLine s c l x))) := by
  rw [geval_eq, hg]
  exact (if_neg hheld).trans (if_neg (Nat.not_lt.mpr hk))

/-- GEVAL whose evaluations all yield their values. -/
theorem gevalDone_values (g : Image) (k : Nat) (w : Nat → Word) :
    let occ := max 1 (ceilDiv (k * g.pace) 128)
    let uses := (n, 0, s.cycle + occ - 1 + 16 * g.pace) :: s.me.eng.genUses.filter fun u => decide (s.cycle < u.2.2)
    let t := gevalDone s v n sd g k ((List.range k).map w, none)
    Own { s.me with eng := if k = 0 then s.me.eng else { s.me.eng with genUses := uses } } s t ∧ Left s t occ ∧
      t.landings = s.landings ∧ t.flights = s.flights ++ [resultOf s (occ + 16 * g.pace + 3) (.v v)
        (.runs ((List.range k).map fun i => ⟨w i, 1, decide (i = 0)⟩)) 0] := by
  dsimp only
  unfold gevalDone
  dsimp only
  rw [firstB_values]
  by_cases hk : k = 0
  · rw [if_pos hk, if_pos hk]
    obtain ⟨hframe, hleft, hflights, -, hlandings, -⟩ := s.fly_issued (max 1 (ceilDiv (k * g.pace) 128))
      (resultOf s (max 1 (ceilDiv (k * g.pace) 128) + 16 * g.pace + 3) (.v v)
        (.runs ((List.range k).map fun i => ⟨w i, 1, decide (i = 0)⟩)) 0)
    refine ⟨⟨fun u => (hframe.1 u).trans ?_, hframe.2⟩, hleft, hlandings, hflights⟩
    split_ifs with hu
    · rw [hu]; rfl
    · rfl
  · rw [if_neg hk, if_neg hk, occupancy_eq g k hk, Nat.add_sub_assoc (Nat.le_add_left 1 _), Nat.add_sub_cancel]
    unfold State.result
    rw [genBegin_flight]
    exact genBegin_fly_issued s n _ _ _

/-- GEVAL whose evaluation `i` is the first to meet its bound. -/
theorem gevalDone_bound (g : Image) (k i op : Nat) (c0 c1 c2 : Word) (ws : List Word) :
    let due := s.cycle + (ceilDiv ((i + 1) * g.pace) 128 - 1) + 16 * g.pace
    let occ := max 1 (ceilDiv (k * g.pace) 128)
    let uses := (n, 0, due + 1) :: s.me.eng.genUses.filter fun u => decide (s.cycle < u.2.2)
    let f := genBound 1 g (s.me.seed sd) c0 c1 c2 0 0 n op
    let t := gevalDone s v n sd g k (ws, some (i, op, c0, c1, c2))
    Own { s.me with eng := { s.me.eng with genUses := uses } } s t ∧ Left s t occ ∧ t.landings = s.landings ∧
      t.flights = s.flights ++ [{ s.flight pNone due false false [] (.bound (some v)) with
        bad := some ⟨s.cur.op.seq, s.cur.op.addr, s.cur.slot, 0x10, 1, g.name, f.info1, f.info2, f.info3, f.xinfo, pNone, 0, 0,
          true⟩ }] := by
  dsimp only
  unfold gevalDone
  dsimp only
  rw [← admission_eq]
  unfold State.boundAt
  rw [genBegin_flight]
  exact genBegin_fly_issued s n _ _ _

end

/-- What GSTAT answers of a resident image (R307). -/
def imageWord (g : Image) (q : Nat) : BitVec 64 :=
  match q with
  | 0 => g.name
  | 1 => g.info
  | k => BitVec.ofNat 64 (leNat ((g.digest.drop (8 * (k - 2))).take 8))

/-- GSTAT answers with a seed, zero, or a word of its image's header (R307). -/
theorem gstat_eq (d : BitVec 5) (n : BitVec 4) (sd : BitVec 3) (q : BitVec 4) : exec (.gstat d n sd q) s =
    .next ((s.result 2 [(.s (s.ps d), .scalar (if q = 6 then s.me.seed sd else match s.me.gslot n with
      | none => 0
      | some g => imageWord g q.toNat))] 0).issued 1) := by
  show execGstat d n sd q s = _
  unfold execGstat imageWord
  simp only [beq_iff_eq] <;> cases s.me.gslot n <;> rfl

end

end Sys2Proof.Machine

namespace Sys2Proof.Laws

open Sys2Proof.Machine

/-- Settles O35: GEVAL by its evaluations in order, the other instructions by their equations, SRNOISE by running its seven
micro-operations. -/
theorem generatorResults : Obligations.GeneratorResults := by
  refine ⟨?_, ?_, ?_, ?_⟩
  · intro s n q a d c l sd v x
    dsimp only
    rw [← genUsing_iff, ← genHeld_iff]
    refine ⟨fun h => ⟨?_, ?_⟩, fun h hk => ?_, fun h g hk hr => ?_, fun h g hk hr => ?_, fun h => ?_, ⟨_, rfl, s.fly_issued 1 _⟩,
      fun h => ?_, fun h hk => ?_, fun h hk hg => ?_, fun h hk g hg => ⟨fun w hw => ?_, fun i op hi herr hbefore => ?_⟩,
      fun hq => ?_, fun hq hg => ?_, fun g hg => ?_⟩
    · exact if_pos h
    · exact if_pos h
    · refine ⟨_, ?_, s.raise_raises (genUnknown (s.rs a))⟩
      show execGload n a s = _
      rw [← imageNamed_eq] at hk
      rw [execGload, if_neg h, hk]
    · refine ⟨_, ?_, s.raise_raises _⟩
      show execGload n a s = _
      rw [← imageNamed_eq] at hk
      rw [execGload, if_neg h, hk]
      exact if_pos hr
    · refine ⟨_, ?_, s.fly_issued 1 _⟩
      show execGload n a s = _
      rw [← imageNamed_eq] at hk
      rw [execGload, if_neg h, hk]
      exact if_neg (Bool.eq_false_iff.mp hr)
    · exact ⟨_, if_neg h, s.fly_issued 1 _⟩
    · exact if_pos h
    · refine ⟨_, ?_, s.raise_raises _⟩
      rw [geval_eq]
      exact (if_neg h).trans (if_pos hk)
    · refine ⟨_, ?_, s.raise_raises (genUnknown 0)⟩
      rw [geval_eq, hg]
      exact (if_neg h).trans (if_neg (Nat.not_lt.mpr hk))
    · have hline (i : Nat) (y : Word × Word × Word) (hy : (gevalLine s c l x)[i]? = some y) :
          evalGen g (s.me.seed sd) y.1 y.2.1 y.2.2 0 = .ok (w i) := by
        have hi : i < ((s.rs l).extractLsb' 0 32).toNat := by
          obtain ⟨hlt, -⟩ := List.getElem?_eq_some_iff.mp hy
          rwa [gevalLine, genLine_length] at hlt
        obtain rfl := Option.some.inj ((genLine_get _ _ x _ i hi).symm.trans hy)
        exact hw i hi
      refine ⟨_, ?_, gevalDone_values s v n sd g _ w⟩
      rw [geval_goes s v n sd c l x g h hk hg, evalAll_values g _ _ w hline, gevalLine, genLine_length]
    · have hline := evalAll_bound g (s.me.seed sd) (gevalLine s c l x) i op _ (genLine_get _ _ x _ i hi) herr fun j y hj hy => by
        obtain rfl := Option.some.inj ((genLine_get _ _ x _ j (by omega)).symm.trans hy)
        exact hbefore j hj
      refine ⟨_, ?_, gevalDone_bound s v n sd g _ i op _ _ _ (evalAll g (s.me.seed sd) (gevalLine s c l x)).1⟩
      rw [geval_goes s v n sd c l x g h hk hg, ← hline]
    · exact ⟨_, by rw [gstat_eq, if_pos hq]; rfl, s.fly_issued 1 _⟩
    · exact ⟨_, by rw [gstat_eq, if_neg hq, hg]; rfl, s.fly_issued 1 _⟩
    · have hstat (hq : q ≠ 6) (y : BitVec 64) (hy : imageWord g q.toNat = y) :
          Safety.Goes (exec (.gstat d n sd q) s) (Safety.Flies 1 (Safety.resultOf s 2 (.s (s.ps d)) (.scalar y) 0) s) :=
        ⟨_, by rw [gstat_eq, if_neg hq, hg, ← hy]; rfl, s.fly_issued 1 _⟩
      refine ⟨?_, ?_, ?_, ?_, ?_, ?_⟩ <;> (rintro rfl; exact hstat (by decide) _ rfl)
  · rfl
  · rfl
  · intro seed c0 c1 c2 c3
    refine ⟨_, evalGen_srNoise seed c0 c1 c2 c3, ?_⟩
    rw [evalGen_srNoise, BitVec.ofNat_eq_ofNat, BitVec.xor_zero, BitVec.xor_zero]

end Sys2Proof.Laws

namespace Sys2Proof.Machine

/-! ## Meanings of instructions (R111) -/

/-- An access through a window of host physical addresses answers whether or not a window holds its address. -/
theorem execCxlMemAccess_answers (s : State) : ∃ t, execCxlMemAccess s = .next t := by
  unfold execCxlMemAccess
  by_cases hfrozen : (s.die 0).frozenHost = true
  · rw [if_pos hfrozen]
    exact ⟨_, rfl⟩
  rw [if_neg hfrozen]
  generalize List.find? _ _ = hit
  by_cases hclosed : (!Config.trainedCxl s.glob.boots || s.glob.bootfail) = true
  · rw [if_pos hclosed]
    exact ⟨_, rfl⟩
  rw [if_neg hclosed]
  cases hit with
  | none => exact ⟨_, rfl⟩
  | some c =>
    let w := (s.ctx c).hmwin.toNat
    let va := BitVec.ofNat 64 (w / 2 ^ 64 % 2 ^ 26 * 2 ^ 30 + (s.arg.off - w / 2 ^ 30 % 2 ^ 34 * 2 ^ 30))
    by_cases hno : ((s.ctx c).state != 1 || s.arg.wr && w / 2 ^ 100 % 2 == 0) = true
    · exact ⟨_, if_pos hno⟩
    · refine ⟨hostTries s (BitVec.ofNat 3 c) va .poison, (if_neg hno).trans ?_⟩
      unfold hostTries
      generalize s.hostReach _ _ _ _ = r
      cases r <;> rfl

/-- Every instruction gives a next state: where its meaning tests its operands or the state, each branch does. -/
theorem exec_answers (i : Instr) (s : State) : ∃ t, exec i s = .next t := by
  cases i
  case cxlMemAccess => exact execCxlMemAccess_answers s
  case fencei | brswap | waitt | rfmode | getsp | setsp | vsplat | viota | viotaSeg | vslice | vcat | vpick | vsegset | vsegclr |
    vspread | vscan | stv | ldr | ldvr | stvr | shwin | shchk | shq | waitf | mscl | star | fence | xfence | drain | roopen | bfinV |
    tgrow | launch | notify | mzero | mldb | mgenbPure | mgenbAdd | mmag | mdrv | mdrs | madp | madt | mdrvRag | gload | gfree | geval |
    cpy | cpyZ | cpyr | xpose | xcvt | xexp | imload | chdef | linkFailure | exposedResultLands | presenceResultArrives | taskDispatch |
    coResidentDispatch | replayDispatch | preq | taskPreemption | preemptionLimitExpiry | switchInstant | switchDrainLimit |
    gangSwitchSave | gangSwitchRestore | portSyncOperation | waitmSatisfied | waittDeadline | tlbInvalidationComplete |
    budgetPeriodBoundary | hostBar4Access | msixTableWrite | registerWrite | registrationComplete | codeLoadComplete | ctxCreateComplete
    | accumulatorRowLands | genBoundDetected | mdrsTileRelease | gloadCopyComplete | transferTileRelease | transferComplete |
    transformComplete | switchContribution | switchSlotTimeout | agreementContribution | agreementTimeout | lbrk | retire | frame |
    frameX | mswap | writePerformed | lastPacketAccepted | switchPacketDrop =>
    dsimp only [exec, execFencei, execBrswap, execWaitt, execRfmode, execGetsp, execSetsp, execVsplat, execViota, execViotaSeg,
      execVslice, execVcat, execVpick, execVsegset, execVsegclr, execVspread, execVscan, execStv, execLdr, execLdvr, execStvr,
      execShwin, execShchk, execShq, execWaitf, execMscl, execStar, execFence, execXfence, execDrain, execRoopen, execBfinV, execTgrow,
      execLaunch, execNotify, execMzero, execMldb, execMgenbPure, execMgenbAdd, execMmag, execMdrv, execMdrs, execMadp, execMadt,
      execMdrvRag, execGload, execGfree, execGeval, execCpy, execCpyZ, execCpyr, execXpose, execXcvt, execXexp, execImload, execChdef,
      execLinkFailure, execExposedResultLands, execPresenceResultArrives, execTaskDispatch, execCoResidentDispatch, execReplayDispatch,
      execPreq, execTaskPreemption, execPreemptionLimitExpiry, execSwitchInstant, execSwitchDrainLimit, execGangSwitchSave,
      execGangSwitchRestore, execPortSyncOperation, execWaitmSatisfied, execWaittDeadline, execTlbInvalidationComplete,
      execBudgetPeriodBoundary, execHostBar4Access, execMsixTableWrite, execRegisterWrite, execRegistrationComplete,
      execCodeLoadComplete, execCtxCreateComplete, execAccumulatorRowLands, execGenBoundDetected, execMdrsTileRelease,
      execGloadCopyComplete, execTransferTileRelease, execTransferComplete, execTransformComplete, execSwitchContribution,
      execSwitchSlotTimeout, execAgreementContribution, execAgreementTimeout, execLbrk, execRetire, execFrame, execFrameX, execMswap,
      execWritePerformed, execLastPacketAccepted, execSwitchPacketDrop]
    repeat' split
    all_goals exact ⟨_, rfl⟩
  all_goals exact ⟨_, rfl⟩

/-! ## Where a slot's move comes from -/

/-- A move gives a next state, but for a slot's move of a unit that the package does not have (R8). -/
theorem doMove_answers (m : Move) (s : State) :
    (∃ t, doMove m s = .next t) ∨ doMove m s = .fault .absentUnit ∧ ∃ u k, m = .slot u k ∧ 480 ≤ u := by
  cases m with
  | slot u k =>
    by_cases hu : u < 480
    · left
      have hok : unitOk u = true := decide_eq_true hu
      rw [doMove, if_pos hok]
      cases s.attempt u k with
      | settled t => exact ⟨_, rfl⟩
      | run i t touch =>
        obtain ⟨t', ht'⟩ := exec_answers i t
        exact ⟨_, by dsimp only; rw [ht']⟩
    · right
      refine ⟨?_, u, k, rfl, Nat.le_of_not_lt hu⟩
      rw [doMove, if_neg (by simpa [unitOk] using hu)]
  | event i a =>
    left
    rw [doMove]
    split_ifs
    · exact exec_answers i _
    · exact ⟨_, rfl⟩
  | tick => exact .inl ⟨_, rfl⟩
  | progress n => exact .inl ⟨_, rfl⟩
  | part n g => exact .inl ⟨_, rfl⟩
  | split n g => exact .inl ⟨_, rfl⟩
  | operand u p => exact .inl ⟨_, rfl⟩
  | packet p => exact .inl ⟨_, rfl⟩
  | bind h b => exact .inl ⟨_, rfl⟩
  | hostRead off wide => exact .inl ⟨_, rfl⟩
  | memoryError pa => exact .inl ⟨_, rfl⟩

/-- A move of a slot, if it is one, is one of a unit of the state's table. -/
def SlotKnown (s : State) (o : Option Move) : Prop := ∀ u k, o = some (.slot u k) → ∃ p ∈ s.units, p.1 = u

/-- A move that is an event or an entry's step, or none. -/
def NoSlot (o : Option Move) : Prop := ∀ u k, o ≠ some (.slot u k)

section

variable (s : State)

/-- A move that is no slot's is of no unknown unit. -/
theorem NoSlot.known {o : Option Move} (h : NoSlot o) : SlotKnown s o := fun u k ho => absurd ho (h u k)

/-- The first of two moves, or the second. -/
theorem SlotKnown.orElse {o : Option Move} {f : PUnit → Option Move} (ho : SlotKnown s o) (hf : SlotKnown s (f .unit)) :
    SlotKnown s (o.orElse f) := by
  cases o with
  | none => exact hf
  | some m => exact ho

/-- A move of the table's first unit that has one. -/
theorem slotKnown_units (f : Nat × Unit → Option Move) (hf : ∀ p u k, f p = some (.slot u k) → p.1 = u) :
    SlotKnown s (s.units.findSome? f) := by
  intro u k h
  obtain ⟨p, hp, hfp⟩ := List.exists_of_findSome?_eq_some h
  exact ⟨p, hp, hf p u k hfp⟩

end

/-- An event is no slot's move. -/
theorem noSlot_ev (i : Instr) (n m : Nat) : NoSlot (some (ev i n m)) := fun _ _ => nofun

/-- No move is no slot's move. -/
theorem noSlot_none : NoSlot none := fun _ _ => nofun

/-- An event of what was found, if anything, is no slot's move. -/
theorem noSlot_events {α : Type} (o : Option α) (i : α → Instr) (n m : α → Nat) : NoSlot (o.map fun a => ev (i a) (n a) (m a)) := by
  cases o with
  | none => exact noSlot_none
  | some a => exact noSlot_ev _ _ _

/-- An event found in a list is no slot's move. -/
theorem noSlot_findSome {α : Type} (l : List α) (f : α → Option Move) (hf : ∀ a, NoSlot (f a)) : NoSlot (l.findSome? f) :=
  fun u k h => by
    obtain ⟨a, -, ha⟩ := List.exists_of_findSome?_eq_some h
    exact hf a u k ha

/-- Neither of two moves is a slot's. -/
theorem NoSlot.orElse {o : Option Move} {f : PUnit → Option Move} (ho : NoSlot o) (hf : NoSlot (f .unit)) :
    NoSlot (o.orElse f) := by
  cases o with
  | none => exact hf
  | some m => exact ho

/-- A unit's ready slot is its own. -/
theorem readySlot_unit (s : State) (v : Nat) (x : Unit) (u k : Nat) (h : s.readySlot v x = some (.slot u k)) : v = u := by
  unfold State.readySlot at h
  split at h
  · cases h
  · obtain ⟨j, -, hj⟩ := List.exists_of_findSome?_eq_some h
    dsimp only at hj
    split at hj
    · cases hj
    · split at hj
      · cases hj; rfl
      · cases hj

/-- A slot that is due is one of a unit of the table. -/
theorem dueSlot_known (s : State) : SlotKnown s s.dueSlot :=
  slotKnown_units s _ fun p u k h => readySlot_unit s p.1 p.2 u k h

/-- What is due is an event, or a slot of a unit of the table. -/
theorem dueMove_known (s : State) : SlotKnown s s.dueMove := by
  unfold State.dueMove
  refine .orElse s ?_ <| .orElse s ?_ <| .orElse s ?_ <| .orElse s ?_ <| .orElse s ?_ <| .orElse s ?_ <| .orElse s ?_ <|
    .orElse s ?_ <| .orElse s ?_ <| .orElse s ?_ <| .orElse s ?_ <| .orElse s (dueSlot_known s) ?_
  · cases findAt s.landings fun _ l => s.mayLand l with
    | none => exact noSlot_none.known s
    | some n =>
      refine NoSlot.known s ?_
      dsimp only [Option.map]
      split
      · split_ifs <;> exact noSlot_ev _ _ _
      · exact noSlot_ev _ _ _
  · exact (noSlot_events _ _ _ _).known s
  · refine (noSlot_findSome _ _ fun p => ?_).known s
    split
    · split_ifs
      · exact noSlot_none
      · exact noSlot_ev _ _ _
      · exact noSlot_ev _ _ _
    · exact noSlot_none
  · exact (noSlot_events _ _ _ _).known s
  · exact (noSlot_events _ _ _ _).known s
  · exact (noSlot_events _ _ _ _).known s
  · exact (noSlot_events _ _ _ _).known s
  · refine NoSlot.known s ?_
    split
    · split_ifs
      · exact noSlot_ev _ _ _
      · exact noSlot_none
    · exact noSlot_none
  · refine (noSlot_findSome _ _ fun p => ?_).known s
    split
    · split_ifs
      · exact noSlot_ev _ _ _
      · exact noSlot_none
    · exact noSlot_none
  · exact (noSlot_events _ _ _ _).known s
  · exact (noSlot_events _ _ _ _).known s
  · exact (noSlot_events _ _ _ _).known s

/-- An entry in flight that goes on is no slot's move. -/
theorem noSlot_progress {α : Type} (o : Option α) (n : α → Nat) : NoSlot (o.map fun a => .progress (n a)) := by
  cases o with
  | none => exact noSlot_none
  | some a => exact fun _ _ => nofun

/-- What goes on is an entry in flight. -/
theorem goesOn_noSlot (s : State) : NoSlot s.goesOn :=
  .orElse (noSlot_progress _ _) (.orElse (noSlot_progress _ _) (noSlot_progress _ _))

/-- A fault to deliver, or a ready slot, is one of a unit of the table. -/
theorem issues_known (s : State) : SlotKnown s s.issues := by
  refine slotKnown_units s _ fun p u k h => ?_
  split at h
  · split_ifs at h
    · cases h; rfl
    · exact readySlot_unit s p.1 p.2 u k h
  · exact readySlot_unit s p.1 p.2 u k h

/-- What a unit starts is an event. -/
theorem starts_noSlot (s : State) : NoSlot s.starts := by
  unfold State.starts
  refine .orElse (noSlot_events _ _ _ _) ?_
  split_ifs
  · exact noSlot_none
  · exact .orElse (noSlot_events _ _ _ _) (noSlot_events _ _ _ _)

/-- A slot's move that the schedule takes by default is one of a unit of the table. -/
theorem defaultMove_slot (s : State) (u k : Nat) (h : s.defaultMove = .slot u k) : ∃ p ∈ s.units, p.1 = u := by
  have hknown : SlotKnown s (s.dueMove.orElse fun _ => s.directRead.orElse fun _ =>
      ((s.traffic.find? fun c => c.stirs s).map fun c => ev c.move c.n c.m).orElse fun _ =>
      s.goesOn.orElse fun _ => s.issues.orElse fun _ => s.starts.orElse fun _ =>
      (s.affairs.find? fun c => c.stirs s).map fun c => ev c.move c.n c.m) :=
    .orElse s (dueMove_known s) <| .orElse s ((noSlot_progress _ _).known s) <| .orElse s ((noSlot_events _ _ _ _).known s) <|
      .orElse s ((goesOn_noSlot s).known s) <| .orElse s (issues_known s) <| .orElse s ((starts_noSlot s).known s) <|
      (noSlot_events _ _ _ _).known s
  unfold State.defaultMove at h
  refine hknown u k ?_
  revert h
  generalize (s.dueMove.orElse _) = o
  cases o with
  | none => exact fun h => nomatch h
  | some m => exact fun h => congrArg some h

end Sys2Proof.Machine

namespace Sys2Proof.Laws

open Sys2Proof.Machine

/-- Settles O57: every meaning answers in every branch, and the schedule names units of its table, or what the agenda names. -/
theorem everyStepAnswers : Obligations.EveryStepAnswers := by
  refine ⟨exec_answers, fun s => ?_⟩
  unfold Safety.Safe step
  cases hagenda : s.agenda with
  | cons m r =>
    refine (doMove_answers m s.pop).imp_right fun ⟨hfault, u, k, hm, hu⟩ => ⟨hfault, .inl ⟨u, k, r, ?_, hu⟩⟩
    rw [hm]
  | nil =>
    refine (doMove_answers s.defaultMove s).imp_right fun ⟨hfault, u, k, hm, hu⟩ => ⟨hfault, .inr ⟨rfl, ?_⟩⟩
    obtain ⟨p, hp, rfl⟩ := defaultMove_slot s u k hm
    exact ⟨p, hp, hu⟩

end Sys2Proof.Laws

namespace Sys2Proof.Machine

open Sys2Proof.Safety

/-! ## Operations of controllers (R216 to R218) -/

/-- Another unit than the issuing one is as before an issue. -/
@[simp] theorem State.issued_unit_other (s : State) (occ : Nat) {u : Nat} (h : u ≠ s.u) : (s.issued occ).unit u = s.unit u := by
  rw [State.issued, State.issuedAs_eq, State.modUnit_unit_other _ _ h, State.modUnit_unit_other _ _ h]

/-- A unit that an operation issues from is not idle, whatever a change leaves in its slots alone. -/
theorem ne_idle_of_head {s : State} (h : Heads s) {x : Unit} (hx : x.slots = s.me.slots) : x ≠ Unit.idle := by
  rintro rfl
  have hslot : s.me.slot s.cur.slot = .idle := by
    rw [Unit.slot, ← hx]
    rfl
  rw [Heads, hslot] at h
  exact nomatch h

/-- A freed entry of an event queue changes the unit's queues of events alone (R30). -/
theorem Unit.refill_eq (x : Unit) : ∃ e h o, x.refill = { x with events := e, held := h, owed := o } ∧
    e ++ h ++ o = x.events ++ x.held ++ x.owed ∧ (x.held = [] → x.owed = [] → e = x.events) := by
  have stays : ∃ e h o, x = { x with events := e, held := h, owed := o } ∧
      e ++ h ++ o = x.events ++ x.held ++ x.owed ∧ (x.held = [] → x.owed = [] → e = x.events) :=
    ⟨x.events, x.held, x.owed, rfl, rfl, fun _ _ => rfl⟩
  unfold Unit.refill
  split
  · next v r hheld =>
    split
    · exact ⟨x.events ++ [v], r, x.owed, rfl, by simp [hheld], fun h => by simp [hheld] at h⟩
    · exact stays
  · next v r hheld howed =>
    split
    · exact ⟨x.events ++ [v], x.held, r, rfl, by simp [hheld, howed], fun _ h => by simp [howed] at h⟩
    · exact stays
  · exact stays

/-- The flight with which EVPOP and EVPOP.NB answer. -/
def eventPair (s : State) (d e : BitVec 5) (x y : BitVec 64) : Flight :=
  s.flight pNone (s.cycle + 2) false false [] (.result [(.s (s.ps d), .scalar x), (.s (s.ps e), .scalar y)] 0)

/-- Taking the oldest event issues the operation with both words on their way, from a unit whose queues hold the rest. -/
theorem popEvent_cons (s : State) (d e : BitVec 5) (wait : Bool) (hhead : Heads s) {y : Event} {r : List Event}
    (hev : s.me.events = y :: r) :
    let t := s.popEvent d e wait
    t.flights = s.flights ++ [eventPair s d e y.w0 y.w1] ∧ Left s t 1 ∧ t.mem = s.mem ∧
      (t.unit s.u).events ++ (t.unit s.u).held ++ (t.unit s.u).owed = r ++ s.me.held ++ s.me.owed ∧
      (s.me.held = [] → s.me.owed = [] → (t.unit s.u).events = r) ∧ ∀ u, u ≠ s.u → t.unit u = s.unit u := by
  obtain ⟨es, hs, os, hre, hall, hnone⟩ := ({ s.me with events := r } : Unit).refill_eq
  let pop (x : Unit) : Unit := { x with events := r }.refill
  have hpop : pop s.me = { s.me with events := es, held := hs, owed := os } := hre
  have hne : pop s.me ≠ Unit.idle := ne_idle_of_head hhead (by rw [hpop])
  have hme : (s.modUnit s.u pop).me = { s.me with events := es, held := hs, owed := os } :=
    (State.modUnit_unit_same s s.u pop hne).trans hpop
  have hfly : (s.modUnit s.u pop).flight pNone (s.cycle + 2) false false []
      (.result [(.s (s.ps d), .scalar y.w0), (.s (s.ps e), .scalar y.w1)] 0) = eventPair s d e y.w0 y.w1 := by
    unfold eventPair State.flight
    rw [hme]
    rfl
  have hstate : s.popEvent d e wait = ((s.fly (eventPair s d e y.w0 y.w1)).modUnit s.u pop).issued 1 := by
    rw [← hfly, State.popEvent, hev]
    rfl
  obtain ⟨hregs, hleft⟩ := (s.fly (eventPair s d e y.w0 y.w1)).modUnit_issued pop hne (by
    show (pop s.me).slots = s.me.slots
    rw [hpop]) 1
  have hunit : regs ((s.popEvent d e wait).unit s.u) = regs { s.me with events := es, held := hs, owed := os } := by
    rw [hstate]
    exact (hregs s.u).trans (by rw [State.fly_u, if_pos rfl, State.fly_me, hpop])
  have hevents : ((s.popEvent d e wait).unit s.u).events = es := congrArg Unit.events hunit
  have hheld : ((s.popEvent d e wait).unit s.u).held = hs := congrArg Unit.held hunit
  have howed : ((s.popEvent d e wait).unit s.u).owed = os := congrArg Unit.owed hunit
  refine ⟨by rw [hstate]; rfl, by rw [hstate]; exact hleft, by rw [hstate]; rfl, ?_, fun h₁ h₂ => hevents.trans (hnone h₁ h₂), ?_⟩
  · rw [hevents, hheld, howed]
    exact hall
  · intro u hu
    rw [hstate, State.issued_unit_other ((s.fly _).modUnit s.u pop) 1 hu, State.modUnit_unit_other _ _ hu, State.fly_unit]

/-- LAUNCH of a record in a vault waits for what its release orders before it, and asks then (R129, R217). -/
theorem launch_eq (s : State) (b : BitVec 5) (hvault : (s.rs b).toNat / 2 ^ 60 = 1) : exec (.launch b) s =
    if s.flights.any (s.fenced s.u s.cur.op.seq 3 [pSL, pAT]) then .next s else .next (s.ask (.launch true) (s.rs b) [] []) := by
  show execLaunch b s = _
  rw [execLaunch]
  simp only [hvault, bne_self_eq_false, Bool.false_eq_true, if_false]

/-- NOTIFY with nothing left to wait for sends its vector (R131, R218). -/
theorem notify_goes (s : State) (n : BitVec 11) (hflights : ∀ f ∈ s.flights, s.fenced s.u s.cur.op.seq 4 [pSL, pAT, pAC] f = false)
    (hxfers : ∀ x ∈ s.xfers, x.unit = s.u → x.seq < s.cur.op.seq → s.xferOpen x = false) :
    exec (.notify n) s = .next ((s.sendVector n.toNat).issued 1) := by
  have h₁ : s.flights.any (s.fenced s.u s.cur.op.seq 4 [pSL, pAT, pAC]) = false :=
    List.any_eq_false.mpr fun f hf => by simp [hflights f hf]
  have h₂ : s.xfers.any (fun x => x.unit == s.u && decide (x.seq < s.cur.op.seq) && s.xferOpen x) = false :=
    List.any_eq_false.mpr fun x hx h => by
      simp only [Bool.and_eq_true, beq_iff_eq, decide_eq_true_eq] at h
      obtain ⟨⟨hu, hseq⟩, hopen⟩ := h
      exact absurd hopen (by simp [hxfers x hx hu hseq])
  show execNotify n s = _
  rw [execNotify, h₁, h₂]
  rfl

end Sys2Proof.Machine

namespace Sys2Proof.Laws

open Sys2Proof.Machine Sys2Proof.Safety

/-- Settles O27: what each of the four operations does, by whether its queue is empty and what it has to wait for. -/
theorem controllerOperations : Obligations.ControllerOperations := by
  intro s d e b n
  dsimp only
  intro hhead
  refine ⟨fun y r hev => ⟨_, rfl, popEvent_cons s d e true hhead hev⟩, fun y r hev => ⟨_, rfl, popEvent_cons s d e false hhead hev⟩,
    fun hev => ⟨?_, ?_⟩, fun hspace => ?_, fun hvault hbefore => ?_, fun hvault hbefore => ?_, fun hflights hxfers => ?_⟩
  · show Host.Outcome.next (s.popEvent d e true) = .next s
    rw [State.popEvent, hev]
    rfl
  · refine ⟨_, rfl, ?_⟩
    rw [State.popEvent, hev]
    exact s.fly_issued 1 (eventPair s d e 0 0)
  · refine ⟨_, ?_, s.raise_raises _⟩
    show execLaunch b s = _
    rw [execLaunch, if_pos (bne_iff_ne.mpr hspace)]
  · have hany : s.flights.any (s.fenced s.u s.cur.op.seq 3 [pSL, pAT]) = true := by
      simpa using hbefore
    exact (launch_eq s b hvault).trans (if_pos hany)
  · have hnone : ¬ s.flights.any (s.fenced s.u s.cur.op.seq 3 [pSL, pAT]) = true := by
      simpa using hbefore
    exact askOut_of s _ _ _ _ _ ((launch_eq s b hvault).trans (if_neg hnone))
  · obtain ⟨hregs, hleft⟩ := (s.sendVector n.toNat).issued_spec 1
    refine ⟨_, notify_goes s n hflights hxfers, hleft, rfl, rfl, hregs, fun hen hmask => ?_, fun hheld => ?_⟩
    · rw [State.issued_hostOut, State.issued_glob, sendVector_sent s n.toNat hen hmask]
      exact ⟨rfl, rfl⟩
    · rw [State.issued_hostOut, State.issued_glob]
      exact (sendVector_held s n.toNat hheld).symm

end Sys2Proof.Laws

namespace Sys2Proof.Machine

open Sys2Proof.Safety

/-! ## Elements of lists of runs (R87, R245 to R254) -/

@[simp] theorem elems_nil : elems [] = [] := rfl

@[simp] theorem elems_cons (r : Run) (rs : List Run) : elems (r :: rs) = List.replicate r.cnt r.val ++ elems rs := by
  simp [elems]

@[simp] theorem elems_append (xs ys : List Run) : elems (xs ++ ys) = elems xs ++ elems ys := by
  simp [elems]

/-- The elements of lists of runs, one list after the other. -/
theorem elems_flatten (gs : List (List Run)) : elems gs.flatten = gs.flatMap elems := by
  induction gs with
  | nil => rfl
  | cons g gs ih => simp [ih]

/-- The B bit of the first run says nothing of the elements. -/
@[simp] theorem elems_firstB (rs : List Run) : elems (firstB rs) = elems rs := by
  cases rs <;> simp [firstB]

/-- Runs that differ in their B bits alone hold the same elements. -/
theorem elems_map_b (rs : List Run) (f : Run → Bool) : elems (rs.map fun r => { r with b := f r }) = elems rs := by
  induction rs with
  | nil => rfl
  | cons r rs ih => simp [ih]

/-- Null runs hold no elements (R89). -/
theorem elems_filter_null (rs : List Run) : elems (rs.filter (·.cnt != 0)) = elems rs := by
  induction rs with
  | nil => rfl
  | cons r rs ih =>
    by_cases h : r.cnt = 0
    · simp [h, ih]
    · simp [h, ih]

/-- A list of runs whose counts are all 0 holds no elements. -/
theorem elems_of_runsLen_zero {rs : List Run} (h : runsLen rs = 0) : elems rs = [] := by
  rw [← List.length_eq_zero_iff, length_elems, h]

@[simp] theorem runsLen_cons (r : Run) (rs : List Run) : runsLen (r :: rs) = r.cnt + runsLen rs := by
  simp [runsLen]

@[simp] theorem runsLen_append (xs ys : List Run) : runsLen (xs ++ ys) = runsLen xs + runsLen ys := by
  simp [runsLen]

/-! ### VCOAL (R245) -/

/-- What VCOAL does with one run, of the runs that it has written, the last first. -/
def coalesceStep (z : Bool) (out : List Run) (x : Run) : List Run :=
  let zero := fun (v : Word) => v == 0 || v == 0x80000000
  match out with
  | [] => [x]
  | l :: t =>
    if !x.b && x.cnt != 0 && l.cnt != 0 && (x.val == l.val || (z && zero x.val && zero l.val)) then
      { l with cnt := l.cnt + x.cnt } :: t
    else x :: out

theorem coalesce_eq (z : Bool) (rs : List Run) : coalesce z rs = (rs.foldl (coalesceStep z) []).reverse := rfl

/-- Without merging of zeros, a run lengthens the last one by elements of the same value, or stands after it. -/
theorem elems_coalesceStep (out : List Run) (x : Run) :
    elems (coalesceStep false out x).reverse = elems out.reverse ++ List.replicate x.cnt x.val := by
  unfold coalesceStep
  dsimp only
  split
  · simp
  · next l t =>
    split
    · next h =>
      have hval : x.val = l.val := by simp at h; exact h.2
      simp [hval]
    · simp

theorem elems_coalesce (rs : List Run) : elems (coalesce false rs) = elems rs := by
  have hfold (rs out : List Run) : elems (rs.foldl (coalesceStep false) out).reverse = elems out.reverse ++ elems rs := by
    induction rs generalizing out with
    | nil => simp
    | cons x rs ih => rw [List.foldl_cons, ih, elems_coalesceStep, elems_cons, List.append_assoc]
  exact hfold rs []

/-! ### VIOTA.SEG (R248) -/

/-- Runs of one element each hold one value each. -/
theorem elems_units {α : Type} (is : List α) (f : α → Word) (b : α → Bool) :
    elems (is.map fun i => (⟨f i, 1, b i⟩ : Run)) = is.map f := by
  induction is with
  | nil => rfl
  | cons i is ih => simp [ih]

theorem elems_iotaSegs (rs : List Run) :
    elems (iotaSegs rs) = (segmentsOf rs).flatMap (fun g => (List.range (runsLen g)).map (BitVec.ofNat 32)) := by
  rw [iotaSegs, elems_flatten, List.flatMap_map]
  congr 1
  funext g
  split
  · next h =>
    have h0 : runsLen g = 0 := by simpa using h
    simp [elems_of_runsLen_zero h0, h0]
  · exact elems_units _ _ _

/-! ### VSLICE (R249) -/

/-- What VSLICE keeps of a run that begins at a position, of a register of `len` elements. -/
def slicePiece (first size len : Nat) (p : Nat × Run) : Option Run :=
  if p.2.cnt == 0 then
    if (first ≤ p.1 && p.1 < first + size) || (p.1 == first + size && first + size == len) then some p.2 else none
  else
    let lo := max first p.1
    let hi := min (first + size) (p.1 + p.2.cnt)
    if lo < hi then some { p.2 with cnt := hi - lo, b := p.2.b && lo == p.1 } else none

theorem sliceRuns_eq (first size : Nat) (rs : List Run) :
    sliceRuns first size rs = firstB ((indexed 0 rs).filterMap (slicePiece first size (runsLen rs))) := rfl

/-- The elements kept of a run are those whose index the slice names. -/
theorem elems_slicePiece (first size len pos : Nat) (r : Run) : elems (slicePiece first size len (pos, r)).toList =
    List.replicate (min (first + size) (pos + r.cnt) - max first pos) r.val := by
  unfold slicePiece
  dsimp only
  split
  · next h =>
    have h0 : r.cnt = 0 := by simpa using h
    have hnone : min (first + size) (pos + r.cnt) - max first pos = 0 := by omega
    rw [hnone]
    split <;> simp [h0]
  · split
    · simp
    · next h =>
      have hnone : min (first + size) (pos + r.cnt) - max first pos = 0 := by omega
      simp [hnone]

/-- Of runs that begin at a position, the pieces kept hold the elements whose index the slice names. -/
theorem elems_slice_from (first size len pos : Nat) (rs : List Run) :
    elems ((indexed pos rs).filterMap (slicePiece first size len)) =
      ((elems rs).drop (first - pos)).take (first + size - max first pos) := by
  induction rs generalizing pos with
  | nil => simp [indexed]
  | cons r rs ih =>
    have hsplit : (indexed pos (r :: rs)).filterMap (slicePiece first size len) =
        (slicePiece first size len (pos, r)).toList ++ (indexed (pos + r.cnt) rs).filterMap (slicePiece first size len) := by
      rw [indexed, List.filterMap_cons]
      cases slicePiece first size len (pos, r) <;> rfl
    rw [hsplit, elems_append, elems_slicePiece, ih, elems_cons, List.drop_append, List.take_append, List.drop_replicate,
      List.take_replicate, List.length_replicate, List.length_replicate]
    congr 1
    · congr 1
      omega
    · have hdrop : first - pos - r.cnt = first - (pos + r.cnt) := by omega
      have htake : first + size - max first pos - (r.cnt - (first - pos)) = first + size - max first (pos + r.cnt) := by omega
      rw [hdrop, htake]

theorem elems_sliceRuns (first size : Nat) (rs : List Run) :
    elems (sliceRuns first size rs) = ((elems rs).drop first).take size := by
  rw [sliceRuns_eq, elems_firstB, elems_slice_from]
  congr 1
  omega

/-! ### VPICK (R251) -/

/-- The element at an index is that of the list of elements. -/
theorem elementAt_eq (rs : List Run) (k : Nat) : elementAt rs k = (elems rs)[k]? := by
  induction rs generalizing k with
  | nil => rfl
  | cons r rs ih =>
    rw [elementAt, elems_cons]
    split
    · next h => rw [List.getElem?_append_left (by simpa using h), List.getElem?_replicate_of_lt h]
    · next h => rw [ih, List.getElem?_append_right (by simpa using h), List.length_replicate]

/-! ### VSEGSET and VSEGCLR (R252) -/

/-- Splitting a run keeps its elements. -/
theorem elems_splitAt (ps : List Nat) (pos : Nat) (r : Run) : elems (splitAt ps pos r) = List.replicate r.cnt r.val := by
  induction ps generalizing pos r with
  | nil => simp [splitAt]
  | cons p ps ih =>
    rw [splitAt]
    split
    · next h =>
      have hin : p - pos + (r.cnt - (p - pos)) = r.cnt := by simp at h; omega
      rw [elems_cons, ih, ← List.replicate_add, hin]
    · exact ih pos r

theorem elems_segSet (ps : List Nat) (rs : List Run) : elems (segSet ps rs) = elems rs := by
  have hfrom (pos : Nat) : elems ((indexed pos rs).map fun p =>
      if p.2.cnt == 0 then [p.2] else splitAt ps p.1 { p.2 with b := p.2.b || ps.contains p.1 }).flatten = elems rs := by
    induction rs generalizing pos with
    | nil => rfl
    | cons r rs ih =>
      rw [indexed, List.map_cons, List.flatten_cons, elems_append, ih, elems_cons]
      congr 1
      split
      · simp
      · exact elems_splitAt _ _ _
  exact hfrom 0

theorem elems_segClearAll (rs : List Run) : elems (segClearAll rs) = elems rs := by
  have hout : elems (firstB ((rs.filter (·.cnt != 0)).map fun r => { r with b := false })) = elems rs := by
    rw [elems_firstB, elems_map_b _ fun _ => false, elems_filter_null]
  unfold segClearAll
  dsimp only
  split
  · next h =>
    simp only [Bool.and_eq_true, List.isEmpty_iff] at h
    rw [h.1] at hout
    exact hout
  · exact hout

/-! ### VSPREAD (R254) -/

theorem elems_spreadRuns (vs : List Word) (rs : List Run) :
    elems (spreadRuns vs rs) = ((segmentsOf rs).zip vs).flatMap fun y => List.replicate (runsLen y.1) y.2 := by
  rw [spreadRuns]
  induction (segmentsOf rs).zip vs with
  | nil => rfl
  | cons p ps ih =>
    rw [List.map_cons, elems_cons, ih, List.flatMap_cons]
    congr 1
    split
    · next h => simp [nullRun, show runsLen p.1 = 0 by simpa using h]
    · rfl

/-! ### Results and faults -/

section

variable (s : State) (i : Instr)

/-- A meaning that raises one fault. -/
theorem raises_of {f : Flt} (h : exec i s = .next (s.raise f)) : Goes (exec i s) (Raises f s) :=
  ⟨_, h, s.raise_raises f⟩

/-- A meaning that is one vecDone meets its statement. -/
theorem vecIs_of {w : BitVec 2} {q : Nat} {d : Stor} {v : Val} {fl : Flags}
    (h : exec i s = .next (s.vecDone w i q d v fl)) : VecIs i s w d q v fl :=
  ⟨_, h, s.vecDone_spec w i q d v fl⟩

/-- A meaning that is a choice between a fault and another outcome, where the fault is taken. -/
theorem raises_of_ite {c : Prop} [Decidable c] {f : Flt} {o : Host.Outcome State Fault Refusal} (hc : c)
    (h : exec i s = if c then .next (s.raise f) else o) : Goes (exec i s) (Raises f s) :=
  raises_of s i (h.trans (if_pos hc))

/-- A meaning that is a choice between a fault and runs, where the runs are written. -/
theorem vecOut_of_ite {c : Prop} [Decidable c] {w : BitVec 2} {q : Nat} {d : Stor} {rs : List Run} {fl : Flags}
    {o : Host.Outcome State Fault Refusal} (hc : ¬ c)
    (h : exec i s = if c then o else .next (s.vecOut w i q d rs fl)) : VecOut i s w d q rs fl :=
  vecOut_of s i w q d rs fl (h.trans (if_neg hc))

/-- The same for at most 4,096 runs. -/
theorem vecIs_of_ite {c : Prop} [Decidable c] {w : BitVec 2} {q : Nat} {d : Stor} {rs : List Run} {fl : Flags}
    {o : Host.Outcome State Fault Refusal} (hc : ¬ c) (hlen : rs.length ≤ 4096)
    (h : exec i s = if c then o else .next (s.vecOut w i q d rs fl)) : VecIs i s w d q (.runs rs) fl :=
  (vecOut_of_ite s i hc h).1 hlen

/-- VLEN's code 3 is reserved (R246). -/
theorem vlen_code_three (w : BitVec 2) (n : BitVec 5) (a : BitVec 6) (p : BitVec 2) (m : BitVec 1) :
    (Instr.vlen w n a p 3 m).wf = false := by
  have hval : (Instr.vlen w n a p 3 m).valOk = false := rfl
  rw [Instr.wf, hval, Bool.and_false]

/-- A register or a mask register, by a mask form's bit. -/
theorem source_eq (m : BitVec 1) (a : BitVec 6) :
    s.source m a = if m = 1 then s.me.mreg (a.setWidth 3) else s.me.vreg a := by
  simp [State.source, bit1]

theorem vOrM_eq (m : BitVec 1) (d : BitVec 6) : vOrM m d = if m = 1 then .m (d.setWidth 3) else .v d := by
  simp [vOrM]

variable (w : BitVec 2) (d a b : BitVec 6) (p q : BitVec 2)

/-- VPICK of indices that are elements (R251). -/
theorem vpick_eq_of_none (h : (s.me.vreg b).find? (fun r => r.cnt != 0 && runsLen (s.me.vreg a) ≤ r.val.toNat) = none) :
    exec (.vpick w d a p b q) s = .next (s.vecOut w (.vpick w d a p b q) ((s.me.vreg a).length + (s.me.vreg b).length) (.v d)
      ((s.me.vreg b).map fun r => if r.cnt == 0 then r else { r with val := (elementAt (s.me.vreg a) r.val.toNat).getD 0 }) 0) := by
  show execVpick w d a p b q s = _
  rw [execVpick]
  dsimp only
  rw [h]

/-- VPICK of an index that is no element (R251). -/
theorem vpick_eq_of_some {r : Run}
    (h : (s.me.vreg b).find? (fun r => r.cnt != 0 && runsLen (s.me.vreg a) ≤ r.val.toNat) = some r) :
    exec (.vpick w d a p b q) s =
      .next (s.raise { outOfBounds r.val.toNat with info1 := BitVec.ofNat 64 (runsLen (s.me.vreg a)) }) := by
  show execVpick w d a p b q s = _
  rw [execVpick]
  dsimp only
  rw [h]

end

end Sys2Proof.Machine

namespace Sys2Proof.Laws

open Sys2Proof.Machine Sys2Proof.Safety

/-- Settles O16: each form is one fault or one list of runs, whose elements the lemmas on its list say. -/
theorem vectorStructure : Obligations.VectorStructure := by
  intro s w p q g d a b k n e z m v x A B M S D N first size bad
  have hS (m : BitVec 1) : s.source m a = S m := source_eq s m a
  have hD (m : BitVec 1) : vOrM m d = D m := vOrM_eq m d
  refine ⟨?vcoal, elems_coalesce _, ?vlen, ?vsplat, ?viota, ?viotaFault, ?iotaSeg, elems_iotaSegs A, ?slice, ?sliceFault, ?cat, ?catLong,
    ?catRuns, ?pick, ?pickFault, ?seg, elems_segSet _ _, ?clrFault, ?setFault, ?setRuns, ?clrAll, elems_segClearAll A, ?spread,
    by decide, vlen_code_three w n a p m, by decide, by decide⟩
  case vcoal =>
    rw [← hS, ← hD]
    exact vecOut_of s _ _ _ _ _ _ rfl
  case vlen =>
    intro hg
    rw [← hS, length_elems]
    refine vecIs_of s _ ?_
    have hcases : g = 0 ∨ g = 1 ∨ g = 2 := by revert hg; revert g; decide
    rcases hcases with rfl | rfl | rfl <;> rfl
  case vsplat =>
    intro val
    have hval : (if bit1 m then (if bit1 v then 1 else 0) else s.rw e) = val := by
      have hbit : (if bit1 v then (1 : Word) else 0) = v.setWidth 32 := by revert v; decide
      rw [hbit]
      simp only [val, bit1, State.rw, beq_iff_eq]
    refine ⟨fun h => ?_, fun h => raises_of_ite s _ h rfl⟩
    have hruns : (if N == 0 then [] else [⟨val, N, true⟩] : List Run) = if N = 0 then [] else [⟨val, N, true⟩] := by
      simp only [beq_iff_eq]
    rw [← hruns, ← hval, ← hD]
    refine vecIs_of_ite s _ (Nat.not_le.mpr h) ?_ rfl
    split <;> simp
  case viota => exact fun h => vecIs_of_ite s _ (Nat.not_lt.mpr h) (by simpa using h) rfl
  case viotaFault => exact fun h => raises_of_ite s _ h rfl
  case iotaSeg => exact ⟨fun h => vecOut_of_ite s _ (Nat.not_lt.mpr h) rfl, fun h => raises_of_ite s _ h rfl⟩
  case slice => exact fun h => ⟨vecOut_of_ite s _ (Nat.not_lt.mpr h) rfl, elems_sliceRuns _ _ _⟩
  case sliceFault => exact fun h => raises_of_ite s _ h rfl
  case cat =>
    intro hlen hsum
    rw [← runsLen_append] at hsum
    exact vecIs_of_ite s _ (fun h => absurd (of_decide_eq_true (Bool.and_eq_true_iff.mp h).2) (Nat.not_le.mpr hsum)) hlen rfl
  case catLong =>
    intro hlen hsum
    rw [← runsLen_append] at hsum ⊢
    exact raises_of_ite s _ (Bool.and_eq_true_iff.mpr ⟨decide_eq_true hlen, decide_eq_true hsum⟩) rfl
  case catRuns =>
    intro hlen
    exact (vecOut_of_ite s _ (fun h => absurd (of_decide_eq_true (Bool.and_eq_true_iff.mp h).1) (Nat.not_le.mpr hlen)) rfl).2 hlen
  case pick =>
    intro hin
    have hnone : B.find? (fun r => r.cnt != 0 && runsLen A ≤ r.val.toNat) = none :=
      List.find?_eq_none.mpr fun r hr => by simpa using hin r hr
    have hmap : (B.map fun r => if r.cnt == 0 then r else { r with val := (elementAt A r.val.toNat).getD 0 }) =
        B.map fun r => if r.cnt = 0 then r else ⟨(elems A).getD r.val.toNat 0, r.cnt, r.b⟩ := by
      simp [elementAt_eq]
    rw [← hmap]
    exact vecOut_of s _ _ _ _ _ _ (vpick_eq_of_none s w d a b p q hnone)
  case pickFault =>
    intro y r u hB hbefore hcnt hout
    have hfind : B.find? (fun r => r.cnt != 0 && runsLen A ≤ r.val.toNat) = some r := by
      rw [hB, List.find?_append, List.find?_eq_none.mpr fun o ho => by simpa using hbefore o ho]
      simp [hcnt, hout]
    refine raises_of s _ ((vpick_eq_of_some s w d a b p q hfind).trans ?_)
    rw [Machine.outOfBounds, BitVec.ofNat_toNat]
  case seg =>
    intro h
    have hb : (runsLen A == runsLen M) = true := beq_iff_eq.mpr h
    have hor : (runsLen A == runsLen M || decide (4096 < (segSet (marksIn M) A).length)) = true := by rw [hb, Bool.true_or]
    exact ⟨vecOut_of s (.vsegset w d a p k) _ _ _ _ _ (if_pos hor), vecOut_of s (.vsegclr w d a p 1 k) _ _ _ _ _ (if_pos hb)⟩
  case clrFault => exact fun h => raises_of s _ (if_neg (by simpa using h))
  case setFault =>
    refine fun h hlen => raises_of s _ (if_neg ?_)
    simp
    exact ⟨h, hlen⟩
  case setRuns =>
    intro h hlen
    have hor : (runsLen A == runsLen M || decide (4096 < (segSet (marksIn M) A).length)) = true := by
      rw [decide_eq_true hlen, Bool.or_true]
    have hout : VecOut (.vsegset w d a p k) s w (.v d) (A.length + M.length) (segSet (marksIn M) A) 0 :=
      vecOut_of s _ _ _ _ _ _ (if_pos hor)
    exact hout.2 hlen
  case clrAll => exact vecOut_of s _ _ _ _ _ _ rfl
  case spread =>
    intro vs ns
    exact ⟨fun h => ⟨vecOut_of_ite s _ (fun hne => bne_iff_ne.mp hne h) rfl, elems_spreadRuns vs B⟩,
      fun h => raises_of_ite s _ (bne_iff_ne.mpr h) rfl⟩

end Sys2Proof.Laws

namespace Sys2Proof.Machine

open Sys2Proof.Safety

/-! ## RETIRE and a slot table out of canonical form (R161) -/

/-- A controller's unit whose slot table lists slot 1 twice. A read finds the first entry, whose queue is empty; emptying it leaves
the default, which is no entry, and the second one shows. -/
def doubledUnit : Unit :=
  { Unit.idle with
    on := true, disp := { Disp.reset with seq := 1 }, slots := [(1, ⟨[], 0, 0, .wait 0, 0⟩), (1, ⟨[.nop], 0, 0, .none, 0⟩)] }

/-- A package whose first controller is that unit and issues from slot 1. -/
def doubledState : State := { State.reset with units := [(384, doubledUnit)], cur := ⟨384, 1, .nop⟩ }

theorem doubledState_unitsOk : UnitsOk doubledState := by
  unfold UnitsOk
  decide

theorem doubledState_memoryOk : MemoryOk doubledState := by
  unfold MemoryOk
  decide

/-- Its controller has issued everything before RETIRE and has drained. -/
theorem doubledState_drained : doubledState.drained doubledState.u = true := by decide

/-- RETIRE of a controller that has issued and drained stops it (R161). -/
theorem retire_stops (s : State) (hissued : (slotsOf s.u).all (fun k => k == 1 || s.cur.op.seq < s.me.headSeq k) = true)
    (hdrained : s.drained s.u = true) (hctl : isCtl s.u = true) : exec .retire s = .next (s.stopCtl s.u s.cur.op.addr) := by
  show execRetire s = _
  unfold execRetire
  dsimp only
  rw [hissued, hdrained, hctl]
  rfl

/-- A stopped controller's unit. -/
theorem stopCtl_unit (s : State) (h : UnitsOk s) (u : Nat) (addr : BitVec 64) :
    (s.stopCtl u addr).unit u = { (s.unit u).halt u with start := addr } := by
  have hmod : ((s.dropResults u).modUnit u fun x => { x.halt u with start := addr }).unit u =
      { (s.unit u).halt u with start := addr } := by
    rw [State.modUnit_unit (s.dropResults u) h, if_pos rfl]
    rfl
  unfold State.stopCtl
  dsimp only
  split
  · exact hmod
  · exact hmod

/-- Halting the unit leaves an operation in the queue of the slot that is listed twice. -/
theorem doubledUnit_halt_queue : ((doubledUnit.halt 384).slot 1).queue = [.nop] := rfl

end Sys2Proof.Machine

namespace Sys2Proof.Laws

open Sys2Proof.Machine Sys2Proof.Safety

/-- Refutes O7: UnitsOk says that the table of units is canonical, and nothing of the slot tables within them. Of a controller whose
slot table lists a slot twice, RETIRE empties the queue that is read, and the second entry's queue is read then. -/
theorem not_retireEnds : ¬ Obligations.RetireEnds := by
  intro h
  obtain ⟨hctl, -⟩ := h doubledState doubledState_unitsOk doubledState_memoryOk (by decide) doubledState_drained
  obtain ⟨t, ht, -, -, hqueues, -⟩ := hctl rfl
  have hexec := retire_stops doubledState (by decide) doubledState_drained rfl
  obtain rfl := Host.Outcome.next.inj (hexec.symm.trans ht)
  have hempty := hqueues 1 (by decide)
  rw [stopCtl_unit _ doubledState_unitsOk] at hempty
  exact nomatch doubledUnit_halt_queue.symm.trans hempty

end Sys2Proof.Laws

namespace Sys2Proof.Machine

open Sys2Proof.Safety

/-! ## Statuses of transfers (R313 to R315) -/

section

variable (s : State)

/-- The unit to whose queue an event is posted; its queue is not empty then. -/
theorem State.postEvent_unit_same (u : Nat) (e : Event) :
    (s.postEvent u e).unit u = { s.unit u with events := (s.unit u).events ++ [e] } :=
  State.modUnit_unit_same s u _ fun h => List.append_ne_nil_of_right_ne_nil _ (List.cons_ne_nil e []) (congrArg Unit.events h)

@[simp] theorem State.postEvent_unit_other {u v : Nat} (e : Event) (h : v ≠ u) : (s.postEvent u e).unit v = s.unit v :=
  State.modUnit_unit_other s _ h

/-- An event says nothing of the tokens of its unit. -/
theorem State.postEvent_ring (u v : Nat) (e : Event) : ((s.postEvent u e).unit v).ring = (s.unit v).ring := by
  by_cases h : v = u
  · rw [h, s.postEvent_unit_same]
  · rw [s.postEvent_unit_other e h]

/-- Tokens of one ring have one status each. -/
theorem Unit.ringGet_congr {x y : Unit} (h : x.ring = y.ring) (tok : BitVec 16) : x.ringGet tok = y.ringGet tok := by
  rw [Unit.ringGet, Unit.ringGet, h]

/-- A status recorded under a token is read under it (R315); token 0 is none. -/
theorem Unit.ringGet_ringPut (x : Unit) (tok : BitVec 16) (st : BitVec 14) (h : tok ≠ 0) : (x.ringPut tok st).ringGet tok = st := by
  have hget : Tab.get (0, 0) (x.ringPut tok st).ring (tok.toNat % 256) = (tok, st) :=
    Tab.get_set_same_of_ne _ _ _ fun he => h (congrArg Prod.fst he)
  rw [Unit.ringGet, hget]
  simp only [bne_iff_ne.mpr h, beq_self_eq_true, Bool.and_self, if_true]

/-- A completed transfer that leaves, or stays, changes no memory, no tile and no ring. -/
theorem State.leaveXfer_frame (id : Nat) : (s.leaveXfer id).mem = s.mem ∧ (s.leaveXfer id).tiles = s.tiles ∧
    ∀ v, ((s.leaveXfer id).unit v).ring = (s.unit v).ring := by
  unfold State.leaveXfer
  split
  · exact ⟨rfl, rfl, fun _ => rfl⟩
  · dsimp only
    split
    · exact ⟨rfl, rfl, fun _ => rfl⟩
    · split
      · exact ⟨rfl, rfl, fun v => s.postEvent_ring _ v _⟩
      · exact ⟨rfl, rfl, fun _ => rfl⟩

/-- Recording a transfer's status changes no memory, no tile. -/
theorem State.recordXfer_frame (x : Xfer) : (s.recordXfer x).mem = s.mem ∧ (s.recordXfer x).tiles = s.tiles := by
  unfold State.recordXfer
  dsimp only
  generalize hs' : (if s.xferCurrent x = true then s.modUnit x.unit (·.ringPut x.tok x.status) else s) = s'
  have hkeeps : s'.mem = s.mem ∧ s'.tiles = s.tiles := by
    rw [← hs']
    split <;> exact ⟨rfl, rfl⟩
  split <;> exact hkeeps

/-- The status of a transfer of the task that still runs is recorded under its token. -/
theorem State.recordXfer_ring (x : Xfer) (hunits : UnitsOk s) (hcur : s.xferCurrent x = true) :
    ((s.recordXfer x).unit x.unit).ring = ((s.unit x.unit).ringPut x.tok x.status).ring := by
  have hput : ((s.modUnit x.unit (·.ringPut x.tok x.status)).unit x.unit).ring = ((s.unit x.unit).ringPut x.tok x.status).ring := by
    rw [State.modUnit_unit s hunits, if_pos rfl]
  unfold State.recordXfer
  rw [if_pos hcur]
  dsimp only
  split <;> exact hput

/-- A transfer's status, recorded, is read under its token, and nothing of memory or of tiles changes. -/
theorem State.completes (x : Xfer) (hunits : UnitsOk s) (hcur : s.xferCurrent x = true) (htok : x.tok ≠ 0) :
    let t := (s.recordXfer x).leaveXfer x.id
    (t.unit x.unit).ringGet x.tok = x.status ∧ t.mem = s.mem ∧ t.tiles = s.tiles := by
  obtain ⟨hmem, htiles, hring⟩ := (s.recordXfer x).leaveXfer_frame x.id
  obtain ⟨hmem', htiles'⟩ := s.recordXfer_frame x
  refine ⟨?_, hmem.trans hmem', htiles.trans htiles'⟩
  rw [Unit.ringGet_congr ((hring x.unit).trans (s.recordXfer_ring x hunits hcur)), Unit.ringGet_ringPut _ _ _ htok]

/-- What a status says: CODE, flags, fingerprint (R314). -/
theorem Xfer.status_eq (x : Xfer) : x.status =
    BitVec.ofNat 14 ((if x.code = 0 then 1 else x.code.toNat) + x.flg.toNat * 256 + if x.fpd = true then 8192 else 0) := by
  simp only [Xfer.status, beq_iff_eq]
  rfl

end

/-! ## CWAITT and CPOLL (R315) -/

/-- The status of a token, of the ring's entry at its low byte. -/
theorem Unit.ringGet_eq (x : Unit) (tok : BitVec 16) : x.ringGet tok =
    if tok ≠ 0 ∧ (Tab.get (0, 0) x.ring (tok.toNat % 256)).1 = tok then (Tab.get (0, 0) x.ring (tok.toNat % 256)).2 else 0xFF := by
  simp [Unit.ringGet]

/-! ## Steps of transfers (R100, R317, R320) -/

/-- A tile other than one whose bit is written stays. -/
theorem State.setTile_tile_other (s : State) (b : Bool) {k j : Nat} (h : j ≠ k) : (s.setTile k b).tile j = s.tile j :=
  Tab.get_set_other _ _ _ h

/-- Tiles whose bits are written hold what is written, and others stay. -/
theorem State.setTiles_tile (s : State) (ts : List Nat) (b : Bool) :
    (∀ j ∈ ts, (s.setTiles ts b).isFull j = b) ∧ ∀ j, j ∉ ts → (s.setTiles ts b).tile j = s.tile j := by
  induction ts generalizing s with
  | nil => exact ⟨fun _ hj => absurd hj List.not_mem_nil, fun _ _ => rfl⟩
  | cons k ts ih =>
    obtain ⟨hin, hout⟩ := ih (s.setTile k b)
    refine ⟨fun j hj => ?_, fun j hj => ?_⟩
    · by_cases hts : j ∈ ts
      · exact hin j hts
      · obtain rfl : j = k := (List.mem_cons.mp hj).resolve_right hts
        rw [State.isFull, show (s.setTiles (j :: ts) b).tile j = (s.setTile j b).tile j from hout j hts]
        exact s.setTile_isFull j b
    · rw [List.mem_cons, not_or] at hj
      exact (hout j hj.2).trans (s.setTile_tile_other b hj.1)

section

variable (s : State) (x : Xfer)

/-- Rows of a transform's destination are written in memory alone. -/
theorem State.transformStep_frame : (s.transformStep x).units = s.units ∧ (s.transformStep x).tiles = s.tiles ∧
    (s.transformStep x).mem = x.rows.foldl (fun m r => wrBytes m (scratchPlace x.unit r.dst.toNat) ((x.buf.drop r.src.toNat).take r.bytes)) s.mem := by
  have hrows (rs : List XRow) (s : State) :
      let t := rs.foldl (fun s r => s.writeRow x r) s
      t.units = s.units ∧ t.tiles = s.tiles ∧
        t.mem = rs.foldl (fun m r => wrBytes m (scratchPlace x.unit r.dst.toNat) ((x.buf.drop r.src.toNat).take r.bytes)) s.mem := by
    induction rs generalizing s with
    | nil => exact ⟨rfl, rfl, rfl⟩
    | cons r rs ih => exact ih (s.writeRow x r)
  exact hrows x.rows s

/-- Whether a tile is named by a row still to move. -/
theorem any_namedTiles_iff (k : Nat) : (x.rows.any fun r => (namedTiles x.unit r.dst r.bytes).contains k) = true ↔
    ∃ r ∈ x.rows, k ∈ namedTiles x.unit r.dst r.bytes := by
  simp

/-- Whether a write of a transfer to a tile is on its way. -/
theorem any_writesTile_iff (k : Nat) :
    (s.flights.any fun f => x.writes.contains f.id && (tilesOfSpans f.spans).contains k) = true ↔
      ∃ f ∈ s.flights, f.id ∈ x.writes ∧ k ∈ tilesOfSpans f.spans := by
  simp

variable (hx : s.xfers[s.arg.n]? = some x)
include hx

/-- TRANSFER_TILE_RELEASE of an operation that is there. -/
theorem transferTileRelease_eq : exec .transferTileRelease s =
    if x.kind == .transform || (x.kind == .block && !x.rows.isEmpty) || !x.left.contains s.arg.m ||
        (x.rows.any fun r => (namedTiles x.unit r.dst r.bytes).contains s.arg.m) ||
        s.flights.any (fun f => x.writes.contains f.id && (tilesOfSpans f.spans).contains s.arg.m) then .next s
    else .next (((s.setTile s.arg.m true).modXfer x.id fun y => { y with left := y.left.filter (· != s.arg.m) }).leaveXfer x.id) := by
  show execTransferTileRelease s = _
  unfold execTransferTileRelease
  rw [hx]

/-- TRANSFER_COMPLETE of an operation that is there. -/
theorem transferComplete_eq (hrecd : x.recd = false) : exec .transferComplete s =
    if s.txFrozen x.unit || s.heldXfer x.unit || !s.lastIssued x then .next s else .next ((s.recordXfer x).leaveXfer x.id) := by
  show execTransferComplete s = _
  unfold execTransferComplete
  rw [hx]
  simp only [hrecd, Bool.false_eq_true, if_false]

/-- TRANSFORM_COMPLETE of an operation that is there. -/
theorem transformComplete_eq : exec .transformComplete s =
    if x.kind != .transform || x.recd || x.work.isSome || decide (s.cycle < x.due) || s.heldXfer x.unit then .next s
    else .next (((((s.transformStep x).setTiles x.left true).modXfer x.id fun y => { y with left := [] }).recordXfer x).leaveXfer x.id) := by
  show execTransformComplete s = _
  unfold execTransformComplete
  rw [hx]

end

end Sys2Proof.Machine

namespace Sys2Proof.Laws

open Sys2Proof.Machine Sys2Proof.Safety

/-- Settles O38: by what each of the steps of a transfer waits for, and what recording its status leaves. -/
theorem transferEvents : Obligations.TransferEvents := by
  constructor
  · intro s d t tok e st tells
    have hst : s.me.ringGet ((s.rs t).setWidth 16) = st := by
      rw [show (s.rs t).setWidth 16 = tok from BitVec.setWidth_eq_extractLsb' (by decide)]
      exact s.me.ringGet_eq tok
    have hpoll : exec (.cpoll d t) s = .next (s.statusTo d st) := by
      show execCpoll d t s = _
      rw [execCpoll, hst]
    have hwait : exec (.cwaitt d t) s = .next (if st.extractLsb' 0 8 = 0 then s else s.statusTo d st) := by
      show execCwaitt d t s = _
      rw [execCwaitt, hst, BitVec.setWidth_eq_extractLsb' (by decide)]
      simp only [beq_iff_eq]
    have htells (i : Instr) (h : exec i s = .next (s.statusTo d st)) : tells i := ⟨_, h, s.fly_issued 1 _⟩
    exact ⟨fun h => hwait.trans (by rw [if_pos h]), fun h => htells _ (hwait.trans (by rw [if_neg h])), htells _ hpoll⟩
  · intro s x hx hunits hmem htok k status later held out
    have hstatus : x.status = status x := x.status_eq
    refine ⟨?release, ?releaseWaits, ?complete, ?completeWaits, ?transformWaits, ?transform⟩
    case release =>
      intro hkind hblock hleft hlater hout
      have hgo : (x.kind == .transform || (x.kind == .block && !x.rows.isEmpty) || !x.left.contains s.arg.m ||
          (x.rows.any fun r => (namedTiles x.unit r.dst r.bytes).contains s.arg.m) ||
          s.flights.any (fun f => x.writes.contains f.id && (tilesOfSpans f.spans).contains s.arg.m)) = false := by
        simp only [Bool.or_eq_false_iff, beq_eq_false_iff_ne, Bool.not_eq_false', List.contains_iff_mem]
        refine ⟨⟨⟨⟨hkind, ?_⟩, hleft⟩, ?_⟩, ?_⟩
        · by_cases hb : x.kind = .block
          · rw [hblock hb, List.isEmpty_nil, Bool.not_true, Bool.and_false]
          · rw [beq_eq_false_iff_ne.mpr hb, Bool.false_and]
        · exact Bool.eq_false_iff.mpr fun h => hlater ((any_namedTiles_iff x _).mp h)
        · exact Bool.eq_false_iff.mpr fun h => hout ((any_writesTile_iff s x _).mp h)
      obtain ⟨hm, htiles, -⟩ := ((s.setTile k true).modXfer x.id fun y => { y with left := y.left.filter (· != k) }).leaveXfer_frame x.id
      refine ⟨_, (transferTileRelease_eq s x hx).trans (by rw [hgo]; rfl), ?_, fun j hj => ?_, hm⟩
      · rw [State.isFull, State.tile, htiles]
        exact s.setTile_isFull k true
      · rw [State.tile, htiles]
        exact s.setTile_tile_other true hj
    case releaseWaits =>
      intro hkind hwhy
      refine (transferTileRelease_eq s x hx).trans (if_pos ?_)
      rcases hwhy with h | h | h
      · rw [(any_namedTiles_iff x _).mpr h, Bool.or_true, Bool.true_or]
      · rw [(any_writesTile_iff s x _).mpr h, Bool.or_true]
      · have hc : x.left.contains s.arg.m = false := Bool.eq_false_iff.mpr fun hc => h (List.contains_iff_mem.mp hc)
        rw [hc, Bool.not_false, Bool.or_true, Bool.true_or, Bool.true_or]
    case complete =>
      intro hrecd hfrozen hheld hlast hcur
      have hgo : (s.txFrozen x.unit || s.heldXfer x.unit || !s.lastIssued x) = false := by
        rw [hfrozen, Bool.eq_false_iff.mpr hheld, hlast]
        rfl
      refine ⟨_, (transferComplete_eq s x hx hrecd).trans (by rw [hgo]; rfl), ?_⟩
      rw [← hstatus]
      exact s.completes x hunits hcur htok
    case completeWaits =>
      intro hkind hrecd hwhy
      refine (transferComplete_eq s x hx hrecd).trans (if_pos ?_)
      rcases hwhy with h | h | h
      · have hlast : s.lastIssued x = false := by simp [State.lastIssued, h]
        rw [hlast, Bool.not_false, Bool.or_true]
      · rw [h, Bool.true_or, Bool.true_or]
      · rw [h, Bool.or_true, Bool.true_or]
    case transformWaits =>
      intro hkind hwork
      refine (transformComplete_eq s x hx).trans (if_pos ?_)
      rw [Option.isSome_iff_ne_none.mpr hwork, Bool.or_true, Bool.true_or, Bool.true_or]
    case transform =>
      intro hkind hwork hrecd hdue hheld hcur
      have hgo : (x.kind != .transform || x.recd || x.work.isSome || decide (s.cycle < x.due) || s.heldXfer x.unit) = false := by
        rw [hkind, hwork, hrecd, Bool.eq_false_iff.mpr hheld, decide_eq_false (Nat.not_lt.mpr hdue)]
        rfl
      obtain ⟨hstepUnits, hstepTiles, hstepMem⟩ := s.transformStep_frame x
      obtain ⟨m, l, htl⟩ := (s.transformStep x).setTiles_eq x.left true
      let b := ((s.transformStep x).setTiles x.left true).modXfer x.id fun y => { y with left := [] }
      have hbUnits : b.units = s.units := by
        show ((s.transformStep x).setTiles x.left true).units = _
        rw [htl, hstepUnits]
      have hbMem : b.mem = (s.transformStep x).mem := by
        show ((s.transformStep x).setTiles x.left true).mem = _
        rw [htl]
      have hbCur : b.xferCurrent x = true := by
        rw [← hcur, State.xferCurrent, State.xferCurrent, State.unit, State.unit, hbUnits]
      obtain ⟨hring, hm, htiles⟩ := b.completes x (by rw [UnitsOk, hbUnits]; exact hunits) hbCur htok
      obtain ⟨hset, hstay⟩ := (s.transformStep x).setTiles_tile x.left true
      refine ⟨_, (transformComplete_eq s x hx).trans (by rw [hgo]; rfl), hring.trans hstatus, fun hrows => ?_, fun r hrows => ?_,
        fun j hj => ?_, fun j hj => ?_⟩
      · rw [hm, hbMem, hstepMem, hrows]
        rfl
      · have hwritten : (b.recordXfer x |>.leaveXfer x.id).mem =
            wrBytes s.mem (scratchPlace x.unit r.dst.toNat) ((x.buf.drop r.src.toNat).take r.bytes) := by
          rw [hm, hbMem, hstepMem, hrows]
          rfl
        refine ⟨?_, fun a ha => ?_⟩
        · rw [hwritten]
          exact rdBytes_wrBytes _ _ _ hmem
        · rw [hwritten]
          exact rdByte_wrBytes_out _ _ _ ha
      · rw [State.isFull, State.tile, htiles]
        exact hset j hj
      · rw [State.tile, htiles]
        refine (hstay j hj).trans ?_
        rw [State.tile, hstepTiles]
        rfl

end Sys2Proof.Laws

namespace Sys2Proof.Machine

open Sys2Proof.Safety

/-! ## THAW and a slot table out of canonical form (R215, R368) -/

/-- A core's unit whose slot table lists slot 6 twice. A read finds the first entry, a wait that has been satisfied; without its hold
that entry is the default, which is no entry, and the second one shows. -/
def doubledWait : Unit := 
  { Unit.idle with on := true, slots := [(6, ⟨[], 0, 0, .done 0, 0⟩), (6, ⟨[.nop], 0, 0, .none, 0⟩)] }

/-- A package whose first core is that unit. -/
def doubledWaitState : State := { State.reset with units := [(0, doubledWait)] }

/-- The package's tables of units, contexts, dies and budgets are canonical. -/
theorem doubledWaitState_ok : UnitsOk doubledWaitState ∧ CtxsOk doubledWaitState ∧ DiesOk doubledWaitState := by
  unfold UnitsOk CtxsOk DiesOk
  exact ⟨by decide, rfl, rfl, fun _ => rfl⟩

section

variable (s : State)

/-- THAW by the host of a master that is no host port, with the path to its die open. -/
theorem budgetThaw_eq (hboot : s.glob.bootfail = false) (hroute : s.routeBad 0 (s.arg.n % 24) = false)
    (hm : s.arg.m % 34 ≠ 33) : exec .budgetThaw s = .next (s.thaw (s.arg.n % 24) (s.arg.m % 34)) := by
  have hwrite : s.writeBbctl (s.arg.n % 24) (s.arg.m % 34) 1 1 = s.thaw (s.arg.n % 24) (s.arg.m % 34) := by
    unfold State.writeBbctl
    rw [beq_eq_false_iff_ne.mpr hm, Bool.false_and]
    rfl
  show Host.Outcome.next (s.hostReg (s.arg.n % 24) fun s => s.writeBbctl (s.arg.n % 24) (s.arg.m % 34) 1 1) = _
  unfold State.hostReg
  rw [hboot, hroute, ← hwrite]
  rfl

/-- Clearing the FRZ bits of a master changes dies alone. -/
theorem clearFrz_eq (d m : Nat) : ∃ ds, budgetRegs.foldl (fun s r => s.modBudget d m r fun b => { b with frz := false }) s =
    { s with dies := ds } := ⟨_, rfl⟩

/-- The hold of slot 6 of a thawed core: a wait that had been satisfied is tried again (R215). -/
def Slot.rewaited (sl : Slot) : Slot := match sl.hold with | .done _ => { sl with hold := .none } | _ => sl

theorem rewait_unit (h : UnitsOk s) (u : Nat) : (s.rewait u).unit u = (s.unit u).modSlot 6 Slot.rewaited := by
  exact (Tab.get_set Unit.idle s.units u u _ h).trans (if_pos rfl)

/-- The unit of a thawed core. -/
theorem thaw_core_unit (h : UnitsOk s) (d m : Nat) (hm : m < 16) : (s.thaw d m).unit (16 * d + m) =
    ({ s.unit (16 * d + m) with frozen := false } : Unit).modSlot 6 Slot.rewaited := by
  obtain ⟨ds, hds⟩ := clearFrz_eq s d m
  have hframe : UnitsOk (({ s with dies := ds } : State).modUnit (16 * d + m) fun x => { x with frozen := false }) :=
    State.modUnit_wf _ _ _ h
  unfold State.thaw
  dsimp only
  rw [hds, if_pos hm]
  rw [rewait_unit _ hframe]
  exact congrArg (Unit.modSlot · 6 Slot.rewaited) ((Tab.get_set Unit.idle s.units _ _ _ h).trans (if_pos rfl))

end

/-- Of the core whose slot table lists slot 6 twice, THAW leaves the second entry. -/
theorem doubledWait_rewaited : (({ doubledWait with frozen := false } : Unit).modSlot 6 Slot.rewaited).slot 6 = ⟨[.nop], 0, 0, .none, 0⟩ :=
  rfl

end Sys2Proof.Machine

namespace Sys2Proof.Laws

open Sys2Proof.Machine Sys2Proof.Safety

/-- Refutes O48: none of its hypotheses says that the slot table of a unit is canonical. Of a core whose slot table lists slot 6
twice, THAW ends the wait of the entry that is read, and the other entry is read then. -/
theorem not_waitAndBudgetEvents : ¬ Obligations.WaitAndBudgetEvents := by
  intro h
  obtain ⟨hunits, hctxs, hdies⟩ := doubledWaitState_ok
  obtain ⟨-, -, -, -, hbudgets⟩ := h doubledWaitState hunits hctxs hdies
  obtain ⟨-, -, -, -, hthaw, -⟩ := hbudgets
  obtain ⟨t, ht, -, -, hcore, -⟩ := hthaw ⟨rfl, rfl⟩ (by decide)
  obtain ⟨-, -, -, hslot, -⟩ := hcore (by decide)
  obtain rfl := Host.Outcome.next.inj ((budgetThaw_eq doubledWaitState rfl rfl (by decide)).symm.trans ht)
  have hthawed := thaw_core_unit doubledWaitState hunits 0 0 (by decide)
  have hempty := hslot 0 rfl
  have hstays := (congrArg (Unit.slot · 6) hthawed).trans doubledWait_rewaited
  exact nomatch congrArg Slot.queue (hstays.symm.trans hempty)

end Sys2Proof.Laws

namespace Sys2Proof.Machine

open Sys2Proof.Safety

/-! ## Units that stop and units that go on (R30, R33) -/

section

variable (x : Unit) (u : Nat)

/-- Changing slots one after the other changes the slots alone. -/
theorem Unit.foldl_modSlot_eq (ks : List Nat) (f : Nat → Slot → Slot) :
    ∃ sl, ks.foldl (fun x k => x.modSlot k (f k)) x = { x with slots := sl } := by
  induction ks generalizing x with
  | nil => exact ⟨x.slots, rfl⟩
  | cons k ks ih =>
    obtain ⟨sl, h⟩ := ih (x.modSlot k (f k))
    exact ⟨sl, h⟩

/-- Emptying a unit's queues leaves all of it but slots and dispatch bookkeeping. -/
theorem Unit.flush_eq : ∃ sl d, x.flush u = { x with slots := sl, disp := d } := by
  obtain ⟨sl, h⟩ := x.foldl_modSlot_eq (slotsOf u) fun _ sl => { sl with queue := [], hold := .none }
  unfold Unit.flush
  dsimp only
  rw [h]
  exact ⟨sl, _, rfl⟩

/-- What a halt leaves of a unit. -/
theorem Unit.halt_eq : ∃ sl, x.halt u = { x with
    on := false, task := none, preempt := none, disp := .reset, spr := { x.spr with sup := false }, slots := sl } := by
  obtain ⟨sl, d, h⟩ := x.flush_eq u
  unfold Unit.halt
  rw [h]
  exact ⟨sl, rfl⟩

/-- Taking a bundle back leaves the request for a drain point. -/
theorem Unit.undispatch_preempt (b : Bun) : (x.undispatch u b).preempt = x.preempt := by
  obtain ⟨sl, h⟩ := x.foldl_modSlot_eq (slotsOf u) fun _ sl =>
    let q := sl.queue.filter fun o => o.seq < b.seq
    { sl with queue := q, hold := if q.isEmpty then .none else sl.hold }
  unfold Unit.undispatch
  dsimp only at h ⊢
  rw [h]
  rfl

end

/-- What happens in one step to units other than that tasks enter or leave them: each unit has the task that it had, runs as it did, is
asked to drain as it was and has the pending fault that it had, and the table of units stays canonical. -/
def TasksStay (s t : State) : Prop :=
  (UnitsOk s → UnitsOk t) ∧
    ∀ v, (t.unit v).task = (s.unit v).task ∧ (t.unit v).on = (s.unit v).on ∧ (t.unit v).preempt = (s.unit v).preempt ∧
      (t.unit v).disp.pend = (s.unit v).disp.pend

namespace TasksStay

theorem refl (s : State) : TasksStay s s := ⟨id, fun _ => ⟨rfl, rfl, rfl, rfl⟩⟩

theorem trans {s t r : State} (h : TasksStay s t) (h' : TasksStay t r) : TasksStay s r :=
  ⟨fun hs => h'.1 (h.1 hs), fun v => by
    obtain ⟨htask, hon, hask, hpend⟩ := h.2 v
    obtain ⟨htask', hon', hask', hpend'⟩ := h'.2 v
    exact ⟨htask'.trans htask, hon'.trans hon, hask'.trans hask, hpend'.trans hpend⟩⟩

theorem of_units {s t : State} (h : t.units = s.units) : TasksStay s t := by
  have hunit (v : Nat) : t.unit v = s.unit v := by rw [State.unit, State.unit, h]
  exact ⟨fun hs => by rw [UnitsOk, h]; exact hs, fun v => by rw [hunit]; exact ⟨rfl, rfl, rfl, rfl⟩⟩

theorem groups {s t : State} (h : TasksStay s t) (gs : List Group) : TasksStay s { t with groups := gs } := h.trans (.of_units rfl)

/-- A unit set to one with the same task, running as before, that is not idle. -/
theorem setUnit {s : State} {u : Nat} {x : Unit} (hne : x ≠ Unit.idle) (htask : x.task = (s.unit u).task) (hon : x.on = (s.unit u).on)
    (hask : x.preempt = (s.unit u).preempt) (hpend : x.disp.pend = (s.unit u).disp.pend) : TasksStay s (s.setUnit u x) := by
  refine ⟨fun hs => s.setUnit_wf u x hs, fun v => ?_⟩
  by_cases hv : v = u
  · subst hv
    rw [show (s.setUnit v x).unit v = x from Tab.get_set_same_of_ne _ _ _ hne]
    exact ⟨htask, hon, hask, hpend⟩
  · rw [s.setUnit_unit_other x hv]
    exact ⟨rfl, rfl, rfl, rfl⟩

end TasksStay

section

variable (s : State)

theorem State.postEvent_tasks (u : Nat) (e : Event) : TasksStay s (s.postEvent u e) :=
  .setUnit (fun h => List.append_ne_nil_of_right_ne_nil _ (List.cons_ne_nil e []) (congrArg Unit.events h)) rfl rfl rfl rfl

/-- A group's completion event, posted or held, moves no task. -/
theorem State.postDone_tasks (u : Nat) (e : Event) : TasksStay s (s.postDone u e) := by
  unfold State.postDone
  split
  · exact s.postEvent_tasks u e
  · exact .setUnit (fun h => List.append_ne_nil_of_right_ne_nil _ (List.cons_ne_nil e []) (congrArg Unit.owed h)) rfl rfl rfl rfl

/-- A unit that takes a fault event has one in a queue. -/
theorem Unit.takeFault_eq (x y : Unit) (e : Event) (h : x.takeFault e = some y) :
    y ≠ Unit.idle ∧ y.task = x.task ∧ y.on = x.on ∧ y.preempt = x.preempt ∧ y.disp.pend = x.disp.pend := by
  have hcons (l : List Event) : l ++ [e] ≠ [] := List.append_ne_nil_of_right_ne_nil _ (List.cons_ne_nil e [])
  unfold Unit.takeFault at h
  split at h
  · obtain rfl := Option.some.inj h
    exact ⟨fun hi => hcons _ (congrArg Unit.events hi), rfl, rfl, rfl, rfl⟩
  · split at h
    · obtain rfl := Option.some.inj h
      exact ⟨fun hi => hcons _ (congrArg Unit.held hi), rfl, rfl, rfl, rfl⟩
    · exact nomatch h

theorem State.postFault_tasks (c u : Nat) (e : Event) : TasksStay s (s.postFault c u e) := by
  unfold State.postFault
  dsimp only
  split
  · split
    · next x hx =>
      obtain ⟨hne, htask, hon, hask, hpend⟩ := Unit.takeFault_eq _ _ _ hx
      exact .setUnit hne htask hon hask hpend
    · exact .of_units rfl
  · split <;> exact .of_units rfl

theorem State.writeSpans_tasks (sp : List (Nat × Nat)) (bs : List Byte) : TasksStay s (s.writeSpans sp bs) := by
  obtain ⟨m, w, h⟩ := s.writeSpans_eq sp bs
  exact .of_units (by rw [h])

/-- A fault that is logged moves no task. -/
theorem State.logRecord_tasks (w : Who) (f : Flt) (r : BitVec 512) : TasksStay s (s.logRecord w f r) := by
  have hpost (t : State) (drop : Bool) (tag idx : Nat) (h : TasksStay s t) : TasksStay s (match t.faultCtl w with
      | some u => t.postFault w.ctx.toNat u (faultEvent w tag f drop idx)
      | none => t) := by
    split
    · exact h.trans (t.postFault_tasks _ _ _)
    · exact h
  unfold State.logRecord
  dsimp only
  split
  · exact hpost _ _ _ _ ((s.writeSpans_tasks _ _).trans (.of_units rfl))
  · exact hpost _ _ _ _ (.of_units rfl)

theorem State.logFault_tasks (w : Who) (f : Flt) : TasksStay s (s.logFault w f) := s.logRecord_tasks _ _ _

/-- The completion of a group moves no task. -/
theorem State.complete_tasks (g : Group) : TasksStay s (s.complete g) := by
  unfold State.complete
  split
  · dsimp only
    generalize (if (s.gword g 4 == 0xFFFFFFFF) = true then (1 : BitVec 2) else 2) = st
    have hstatus : TasksStay s (s.setStatus g st) := .of_units rfl
    refine TasksStay.trans (TasksStay.groups ?_ _) (State.postDone_tasks _ _ _)
    split
    · exact hstatus
    · split
      · split
        · exact hstatus.trans (State.logFault_tasks _ _ _)
        · exact hstatus.trans (State.writeSpans_tasks _ _ _)
      · exact hstatus.trans (State.logFault_tasks _ _ _)
  · exact .refl s

/-- The end of a task's final attempt moves no other task. -/
theorem State.retireTask_tasks (g : Group) (i : Word) (failed : Bool) : TasksStay s (s.retireTask g i failed) := by
  unfold State.retireTask
  dsimp only
  have hwords : TasksStay s (if failed = true then
      (s.setGword g 24 (s.gword g 24 + 1)).setGword g 4
        (if i.ult ((s.setGword g 24 (s.gword g 24 + 1)).gword g 4) then i else (s.setGword g 24 (s.gword g 24 + 1)).gword g 4)
      else s.setGword g 24 (s.gword g 24 + 1)) := by
    split <;> exact .of_units rfl
  split
  · exact hwords.trans (State.complete_tasks _ _)
  · exact hwords

/-- A unit that neither runs nor has a task. -/
def Free (s : State) (u : Nat) : Prop := (s.unit u).task = none ∧ (s.unit u).on = false

theorem TasksStay.free {s t : State} (h : TasksStay s t) {u : Nat} (hu : Free s u) : Free t u :=
  ⟨(h.2 u).1.trans hu.1, (h.2 u).2.1.trans hu.2⟩

/-- Units changed one after the other: the table stays canonical, and each of them is free if the change frees it. -/
theorem foldl_frees (us : List Nat) (g : State → Nat → State) (f : State → Nat → Unit → Unit) (hg : ∀ s v, (g s v).units = s.units)
    (hf : ∀ s v, v ∈ us → ((f s v ((s.unit v))).task = none ∧ (f s v (s.unit v)).on = false)) (s : State) (hs : UnitsOk s) :
    let t := us.foldl (fun s v => (g s v).modUnit v (f s v)) s
    UnitsOk t ∧ ∀ u, u ∈ us ∨ Free s u → Free t u := by
  induction us generalizing s with
  | nil => exact ⟨hs, fun u hu => hu.resolve_left List.not_mem_nil⟩
  | cons v us ih =>
    have hok : UnitsOk (g s v) := by
      rw [UnitsOk, hg]
      exact hs
    have hunit (u : Nat) : (g s v).unit u = s.unit u := by rw [State.unit, State.unit, hg]
    obtain ⟨hall, hfree⟩ := ih (fun s v hv => hf s v (List.mem_cons_of_mem _ hv)) ((g s v).modUnit v (f s v)) (State.modUnit_wf _ _ _ hok)
    refine ⟨hall, fun u hu => hfree u ?_⟩
    by_cases hus : u ∈ us
    · exact .inl hus
    · right
      rw [Free, State.modUnit_unit _ hok]
      by_cases huv : u = v
      · subst huv
        rw [if_pos rfl, hunit]
        exact hf s u List.mem_cons_self
      · rw [if_neg huv, hunit]
        exact hu.resolve_left fun h => (List.mem_cons.mp h).elim huv hus

/-- A core is one of those that run its task. -/
theorem mem_taskUnits {u : Nat} (hu : u < 384) (t : Task) : u ∈ taskUnits u t := by
  have hctl : isCtl u = false := by simp [isCtl]; omega
  unfold taskUnits
  split
  · simp only [coresOf, clusterOf, hctl, Bool.false_eq_true, if_false, List.mem_cons, List.not_mem_nil, or_false]
    omega
  · exact List.mem_singleton_self u

/-- An abandoned core is free (R33). -/
theorem State.abandon_free (hs : UnitsOk s) {u : Nat} (hu : u < 384) {k : Task} (hk : (s.unit u).task = some k) :
    Free (s.abandon u) u := by
  have hhalt (x : Unit) (v : Nat) : ({ x.halt v with freed := none } : Unit).task = none ∧ ({ x.halt v with freed := none } : Unit).on = false := by
    obtain ⟨sl, h⟩ := x.halt_eq v
    rw [h]
    exact ⟨rfl, rfl⟩
  obtain ⟨-, hfree⟩ := foldl_frees (taskUnits u k) State.dropResults (fun _ v x => { x.halt v with freed := none }) (fun _ _ => rfl)
    (fun s v _ => hhalt _ v) s hs
  have hu := hfree u (.inl (mem_taskUnits hu k))
  unfold State.abandon
  rw [hk]
  dsimp only
  split
  · exact hu
  · split
    · exact hu
    · exact (State.retireTask_tasks _ _ _ _).free hu

/-! ## Requests for a drain point (R32, R33) -/

variable (p : Preempt)

theorem State.request_mem (u : Nat) : (s.request u p).mem = s.mem := by
  unfold State.request
  dsimp only
  split
  · rfl
  · split <;> rfl

theorem State.request_landings (u : Nat) : (s.request u p).landings = s.landings := by
  unfold State.request
  dsimp only
  split
  · rfl
  · split <;> rfl

theorem State.request_unit_other {u v : Nat} (h : v ≠ u) : (s.request u p).unit v = s.unit v := by
  have hset := s.modUnit_unit_other (fun x => { x with preempt := some p }) h
  unfold State.request
  dsimp only
  split
  · exact hset
  · split
    · next b _ => exact (State.modUnit_unit_other _ (·.undispatch u b) h).trans hset
    · exact hset

theorem State.request_preempt (u : Nat) : ((s.request u p).unit u).preempt = some p := by
  have hset : (s.modUnit u fun x => { x with preempt := some p }).unit u = { s.unit u with preempt := some p } :=
    s.modUnit_unit_same u _ fun h => nomatch congrArg Unit.preempt h
  unfold State.request
  dsimp only
  split
  · rw [hset]
  · split
    · next b _ =>
      have htaken : ((s.modUnit u fun x => { x with preempt := some p }).unit u |>.undispatch u b).preempt = some p := by
        rw [Unit.undispatch_preempt, hset]
      have hne : ((s.modUnit u fun x => { x with preempt := some p }).unit u |>.undispatch u b) ≠ Unit.idle := fun h =>
        nomatch htaken.symm.trans (congrArg Unit.preempt h)
      exact (congrArg Unit.preempt (State.modUnit_unit_same _ u (·.undispatch u b) hne)).trans htaken
    · rw [hset]

/-- A request that reaches one of the cores of a task, unless an earlier one stands there or nothing runs. -/
def State.requestOne (p : Preempt) (s : State) (v : Nat) : State :=
  if (s.unit v).preempt.isSome || !(s.unit v).on then s else s.request v p

/-- Cores that a request reaches one after the other: memory and landings stay, and each that runs without an earlier request has it. -/
theorem requestOne_foldl (us : List Nat) (w : Nat) :
    let t := us.foldl (State.requestOne p) s
    t.mem = s.mem ∧ t.landings = s.landings ∧ ((s.unit w).preempt = some p → (t.unit w).preempt = some p) ∧
      (w ∈ us → (s.unit w).preempt = none → (s.unit w).on = true → (t.unit w).preempt = some p) := by
  induction us generalizing s with
  | nil => exact ⟨rfl, rfl, id, fun h => absurd h List.not_mem_nil⟩
  | cons v us ih =>
    have hmem : (s.requestOne p v).mem = s.mem := by
      unfold State.requestOne
      split
      · rfl
      · exact s.request_mem p v
    have hland : (s.requestOne p v).landings = s.landings := by
      unfold State.requestOne
      split
      · rfl
      · exact s.request_landings p v
    have hother (h : w ≠ v) : (s.requestOne p v).unit w = s.unit w := by
      unfold State.requestOne
      split
      · rfl
      · exact s.request_unit_other p h
    have hstands (h : (s.unit w).preempt = some p) : ((s.requestOne p v).unit w).preempt = some p := by
      by_cases hv : w = v
      · subst hv
        rw [State.requestOne, if_pos (by rw [h]; rfl)]
        exact h
      · rw [hother hv]
        exact h
    obtain ⟨h1, h2, h3, h4⟩ := ih (s.requestOne p v)
    refine ⟨h1.trans hmem, h2.trans hland, fun h => h3 (hstands h), fun hw hnone hon => ?_⟩
    by_cases hv : w = v
    · subst hv
      refine h3 ?_
      rw [State.requestOne, if_neg (by rw [hnone, hon]; decide)]
      exact s.request_preempt p w
    · refine h4 ((List.mem_cons.mp hw).resolve_left hv) ?_ ?_
      · rw [hother hv]
        exact hnone
      · rw [hother hv]
        exact hon

end

/-! ## The end of a request (R33, R34) -/

section

variable (s : State)

theorem State.overrun_tasks (u : Nat) (sub : Byte) (p : Preempt) : TasksStay s (s.overrun u sub p) := by
  unfold State.overrun
  dsimp only
  refine TasksStay.trans ?_ (State.logFault_tasks _ _ _)
  split
  · exact s.logRecord_tasks _ _ _
  · exact .refl s

/-- A core that has stopped for its save. -/
def Unit.closing (x : Unit) : Unit := { x with on := false, disp := { x.disp with closed := true } }

/-- What a core keeps of a task that has left it: where it was saved, and that it was there. -/
def Unit.leaving (x : Unit) (u : Nat) (a : BitVec 64) : Unit :=
  match x.task with
  | none => x
  | some y => { x.halt u with saved := x.saved ++ [(y, a)], freed := some y }

/-- The task of one core leaves it once the core has stopped for its save. -/
theorem State.freeTask_closed {u : Nat} {t : Task} {g : Group} (hcl : t.cluster = false) (hclosed : (s.unit u).disp.closed = true)
    (hg : s.groupOf t = some g) : s.freeTask u t = s.modUnit u fun x => x.leaving u (g.slot u).1 := by
  have hus : taskUnits u t = [u] := by simp [taskUnits, hcl]
  unfold State.freeTask
  rw [hus]
  dsimp only
  rw [if_pos (by rw [List.all_cons, List.all_nil, hclosed]; rfl), List.foldl_cons, List.foldl_nil, hg]
  rfl

/-- A core whose task has its image written leaves it, saved at its slot. -/
theorem saveImage_spec {u : Nat} {t : Task} {g : Group} (hs : UnitsOk s) (htask : (s.unit u).task = some t) (hcl : t.cluster = false)
    (hg : s.groupOf t = some g) (sp : List (Nat × Nat)) (bs : List Byte) :
    let r := ((s.writeSpans sp bs).modUnit u Unit.closing).freeTask u t
    Free r u ∧ r.mem = wrSpans s.mem sp bs ∧ (r.unit u).saved = (s.unit u).saved ++ [(t, (g.slot u).1)] ∧ (r.unit u).freed = some t := by
  obtain ⟨m, w, hwrite⟩ := s.writeSpans_eq sp bs
  have hmem := s.writeSpans_mem sp bs
  have hunit : ((s.writeSpans sp bs).modUnit u Unit.closing).unit u = (s.unit u).closing := by
    rw [hwrite]
    exact (Tab.get_set Unit.idle s.units u u _ hs).trans (if_pos rfl)
  have hok : UnitsOk ((s.writeSpans sp bs).modUnit u Unit.closing) := by
    rw [hwrite]
    exact Tab.wf_set _ _ _ _ hs
  have hgroup : ((s.writeSpans sp bs).modUnit u Unit.closing).groupOf t = some g := by
    rw [hwrite]
    exact hg
  have hleft : (((s.writeSpans sp bs).modUnit u Unit.closing).freeTask u t).unit u = ((s.unit u).closing.leaving u (g.slot u).1) := by
    rw [State.freeTask_closed _ hcl (by rw [hunit]; rfl) hgroup, State.modUnit_unit _ hok, if_pos rfl, hunit]
  obtain ⟨sl, hhalt⟩ := (s.unit u).closing.halt_eq u
  have hunit' : (s.unit u).closing.leaving u (g.slot u).1 =
      { (s.unit u).closing.halt u with saved := (s.unit u).saved ++ [(t, (g.slot u).1)], freed := some t } := by
    unfold Unit.leaving
    rw [show (s.unit u).closing.task = some t from htask]
    rfl
  dsimp only
  refine ⟨?_, ?_, ?_, ?_⟩
  · rw [Free, hleft, hunit', hhalt]
    exact ⟨rfl, rfl⟩
  · rw [State.freeTask_closed _ hcl (by rw [hunit]; rfl) hgroup]
    exact hmem
  · rw [hleft, hunit']
  · rw [hleft, hunit']

variable {s} {u : Nat} {p : Preempt} {t : Task}

/-- TASK_PREEMPTION of a core that has not drained waits. -/
theorem taskPreemption_waits (hp : (s.unit s.arg.n).preempt = some p) (ht : (s.unit s.arg.n).task = some t)
    (h : s.drainedAt s.arg.n false = false) : exec .taskPreemption s = .next s := by
  show execTaskPreemption s = _
  unfold execTaskPreemption
  dsimp only
  rw [hp, ht]
  dsimp only
  rw [h, Bool.not_false, Bool.or_true]
  rfl

/-- Where the image of a core's task goes. -/
def State.saveDest (s : State) (u : Nat) (t : Task) (g : Group) : Except Flt Reach :=
  if (g.slot u).1.toNat / 2 ^ 60 == 1 then s.reach u (dieOf u) t.ctx pSL .wr false (g.slot u).1 ((s.unit u).image u).length
  else .error (prot 9 (g.slot u).1)

/-- TASK_PREEMPTION of a core that has drained saves its task or abandons it (R34). -/
theorem taskPreemption_eq (hp : (s.unit s.arg.n).preempt = some p) (ht : (s.unit s.arg.n).task = some t) (hgang : p.gang = false)
    (hclosed : (s.unit s.arg.n).disp.closed = false) (h : s.drainedAt s.arg.n false = true) {g : Group} (hg : s.groupOf t = some g) :
    exec .taskPreemption s = match decide ((g.slot s.arg.n).2 < ((s.unit s.arg.n).image s.arg.n).length), s.saveDest s.arg.n t g with
      | false, .ok r => .next (((s.writeSpans r.spans ((s.unit s.arg.n).image s.arg.n)).modUnit s.arg.n Unit.closing).freeTask s.arg.n t)
      | _, _ => .next ((s.logFault (s.taskWho s.arg.n)
          (prot (if absentUnit (s.saveDest s.arg.n t g) then 1 else 9) (g.slot s.arg.n).1)).abandon s.arg.n) := by
  show execTaskPreemption s = _
  unfold execTaskPreemption
  dsimp only
  rw [hp, ht]
  dsimp only
  rw [hgang, hclosed, h, hg]
  rfl

/-- PREEMPTION_LIMIT_EXPIRY of a core whose task has been asked for a drain point (R33). -/
theorem preemptionLimitExpiry_eq (hp : (s.unit s.arg.n).preempt = some p) (ht : (s.unit s.arg.n).task = some t) (hgang : p.gang = false)
    (hclosed : (s.unit s.arg.n).disp.closed = false) : exec .preemptionLimitExpiry s =
      if (s.timeOf (dieOf s.arg.n)).toNat < p.time.toNat + p.limit.toNat then .next s
      else .next ((s.overrun s.arg.n 0 p).abandon s.arg.n) := by
  show execPreemptionLimitExpiry s = _
  unfold execPreemptionLimitExpiry
  dsimp only
  rw [hp]
  dsimp only
  rw [ht, hgang, hclosed]
  simp only [Option.isNone_some, Bool.false_or, decide_eq_true_eq]

/-- A fault of a core, logged, and its task abandoned leave it free. -/
theorem TasksStay.abandon_free {s t : State} (h : TasksStay s t) (hs : UnitsOk s) {u : Nat} (hu : u < 384) {k : Task}
    (hk : (s.unit u).task = some k) : Free (t.abandon u) u :=
  t.abandon_free (h.1 hs) hu ((h.2 u).1.trans hk)

/-- PREQ of a landing that is there (R33). -/
theorem preq_eq {l : Landing} {v : BitVec 64} (hl : s.landings[s.arg.n]? = some l) (hwhat : l.what = .spr 0x031 v) :
    exec .preq s = if s.mayLand l = true then
      let b : State := { s with landings := s.landings.eraseIdx s.arg.n }
      let w := v.toNat % 512
      .next (if (s.unit w).task.isSome && (s.isSup l.unit || s.ctxOf w == s.ctxOf l.unit) then
        b.requestTask w ⟨s.timeOf (dieOf w), (s.ctx (s.ctxOf w).toNat).plimit, false⟩ else b)
    else .next s := by
  show execPreq s = _
  unfold execPreq
  rw [hl]
  dsimp only
  rw [hwhat]
  dsimp only
  rw [beq_self_eq_true, Bool.true_and]
  rfl

/-- A request for a core's task reaches the cores that run it. -/
theorem requestTask_eq {w : Nat} (ht : (s.unit w).task = some t) : s.requestTask w p = (taskUnits w t).foldl (State.requestOne p) s := by
  unfold State.requestTask
  rw [ht]
  rfl

end

end Sys2Proof.Machine

namespace Sys2Proof.Laws

open Sys2Proof.Machine Sys2Proof.Safety

/-- Settles O46: what a request, a save and the limit do to the unit that they name. -/
theorem preemptionEvents : Obligations.PreemptionEvents := by
  intro s hunits hmem u x left
  refine ⟨fun l v hl hwhat => ?preq, fun p t hp ht hu hgang hclosed => ⟨taskPreemption_waits hp ht, fun hdrained g hg => ?save⟩,
    fun p t hp ht hu hgang hclosed => ?limit⟩
  case preq =>
    intro w y same
    have hsame : ((s.unit w).task.isSome && (s.isSup l.unit || s.ctxOf w == s.ctxOf l.unit)) = true ↔ same := by
      rw [Bool.and_eq_true, Option.isSome_iff_ne_none, Bool.or_eq_true, beq_iff_eq]
    refine ⟨fun hland => ?_, fun hland hnot => ?_, fun hland hsm hw hon hnone => ?_⟩
    · exact (preq_eq hl hwhat).trans (if_neg (by rw [hland]; decide))
    · exact ⟨_, ((preq_eq hl hwhat).trans (if_pos hland)).trans (congrArg _ (if_neg fun h => hnot (hsame.mp h))), rfl, rfl, rfl⟩
    · obtain ⟨t, ht⟩ := Option.ne_none_iff_exists'.mp hsm.1
      obtain ⟨hm, hlands, -, hasked⟩ := requestOne_foldl { s with landings := s.landings.eraseIdx s.arg.n }
        ⟨s.timeOf (dieOf w), (s.ctx (s.ctxOf w).toNat).plimit, false⟩ (taskUnits w t) w
      refine ⟨_, ((preq_eq hl hwhat).trans (if_pos hland)).trans (congrArg _ ((if_pos (hsame.mpr hsm)).trans (requestTask_eq ht))),
        hlands, hm, hasked (mem_taskUnits hw t) hnone hon⟩
  case save =>
    intro img slot
    have hexec := taskPreemption_eq hp ht hgang hclosed hdrained hg
    refine ⟨fun hfit => ?_, fun hfit hspace hcl q tl hreach => ?_⟩
    · rw [decide_eq_true hfit] at hexec
      exact ⟨_, hexec, (s.logFault_tasks _ _).abandon_free hunits hu ht⟩
    · have hdest : s.saveDest u t g = .ok ⟨[(q, img.length)], tl⟩ := by
        rw [State.saveDest, if_pos (beq_iff_eq.mpr hspace)]
        exact hreach
      obtain ⟨hfree, hm, hsaved, hfreed⟩ := saveImage_spec s hunits ht hcl hg [(q, img.length)] img
      have hwr : wrSpans s.mem [(q, img.length)] img = wrBytes s.mem q img := by
        rw [wrSpans, wrSpans, List.take_length]
      rw [decide_eq_false (Nat.not_lt.mpr hfit), hdest] at hexec
      refine ⟨_, hexec, hfree, ?_, fun a ha => ?_, hsaved, hfreed⟩
      · rw [hm, hwr]
        exact rdBytes_wrBytes _ _ _ hmem
      · rw [hm, hwr]
        exact rdByte_wrBytes_out _ _ _ ha
  case limit =>
    intro late
    have hexec := preemptionLimitExpiry_eq hp ht hgang hclosed
    refine ⟨fun hnot => hexec.trans (if_pos (Nat.lt_of_not_le hnot)), fun hlate => ?_⟩
    exact ⟨_, hexec.trans (if_neg (Nat.not_lt.mpr hlate)), (s.overrun_tasks u 0 p).abandon_free hunits hu ht⟩

end Sys2Proof.Laws

namespace Sys2Proof.Machine

open Sys2Proof.Safety

/-! ## Words in memory (R2) -/

@[simp] theorem length_leBytes (n x : Nat) : (leBytes n x).length = n := by
  induction n generalizing x with
  | zero => rfl
  | succ n ih => rw [leBytes, List.length_cons, ih]

/-- A number's low bytes hold the number up to them. -/
theorem leNat_leBytes (n x : Nat) : leNat (leBytes n x) = x % 256 ^ n := by
  induction n generalizing x with
  | zero => simp [leBytes, leNat, Nat.mod_one]
  | succ n ih =>
    have hcons : leNat (leBytes (n + 1) x) = (BitVec.ofNat 8 x).toNat + 256 * leNat (leBytes n (x / 256)) := rfl
    rw [hcons, ih, BitVec.toNat_ofNat, Nat.pow_succ' (n := n), Nat.mod_mul]

@[simp] theorem length_rdBytes (m : List Host.Cell) (p n : Nat) : (rdBytes m p n).length = n := by
  simp [rdBytes]

section

variable (m : List Host.Cell) (p : Nat)

/-- A word written reads back. -/
theorem rd32_wrBytes (h : Memory.wf m = true) (v : Word) : rd32 (wrBytes m p (leBytes 4 v.toNat)) p = v := by
  have hread := rdBytes_wrBytes m p (leBytes 4 v.toNat) h
  rw [length_leBytes] at hread
  rw [rd32, hread, leNat_leBytes, show (256 : Nat) ^ 4 = 2 ^ 32 from rfl, Nat.mod_eq_of_lt v.isLt, BitVec.ofNat_toNat, BitVec.setWidth_eq]

/-- A doubleword written reads back. -/
theorem rd64_wrBytes (h : Memory.wf m = true) (v : BitVec 64) : rd64 (wrBytes m p (leBytes 8 v.toNat)) p = v := by
  have hread := rdBytes_wrBytes m p (leBytes 8 v.toNat) h
  rw [length_leBytes] at hread
  rw [rd64, hread, leNat_leBytes, show (256 : Nat) ^ 8 = 2 ^ 64 from rfl, Nat.mod_eq_of_lt v.isLt, BitVec.ofNat_toNat, BitVec.setWidth_eq]

/-- A word that does not meet the bytes written reads as before. -/
theorem rd32_wrBytes_out (bs : List Byte) {q : Nat} (h : q + 4 ≤ p ∨ p + bs.length ≤ q) : rd32 (wrBytes m p bs) q = rd32 m q := by
  rw [rd32, rdBytes_wrBytes_out m p bs h, rd32]

/-- A doubleword that does not meet the bytes written reads as before. -/
theorem rd64_wrBytes_out (bs : List Byte) {q : Nat} (h : q + 8 ≤ p ∨ p + bs.length ≤ q) : rd64 (wrBytes m p bs) q = rd64 m q := by
  rw [rd64, rdBytes_wrBytes_out m p bs h, rd64]

/-- A word of a group's record reads back (R24). -/
theorem State.gword_setGword (s : State) (h : MemoryOk s) (g : Group) (k : Nat) (v : Word) : rd32 (s.setGword g k v).mem (g.place + k) = v :=
  rd32_wrBytes s.mem _ h v

/-- Memory beside a word of a group's record stays. -/
theorem State.setGword_else (s : State) (g : Group) (k : Nat) (v : Word) : Else (g.place + k) 4 s (s.setGword g k v) := fun _ ha =>
  rdByte_wrBytes_out s.mem _ _ (by rwa [length_leBytes])

end

end Sys2Proof.Machine

namespace Sys2Proof.Machine

open Sys2Proof.Safety

/-! ## Units changed one after the other -/

/-- Units of a list are changed one after the other, each once and none to the idle unit: each is as its change leaves it, every other
unit as it was. -/
theorem foldl_modUnit_unit {α : Type} (l : List α) (key : α → Nat) (f : α → Unit → Unit) (hnodup : (l.map key).Nodup)
    (hne : ∀ a x, f a x ≠ Unit.idle) (s : State) :
    let t := l.foldl (fun s a => s.modUnit (key a) (f a)) s
    (∀ a ∈ l, t.unit (key a) = f a (s.unit (key a))) ∧ ∀ v, v ∉ l.map key → t.unit v = s.unit v := by
  induction l generalizing s with
  | nil => exact ⟨fun a h => absurd h List.not_mem_nil, fun _ _ => rfl⟩
  | cons a l ih =>
    obtain ⟨hnot, hnodup⟩ := List.nodup_cons.mp hnodup
    obtain ⟨hin, hout⟩ := ih hnodup (s.modUnit (key a) (f a))
    refine ⟨fun b hb => ?_, fun v hv => ?_⟩
    · by_cases hmem : b ∈ l
      · have hother : key b ≠ key a := fun h => hnot (h ▸ List.mem_map_of_mem hmem)
        refine (hin b hmem).trans ?_
        rw [State.modUnit_unit_other s (f a) hother]
      · obtain rfl : b = a := (List.mem_cons.mp hb).resolve_right hmem
        exact (hout _ hnot).trans (s.modUnit_unit_same _ _ (hne _ _))
    · rw [List.map_cons, List.mem_cons, not_or] at hv
      exact (hout v hv.2).trans (s.modUnit_unit_other _ hv.1)

/-- Units changed one after the other leave memory. -/
theorem foldl_modUnit_mem {α : Type} (l : List α) (key : α → Nat) (f : α → Unit → Unit) (s : State) :
    (l.foldl (fun s a => s.modUnit (key a) (f a)) s).mem = s.mem := by
  induction l generalizing s with
  | nil => rfl
  | cons a l ih => exact ih (s.modUnit (key a) (f a))

/-! ## Entry of a task (R26 to R28, R147) -/

/-- What a unit holds of a task of a group that has just entered it, and what an abandoned one has left. -/
def Entered (g : Group) (i : Word) (replay member : Bool) (x y : Unit) : Prop :=
  y.on = true ∧ y.task = some ⟨g.ctx, g.recd, i, replay, member, g.cluster, false, g.tag, g.ctl, g.num⟩ ∧
    y.front = ⟨g.entry.setWidth 64, [], 0, g.entry.getLsbD 12⟩ ∧ y.sreg 1 = g.args ∧ y.sreg 2 = i.setWidth 64 ∧
    (∀ r, r ≠ 1 → r ≠ 2 → y.sreg r = 0) ∧ (∀ r, r ≠ 0 → y.guard r = false) ∧ y.spr.rm = 0 ∧ y.spr.fflags = 0 ∧
    y.spr.sup = false ∧ y.spr.rfmode = 0xFF ∧ y.eng.v = [] ∧ y.eng.m = [] ∧ y.eng.h = [] ∧ y.eng.gn = [] ∧ y.tok = 0 ∧
    y.eng.active = x.eng.active ∧ y.eng.shadow = x.eng.shadow ∧ y.eng.load = x.eng.load ∧ y.eng.genUses = x.eng.genUses

/-- A task of a group by its index and how it starts. -/
def Group.taskAt (g : Group) (i : Word) (replay member : Bool) : Task :=
  ⟨g.ctx, g.recd, i, replay, member, g.cluster, false, g.tag, g.ctl, g.num⟩

/-- The scalars at entry: the arguments, the index, zeros. -/
theorem entry_sreg (args i : BitVec 64) (r : Nat) : Tab.get (0 : BitVec 64) (Tab.set 0 (Tab.set 0 [] 1 args) 2 i) r =
    if r = 2 then i else if r = 1 then args else 0 := by
  have hargs : Tab.wf (0 : BitVec 64) (Tab.set 0 [] 1 args) = true := Tab.wf_set _ _ _ _ rfl
  rw [Tab.get_set _ _ _ _ _ hargs, Tab.get_set _ _ _ _ _ rfl, Tab.get_nil]

theorem Unit.enter_entered (x : Unit) (cycle : Nat) (g : Group) (i : Word) (replay member : Bool) :
    Entered g i replay member x (x.enter cycle (g.taskAt i replay member) g.entry g.args) := by
  have hsreg (r : BitVec 5) : (x.enter cycle (g.taskAt i replay member) g.entry g.args).sreg r =
      if r = 0 then 0 else if r.toNat = 2 then i.setWidth 64 else if r.toNat = 1 then g.args else 0 := by
    rw [← entry_sreg, Unit.sreg]
    simp only [beq_iff_eq]
    rfl
  refine ⟨rfl, rfl, rfl, hsreg 1, hsreg 2, fun r h1 h2 => ?_, fun r hr => ?_, rfl, rfl, rfl, rfl, rfl, rfl, rfl, rfl, rfl, rfl, rfl, rfl, rfl⟩
  · have h1' : ¬ r.toNat = 1 := fun h => h1 (BitVec.eq_of_toNat_eq h)
    have h2' : ¬ r.toNat = 2 := fun h => h2 (BitVec.eq_of_toNat_eq h)
    rw [hsreg, if_neg h2', if_neg h1', ite_self]
  · have hzero : (x.enter cycle (g.taskAt i replay member) g.entry g.args).guard r = (r == 0 || (0 : BitVec 4).getLsbD r.toNat) := rfl
    rw [hzero, beq_eq_false_iff_ne.mpr hr]
    exact (BitVec.getLsbD_zero : (0#4).getLsbD r.toNat = false)

theorem Unit.enter_ne_idle (x : Unit) (cycle : Nat) (t : Task) (entry : BitVec 13) (args : BitVec 64) :
    x.enter cycle t entry args ≠ Unit.idle := fun h => nomatch congrArg Unit.task h

theorem coresOf_nodup (c : Nat) : (coresOf c).Nodup := by simp [coresOf]

theorem Group.coresOf_nodup (g : Group) (u : Nat) : (g.coresOf u).Nodup := by
  unfold Group.coresOf
  split
  · exact Machine.coresOf_nodup _
  · exact List.nodup_singleton u


/-- Cores that enter a task one after the other do so in one cycle. -/
theorem State.startTask_eq (s : State) (g : Group) (u : Nat) (t : Task) : s.startTask g u t =
    (g.coresOf u).foldl (fun s' v => s'.modUnit v fun x => x.enter s.cycle t g.entry g.args) s := by
  unfold State.startTask
  generalize g.coresOf u = l
  induction l generalizing s with
  | nil => rfl
  | cons v l ih => exact ih (s.modUnit v fun x => x.enter s.cycle t g.entry g.args)

/-- A task that starts has entered its cores; every other unit stays. -/
theorem State.startTask_spec (s : State) (g : Group) (u : Nat) (i : Word) (replay member : Bool) :
    let t := s.startTask g u (g.taskAt i replay member)
    (∀ v ∈ g.coresOf u, Entered g i replay member (s.unit v) (t.unit v)) ∧ (∀ v, v ∉ g.coresOf u → t.unit v = s.unit v) ∧
      t.mem = s.mem := by
  intro t
  have hnodup : ((g.coresOf u).map id).Nodup := (List.map_id _).symm ▸ g.coresOf_nodup u
  obtain ⟨hin, hout⟩ := foldl_modUnit_unit (g.coresOf u) id (fun _ x => x.enter s.cycle (g.taskAt i replay member) g.entry g.args)
    hnodup (fun _ x => x.enter_ne_idle _ _ _ _) s
  rw [List.map_id] at hout
  refine ⟨fun v hv => ?_, fun v hv => ?_, ?_⟩
  · have hv' : t.unit v = _ := (congrArg (·.unit v) (s.startTask_eq g u _)).trans (hin v hv)
    rw [hv']
    exact (s.unit v).enter_entered _ _ _ _ _
  · exact (congrArg (·.unit v) (s.startTask_eq g u _)).trans (hout v hv)
  · exact (congrArg State.mem (s.startTask_eq g u _)).trans (foldl_modUnit_mem _ id _ s)

/-- The dispatch units of a group are different ones (R34). -/
theorem Group.units_nodup (g : Group) : g.units.Nodup := by
  have hunits (c : Nat) : (if g.cluster then [4 * c] else Machine.coresOf c).Nodup := by
    split
    · exact List.nodup_singleton _
    · exact Machine.coresOf_nodup c
  have hmem {c v : Nat} (h : v ∈ if g.cluster then [4 * c] else Machine.coresOf c) : v / 4 = c := by
    split at h <;> simp [Machine.coresOf] at h <;> omega
  unfold Group.units
  refine List.nodup_flatten.mpr ⟨fun l hl => ?_, ?_⟩
  · obtain ⟨c, -, rfl⟩ := List.mem_map.mp hl
    exact hunits c
  · refine List.pairwise_map.mpr ((List.nodup_range.filter _).imp fun hne => ?_)
    exact fun v h1 h2 => hne ((hmem h1).symm.trans (hmem h2))

/-- First indices that start together on cores have each entered its core (R28). -/
theorem State.startTogether (s : State) (g : Group) (us : List Nat) (hnodup : us.Nodup) (hcore : g.cluster = false) :
    let t := us.zipIdx.foldl (fun s p => s.startTask g p.1 (g.taskAt (BitVec.ofNat 32 p.2) false true)) s
    (∀ k v, us[k]? = some v → Entered g (BitVec.ofNat 32 k) false true (s.unit v) (t.unit v)) ∧ t.mem = s.mem := by
  have hone (l : List (Nat × Nat)) : ∀ s' : State, s'.cycle = s.cycle →
      l.foldl (fun s p => s.startTask g p.1 (g.taskAt (BitVec.ofNat 32 p.2) false true)) s' =
      l.foldl (fun s' p => s'.modUnit p.1 fun x => x.enter s.cycle (g.taskAt (BitVec.ofNat 32 p.2) false true) g.entry g.args) s' := by
    induction l with
    | nil => exact fun _ _ => rfl
    | cons p l ih =>
      intro s' hcycle
      have hstart : s'.startTask g p.1 (g.taskAt (BitVec.ofNat 32 p.2) false true) =
          s'.modUnit p.1 fun x => x.enter s.cycle (g.taskAt (BitVec.ofNat 32 p.2) false true) g.entry g.args := by
        rw [State.startTask_eq, Group.coresOf, hcore, hcycle]
        rfl
      rw [List.foldl_cons, List.foldl_cons, hstart]
      exact ih _ hcycle
  intro t
  have ht : t = _ := hone us.zipIdx s rfl
  have hkeys : (us.zipIdx.map Prod.fst).Nodup := by rwa [List.zipIdx_map_fst]
  obtain ⟨hin, -⟩ := foldl_modUnit_unit us.zipIdx Prod.fst
    (fun p x => x.enter s.cycle (g.taskAt (BitVec.ofNat 32 p.2) false true) g.entry g.args) hkeys (fun _ x => x.enter_ne_idle _ _ _ _) s
  refine ⟨fun k v hk => ?_, ?_⟩
  · have hv : t.unit v = _ := (congrArg (·.unit v) ht).trans (hin (v, k) (List.mk_mem_zipIdx_iff_getElem?.mpr hk))
    rw [hv]
    exact (s.unit v).enter_entered _ _ _ _ _
  · rw [ht]
    exact foldl_modUnit_mem _ _ _ s

/-! ## Dispatch of a bundle (R43) -/

/-- What the slots of a unit hold once each has taken an operation at its queue's end. -/
theorem Unit.foldl_append (x : Unit) (op : Nat → QOp) (ks : List Nat) (hnodup : ks.Nodup) :
    let y := ks.foldl (fun x k => x.modSlot k fun sl => { sl with queue := sl.queue ++ [op k] }) x
    ∀ k, (k ∈ ks → (y.slot k).queue = (x.slot k).queue ++ [op k]) ∧ (k ∉ ks → y.slot k = x.slot k) := by
  induction ks generalizing x with
  | nil => exact fun k => ⟨fun h => absurd h List.not_mem_nil, fun _ => rfl⟩
  | cons j ks ih =>
    obtain ⟨hnot, hnodup⟩ := List.nodup_cons.mp hnodup
    intro y k
    obtain ⟨hin, hout⟩ := ih (x.modSlot j fun sl => { sl with queue := sl.queue ++ [op j] }) hnodup k
    have hself : (x.modSlot j fun sl => { sl with queue := sl.queue ++ [op j] }).slot j =
        { x.slot j with queue := (x.slot j).queue ++ [op j] } :=
      x.modSlot_slot j _ fun h => List.append_ne_nil_of_right_ne_nil _ (List.cons_ne_nil _ _) (congrArg Slot.queue h)
    refine ⟨fun hk => ?_, fun hk => ?_⟩
    · by_cases hmem : k ∈ ks
      · have hkj : k ≠ j := fun h => hnot (h ▸ hmem)
        exact (hin hmem).trans (by rw [x.modSlot_slot_other _ hkj])
      · obtain rfl : k = j := (List.mem_cons.mp hk).resolve_right hmem
        exact (congrArg Slot.queue (hout hmem)).trans (congrArg Slot.queue hself)
    · rw [List.mem_cons, not_or] at hk
      exact (hout hk.2).trans (x.modSlot_slot_other _ hk.1)

theorem slotsOf_nodup (u : Nat) : (slotsOf u).Nodup := by
  unfold slotsOf
  split <;> decide

/-- The entry of a slot's queue that a bundle dispatched while nothing is to be skipped makes (R43). -/
def Unit.queueEntry (x : Unit) (cycle : Nat) (b : BitVec 256) (ops : Ops) (k : Nat) : QOp :=
  ⟨x.disp.seq, x.front.pc, bundleWord b k, hdrGuard (bundleWord b 0) k,
    hdrSync (bundleWord b 0) k || ops.any (fun p => p.1 == k && impliedSync p.2), (bundleWord b 0).extractLsb' 14 10, x.front.rotb,
    x.front.loops, cycle⟩

/-- A bundle dispatched while nothing is to be skipped: its operations stand at the ends of the queues, and the front end goes on
behind it unless a control operation is to decide (R43, R149). -/
theorem Unit.enqueue_spec (x : Unit) (u cycle : Nat) (b : BitVec 256) (ops : Ops) (missed : Bool) (hskips : x.disp.skips = List.replicate 8 0) :
    let y := x.enqueue u cycle b ops missed
    (∀ k ∈ slotsOf u, (y.slot k).queue.map (fun o => (o.seq, o.addr, o.word, o.guard)) =
      (x.slot k).queue.map (fun o => (o.seq, o.addr, o.word, o.guard)) ++
        [(x.disp.seq, x.front.pc, bundleWord b k, hdrGuard (bundleWord b 0) k)]) ∧
    y.disp.seq = x.disp.seq + 1 ∧
    (if ops.any (fun p => p.1 == 1 && isControl p.2) then y.front = x.front ∧ y.disp.wait = some x.disp.seq
      else y.front = x.front.after x.stream x.front.pc ∧ y.disp.wait = none) ∧
    regs { y with front := x.front } = regs x := by
  have hskip (k : Nat) : (x.disp.skips.getD k 0 != 0 && !x.disp.gaps.any fun e => e.1 == k && e.2.1 == x.disp.seq) = false := by
    rw [hskips, List.getD_eq_getElem?_getD, List.getElem?_replicate]
    split <;> rfl
  have hlive : ops.filter (fun _ => true) = ops := List.filter_eq_self.mpr fun _ _ => rfl
  have hgone : (ops.any fun p => p.1 == 1 && isControl p.2 && false) = false := by simp
  unfold Unit.enqueue
  simp only [hskip, Bool.not_false, hlive, hgone, Bool.false_eq_true, if_false]
  have hqueue := x.foldl_append (x.queueEntry cycle b ops) _ (slotsOf_nodup u)
  obtain ⟨sl, hsl⟩ := x.foldl_modSlot_eq (slotsOf u) fun k sl => { sl with queue := sl.queue ++ [x.queueEntry cycle b ops k] }
  unfold Unit.queueEntry at hqueue hsl
  simp only [hsl] at hqueue ⊢
  refine ⟨fun k hk => ?_, rfl, ?_, rfl⟩
  · exact (congrArg (List.map _) ((hqueue k).1 hk)).trans List.map_append
  · split
    · exact ⟨rfl, rfl⟩
    · exact ⟨rfl, rfl⟩

/-- The bundle of its code memory at which a unit's front end stands (R43). -/
def State.codeBundle (s : State) (u : Nat) : BitVec 256 :=
  let x := s.unit u
  s.codeAt u x.front.pc.toNat (x.spr.coherent.getLsbD (if x.front.half then 1 else 0))

/-- What dispatch does with a bundle of a code memory (R43): but for the translations that its fetch caches, it notes the fault or places
the operations. -/
theorem State.dispatch_eq (s : State) (u : Nat) (hmay : s.mayDispatch u = true) (hcode : (s.unit u).stream = false)
    (hhalf : (s.unit u).front.inHalf u = true) (hinv : (s.unit u).spr.inv = false) (hasked : (s.unit u).preempt = none) :
    let x := s.unit u
    let b := s.codeBundle u
    ∃ s₁ : State, s₁.units = s.units ∧ s₁.mem = s.mem ∧
      s.dispatch u = match decodeBundle u false x.front.index x.front.rotb x.disp.mldb b with
        | .error (sub, k) => s₁.raiseFront u k x.front.pc (Flt.of 1 (BitVec.ofNat 8 sub) ((bundleWord b k).setWidth 64))
        | .ok ops => s₁.modUnit u fun x => x.enqueue u s.cycle b ops false := by
  intro x b
  have hfetch : s.fetch u = .ok (b, []) := by
    unfold State.fetch
    simp only [hcode, Bool.false_eq_true, if_false]
    rfl
  refine ⟨{ s.tlbAdd (dieOf u) [] with fresh := s.fresh + 1 }, by simp only [State.tlbAdd_units], by simp only [State.tlbAdd_mem], ?_⟩
  unfold State.dispatch
  simp only [hmay, hcode, hhalf, hinv, hasked, hfetch, State.tlbAdd_cycle, Bool.not_true, Bool.not_false, Bool.and_false, Bool.false_and,
    Option.isSome_none, Bool.false_eq_true, if_false]
  rfl

/-- The first fault that stops a front end is noted (R134). -/
theorem State.raiseFront_spec (s : State) (u k : Nat) (a : BitVec 64) (f : Flt) (hpend : (s.unit u).disp.pend = none) :
    let t := s.raiseFront u k a f
    regs (t.unit u) = regs (s.unit u) ∧ t.mem = s.mem ∧ ∃ p, (t.unit u).disp.pend = some p ∧ p.code = f.code ∧ p.sub = f.sub ∧
      p.seq = (s.unit u).disp.seq ∧ p.slot = k ∧ p.info0 = f.info0 := by
  intro t
  have hunit : t.unit u = _ := State.modUnit_unit_same s u _ fun h => by
    have hp := congrArg (fun y : Unit => y.disp.pend) h
    simp only [Unit.modDisp, hpend] at hp
    exact nomatch hp
  rw [hunit]
  simp only [Unit.modDisp, hpend]
  exact ⟨rfl, rfl, _, rfl, rfl, rfl, rfl, rfl, rfl⟩

/-- A front end that may dispatch has no fault noted (R134). -/
theorem State.mayDispatch_pend {s : State} {u : Nat} (h : s.mayDispatch u = true) : (s.unit u).disp.pend = none := by
  unfold State.mayDispatch at h
  simp only [Bool.and_eq_true, beq_iff_eq] at h
  exact h.1.1.1.1.2

/-! ## What a free unit takes (R26, R28) -/

theorem exec_taskDispatch (s : State) : exec .taskDispatch s = match s.workFor s.arg.n with
    | some w => if s.turn s.arg.n then .next (s.takeWork s.arg.n w) else .next s
    | none => .next s := rfl

theorem exec_replayDispatch (s : State) : exec .replayDispatch s = match s.workFor s.arg.n with
    | some (.replay g i) => if s.turn s.arg.n then .next (s.takeWork s.arg.n (.replay g i)) else .next s
    | _ => .next s := rfl

theorem State.taskDispatch_eq {s : State} {w : Work} (hwork : s.workFor s.arg.n = some w) (hturn : s.turn s.arg.n = true) :
    exec .taskDispatch s = .next (s.takeWork s.arg.n w) := by
  rw [exec_taskDispatch, hwork]
  exact if_pos hturn

theorem State.replayDispatch_eq {s : State} {g : Group} {i : Word} (hwork : s.workFor s.arg.n = some (.replay g i))
    (hturn : s.turn s.arg.n = true) : exec .replayDispatch s = .next (s.takeWork s.arg.n (.replay g i)) := by
  rw [exec_replayDispatch, hwork]
  exact if_pos hturn

/-- The units that are free for the first indices of a co-resident group (R26, R28). -/
def State.freeTogether (s : State) (g : Group) : List Nat :=
  g.units.filter fun u => s.workFor u == some (.together g) && (g.cluster || !s.clusterTakes u)

/-- Whether the first indices of a co-resident group start (R28). -/
def State.startsTogether (s : State) (g : Group) : Prop :=
  g.cores = true ∧ g.begun = false ∧ s.glob.running = some g.ctx ∧ s.glob.swState ≠ 2 ∧ s.fatalRuns = false ∧
    g.count0.toNat ≤ (s.freeTogether g).length

theorem State.startsTogether_iff (s : State) (g : Group) : s.startsTogether g ↔
    (!g.cores || g.begun || some g.ctx != s.glob.running || s.glob.swState == 2 || s.fatalRuns ||
      decide ((s.freeTogether g).length < g.count0.toNat)) = false := by
  unfold State.startsTogether
  simp only [Bool.or_eq_false_iff, Bool.not_eq_false', bne_eq_false_iff_eq, beq_eq_false_iff_ne, decide_eq_false_iff_not, not_lt, and_assoc,
    eq_comm (a := s.glob.running)]

section

variable {s : State} {g : Group} (hg : s.groups[s.arg.n]? = some g)
include hg

theorem State.coResidentDispatch_waits (h : ¬ s.startsTogether g) : exec .coResidentDispatch s = .next s := by
  rw [State.startsTogether_iff, Bool.not_eq_false] at h
  show execCoResidentDispatch s = _
  unfold execCoResidentDispatch
  rw [hg]
  exact if_pos h

theorem State.coResidentDispatch_goes (h : s.startsTogether g) : exec .coResidentDispatch s =
    .next (((s.freeTogether g).take g.count0.toNat).zipIdx.foldl
      (fun s p => s.startTask g p.1 (g.taskAt (BitVec.ofNat 32 p.2) false true))
      ((s.setGword g 28 g.count0).modGroup g fun g => { g with begun := true })) := by
  rw [State.startsTogether_iff, ← Bool.not_eq_true] at h
  show execCoResidentDispatch s = _
  unfold execCoResidentDispatch
  rw [hg]
  exact if_neg h

end

end Sys2Proof.Machine

namespace Sys2Proof.Laws

open Sys2Proof.Machine Sys2Proof.Safety

/-- Settles O45: what a unit dispatches, and how a task that starts has entered its cores. -/
theorem dispatchEvents : Obligations.DispatchEvents := by
  intro s hu hmem u x entered
  refine ⟨fun hmay => ?_, fun hmay hcode hhalf hinv hasked => ?_, fun g hwork hturn _ => ?_, fun g i hwork hturn => ?_,
    fun hidle => ?_, fun g hg => ?_⟩
  · have hstays : s.dispatch s.arg.n = s := by
      unfold State.dispatch
      rw [show s.mayDispatch s.arg.n = false from hmay]
      rfl
    exact congrArg Host.Outcome.next hstays
  · obtain ⟨s₁, hunits, hmem₁, hdispatch⟩ := s.dispatch_eq u hmay hcode hhalf hinv hasked
    have hunit (v : Nat) : s₁.unit v = s.unit v := congrArg (fun us => Tab.get Machine.Unit.idle us v) hunits
    refine ⟨fun ops hdecode hskips => ⟨_, rfl, ?_⟩, fun sub k hdecode => ⟨_, rfl, ?_⟩⟩
    · rw [show decodeBundle u false _ _ _ (s.codeBundle u) = _ from hdecode] at hdispatch
      obtain ⟨hqueues, hseq, hfront, hregs⟩ := x.enqueue_spec u s.cycle (s.codeBundle u) ops false hskips
      have hu₁ : UnitsOk s₁ := by
        unfold UnitsOk
        rw [hunits]
        exact hu
      have hself : (s.dispatch u).unit u = x.enqueue u s.cycle (s.codeBundle u) ops false := by
        rw [hdispatch, State.modUnit_unit _ hu₁, if_pos rfl, hunit]
      rw [hself]
      refine ⟨hqueues, hseq, hcode ▸ hfront, hregs, fun v hv => ?_, ?_⟩
      · rw [hdispatch, State.modUnit_unit_other _ _ hv, hunit]
      · rw [hdispatch]
        exact hmem₁
    · rw [show decodeBundle u false _ _ _ (s.codeBundle u) = _ from hdecode] at hdispatch
      have hpend : (s₁.unit u).disp.pend = none := by
        rw [hunit]
        exact State.mayDispatch_pend hmay
      obtain ⟨hregs, hmem₂, p, hp, hcode, hsub, hseq, hslot, hinfo⟩ := s₁.raiseFront_spec u k x.front.pc
        (Flt.of 1 (BitVec.ofNat 8 sub) ((bundleWord (s.codeBundle u) k).setWidth 64)) hpend
      rw [hdispatch]
      exact ⟨hregs.trans (congrArg regs (hunit u)), hmem₂.trans hmem₁, p, hp, hcode, hsub,
        hseq.trans (congrArg (·.disp.seq) (hunit u)), hslot, hinfo⟩
  · obtain ⟨hin, hout, hmem'⟩ := (s.setGword g 28 (s.gword g 28 + 1)).startTask_spec g u (s.gword g 28) false false
    refine ⟨_, State.taskDispatch_eq hwork hturn, fun v hv => hin v hv, ?_, fun a ha => ?_, hout⟩
    · exact (congrArg (rd32 · _) hmem').trans (s.gword_setGword hmem g 28 _)
    · exact (congrArg (rdByte · a) hmem').trans (s.setGword_else g 28 _ a ha)
  · obtain ⟨hin, hout, hmem'⟩ := (s.modGroup g fun g => { g with replays := g.replays.drop 1 }).startTask_spec g u i true
      (g.cores && i.ult g.count0)
    exact ⟨_, State.replayDispatch_eq hwork hturn, hin, hmem', hout⟩
  · unfold Waits
    rw [exec_taskDispatch, exec_replayDispatch]
    rcases hidle with hnone | hturn | ⟨g, hg⟩
    · rw [hnone]
      exact ⟨rfl, rfl⟩
    · rw [hturn]
      constructor <;> split <;> rfl
    · rw [hg]
      exact ⟨ite_self _, rfl⟩
  · intro clusterFirst free ready
    refine ⟨State.coResidentDispatch_waits hg, fun hready hcore => ?_⟩
    · have hnodup : (free.take g.count0.toNat).Nodup := (g.units_nodup.filter _).sublist (List.take_sublist _ _)
      obtain ⟨hin, hmem'⟩ := ((s.setGword g 28 g.count0).modGroup g fun g => { g with begun := true }).startTogether g _ hnodup hcore
      refine ⟨_, State.coResidentDispatch_goes hg hready, fun k v hk hv => hin k v ?_, ?_⟩
      · rw [List.getElem?_take, if_pos hk, hv]
      · exact (congrArg (rd32 · _) hmem').trans (s.gword_setGword hmem g 28 _)

end Sys2Proof.Laws

namespace Sys2Proof.Machine

open Sys2Proof.Safety

/-! ## Units that only stop -/

theorem TasksStay.foldl {α : Type} (l : List α) (f : State → α → State) (hf : ∀ s a, TasksStay s (f s a)) (s : State) :
    TasksStay s (l.foldl f s) := by
  induction l generalizing s with
  | nil => exact .refl s
  | cons a l ih => exact (hf s a).trans (ih (f s a))

/-- What comes before and leaves the units makes no difference. -/
theorem TasksStay.after {s s₁ t : State} (h : TasksStay s₁ t) (hunits : s₁.units = s.units) : TasksStay s t :=
  TasksStay.trans (.of_units hunits) h

/-- What happens in one step to units other than that tasks enter them: each unit stands still, or has its task, runs and is asked to drain
as it did. -/
def Stops (s t : State) : Prop :=
  UnitsOk t ∧ ∀ v, (t.unit v).on = false ∨
    (t.unit v).task = (s.unit v).task ∧ (t.unit v).on = (s.unit v).on ∧ (t.unit v).preempt = (s.unit v).preempt

namespace Stops

theorem of_tasks {s t : State} (hs : UnitsOk s) (h : TasksStay s t) : Stops s t := ⟨h.1 hs, fun v => by
  obtain ⟨htask, hon, hask, -⟩ := h.2 v
  exact .inr ⟨htask, hon, hask⟩⟩

theorem trans {s t r : State} (h : Stops s t) (h' : Stops t r) : Stops s r := by
  refine ⟨h'.1, fun v => ?_⟩
  rcases h'.2 v with hoff | ⟨htask, hon, hask⟩
  · exact .inl hoff
  · rcases h.2 v with hoff | ⟨htask₁, hon₁, hask₁⟩
    · exact .inl (hon.trans hoff)
    · exact .inr ⟨htask.trans htask₁, hon.trans hon₁, hask.trans hask₁⟩

/-- A unit that stands still goes on doing so. -/
theorem off {s t : State} (h : Stops s t) {v : Nat} (hoff : (s.unit v).on = false) : (t.unit v).on = false :=
  (h.2 v).elim id fun h => h.2.1.trans hoff

theorem foldl {α : Type} (l : List α) (f : State → α → State) (hf : ∀ s a, UnitsOk s → Stops s (f s a)) (s : State) (hs : UnitsOk s) :
    Stops s (l.foldl f s) := by
  induction l generalizing s with
  | nil => exact .of_tasks hs (.refl s)
  | cons a l ih =>
    have h := hf s a hs
    exact h.trans (ih (f s a) h.1)

/-- One unit that is brought to a stand. -/
theorem modUnit {s : State} (hs : UnitsOk s) (u : Nat) (f : Unit → Unit) (hoff : (f (s.unit u)).on = false) : Stops s (s.modUnit u f) := by
  refine ⟨s.modUnit_wf u f hs, fun v => ?_⟩
  rw [s.modUnit_unit hs]
  split
  · exact .inl hoff
  · exact .inr ⟨rfl, rfl, rfl⟩

end Stops

theorem Unit.halt_on (x : Unit) (u : Nat) : (x.halt u).on = false := by
  obtain ⟨sl, h⟩ := x.halt_eq u
  rw [h]

/-- An abandoned task only stops units. -/
theorem State.abandon_stops (s : State) (hs : UnitsOk s) (u : Nat) : Stops s (s.abandon u) := by
  have hhalts (t : Task) : Stops s ((taskUnits u t).foldl (fun s v => (s.dropResults v).modUnit v fun x => { x.halt v with freed := none }) s) :=
    .foldl _ _ (fun s v hs => Stops.modUnit (s := s.dropResults v) hs v _ (((s.dropResults v).unit v).halt_on v)) s hs
  unfold State.abandon
  split
  · exact .of_tasks hs (.refl s)
  · next t _ =>
    dsimp only
    split
    · exact hhalts t
    · split
      · exact (hhalts t).trans (.of_tasks (hhalts t).1 (.of_units rfl))
      · exact (hhalts t).trans (.of_tasks (hhalts t).1 (State.retireTask_tasks _ _ _ _))

/-- A controller that is stopped stops alone. -/
theorem State.stopCtl_stops (s : State) (hs : UnitsOk s) (u : Nat) (a : BitVec 64) : Stops s (s.stopCtl u a) := by
  have hhalt : Stops s ((s.dropResults u).modUnit u fun x => { x.halt u with start := a }) :=
    Stops.modUnit (s := s.dropResults u) hs u _ (((s.dropResults u).unit u).halt_on u)
  unfold State.stopCtl
  dsimp only
  split
  · exact hhalt
  · exact hhalt.trans (.of_tasks hhalt.1 (.of_units rfl))

/-! ## Aborts of calls move no task (R345) -/

theorem State.closeCall_tasks (s : State) (id : Nat) : TasksStay s (s.closeCall id) := by
  unfold State.closeCall
  split
  · exact .refl s
  · dsimp only
    split
    · exact .refl s
    · next c _ _ =>
      have hpost : TasksStay s (if c.post = true then s.postEvent (ctlOf (clusterOf c.unit)) c.event else s) := by
        split
        · exact s.postEvent_tasks _ _
        · exact .refl s
      split
      · split
        · exact hpost.trans (.of_units rfl)
        · exact hpost.trans (.of_units rfl)
      · exact hpost.trans (.of_units rfl)

theorem State.endCall_tasks (s : State) (id : Nat) (status : Byte) (v : Word) (n : Nat) (fl : BitVec 5) :
    TasksStay s (s.endCall id status v n fl) := by
  unfold State.endCall
  split
  · exact .refl s
  · split
    · exact .refl s
    · dsimp only
      exact (State.closeCall_tasks _ id).after rfl

theorem State.endCalls_tasks (s : State) (c : BitVec 3) (p : Call → Bool) : TasksStay s (s.endCalls c p) := by
  unfold State.endCalls
  dsimp only
  refine TasksStay.trans (.foldl (s.calls.filter fun k => k.ctx == c && !k.fin && p k) (fun s k => s.endCall k.id 2 0 0 0)
    (fun s k => s.endCall_tasks _ _ _ _ _) s) (.of_units ?_)
  rw [apply_ite State.units]
  exact ite_self _

theorem State.abortEntries_tasks (s : State) (c : BitVec 3) (d : Nat) (h : BitVec 16) : TasksStay s (s.abortEntries c d h) := by
  unfold State.abortEntries
  dsimp only
  refine TasksStay.trans (TasksStay.foldl _ _ (fun s ch => ?_) s) (State.endCalls_tasks _ _ _)
  exact .of_units rfl

/-- The abort of a call's handle moves no task. -/
theorem State.abortCall_tasks (s : State) (k : Call) (expected got : Word) (why : Nat) : TasksStay s (s.abortCall k expected got why) := by
  unfold State.abortCall
  dsimp only
  split
  · unfold State.sendAbort
    refine TasksStay.foldl _ _ (fun s r => ?_) s
    exact .of_units rfl
  · exact s.abortEntries_tasks _ _ _

/-! ## The limit of step 1 (R37) -/

/-- What comes before an undrained unit is stopped: its calls' handles are aborted and DRAIN_OVERRUN is logged. -/
theorem State.overrunGang_tasks (s : State) (u : Nat) (p : Preempt) :
    TasksStay s (((s.abandonCalls u).overrun u 1 p).modGlob fun g => { g with swBad := true }) := by
  have hcalls : TasksStay s (s.abandonCalls u) := .foldl _ _ (fun s k => s.abortCall_tasks _ _ _ _) s
  exact (hcalls.trans (State.overrun_tasks _ _ _ _)).trans (.of_units rfl)

theorem State.gangAbandon_stops (s : State) (hs : UnitsOk s) (u : Nat) : Stops s (s.gangAbandon u) := by
  unfold State.gangAbandon
  split
  · exact .of_tasks hs (.refl s)
  · next p _ =>
    have hlog := Stops.of_tasks hs (s.overrunGang_tasks u p)
    dsimp only
    split
    · exact hlog.trans (State.stopCtl_stops _ hlog.1 u _)
    · exact hlog.trans (State.abandon_stops _ hlog.1 u)

/-- Whether a gang switch's limit finds something to stop on a unit: a request, and on a core a task. -/
def Abandonable (s : State) (u : Nat) : Prop := (s.unit u).preempt.isSome = true ∧ (isCtl u = false → (s.unit u).task ≠ none)

theorem State.gangAbandon_off (s : State) (hs : UnitsOk s) {u : Nat} (h : Abandonable s u) : ((s.gangAbandon u).unit u).on = false := by
  obtain ⟨hask, htask⟩ := h
  obtain ⟨p, hp⟩ := Option.isSome_iff_exists.mp hask
  have hlog := s.overrunGang_tasks u p
  unfold State.gangAbandon
  rw [hp]
  dsimp only
  split
  · rw [stopCtl_unit _ (hlog.1 hs)]
    exact ((((s.abandonCalls u).overrun u 1 p).modGlob fun g => { g with swBad := true }).unit u).halt_on u
  · next hctl =>
    rw [Bool.not_eq_true] at hctl
    obtain ⟨k, hk⟩ := Option.ne_none_iff_exists'.mp (htask hctl)
    have hu : u < 384 := by simpa [isCtl] using hctl
    exact (State.abandon_free _ (hlog.1 hs) hu ((hlog.2 u).1.trans hk)).2

/-- Undrained units are stopped one after the other, those that an earlier one's task took along included. -/
theorem gangAbandon_foldl (l : List Nat) (s : State) (hs : UnitsOk s) {u : Nat} (hu : u ∈ l) (h : (s.unit u).on = false ∨ Abandonable s u) :
    ((l.foldl State.gangAbandon s).unit u).on = false := by
  induction l generalizing s with
  | nil => exact absurd hu List.not_mem_nil
  | cons w l ih =>
    have hstop := s.gangAbandon_stops hs w
    have hrest := Stops.foldl l State.gangAbandon (fun s a hs => s.gangAbandon_stops hs a) (s.gangAbandon w) hstop.1
    by_cases huw : u = w
    · subst huw
      exact hrest.off (h.elim hstop.off (s.gangAbandon_off hs))
    · refine ih _ hstop.1 ((List.mem_cons.mp hu).resolve_left huw) ?_
      rcases h with hoff | ⟨hask, htask⟩
      · exact .inl (hstop.off hoff)
      · rcases hstop.2 u with hoff | ⟨htask', -, hask'⟩
        · exact .inl hoff
        · exact .inr ⟨by rw [hask', hask], fun hc => by rw [htask']; exact htask hc⟩

/-! ## The instant of a die (R37) -/

/-- A request changes units and the watches only. -/
theorem State.request_eq (s : State) (u : Nat) (p : Preempt) : ∃ us ws, s.request u p = { s with units := us, watches := ws } := by
  unfold State.request
  dsimp only
  split
  · exact ⟨_, _, rfl⟩
  · split <;> exact ⟨_, _, rfl⟩

/-- Units that are asked for a drain point one after the other: each has its request, every other one is as it was. -/
theorem gangRequest_foldl (us : List Nat) (hnodup : us.Nodup) (limit : Word) (s : State) :
    let t := us.foldl (fun s u => s.gangRequest u limit) s
    (∃ xs ws, t = { s with units := xs, watches := ws }) ∧
      (∀ u ∈ us, (t.unit u).preempt = some ⟨s.timeOf (dieOf u), limit, true⟩) ∧ ∀ u, u ∉ us → t.unit u = s.unit u := by
  induction us generalizing s with
  | nil => exact ⟨⟨_, _, rfl⟩, fun _ h => absurd h List.not_mem_nil, fun _ _ => rfl⟩
  | cons v us ih =>
    obtain ⟨hnot, hnodup⟩ := List.nodup_cons.mp hnodup
    obtain ⟨xs, ws, hone⟩ := s.request_eq v ⟨s.timeOf (dieOf v), limit, true⟩
    obtain ⟨⟨xs', ws', hall⟩, hin, hout⟩ := ih hnodup (s.gangRequest v limit)
    have htime (d : Nat) : (s.gangRequest v limit).timeOf d = s.timeOf d := by
      rw [State.gangRequest, hone]
      rfl
    refine ⟨⟨xs', ws', hall.trans ?_⟩, fun u hu => ?_, fun u hu => ?_⟩
    · rw [State.gangRequest, hone]
    · by_cases hmem : u ∈ us
      · exact (hin u hmem).trans (by rw [htime])
      · obtain rfl : u = v := (List.mem_cons.mp hu).resolve_right hmem
        exact (congrArg Unit.preempt (hout u hmem)).trans (s.request_preempt _ u)
    · rw [List.mem_cons, not_or] at hu
      exact (hout u hu.2).trans (s.request_unit_other _ hu.1)

/-- Channels that pause one after the other. -/
theorem State.pause_spec (s : State) (hs : CtxsOk s) (c : BitVec 3) (chs : List (BitVec 6)) :
    (∃ cs, s.pause c chs = { s with ctxs := cs }) ∧
      ∀ j, j ∈ chs ∨ (s.chan c.toNat j).paused = true → ((s.pause c chs).chan c.toNat j).paused = true := by
  induction chs generalizing s with
  | nil => exact ⟨⟨_, rfl⟩, fun j h => h.resolve_left List.not_mem_nil⟩
  | cons ch chs ih =>
    obtain ⟨⟨cs, hall⟩, hpaused⟩ := ih (s.modChan c.toNat ch fun x => { x with paused := true }) (Tab.wf_set _ _ _ _ hs)
    refine ⟨⟨cs, hall⟩, fun j hj => hpaused j ?_⟩
    by_cases hmem : j ∈ chs
    · exact .inl hmem
    · right
      have hchans : ((s.modChan c.toNat ch fun x => { x with paused := true }).ctx c.toNat).chans =
          Tab.set .none (s.ctx c.toNat).chans ch.toNat { s.chan c.toNat ch with paused := true } := by
        rw [State.modChan, s.modCtx_ctx hs, if_pos rfl]
        rfl
      rw [State.chan, hchans]
      by_cases hjch : j = ch
      · subst hjch
        have hne : ({ s.chan c.toNat j with paused := true } : Chan) ≠ Chan.none := fun h => Bool.noConfusion (congrArg Chan.paused h)
        exact congrArg Chan.paused (Tab.get_set_same_of_ne _ _ _ hne)
      · rw [Tab.get_set_other _ _ _ fun h => hjch (BitVec.eq_of_toNat_eq h)]
        exact hj.resolve_left fun h => (List.mem_cons.mp h).elim hjch hmem

theorem State.unitsOf_nodup (s : State) (c : BitVec 3) : (s.unitsOf c).Nodup := List.nodup_range.filter _

/-- What the instant of a die does to the context that runs: its units on the die are asked for a drain point and its channels pause. -/
def State.instantAt (s : State) (c : BitVec 3) (d : Nat) (limit : Word) : State :=
  let s := ((s.unitsOf c).filter fun u => dieOf u == d).foldl (fun s u => s.gangRequest u limit) s
  s.pause c ((s.definedChans c).filter fun ch => (s.chan c.toNat ch).die == d)

theorem State.instantAt_spec (s : State) (hs : CtxsOk s) (c : BitVec 3) (d : Nat) (limit : Word) :
    let t := s.instantAt c d limit
    t.glob = s.glob ∧ t.mem = s.mem ∧
      (∀ u ∈ s.unitsOf c, dieOf u = d → (t.unit u).preempt = some ⟨s.timeOf d, limit, true⟩) ∧
      (∀ u, dieOf u ≠ d → t.unit u = s.unit u) ∧
      ∀ j, (s.chan c.toNat j).defd = true → (s.chan c.toNat j).die = d → (t.chan c.toNat j).paused = true := by
  intro t
  obtain ⟨⟨xs, ws, hasked⟩, hin, hout⟩ := gangRequest_foldl _ ((s.unitsOf_nodup c).filter fun u => dieOf u == d) limit s
  generalize hs₁ : ((s.unitsOf c).filter fun u => dieOf u == d).foldl (fun s u => s.gangRequest u limit) s = s₁ at hasked hin hout
  have hctxs : s₁.ctxs = s.ctxs := by rw [hasked]
  have hchan (j : BitVec 6) : s₁.chan c.toNat j = s.chan c.toNat j := by rw [State.chan, State.ctx, hctxs]; rfl
  obtain ⟨⟨cs, hpause⟩, hpaused⟩ := s₁.pause_spec (by rw [CtxsOk, hctxs]; exact hs) c
    ((s₁.definedChans c).filter fun ch => (s₁.chan c.toNat ch).die == d)
  have ht : t = s₁.pause c ((s₁.definedChans c).filter fun ch => (s₁.chan c.toNat ch).die == d) := by
    rw [← hs₁]
    rfl
  have hunit (u : Nat) : t.unit u = s₁.unit u := by
    rw [ht, hpause]
    rfl
  refine ⟨by rw [ht, hpause, hasked], by rw [ht, hpause, hasked], fun u hu hd => ?_, fun u hd => ?_, fun j hdef hd => ?_⟩
  · rw [hunit, hin u (List.mem_filter.mpr ⟨hu, beq_iff_eq.mpr hd⟩), hd]
  · rw [hunit, hout u fun h => hd (beq_iff_eq.mp (List.mem_filter.mp h).2)]
  · rw [ht]
    refine hpaused j (.inl (List.mem_filter.mpr ⟨List.mem_filter.mpr ⟨?_, ?_⟩, ?_⟩))
    · exact List.mem_map.mpr ⟨j.toNat, List.mem_range.mpr j.isLt, by rw [BitVec.ofNat_toNat, BitVec.setWidth_eq]⟩
    · rw [hchan]
      exact hdef
    · rw [hchan]
      exact beq_iff_eq.mpr hd

section

variable {s : State}

theorem switchInstant_waits (hdue : s.instantDue (s.arg.n % 24) = false) : exec .switchInstant s = .next s := by
  show execSwitchInstant s = _
  unfold execSwitchInstant
  exact if_pos (by rw [hdue]; rfl)

theorem switchInstant_idle (hdue : s.instantDue (s.arg.n % 24) = true) (hrun : s.glob.running = none) : exec .switchInstant s =
    .next (s.modGlob (·.beginSwitch (s.timeOf (s.arg.n % 24)) 2 s.incoming)) := by
  show execSwitchInstant s = _
  unfold execSwitchInstant
  rw [hrun]
  exact if_neg (by rw [hdue]; decide)

theorem switchInstant_runs (hdue : s.instantDue (s.arg.n % 24) = true) {c : BitVec 3} (hrun : s.glob.running = some c) :
    exec .switchInstant s = .next (State.instantAt (State.modGlob (if s.glob.swState == 1 then
      s.modGlob (·.beginSwitch (s.timeOf (s.arg.n % 24)) 1 s.incoming) else s) fun g => { g with swDies := s.arg.n % 24 :: g.swDies })
      c (s.arg.n % 24) (s.ctx c.toNat).switchLimit) := by
  show execSwitchInstant s = _
  unfold execSwitchInstant
  rw [hrun]
  exact if_neg (by rw [hdue]; decide)

end

theorem Glob.beginSwitch_swStep (g : Glob) (now : BitVec 64) (step : Nat) (inc : Option (BitVec 3)) :
    (g.beginSwitch now step inc).swStep = step := rfl

/-- A switch that has begun reads 0b10 in SWCTL.STATE. -/
theorem Glob.beginSwitch_swState (g : Glob) (now : BitVec 64) (step : Nat) (inc : Option (BitVec 3)) :
    (g.beginSwitch now step inc).swState = 2 := by
  have hlt : g.swctl.toNat % 32 < 32 := Nat.mod_lt _ (by decide)
  unfold Glob.beginSwitch Glob.swState
  rw [BitVec.toNat_ofNat]
  omega

/-! ## Tables cut and mapped as a whole -/

/-- Entries of a rising table that hold the default value may be left out. -/
theorem Tab.get_filter_ne {α : Type} [DecidableEq α] (d : α) (t : Tab α) (h : Tab.risingFrom t none = true) (k : Nat) :
    Tab.get d (t.filter fun p => p.2 != d) k = Tab.get d t k := by
  induction t with
  | nil => rfl
  | cons p t ih =>
    obtain ⟨j, x⟩ := p
    have hrest : Tab.risingFrom t (some j) = true := by simpa [Tab.risingFrom] using h
    have ih := ih (Tab.rising_none t hrest)
    by_cases hx : x = d
    · subst hx
      rw [List.filter_cons_of_neg (by simp), ih]
      by_cases hj : j = k
      · subst hj
        simp [Tab.get, Tab.get_of_rising x t j j hrest]
      · simp [Tab.get, hj]
    · rw [List.filter_cons_of_pos (by simpa using hx)]
      simp [Tab.get, ih]

/-- A read of a table whose entries are mapped, the default value to itself. -/
theorem Tab.get_map {α : Type} (d : α) (t : Tab α) (f : Nat → α → α) (k : Nat) (hd : f k d = d) :
    Tab.get d (t.map fun p => (p.1, f p.1 p.2)) k = f k (Tab.get d t k) := by
  induction t with
  | nil => exact hd.symm
  | cons p t ih =>
    obtain ⟨j, x⟩ := p
    by_cases hj : j = k
    · subst hj
      simp [Tab.get]
    · simp only [List.map_cons, Tab.get, beq_iff_eq, hj, if_false]
      exact ih

/-- Mapping the entries of a table keeps the order of its keys. -/
theorem Tab.rising_map {α : Type} (t : Tab α) (f : Nat → α → α) (b : Option Nat) (h : Tab.risingFrom t b = true) :
    Tab.risingFrom (t.map fun p => (p.1, f p.1 p.2)) b = true := by
  induction t generalizing b with
  | nil => rfl
  | cons p t ih =>
    obtain ⟨j, x⟩ := p
    simp only [Tab.risingFrom, Bool.and_eq_true, List.map_cons] at h ⊢
    exact ⟨h.1, ih _ h.2⟩

/-- A value that a table reads and that is not the default stands in it. -/
theorem Tab.mem_of_get {α : Type} (d : α) (t : Tab α) (k : Nat) (h : Tab.get d t k ≠ d) : (k, Tab.get d t k) ∈ t := by
  induction t with
  | nil => exact absurd rfl h
  | cons p t ih =>
    obtain ⟨j, x⟩ := p
    by_cases hj : j = k
    · subst hj
      simp [Tab.get]
    · simp only [Tab.get, beq_iff_eq, hj, if_false] at h ⊢
      exact List.mem_cons_of_mem _ (ih h)

/-- A key that stands nowhere in a table reads the default value. -/
theorem Tab.get_of_no_key {α : Type} (d : α) (t : Tab α) (k : Nat) (h : t.any (fun p => p.1 == k) = false) : Tab.get d t k = d := by
  induction t with
  | nil => rfl
  | cons p t ih =>
    obtain ⟨j, x⟩ := p
    rw [List.any_cons, Bool.or_eq_false_iff] at h
    simp only [Tab.get, h.1]
    exact ih h.2

/-- Values written one after the other under different keys, or the same value under one. -/
theorem Tab.get_foldl_set {α : Type} [DecidableEq α] (d : α) (w : Nat → α) (ks : List Nat) (t : Tab α) (h : Tab.wf d t = true) :
    let r := ks.foldl (fun t k => Tab.set d t k (w k)) t
    Tab.wf d r = true ∧ ∀ k, Tab.get d r k = if k ∈ ks then w k else Tab.get d t k := by
  induction ks generalizing t with
  | nil => exact ⟨h, fun k => (if_neg List.not_mem_nil).symm⟩
  | cons j ks ih =>
    obtain ⟨hwf, hget⟩ := ih (Tab.set d t j (w j)) (Tab.wf_set d t j _ h)
    refine ⟨hwf, fun k => (hget k).trans ?_⟩
    rw [Tab.get_set d t j k _ h]
    by_cases hkj : k = j
    · subst hkj
      simp
    · simp [hkj]

/-! ## The save (R37, R142) -/

/-- A unit of the package after the save of the context: all but the supervisor controller are idle, a freeze stands. -/
def State.savedUnit (s : State) (u : Nat) (x : Unit) : Unit := if s.isSup u then x else { Unit.idle with frozen := x.frozen }

/-- What the save of a context keeps of its units: they themselves and the image of each that runs. -/
theorem gangSwitchSave_spec (s : State) (hc : CtxsOk s) (c : BitVec 3) (hrun : s.glob.running = some c)
    (hstep : s.glob.swStep = 1) (hmay : s.maySave c = true) : Goes (exec .gangSwitchSave s) fun t =>
      t.glob.running = none ∧ t.glob.swStep = 2 ∧ t.mem = s.mem ∧
      (∃ y, (t.ctx c.toNat).saved = some y ∧ y.units = s.units.filter (fun p => !s.isSup p.1) ∧
        y.images = (s.units.filter fun p => p.2.on && !s.isSup p.1).map fun p => (p.1, p.2.image p.1)) ∧
      t.units = (s.units.map fun p => (p.1, s.savedUnit p.1 p.2)).filter fun p => p.2 != Unit.idle := by
  have hgoes : ¬ (s.glob.swStep != 1 || !s.maySave c) = true := by
    rw [hstep, hmay]
    decide
  have hexec : ∃ t, exec .gangSwitchSave s = .next t ∧ t.glob.running = none ∧ t.glob.swStep = 2 ∧ t.mem = s.mem ∧
      (∃ y : Saved, t.ctxs = (s.modCtx c.toNat fun x => { x with saved := some y }).ctxs ∧
        y.units = s.units.filter (fun p => !s.isSup p.1) ∧
        y.images = (s.units.filter fun p => p.2.on && !s.isSup p.1).map (fun p => (p.1, p.2.image p.1))) ∧
      t.units = (s.units.map fun p => if s.isSup p.1 then p else (p.1, { Unit.idle with frozen := p.2.frozen })).filter
        fun p => p.2 != Unit.idle := by
    show ∃ t, execGangSwitchSave s = _ ∧ _
    unfold execGangSwitchSave
    rw [hrun]
    dsimp only
    rw [if_neg hgoes]
    exact ⟨_, rfl, rfl, rfl, rfl, ⟨_, rfl, rfl, rfl⟩, rfl⟩
  obtain ⟨t, ht, hrunning, hswStep, hmem, ⟨y, hctxs, hunits, himages⟩, htunits⟩ := hexec
  refine ⟨t, ht, hrunning, hswStep, hmem, ⟨y, ?_, hunits, himages⟩, ?_⟩
  · rw [State.ctx, hctxs]
    exact congrArg Ctx.saved ((s.modCtx_ctx hc c.toNat c.toNat _).trans (if_pos rfl))
  · rw [htunits]
    congr 2
    funext p
    unfold State.savedUnit
    split <;> rfl

/-! ## The restore (R36, R143) -/

/-- Whether a unit has the scalars, guards, front end and task of another. -/
def CoreAs (y x : Unit) : Prop := y.s = x.s ∧ y.g = x.g ∧ y.front = x.front ∧ y.task = x.task

theorem CoreAs.trans {x y z : Unit} (h : CoreAs z y) (h' : CoreAs y x) : CoreAs z x := by
  obtain ⟨h1, h2, h3, h4⟩ := h
  obtain ⟨h1', h2', h3', h4'⟩ := h'
  exact ⟨h1.trans h1', h2.trans h2', h3.trans h3', h4.trans h4'⟩

/-- What a restore's later steps leave: the package block, the contexts, and of each core its scalars, guards, front end and task. -/
def CoresStay (s t : State) : Prop :=
  UnitsOk s → UnitsOk t ∧ t.glob = s.glob ∧ t.ctxs = s.ctxs ∧ ∀ u, u < 384 → CoreAs (t.unit u) (s.unit u)

namespace CoresStay

theorem refl (s : State) : CoresStay s s := fun hs => ⟨hs, rfl, rfl, fun _ _ => ⟨rfl, rfl, rfl, rfl⟩⟩

theorem trans {s t r : State} (h : CoresStay s t) (h' : CoresStay t r) : CoresStay s r := by
  intro hs
  obtain ⟨ht, hglob, hctxs, hcores⟩ := h hs
  obtain ⟨hr, hglob', hctxs', hcores'⟩ := h' ht
  exact ⟨hr, hglob'.trans hglob, hctxs'.trans hctxs, fun u hu => (hcores' u hu).trans (hcores u hu)⟩

theorem foldl {α : Type} (l : List α) (f : State → α → State) (hf : ∀ s a, CoresStay s (f s a)) (s : State) : CoresStay s (l.foldl f s) := by
  induction l generalizing s with
  | nil => exact .refl s
  | cons a l ih => exact (hf s a).trans (ih (f s a))

theorem modUnit (s : State) (u : Nat) (f : Unit → Unit) (hf : u < 384 → ∀ x, CoreAs (f x) x) : CoresStay s (s.modUnit u f) := by
  refine fun hs => ⟨s.modUnit_wf u f hs, rfl, rfl, fun v hv => ?_⟩
  rw [s.modUnit_unit hs]
  split
  · next h =>
    subst h
    exact hf hv _
  · exact ⟨rfl, rfl, rfl, rfl⟩

end CoresStay

theorem State.reload_stays (s : State) (u n : Nat) (name : BitVec 64) : CoresStay s (s.reload u n name) := by
  unfold State.reload
  dsimp only
  split
  · exact .refl s
  · refine CoresStay.trans (t := { s with flights := _, ids := s.ids + 1 }) ?_ (.modUnit _ u _ fun _ _ => ⟨rfl, rfl, rfl, rfl⟩)
    exact .refl s

theorem State.startCtl_stays (s : State) (k : BitVec 128) : CoresStay s (s.startCtl k) := by
  unfold State.startCtl
  dsimp only
  split
  · refine CoresStay.trans (t := s.renumberCtl _) (.refl s) (.modUnit _ _ _ fun h => absurd h (by omega))
  · exact .refl s

theorem State.startCtls_stays (s : State) (c : BitVec 3) : CoresStay s (s.startCtls c) := by
  unfold State.startCtls
  refine CoresStay.foldl _ _ (fun s p => ?_) s
  dsimp only
  split
  · exact s.startCtl_stays _
  · exact .refl s

/-- Residency slots of restored units are reloaded one after the other (R302). -/
def State.reloads (s : State) (us : List Nat) : State :=
  us.foldl (fun s u =>
    let gn := (s.unit u).eng.gn
    let s := s.modUnit u fun y => y.modEng fun e => { e with gn := [] }
    gn.foldl (fun s p => match p.2 with | some g => s.reload u p.1 g.name | none => s) s) s

theorem State.reloads_stays (s : State) (us : List Nat) : CoresStay s (s.reloads us) := by
  refine CoresStay.foldl us _ (fun s u => ?_) s
  have hdrop : CoresStay s (s.modUnit u fun y => y.modEng fun e => { e with gn := [] }) := .modUnit s u _ fun _ _ => ⟨rfl, rfl, rfl, rfl⟩
  refine hdrop.trans (CoresStay.foldl _ _ (fun s p => ?_) _)
  split
  · exact s.reload_stays _ _ _
  · exact .refl s

/-- A change of a context that keeps its registry. -/
theorem modCtx_registry (s : State) (hs : CtxsOk s) (c : Nat) (f : Ctx → Ctx) (hf : ∀ x, (f x).registry = x.registry) :
    ((s.modCtx c f).ctx c).registry = (s.ctx c).registry := by
  rw [s.modCtx_ctx hs, if_pos rfl, hf]

theorem resumeChans_spec (s : State) (hs : CtxsOk s) (c : BitVec 3) (chs : List (BitVec 6)) :
    (∃ cs ks, s.resumeChans c chs = { s with ctxs := cs, calls := ks }) ∧
      ((s.resumeChans c chs).ctx c.toNat).registry = (s.ctx c.toNat).registry := by
  have hfold : (∃ cs, chs.foldl (fun s ch => s.modChan c.toNat ch fun x => { x with paused := false }) s = { s with ctxs := cs }) ∧
      ((chs.foldl (fun s ch => s.modChan c.toNat ch fun x => { x with paused := false }) s).ctx c.toNat).registry =
        (s.ctx c.toNat).registry := by
    induction chs generalizing s with
    | nil => exact ⟨⟨_, rfl⟩, rfl⟩
    | cons ch chs ih =>
      obtain ⟨⟨cs, hall⟩, hreg⟩ := ih (s.modChan c.toNat ch fun x => { x with paused := false }) (Tab.wf_set _ _ _ _ hs)
      exact ⟨⟨cs, hall⟩, hreg.trans (modCtx_registry s hs _ _ fun _ => rfl)⟩
  obtain ⟨⟨cs, hall⟩, hreg⟩ := hfold
  refine ⟨?_, hreg⟩
  unfold State.resumeChans State.unhold
  rw [hall]
  exact ⟨_, _, rfl⟩

/-- Of a core's image, whether it can be restored depends on the context's registry and on the links only. -/
theorem imageFault_congr {s t : State} (u : Nat) (c : BitVec 3) (bs : List Byte) (hreg : (t.ctx c.toNat).registry = (s.ctx c.toNat).registry)
    (hlinks : t.glob.links = s.glob.links) : t.imageFault u c bs = s.imageFault u c bs := by
  unfold State.imageFault State.imageNamed State.routeBad
  rw [hreg, hlinks]

/-- A core as a context's partition holds it. -/
def Ctx.core (x : Ctx) (u : Nat) : Unit := match x.saved with | some z => Tab.get Unit.idle z.units u | none => Unit.idle

theorem Ctx.core_eq (x : Ctx) (u : Nat) : x.core u = Tab.get Unit.idle (x.saved.getD .fresh).units u := by
  unfold Ctx.core
  cases x.saved <;> rfl

theorem isSup_core (s : State) {u : Nat} (hu : u < 384) : s.isSup u = false := by
  have hctl : isCtl u = false := by simpa [isCtl] using hu
  rw [State.isSup, hctl]
  rfl

/-- A restore first sets the package's state and its units from the partition; what follows leaves the cores. -/
theorem restoreCtx_eq (s : State) (hu : UnitsOk s) (hc : CtxsOk s) (c : BitVec 3) : ∃ (s₁ : State) (us : List Nat),
    s.restoreCtx c = ((s.ctx c.toNat).retry.foldl (fun s d => s.retryDie d c) (((((s.ctx c.toNat).saved.getD .fresh).images.filterMap fun p =>
        ((s₁.reloads us).imageFault p.1 c p.2).map fun e => (p.1, e)).foldl (fun s b => s.refuseImage b.1 b.2) (s₁.reloads us)))).startCtls c ∧
      UnitsOk s₁ ∧ s₁.glob = { s.glob with running := some c } ∧ (s₁.ctx c.toNat).registry = (s.ctx c.toNat).registry ∧
      ∀ u, u < 384 → CoreAs (s₁.unit u) ((s.ctx c.toNat).core u) := by
  refine ⟨_, _, rfl, ?_⟩
  generalize hX : State.modCtx _ c.toNat (fun x => { x with saved := none, fresh := false, retry := [] }) = X
  have hctxs : CtxsOk X := by
    rw [← hX]
    exact Tab.wf_set _ _ _ _ hc
  have hreg : (X.ctx c.toNat).registry = (s.ctx c.toNat).registry := by
    rw [← hX]
    refine modCtx_registry _ ?_ c.toNat _ fun _ => rfl
    exact hc
  have hglob : X.glob = s.glob := by
    rw [← hX]
    rfl
  have hwf : Tab.wf Unit.idle (s.units.filter fun p => s.isSup p.1) = true := Tab.wf_filter _ _ _ hu
  have hunits : UnitsOk X := by
    rw [← hX]
    exact (Tab.get_foldl_set Unit.idle _ _ _ hwf).1
  have hcores (u : Nat) (hlt : u < 384) : CoreAs (X.unit u) ((s.ctx c.toNat).core u) := by
    have hunit : X.unit u = _ := (congrArg (fun s : State => s.unit u) hX).symm.trans ((Tab.get_foldl_set Unit.idle _ _ _ hwf).2 u)
    rw [hunit, Ctx.core_eq]
    split
    · exact ⟨rfl, rfl, rfl, rfl⟩
    · next hnot =>
      have hkey : ((s.ctx c.toNat).saved.getD Saved.fresh).units.any (fun p => p.1 == u) = false := by
        have h480 : u < 480 := by omega
        simp only [List.mem_filter, List.mem_range, h480, isSup_core s hlt, Bool.not_false, Bool.true_and, true_and, Bool.not_eq_true,
          Bool.or_eq_false_iff] at hnot
        exact hnot.1
      rw [Tab.get_filter_keys, isSup_core s hlt, Tab.get_of_no_key _ _ _ hkey]
      exact ⟨rfl, rfl, rfl, rfl⟩
  clear hX
  obtain ⟨⟨cs, ks, hresume⟩, hreg'⟩ := resumeChans_spec X hctxs c (X.definedChans c)
  generalize X.resumeChans c (X.definedChans c) = Y at hresume hreg' ⊢
  have hunits' : Y.units = X.units := by rw [hresume]
  have hglob' : Y.glob = s.glob := by rw [hresume, ← hglob]
  refine ⟨?_, ?_, hreg'.trans hreg, fun u hlt => ?_⟩
  · exact (congrArg (fun us => Tab.wf Unit.idle us = true) hunits').mpr hunits
  · exact congrArg (fun g : Glob => { g with running := some c }) hglob'
  · exact (congrArg (fun us => CoreAs (Tab.get Unit.idle us u) _) hunits').mpr (hcores u hlt)

/-- A restore that finds no fault in the images, of a context with no die to send again for. -/
theorem restoreCtx_spec (s : State) (hu : UnitsOk s) (hc : CtxsOk s) (c : BitVec 3) (hretry : (s.ctx c.toNat).retry = [])
    (hgood : ∀ p ∈ ((s.ctx c.toNat).saved.getD .fresh).images, s.imageFault p.1 c p.2 = none) :
    (s.restoreCtx c).glob = { s.glob with running := some c } ∧
      ∀ u, u < 384 → CoreAs ((s.restoreCtx c).unit u) ((s.ctx c.toNat).core u) := by
  obtain ⟨s₁, us, heq, hu₁, hglob₁, hreg₁, hcores₁⟩ := restoreCtx_eq s hu hc c
  obtain ⟨hu₂, hglob₂, hctxs₂, hcores₂⟩ := s₁.reloads_stays us hu₁
  have hnone : (((s.ctx c.toNat).saved.getD .fresh).images.filterMap fun p =>
      ((s₁.reloads us).imageFault p.1 c p.2).map fun e => (p.1, e)) = [] := by
    refine List.filterMap_eq_nil_iff.mpr fun p hp => ?_
    have hreg₂ : ((s₁.reloads us).ctx c.toNat).registry = (s.ctx c.toNat).registry := by
      rw [State.ctx, hctxs₂]
      exact hreg₁
    rw [imageFault_congr p.1 c p.2 hreg₂ (by rw [hglob₂, hglob₁]), hgood p hp]
    rfl
  rw [hretry, hnone] at heq
  obtain ⟨-, hglob₃, -, hcores₃⟩ := (s₁.reloads us).startCtls_stays c hu₂
  rw [heq]
  exact ⟨hglob₃.trans (hglob₂.trans hglob₁), fun u hlt => (hcores₃ u hlt).trans ((hcores₂ u hlt).trans (hcores₁ u hlt))⟩

/-! ## SWCTL (R36) -/

theorem getLsbD_eq_div {w : Nat} (x : BitVec w) (i : Nat) : x.getLsbD i = decide (x.toNat / 2 ^ i % 2 = 1) :=
  Nat.testBit_eq_decide_div_mod_eq

theorem Glob.writeSwctl_arm (g : Glob) (v : Byte) (harm : v.getLsbD 5 = true) (hst : g.swState ≠ 2) :
    g.writeSwctl v = { g with swctl := BitVec.ofNat 8 (v.toNat % 8 + (if v.getLsbD 4 then 16 else 0) + 32 + 64) } := by
  have htarget : v.toNat / 16 % 2 * 16 = if v.getLsbD 4 then 16 else 0 := by
    rw [getLsbD_eq_div]
    simp only [decide_eq_true_eq]
    split <;> omega
  unfold Glob.writeSwctl
  rw [if_neg (by simpa using hst), if_pos harm, htarget]

/-- A cancelling write: what SWCTL reads after it. -/
theorem Glob.writeSwctl_cancel (g : Glob) (v : Byte) (harm : v.getLsbD 5 = false) (hst : g.swState ≠ 2) :
    let w := g.writeSwctl v
    w.swState = (if g.swState = 1 then 0 else g.swState) ∧ w.swctl.extractLsb' 0 3 = v.extractLsb' 0 3 ∧
      w.swctl.getLsbD 4 = v.getLsbD 4 ∧ w.swctl.getLsbD 3 = g.swctl.getLsbD 3 ∧ w.swctl.getLsbD 5 = false := by
  intro w
  have hw : w = { g with swctl := BitVec.ofNat 8 (v.toNat % 8 + v.toNat / 16 % 2 * 16 + g.swctl.toNat / 8 % 2 * 8 +
      (if g.swState = 1 then 0 else g.swState) * 64) } := by
    simp only [w, Glob.writeSwctl, harm, beq_iff_eq, hst, if_false, Bool.false_eq_true]
  have hstate : (if g.swState = 1 then 0 else g.swState) < 4 := by
    have hlt := g.swctl.isLt
    unfold Glob.swState
    split <;> omega
  generalize hf : (if g.swState = 1 then 0 else g.swState) = f at hw hstate ⊢
  have hnat : w.swctl.toNat = v.toNat % 8 + v.toNat / 16 % 2 * 16 + g.swctl.toNat / 8 % 2 * 8 + f * 64 := by
    rw [hw]
    simp only [BitVec.toNat_ofNat]
    omega
  refine ⟨?_, BitVec.eq_of_toNat_eq ?_, ?_, ?_, ?_⟩
  · rw [Glob.swState, hnat]
    omega
  · simp only [BitVec.extractLsb'_toNat, Nat.shiftRight_zero, hnat]
    omega
  · rw [getLsbD_eq_div, getLsbD_eq_div, hnat]
    congr 1
    simp only [eq_iff_iff]
    omega
  · rw [getLsbD_eq_div, getLsbD_eq_div, hnat]
    congr 1
    simp only [eq_iff_iff]
    omega
  · rw [getLsbD_eq_div, hnat, decide_eq_false_iff_not]
    omega

/-- The end of a switch: what SWCTL reads after it (R36). -/
theorem Glob.endSwitch_reads (g : Glob) (err : Bool) : (g.endSwitch err).swState = (if g.swBad then 3 else 0) ∧
    (g.endSwitch err).swctl.getLsbD 3 = err := by
  have hnat : (g.endSwitch err).swctl.toNat =
      g.swctl.toNat % 8 + g.swctl.toNat / 16 % 2 * 16 + (if err then 8 else 0) + (if g.swBad then 192 else 0) := by
    unfold Glob.endSwitch
    simp only [BitVec.toNat_ofNat]
    split <;> split <;> omega
  constructor
  · rw [Glob.swState, hnat]
    split <;> split <;> omega
  · rw [getLsbD_eq_div, hnat]
    cases err <;> cases g.swBad <;> simp <;> omega

/-- SWITCH_DRAIN_LIMIT in step 1. -/
theorem switchDrainLimit_eq {s : State} {c : BitVec 3} (hrun : s.glob.running = some c) (hstep : s.glob.swStep = 1) :
    exec .switchDrainLimit s = .next (((((s.unitsOf c).filter s.gangLate).foldl State.gangAbandon s).lateParts c).foldl
      (fun s k => s.abortCall k 0 0 2) (((s.unitsOf c).filter s.gangLate).foldl State.gangAbandon s)) := by
  show execSwitchDrainLimit s = _
  unfold execSwitchDrainLimit
  rw [hrun]
  exact if_neg (by rw [hstep]; decide)

theorem State.gangLate_iff (s : State) (u : Nat) : s.gangLate u = true ↔ s.gangDrained u = false ∧
    ∃ p, (s.unit u).preempt = some p ∧ p.gang = true ∧ p.time.toNat + p.limit.toNat ≤ (s.timeOf (dieOf u)).toNat := by
  simp only [State.gangLate, Bool.and_eq_true, Bool.not_eq_true', Option.any_eq_true, decide_eq_true_eq]

end Sys2Proof.Machine

namespace Sys2Proof.Laws

open Sys2Proof.Machine Sys2Proof.Safety

/-- Settles O47: each step of the gang switch. -/
theorem gangSwitchEvents : Obligations.GangSwitchEvents := by
  intro s hu hc v st target d due limit may quiet
  have hmay (c : BitVec 3) : s.mayEnter c = true ↔ may c := by
    simp [State.mayEnter, may]
  have hdue : s.instantDue d = true ↔ due := by
    simp only [State.instantDue, due, st, Bool.and_eq_true, Bool.or_eq_true, beq_iff_eq, Bool.not_eq_true', BitVec.ule_iff_le,
      BitVec.not_lt, List.contains_eq_mem, decide_eq_false_iff_not]
  refine ⟨fun harm hst => ?_, fun harm hst => ?_, fun harm hst => ?_, fun harm hst => ?_, fun hnot => ?_, fun hd hrun => ?_, fun c => ?_,
    fun hd c hrun => ?_, fun c hrun hstep => ⟨fun hon hparts => ?_, ?_, fun hno => ?_, fun hyes => ?_⟩, fun hstep => ?_,
    fun hstep hno => ?_, fun tgt hstep hin hm hretry himgs => ?_⟩
  · refine ⟨_, congrArg Host.Outcome.next (if_pos harm), ?_, rfl, rfl, rfl⟩
    exact s.glob.writeSwctl_arm v harm hst
  · have hkeeps : s.modGlob (·.writeSwctl v) = s := by
      rw [State.modGlob, Glob.writeSwctl, if_pos (beq_iff_eq.mpr hst)]
    exact (congrArg Host.Outcome.next (if_pos harm)).trans (congrArg Host.Outcome.next hkeeps)
  · obtain ⟨h1, h2, h3, h4, h5⟩ := s.glob.writeSwctl_cancel v harm hst
    exact ⟨_, congrArg Host.Outcome.next (if_neg (by rw [harm]; decide)), h1, h2, h3, h4, h5, rfl, rfl, rfl⟩
  · have hkeeps : s.modGlob (·.writeSwctl v) = s := by
      rw [State.modGlob, Glob.writeSwctl, if_pos (beq_iff_eq.mpr hst)]
    exact (congrArg Host.Outcome.next (if_neg (by rw [harm]; decide))).trans (congrArg Host.Outcome.next hkeeps)
  · exact switchInstant_waits (Bool.eq_false_iff.mpr fun h => hnot (hdue.mp h))
  · exact ⟨_, switchInstant_idle (hdue.mpr hd) hrun, Glob.beginSwitch_swState _ _ _ _, rfl, rfl, rfl, rfl, rfl⟩
  · have htarget : s.glob.swctl.setWidth 3 = s.glob.swctl.extractLsb' 0 3 := by
      rw [BitVec.setWidth_eq_extractLsb' (by decide)]
    unfold State.incoming
    dsimp only
    rw [htarget, ← hmay]
    constructor
    · intro h
      split at h
      · next hgo =>
        obtain rfl := Option.some.inj h
        rw [Bool.and_eq_true, Bool.not_eq_true'] at hgo
        exact ⟨hgo.1, rfl, hgo.2⟩
      · exact nomatch h
    · rintro ⟨hnamed, rfl, henter⟩
      exact if_pos (by rw [hnamed, henter]; rfl)
  · refine ⟨_, switchInstant_runs (hdue.mpr hd) hrun, ?_⟩
    by_cases hst : s.glob.swState = 1
    · rw [if_pos (beq_iff_eq.mpr hst)]
      obtain ⟨hglob, hmem, hasked, hothers, hchans⟩ := State.instantAt_spec ((s.modGlob (·.beginSwitch (s.timeOf (s.arg.n % 24)) 1
        s.incoming)).modGlob fun g => { g with swDies := s.arg.n % 24 :: g.swDies }) hc c (s.arg.n % 24) (s.ctx c.toNat).switchLimit
      have hstate := (congrArg Glob.swState hglob).trans (Glob.beginSwitch_swState s.glob (s.timeOf d) 1 s.incoming)
      have hbegun := (congrArg Glob.swStep hglob).trans (s.glob.beginSwitch_swStep (s.timeOf d) 1 s.incoming)
      exact ⟨fun _ => ⟨hstate, hbegun, congrArg Glob.swDies hglob, congrArg Glob.swIn hglob⟩, fun h => absurd hst h, hmem,
        fun u hin hu => ⟨_, hasked u hin hu, rfl, rfl, rfl⟩, hothers, hchans⟩
    · rw [if_neg (by rwa [beq_iff_eq])]
      obtain ⟨hglob, hmem, hasked, hothers, hchans⟩ := State.instantAt_spec (s.modGlob fun g => { g with swDies := d :: g.swDies })
        hc c d (limit c)
      exact ⟨fun h => absurd h hst, fun _ => hglob, hmem, fun u hin hu => ⟨_, hasked u hin hu, rfl, rfl, rfl⟩, hothers, hchans⟩
  · have hnone : (s.unitsOf c).filter s.gangLate = [] :=
      List.filter_eq_nil_iff.mpr fun u hu hlate => hon u hu ((s.gangLate_iff u).mp hlate)
    rw [Waits, switchDrainLimit_eq hrun hstep, hnone, List.foldl_nil, hparts]
    rfl
  · refine ⟨_, switchDrainLimit_eq hrun hstep, fun u hin hlate htask => ?_⟩
    obtain ⟨hdrained, p, hp, hgang⟩ := hlate
    have hstopped := gangAbandon_foldl ((s.unitsOf c).filter s.gangLate) s hu
      (List.mem_filter.mpr ⟨hin, (s.gangLate_iff u).mpr ⟨hdrained, p, hp, hgang⟩⟩) (.inr ⟨by rw [hp]; rfl, htask⟩)
    have haborts (r : State) (ks : List Call) : TasksStay r (ks.foldl (fun s k => s.abortCall k 0 0 2) r) :=
      .foldl _ _ (fun s k => s.abortCall_tasks k 0 0 2) _
    exact ((haborts _ _).2 u).2.1.trans hstopped
  · show execGangSwitchSave s = _
    unfold execGangSwitchSave
    rw [hrun]
    exact if_pos (by rw [hno]; simp)
  · obtain ⟨t, ht, hrunning, hswStep, hmem, ⟨y, hsaved, hkept, himages⟩, hunits⟩ := gangSwitchSave_spec s hc c hrun hstep hyes
    refine ⟨t, ht, hrunning, hswStep, hmem, ⟨y, hsaved, fun u hsup => ?_, fun u hsup hon => ?_⟩, fun u hsup => ?_⟩
    · rw [hkept, Tab.get_filter_keys _ _ (fun k => !s.isSup k), hsup]
      rfl
    · rw [himages]
      have hne : s.unit u ≠ Machine.Unit.idle := fun h => by
        rw [h] at hon
        exact nomatch hon
      exact List.mem_map.mpr ⟨(u, s.unit u), List.mem_filter.mpr ⟨Tab.mem_of_get _ _ _ hne, by rw [hon, hsup]; rfl⟩, rfl⟩
    · have hrising := (Bool.and_eq_true_iff.mp hu).1
      rw [State.unit, hunits, Tab.get_filter_ne _ _ (Tab.rising_map s.units s.savedUnit none hrising), Tab.get_map, State.savedUnit, hsup]
      · rfl
      · unfold State.savedUnit
        split <;> rfl
  · show execGangSwitchRestore s = _
    unfold execGangSwitchRestore
    exact if_pos (by simpa using hstep)
  · have hexec : exec .gangSwitchRestore s =
        .next (s.modGlob (·.endSwitch (s.glob.swIn.isSome || !s.glob.swctl.getLsbD 4))) := by
      show execGangSwitchRestore s = _
      unfold execGangSwitchRestore
      rw [if_neg (by simpa using hstep)]
      cases hin : s.glob.swIn with
      | none => rfl
      | some c => exact if_neg fun h => hno c hin ((hmay c).mp h)
    obtain ⟨hstate, herr⟩ := s.glob.endSwitch_reads (s.glob.swIn.isSome || !s.glob.swctl.getLsbD 4)
    exact ⟨_, hexec, rfl, rfl, hstate, ⟨rfl, rfl, rfl⟩, herr⟩
  · have hexec : exec .gangSwitchRestore s = .next ((s.restoreCtx tgt).modGlob (·.endSwitch false)) := by
      show execGangSwitchRestore s = _
      unfold execGangSwitchRestore
      rw [if_neg (by simpa using hstep), hin]
      exact if_pos ((hmay tgt).mpr hm)
    have hgood : ∀ p ∈ ((s.ctx tgt.toNat).saved.getD .fresh).images, s.imageFault p.1 tgt p.2 = none := by
      cases hsaved : (s.ctx tgt.toNat).saved with
      | none => exact fun p hp => absurd hp List.not_mem_nil
      | some z => exact himgs z hsaved
    obtain ⟨hglob, hcores⟩ := restoreCtx_spec s hu hc tgt hretry hgood
    refine ⟨_, hexec, congrArg Glob.running hglob, rfl, ?_, hcores⟩
    have hstate := (Glob.endSwitch_reads (s.restoreCtx tgt).glob false).1
    rw [hglob] at hstate
    exact (congrArg (fun g : Glob => (g.endSwitch false).swState) hglob).trans hstate

end Sys2Proof.Laws

namespace Sys2Proof.Machine

open Sys2Proof.Safety

/-! ## Words of an accumulator row -/

/-- The pieces of a list, by their number. -/
theorem chunks_getElem? {α : Type} (fuel k : Nat) (xs : List α) (i : Nat) (hi : i < fuel) (hk : k * i < xs.length) :
    (chunks fuel k xs)[i]? = some ((xs.drop (k * i)).take k) := by
  induction fuel generalizing xs i with
  | zero => exact absurd hi (Nat.not_lt_zero i)
  | succ n ih =>
    have hne : xs.isEmpty = false := by
      cases xs with
      | nil => exact absurd hk (Nat.not_lt_zero _)
      | cons => rfl
    rw [chunks, hne]
    cases i with
    | zero => rfl
    | succ i =>
      have hdrop : k * i < (xs.drop k).length := by
        rw [List.length_drop]
        rw [Nat.mul_succ] at hk
        omega
      refine (ih (xs.drop k) i (Nat.lt_of_succ_lt_succ hi) hdrop).trans ?_
      rw [List.drop_drop, Nat.mul_succ, Nat.add_comm]

/-- A part of the bytes read. -/
theorem rdBytes_drop_take (m : List Host.Cell) (p n d k : Nat) (h : d + k ≤ n) : ((rdBytes m p n).drop d).take k = rdBytes m (p + d) k := by
  refine List.ext_getElem? fun i => ?_
  unfold rdBytes
  rw [List.getElem?_take, List.getElem?_drop, List.getElem?_map, List.getElem?_map]
  by_cases hi : i < k
  · rw [if_pos hi, List.getElem?_range (by omega), List.getElem?_range hi, Option.map_some, Option.map_some, Nat.add_assoc]
  · rw [if_neg hi, List.getElem?_eq_none (by rw [List.length_range]; omega)]
    rfl

/-- A word of an accumulator row. -/
theorem State.accRow_word (s : State) (u : Nat) (bank : BitVec 3) (row c : Nat) (hc : c < 128) :
    (s.accRow u bank row).getD c 0 = rd32 s.mem (rowPlace u bank row + 4 * c) := by
  have hlen : (rdBytes s.mem (rowPlace u bank row) 512).length = 512 := length_rdBytes _ _ _
  unfold State.accRow leWords
  rw [List.getD_eq_getElem?_getD, List.getElem?_map, List.getElem?_map, chunks_getElem? _ _ _ c (by omega) (by omega),
    rdBytes_drop_take _ _ _ _ _ (by omega)]
  rfl

/-! ## Drained rows (R280, R281) -/

/-- An accumulator element as a drain converts it. -/
def State.drainAt (s : State) (f bank : BitVec 3) (row col : Nat) : Res :=
  drainElem f s.me.spr.rm s.me.spr.srseed bank row col (rd32 s.mem (accPlace s.u (bank.toNat * 65536 + row * 512) + 4 * col))

theorem State.drainRow_eq (s : State) (f bank : BitVec 3) (row : Nat) (cols : List Nat) (h : ∀ c ∈ cols, c < 128) :
    s.drainRow f bank row cols = cols.map (s.drainAt f bank row) := by
  unfold State.drainRow
  refine List.map_congr_left fun c hc => ?_
  rw [s.accRow_word s.u bank row c (h c hc)]
  rfl

/-- The runs of a row's drained elements: one for each, or a null run (R280). -/
def drainRuns (f : BitVec 3) (elem : Nat → Res) (cols : List Nat) : List Run :=
  if cols = [] then [nullRun] else cols.mapIdx fun k j => ⟨drainRun f (elem j).1, 1, decide (k = 0)⟩

theorem drainSeg_eq (f : BitVec 3) (elem : Nat → Res) (cols : List Nat) : drainSeg f (cols.map elem) = drainRuns f elem cols := by
  cases cols with
  | nil => rfl
  | cons c cols =>
    unfold drainSeg drainRuns firstB
    simp only [List.map_cons, List.isEmpty_cons, Bool.false_eq_true, if_false, List.cons_ne_nil, List.mapIdx_cons, decide_true,
      List.cons.injEq, true_and]
    refine List.ext_getElem? fun i => ?_
    rw [List.getElem?_mapIdx, List.getElem?_map, List.getElem?_map, Option.map_map]
    cases cols[i]? <;> rfl

theorem length_drainRuns (f : BitVec 3) (elem : Nat → Res) (cols : List Nat) : (drainRuns f elem cols).length = max 1 cols.length := by
  unfold drainRuns
  split
  · next h => rw [h]; rfl
  · next h =>
    have hpos : 0 < cols.length := List.length_pos_of_ne_nil h
    rw [List.length_mapIdx]
    omega

/-- A drain's output: more runs than a register holds are a fault (R280). -/
theorem drainOut_goes {i : Instr} {s : State} {v : BitVec 6} {occ : Nat} {rs : List Run} {fl : Flags}
    (h : exec i s = .next (s.drainOut v occ rs fl)) : if 4096 < rs.length then Goes (exec i s) (Raises (runOverflow rs.length) s)
      else Goes (exec i s) (Flies occ (resultOf s (occ + 3) (.v v) (.runs rs) fl) s) := by
  unfold State.drainOut at h
  split
  · next hlong =>
    rw [if_pos hlong] at h
    exact raises_of s i h
  · next hlong =>
    rw [if_neg hlong] at h
    exact ⟨_, h, s.fly_issued occ _⟩

section

variable {i : Instr} {s t : State} {fs : List Flt}
  (h : exec i s = match lowestFault fs with | some e => .next (s.raise e) | none => .next t)
include h

/-- A meaning that raises the lowest of some faults. -/
theorem raises_of_lowest {e : Flt} (he : lowestFault fs = some e) : Goes (exec i s) (Raises e s) := by
  rw [he] at h
  exact raises_of s i h

/-- A meaning that faults for nothing. -/
theorem goes_of_no_fault (hnone : lowestFault fs = none) : exec i s = .next t := by
  rw [hnone] at h
  exact h

end

theorem drainFields_eq (sr : BitVec 64) :
    drainFields sr = ((sr.extractLsb' 0 7).toNat, (sr.extractLsb' 8 7).toNat + 1, (sr.extractLsb' 16 7).toNat + 1) := by
  simp [drainFields, BitVec.extractLsb'_toNat, Nat.shiftRight_eq_div_pow]

theorem ragOrigins_eq (sx : BitVec 64) : ragOrigins sx = ((sx.extractLsb' 0 24).toNat, (sx.extractLsb' 24 24).toNat) := by
  simp [ragOrigins, BitVec.extractLsb'_toNat, Nat.shiftRight_eq_div_pow]

/-- The checks of a drain's rows while early reads raise nothing. -/
theorem State.drainFaults_eq (s : State) (bank : BitVec 3) (r0 n : Nat) (htrap : s.glob.earlyTrap = false) :
    s.drainFaults bank r0 n = if 128 < r0 + n then [prot 0x10 (BitVec.ofNat 64 (r0 + n))] else [] := by
  have hearly : s.earlyRows s.u s.cur.op.seq bank r0 n = none := by
    unfold State.earlyRows
    rw [htrap]
    rfl
  rw [State.drainFaults, hearly]
  rfl

/-! ### MDRV -/

section

variable (s : State) (v : BitVec 6) (a f : BitVec 3) (r : BitVec 5) (c : BitVec 1)

/-- The faults of MDRV. -/
def mdrvFaults (r0 n w : Nat) : List Flt :=
  (if 128 < r0 + n then [prot 0x10 (BitVec.ofNat 64 (r0 + n))] else []) ++ if c == 0 && 4096 < n * w then [runOverflow (n * w)] else []

/-- The runs of some rows and columns. -/
def State.mdrvRuns (r0 n w : Nat) : List Run :=
  (List.range n).flatMap fun i => drainRuns f (s.drainAt f a (r0 + i)) (List.range w)

theorem State.length_mdrvRuns (r0 n : Nat) {w : Nat} (hw : 0 < w) : (s.mdrvRuns a f r0 n w).length = n * w := by
  have hmax : max 1 w = w := Nat.max_eq_right hw
  simp only [State.mdrvRuns, List.length_flatMap, length_drainRuns, List.length_range, hmax, List.map_const', List.sum_replicate, smul_eq_mul]

/-- MDRV: the lowest of its faults, or the runs of its rows. -/
theorem mdrv_eq (htrap : s.glob.earlyTrap = false) {r0 n w : Nat} (hr : drainFields (s.rs r) = (r0, n, w)) (hw : w ≤ 128) :
    exec (.mdrv v a r f c) s = match lowestFault (mdrvFaults c r0 n w) with
      | some e => .next (s.raise e)
      | none => .next (s.drainOut v (max 1 (ceilDiv (n * w) 64)) (if c = 1 then mergeRuns (s.mdrvRuns a f r0 n w) else s.mdrvRuns a f r0 n w)
          (resFlags ((List.range n).flatMap fun i => (List.range w).map (s.drainAt f a (r0 + i))))) := by
  have hrow (i : Nat) : s.drainRow f a (r0 + i) (List.range w) = (List.range w).map (s.drainAt f a (r0 + i)) :=
    s.drainRow_eq f a _ _ fun c hc => Nat.lt_of_lt_of_le (List.mem_range.mp hc) hw
  show execMdrv v a r f c s = _
  unfold execMdrv
  rw [hr]
  dsimp only
  rw [s.drainFaults_eq a r0 n htrap]
  simp only [hrow, List.map_map, Function.comp_def, drainSeg_eq, beq_iff_eq]
  rfl

end

/-- More runs than a register holds are the lowest fault of a drain, rows past the bank the next (R38, R287). -/
theorem lowestFault_mdrv (c : BitVec 1) (r0 n w : Nat) :
    (c = 0 → 4096 < n * w → lowestFault (mdrvFaults c r0 n w) = some (runOverflow (n * w))) ∧
    (128 < r0 + n → (c = 0 → n * w ≤ 4096) → lowestFault (mdrvFaults c r0 n w) = some (prot 0x10 (BitVec.ofNat 64 (r0 + n)))) ∧
    (r0 + n ≤ 128 → (c = 0 → n * w ≤ 4096) → lowestFault (mdrvFaults c r0 n w) = none) := by
  have hover : (c == 0 && decide (4096 < n * w)) = true ↔ c = 0 ∧ 4096 < n * w := by simp
  unfold mdrvFaults
  refine ⟨fun hc hlong => ?_, fun hpast hshort => ?_, fun hin hshort => ?_⟩
  · rw [if_pos (hover.mpr ⟨hc, hlong⟩)]
    split <;> rfl
  · rw [if_pos hpast, if_neg fun h => absurd (hshort (hover.mp h).1) (Nat.not_le.mpr (hover.mp h).2)]
    rfl
  · rw [if_neg (Nat.not_lt.mpr hin), if_neg fun h => absurd (hshort (hover.mp h).1) (Nat.not_le.mpr (hover.mp h).2)]
    rfl

/-! ### MDRV.RAG (R277, R281) -/

/-- The columns among the first `w` of sequence `j`. -/
def Shape.columns (sh : Shape) (co w j : Nat) : List Nat := (List.range w).filter fun k => sh.seqOf (co + k) == some j

/-- The rows among some that belong to a sequence, with their columns. -/
def Shape.rowsWith (sh : Shape) (ro r0 co w : Nat) (is : List Nat) : List (Nat × List Nat) :=
  is.filterMap fun i => (sh.seqOf (ro + r0 + i)).map fun j => (r0 + i, sh.columns co w j)

/-- The count of runs that MDRV.RAG checks is that of the runs that it would write. -/
theorem Shape.ragRuns_eq (sh : Shape) (ro r0 co n w : Nat) (f : BitVec 3) (elem : Nat → Nat → Res) :
    sh.ragRuns (ro + r0) co n w = ((sh.rowsWith ro r0 co w (List.range n)).flatMap fun p => drainRuns f (elem p.1) p.2).length := by
  have hfold (l : List Nat) (k : Nat) : l.foldl (· + ·) k = k + l.sum := by
    induction l generalizing k with
    | nil => rfl
    | cons x l ih => rw [List.foldl_cons, ih, List.sum_cons, Nat.add_assoc]
  unfold Shape.ragRuns
  rw [hfold, Nat.zero_add]
  generalize List.range n = is
  induction is with
  | nil => rfl
  | cons i is ih =>
    rw [List.map_cons, List.sum_cons, ih]
    cases hseq : sh.seqOf (ro + r0 + i) with
    | none => simp [Shape.rowsWith, hseq]
    | some j => simp [Shape.rowsWith, hseq, length_drainRuns, Shape.columns]

section

variable (s : State) (v : BitVec 6) (a f h : BitVec 3) (r x : BitVec 5)

/-- The faults of MDRV.RAG: of its window, of its rows, and of too many runs. -/
def ragFaults (window : List Flt) (r0 n : Nat) (rs : List Run) : List Flt :=
  window ++ (if 128 < r0 + n then [prot 0x10 (BitVec.ofNat 64 (r0 + n))] else []) ++
    if window = [] then if 4096 < rs.length then [runOverflow rs.length] else [] else []

/-- MDRV.RAG: the lowest of its faults, or the runs of its rows. -/
theorem mdrvRag_eq (htrap : s.glob.earlyTrap = false) {r0 n w ro co : Nat} (hr : drainFields (s.rs r) = (r0, n, w))
    (hx : ragOrigins (s.rs x) = (ro, co)) (hw : w ≤ 128) :
    let rows := (s.me.shape h).rowsWith ro r0 co w (List.range n)
    let rs := rows.flatMap fun p => drainRuns f (s.drainAt f a p.1) p.2
    exec (.mdrvRag v a r x h f) s = match lowestFault (ragFaults (memberFaults h (s.me.shape h)
        [(ro + r0, ro + r0 + n - 1), (co, co + w - 1)]) r0 n rs) with
      | some e => .next (s.raise e)
      | none => .next (s.drainOut v (max 1 (ceilDiv rs.length 64)) rs
          (resFlags (rows.flatMap fun p => p.2.map (s.drainAt f a p.1)))) := by
  intro rows rs
  have hrow (i j : Nat) : s.drainRow f a (r0 + i) ((List.range w).filter fun c => (s.me.shape h).seqOf (co + c) == some j) =
      ((s.me.shape h).columns co w j).map (s.drainAt f a (r0 + i)) :=
    s.drainRow_eq f a _ _ fun c hc => Nat.lt_of_lt_of_le (List.mem_range.mp (List.mem_filter.mp hc).1) hw
  have hrows : ((List.range n).filterMap fun i => ((s.me.shape h).seqOf (ro + r0 + i)).map fun j =>
      s.drainRow f a (r0 + i) ((List.range w).filter fun c => (s.me.shape h).seqOf (co + c) == some j)) =
      rows.map fun p => p.2.map (s.drainAt f a p.1) := by
    simp only [hrow, rows, Shape.rowsWith, List.map_filterMap, Option.map_map, Function.comp_def]
  have hfaults (window : List Flt) : window ++ s.drainFaults a r0 n ++
      (if 4096 < (if window.isEmpty = true then (s.me.shape h).ragRuns (ro + r0) co n w else 0) then
        [runOverflow (if window.isEmpty = true then (s.me.shape h).ragRuns (ro + r0) co n w else 0)] else []) = ragFaults window r0 n rs := by
    rw [s.drainFaults_eq a r0 n htrap, Shape.ragRuns_eq _ ro r0 co n w f (s.drainAt f a)]
    cases window <;> rfl
  show execMdrvRag v a r x h f s = _
  unfold execMdrvRag
  rw [hr, hx]
  dsimp only
  rw [hfaults, hrows, List.map_map]
  simp only [Function.comp_def, drainSeg_eq]
  rfl

/-- A drain of rows within the bank whose window holds them faults for its runs only. -/
theorem lowestFault_rag {r0 n : Nat} (hin : r0 + n ≤ 128) (rs : List Run) :
    lowestFault (ragFaults [] r0 n rs) = if 4096 < rs.length then some (runOverflow rs.length) else none := by
  unfold ragFaults
  rw [if_neg (Nat.not_lt.mpr hin), if_pos rfl]
  split <;> rfl

end

/-! ### MDRS (R282) -/

/-- Writes that leave one after the other in one step. -/
theorem State.foldl_fly {α : Type} (l : List α) (path : BitVec 3) (lat : α → Nat) (rd wr : Bool) (sp : α → List (Nat × Nat)) (w : α → Fly)
    (s : State) : l.foldl (fun s q => s.fly (s.flight path (s.cycle + lat q) rd wr (sp q) (w q))) s =
      { s with
        flights := s.flights ++ l.mapIdx fun i q => { s.flight path (s.cycle + lat q) rd wr (sp q) (w q) with id := s.ids + i },
        ids := s.ids + l.length } := by
  induction l generalizing s with
  | nil => simp
  | cons q l ih =>
    rw [List.foldl_cons, ih, List.mapIdx_cons]
    simp only [State.fly, List.append_assoc, List.singleton_append, List.length_cons, Nat.add_zero]
    congr 1
    · simp only [Nat.add_assoc, Nat.add_comm 1]
      rfl
    · omega

/-- The bytes of an element that a drain to the scratchpad writes (R282). -/
theorem drainBytes (f : BitVec 3) (hf : f.toNat ≤ 5) : (if f == 0 || f == 5 then 4 else fmtBits f.toNat / 8) =
    if f = 0 ∨ f = 5 then 4 else if f = 1 ∨ f = 2 then 2 else 1 := by
  revert f
  decide

section

variable (s : State) (a f : BitVec 3) (g : BitVec 2) (b r : BitVec 5)

/-- MDRS: the lowest of its faults, or its tiles cleared and the bytes of each on their way. -/
theorem mdrs_eq (htrap : s.glob.earlyTrap = false) {r0 n w size : Nat} (hr : drainFields (s.rs r) = (r0, n, w))
    (hsize : (if f == 0 || f == 5 then 4 else fmtBits f.toNat / 8) = size) :
    let es := (List.range n).flatMap fun i => (List.range 128).map (s.drainAt f a (r0 + i))
    let bytes := es.flatMap fun e => leBytes size e.1
    let p := groupPlace s.u g (mxOff (s.rs b))
    let parts := tileParts p (n * 128 * size)
    exec (.mdrs a g b r f) s = match lowestFault ((if 128 < r0 + n then [prot 0x10 (BitVec.ofNat 64 (r0 + n))] else []) ++
        operandFaults (s.rs b) (n * 128 * size) .wr) with
      | some e => .next (s.raise e)
      | none => .next ((parts.foldl (fun s q => s.fly (s.flight pAC (s.cycle + ceilDiv (q.2.1 + q.2.2) 512) false true
          [(p + q.2.1, q.2.2)] (.drain ((bytes.drop q.2.1).take q.2.2) q.1 (resFlags es)))) (s.setTiles (parts.map (·.1)) false)).issued 1) := by
  intro es bytes p parts
  have hrow (i : Nat) : s.drainRow f a (r0 + i) (List.range 128) = (List.range 128).map (s.drainAt f a (r0 + i)) :=
    s.drainRow_eq f a _ _ fun c hc => List.mem_range.mp hc
  show execMdrs a g b r f s = _
  unfold execMdrs
  rw [hr]
  dsimp only
  rw [hsize, s.drainFaults_eq a r0 n htrap]
  simp only [hrow]
  rfl

/-- The writes of a drain's tiles that leave. -/
def State.tileWrites (s : State) (bytes : List Byte) (p : Nat) (parts : List (Nat × Nat × Nat)) (fl : Flags) : List Flight :=
  parts.mapIdx fun k q => { s.flight pAC (s.cycle + ceilDiv (q.2.1 + q.2.2) 512) false true
    [(p + q.2.1, q.2.2)] (.drain ((bytes.drop q.2.1).take q.2.2) q.1 fl) with id := s.ids + k }

/-- What MDRS leaves once it has issued. -/
theorem mdrs_issues (bytes : List Byte) (p : Nat) (parts : List (Nat × Nat × Nat)) (fl : Flags) :
    let t := (parts.foldl (fun s q => s.fly (s.flight pAC (s.cycle + ceilDiv (q.2.1 + q.2.2) 512) false true
      [(p + q.2.1, q.2.2)] (.drain ((bytes.drop q.2.1).take q.2.2) q.1 fl))) (s.setTiles (parts.map (·.1)) false)).issued 1
    (∀ u, regs (t.unit u) = regs (s.unit u)) ∧ Left s t 1 ∧ t.mem = s.mem ∧ t.rows = s.rows ∧ t.landings = s.landings ∧
      (∀ q ∈ parts, t.isFull q.1 = false) ∧ (∀ k, k ∉ parts.map (·.1) → t.tile k = s.tile k) ∧
      t.flights = s.flights ++ s.tileWrites bytes p parts fl := by
  intro t
  obtain ⟨hin, hout⟩ := s.setTiles_tile (parts.map (·.1)) false
  obtain ⟨m, l, hset⟩ := s.setTiles_eq (parts.map (·.1)) false
  have ht : t = ({ s.setTiles (parts.map (·.1)) false with
      flights := s.flights ++ s.tileWrites bytes p parts fl, ids := s.ids + parts.length } : State).issued 1 := by
    refine congrArg (State.issued · 1) ((State.foldl_fly _ _ _ _ _ _ _ _).trans ?_)
    rw [hset]
    rfl
  rw [ht]
  generalize s.setTiles (parts.map (·.1)) false = s₁ at hset hin hout
  subst hset
  exact ⟨(State.issued_spec _ 1).1, (State.issued_spec _ 1).2, rfl, rfl, rfl, fun q hq => hin q.1 (List.mem_map_of_mem hq), hout, rfl⟩

end

end Sys2Proof.Machine

namespace Sys2Proof.Laws

open Sys2Proof.Machine Sys2Proof.Safety

/-- Settles O32: what each drain writes, or the lowest of its faults. -/
theorem matrixDrains : Obligations.MatrixDrains := by
  refine ⟨fun s v a f h r x c htrap => ?_, fun s a f g b r htrap hf => ?_⟩
  · intro sr r0 n w word elem seg flags ro co sh cols rows out long past window
    have hr : drainFields (s.rs r) = (r0, n, w) := drainFields_eq sr
    have hw : w ≤ 128 := by
      have := (sr.extractLsb' 16 7).isLt
      omega
    have hmdrv := mdrv_eq s v a f r c htrap hr hw
    have hrag := mdrvRag_eq s v a f h r x htrap hr (ragOrigins_eq (s.rs x)) hw
    obtain ⟨hlong, hpast, hnone⟩ := lowestFault_mdrv c r0 n w
    refine ⟨fun hp hc => raises_of_lowest hmdrv (hpast hp hc), fun hc hl => raises_of_lowest hmdrv (hlong hc hl), fun hin => ?_,
      fun e he => raises_of_lowest hrag he, fun hwin hin => ?_⟩
    · by_cases hshort : c = 0 → n * w ≤ 4096
      · exact drainOut_goes (goes_of_no_fault hmdrv (hnone hin hshort))
      · rw [Classical.not_imp, Nat.not_le] at hshort
        obtain ⟨hc, hl⟩ := hshort
        have hlen : (s.mdrvRuns a f r0 n w).length = n * w := s.length_mdrvRuns a f r0 n (Nat.succ_pos _)
        have hsame : (if c = 1 then mergeRuns (s.mdrvRuns a f r0 n w) else s.mdrvRuns a f r0 n w).length = n * w := by
          rw [if_neg (by rw [hc]; decide), hlen]
        have hraise := raises_of_lowest hmdrv (hlong hc hl)
        rw [← hsame] at hl hraise
        exact (if_pos hl).mpr hraise
    · have hfault : lowestFault (ragFaults window r0 n (rows.flatMap fun p => seg p.1 p.2)) =
          if 4096 < (rows.flatMap fun p => seg p.1 p.2).length then some (runOverflow (rows.flatMap fun p => seg p.1 p.2).length) else none := by
        rw [hwin]
        exact lowestFault_rag hin _
      by_cases hl : 4096 < (rows.flatMap fun p => seg p.1 p.2).length
      · exact (if_pos hl).mpr (raises_of_lowest hrag (hfault.trans (if_pos hl)))
      · exact drainOut_goes (goes_of_no_fault hrag (hfault.trans (if_neg hl)))
  · intro sr r0 n sa size span word es bytes p parts fs
    have hmdrs := mdrs_eq s a f g b r htrap (drainFields_eq sr) (drainBytes f hf)
    refine ⟨fun e he => raises_of_lowest hmdrs he, fun hnone => ?_⟩
    exact ⟨_, goes_of_no_fault hmdrs (congrArg lowestFault hnone), mdrs_issues s bytes p parts _⟩

end Sys2Proof.Laws

namespace Sys2Proof.Machine

open Sys2Proof.Safety

/-! ## What a refused address says (R106, R136) -/

/-- A fault of a page: not PROTECTION, or its subcode 0x01. -/
def PageFault (e : Flt) : Prop := e.code ≠ 0x19 ∨ e.sub = 1

/-- The checks of a page raise page faults only. -/
theorem reachPage_fault (s : State) (d : Nat) (c : BitVec 3) (a : Acc) (p : Nat × Nat) (e : Flt) (h : s.reachPage d c a p = .error e) :
    PageFault e := by
  have hcode : (0x18 : Byte) ≠ 0x19 := by decide
  have hwalk (sub : Nat) (w : WalkEnd) : PageFault (if sub == 16 then prot 1 (BitVec.ofNat 64 p.1) else
      { Flt.of 0x18 (BitVec.ofNat 8 sub) (BitVec.ofNat 64 p.1) with info1 := BitVec.ofNat 64 w.eaddr, xinfo := BitVec.ofNat 27 w.lvl }) := by
    split
    · exact .inr rfl
    · exact .inl hcode
  have hxlate (f : Flt) (hf : s.xlatePage d c p.1 a = .error f) : PageFault f := by
    unfold State.xlatePage at hf
    dsimp only at hf
    split at hf
    · split at hf
      · exact nomatch hf
      · exact Except.error.inj hf ▸ hwalk _ _
    · split at hf
      · exact Except.error.inj hf ▸ hwalk _ _
      · split at hf
        · exact nomatch hf
        · exact Except.error.inj hf ▸ hwalk _ _
  unfold State.reachPage at h
  split at h
  · exact Except.error.inj h ▸ .inl hcode
  · split at h
    · next f hf => exact Except.error.inj h ▸ hxlate f hf
    · split at h
      · exact Except.error.inj h ▸ .inr rfl
      · exact nomatch h

/-- The checks of an HBM range raise page faults only. -/
theorem reachHbm_fault (s : State) (d : Nat) (c : BitVec 3) (va n : Nat) (a : Acc) (e : Flt) (h : s.reachHbm d c va n a = .error e) :
    PageFault e := by
  have hboth (r q : Except Flt Reach) (hr : ∀ e, r = .error e → PageFault e) (hq : ∀ e, q = .error e → PageFault e) :
      ∀ e, bothReach r q = .error e → PageFault e := by
    intro e he
    cases r with
    | ok r =>
      cases q with
      | ok q => exact nomatch he
      | error g => exact hq e he
    | error f =>
      cases q with
      | ok q => exact hr e he
      | error g =>
        have he := Except.error.inj he
        split at he
        · exact he ▸ hq g rfl
        · exact he ▸ hr f rfl
  have hfold (ps : List (Nat × Nat)) (r : Except Flt Reach) (hr : ∀ e, r = .error e → PageFault e) :
      ∀ e, ps.foldl (fun r p => bothReach r (s.reachPage d c a p)) r = .error e → PageFault e := by
    induction ps generalizing r with
    | nil => exact hr
    | cons p ps ih => exact ih _ (hboth r _ hr (reachPage_fault s d c a p))
  exact hfold _ (.ok ⟨[], []⟩) (fun e he => nomatch he) e h

section

variable (s : State) (u d : Nat) (c path : BitVec 3) (a : Acc) (star : Bool) (va : BitVec 64) (n : Nat)

/-- A check whose faults are page faults, or PROTECTION of the address itself. -/
def Refuses (r : Except Flt Reach) : Prop := ∀ e, r = .error e → PageFault e ∨ e = (prot e.sub va).on path a

theorem refuses_refused (sub : Byte) : Refuses path a va (refused path a va sub) := fun _ h => .inr (Except.error.inj h ▸ rfl)

theorem refuses_ok (r : Reach) : Refuses path a va (.ok r) := fun _ h => nomatch h

variable {path a va}

theorem refuses_ite {p : Prop} [Decidable p] {r q : Except Flt Reach} (hr : Refuses path a va r) (hq : Refuses path a va q) :
    Refuses path a va (if p then r else q) := by
  split
  · exact hr
  · exact hq

/-- A check of a core's storage: of the core that holds it, then more. -/
theorem refuses_holder {h : Except Byte Nat} {k : Nat → Except Flt Reach} (hk : ∀ core, Refuses path a va (k core)) :
    Refuses path a va (match h with | .error sub => refused path a va sub | .ok core => k core) := by
  cases h with
  | error sub => exact refuses_refused _ _ _ sub
  | ok core => exact hk core

variable (path a va)

/-- The check of an access raises a page fault, or PROTECTION of its address. -/
theorem reach_refuses (hn : 1 ≤ n) : Refuses path a va (s.reach u d c path a star va n) := by
  have hspace := va.isLt
  have hno (sub : Byte) := refuses_refused path a va sub
  have hyes (r : Reach) := refuses_ok path a va r
  obtain hx | hx | hx | hx | hx | hx : va.toNat / 2 ^ 60 = 0 ∨ va.toNat / 2 ^ 60 = 1 ∨ va.toNat / 2 ^ 60 = 2 ∨ va.toNat / 2 ^ 60 = 3 ∨
      va.toNat / 2 ^ 60 = 4 ∨ 5 ≤ va.toNat / 2 ^ 60 := by omega
  · rw [reach_hbm _ _ _ _ _ _ _ _ _ hx]
    have hcode : (0x18 : Byte) ≠ 0x19 := by decide
    refine refuses_ite (fun e h => .inl (.inl (Except.error.inj h ▸ hcode))) ?_
    split
    · next f hf => exact fun e h => .inl (Except.error.inj h ▸ reachHbm_fault s d c _ n a f hf)
    · exact refuses_ite (hyes _) (hno 4)
  · rw [reach_vault _ _ _ _ _ _ _ _ _ hx hn]
    exact refuses_ite (hno 1) (refuses_ite (hno 3) (refuses_ite (hno 4) (refuses_ite (hno 5) (refuses_ite (hno 4) (hyes _)))))
  · rw [reach_scratch _ _ _ _ _ _ _ _ _ hx]
    exact refuses_holder fun core => refuses_ite (hno 3) (refuses_ite (hno 4) (hyes _))
  · rw [reach_host _ _ _ _ _ _ _ _ _ hx]
    exact refuses_ite (hno 1) (refuses_ite (hno 4) (refuses_ite (hyes _) (hno 5)))
  · rw [reach_rows _ _ _ _ _ _ _ _ _ hx]
    exact refuses_holder fun core => refuses_ite (hno 3) (refuses_ite (hno 4) (hyes _))
  · rw [reach_undefined _ _ _ _ _ _ _ _ _ hx]
    exact hno 2

end

/-! ## The lowest of some faults (R38) -/

/-- Whether a fault goes before another. -/
def Below (f e : Flt) : Prop := f.code.toNat < e.code.toNat ∨ f.code = e.code ∧ f.sub.toNat < e.sub.toNat

theorem lowestFault_step (e f : Flt) (fs : List Flt) :
    lowestFault (e :: f :: fs) = if f.code.toNat < e.code.toNat || (f.code == e.code && decide (f.sub.toNat < e.sub.toNat)) then
      lowestFault (f :: fs) else lowestFault (e :: fs) := by
  unfold lowestFault
  rw [List.foldl_cons, List.foldl_cons]
  dsimp only
  split <;> rfl

theorem below_iff (f e : Flt) :
    (f.code.toNat < e.code.toNat || (f.code == e.code && decide (f.sub.toNat < e.sub.toNat))) = true ↔ Below f e := by
  simp [Below]

/-- The first fault is reported where none of the others goes before it. -/
theorem lowestFault_head (e : Flt) (fs : List Flt) (h : ∀ f ∈ fs, ¬ Below f e) : lowestFault (e :: fs) = some e := by
  induction fs with
  | nil => rfl
  | cons f fs ih =>
    rw [lowestFault_step, if_neg fun hb => h f List.mem_cons_self ((below_iff f e).mp hb)]
    exact ih fun g hg => h g (List.mem_cons_of_mem f hg)

/-- The first fault is passed over where the second goes before it. -/
theorem lowestFault_second {e f : Flt} (fs : List Flt) (h : Below f e) : lowestFault (e :: f :: fs) = lowestFault (f :: fs) := by
  rw [lowestFault_step, if_pos ((below_iff f e).mpr h)]

/-! ## MSCL (R188, R192) -/

theorem reachAll_one (s : State) (u d : Nat) (c path : BitVec 3) (a : Acc) (star : Bool) (va : BitVec 64) (n : Nat) :
    s.reachAll u d c path a star [(va, n)] = s.reach u d c path a star va n := by
  show bothReach (.ok ⟨[], []⟩) (s.reach u d c path a star va n) = _
  cases s.reach u d c path a star va n <;> rfl

section

variable (s : State) (va : BitVec 64)

/-- The address check of MSCL. -/
def State.scaleReach : Except Flt Reach := s.reach s.u (dieOf s.u) (s.ctxOf s.u) pSL .rd false va 512

/-- MSCL's fault for an address outside the core's own scratchpad, aligned or not. -/
def scaleAway : Flt := (prot 4 va).on pSL .rd

/-- MSCL's fault for an address that is not aligned. -/
def scaleAlign : List Flt := if va.toNat % 512 != 0 then [(align va 512).on pSL .rd] else []

theorem scaleAlign_code {f : Flt} (h : f ∈ scaleAlign va) : f.code = 0x1A := by
  unfold scaleAlign at h
  split at h
  · rw [List.mem_singleton.mp h]
    rfl
  · exact absurd h List.not_mem_nil

theorem scaleFault_eq : s.scaleFault va =
    lowestFault (faultOf (s.scaleReach va) ++ (if ownScratch s.u va.toNat then [] else [scaleAway va]) ++ scaleAlign va) := by
  unfold State.scaleFault
  rw [reachAll_one]
  rfl

theorem not_below_align {e f : Flt} (hf : f.code = 0x1A) (he : e.code.toNat ≤ 0x19) : ¬ Below f e := by
  intro h
  unfold Below at h
  rw [hf] at h
  obtain h | ⟨h, -⟩ := h
  · exact absurd (Nat.lt_of_lt_of_le h he) (by decide)
  · rw [← h] at he
    exact absurd he (by decide)

/-- A fault of the address that nothing of MSCL's goes before. -/
theorem scaleFault_address {e : Flt} (hr : s.scaleReach va = .error e) (hcode : e.code.toNat ≤ 0x19)
    (hfirst : ownScratch s.u va.toNat = true ∨ e.code.toNat < 0x19 ∨ e.code = 0x19 ∧ e.sub.toNat ≤ 4) : s.scaleFault va = some e := by
  rw [scaleFault_eq, hr]
  refine lowestFault_head e _ fun f hf => ?_
  rcases List.mem_append.mp hf with hf | hf
  · by_cases hown : ownScratch s.u va.toNat = true
    · rw [if_pos hown] at hf
      exact absurd hf List.not_mem_nil
    · rw [if_neg hown] at hf
      obtain rfl := List.mem_singleton.mp hf
      rintro (hlt | ⟨heq, hlt⟩)
      · exact absurd (Nat.lt_of_lt_of_le hlt hcode) (by decide : ¬ (0x19 : Nat) < 0x19)
      · obtain h | h | ⟨-, h⟩ := hfirst
        · exact hown h
        · rw [← heq] at h
          exact absurd h (by decide : ¬ (0x19 : Nat) < 0x19)
        · exact absurd (Nat.lt_of_lt_of_le hlt h) (by decide : ¬ (4 : Nat) < 4)
  · exact not_below_align (scaleAlign_code va hf) hcode

/-- An address outside the own scratchpad whose own fault, if it has one, does not go before that. -/
theorem scaleFault_away (hown : ¬ ownScratch s.u va.toNat = true)
    (hr : (∃ r, s.scaleReach va = .ok r) ∨ ∃ e, s.scaleReach va = .error e ∧ e.code = 0x19 ∧ 4 ≤ e.sub.toNat) :
    s.scaleFault va = some (scaleAway va) := by
  have hrest : lowestFault (scaleAway va :: scaleAlign va) = some (scaleAway va) :=
    lowestFault_head _ _ fun f hf => not_below_align (scaleAlign_code va hf) (by decide : (0x19 : Nat) ≤ 0x19)
  rcases hr with ⟨r, hr⟩ | ⟨e, hr, hcode, hsub⟩
  · rw [scaleFault_eq, hr, if_neg hown]
    exact hrest
  · by_cases hfour : e.sub = 4
    · have he : e = scaleAway va := by
        rcases reach_refuses s _ _ _ pSL .rd false va 512 (by decide) e hr with hpage | hprot
        · exact hpage.elim (absurd hcode) fun h => absurd (h.symm.trans hfour) (by decide)
        · rw [hprot, hfour]
          rfl
      rw [← he]
      exact scaleFault_address s va hr (by rw [hcode]; decide) (.inr (.inr ⟨hcode, by rw [hfour]; decide⟩))
    · have hlt : 4 < e.sub.toNat := Nat.lt_of_le_of_ne hsub fun h => hfour (BitVec.eq_of_toNat_eq h.symm)
      rw [scaleFault_eq, hr, if_neg hown]
      have hbelow : Below (scaleAway va) e := .inr ⟨hcode.symm, hlt⟩
      exact (lowestFault_second _ hbelow).trans hrest

/-- An address in the own scratchpad that passes its check faults for its alignment only. -/
theorem scaleFault_own {r : Reach} (hown : ownScratch s.u va.toNat = true) (hr : s.scaleReach va = .ok r) :
    s.scaleFault va = if va.toNat % 512 ≠ 0 then some ((align va 512).on pSL .rd) else none := by
  rw [scaleFault_eq, hr, if_pos hown]
  unfold scaleAlign
  by_cases h : va.toNat % 512 = 0
  · simp [h, faultOf, lowestFault]
  · simp [h, faultOf, lowestFault]

end

section

variable {s : State} {m : BitVec 2} {b : BitVec 5} {o : BitVec 15}

theorem mscl_raises {e : Flt} (h : s.scaleFault (s.ea b o) = some e) : exec (.mscl m b o) s = .next (s.raise e) := by
  show execMscl m b o s = _
  unfold execMscl
  dsimp only
  rw [h]

/-- MSCL of an aligned address in the own scratchpad: it waits, or issues with 512 bytes on their way. -/
theorem mscl_own {r : Reach} (hfault : s.scaleFault (s.ea b o) = none) (hr : s.scaleReach (s.ea b o) = .ok r)
    (haligned : (s.ea b o).toNat % 512 = 0) : exec (.mscl m b o) s = .next (if s.readHeld r.spans || s.banksHold [] r.spans then s else
      s.grant r true fun s => (s.land 12 (.scale m (rdSpans (s.mxMem s.u) r.spans))).issued 1) := by
  have haccess : s.access pSL .rd false 512 [(s.ea b o, 512)] = .ok r := by
    unfold State.access
    rw [reachAll_one, show s.reach _ _ _ _ _ _ _ _ = .ok r from hr]
    simp [haligned]
  show execMscl m b o s = _
  unfold execMscl
  dsimp only
  rw [hfault, haccess]
  dsimp only
  split <;> rfl

end

/-! ## WAITF, SETF and CLRF (R187) -/

section

variable (s : State) (n b : BitVec 5) (o : BitVec 15)

theorem tileReach_away (va : BitVec 64) (a : Acc) (h : va.toNat / 2 ^ 60 ≠ 2) : s.tileReach n va a = .error ((prot 0x04 va).on pSL a) :=
  if_pos (by simpa using h)

variable {s n b o}

theorem waitf_raises {e : Flt} (h : s.tileReach n (s.ea b o) .rd = .error e) : exec (.waitf n b o) s = .next (s.raise e) := by
  show execWaitf n b o s = _
  unfold execWaitf
  rw [h]

/-- WAITF goes on where its tiles are full and no bit write of its own to them is on its way. -/
theorem waitf_eq {r : Reach} (h : s.tileReach n (s.ea b o) .rd = .ok r) : exec (.waitf n b o) s =
    .next (if (tilesOfSpans r.spans).all s.isFull && !s.bitsFlying s.u (tilesOfSpans r.spans) then s.issued 1 else s) := by
  show execWaitf n b o s = _
  unfold execWaitf
  rw [h]
  dsimp only
  split <;> rfl

theorem waitf_ready_iff (ts : List Nat) : (ts.all s.isFull && !s.bitsFlying s.u ts) = true ↔
    (∀ t ∈ ts, s.isFull t = true) ∧ ∀ w ∈ s.flights, w.unit = s.u → ∀ t ∈ w.what.bitTiles, t ∉ ts := by
  simp only [State.bitsFlying, Bool.and_eq_true, List.all_eq_true, Bool.not_eq_true', List.any_eq_false, beq_iff_eq, List.any_eq_true,
    List.contains_eq_mem, decide_eq_true_eq, not_and, not_exists]

/-- SETF and CLRF. -/
theorem setBits_eq (full : Bool) : exec (if full then .setf n b o else .clrf n b o) s = .next (s.writeBits n b o full) := by
  cases full <;> rfl

theorem writeBits_raises {full : Bool} {e : Flt} (h : s.tileReach n (s.ea b o) .wr = .error e) : s.writeBits n b o full = s.raise e := by
  unfold State.writeBits
  rw [h]

theorem writeBits_flies {full : Bool} {r : Reach} (h : s.tileReach n (s.ea b o) .wr = .ok r) :
    Flies 1 (s.flight pSL (s.cycle + spanLatency s.u r.spans) false true [] (.bits (tilesOfSpans r.spans) full)) s
      (s.writeBits n b o full) := by
  unfold State.writeBits
  rw [h]
  exact s.fly_issued 1 _

end

/-! ## STAR (R189) -/

/-- A core that holds storage is one of the package (R8, R97). -/
theorem holderOf_lt {u va c : Nat} {acc : Bool} (h : holderOf u acc va = .ok c) : c < 384 := by
  unfold holderOf at h
  dsimp only at h
  split at h
  · exact nomatch h
  · next hdie =>
    split at h
    · exact nomatch h
    · next hctl =>
      split at h
      · exact nomatch h
      · obtain rfl := Except.ok.inj h
        simp only [Bool.and_eq_true, decide_eq_true_eq, not_and, Nat.not_le] at hctl hdie
        split
        · next hloc => exact hctl hloc
        · omega

section

variable {s : State} {d a : BitVec 5} {k : BitVec 7} {f : BitVec 4}

/-- The access of an accumulator store: the converted rows of the own bank on their way, or a read of another core's rows. -/
def State.starFlight (s : State) (w : Reach) (f : BitVec 4) (c off bank row rows : Nat) : Flight :=
  s.flight pSL (s.cycle + w.latency s.u + if c = s.u then 0 else latency s.u (accPlace c off)) false true w.spans
    (if c = s.u then .store (starBytes s.mem c bank row rows f.toNat s.me.spr.rm s.me.spr.srseed)
      else .star f s.me.spr.rm s.me.spr.srseed bank row rows c)

theorem State.earlyRows_off (s : State) (htrap : s.glob.earlyTrap = false) (u q : Nat) (bank : BitVec 3) (r0 n : Nat) :
    s.earlyRows u q bank r0 n = none := if_pos (by rw [htrap]; rfl)

/-- STAR of rows in the bank whose checks pass, while early reads raise nothing. -/
theorem star_eq {c : Nat} {r w : Reach} (htrap : s.glob.earlyTrap = false) (hspace : (s.rs a).toNat / 2 ^ 60 = 4)
    (hrows : (s.rs a).toNat / 2 ^ 9 % 128 + (k.toNat + 1) ≤ 128)
    (hr : s.access pSL .rd true 512 [(s.rs a, 512 * (k.toNat + 1))] = .ok r)
    (hw : s.access pSL .wr false (fmtBits f.toNat / 8) [(s.rs d, (k.toNat + 1) * 128 * (fmtBits f.toNat / 8))] = .ok w)
    (hc : c < 384) {off n : Nat} (hoff : off < 2 ^ 19) (hspan : r.spans = [(accPlace c off, n)]) :
    exec (.star d a k f) s = .next (if s.directHeld w.spans then s else s.grant w false fun t =>
      (t.fly (t.starFlight w f c off ((s.rs a).toNat / 2 ^ 16 % 8) ((s.rs a).toNat / 2 ^ 9 % 128) (k.toNat + 1))).issued
        (occupancy t.u w.spans 0)) := by
  have hcore : accPlace c off % 2 ^ 64 / 2 ^ 19 = c := by
    unfold accPlace
    omega
  have hearly : s.starEarly a k = none := by
    unfold State.starEarly
    simp only [s.earlyRows_off htrap]
    exact ite_self none
  have hnone : lowestFault (faultOf (Except.ok (ε := Flt) r) ++ faultOf (Except.ok (ε := Flt) w)) = none := rfl
  show execStar d a k f s = _
  unfold execStar
  dsimp only
  rw [if_neg (by simp; omega), if_neg (by simpa using hspace), hr, hw, hearly, hnone]
  dsimp only
  rw [hspan]
  dsimp only [List.headD_cons]
  simp only [hcore, beq_iff_eq]
  exact (apply_ite Host.Outcome.next _ _ _).symm

end

end Sys2Proof.Machine

namespace Sys2Proof.Laws

open Sys2Proof.Machine Sys2Proof.Safety

/-- Settles O23: tile waits and bits, scale loads, and stores of accumulator rows. -/
theorem tileOperations : Obligations.TileOperations := by
  intro s n b d a o m k f ea
  refine ⟨fun hspace => ?_, ?_, fun full => ?_, ?_, ?_⟩
  · refine ⟨raises_of _ _ (waitf_raises (tileReach_away s n ea .rd hspace)), ⟨_, rfl, ?_⟩, ⟨_, rfl, ?_⟩⟩
    · rw [writeBits_raises (tileReach_away s n ea .wr hspace)]
      exact s.raise_raises _
    · rw [writeBits_raises (tileReach_away s n ea .wr hspace)]
      exact s.raise_raises _
  · cases hr : s.tileReach n ea .rd with
    | error e => exact raises_of _ _ (waitf_raises hr)
    | ok r =>
      have hready := waitf_ready_iff (s := s) (tilesOfSpans r.spans)
      refine ⟨fun hset hclear => ⟨_, (waitf_eq hr).trans (congrArg _ (if_pos (hready.mpr ⟨hset, hclear⟩))), s.issued_nothing 1⟩, fun hnot => ?_⟩
      exact (waitf_eq hr).trans (congrArg _ (if_neg fun h => hnot (hready.mp h)))
  · intro i
    cases hr : s.tileReach n ea .wr with
    | error e => exact ⟨_, setBits_eq full, by rw [writeBits_raises hr]; exact s.raise_raises e⟩
    | ok r => exact ⟨_, setBits_eq full, writeBits_flies hr⟩
  · intro own bad
    have hbad (e : Flt) (h : s.scaleFault ea = some e) : bad e := raises_of _ _ (mscl_raises h)
    generalize hr : s.reach s.u (dieOf s.u) (s.ctxOf s.u) pSL .rd false ea 512 = reached
    cases reached with
    | error e =>
      refine ⟨fun hfirst hcode => hbad e (scaleFault_address s ea hr hcode ?_), fun hown hcode hsub => ?_⟩
      · exact hfirst.imp id fun h => h.imp id fun h => ⟨h.1, Nat.le_of_lt h.2⟩
      · exact hbad _ (scaleFault_away s ea hown (.inr ⟨e, hr, hcode, hsub⟩))
    | ok r =>
      refine ⟨fun hown => hbad _ (scaleFault_away s ea hown (.inl ⟨r, hr⟩)),
        fun hown hodd => hbad _ ((scaleFault_own s ea hown hr).trans (if_pos hodd)), fun hown heven hnot => ?_, fun hown heven hready hwithin => ?_⟩
      · refine (mscl_own ((scaleFault_own s ea hown hr).trans (if_neg (not_not.mpr heven))) hr heven).trans (congrArg _ ?_)
        split
        · rfl
        · next hheld =>
          rw [Bool.not_eq_true, Bool.or_eq_false_iff] at hheld
          exact s.grant_waits r _ fun hfull => hnot ⟨hfull, hheld.1, hheld.2⟩
      · obtain ⟨hfull, hread, hbanks⟩ := hready
        refine ⟨_, (mscl_own ((scaleFault_own s ea hown hr).trans (if_neg (not_not.mpr heven))) hr heven).trans
          (congrArg _ (if_neg (by rw [hread, hbanks]; decide))), ?_⟩
        obtain ⟨ds, hgrant⟩ := s.grant_goes r true (fun s => (s.land 12 (.scale m (rdSpans (s.mxMem s.u) r.spans))).issued 1)
          (fun _ => hfull) hwithin
        rw [hgrant]
        obtain ⟨hframe, hleft, hlandings, hflights, -⟩ :=
          ({ s with dies := ds } : State).land_issued 12 (.scale m (rdSpans (s.mxMem s.u) r.spans))
        exact ⟨hframe, hleft, hlandings, hflights⟩
  · intro src rows row bank size c r w htrap hspace hholder hrows hrd hwr hspan
    have heq := star_eq (d := d) (f := f) htrap hspace hrows hrd hwr (holderOf_lt hholder) (off := bank * 65536 + row * 512) (by omega) hspan
    refine ⟨fun hheld => heq.trans (congrArg _ (if_pos hheld)), fun hfree hwithin => ?_⟩
    obtain ⟨ds, hgrant⟩ := s.grant_goes w false (fun t =>
      (t.fly (t.starFlight w f c (bank * 65536 + row * 512) bank row rows)).issued (occupancy t.u w.spans 0)) (fun h => nomatch h) hwithin
    refine ⟨_, heq.trans (congrArg _ (if_neg (by rw [hfree]; decide))), ?_⟩
    exact Eq.mpr (congrArg (Flies _ _ s) hgrant) (s.flies_of_dies ds _ _)

end Sys2Proof.Laws

namespace Sys2Proof.Machine

open Sys2Proof.Safety

/-! ## Numbers in memory (R2) -/

theorem leNat_lt (bs : List Byte) : leNat bs < 256 ^ bs.length := by
  induction bs with
  | nil => exact Nat.one_pos
  | cons b bs ih =>
    have hb := b.isLt
    have hcons : leNat (b :: bs) = b.toNat + 256 * leNat bs := rfl
    rw [hcons, List.length_cons, Nat.pow_succ']
    omega

theorem toNat_rd32 (m : List Host.Cell) (p : Nat) : (rd32 m p).toNat = leNat (rdBytes m p 4) := by
  have h := leNat_lt (rdBytes m p 4)
  rw [length_rdBytes] at h
  exact BitVec.toNat_ofNat .. ▸ Nat.mod_eq_of_lt h

theorem toNat_rd64 (m : List Host.Cell) (p : Nat) : (rd64 m p).toNat = leNat (rdBytes m p 8) := by
  have h := leNat_lt (rdBytes m p 8)
  rw [length_rdBytes] at h
  exact BitVec.toNat_ofNat .. ▸ Nat.mod_eq_of_lt h

/-- The low four bytes of any number, written, read back as its low 32 bits. -/
theorem rd32_wrBytes_nat (m : List Host.Cell) (p : Nat) (h : Memory.wf m = true) (x : Nat) :
    rd32 (wrBytes m p (leBytes 4 x)) p = BitVec.ofNat 32 x := by
  have hread := rdBytes_wrBytes m p (leBytes 4 x) h
  rw [length_leBytes] at hread
  rw [rd32, hread, leNat_leBytes]
  exact BitVec.eq_of_toNat_eq (by simp)

/-- The low eight bytes of any number, written, read back as its low 64 bits. -/
theorem rd64_wrBytes_nat (m : List Host.Cell) (p : Nat) (h : Memory.wf m = true) (x : Nat) :
    rd64 (wrBytes m p (leBytes 8 x)) p = BitVec.ofNat 64 x := by
  have hread := rdBytes_wrBytes m p (leBytes 8 x) h
  rw [length_leBytes] at hread
  rw [rd64, hread, leNat_leBytes]
  exact BitVec.eq_of_toNat_eq (by simp)

/-- Memory outside the bytes written stays. -/
theorem else_of_mem {s t : State} {p n : Nat} {bs : List Byte} (h : t.mem = wrBytes s.mem p bs) (hn : bs.length = n) : Else p n s t :=
  fun a ha => by rw [h]; exact rdByte_wrBytes_out s.mem p bs (hn ▸ ha)

theorem else_of_mem_eq {s t : State} (p n : Nat) (h : t.mem = s.mem) : Else p n s t := fun a _ => by rw [h]

/-! ## Answers and flags (R195, R199) -/

section

variable (s : State)

@[simp] theorem State.axr_units (c : BitVec 3) (p : Nat) (fl : Flags) : (s.axr c p fl).units = s.units := by
  unfold State.axr
  split <;> rfl

@[simp] theorem State.axr_mem (c : BitVec 3) (p : Nat) (fl : Flags) : (s.axr c p fl).mem = s.mem := by
  unfold State.axr
  split <;> rfl

@[simp] theorem State.axr_flights (c : BitVec 3) (p : Nat) (fl : Flags) : (s.axr c p fl).flights = s.flights := by
  unfold State.axr
  split <;> rfl

@[simp] theorem State.axr_cycle (c : BitVec 3) (p : Nat) (fl : Flags) : (s.axr c p fl).cycle = s.cycle := by
  unfold State.axr
  split <;> rfl

@[simp] theorem State.axr_zero (c : BitVec 3) (p : Nat) : s.axr c p 0 = s := rfl

variable (f : Flight) (ds : List Stor) (vs : List Val) (fl : Flags) (extra : Nat)

@[simp] theorem State.dropFlight_flights : (s.dropFlight f).flights = s.flights.filter (·.id != f.id) := rfl

@[simp] theorem State.answer_units : (s.answer f ds vs fl extra).units = s.units := by
  unfold State.answer
  split <;> rfl

@[simp] theorem State.answer_mem : (s.answer f ds vs fl extra).mem = s.mem := by
  unfold State.answer
  split <;> rfl

@[simp] theorem State.answer_ctxs : (s.answer f ds vs fl extra).ctxs = s.ctxs := by
  unfold State.answer
  split <;> rfl

@[simp] theorem State.answer_ctx (c : Nat) : (s.answer f ds vs fl extra).ctx c = s.ctx c := by
  rw [State.ctx, State.ctx, State.answer_ctxs]

@[simp] theorem State.answer_groups : (s.answer f ds vs fl extra).groups = s.groups := by
  unfold State.answer
  split <;> rfl

@[simp] theorem State.answer_watches : (s.answer f ds vs fl extra).watches = s.watches := by
  unfold State.answer
  split <;> rfl

end

section

variable {s t : State} {f : Flight}

/-- An answer from a state in which the same flights are on their way in the same cycle. -/
theorem answers_answer {ds : List Stor} {vs : List Val} {ws : List (Stor × Val)} {fl : Flags} {extra : Nat} (hflights : t.flights = s.flights)
    (hcycle : t.cycle = s.cycle) (hws : ds.zip vs = ws) (hds : ds = [] ↔ ws = []) : Answers f ws fl extra s (t.answer f ds vs fl extra) := by
  unfold Answers State.answer
  by_cases h : ds = []
  · rw [if_pos (hds.mp h), if_pos (List.isEmpty_iff.mpr h), State.dropFlight_flights, hflights]
  · rw [if_neg (mt hds.mpr h), if_neg (mt List.isEmpty_iff.mp h), hws, State.modFlight, hflights, hcycle]

/-- A request that answers nothing has ended. -/
theorem answers_nil {fl : Flags} {extra : Nat} (h : t.flights = s.flights.filter (·.id != f.id)) : Answers f [] fl extra s t := h

end

/-! ## The step at a port (R193) -/

/-- The flight whose turn a port step examines: of a BFIN only the object that the step names. -/
def asked (f : Flight) (r : Req) (m : Nat) : Flight :=
  match r with | .bfin _ _ _ _ => { f with spans := (f.spans[m]?).toList } | _ => f

section

variable {s : State} {f : Flight} {r : Req} {va : BitVec 64} {ds : List Stor} {p : Nat}

theorem atPort_what (h : AtPort s f r va ds p) : f.what = .req r va ds := h.2.1

/-- The place of a request at its port. -/
theorem atPort_place (h : AtPort s f r va ds p) : f.place = p := h.2.2.2.2.2

/-- A request that may perform takes its step, unless the fault it raises waits for a lower slot. -/
theorem portStep_exec (hget : s.flights[s.arg.n]? = some f) (hwhat : f.what = .req r va ds) (hparked : f.parked = false)
    (hbad : f.bad = none) (hmay : s.mayPerform (asked f r s.arg.m) = true) :
    exec .portSyncOperation s = .next (s.unlessOutranked (s.portStep f r va ds s.arg.m) f.unit) := by
  show execPortSyncOperation s = _
  obtain ⟨_, _, _, _, _, _, _, _, _, _, _, _, _, _, _, _, _⟩ := f
  subst hwhat hparked hbad
  unfold execPortSyncOperation
  simp only [hget, Bool.false_eq_true, if_false]
  exact if_pos hmay

/-- A step that leaves the unit's pending fault as it is waits for nothing. -/
theorem unlessOutranked_of_pend {t : State} {u : Nat} (h : (t.unit u).disp.pend = (s.unit u).disp.pend) : s.unlessOutranked t u = t := by
  have hnot : s.outranked t u = false := by
    unfold State.outranked
    split
    · next q hq => rw [← h, hq, bne_self_eq_false, Bool.false_and]
    · rfl
  rw [State.unlessOutranked, hnot]
  rfl

theorem unlessOutranked_of_units {t : State} (u : Nat) (h : t.units = s.units) : s.unlessOutranked t u = t :=
  unlessOutranked_of_pend (by rw [State.unit, State.unit, h])

/-- What a request that leaves the units alone does when it may perform. -/
theorem goes_asked {P : State → Prop} (hget : s.flights[s.arg.n]? = some f) (hwhat : f.what = .req r va ds) (hparked : f.parked = false)
    (hbad : f.bad = none) (hmay : s.mayPerform (asked f r s.arg.m) = true) (hunits : (s.portStep f r va ds s.arg.m).units = s.units)
    (hP : P (s.portStep f r va ds s.arg.m)) : Goes (exec .portSyncOperation s) P :=
  ⟨_, (portStep_exec hget hwhat hparked hbad hmay).trans (by rw [unlessOutranked_of_units _ hunits]), hP⟩

/-- The same of any request but BFIN. -/
theorem goes_port {P : State → Prop} (h : AtPort s f r va ds p) (hr : asked f r s.arg.m = f)
    (hunits : (s.portStep f r va ds s.arg.m).units = s.units) (hP : P (s.portStep f r va ds s.arg.m)) :
    Goes (exec .portSyncOperation s) P := by
  obtain ⟨hget, hwhat, hparked, hbad, hmay, -⟩ := h
  exact goes_asked hget hwhat hparked hbad (by rwa [hr]) hunits hP

end

/-! ## Entries that a port merges (R194) -/

section

variable (s : State) (line : Nat) (fs : List Flight)

theorem State.mergeLine_zero : s.mergeLine line 0 fs = s := by
  induction fs with
  | nil => rfl
  | cons g fs ih => exact ih

theorem State.mergeLine_none (k : Nat) (h : ∀ g ∈ fs, s.pendingIn line g = false) : s.mergeLine line k fs = s := by
  induction fs with
  | nil => rfl
  | cons g fs ih =>
    rw [State.mergeLine, h g List.mem_cons_self, Bool.and_false]
    exact ih fun g hg => h g (List.mem_cons_of_mem _ hg)

/-- Of flights one of which is pending, that one is merged. -/
theorem State.mergeLine_one {g : Flight} (hmem : g ∈ fs) (hg : s.pendingIn line g = true)
    (hone : ∀ h ∈ fs, s.pendingIn line h = true → h = g) : s.mergeLine line 1 fs = s.entryAt g := by
  induction fs with
  | nil => exact absurd hmem List.not_mem_nil
  | cons h fs ih =>
    rw [State.mergeLine]
    by_cases hp : s.pendingIn line h = true
    · rw [hp, hone h List.mem_cons_self hp]
      exact State.mergeLine_zero _ _ _
    · rw [Bool.eq_false_iff.mpr hp, Bool.and_false]
      refine ih ((List.mem_cons.mp hmem).resolve_left fun he => hp (he ▸ hg)) fun h' hh' => hone h' (List.mem_cons_of_mem _ hh')

/-- An entry alone: it is applied, and the words watched in its line are examined. -/
theorem State.entryStep_alone (f : Flight) : ∃ ws, s.entryStep f 0 = { s.entryAt f with watches := ws } := by
  unfold State.entryStep
  dsimp only
  rw [State.mergeLine_zero]
  exact ⟨_, rfl⟩

/-- An entry and the one pending beside it. -/
theorem State.entryStep_two {f g : Flight} (hmem : g ∈ s.flights) (hid : g.id ≠ f.id)
    (hg : (s.entryAt f).pendingIn (f.place / 64) g = true)
    (hone : ∀ h ∈ s.flights, h.id ≠ f.id → (s.entryAt f).pendingIn (f.place / 64) h = true → h = g) :
    ∃ ws, s.entryStep f 1 = { (s.entryAt f).entryAt g with watches := ws } := by
  unfold State.entryStep
  dsimp only
  have hin : g ∈ s.flights.filter fun g => g.id != f.id := List.mem_filter.mpr ⟨hmem, bne_iff_ne.mpr hid⟩
  rw [State.mergeLine_one _ _ _ hin hg fun h hh => hone h (List.mem_filter.mp hh).1 (bne_iff_ne.mp (List.mem_filter.mp hh).2)]
  exact ⟨_, rfl⟩

end

/-! ## Integer atomics (R198) -/

/-- The new value of an integer atomic. -/
def atomBits {n : Nat} (o : BitVec 3) (uns : Bool) (w x : BitVec n) : BitVec n :=
  match o.toNat with
  | 0 => w + x
  | 1 => w &&& x
  | 2 => w ||| x
  | 3 => w ^^^ x
  | 4 => if (if uns then decide (x < w) else decide (x.toInt < w.toInt)) then x else w
  | 5 => if (if uns then decide (w < x) else decide (w.toInt < x.toInt)) then x else w
  | _ => x

/-- The lesser and the greater of two values, as signed and as unsigned numbers. -/
theorem atomBits_bounds {n : Nat} (w x : BitVec n) : atomBits 4 false w x = (if x.toInt < w.toInt then x else w) ∧
    atomBits 4 true w x = (if x < w then x else w) ∧ atomBits 5 false w x = (if w.toInt < x.toInt then x else w) ∧
    atomBits 5 true w x = (if w < x then x else w) := by
  simp [atomBits]

/-- The number by which an atomic orders a value of `n` bits. -/
theorem ordered_eq {n : Nat} (hn : n ≠ 0) (uns : Bool) (y : BitVec n) :
    (if uns || decide (y.toNat < 2 ^ n / 2) then (y.toNat : Int) else (y.toNat : Int) - (2 ^ n : Nat)) =
      if uns then (y.toNat : Int) else y.toInt := by
  cases uns with
  | true => rfl
  | false =>
    obtain ⟨k, rfl⟩ := Nat.exists_eq_succ_of_ne_zero hn
    rw [BitVec.toInt_eq_toNat_cond, Nat.pow_succ]
    simp only [Bool.false_or, decide_eq_true_eq, Bool.false_eq_true, if_false]
    split <;> split <;> omega

/-- An integer atomic on the numbers of two values, of 32 bits or of 64 (R198). -/
theorem atomOp_bits {n : Nat} (t : BitVec 2) (ht : t = 0 ∧ n = 32 ∨ t = 1 ∧ n = 64) (o : BitVec 3) (uns : Bool) (w x : BitVec n) :
    atomOp o t uns w.toNat x.toNat = ((atomBits o uns w x).toNat, 0) := by
  have hn : n ≠ 0 := by omega
  have hfloat : (t == 2) = false := by rcases ht with ⟨rfl, -⟩ | ⟨rfl, -⟩ <;> rfl
  have hsize : (if (t == 1) = true then 2 ^ 64 else 2 ^ 32) = 2 ^ n := by rcases ht with ⟨rfl, rfl⟩ | ⟨rfl, rfl⟩ <;> rfl
  have hless (y z : BitVec n) : ((if uns then (y.toNat : Int) else y.toInt) < if uns then (z.toNat : Int) else z.toInt) ↔
      (if uns then decide (y < z) else decide (y.toInt < z.toInt)) = true := by
    cases uns <;> simp [BitVec.lt_def]
  unfold atomOp atomBits
  simp only [hfloat, hsize, ordered_eq hn, hless, Bool.false_eq_true, if_false]
  congr 1
  generalize o.toNat = k
  match k with
  | 0 => exact (BitVec.toNat_add w x).symm
  | 1 => exact (BitVec.toNat_and w x).symm
  | 2 => exact (BitVec.toNat_or w x).symm
  | 3 => exact (BitVec.toNat_xor w x).symm
  | 4 => exact (apply_ite BitVec.toNat _ x w).symm
  | 5 => exact (apply_ite BitVec.toNat _ x w).symm
  | _ + 6 => rfl

section

variable {s : State} {f : Flight} {va : BitVec 64} {ds : List Stor} {p : Nat} {o : BitVec 3} {uns : Bool} {x : BitVec 64}

/-- An integer atomic of 32 bits applied to the entry's word: the new value, and the old one on its way back. -/
theorem entryAt_word (hwhat : f.what = .req (.atom o 0 uns x) va ds) (hp : f.place = p) : s.entryAt f =
    ({ s with mem := wrBytes s.mem p (leBytes 4 (atomBits o uns (rd32 s.mem p) (x.setWidth 32)).toNat) } : State).answer f ds
      [.scalar ((rd32 s.mem p).signExtend 64)] 0 0 := by
  have hx : x.toNat % 2 ^ (8 * 4) = (x.setWidth 32 : Word).toNat := (BitVec.toNat_setWidth 32 x).symm
  have hval (w : Word) : scalarVal (0 == (0 : BitVec 2)) 4 w.toNat = .scalar (w.signExtend 64) := by
    simp [scalarVal]
  unfold State.entryAt
  simp only [hwhat, hp]
  have hsize : (Req.atom o 0 uns x).size = 4 := rfl
  rw [hsize, hx, ← toNat_rd32, atomOp_bits 0 (.inl ⟨rfl, rfl⟩), hval]
  rfl

/-- The same of 64 bits. -/
theorem entryAt_dword (hwhat : f.what = .req (.atom o 1 uns x) va ds) (hp : f.place = p) : s.entryAt f =
    ({ s with mem := wrBytes s.mem p (leBytes 8 (atomBits o uns (rd64 s.mem p) x).toNat) } : State).answer f ds
      [.scalar (rd64 s.mem p)] 0 0 := by
  have hx : x.toNat % 2 ^ (8 * 8) = x.toNat := Nat.mod_eq_of_lt x.isLt
  have hval (w : BitVec 64) : scalarVal (1 == (0 : BitVec 2)) 8 w.toNat = .scalar w := by
    simp [scalarVal]
  unfold State.entryAt
  simp only [hwhat, hp]
  have hsize : (Req.atom o 1 uns x).size = 8 := rfl
  rw [hsize, hx, ← toNat_rd64, atomOp_bits 1 (.inr ⟨rfl, rfl⟩), hval]
  rfl

/-- An answer of one value to a destination, or to none. -/
theorem answers_one {s t : State} {f : Flight} {d : Stor} {v : Val} {fl : Flags} {extra : Nat} (hds : ds = [] ∨ ds = [d])
    (hflights : t.flights = s.flights) (hcycle : t.cycle = s.cycle) :
    Answers f (ds.map fun r => (r, v)) fl extra s (t.answer f ds [v] fl extra) := by
  rcases hds with rfl | rfl
  · exact answers_answer hflights hcycle rfl (iff_of_true rfl rfl)
  · exact answers_answer hflights hcycle rfl (iff_of_false (List.cons_ne_nil _ _) (List.cons_ne_nil _ _))

/-- A mergeable integer request alone at its port is its entry. -/
theorem portStep_entry (r : Req) (hr : r.mergeable = true) (va : BitVec 64) (ds : List Stor) (m : Nat) :
    s.portStep f r va ds m = s.entryStep f m := by
  cases r with
  | atom o t u x =>
    have ht : (t == 2) = false := by simpa [Req.mergeable] using hr
    unfold State.portStep
    dsimp only
    rw [ht]
    rfl
  | rsf _ => rfl
  | rsb _ => rfl
  | _ => exact nomatch hr

/-- What an integer atomic of 32 bits does alone at its port (R198). -/
theorem atom_word {d : Stor} (hmem : MemoryOk s) (hds : ds = [] ∨ ds = [d]) (hm : s.arg.m = 0)
    (h : AtPort s f (.atom o 0 uns x) va ds p) : Goes (exec .portSyncOperation s) fun t =>
      rd32 t.mem p = atomBits o uns (rd32 s.mem p) (x.setWidth 32) ∧ Else p 4 s t ∧
        Answers f (ds.map fun r => (r, .scalar ((rd32 s.mem p).signExtend 64))) 0 0 s t ∧ t.units = s.units := by
  obtain ⟨ws, halone⟩ := s.entryStep_alone f
  have hstep : s.portStep f (.atom o 0 uns x) va ds s.arg.m = _ := (portStep_entry _ rfl va ds _).trans (hm ▸ halone)
  rw [entryAt_word (atPort_what h) (atPort_place h)] at hstep
  refine goes_port h rfl (by rw [hstep]; exact State.answer_units ..) ?_
  rw [hstep]
  refine ⟨?_, ?_, answers_one hds rfl rfl, State.answer_units ..⟩
  · rw [State.answer_mem]
    exact rd32_wrBytes s.mem p hmem _
  · exact else_of_mem (State.answer_mem ..) (length_leBytes ..)

/-- What one of 64 bits does (R198). -/
theorem atom_dword {d : Stor} (hmem : MemoryOk s) (hds : ds = [] ∨ ds = [d]) (hm : s.arg.m = 0)
    (h : AtPort s f (.atom o 1 uns x) va ds p) : Goes (exec .portSyncOperation s) fun t =>
      rd64 t.mem p = atomBits o uns (rd64 s.mem p) x ∧ Else p 8 s t ∧
        Answers f (ds.map fun r => (r, .scalar (rd64 s.mem p))) 0 0 s t ∧ t.units = s.units := by
  obtain ⟨ws, halone⟩ := s.entryStep_alone f
  have hstep : s.portStep f (.atom o 1 uns x) va ds s.arg.m = _ := (portStep_entry _ rfl va ds _).trans (hm ▸ halone)
  rw [entryAt_dword (atPort_what h) (atPort_place h)] at hstep
  refine goes_port h rfl (by rw [hstep]; exact State.answer_units ..) ?_
  rw [hstep]
  refine ⟨?_, ?_, answers_one hds rfl rfl, State.answer_units ..⟩
  · rw [State.answer_mem]
    exact rd64_wrBytes s.mem p hmem _
  · exact else_of_mem (State.answer_mem ..) (length_leBytes ..)

end

end Sys2Proof.Machine

namespace Sys2Proof.Machine

open Sys2Proof.Safety

/-! ## Compares, reduce-stores and merged additions (R194, R198) -/

theorem Else.trans {p n : Nat} {s t r : State} (h : Else p n s t) (h' : Else p n t r) : Else p n s r :=
  fun a ha => (h' a ha).trans (h a ha)

section

variable {s : State} {f : Flight} {va : BitVec 64} {ds : List Stor} {p : Nat} {x : BitVec 64}

/-- A compare and swap on a word (R198). -/
theorem acas_word {d : Stor} {e : BitVec 64} (hmem : MemoryOk s) (h : AtPort s f (.acas 0 e x) va [d] p) :
    Goes (exec .portSyncOperation s) fun t =>
      rd32 t.mem p = (if rd32 s.mem p = e.setWidth 32 then x.setWidth 32 else rd32 s.mem p) ∧ Else p 4 s t ∧
        Answers f [(d, .scalar ((rd32 s.mem p).signExtend 64))] 0 0 s t := by
  have hval : scalarVal (0 == (0 : BitVec 2)) 4 (leNat (rdBytes s.mem p 4)) = .scalar ((rd32 s.mem p).signExtend 64) := by
    rw [← toNat_rd32]
    simp [scalarVal]
  have heq : (leNat (rdBytes s.mem p 4) == e.toNat % 2 ^ (8 * 4)) = decide (rd32 s.mem p = e.setWidth 32) := by
    rw [Bool.eq_iff_iff, beq_iff_eq, decide_eq_true_eq, ← toNat_rd32, BitVec.toNat_eq, BitVec.toNat_setWidth]
  have hstep : s.portStep f (.acas 0 e x) va [d] s.arg.m =
      (if rd32 s.mem p = e.setWidth 32 then s.write p (leBytes 4 x.toNat) else s).answer f [d] [.scalar ((rd32 s.mem p).signExtend 64)] 0 0 := by
    have hplace : (f.spans.headD (0, 0)).1 = p := atPort_place h
    have hsize : (Req.acas 0 e x).size = 4 := rfl
    unfold State.portStep
    simp only [hplace, hsize, hval, heq, decide_eq_true_eq]
  by_cases hw : rd32 s.mem p = e.setWidth 32
  · rw [if_pos hw] at hstep ⊢
    refine goes_port h rfl (by rw [hstep, State.answer_units, State.write_units]) ?_
    rw [hstep]
    refine ⟨?_, else_of_mem (State.answer_mem ..) (length_leBytes ..), answers_one (.inr rfl) rfl rfl⟩
    rw [State.answer_mem, State.write_mem, rd32_wrBytes_nat _ _ hmem]
    exact BitVec.eq_of_toNat_eq (by rw [BitVec.toNat_ofNat, BitVec.toNat_setWidth])
  · rw [if_neg hw] at hstep ⊢
    refine goes_port h rfl (by rw [hstep, State.answer_units]) ?_
    rw [hstep]
    exact ⟨by rw [State.answer_mem], else_of_mem_eq _ _ (State.answer_mem ..), answers_one (.inr rfl) rfl rfl⟩

/-- A compare and swap on a doubleword (R198). -/
theorem acas_dword {d : Stor} {e : BitVec 64} (hmem : MemoryOk s) (h : AtPort s f (.acas 1 e x) va [d] p) :
    Goes (exec .portSyncOperation s) fun t =>
      rd64 t.mem p = (if rd64 s.mem p = e then x else rd64 s.mem p) ∧ Else p 8 s t ∧
        Answers f [(d, .scalar (rd64 s.mem p))] 0 0 s t := by
  have hval : scalarVal (1 == (0 : BitVec 2)) 8 (leNat (rdBytes s.mem p 8)) = .scalar (rd64 s.mem p) := by
    rw [← toNat_rd64]
    simp [scalarVal]
  have heq : (leNat (rdBytes s.mem p 8) == e.toNat % 2 ^ (8 * 8)) = decide (rd64 s.mem p = e) := by
    rw [Bool.eq_iff_iff, beq_iff_eq, decide_eq_true_eq, ← toNat_rd64, BitVec.toNat_eq, Nat.mod_eq_of_lt e.isLt]
  have hstep : s.portStep f (.acas 1 e x) va [d] s.arg.m =
      (if rd64 s.mem p = e then s.write p (leBytes 8 x.toNat) else s).answer f [d] [.scalar (rd64 s.mem p)] 0 0 := by
    have hplace : (f.spans.headD (0, 0)).1 = p := atPort_place h
    have hsize : (Req.acas 1 e x).size = 8 := rfl
    unfold State.portStep
    simp only [hplace, hsize, hval, heq, decide_eq_true_eq]
  by_cases hw : rd64 s.mem p = e
  · rw [if_pos hw] at hstep ⊢
    refine goes_port h rfl (by rw [hstep, State.answer_units, State.write_units]) ?_
    rw [hstep]
    refine ⟨?_, else_of_mem (State.answer_mem ..) (length_leBytes ..), answers_one (.inr rfl) rfl rfl⟩
    rw [State.answer_mem]
    exact rd64_wrBytes _ _ hmem x
  · rw [if_neg hw] at hstep ⊢
    refine goes_port h rfl (by rw [hstep, State.answer_units]) ?_
    rw [hstep]
    exact ⟨by rw [State.answer_mem], else_of_mem_eq _ _ (State.answer_mem ..), answers_one (.inr rfl) rfl rfl⟩

/-- The sum that a reduce-store writes (R199, R203). -/
def addWord (m : List Host.Cell) (p : Nat) (x : Word) : Res := addF 0 0 (decodeF fp32 (rd32 m p).toNat) (decodeF fp32 x.toNat)

/-- A reduce-store of FP32 at its entry. -/
theorem entryAt_rsf {y : Word} (hwhat : f.what = .req (.rsf y) va ds) (hp : f.place = p) : s.entryAt f =
    (({ s with mem := wrBytes s.mem p (leBytes 4 (addWord s.mem p y).1) } : State).axr (s.flightCtx f) p (addWord s.mem p y).2).dropFlight f := by
  have hsum : addRne (leNat (rdBytes s.mem p 4)) y.toNat = addWord s.mem p y := by rw [← toNat_rd32]; rfl
  unfold State.entryAt
  simp only [hwhat, hp, hsum]

/-- Alone at its port, it writes the sum, ORs its flags into AXR, and has ended (R199, R203). -/
theorem rsf_goes {y : Word} (hmem : MemoryOk s) (hm : s.arg.m = 0) (h : AtPort s f (.rsf y) va [] p) :
    Goes (exec .portSyncOperation s) fun t => rd32 t.mem p = BitVec.ofNat 32 (addWord s.mem p y).1 ∧ Else p 4 s t ∧
      (∀ c, t.ctx c = (s.axr (s.flightCtx f) p (addWord s.mem p y).2).ctx c) ∧ Answers f [] 0 0 s t := by
  obtain ⟨ws, halone⟩ := s.entryStep_alone f
  have hstep : s.portStep f (.rsf y) va [] s.arg.m = _ := (portStep_entry _ rfl va [] _).trans (hm ▸ halone)
  rw [entryAt_rsf (atPort_what h) (atPort_place h)] at hstep
  refine goes_port h rfl (by rw [hstep]; exact State.axr_units ..) ?_
  rw [hstep]
  refine ⟨?_, else_of_mem (State.axr_mem ..) (length_leBytes ..), fun c => ?_, answers_nil ?_⟩
  · show rd32 (State.axr _ _ _ _).mem p = _
    rw [State.axr_mem]
    exact rd32_wrBytes_nat _ _ hmem _
  · show (State.axr _ _ _ _).ctx c = _
    unfold State.axr
    split <;> rfl
  · show (State.axr _ _ _ _).flights.filter _ = _
    rw [State.axr_flights]

/-- A flight with its answer of one word, present at a cycle. -/
def Flight.answered (h : Flight) (due : Nat) (d : Stor) (w : Word) : Flight :=
  { h with due := due, reads := false, writes := false, spans := [], what := .result [(d, .scalar (w.signExtend 64))] 0 }

/-- What becomes of two additions that the port merges: the flights of both carry their answers. -/
def mergedBack (s : State) (f g : Flight) (d e : Stor) (w z : Word) (h : Flight) : Flight :=
  if h.id = f.id then h.answered (s.cycle + 4) d w else if h.id = g.id then h.answered (s.cycle + 4) e z else h

/-- Two answers, one after the other, to flights of different numbers. -/
theorem map_two_answers (s : State) (f g : Flight) (hid : g.id ≠ f.id) (d e : Stor) (w z : Word) (fs : List Flight) :
    (fs.map fun h => if h.id == f.id then h.answered (s.cycle + 4) d w else h).map
      (fun h => if h.id == g.id then h.answered (s.cycle + 4) e z else h) = fs.map (mergedBack s f g d e w z) := by
  rw [List.map_map]
  refine List.map_congr_left fun h _ => ?_
  unfold mergedBack
  by_cases hf : h.id = f.id
  · have hg : ¬ (h.answered (s.cycle + 4) d w).id = g.id := fun he => hid (he.symm.trans hf)
    simp [hf, hg]
  · by_cases hg : h.id = g.id
    · simp [hg, hid]
    · simp [hf, hg]

/-- Two additions to a word that the port merges (R194). -/
theorem merge_goes {g : Flight} {u v : Bool} {d e : Stor} {y vb : BitVec 64} (hmem : MemoryOk s) (hm : s.arg.m = 1)
    (h : AtPort s f (.atom 0 0 u x) va [d] p) (hin : g ∈ s.flights) (hid : g.id ≠ f.id) (hwhat : g.what = .req (.atom 0 0 v y) vb [e])
    (hplace : g.place = p) (hpend : (s.entryAt f).pendingIn (p / 64) g = true)
    (hone : ∀ h ∈ s.flights, h.id ≠ f.id → (s.entryAt f).pendingIn (p / 64) h = true → h = g) :
    Goes (exec .portSyncOperation s) fun t =>
      rd32 t.mem p = rd32 s.mem p + x.setWidth 32 + y.setWidth 32 ∧ Else p 4 s t ∧ t.units = s.units ∧
        t.flights = s.flights.map (mergedBack s f g d e (rd32 s.mem p) (rd32 s.mem p + x.setWidth 32)) := by
  have hp : f.place = p := atPort_place h
  obtain ⟨ws, htwo⟩ := s.entryStep_two hin hid (by rwa [hp]) (by rwa [hp])
  have hstep : s.portStep f (.atom 0 0 u x) va [d] s.arg.m = _ := (portStep_entry _ rfl va [d] _).trans (hm ▸ htwo)
  have hfirst := entryAt_word (s := s) (atPort_what h) hp
  have hword : rd32 (s.entryAt f).mem p = rd32 s.mem p + x.setWidth 32 := by
    rw [hfirst, State.answer_mem]
    exact rd32_wrBytes _ _ hmem _
  have hmem₁ : MemoryOk (s.entryAt f) := by
    rw [hfirst, MemoryOk, State.answer_mem]
    exact wf_wrBytes _ _ _ hmem
  have hsecond := entryAt_word (s := s.entryAt f) hwhat hplace
  rw [hword] at hsecond
  have hunits : (s.portStep f (.atom 0 0 u x) va [d] s.arg.m).units = s.units := by
    rw [hstep, hsecond]
    show (State.answer _ _ _ _ _ _).units = _
    rw [State.answer_units, hfirst]
    exact State.answer_units ..
  refine goes_port h rfl hunits ⟨?_, ?_, hunits, ?_⟩ <;> rw [hstep, hsecond]
  · show rd32 (State.answer _ _ _ _ _ _).mem p = _
    rw [State.answer_mem]
    exact rd32_wrBytes _ _ hmem₁ _
  · refine Else.trans (t := s.entryAt f) ?_ (else_of_mem (State.answer_mem ..) (length_leBytes ..))
    rw [hfirst]
    exact else_of_mem (State.answer_mem ..) (length_leBytes ..)
  · rw [hfirst]
    exact map_two_answers s f g hid d e _ _ s.flights

end

end Sys2Proof.Machine

namespace Sys2Proof.Machine

open Sys2Proof.Safety

/-! ## Deques (R207, R208) -/

section

variable (m : List Host.Cell) (p : Nat)

/-- The place of the ring entry of an index. -/
def dequeRing (j : BitVec 64) : Nat := p + 64 + 8 * (j.toNat % 2 ^ (rdByte m (p + 16)).toNat)

/-- The number of entries that a deque holds. -/
def dequeCount : Nat := (rd64 m (p + 8) - rd64 m p).toNat

/-- A well-formed header (R207). -/
def DequeGood : Prop :=
  (∀ k, 17 ≤ k → k < 64 → rdByte m (p + k) = 0) ∧ 1 ≤ (rdByte m (p + 16)).toNat ∧ (rdByte m (p + 16)).toNat ≤ 20 ∧
    dequeCount m p ≤ 2 ^ (rdByte m (p + 16)).toNat ∧ p % 2 ^ 25 + 64 + 8 * 2 ^ (rdByte m (p + 16)).toNat ≤ 2 ^ 25

/-- Whether some of the bytes from `a` on of `n` is not zero. -/
theorem any_rdBytes_drop (a n : Nat) : (((rdBytes m p n).drop a).any (· != 0)) = true ↔ ∃ k, a ≤ k ∧ k < n ∧ rdByte m (p + k) ≠ 0 := by
  have hdrop : (rdBytes m p n).drop a = (List.range' a (n - a)).map fun i => rdByte m (p + i) := by
    rw [rdBytes, ← List.map_drop, List.range_eq_range', List.drop_range', Nat.zero_add, Nat.mul_one]
  rw [hdrop, List.any_map, List.any_eq_true]
  constructor
  · rintro ⟨k, hk, hne⟩
    rw [List.mem_range'_1] at hk
    exact ⟨k, hk.1, by omega, bne_iff_ne.mp hne⟩
  · rintro ⟨k, hak, hkn, hne⟩
    exact ⟨k, List.mem_range'_1.mpr ⟨hak, by omega⟩, bne_iff_ne.mpr hne⟩

/-- What the step reads of the header. -/
theorem dequeHeader : leNat ((rdBytes m p 64).take 8) = (rd64 m p).toNat ∧ leNat (((rdBytes m p 64).drop 8).take 8) = (rd64 m (p + 8)).toNat ∧
    ((rdBytes m p 64).drop 16).headD 0 = rdByte m (p + 16) := by
  refine ⟨?_, ?_, ?_⟩
  · rw [toNat_rd64]
    exact congrArg leNat (rdBytes_drop_take m p 64 0 8 (by omega))
  · rw [toNat_rd64, rdBytes_drop_take _ _ _ _ _ (by omega)]
  · rfl

theorem dequeCount_eq (top bot : BitVec 64) : (bot.toNat + 2 ^ 64 - top.toNat) % 2 ^ 64 = (bot - top).toNat := by
  have ht := top.isLt
  rw [BitVec.toNat_sub]
  congr 1
  omega

/-- A step's test of the header. -/
theorem dequeBad_iff : (((rdBytes m p 64).drop 17).any (· != 0) || (rdByte m (p + 16)).toNat == 0 || decide (20 < (rdByte m (p + 16)).toNat)
    || decide (2 ^ (rdByte m (p + 16)).toNat < (rd64 m (p + 8) - rd64 m p).toNat)
    || decide (p % 2 ^ 25 + 64 + 8 * 2 ^ (rdByte m (p + 16)).toNat > 2 ^ 25)) = true ↔ ¬ DequeGood m p := by
  rw [Bool.or_eq_true, Bool.or_eq_true, Bool.or_eq_true, Bool.or_eq_true, any_rdBytes_drop, beq_iff_eq, decide_eq_true_eq, decide_eq_true_eq,
    decide_eq_true_eq]
  unfold DequeGood dequeCount
  constructor
  · rintro ((((⟨k, hlo, hhi, hne⟩ | h) | h) | h) | h) ⟨hzero, hone, htwenty, hcount, hfits⟩
    · exact hne (hzero k hlo hhi)
    all_goals omega
  · intro hbad
    by_contra hnone
    simp only [not_or, not_exists, not_and, not_not] at hnone
    obtain ⟨⟨⟨⟨hzero, hone⟩, htwenty⟩, hcount⟩, hfits⟩ := hnone
    exact hbad ⟨hzero, by omega, by omega, by omega, by omega⟩

/-- The request is one on a deque. -/
def Req.onDeque (r : Req) : Prop := r = .pop ∨ r = .steal ∨ ∃ x, r = .push x

/-- A malformed deque is answered with 3. -/
theorem dequeStep_bad (h : ¬ DequeGood m p) {r : Req} (hr : r.onDeque) : dequeStep m p r = (3, 0, []) := by
  obtain ⟨htop, hbot, hlg⟩ := dequeHeader m p
  rcases hr with rfl | rfl | ⟨x, rfl⟩ <;> unfold dequeStep <;> simp only [htop, hbot, hlg, dequeCount_eq] <;>
    exact if_pos ((dequeBad_iff m p).mpr h)

theorem toNat_succ (x : BitVec 64) : (x.toNat + 1) % 2 ^ 64 = (x + 1).toNat := (BitVec.toNat_add x 1).symm

theorem toNat_pred (x : BitVec 64) : (x.toNat + 2 ^ 64 - 1) % 2 ^ 64 = (x - 1).toNat := dequeCount_eq 1 x

variable (h : DequeGood m p)
include h

theorem dequeStep_push (x : BitVec 64) : dequeStep m p (.push x) =
    if dequeCount m p = 2 ^ (rdByte m (p + 16)).toNat then (2, 0, [])
    else (0, 0, [(dequeRing m p (rd64 m (p + 8)), x.toNat), (p + 8, (rd64 m (p + 8) + 1).toNat)]) := by
  obtain ⟨htop, hbot, hlg⟩ := dequeHeader m p
  unfold dequeStep
  simp only [htop, hbot, hlg, dequeCount_eq, toNat_succ]
  refine (if_neg fun hbad => (dequeBad_iff m p).mp hbad h).trans ?_
  simp only [beq_iff_eq]
  rfl

theorem dequeStep_pop : dequeStep m p .pop = if dequeCount m p = 0 then (1, 0, [])
    else (0, (rd64 m (dequeRing m p (rd64 m (p + 8) - 1))).toNat, [(p + 8, (rd64 m (p + 8) - 1).toNat)]) := by
  obtain ⟨htop, hbot, hlg⟩ := dequeHeader m p
  unfold dequeStep
  simp only [htop, hbot, hlg, dequeCount_eq, toNat_pred]
  refine (if_neg fun hbad => (dequeBad_iff m p).mp hbad h).trans ?_
  simp only [beq_iff_eq, ← toNat_rd64]
  rfl

theorem dequeStep_steal : dequeStep m p .steal = if dequeCount m p = 0 then (1, 0, [])
    else (0, (rd64 m (dequeRing m p (rd64 m p))).toNat, [(p, (rd64 m p + 1).toNat)]) := by
  obtain ⟨htop, hbot, hlg⟩ := dequeHeader m p
  unfold dequeStep
  simp only [htop, hbot, hlg, dequeCount_eq, toNat_succ]
  refine (if_neg fun hbad => (dequeBad_iff m p).mp hbad h).trans ?_
  simp only [beq_iff_eq, ← toNat_rd64]
  rfl

end

section

variable {s : State} {f : Flight} {va : BitVec 64} {ds : List Stor} {p : Nat} {d e : Stor}

/-- What a deque request does at its port, by its step. -/
theorem portStep_deque {r : Req} (hr : r.onDeque) (hp : (f.spans.headD (0, 0)).1 = p) (m : Nat) : s.portStep f r va ds m =
    ((dequeStep s.mem p r).2.2.foldl (fun s x => s.write x.1 (leBytes 8 x.2)) s).answer f ds
      [.scalar (BitVec.ofNat 64 (dequeStep s.mem p r).1), .scalar (BitVec.ofNat 64 (dequeStep s.mem p r).2.1)] 0 0 := by
  subst hp
  rcases hr with rfl | rfl | ⟨x, rfl⟩ <;> rfl

theorem foldl_write_units (ws : List (Nat × Nat)) (s : State) :
    (ws.foldl (fun s x => s.write x.1 (leBytes 8 x.2)) s).units = s.units ∧
      (ws.foldl (fun s x => s.write x.1 (leBytes 8 x.2)) s).flights = s.flights ∧
      (ws.foldl (fun s x => s.write x.1 (leBytes 8 x.2)) s).cycle = s.cycle := by
  induction ws generalizing s with
  | nil => exact ⟨rfl, rfl, rfl⟩
  | cons x ws ih => exact ih _

/-- The memory that a deque's step leaves. -/
def dequeMem (m : List Host.Cell) (ws : List (Nat × Nat)) : List Host.Cell := ws.foldl (fun m x => wrBytes m x.1 (leBytes 8 x.2)) m

theorem foldl_write_mem (ws : List (Nat × Nat)) (s : State) : (ws.foldl (fun s x => s.write x.1 (leBytes 8 x.2)) s).mem = dequeMem s.mem ws := by
  unfold dequeMem
  induction ws generalizing s with
  | nil => rfl
  | cons x ws ih => exact ih _

/-- A deque request's step, with its status, its value and its writes. -/
theorem deque_goes {r : Req} (hr : r.onDeque) {st v : Nat} {ws : List (Nat × Nat)} (hq : dequeStep s.mem p r = (st, v, ws))
    (h : AtPort s f r va ds p) (hds : ds ≠ []) : Goes (exec .portSyncOperation s) fun t => t.mem = dequeMem s.mem ws ∧
      Answers f (ds.zip [.scalar (BitVec.ofNat 64 st), .scalar (BitVec.ofNat 64 v)]) 0 0 s t := by
  have hstep := portStep_deque (s := s) (va := va) (ds := ds) hr (atPort_place h) s.arg.m
  rw [hq] at hstep
  obtain ⟨hunits, hflights, hcycle⟩ := foldl_write_units ws s
  have hasked : asked f r s.arg.m = f := by rcases hr with rfl | rfl | ⟨x, rfl⟩ <;> rfl
  refine goes_port h hasked (by rw [hstep, State.answer_units, hunits]) ?_
  rw [hstep]
  refine ⟨by rw [State.answer_mem, foldl_write_mem], answers_answer hflights hcycle rfl (iff_of_false hds ?_)⟩
  obtain ⟨d, ds, rfl⟩ := List.exists_cons_of_ne_nil hds
  exact List.cons_ne_nil _ _

/-- DQPUSH at a well-formed deque (R208). -/
theorem push_goes {x : BitVec 64} (hmem : MemoryOk s) (hgood : DequeGood s.mem p) (h : AtPort s f (.push x) va [d] p) :
    Goes (exec .portSyncOperation s) fun t =>
      if dequeCount s.mem p = 2 ^ (rdByte s.mem (p + 16)).toNat then t.mem = s.mem ∧ Answers f [(d, .scalar 2)] 0 0 s t
      else rd64 t.mem (dequeRing s.mem p (rd64 s.mem (p + 8))) = x ∧ rd64 t.mem (p + 8) = rd64 s.mem (p + 8) + 1 ∧
        rd64 t.mem p = rd64 s.mem p ∧ Answers f [(d, .scalar 0)] 0 0 s t ∧
        ∀ a, (a < dequeRing s.mem p (rd64 s.mem (p + 8)) ∨ dequeRing s.mem p (rd64 s.mem (p + 8)) + 8 ≤ a) →
          (a < p + 8 ∨ p + 16 ≤ a) → rdByte t.mem a = rdByte s.mem a := by
  have hq := dequeStep_push s.mem p hgood x
  by_cases hfull : dequeCount s.mem p = 2 ^ (rdByte s.mem (p + 16)).toNat
  · simp only [if_pos hfull] at hq ⊢
    obtain ⟨t, hexec, hm, ha⟩ := deque_goes (.inr (.inr ⟨x, rfl⟩)) hq h (List.cons_ne_nil _ _)
    exact ⟨t, hexec, hm, ha⟩
  · simp only [if_neg hfull] at hq ⊢
    obtain ⟨t, hexec, hm, ha⟩ := deque_goes (.inr (.inr ⟨x, rfl⟩)) hq h (List.cons_ne_nil _ _)
    refine ⟨t, hexec, ?_⟩
    have hring : p + 64 ≤ dequeRing s.mem p (rd64 s.mem (p + 8)) := Nat.le_add_right _ _
    generalize dequeRing s.mem p (rd64 s.mem (p + 8)) = r at hm hring ⊢
    have hm : t.mem = wrBytes (wrBytes s.mem r (leBytes 8 x.toNat)) (p + 8) (leBytes 8 (rd64 s.mem (p + 8) + 1).toNat) := hm
    simp only [hm]
    refine ⟨?_, rd64_wrBytes _ _ (wf_wrBytes _ _ _ hmem) _, ?_, ha, fun a hr hp => ?_⟩
    · rw [rd64_wrBytes_out _ _ _ (by rw [length_leBytes]; omega), rd64_wrBytes _ _ hmem]
    · rw [rd64_wrBytes_out _ _ _ (by omega), rd64_wrBytes_out _ _ _ (by omega)]
    · rw [rdByte_wrBytes_out _ _ _ (by rw [length_leBytes]; omega), rdByte_wrBytes_out _ _ _ (by rwa [length_leBytes])]

/-- DQPOP at a well-formed deque (R208). -/
theorem pop_goes (hmem : MemoryOk s) (hgood : DequeGood s.mem p) (h : AtPort s f .pop va [d, e] p) : Goes (exec .portSyncOperation s) fun t =>
    if dequeCount s.mem p = 0 then t.mem = s.mem ∧ Answers f [(d, .scalar 1), (e, .scalar 0)] 0 0 s t
    else rd64 t.mem (p + 8) = rd64 s.mem (p + 8) - 1 ∧ Else (p + 8) 8 s t ∧
      Answers f [(d, .scalar 0), (e, .scalar (rd64 s.mem (dequeRing s.mem p (rd64 s.mem (p + 8) - 1))))] 0 0 s t := by
  have hq := dequeStep_pop s.mem p hgood
  by_cases hempty : dequeCount s.mem p = 0
  · simp only [if_pos hempty] at hq ⊢
    obtain ⟨t, hexec, hm, ha⟩ := deque_goes (.inl rfl) hq h (List.cons_ne_nil _ _)
    exact ⟨t, hexec, hm, ha⟩
  · simp only [if_neg hempty] at hq ⊢
    obtain ⟨t, hexec, hm, ha⟩ := deque_goes (.inl rfl) hq h (List.cons_ne_nil _ _)
    refine ⟨t, hexec, ?_⟩
    rw [BitVec.ofNat_toNat, BitVec.setWidth_eq] at ha
    have hm : t.mem = wrBytes s.mem (p + 8) (leBytes 8 (rd64 s.mem (p + 8) - 1).toNat) := hm
    exact ⟨by rw [hm, rd64_wrBytes _ _ hmem], else_of_mem hm (length_leBytes ..), ha⟩

/-- DQSTEAL at a well-formed deque (R208). -/
theorem steal_goes (hmem : MemoryOk s) (hgood : DequeGood s.mem p) (h : AtPort s f .steal va [d, e] p) : Goes (exec .portSyncOperation s) fun t =>
    if dequeCount s.mem p = 0 then t.mem = s.mem ∧ Answers f [(d, .scalar 1), (e, .scalar 0)] 0 0 s t
    else rd64 t.mem p = rd64 s.mem p + 1 ∧ Else p 8 s t ∧
      Answers f [(d, .scalar 0), (e, .scalar (rd64 s.mem (dequeRing s.mem p (rd64 s.mem p))))] 0 0 s t := by
  have hq := dequeStep_steal s.mem p hgood
  by_cases hempty : dequeCount s.mem p = 0
  · simp only [if_pos hempty] at hq ⊢
    obtain ⟨t, hexec, hm, ha⟩ := deque_goes (.inr (.inl rfl)) hq h (List.cons_ne_nil _ _)
    exact ⟨t, hexec, hm, ha⟩
  · simp only [if_neg hempty] at hq ⊢
    obtain ⟨t, hexec, hm, ha⟩ := deque_goes (.inr (.inl rfl)) hq h (List.cons_ne_nil _ _)
    refine ⟨t, hexec, ?_⟩
    rw [BitVec.ofNat_toNat, BitVec.setWidth_eq] at ha
    have hm : t.mem = wrBytes s.mem p (leBytes 8 (rd64 s.mem p + 1).toNat) := hm
    exact ⟨by rw [hm, rd64_wrBytes _ _ hmem], else_of_mem hm (length_leBytes ..), ha⟩

/-! ## Barriers (R209, R210) -/

/-- A malformed barrier, or one that is full. -/
def BarrierBad (m : List Host.Cell) (p : Nat) : Prop := (∃ k, 12 ≤ k ∧ k < 64 ∧ rdByte m (p + k) ≠ 0) ∨ ¬ rd32 m (p + 4) < rd32 m p

/-- A step's test of a barrier. -/
theorem barrierBad_iff (m : List Host.Cell) (p : Nat) : ((rdBytes m (p + 12) 52).any (· != 0) || (rd32 m p).toNat == 0
    || decide ((rd32 m p).toNat ≤ (rd32 m (p + 4)).toNat)) = true ↔ BarrierBad m p := by
  have hany := any_rdBytes_drop m (p + 12) 0 52
  rw [List.drop_zero] at hany
  rw [Bool.or_eq_true, Bool.or_eq_true, hany, beq_iff_eq, decide_eq_true_eq]
  unfold BarrierBad
  rw [BitVec.lt_def, Nat.not_lt]
  constructor
  · rintro ((⟨k, -, hk, hne⟩ | h) | h)
    · exact .inl ⟨12 + k, by omega, by omega, by rwa [← Nat.add_assoc]⟩
    all_goals exact .inr (by omega)
  · rintro (⟨k, hlo, hhi, hne⟩ | h)
    · refine .inl (.inl ⟨k - 12, Nat.zero_le _, by omega, ?_⟩)
      rwa [Nat.add_assoc, Nat.add_sub_cancel' hlo]
    · exact .inr h

/-- A malformed or full barrier is answered with all ones (R210). -/
theorem barrier_bad (hbad : BarrierBad s.mem p) (h : AtPort s f .bara va [d] p) : Goes (exec .portSyncOperation s) fun t =>
    t.mem = s.mem ∧ Answers f [(d, .scalar (BitVec.allOnes 64))] 0 0 s t := by
  have hplace : (f.spans.headD (0, 0)).1 = p := atPort_place h
  have hstep : s.portStep f .bara va [d] s.arg.m = s.answer f [d] [.scalar (BitVec.allOnes 64)] 0 0 := by
    unfold State.portStep
    simp only [hplace]
    exact if_pos ((barrierBad_iff _ _).mpr hbad)
  refine goes_port h rfl (by rw [hstep, State.answer_units]) ?_
  rw [hstep]
  exact ⟨State.answer_mem .., answers_one (.inr rfl) rfl rfl⟩

/-- The two words of a barrier after an arrival: the count and the phase (R210). -/
def barrierWords (m : List Host.Cell) (p : Nat) : Word × Word :=
  if rd32 m (p + 4) + 1 = rd32 m p then (0, rd32 m (p + 8) + 1) else (rd32 m (p + 4) + 1, rd32 m (p + 8))

/-- An arrival at a barrier writes its two words and is answered with the phase that it found (R210). -/
theorem barrier_goes (hgood : ¬ BarrierBad s.mem p) (h : AtPort s f .bara va [d] p) : Goes (exec .portSyncOperation s) fun t =>
    t.mem = wrBytes s.mem (p + 4) (leBytes 4 (barrierWords s.mem p).1.toNat ++ leBytes 4 (barrierWords s.mem p).2.toNat) ∧
      Answers f [(d, .scalar ((rd32 s.mem (p + 8)).setWidth 64))] 0 0 s t := by
  have hplace : (f.spans.headD (0, 0)).1 = p := atPort_place h
  have hless : rd32 s.mem (p + 4) < rd32 s.mem p := by_contra fun hn => hgood (.inr hn)
  have hfit : (rd32 s.mem (p + 4)).toNat + 1 < 2 ^ 32 := by
    have := (rd32 s.mem p).isLt
    rw [BitVec.lt_def] at hless
    omega
  have hnext : (rd32 s.mem (p + 4) + 1).toNat = (rd32 s.mem (p + 4)).toNat + 1 := (BitVec.toNat_add _ 1).trans (Nat.mod_eq_of_lt hfit)
  have hlast : ((rd32 s.mem (p + 4)).toNat + 1 == (rd32 s.mem p).toNat) = decide (rd32 s.mem (p + 4) + 1 = rd32 s.mem p) := by
    rw [← hnext, Bool.eq_iff_iff, beq_iff_eq, decide_eq_true_eq, BitVec.toNat_eq]
  have hturn : ((rd32 s.mem (p + 8)).toNat + 1) % 2 ^ 32 = (rd32 s.mem (p + 8) + 1).toNat := (BitVec.toNat_add _ 1).symm
  have hstep : s.portStep f .bara va [d] s.arg.m =
      (s.write (p + 4) (leBytes 4 (barrierWords s.mem p).1.toNat ++ leBytes 4 (barrierWords s.mem p).2.toNat)).answer f [d]
        [.scalar ((rd32 s.mem (p + 8)).setWidth 64)] 0 0 := by
    unfold State.portStep
    simp only [hplace]
    refine (if_neg fun hbad => hgood ((barrierBad_iff _ _).mp hbad)).trans ?_
    unfold barrierWords
    by_cases hl : rd32 s.mem (p + 4) + 1 = rd32 s.mem p
    · simp only [Nat.mul_zero, Nat.add_zero, Nat.mul_one, hlast, hl, decide_true, if_true, hturn, BitVec.ofNat_toNat]
      rfl
    · simp only [Nat.mul_zero, Nat.add_zero, Nat.mul_one, hlast, hl, decide_false, Bool.false_eq_true, if_false, BitVec.ofNat_toNat]
      rw [← hnext]
  refine goes_port h rfl (by rw [hstep, State.answer_units, State.write_units]) ?_
  rw [hstep]
  exact ⟨State.answer_mem .., answers_one (.inr rfl) rfl rfl⟩

/-- What the two words written read as. -/
theorem barrier_words (hmem : MemoryOk s) {t : State}
    (ht : t.mem = wrBytes s.mem (p + 4) (leBytes 4 (barrierWords s.mem p).1.toNat ++ leBytes 4 (barrierWords s.mem p).2.toNat)) :
    rd32 t.mem (p + 4) = (barrierWords s.mem p).1 ∧ rd32 t.mem (p + 8) = (barrierWords s.mem p).2 ∧ Else (p + 4) 8 s t := by
  have hcut (x y : Nat) (m : List Host.Cell) (q : Nat) : wrBytes m q (leBytes 4 x ++ leBytes 4 y) =
      wrBytes (wrBytes m q (leBytes 4 x)) (q + 4) (leBytes 4 y) := rfl
  refine ⟨?_, ?_, else_of_mem ht (by simp)⟩ <;> rw [ht, hcut]
  · rw [rd32_wrBytes_out _ _ _ (by omega), rd32_wrBytes _ _ hmem]
  · exact rd32_wrBytes _ _ (wf_wrBytes _ _ _ hmem) _

end

end Sys2Proof.Machine

namespace Sys2Proof.Machine

open Sys2Proof.Safety

/-! ## Flags at a port (R199, R201) -/

/-- AXR of a port holds the flags that it held and those of a result. -/
def Ored (s : State) (c : BitVec 3) (p : Nat) (fl : BitVec 5) (t : State) : Prop :=
  Tab.wf 0 (s.ctx c.toNat).axr = true → ∀ j, Tab.get 0 (t.ctx c.toNat).axr j =
    Tab.get 0 (s.ctx c.toNat).axr j ||| if j = portOf p then fl &&& 0x17 else 0

section

variable (s : State) (c : BitVec 3) (p : Nat) (fl : BitVec 5)

theorem State.axr_ored (hctxs : CtxsOk s) : Ored s c p fl (s.axr c p fl) := by
  intro hwf j
  unfold State.axr
  by_cases hfl : fl = 0
  · subst hfl
    rw [if_pos (by rfl)]
    split <;> exact (BitVec.or_zero).symm
  · rw [if_neg (mt beq_iff_eq.mp hfl), s.modCtx_ctx hctxs, if_pos rfl, Tab.get_set _ _ _ _ _ hwf]
    split
    · next hj => rw [hj]
    · exact (BitVec.or_zero).symm

theorem State.axr_ctxsOk (hctxs : CtxsOk s) : CtxsOk (s.axr c p fl) := by
  unfold State.axr
  split
  · exact hctxs
  · exact Tab.wf_set _ _ _ _ hctxs

theorem State.axr_wins (hctxs : CtxsOk s) (k : Nat) : ((s.axr c p fl).ctx k).wins = (s.ctx k).wins := by
  unfold State.axr
  split
  · rfl
  · rw [s.modCtx_ctx hctxs]
    split
    · next hk => rw [hk]
    · rfl

end

/-- AXR is a matter of the contexts. -/
theorem Ored.of_ctxs {s t t' : State} {c : BitVec 3} {p : Nat} {fl : BitVec 5} (h : Ored s c p fl t) (ht : t'.ctxs = t.ctxs) :
    Ored s c p fl t' := by
  have hctx : t'.ctx c.toNat = t.ctx c.toNat := by rw [State.ctx, State.ctx, ht]
  unfold Ored
  rw [hctx]
  exact h

/-! ## FP32 atomics and BN3 objects (R90, R91, R198, R199) -/

section

variable {s : State} {f : Flight} {va : BitVec 64} {ds : List Stor} {p : Nat} {d : Stor}

/-- An FP32 atomic at its port (R198). -/
theorem atom_float {o : BitVec 3} {u : Bool} {x : Word} (hmem : MemoryOk s) (hctxs : CtxsOk s) (hds : ds = [] ∨ ds = [d])
    {r : Res} (hr : atomOp o 2 u (rd32 s.mem p).toNat x.toNat = r) (h : AtPort s f (.atom o 2 u (x.setWidth 64)) va ds p) :
    Goes (exec .portSyncOperation s) fun t => rd32 t.mem p = BitVec.ofNat 32 r.1 ∧ Else p 4 s t ∧
      Answers f (ds.map fun q => (q, .scalar ((rd32 s.mem p).setWidth 64))) r.2 0 s t ∧ Ored s (s.flightCtx f) p r.2 t := by
  have hx : (x.setWidth 64 : BitVec 64).toNat % 2 ^ (8 * 4) = x.toNat := by
    have := x.isLt
    simp only [BitVec.toNat_setWidth]
    omega
  have hval : scalarVal (2 == (0 : BitVec 2)) 4 (rd32 s.mem p).toNat = .scalar ((rd32 s.mem p).setWidth 64) := by
    simp [scalarVal]
  have hstep : s.portStep f (.atom o 2 u (x.setWidth 64)) va ds s.arg.m =
      ((s.write p (leBytes 4 r.1)).axr (s.flightCtx f) p r.2).answer f ds [.scalar ((rd32 s.mem p).setWidth 64)] r.2 0 := by
    have hplace : (f.spans.headD (0, 0)).1 = p := atPort_place h
    have hsize : (Req.atom o 2 u (x.setWidth 64)).size = 4 := rfl
    unfold State.portStep
    simp only [hplace, hsize, hx, ← toNat_rd32, hval, hr]
    rfl
  refine goes_port h rfl (by rw [hstep, State.answer_units, State.axr_units, State.write_units]) ?_
  rw [hstep]
  refine ⟨?_, else_of_mem (by rw [State.answer_mem, State.axr_mem, State.write_mem]) (length_leBytes 4 r.1),
    answers_one hds (by rw [State.axr_flights, State.write_flights]) (by rw [State.axr_cycle, State.write_cycle]),
    Ored.of_ctxs (State.axr_ored (s.write p (leBytes 4 r.1)) _ p r.2 hctxs) (State.answer_ctxs ..)⟩
  rw [State.answer_mem, State.axr_mem, State.write_mem, rd32_wrBytes_nat _ _ hmem]

theorem Bn3.length_bytes (o : Bn3) : o.bytes.length = 32 := by
  unfold Bn3.bytes
  simp only [List.length_append, length_leBytes]

/-- A step that writes an object of 32 bytes, and nothing else, and ends the request. -/
theorem object_goes {r : Req} {bs : List Byte} (hmem : MemoryOk s) (hbs : bs.length = 32) (h : AtPort s f r va [] p)
    (hasked : asked f r s.arg.m = f) (hstep : (s.portStep f r va [] s.arg.m).units = s.units ∧
      (s.portStep f r va [] s.arg.m).mem = wrBytes s.mem p bs ∧
      (s.portStep f r va [] s.arg.m).flights = s.flights.filter (·.id != f.id)) :
    Goes (exec .portSyncOperation s) fun t => rdBytes t.mem p 32 = bs ∧ Else p 32 s t ∧ Answers f [] 0 0 s t := by
  obtain ⟨hunits, hm, hflights⟩ := hstep
  refine goes_port h hasked hunits ⟨?_, else_of_mem hm hbs, answers_nil hflights⟩
  rw [hm, ← hbs, rdBytes_wrBytes _ _ _ hmem]

/-- A deposit in a BN3 object (R91). -/
theorem rsb_goes {x : Word} (hmem : MemoryOk s) (hm : s.arg.m = 0) (h : AtPort s f (.rsb x) va [] p) :
    Goes (exec .portSyncOperation s) fun t =>
      rdBytes t.mem p 32 = ((bn3Of (rdBytes s.mem p 32)).deposit (decodeF fp32 x.toNat)).bytes ∧ Else p 32 s t ∧ Answers f [] 0 0 s t := by
  have hp : f.place = p := atPort_place h
  have hentry : s.entryAt f = State.dropFlight
      { s with mem := wrBytes s.mem p ((bn3Of (rdBytes s.mem p 32)).deposit (decodeF fp32 x.toNat)).bytes } f := by
    unfold State.entryAt
    simp only [atPort_what h, hp]
  obtain ⟨ws, halone⟩ := s.entryStep_alone f
  have hstep : s.portStep f (.rsb x) va [] s.arg.m = _ := (portStep_entry _ rfl va [] _).trans (hm ▸ halone)
  rw [hentry] at hstep
  refine object_goes hmem (Bn3.length_bytes _) h rfl ?_
  rw [hstep]
  exact ⟨rfl, rfl, rfl⟩

/-- A BN3 object initialised (R91). -/
theorem binit_goes {e : BitVec 16} (hmem : MemoryOk s) (h : AtPort s f (.binit e) va [] p) : Goes (exec .portSyncOperation s) fun t =>
    rdBytes t.mem p 32 = leBytes 8 (e.toNat * 2 ^ 16) ++ List.replicate 24 0 ∧ Else p 32 s t ∧ Answers f [] 0 0 s t := by
  have hp : (f.spans.headD (0, 0)).1 = p := atPort_place h
  have hstep : s.portStep f (.binit e) va [] s.arg.m =
      (s.write p (leBytes 8 (e.toNat * 2 ^ 16) ++ List.replicate 24 0)).dropFlight f := by
    unfold State.portStep
    simp only [hp]
  refine object_goes hmem (by rw [List.length_append, length_leBytes, List.length_replicate]) h rfl ?_
  rw [hstep]
  generalize leBytes 8 (e.toNat * 2 ^ 16) ++ List.replicate 24 0 = bs
  exact ⟨rfl, rfl, rfl⟩

/-- A BN3 object normalised (R91). -/
theorem bnorm_goes (hmem : MemoryOk s) (h : AtPort s f .bnorm va [] p) : Goes (exec .portSyncOperation s) fun t =>
    rdBytes t.mem p 32 = (bn3Of (rdBytes s.mem p 32)).normalise.bytes ∧ Else p 32 s t ∧ Answers f [] 0 0 s t := by
  have hp : (f.spans.headD (0, 0)).1 = p := atPort_place h
  refine object_goes hmem (Bn3.length_bytes _) h rfl ⟨rfl, ?_, rfl⟩
  show wrBytes s.mem (f.spans.headD (0, 0)).1 (bn3Of (rdBytes s.mem (f.spans.headD (0, 0)).1 32)).normalise.bytes = _
  rw [hp]

/-! ### BFIN (R91, R203 to R204) -/

/-- The objects that a BFIN has finished. -/
abbrev Finished := List (Nat × Word)

/-- The value of object i of those finished, 0 where it has not been. -/
def Finished.value (got : Finished) (i : Nat) : Word := ((got.find? fun g => g.1 == i).map (·.2)).getD 0

/-- The number of the finished object. -/
def finished (s : State) (p : Nat) : Word := BitVec.ofNat 32 (bn3Of (rdBytes s.mem p 32)).finish.1

/-- A step of a BFIN finishes one object: there are more, or the answer holds them all (R91; log entry 91). -/
theorem portStep_bfin {vec : Bool} {n : Nat} {got : Finished} {fl : BitVec 5} {m : Nat} (hspan : f.spans[m]? = some (p, 32))
    (hnew : ∀ g ∈ got, g.1 ≠ m) :
    let q := bn3Of (rdBytes s.mem p 32)
    let all : Finished := (m, finished s p) :: got
    s.portStep f (.bfin vec n got fl) va ds m = if all.length < n
      then (s.axr (s.flightCtx f) p q.finish.2).modFlight f fun g => { g with what := .req (.bfin vec n all (fl ||| q.finish.2)) va ds }
      else (s.axr (s.flightCtx f) p q.finish.2).answer f ds
        [if vec then .runs (((List.range n).map all.value).mapIdx fun i v => ⟨v, 1, i == 0⟩)
          else .scalar ((((List.range n).map all.value).headD 0).setWidth 64)] (fl ||| q.finish.2) 0 := by
  intro q all
  have hany : (got.any fun g => g.1 == m) = false := by
    rw [List.any_eq_false]
    exact fun g hg => mt beq_iff_eq.mp (hnew g hg)
  have hvalue (i : Nat) : (match all.find? fun g => g.1 == i with | some g => g.2 | none => 0) = all.value i := by
    unfold Finished.value
    cases all.find? fun g => g.1 == i <;> rfl
  unfold State.portStep
  simp only [hspan, hany, Bool.false_eq_true, if_false]
  refine if_congr Iff.rfl rfl ?_
  rw [← funext hvalue]
  rfl

/-- The runs of a vector of words, the first of which begins it. -/
theorem mapIdx_runs (n : Nat) (v : Nat → Word) : ((List.range n).map v).mapIdx (fun i w => (⟨w, 1, i == 0⟩ : Run)) =
    (List.range n).map fun i => ⟨v i, 1, decide (i = 0)⟩ := by
  refine List.ext_getElem (by simp) fun i hi _ => ?_
  simp only [List.getElem_mapIdx, List.getElem_map, List.getElem_range]
  rfl

/-- The runs of all objects, of which the last is number m. -/
theorem Finished.map_runs (got : Finished) (m n : Nat) (made : Word) :
    ((List.range n).map fun i => (⟨Finished.value ((m, made) :: got) i, 1, decide (i = 0)⟩ : Run)) =
      (List.range n).map fun i => ⟨if i = m then made else got.value i, 1, decide (i = 0)⟩ := by
  refine List.map_congr_left fun i _ => ?_
  unfold Finished.value
  by_cases hi : i = m
  · subst hi
    simp
  · rw [List.find?_cons_of_neg (by simpa using Ne.symm hi), if_neg hi]

/-- A BFIN of one object is answered with its number (R91). -/
theorem bfin_goes (hctxs : CtxsOk s) (hspans : f.spans = [(p, 32)]) (hm : s.arg.m = 0) (h : AtPort s f (.bfin false 1 [] 0) va [d] p) :
    let q := (bn3Of (rdBytes s.mem p 32)).finish
    Goes (exec .portSyncOperation s) fun t => t.mem = s.mem ∧ Ored s (s.flightCtx f) p q.2 t ∧
      Answers f [(d, .scalar ((BitVec.ofNat 32 q.1).setWidth 64))] q.2 0 s t := by
  intro q
  have hspan : f.spans[0]? = some (p, 32) := by rw [hspans]; rfl
  have hasked : asked f (.bfin false 1 [] 0) s.arg.m = f := by
    rw [hm]
    show { f with spans := (f.spans[0]?).toList } = f
    rw [hspan, Option.toList_some, ← hspans]
  have hstep := portStep_bfin (s := s) (va := va) (ds := [d]) (vec := false) (n := 1) (fl := 0) hspan (fun _ hg => absurd hg List.not_mem_nil)
  have hstep : s.portStep f (.bfin false 1 [] 0) va [d] s.arg.m =
      (s.axr (s.flightCtx f) p q.2).answer f [d] [.scalar ((BitVec.ofNat 32 q.1).setWidth 64)] q.2 0 := by
    rw [hm]
    have hflags : (0 ||| q.2 : BitVec 5) = q.2 := BitVec.zero_or
    refine hstep.trans ((if_neg (Nat.lt_irrefl 1)).trans ?_)
    rw [hflags]
    rfl
  refine goes_port h hasked (by rw [hstep, State.answer_units, State.axr_units]) ?_
  rw [hstep]
  exact ⟨by rw [State.answer_mem, State.axr_mem], (s.axr_ored _ p q.2 hctxs).of_ctxs (State.answer_ctxs ..),
    answers_one (.inr rfl) (State.axr_flights ..) (State.axr_cycle ..)⟩

/-- A step of a vector BFIN finishes one object (R91; log entry 91). -/
theorem bfinV_goes {P : State → Prop} {n : Nat} {got : Finished} {fl : BitVec 5} (hctxs : CtxsOk s)
    (hget : s.flights[s.arg.n]? = some f) (hwhat : f.what = .req (.bfin true n got fl) va [d]) (hparked : f.parked = false)
    (hbad : f.bad = none) (hspan : f.spans[s.arg.m]? = some (p, 32)) (hmay : s.mayPerform { f with spans := [(p, 32)] } = true)
    (hnew : ∀ g ∈ got, g.1 ≠ s.arg.m)
    (hP : let q := (bn3Of (rdBytes s.mem p 32)).finish
      let all : Finished := (s.arg.m, finished s p) :: got
      ∀ t : State, t.flights = s.flights → t.cycle = s.cycle → P (if got.length + 1 < n
        then t.modFlight f fun g => { g with what := .req (.bfin true n all (fl ||| q.2)) va [d] }
        else t.answer f [d] [.runs ((List.range n).map fun i => ⟨all.value i, 1, decide (i = 0)⟩)] (fl ||| q.2) 0)) :
    let q := (bn3Of (rdBytes s.mem p 32)).finish
    Goes (exec .portSyncOperation s) fun t => t.mem = s.mem ∧ t.units = s.units ∧ Ored s (s.flightCtx f) p q.2 t ∧ P t := by
  intro q
  have hasked : asked f (.bfin true n got fl) s.arg.m = { f with spans := [(p, 32)] } := by
    show { f with spans := (f.spans[s.arg.m]?).toList } = _
    rw [hspan]
    rfl
  have hstep := portStep_bfin (s := s) (va := va) (ds := [d]) (vec := true) (n := n) (fl := fl) hspan hnew
  simp only [if_true, mapIdx_runs, List.length_cons] at hstep
  have hP := hP (s.axr (s.flightCtx f) p q.2) (State.axr_flights ..) (State.axr_cycle ..)
  rw [← hstep] at hP
  have hthree : (s.portStep f (.bfin true n got fl) va [d] s.arg.m).units = s.units ∧
      (s.portStep f (.bfin true n got fl) va [d] s.arg.m).mem = s.mem ∧
      (s.portStep f (.bfin true n got fl) va [d] s.arg.m).ctxs = (s.axr (s.flightCtx f) p q.2).ctxs := by
    have hsame : (s.axr (s.flightCtx f) p q.2).units = s.units ∧ (s.axr (s.flightCtx f) p q.2).mem = s.mem :=
      ⟨State.axr_units .., State.axr_mem ..⟩
    rw [hstep]
    generalize s.axr (s.flightCtx f) p q.2 = t at hsame ⊢
    obtain ⟨hunits, hmem⟩ := hsame
    split
    · exact ⟨hunits, hmem, rfl⟩
    · rw [State.answer_units, State.answer_mem, State.answer_ctxs]
      exact ⟨hunits, hmem, rfl⟩
  obtain ⟨hunits, hmem, hctx⟩ := hthree
  exact goes_asked hget hwhat hparked hbad (by rw [hasked]; exact hmay) hunits ⟨hmem, hunits, (s.axr_ored _ p q.2 hctxs).of_ctxs hctx, hP⟩

end

end Sys2Proof.Machine

namespace Sys2Proof.Machine

open Sys2Proof.Safety

theorem TasksStay.pend {s t : State} (h : TasksStay s t) (u : Nat) : (t.unit u).disp.pend = (s.unit u).disp.pend := (h.2 u).2.2.2

/-! ## Ordered windows (R205, R206) -/

section

variable (s : State) (c : BitVec 3) (w : BitVec 6) (hctxs : CtxsOk s)
include hctxs

theorem State.setWin_ctxsOk (x : Option Win) : CtxsOk (s.setWin c w x) := Tab.wf_set _ _ _ _ hctxs

theorem State.setWin_wins (x : Option Win) : ((s.setWin c w x).ctx c.toNat).wins = Tab.set none (s.ctx c.toNat).wins w.toNat x := by
  rw [State.setWin, s.modCtx_ctx hctxs, if_pos rfl]

theorem State.setWin_some (x : Win) : Tab.get none ((s.setWin c w (some x)).ctx c.toNat).wins w.toNat = some x := by
  rw [s.setWin_wins c w hctxs]
  exact Tab.get_set_same_of_ne _ _ _ (Option.some_ne_none x)

theorem State.setWin_none (hwf : Tab.wf none (s.ctx c.toNat).wins = true) :
    Tab.get none ((s.setWin c w none).ctx c.toNat).wins w.toNat = none := by
  rw [s.setWin_wins c w hctxs, Tab.get_set _ _ _ _ _ hwf, if_pos rfl]

end

/-- The memory that the entries of a window leave, applied in the order of address and identifier (R205). -/
def windowMem (m : List Host.Cell) (q : List (Nat × Word × Word)) : List Host.Cell :=
  (sortReqs q).foldl (fun m z => wrBytes m z.1 (leBytes 4 (addWord m z.1 z.2.2).1)) m

/-- One entry of a window applied. -/
def State.applyReq (s : State) (c : BitVec 3) (z : Nat × Word × Word) : State :=
  (s.write z.1 (leBytes 4 (addWord s.mem z.1 z.2.2).1)).axr c z.1 (addWord s.mem z.1 z.2.2).2

theorem State.applyWin_eq (s : State) (c : BitVec 3) (w : BitVec 6) (x : Win) :
    s.applyWin c w x = ((sortReqs x.queue).foldl (fun s z => s.applyReq c z) s).setWin c w none := rfl

/-- What the entries of a window leave alone. -/
theorem State.foldl_applyReq (c : BitVec 3) (l : List (Nat × Word × Word)) (s : State) :
    let t := l.foldl (fun s z => s.applyReq c z) s
    t.mem = l.foldl (fun m z => wrBytes m z.1 (leBytes 4 (addWord m z.1 z.2.2).1)) s.mem ∧ t.units = s.units ∧ t.flights = s.flights ∧
      t.cycle = s.cycle ∧ (CtxsOk s → CtxsOk t ∧ ∀ k, (t.ctx k).wins = (s.ctx k).wins) := by
  induction l generalizing s with
  | nil => exact ⟨rfl, rfl, rfl, rfl, fun h => ⟨h, fun _ => rfl⟩⟩
  | cons z l ih =>
    obtain ⟨hmem, hunits, hflights, hcycle, hctxs⟩ := ih (s.applyReq c z)
    have hmem₁ : (s.applyReq c z).mem = wrBytes s.mem z.1 (leBytes 4 (addWord s.mem z.1 z.2.2).1) := State.axr_mem ..
    refine ⟨hmem.trans (by rw [hmem₁]; rfl), hunits.trans (State.axr_units ..), hflights.trans (State.axr_flights ..),
      hcycle.trans (State.axr_cycle ..), fun h => ?_⟩
    have hok : CtxsOk (s.write z.1 (leBytes 4 (addWord s.mem z.1 z.2.2).1)) := h
    obtain ⟨hok', hwins⟩ := hctxs (State.axr_ctxsOk _ _ _ _ hok)
    exact ⟨hok', fun k => (hwins k).trans (State.axr_wins _ _ _ _ hok k)⟩

section

variable (s : State) (c : BitVec 3) (w : BitVec 6) (x : Win)

theorem State.applyWin_mem : (s.applyWin c w x).mem = windowMem s.mem x.queue := (State.foldl_applyReq c (sortReqs x.queue) s).1

theorem State.applyWin_units : (s.applyWin c w x).units = s.units := (State.foldl_applyReq c (sortReqs x.queue) s).2.1

theorem State.applyWin_flights : (s.applyWin c w x).flights = s.flights := (State.foldl_applyReq c (sortReqs x.queue) s).2.2.1

theorem State.applyWin_cycle : (s.applyWin c w x).cycle = s.cycle := (State.foldl_applyReq c (sortReqs x.queue) s).2.2.2.1

/-- A window that is applied is closed. -/
theorem State.applyWin_shut (hctxs : CtxsOk s) (hwf : Tab.wf none (s.ctx c.toNat).wins = true) :
    Tab.get none ((s.applyWin c w x).ctx c.toNat).wins w.toNat = none := by
  obtain ⟨-, -, -, -, hkeep⟩ := State.foldl_applyReq c (sortReqs x.queue) s
  obtain ⟨hok, hwins⟩ := hkeep hctxs
  rw [State.applyWin_eq]
  exact State.setWin_none _ c w hok (by rw [hwins]; exact hwf)

end

section

variable {s : State} {f : Flight} {va : BitVec 64} {p : Nat} {w : BitVec 6} {v : Win}

/-- An entry of an open window waits in its queue, or is the last and has the whole window applied (R205). -/
theorem rso_goes {x y : Word} (hctxs : CtxsOk s) (hv : s.win (s.flightCtx f) w = some v) (hopen : v.opened = true)
    (hport : portOf v.place = portOf p) (h : AtPort s f (.rso w y x) va [] p) : Goes (exec .portSyncOperation s) fun t =>
      Answers f [] 0 0 s t ∧
        ((v.queue ++ [(p, y, x)]).length < v.expect → t.mem = s.mem ∧
          Tab.get none (t.ctx (s.flightCtx f).toNat).wins w.toNat = some { v with queue := v.queue ++ [(p, y, x)] }) ∧
        (v.expect ≤ (v.queue ++ [(p, y, x)]).length → t.mem = windowMem s.mem (v.queue ++ [(p, y, x)]) ∧
          (Tab.wf none (s.ctx (s.flightCtx f).toNat).wins = true → Tab.get none (t.ctx (s.flightCtx f).toNat).wins w.toNat = none)) := by
  have hp : (f.spans.headD (0, 0)).1 = p := atPort_place h
  have hok : (v.opened && portOf v.place == portOf p) = true := by rw [hopen, hport, beq_self_eq_true]; rfl
  obtain ⟨z, hz⟩ : ∃ z : Win, z = { v with queue := v.queue ++ [(p, y, x)] } := ⟨_, rfl⟩
  have hstep : s.portStep f (.rso w y x) va [] s.arg.m = if z.expect ≤ z.queue.length
      then ((s.setWin (s.flightCtx f) w (some z)).dropFlight f).applyWin (s.flightCtx f) w z
      else (s.setWin (s.flightCtx f) w (some z)).dropFlight f := by
    subst hz
    unfold State.portStep
    simp only [hp, hv, hok, if_true]
  have hq : v.queue ++ [(p, y, x)] = z.queue := by rw [hz]
  have hx : v.expect = z.expect := by rw [hz]
  generalize hr : (s.setWin (s.flightCtx f) w (some z)).dropFlight f = r at hstep
  have hunits : r.units = s.units := by rw [← hr]; rfl
  have hmem : r.mem = s.mem := by rw [← hr]; rfl
  have hflights : r.flights = s.flights.filter (·.id != f.id) := by rw [← hr]; rfl
  have hrctx : CtxsOk r := hr ▸ s.setWin_ctxsOk _ w hctxs (some z)
  have hwins : (r.ctx (s.flightCtx f).toNat).wins = Tab.set none (s.ctx (s.flightCtx f).toNat).wins w.toNat (some z) :=
    hr ▸ s.setWin_wins _ w hctxs (some z)
  rw [← hz, hq, hx]
  by_cases hlast : z.expect ≤ z.queue.length
  · rw [if_pos hlast] at hstep
    refine goes_port h rfl (by rw [hstep, State.applyWin_units, hunits]) ?_
    rw [hstep]
    refine ⟨answers_nil (by rw [State.applyWin_flights, hflights]), fun hless => absurd hlast (Nat.not_le.mpr hless), fun _ =>
      ⟨by rw [State.applyWin_mem, hmem], fun hwf => r.applyWin_shut _ w z hrctx ?_⟩⟩
    rw [hwins]
    exact Tab.wf_set _ _ _ _ hwf
  · rw [if_neg hlast] at hstep
    refine goes_port h rfl (by rw [hstep, hunits]) ?_
    rw [hstep]
    refine ⟨answers_nil hflights, fun _ => ⟨hmem, ?_⟩, fun hge => absurd hge hlast⟩
    rw [hwins]
    exact Tab.get_set_same_of_ne _ _ _ (Option.some_ne_none z)

/-- An entry of no open window is a logged fault (R205). -/
theorem rso_fault {x y : Word} (hno : ∀ v, s.win (s.flightCtx f) w = some v → ¬ (v.opened = true ∧ portOf v.place = portOf p))
    (h : AtPort s f (.rso w y x) va [] p) : Goes (exec .portSyncOperation s) fun t =>
      t = (s.logFault (s.flightWho f) ((prot 0x13 va).on pAT .wr)).dropFlight f := by
  have hp : (f.spans.headD (0, 0)).1 = p := atPort_place h
  have hstep : s.portStep f (.rso w y x) va [] s.arg.m = (s.logFault (s.flightWho f) ((prot 0x13 va).on pAT .wr)).dropFlight f := by
    unfold State.portStep
    simp only [hp]
    cases hv : s.win (s.flightCtx f) w with
    | none => rfl
    | some v =>
      refine if_neg fun hboth => hno v hv ?_
      rwa [Bool.and_eq_true, beq_iff_eq] at hboth
  have hpend : ((s.portStep f (.rso w y x) va [] s.arg.m).unit f.unit).disp.pend = (s.unit f.unit).disp.pend := by
    rw [hstep]
    exact (s.logFault_tasks _ _).pend f.unit
  obtain ⟨hget, hwhat, hparked, hbad, hmay, -⟩ := h
  exact ⟨_, portStep_exec hget hwhat hparked hbad hmay, by rw [unlessOutranked_of_pend hpend, hstep]⟩

variable {d : Stor} {k : Nat}

/-- What a request that leaves memory and units alone, and is answered with one value, leaves. -/
theorem goes_answer {r : Req} {q : State} {x : BitVec 64} {extra : Nat} (h : AtPort s f r va [d] p) (hasked : asked f r s.arg.m = f)
    (hstep : s.portStep f r va [d] s.arg.m = q.answer f [d] [.scalar x] 0 extra)
    (hq : q.units = s.units ∧ q.flights = s.flights ∧ q.cycle = s.cycle) :
    Goes (exec .portSyncOperation s) fun t => t.mem = q.mem ∧ t.ctxs = q.ctxs ∧ Answers f [(d, .scalar x)] 0 extra s t := by
  obtain ⟨hunits, hflights, hcycle⟩ := hq
  refine goes_port h hasked (by rw [hstep, State.answer_units, hunits]) ?_
  rw [hstep]
  exact ⟨State.answer_mem .., State.answer_ctxs .., answers_one (.inr rfl) hflights hcycle⟩

/-- A ROOPEN of a window that is closing waits (R206; log entry 90). -/
theorem roopen_closing (hclosing : s.closing (s.flightCtx f) w = true) (h : AtPort s f (.roopen w k false) va [d] p) :
    Goes (exec .portSyncOperation s) fun t => t = s := by
  have hstep : s.portStep f (.roopen w k false) va [d] s.arg.m = s := by
    unfold State.portStep
    simp only [Bool.false_eq_true, if_false, hclosing, if_true]
  exact goes_port h rfl (by rw [hstep]) hstep

/-- One of a window that is there is answered with 1 (R206). -/
theorem roopen_there (hclosing : s.closing (s.flightCtx f) w = false) (hv : s.win (s.flightCtx f) w = some v)
    (h : AtPort s f (.roopen w k false) va [d] p) : Goes (exec .portSyncOperation s) fun t =>
      t.mem = s.mem ∧ t.ctxs = s.ctxs ∧ Answers f [(d, .scalar 1)] 0 (dirTrip v.place) s t := by
  have hplace : s.winPlace (s.flightCtx f) w = [v.place] := by
    have hv : Tab.get none (s.ctx (s.flightCtx f).toNat).wins w.toNat = some v := hv
    rw [State.winPlace, hv]
  refine goes_answer h rfl ?_ ⟨rfl, rfl, rfl⟩
  unfold State.portStep
  simp only [Bool.false_eq_true, if_false, hclosing, hv, Option.isSome_some, if_true, hplace]
  rfl

/-- One for which the port has no entries left is answered with 2 (R206). -/
theorem roopen_full (hclosing : s.closing (s.flightCtx f) w = false) (hv : s.win (s.flightCtx f) w = none)
    (hk : 4096 < k + s.reserved (s.flightCtx f) (portOf p)) (hone : 1 ≤ k) (h : AtPort s f (.roopen w k false) va [d] p) :
    Goes (exec .portSyncOperation s) fun t => t.mem = s.mem ∧ t.ctxs = s.ctxs ∧ Answers f [(d, .scalar 2)] 0 (dirTrip p) s t := by
  have hp : (f.spans.headD (0, 0)).1 = p := atPort_place h
  have hfull : 4096 - s.reserved (s.flightCtx f) (portOf p) < k := by omega
  refine goes_answer h rfl ?_ ⟨rfl, rfl, rfl⟩
  unfold State.portStep
  simp only [hp, Bool.false_eq_true, if_false, hclosing, hv, Option.isSome_none, hfull, if_true]

/-- A flight that goes on to its window's port with another request. -/
def State.turned (s : State) (f : Flight) (due : Nat) (r : Req) (va : BitVec 64) (ds : List Stor) : List Flight :=
  s.flights.map fun g => if g.id == f.id then { g with due := due, what := .req r va ds } else g

/-- Any other is entered, and goes on to the window's port (R206). -/
theorem roopen_enters (hctxs : CtxsOk s) (hclosing : s.closing (s.flightCtx f) w = false) (hv : s.win (s.flightCtx f) w = none)
    (hk : k + s.reserved (s.flightCtx f) (portOf p) ≤ 4096) (h : AtPort s f (.roopen w k false) va [d] p) :
    Goes (exec .portSyncOperation s) fun t => t.mem = s.mem ∧
      Tab.get none (t.ctx (s.flightCtx f).toNat).wins w.toNat = some ⟨p, false, k, []⟩ ∧
      t.flights = s.turned f (s.cycle + dirTrip p / 2) (.roopen w k true) va [d] := by
  have hp : (f.spans.headD (0, 0)).1 = p := atPort_place h
  have hroom : ¬ 4096 - s.reserved (s.flightCtx f) (portOf p) < k := by omega
  have hstep : s.portStep f (.roopen w k false) va [d] s.arg.m =
      (s.setWin (s.flightCtx f) w (some ⟨p, false, k, []⟩)).modFlight f fun g =>
        { g with due := s.cycle + dirTrip p / 2, what := .req (.roopen w k true) va [d] } := by
    unfold State.portStep
    simp only [hp, Bool.false_eq_true, if_false, hclosing, hv, Option.isSome_none, hroom]
  refine goes_port h rfl (by rw [hstep]; rfl) ?_
  rw [hstep]
  exact ⟨rfl, s.setWin_some _ w hctxs _, rfl⟩

/-- At the port it opens the window (R206). -/
theorem roopen_opens (hctxs : CtxsOk s) (hv : s.win (s.flightCtx f) w = some v) (h : AtPort s f (.roopen w k true) va [d] p) :
    Goes (exec .portSyncOperation s) fun t => t.mem = s.mem ∧
      Tab.get none (t.ctx (s.flightCtx f).toNat).wins w.toNat = some { v with opened := true } ∧
      Answers f [(d, .scalar 0)] 0 (dirTrip p / 2) s t := by
  have hp : (f.spans.headD (0, 0)).1 = p := atPort_place h
  have hstep : s.portStep f (.roopen w k true) va [d] s.arg.m =
      (s.setWin (s.flightCtx f) w (some { v with opened := true })).answer f [d] [.scalar 0] 0 (dirTrip p / 2) := by
    unfold State.portStep
    simp only [hp, if_true, hv]
  obtain ⟨t, hexec, hmem, hctx, ha⟩ := goes_answer h rfl hstep ⟨rfl, rfl, rfl⟩
  refine ⟨t, hexec, hmem, ?_, ha⟩
  have hwin := s.setWin_some (s.flightCtx f) w hctxs { v with opened := true }
  rwa [State.ctx, ← hctx, ← State.ctx] at hwin

/-- A ROCLOSE of no window is answered with 3 (R206). -/
theorem roclose_none {u : Bool} (hv : s.win (s.flightCtx f) w = none) (h : AtPort s f (.roclose w u) va [d] p) :
    Goes (exec .portSyncOperation s) fun t => t.mem = s.mem ∧
      Answers f [(d, .scalar 3)] 0 (if u = true then dirTrip p / 2 else 0) s t := by
  have hp : f.place = p := atPort_place h
  have hstep : s.portStep f (.roclose w u) va [d] s.arg.m =
      s.answer f [d] [.scalar 3] 0 (if u = true then dirTrip p / 2 else 0) := by
    unfold State.portStep
    simp only [hp, hv]
  obtain ⟨t, hexec, hmem, -, ha⟩ := goes_answer h rfl hstep ⟨rfl, rfl, rfl⟩
  exact ⟨t, hexec, hmem, ha⟩

/-- One at the directory goes on to the window's port (R206). -/
theorem roclose_turns (hv : s.win (s.flightCtx f) w = some v) (hclosing : s.closing (s.flightCtx f) w = false)
    (h : AtPort s f (.roclose w false) va [d] p) : Goes (exec .portSyncOperation s) fun t => t = s.modFlight f fun g => { g with
      due := s.cycle + dirTrip v.place / 2, spans := [(v.place, 0)], what := .req (.roclose w true) va [d] } := by
  have hstep : s.portStep f (.roclose w false) va [d] s.arg.m =
      s.modFlight f fun g => { g with
        due := s.cycle + dirTrip v.place / 2, spans := [(v.place, 0)], what := .req (.roclose w true) va [d] } := by
    unfold State.portStep
    simp [hv, hclosing]
  exact goes_port h rfl (by rw [hstep]; rfl) hstep

/-- One at the port applies the window (R205, R206). -/
theorem roclose_applies (hctxs : CtxsOk s) (hv : s.win (s.flightCtx f) w = some v) (hopen : v.opened = true)
    (h : AtPort s f (.roclose w true) va [d] p) : Goes (exec .portSyncOperation s) fun t => t.mem = windowMem s.mem v.queue ∧
      (Tab.wf none (s.ctx (s.flightCtx f).toNat).wins = true → Tab.get none (t.ctx (s.flightCtx f).toNat).wins w.toNat = none) ∧
      Answers f [(d, .scalar (BitVec.ofNat 64 v.queue.length))] 0 (dirTrip v.place / 2) s t := by
  have hstep : s.portStep f (.roclose w true) va [d] s.arg.m =
      (s.applyWin (s.flightCtx f) w v).answer f [d] [.scalar (BitVec.ofNat 64 v.queue.length)] 0 (dirTrip v.place / 2) := by
    unfold State.portStep
    simp [hv, hopen]
  obtain ⟨t, hexec, hmem, hctx, ha⟩ := goes_answer h rfl hstep
    ⟨State.applyWin_units .., State.applyWin_flights .., State.applyWin_cycle ..⟩
  refine ⟨t, hexec, by rw [hmem, State.applyWin_mem], fun hwf => ?_, ha⟩
  have hshut := s.applyWin_shut (s.flightCtx f) w v hctxs hwf
  rwa [State.ctx, ← hctx, ← State.ctx] at hshut

end

end Sys2Proof.Machine

namespace Sys2Proof.Machine

open Sys2Proof.Safety

/-! ## Exact sums of a BN3 object (R90, R91) -/

/-- The sum that the three bins hold, in units of the lowest. -/
def Bn3.value (o : Bn3) : Int := o.b0 + o.b1 * 2 ^ 32 + o.b2 * 2 ^ 64

/-- A number below 2^96 is the sum of its three parts of 32 bits. -/
theorem three_parts (q : Nat) (h : q < 2 ^ 96) : q % 2 ^ 32 + q / 2 ^ 32 % 2 ^ 32 * 2 ^ 32 + q / 2 ^ 64 % 2 ^ 32 * 2 ^ 64 = q := by
  omega

/-- A deposit below the top of the bins adds the number exactly (R91). -/
theorem Bn3.deposit_num (o : Bn3) (neg : Bool) (m : Nat) (z : Int) (hcnt : o.dcnt < 2 ^ 31) (hlow : o.etop - 95 ≤ z)
    (hhigh : z + (Nat.log2 m : Int) ≤ o.etop) :
    (o.deposit (.num neg m z)).value = o.value + (if neg then -1 else 1) * (m : Int) * 2 ^ (z - (o.etop - 95)).toNat ∧
      (o.deposit (.num neg m z)).dcnt = o.dcnt + 1 ∧ (o.deposit (.num neg m z)).ovf = o.ovf := by
  have hfull : (o.dcnt == 2 ^ 31) = false := beq_eq_false_iff_ne.mpr (by omega)
  have hnext : (o.dcnt + 1) % 2 ^ 32 = o.dcnt + 1 := Nat.mod_eq_of_lt (by omega)
  have htop : (m != 0 && decide (z + (Nat.log2 m : Int) ≥ o.etop + 1)) = false := by
    rw [decide_eq_false (by omega), Bool.and_false]
  have hplace : 0 ≤ z - (o.etop - 95) := by omega
  obtain ⟨k, hk⟩ : ∃ k : Nat, k = (z - (o.etop - 95)).toNat := ⟨_, rfl⟩
  have hwide : m * 2 ^ k < 2 ^ 96 := calc
    m * 2 ^ k < 2 ^ (Nat.log2 m + 1) * 2 ^ k := Nat.mul_lt_mul_of_pos_right Nat.lt_log2_self (Nat.two_pow_pos k)
    _ = 2 ^ (Nat.log2 m + 1 + k) := (Nat.pow_add ..).symm
    _ ≤ 2 ^ 96 := Nat.pow_le_pow_right Nat.two_pos (by omega)
  have hparts : ((m * 2 ^ k % 2 ^ 32 : Nat) : Int) + (m * 2 ^ k / 2 ^ 32 % 2 ^ 32 : Nat) * 2 ^ 32 + (m * 2 ^ k / 2 ^ 64 % 2 ^ 32 : Nat) * 2 ^ 64 =
      (m : Int) * 2 ^ k := mod_cast three_parts (m * 2 ^ k) hwide
  have hdeposit : o.deposit (.num neg m z) = { o with
      dcnt := o.dcnt + 1, b0 := o.b0 + (if neg then -1 else 1) * (m * 2 ^ k % 2 ^ 32 : Nat),
      b1 := o.b1 + (if neg then -1 else 1) * (m * 2 ^ k / 2 ^ 32 % 2 ^ 32 : Nat),
      b2 := o.b2 + (if neg then -1 else 1) * (m * 2 ^ k / 2 ^ 64 % 2 ^ 32 : Nat) } := by
    unfold Bn3.deposit
    simp only [hfull, hnext, htop, hplace, if_true, Bool.false_eq_true, if_false, ← hk]
  rw [hdeposit, ← hk]
  refine ⟨?_, rfl, rfl⟩
  unfold Bn3.value
  rw [Int.mul_assoc, ← hparts]
  ring

/-- Normalising moves what a bin holds beyond 32 bits to the next and keeps the sum (R91). -/
theorem Bn3.normalise_value (o : Bn3) : o.normalise.value = o.value ∧ o.normalise.dcnt = 1 ∧ 0 ≤ o.normalise.b0 ∧ o.normalise.b0 < 2 ^ 32 ∧
    0 ≤ o.normalise.b1 ∧ o.normalise.b1 < 2 ^ 32 := by
  unfold Bn3.value Bn3.normalise
  dsimp only
  refine ⟨by ring, rfl, ?_⟩
  omega

/-! ## The order of a window's entries (R205) -/

/-- The order of two entries: by address, then by identifier. -/
def ReqLe (i j : Nat × Word × Word) : Prop := i.1 < j.1 ∨ i.1 = j.1 ∧ i.2.1.toNat ≤ j.2.1.toNat

theorem ReqLe.trans {i j k : Nat × Word × Word} (h : ReqLe i j) (h' : ReqLe j k) : ReqLe i k := by
  unfold ReqLe at *
  omega

/-- An entry goes before another exactly where that one is not below it. -/
theorem insertReq_test (x y : Nat × Word × Word) :
    (decide (x.1 < y.1) || (x.1 == y.1 && x.2.1.ult y.2.1)) = true ↔ ¬ ReqLe y x := by
  rw [Bool.or_eq_true, Bool.and_eq_true, decide_eq_true_eq, beq_iff_eq, BitVec.ult, decide_eq_true_eq]
  unfold ReqLe
  omega

theorem reqLe_of_not {x y : Nat × Word × Word} (h : ¬ ReqLe y x) : ReqLe x y := by
  unfold ReqLe at *
  omega

theorem insertReq_perm (x : Nat × Word × Word) (l : List (Nat × Word × Word)) : (insertReq x l).Perm (x :: l) := by
  induction l with
  | nil => exact .refl _
  | cons y l ih =>
    rw [insertReq]
    split
    · exact .refl _
    · exact (List.Perm.cons y ih).trans (.swap x y l)

theorem insertReq_sorted (x : Nat × Word × Word) (l : List (Nat × Word × Word)) (h : l.Pairwise ReqLe) : (insertReq x l).Pairwise ReqLe := by
  induction l with
  | nil => exact List.pairwise_singleton _ _
  | cons y l ih =>
    obtain ⟨hy, hl⟩ := List.pairwise_cons.mp h
    rw [insertReq]
    split
    · next hless =>
      have hxy : ReqLe x y := reqLe_of_not ((insertReq_test x y).mp hless)
      exact List.pairwise_cons.mpr ⟨fun z hz => (List.mem_cons.mp hz).elim (fun he => he ▸ hxy) fun hz => hxy.trans (hy z hz), h⟩
    · next hnot =>
      have hyx : ReqLe y x := by_contra fun hn => hnot ((insertReq_test x y).mpr hn)
      refine List.pairwise_cons.mpr ⟨fun z hz => ?_, ih hl⟩
      exact (List.mem_cons.mp ((insertReq_perm x l).mem_iff.mp hz)).elim (fun he => he ▸ hyx) (hy z)

/-- The sort keeps the entries and orders them (R205). -/
theorem sortReqs_sorts (q : List (Nat × Word × Word)) : (sortReqs q).Perm q ∧ (sortReqs q).Pairwise ReqLe := by
  have hfold (l a : List (Nat × Word × Word)) (ha : a.Pairwise ReqLe) :
      (l.foldl (fun a x => insertReq x a) a).Perm (a ++ l) ∧ (l.foldl (fun a x => insertReq x a) a).Pairwise ReqLe := by
    induction l generalizing a with
    | nil => exact ⟨by rw [List.append_nil]; exact .refl _, ha⟩
    | cons x l ih =>
      obtain ⟨hperm, hsorted⟩ := ih (insertReq x a) (insertReq_sorted x a ha)
      refine ⟨hperm.trans (((insertReq_perm x a).append_right l).trans ?_), hsorted⟩
      exact List.perm_middle.symm
  exact hfold q [] List.Pairwise.nil

/-! ## The checks of LAUNCH (R25) and claims of leases (R212, R213) -/

section

variable (s : State) (d b : Nat)

/-- A record names an absent cluster. -/
def NamesAbsent : Prop := ∃ i, i < 96 ∧ b / 2 ^ (96 + i) % 2 = 1 ∧ s.routeBad d (i / 4) = true

/-- The clusters that a record names. -/
def namedUnits : Nat := (List.range 96).countP fun i => b / 2 ^ (96 + i) % 2 == 1

/-- A record is malformed. -/
def RecordWrong : Prop :=
  2 ≤ recField b 78 2 ∨ recField b 96 96 = 0 ∨ recField b 93 3 ≠ 0 ∨ recField b 64 9 ≠ 0 ∨ recField b 0 16 ≠ 0 ∨ recField b 256 32 = 0 ∨
    recField b 77 1 = 1 ∧ (if recField b 78 2 = 0 then 4 * namedUnits b else namedUnits b) < recField b 256 32 ∨
    recField b 78 2 = 1 ∧ recField b 288 32 % 16384 ≠ 0

/-- What LAUNCH rejects a record for (R25). -/
theorem launchFault_cases : (NamesAbsent s d b → s.launchFault d b = some 1) ∧
    (¬ NamesAbsent s d b → RecordWrong b → s.launchFault d b = some 8) ∧
    (¬ NamesAbsent s d b → ¬ RecordWrong b → s.launchFault d b = none) := by
  have habsent : ((List.range 96).any fun i => recField b (96 + i) 1 == 1 && s.routeBad d (i / 4)) = true ↔ NamesAbsent s d b := by
    rw [List.any_eq_true]
    unfold NamesAbsent recField
    simp only [List.mem_range, Bool.and_eq_true, beq_iff_eq, Nat.pow_one]
  have hwrong : (decide (2 ≤ recField b 78 2) || recField b 96 96 == 0 || recField b 93 3 != 0 || recField b 64 9 != 0 ||
      recField b 0 16 != 0 || recField b 256 32 == 0 ||
      (recField b 77 1 == 1 && decide (recField b 256 32 > (if recField b 78 2 == 0 then 4 * namedUnits b else namedUnits b))) ||
      (recField b 78 2 == 1 && recField b 288 32 % 16384 != 0)) = true ↔ RecordWrong b := by
    unfold RecordWrong
    simp only [Bool.or_eq_true, Bool.and_eq_true, decide_eq_true_eq, beq_iff_eq, bne_iff_ne, gt_iff_lt, or_assoc]
  unfold State.launchFault
  dsimp only
  refine ⟨fun h => if_pos (habsent.mpr h), fun h hw => (if_neg (mt habsent.mp h)).trans (if_pos (hwrong.mpr hw)),
    fun h hw => (if_neg (mt habsent.mp h)).trans (if_neg (mt hwrong.mp hw))⟩

end

section

variable (t : Tab (Option Lease)) (bs : List Byte)

/-- A field of a descriptor. -/
def claimField (off n : Nat) : Nat := leNat ((bs.drop off).take n)

/-- Four words of a descriptor. -/
def claimWords (off : Nat) : List Word := (List.range 4).map fun i => BitVec.ofNat 32 (claimField bs (off + 4 * i) 4)

/-- The lease that a descriptor asks for. -/
def claimedLease : Lease := ⟨BitVec.ofNat 64 (claimField bs 0 8), BitVec.ofNat 64 (claimField bs 8 8), claimWords bs 16, claimWords bs 32⟩

/-- A malformed descriptor (R212). -/
def ClaimBad : Prop := (∃ x ∈ bs.drop 48, x ≠ 0) ∨ ∃ i, i < 4 ∧ claimField bs (32 + 4 * i) 4 < claimField bs (16 + 4 * i) 4

/-- Lease i is live and meets a box in all coordinates (R213). -/
def Meets (l : Lease) (i : Nat) : Prop := ∃ k, Tab.get none t i = some k ∧ k.name = l.name ∧ k.seed = l.seed ∧
  ∀ j, j < 4 → (k.lo.getD j 0).toNat ≤ (l.hi.getD j 0).toNat ∧ (l.lo.getD j 0).toNat ≤ (k.hi.getD j 0).toNat

theorem boxesMeet_iff (a b : Lease) : boxesMeet a b = true ↔
    ∀ j, j < 4 → (a.lo.getD j 0).toNat ≤ (b.hi.getD j 0).toNat ∧ (b.lo.getD j 0).toNat ≤ (a.hi.getD j 0).toNat := by
  unfold boxesMeet
  rw [List.all_eq_true]
  simp only [List.mem_range, Bool.and_eq_true, Bool.not_eq_true', BitVec.ult, decide_eq_false_iff_not, Nat.not_lt]
  exact forall₂_congr fun _ _ => and_comm

/-- A claim's search for a live lease that the box meets. -/
def leaseHit (l : Lease) (i : Nat) : Bool :=
  match Tab.get none t i with
  | some k => k.name == l.name && k.seed == l.seed && boxesMeet k l
  | none => false

theorem leaseHit_iff (l : Lease) (i : Nat) : leaseHit t l i = true ↔ Meets t l i := by
  unfold leaseHit Meets
  cases Tab.get none t i with
  | none => simp
  | some k => simp [boxesMeet_iff, and_assoc]

/-- The words of the box that a descriptor asks for. -/
theorem claimWords_getD (off i : Nat) (h : i < 4) : ((claimWords bs off).getD i 0).toNat = claimField bs (off + 4 * i) 4 := by
  have hlt : claimField bs (off + 4 * i) 4 < 2 ^ 32 := lt_of_lt_of_le (leNat_lt _)
    (Nat.pow_le_pow_right (by decide) (List.length_take_le 4 _) : 256 ^ ((bs.drop (off + 4 * i)).take 4).length ≤ 256 ^ 4)
  unfold claimWords
  rw [List.getD_eq_getElem?_getD, List.getElem?_map, List.getElem?_range h]
  exact (BitVec.toNat_ofNat ..).trans (Nat.mod_eq_of_lt hlt)

theorem claimBad_iff : (((bs.drop 48).any (· != 0)) ||
    (List.range 4).any fun i => ((claimedLease bs).hi.getD i 0).ult ((claimedLease bs).lo.getD i 0)) = true ↔ ClaimBad bs := by
  rw [Bool.or_eq_true, List.any_eq_true, List.any_eq_true]
  unfold ClaimBad
  refine or_congr (exists_congr fun x => and_congr_right fun _ => bne_iff_ne) (exists_congr fun i => ?_)
  rw [List.mem_range]
  refine and_congr_right fun hi => ?_
  rw [BitVec.ult, decide_eq_true_eq]
  show ((claimWords bs 32).getD i 0).toNat < ((claimWords bs 16).getD i 0).toNat ↔ _
  rw [claimWords_getD bs 32 i hi, claimWords_getD bs 16 i hi]

/-- A claim, by its two searches. -/
theorem claimLease_good (h : ¬ ClaimBad bs) : claimLease t bs = match (List.range 64).find? (leaseHit t (claimedLease bs)) with
    | some i => (1 + i * 256, t)
    | none => match (List.range 64).find? fun i => (Tab.get none t i).isNone with
      | none => (2, t)
      | some i => (i * 256, Tab.set none t i (some (claimedLease bs))) := by
  unfold claimLease
  exact (if_neg (mt (claimBad_iff bs).mp h)).trans rfl

theorem claimLease_bad (h : ClaimBad bs) : claimLease t bs = (3, t) := by
  unfold claimLease
  exact if_pos ((claimBad_iff bs).mpr h)

/-- The first index below a bound at which a test holds. -/
theorem find_range_some {p : Nat → Bool} {n i : Nat} (hi : i < n) (hp : p i = true) (hbefore : ∀ j, j < i → p j = false) :
    (List.range n).find? p = some i := by
  rw [List.find?_range_eq_some]
  exact ⟨hp, List.mem_range.mpr hi, fun j hj => by rw [hbefore j hj]; rfl⟩

theorem claimLease_meets (h : ¬ ClaimBad bs) {i : Nat} (hi : i < 64) (hmeet : Meets t (claimedLease bs) i)
    (hbefore : ∀ j, j < i → ¬ Meets t (claimedLease bs) j) : claimLease t bs = (1 + 256 * i, t) := by
  have hfind := find_range_some hi ((leaseHit_iff t _ i).mpr hmeet) fun j hj =>
    Bool.eq_false_iff.mpr (mt (leaseHit_iff t _ j).mp (hbefore j hj))
  rw [claimLease_good t bs h, hfind, Nat.mul_comm]

theorem leaseHit_none (hno : ∀ i, i < 64 → ¬ Meets t (claimedLease bs) i) : (List.range 64).find? (leaseHit t (claimedLease bs)) = none :=
  List.find?_eq_none.mpr fun i hi => mt (leaseHit_iff t _ i).mp (hno i (List.mem_range.mp hi))

theorem claimLease_full (h : ¬ ClaimBad bs) (hno : ∀ i, i < 64 → ¬ Meets t (claimedLease bs) i)
    (hfull : ∀ i, i < 64 → Tab.get none t i ≠ none) : claimLease t bs = (2, t) := by
  have hnone : ((List.range 64).find? fun i => (Tab.get none t i).isNone) = none :=
    List.find?_eq_none.mpr fun i hi => mt Option.isNone_iff_eq_none.mp (hfull i (List.mem_range.mp hi))
  rw [claimLease_good t bs h, leaseHit_none t bs hno, hnone]

theorem claimLease_free (h : ¬ ClaimBad bs) (hno : ∀ i, i < 64 → ¬ Meets t (claimedLease bs) i) {i : Nat} (hi : i < 64)
    (hfree : Tab.get none t i = none) (hbefore : ∀ j, j < i → Tab.get none t j ≠ none) :
    claimLease t bs = (256 * i, Tab.set none t i (some (claimedLease bs))) := by
  have hfind : ((List.range 64).find? fun i => (Tab.get none t i).isNone) = some i :=
    find_range_some hi (Option.isNone_iff_eq_none.mpr hfree) fun j hj => Bool.eq_false_iff.mpr (mt Option.isNone_iff_eq_none.mp (hbefore j hj))
  rw [claimLease_good t bs h, leaseHit_none t bs hno, hfind, Nat.mul_comm]

end

end Sys2Proof.Machine

namespace Sys2Proof.Machine

open Sys2Proof.Safety

/-! ## Faults found at a port (R134) -/

/-- A fault of a flight's operation is pending. -/
def Noted (f : Flight) (code sub : Byte) (t : State) : Prop :=
  ∃ q, (t.unit f.unit).disp.pend = some q ∧ q.code = code ∧ q.sub = sub ∧ q.seq = f.seq ∧ q.slot = f.slot

theorem Unit.ne_idle_of_on {x : Unit} (h : x.on = true) : x ≠ Unit.idle := fun he => Bool.noConfusion (h.symm.trans (congrArg Unit.on he))

section

variable (s : State) (f : Flight) (flt : Flt)

/-- A change of the front end of a unit that runs. -/
theorem State.modUnit_modDisp (u : Nat) (g : Disp → Disp) (h : (s.unit u).on = true) :
    (s.modUnit u fun x => x.modDisp g).unit u = (s.unit u).modDisp g := s.modUnit_unit_same u _ (Unit.ne_idle_of_on h)

/-- A fault raised late at a unit that runs: its pending fault stays, or is this one; and it is this one where none was pending and no
handler runs. -/
theorem State.raiseLate_pend (h : (s.unit f.unit).on = true) :
    (((s.raiseLate f flt).unit f.unit).disp.pend = (s.unit f.unit).disp.pend ∨ Noted f flt.code flt.sub (s.raiseLate f flt)) ∧
      (¬ ((s.unit f.unit).spr.sup = true ∧ f.sup = false) → (s.unit f.unit).disp.pend = none → Noted f flt.code flt.sub (s.raiseLate f flt)) := by
  by_cases hsup : (s.unit f.unit).spr.sup = true ∧ f.sup = false
  · rw [s.raiseLate_handling f flt hsup.1 hsup.2]
    refine ⟨.inl ?_, fun hnot => absurd hsup hnot⟩
    rw [s.modUnit_modDisp _ _ h]
    rfl
  · have hraises : (s.unit f.unit).spr.sup = false ∨ f.sup = true := by
      cases hs : (s.unit f.unit).spr.sup
      · exact .inl rfl
      · exact .inr (Bool.of_not_eq_false fun hf => hsup ⟨hs, hf⟩)
    rw [s.raiseLate_raises f flt hraises]
    have hundone := s.modUnit_modDisp f.unit (fun d => { d with undone := (f.slot, f.seq) :: d.undone }) h
    generalize (s.modUnit f.unit fun x => x.modDisp fun d => { d with undone := (f.slot, f.seq) :: d.undone }) = s₁ at hundone
    have hon : (s₁.unit f.unit).on = true := by rw [hundone]; exact h
    have hpend : (s₁.unit f.unit).disp.pend = (s.unit f.unit).disp.pend := by rw [hundone]; rfl
    rw [← hpend]
    unfold Noted State.raiseAt
    dsimp only
    rw [s₁.modUnit_modDisp _ _ hon]
    cases ho : (s₁.unit f.unit).disp.pend with
    | none =>
      simp only [Unit.modDisp, ho]
      exact ⟨.inr ⟨_, rfl, rfl, rfl, rfl, rfl⟩, fun _ _ => ⟨_, rfl, rfl, rfl, rfl, rfl⟩⟩
    | some o =>
      refine ⟨?_, fun _ hnone => nomatch hnone⟩
      simp only [Unit.modDisp, ho]
      split
      · exact .inl ho
      · exact .inr ⟨_, rfl, rfl, rfl, rfl, rfl⟩

theorem State.raiseLate_rest : (s.raiseLate f flt).mem = s.mem ∧ (s.raiseLate f flt).flights = s.flights ∧
    (s.raiseLate f flt).groups = s.groups := by
  unfold State.raiseLate
  split <;> exact ⟨rfl, rfl, rfl⟩

/-- A fault found at a port ends the request. -/
theorem State.portRaise_rest : (s.portRaise f flt).mem = s.mem ∧ (s.portRaise f flt).flights = s.flights.filter (·.id != f.id) ∧
    (s.portRaise f flt).groups = s.groups := by
  unfold State.portRaise
  dsimp only
  split
  · exact State.raiseLate_rest ..
  · exact ⟨rfl, rfl, rfl⟩

/-- What it leaves pending at the unit. -/
theorem State.portRaise_pend :
    (((s.portRaise f flt).unit f.unit).disp.pend = (s.unit f.unit).disp.pend ∨ Noted f flt.code flt.sub (s.portRaise f flt)) ∧
      (s.current f = true → ¬ ((s.unit f.unit).spr.sup = true ∧ f.sup = false) → (s.unit f.unit).disp.pend = none →
        Noted f flt.code flt.sub (s.portRaise f flt)) := by
  unfold State.portRaise
  dsimp only
  by_cases hcur : s.current f = true
  · have hon : (s.unit f.unit).on = true := (Bool.and_eq_true _ _ ▸ hcur).2
    have hunmark := (s.dropFlight f).modUnit_modDisp f.unit (fun d => d.unmark f.seq f.slot fun _ => true) hon
    rw [if_pos (show (s.dropFlight f).current f = true from hcur)]
    generalize ((s.dropFlight f).modUnit f.unit fun x => x.modDisp fun d => d.unmark f.seq f.slot fun _ => true) = s₁ at hunmark
    have hunit : (s.dropFlight f).unit f.unit = s.unit f.unit := rfl
    rw [hunit] at hunmark
    have hlate := s₁.raiseLate_pend f flt (by rw [hunmark]; exact hon)
    rw [hunmark] at hlate
    exact ⟨hlate.1, fun _ => hlate.2⟩
  · rw [if_neg (show ¬ (s.dropFlight f).current f = true from hcur)]
    exact ⟨.inl rfl, fun h => absurd h hcur⟩

end

section

variable {s t : State} {f : Flight} {code sub : Byte}

/-- A fault that no lower slot may still take the place of happens now. -/
theorem unlessOutranked_of_noted (hlower : ¬ s.lowerReady f.unit f.slot f.seq = true)
    (h : (t.unit f.unit).disp.pend = (s.unit f.unit).disp.pend ∨ Noted f code sub t) : s.unlessOutranked t f.unit = t := by
  rcases h with h | ⟨q, hq, -, -, hseq, hslot⟩
  · exact unlessOutranked_of_pend h
  · have hnot : s.outranked t f.unit = false := by
      unfold State.outranked
      rw [hq]
      dsimp only
      rw [hseq, hslot, Bool.eq_false_iff.mpr hlower, Bool.and_false]
    rw [State.unlessOutranked, hnot]
    rfl

/-- One that a lower slot may still take the place of waits. -/
theorem unlessOutranked_waits (hlower : s.lowerReady f.unit f.slot f.seq = true) (hnone : (s.unit f.unit).disp.pend = none)
    (h : Noted f code sub t) : s.unlessOutranked t f.unit = s := by
  obtain ⟨q, hq, -, -, hseq, hslot⟩ := h
  have hout : s.outranked t f.unit = true := by
    unfold State.outranked
    rw [hq]
    dsimp only
    rw [hnone, hseq, hslot, hlower]
    rfl
  rw [State.unlessOutranked, hout]
  rfl

end

/-! ## TGROW at the record's port (R211) -/

section

variable {s : State} {f : Flight} {va y : BitVec 64} {d : Stor} {p : Nat} {g : Group}

/-- A group with one TGROW fewer in flight. -/
def Group.grown (g : Group) : Group := { g with growing := g.growing - 1 }

theorem Group.same_iff (x g : Group) : x.same g = true ↔ x.ctx = g.ctx ∧ x.recd = g.recd ∧ x.num = g.num := by
  unfold Group.same
  rw [Bool.and_eq_true, Bool.and_eq_true, beq_iff_eq, beq_iff_eq, beq_iff_eq, and_assoc]

/-- The group of a task after a TGROW of it has come. -/
theorem groupOf_grown {o : Option Task} (h : o.bind s.groupOf = some g) {t : State} (ht : t.groups = (s.modGroup g Group.grown).groups) :
    o.bind t.groupOf = some g.grown := by
  cases o with
  | none => exact nomatch h
  | some k =>
    have h : s.groups.find? k.isOf = some g := h
    show t.groups.find? k.isOf = _
    have hof : (k.isOf ∘ fun x => if x.same g then x.grown else x) = k.isOf := by
      funext x
      show k.isOf (if x.same g then x.grown else x) = k.isOf x
      split <;> rfl
    rw [ht]
    show (s.groups.map fun x => if x.same g then x.grown else x).find? k.isOf = _
    rw [List.find?_map, hof, h, Option.map_some, if_pos ((g.same_iff g).mpr ⟨rfl, rfl, rfl⟩)]

/-- A group with another TGROW in flight, or whose counts differ, does not complete. -/
theorem complete_idle {t : State} {g : Group} (h : g.growing ≠ 0 ∨ t.gword g 24 ≠ t.gword g 32) : t.complete g = t := by
  unfold State.complete
  refine if_neg fun hboth => ?_
  rw [Bool.and_eq_true, beq_iff_eq, beq_iff_eq] at hboth
  exact h.elim (fun h => h hboth.2) fun h => h hboth.1

/-- A TGROW at its port: COUNT rises or the fault is raised, and then the group may be complete. -/
theorem portStep_grow (hg : f.task.bind s.groupOf = some g) (m : Nat) : s.portStep f (.grow y) va [d] m =
    let r := s.modGroup g Group.grown
    let t := if 2 ^ 32 ≤ (s.gword g 32).toNat + y.toNat then r.portRaise f (prot 0x0B y)
      else (r.setGword g 32 (BitVec.ofNat 32 ((s.gword g 32).toNat + y.toNat))).answer f [d] [.scalar ((s.gword g 32).setWidth 64)] 0 0
    t.complete g.grown := by
  have hword : (s.modGroup g Group.grown).gword g 32 = s.gword g 32 := rfl
  have hthen {t : State} (ht : t.groups = (s.modGroup g Group.grown).groups) : (match f.task.bind t.groupOf with
      | some g => t.complete g | none => t) = t.complete g.grown := by rw [groupOf_grown hg ht]
  unfold State.portStep
  simp only [hg]
  refine hthen ?_
  show (if _ then _ else _ : State).groups = _
  split
  · exact (State.portRaise_rest ..).2.2
  · rw [State.answer_groups]
    rfl

/-- COUNT raised (R211). -/
theorem grow_goes (hmem : MemoryOk s) (hg : f.task.bind s.groupOf = some g) (hfit : (s.gword g 32).toNat + y.toNat < 2 ^ 32)
    (hopen : 1 < g.growing ∨ s.gword g 24 ≠ s.gword g 32 + y.setWidth 32) (h : AtPort s f (.grow y) va [d] p) :
    Goes (exec .portSyncOperation s) fun t => rd32 t.mem (g.place + 32) = s.gword g 32 + y.setWidth 32 ∧ Else (g.place + 32) 4 s t ∧
      Answers f [(d, .scalar ((s.gword g 32).setWidth 64))] 0 0 s t ∧
        t.groups = s.groups.map fun z => if z.ctx = g.ctx ∧ z.recd = g.recd ∧ z.num = g.num then z.grown else z := by
  have hcount : BitVec.ofNat 32 ((s.gword g 32).toNat + y.toNat) = s.gword g 32 + y.setWidth 32 :=
    BitVec.eq_of_toNat_eq (by simp [BitVec.toNat_add])
  have hstep := portStep_grow (va := va) (y := y) (d := d) hg s.arg.m
  dsimp only at hstep
  rw [if_neg (Nat.not_le.mpr hfit), hcount] at hstep
  have hcountNew : rd32 (wrBytes s.mem (g.place + 32) (leBytes 4 (s.gword g 32 + y.setWidth 32).toNat)) (g.place + 32) = s.gword g 32 + y.setWidth 32 :=
    rd32_wrBytes _ _ hmem _
  have hretired : rd32 (wrBytes s.mem (g.place + 32) (leBytes 4 (s.gword g 32 + y.setWidth 32).toNat)) (g.place + 24) = s.gword g 24 :=
    rd32_wrBytes_out _ _ _ (by omega)
  generalize ht : (((s.modGroup g Group.grown).setGword g 32 (s.gword g 32 + y.setWidth 32)).answer f [d]
    [.scalar ((s.gword g 32).setWidth 64)] 0 0) = t at hstep
  have hmem' : t.mem = wrBytes s.mem (g.place + 32) (leBytes 4 (s.gword g 32 + y.setWidth 32).toNat) := ht ▸ State.answer_mem ..
  have hidle : t.complete g.grown = t := complete_idle <| by
    refine hopen.imp (fun h => Nat.sub_ne_zero_of_lt h) fun h => ?_
    show rd32 t.mem (g.place + 24) ≠ rd32 t.mem (g.place + 32)
    rw [hmem', hcountNew, hretired]
    exact h
  rw [hidle] at hstep
  refine goes_port h rfl (by rw [hstep, ← ht, State.answer_units]; rfl) ?_
  rw [hstep]
  refine ⟨by rw [hmem', hcountNew], else_of_mem hmem' (length_leBytes ..), ht ▸ answers_one (.inr rfl) rfl rfl, ?_⟩
  rw [← ht, State.answer_groups]
  exact List.map_congr_left fun z _ => if_congr (z.same_iff g) rfl rfl

/-- The fault of a TGROW beyond COUNT's range waits for the lower slots of its bundle (R134, R211). -/
theorem grow_waits (hg : f.task.bind s.groupOf = some g) (hover : 2 ^ 32 ≤ (s.gword g 32).toNat + y.toNat) (hcur : s.current f = true)
    (hhandling : ¬ ((s.unit f.unit).spr.sup = true ∧ f.sup = false)) (hnone : (s.unit f.unit).disp.pend = none)
    (hlower : s.lowerReady f.unit f.slot f.seq = true) (h : AtPort s f (.grow y) va [d] p) : Waits .portSyncOperation s := by
  have hstep := portStep_grow (va := va) (y := y) (d := d) hg s.arg.m
  dsimp only at hstep
  rw [if_pos hover] at hstep
  have hnoted := ((s.modGroup g Group.grown).portRaise_pend f (prot 0x0B y)).2 hcur hhandling hnone
  have hstay := (((s.modGroup g Group.grown).portRaise f (prot 0x0B y)).complete_tasks g.grown).pend f.unit
  obtain ⟨hget, hwhat, hparked, hbad, hmay, -⟩ := h
  refine (portStep_exec hget hwhat hparked hbad hmay).trans (congrArg _ ?_)
  rw [hstep]
  refine unlessOutranked_waits hlower hnone (code := 0x19) (sub := 0x0B) ?_
  unfold Noted at hnoted ⊢
  rw [hstay]
  exact hnoted

/-- With none of them left it is raised, and memory stays (R134, R211). -/
theorem grow_faults (hg : f.task.bind s.groupOf = some g) (hover : 2 ^ 32 ≤ (s.gword g 32).toNat + y.toNat)
    (hlower : ¬ s.lowerReady f.unit f.slot f.seq = true) (hopen : 1 < g.growing ∨ s.gword g 24 ≠ s.gword g 32)
    (h : AtPort s f (.grow y) va [d] p) : Goes (exec .portSyncOperation s) fun t =>
      t.mem = s.mem ∧ t.flights = s.flights.filter (·.id != f.id) ∧ (s.current f = true → ¬ ((s.unit f.unit).spr.sup = true ∧ f.sup = false) →
        (s.unit f.unit).disp.pend = none → Noted f 0x19 0x0B t) := by
  have hstep := portStep_grow (va := va) (y := y) (d := d) hg s.arg.m
  dsimp only at hstep
  rw [if_pos hover] at hstep
  obtain ⟨hmem, hflights, -⟩ := (s.modGroup g Group.grown).portRaise_rest f (prot 0x0B y)
  have hpend := (s.modGroup g Group.grown).portRaise_pend f (prot 0x0B y)
  have hidle := complete_idle (t := (s.modGroup g Group.grown).portRaise f (prot 0x0B y)) (g := g.grown) (by
    refine hopen.imp (fun h => Nat.sub_ne_zero_of_lt h) fun h => ?_
    unfold State.gword
    rw [hmem]
    exact h)
  rw [hidle] at hstep
  obtain ⟨hget, hwhat, hparked, hbad, hmay, -⟩ := h
  refine ⟨_, portStep_exec hget hwhat hparked hbad hmay, ?_⟩
  rw [hstep, unlessOutranked_of_noted hlower hpend.1]
  exact ⟨hmem, hflights, hpend.2⟩

end

end Sys2Proof.Machine

namespace Sys2Proof.Machine

open Sys2Proof.Safety

/-! ## STATUS of a group's record (R24) -/

/-- The word of a record that holds STATUS, in bits 11 and 12. -/
def statusWord (w : Word) (st : BitVec 2) : Word := BitVec.ofNat 32 (w.toNat / 2 ^ 13 * 2 ^ 13 + st.toNat * 2 ^ 11 + w.toNat % 2 ^ 11)

theorem State.setStatus_eq (s : State) (g : Group) (st : BitVec 2) :
    s.setStatus g st = s.setGword g 8 (statusWord (rd32 s.mem (g.place + 8)) st) := rfl

theorem statusWord_append (w : Word) (st : BitVec 2) : statusWord w st = (w.extractLsb' 13 19 ++ st) ++ w.extractLsb' 0 11 := by
  have hst := st.isLt
  have hw := w.isLt
  refine BitVec.eq_of_toNat_eq ?_
  rw [BitVec.toNat_append, BitVec.toNat_append, ← Nat.shiftLeft_add_eq_or_of_lt st.isLt,
    ← Nat.shiftLeft_add_eq_or_of_lt (w.extractLsb' 0 11).isLt, toNat_field, toNat_field, Nat.shiftLeft_eq, Nat.shiftLeft_eq, statusWord, BitVec.toNat_ofNat]
  omega

/-- A word as its field STATUS and what lies on both sides of it. -/
theorem word_append (w : Word) : w = (w.extractLsb' 13 19 ++ w.extractLsb' 11 2) ++ w.extractLsb' 0 11 := by
  have hw := w.isLt
  refine BitVec.eq_of_toNat_eq ?_
  rw [BitVec.toNat_append, BitVec.toNat_append, ← Nat.shiftLeft_add_eq_or_of_lt (w.extractLsb' 11 2).isLt,
    ← Nat.shiftLeft_add_eq_or_of_lt (w.extractLsb' 0 11).isLt, toNat_field, toNat_field, toNat_field, Nat.shiftLeft_eq, Nat.shiftLeft_eq]
  omega

theorem statusWord_zero (w : Word) : statusWord w 0 = w &&& ~~~(3#32 <<< 11) := by
  have hmask : (~~~(3#32 <<< 11) : Word) = (BitVec.allOnes 19 ++ 0#2) ++ BitVec.allOnes 11 := by decide
  have hand : w &&& ~~~(3#32 <<< 11) = ((w.extractLsb' 13 19 ++ w.extractLsb' 11 2) ++ w.extractLsb' 0 11) &&&
      ((BitVec.allOnes 19 ++ 0#2) ++ BitVec.allOnes 11) := by rw [← word_append, hmask]
  rw [hand, BitVec.and_append, BitVec.and_append, BitVec.and_allOnes, BitVec.and_allOnes, BitVec.and_zero]
  exact statusWord_append w 0

theorem statusWord_three (w : Word) : statusWord w 3 = w ||| (3#32 <<< 11) := by
  have hmask : (3#32 <<< 11 : Word) = (0#19 ++ BitVec.allOnes 2) ++ 0#11 := by decide
  have hor : w ||| (3#32 <<< 11) = ((w.extractLsb' 13 19 ++ w.extractLsb' 11 2) ++ w.extractLsb' 0 11) |||
      ((0#19 ++ BitVec.allOnes 2) ++ 0#11) := by rw [← word_append, hmask]
  rw [hor, BitVec.or_append, BitVec.or_append, BitVec.or_zero, BitVec.or_zero, BitVec.or_allOnes]
  exact statusWord_append w 3

/-! ## LAUNCH at the record's port (R24, R25, R217) -/

section

variable {s : State} {f : Flight} {va : BitVec 64} {p : Nat} {live : Bool}

/-- The record that a LAUNCH finds at its place. -/
def recordAt (s : State) (p : Nat) : Nat := leNat (rdBytes s.mem p 64)

/-- The group of a LAUNCH. -/
def launched (s : State) (f : Flight) (va : BitVec 64) (p : Nat) : Group :=
  groupOfRecord (s.flightCtx f) va p f.unit (recordAt s p) f.id

theorem launchAt_none (hp : (f.spans.headD (0, 0)).1 = p) (h : s.launchFault (dieOf f.unit) (recordAt s p) = none) : s.launchAt f va live =
    let g := launched s f va p
    let t := ((((s.setStatus g 0).setGword g 28 0).setGword g 24 0).setGword g 4 0xFFFFFFFF).dropFlight f
    { t with groups := t.groups ++ [g] } := by
  subst hp
  unfold State.launchAt
  unfold recordAt at h
  simp only [h]
  rfl

theorem launchAt_some {sub : Byte} (hp : (f.spans.headD (0, 0)).1 = p)
    (h : s.launchFault (dieOf f.unit) (recordAt s p) = some sub) : s.launchAt f va live =
      if live then (s.setStatus (launched s f va p) 3).portRaise f (prot sub va) else (s.setStatus (launched s f va p) 3).dropFlight f := by
  subst hp
  unfold State.launchAt
  unfold recordAt at h
  simp only [h]
  rfl

/-- Four words of a record written. -/
theorem setGword_four (s : State) (g : Group) (j k l m : Nat) (v w x y : Word) : ∃ ws,
    (((s.setGword g j v).setGword g k w).setGword g l x).setGword g m y = { s with
      mem := wrBytes (wrBytes (wrBytes (wrBytes s.mem (g.place + j) (leBytes 4 v.toNat)) (g.place + k) (leBytes 4 w.toNat)) (g.place + l)
        (leBytes 4 x.toNat)) (g.place + m) (leBytes 4 y.toNat), watches := ws } := ⟨_, rfl⟩

/-- A record that is taken: its RW fields are set and its group is in the queues (R24, R25). -/
theorem launch_taken (hmem : MemoryOk s) (hfault : s.launchFault (dieOf f.unit) (recordAt s p) = none)
    (h : AtPort s f (.launch live) va [] p) : Goes (exec .portSyncOperation s) fun t =>
      rd32 t.mem (p + 4) = 0xFFFFFFFF ∧ rd32 t.mem (p + 8) = rd32 s.mem (p + 8) &&& ~~~(3#32 <<< 11) ∧ rd32 t.mem (p + 24) = 0 ∧
      rd32 t.mem (p + 28) = 0 ∧ (∀ a, a < p + 4 ∨ p + 12 ≤ a → a < p + 24 ∨ p + 32 ≤ a → rdByte t.mem a = rdByte s.mem a) ∧
      t.groups = s.groups ++ [launched s f va p] ∧ Answers f [] 0 0 s t := by
  have hstep : s.portStep f (.launch live) va [] s.arg.m = _ := launchAt_none (atPort_place h) hfault
  obtain ⟨ws, hfour⟩ := setGword_four s (launched s f va p) 8 28 24 4 (statusWord (rd32 s.mem (p + 8)) 0) 0 0 0xFFFFFFFF
  have hfour : (((s.setStatus (launched s f va p) 0).setGword (launched s f va p) 28 0).setGword (launched s f va p) 24 0).setGword
      (launched s f va p) 4 0xFFFFFFFF = _ := hfour
  dsimp only at hstep
  rw [hfour] at hstep
  have hplace : (launched s f va p).place = p := rfl
  rw [hplace] at hstep
  have hunits : (s.portStep f (.launch live) va [] s.arg.m).units = s.units := by rw [hstep, State.dropFlight]
  have hgroups : (s.portStep f (.launch live) va [] s.arg.m).groups = s.groups ++ [launched s f va p] := by rw [hstep, State.dropFlight]
  have hflights : (s.portStep f (.launch live) va [] s.arg.m).flights = s.flights.filter (·.id != f.id) := by rw [hstep, State.dropFlight]
  have hmem' := congrArg State.mem hstep
  rw [State.dropFlight] at hmem'
  dsimp only at hmem'
  have h₁ : Memory.wf (wrBytes s.mem (p + 8) (leBytes 4 (statusWord (rd32 s.mem (p + 8)) 0).toNat)) = true := wf_wrBytes _ _ _ hmem
  have h₂ := wf_wrBytes _ (p + 28) (leBytes 4 (0 : Word).toNat) h₁
  have h₃ := wf_wrBytes _ (p + 24) (leBytes 4 (0 : Word).toNat) h₂
  refine goes_port h rfl hunits ⟨?_, ?_, ?_, ?_, fun a hlo hhi => ?_, hgroups, answers_nil hflights⟩
  all_goals rw [hmem']
  · exact rd32_wrBytes _ _ h₃ _
  · rw [rd32_wrBytes_out _ _ _ (by rw [length_leBytes]; omega), rd32_wrBytes_out _ _ _ (by omega), rd32_wrBytes_out _ _ _ (by omega),
      rd32_wrBytes _ _ hmem, statusWord_zero]
  · rw [rd32_wrBytes_out _ _ _ (by rw [length_leBytes]; omega), rd32_wrBytes _ _ h₂]
  · rw [rd32_wrBytes_out _ _ _ (by rw [length_leBytes]; omega), rd32_wrBytes_out _ _ _ (by rw [length_leBytes]; omega), rd32_wrBytes _ _ h₁]
  · rw [rdByte_wrBytes_out _ _ _ (by rw [length_leBytes]; omega), rdByte_wrBytes_out _ _ _ (by rw [length_leBytes]; omega),
      rdByte_wrBytes_out _ _ _ (by rw [length_leBytes]; omega), rdByte_wrBytes_out _ _ _ (by rw [length_leBytes]; omega)]

variable {sub : Byte}

/-- The fault of a LAUNCH waits for the lower slots of its bundle (R134). -/
theorem launch_waits (hfault : s.launchFault (dieOf f.unit) (recordAt s p) = some sub) (hcur : s.current f = true)
    (hhandling : ¬ ((s.unit f.unit).spr.sup = true ∧ f.sup = false)) (hnone : (s.unit f.unit).disp.pend = none)
    (hlower : s.lowerReady f.unit f.slot f.seq = true) (h : AtPort s f (.launch true) va [] p) : Waits .portSyncOperation s := by
  have hstep : s.portStep f (.launch true) va [] s.arg.m = _ := launchAt_some (atPort_place h) hfault
  obtain ⟨hget, hwhat, hparked, hbad, hmay, -⟩ := h
  refine (portStep_exec hget hwhat hparked hbad hmay).trans (congrArg _ ?_)
  rw [hstep, if_pos rfl]
  exact unlessOutranked_waits hlower hnone (((s.setStatus (launched s f va p) 3).portRaise_pend f (prot sub va)).2 hcur hhandling hnone)

/-- A record that is refused holds STATUS 0b11 (R25). -/
theorem refused_word (hmem : MemoryOk s) {t : State} (ht : t.mem = (s.setStatus (launched s f va p) 3).mem) :
    rd32 t.mem (p + 8) = rd32 s.mem (p + 8) ||| (3#32 <<< 11) ∧ Else (p + 8) 4 s t := by
  have ht : t.mem = wrBytes s.mem (p + 8) (leBytes 4 (statusWord (rd32 s.mem (p + 8)) 3).toNat) := ht
  exact ⟨by rw [ht, rd32_wrBytes _ _ hmem, statusWord_three], else_of_mem ht (length_leBytes ..)⟩

/-- The fault of a LAUNCH whose controller has stopped since has no one to take it (R134). -/
theorem launch_refused (hmem : MemoryOk s) (hfault : s.launchFault (dieOf f.unit) (recordAt s p) = some sub)
    (h : AtPort s f (.launch false) va [] p) : Goes (exec .portSyncOperation s) fun t =>
      rd32 t.mem (p + 8) = rd32 s.mem (p + 8) ||| (3#32 <<< 11) ∧ Else (p + 8) 4 s t ∧ t.groups = s.groups ∧ Answers f [] 0 0 s t ∧
        t.units = s.units := by
  have hstep : s.portStep f (.launch false) va [] s.arg.m = (s.setStatus (launched s f va p) 3).dropFlight f := launchAt_some (atPort_place h) hfault
  refine goes_port h rfl (by rw [hstep]; rfl) ?_
  rw [hstep]
  obtain ⟨hword, helse⟩ := refused_word (f := f) (va := va) (t := (s.setStatus (launched s f va p) 3).dropFlight f) hmem rfl
  exact ⟨hword, helse, rfl, answers_nil rfl, rfl⟩

/-- Any other is raised once no lower slot may fault before it (R25, R134). -/
theorem launch_faults (hmem : MemoryOk s) (hfault : s.launchFault (dieOf f.unit) (recordAt s p) = some sub)
    (hlower : ¬ s.lowerReady f.unit f.slot f.seq = true) (h : AtPort s f (.launch true) va [] p) : Goes (exec .portSyncOperation s) fun t =>
      rd32 t.mem (p + 8) = rd32 s.mem (p + 8) ||| (3#32 <<< 11) ∧ Else (p + 8) 4 s t ∧ t.groups = s.groups ∧ Answers f [] 0 0 s t ∧
        (s.current f = true → ¬ ((s.unit f.unit).spr.sup = true ∧ f.sup = false) → (s.unit f.unit).disp.pend = none → Noted f 0x19 sub t) := by
  have hstep : s.portStep f (.launch true) va [] s.arg.m = (s.setStatus (launched s f va p) 3).portRaise f (prot sub va) :=
    launchAt_some (atPort_place h) hfault
  obtain ⟨hget, hwhat, hparked, hbad, hmay, -⟩ := h
  obtain ⟨hmem', hflights, hgroups⟩ := (s.setStatus (launched s f va p) 3).portRaise_rest f (prot sub va)
  have hpend := (s.setStatus (launched s f va p) 3).portRaise_pend f (prot sub va)
  refine ⟨_, portStep_exec hget hwhat hparked hbad hmay, ?_⟩
  rw [hstep, unlessOutranked_of_noted hlower hpend.1]
  obtain ⟨hword, helse⟩ := refused_word hmem hmem'
  exact ⟨hword, helse, hgroups, answers_nil hflights, hpend.2⟩

/-! ## Leases at the directory (R212, R213) -/

variable {d : Stor} {y : BitVec 64}

/-- SDCLAIM (R212). -/
theorem claim_goes (hctxs : CtxsOk s) (h : AtPort s f .claim va [d] p) :
    let lease := claimLease (s.ctx (s.flightCtx f).toNat).leases (rdBytes s.mem p 64)
    Goes (exec .portSyncOperation s) fun t => t.mem = s.mem ∧ (t.ctx (s.flightCtx f).toNat).leases = lease.2 ∧
      Answers f [(d, .scalar (BitVec.ofNat 64 lease.1))] 0 0 s t := by
  intro lease
  have hp : (f.spans.headD (0, 0)).1 = p := atPort_place h
  have hstep : s.portStep f .claim va [d] s.arg.m =
      (s.modCtx (s.flightCtx f).toNat fun x => { x with leases := lease.2 }).answer f [d] [.scalar (BitVec.ofNat 64 lease.1)] 0 0 := by
    unfold State.portStep
    simp only [hp]
    rfl
  obtain ⟨t, hexec, hmem, hctx, ha⟩ := goes_answer h rfl hstep ⟨rfl, rfl, rfl⟩
  refine ⟨t, hexec, hmem, ?_, ha⟩
  rw [State.ctx, hctx, ← State.ctx, s.modCtx_ctx hctxs, if_pos rfl]

/-- SDFREE of a live lease, and of none (R212). -/
theorem free_goes (hctxs : CtxsOk s) (h : AtPort s f (.free y) va [d] p) :
    let leases := (s.ctx (s.flightCtx f).toNat).leases
    Goes (exec .portSyncOperation s) fun t => t.mem = s.mem ∧
      if y.toNat ≤ 63 ∧ Tab.get none leases y.toNat ≠ none then
        Answers f [(d, .scalar (BitVec.ofNat 64 (256 * y.toNat)))] 0 0 s t ∧ (Tab.wf none leases = true →
          ∀ j, Tab.get none (t.ctx (s.flightCtx f).toNat).leases j = if j = y.toNat then none else Tab.get none leases j)
      else (t.ctx (s.flightCtx f).toNat).leases = leases ∧
        Answers f [(d, .scalar (BitVec.ofNat 64 (1 + if y.toNat ≤ 63 then 256 * y.toNat else 0)))] 0 0 s t := by
  intro leases
  have hlive : (decide (y.toNat ≤ 63) && (Tab.get none leases y.toNat).isSome) =
      decide (y.toNat ≤ 63 ∧ Tab.get none leases y.toNat ≠ none) := by
    rw [Bool.eq_iff_iff, Bool.and_eq_true, decide_eq_true_eq, decide_eq_true_eq, Option.isSome_iff_ne_none]
  have hstep : s.portStep f (.free y) va [d] s.arg.m =
      (s.modCtx (s.flightCtx f).toNat fun x => { x with
        leases := if y.toNat ≤ 63 ∧ Tab.get none leases y.toNat ≠ none then Tab.set none x.leases y.toNat none else x.leases }).answer f [d]
        [.scalar (BitVec.ofNat 64 ((if y.toNat ≤ 63 ∧ Tab.get none leases y.toNat ≠ none then 0 else 1) +
          (if y.toNat ≤ 63 then y.toNat else 0) * 256))] 0 0 := by
    unfold State.portStep
    simp only [hlive, decide_eq_true_eq, leases]
  obtain ⟨t, hexec, hmem, hctx, ha⟩ := goes_answer h rfl hstep ⟨rfl, rfl, rfl⟩
  have hleases : (t.ctx (s.flightCtx f).toNat).leases =
      if y.toNat ≤ 63 ∧ Tab.get none leases y.toNat ≠ none then Tab.set none leases y.toNat none else leases := by
    rw [State.ctx, hctx, ← State.ctx, s.modCtx_ctx hctxs, if_pos rfl]
  refine ⟨t, hexec, hmem, ?_⟩
  by_cases hl : y.toNat ≤ 63 ∧ Tab.get none leases y.toNat ≠ none
  · simp only [if_pos hl] at ha hleases ⊢
    rw [if_pos hl.1, Nat.zero_add, Nat.mul_comm] at ha
    exact ⟨ha, fun hwf j => by rw [hleases, Tab.get_set _ _ _ _ _ hwf]⟩
  · simp only [if_neg hl] at ha hleases ⊢
    refine ⟨hleases, ?_⟩
    rwa [ite_mul, Nat.zero_mul, Nat.mul_comm] at ha

end

end Sys2Proof.Machine

namespace Sys2Proof.Laws

open Sys2Proof.Machine Sys2Proof.Safety

/-- Settles O28: each request at its port, by what its step does (R194, R198, R203 to R213). -/
theorem portOperations : Obligations.PortOperations := by
  unfold Obligations.PortOperations
  refine ⟨fun s f u x e va d p hmem => ?_, fun s f x va d e p hmem => ?_, fun s f va x y e u d p k w hmem hctxs => ?_,
    fun o neg m z q => ?_, fun s f y va d p hmem hctxs => ?_, fun s d b t bs => ?_⟩
  · have word (o : BitVec 3) (u : Bool) (ds : List Stor) (hds : ds = [] ∨ ds = [d]) (hm : s.arg.m = 0)
        (h : AtPort s f (.atom o 0 u x) va ds p) := atom_word hmem hds hm h
    have dword (o : BitVec 3) (u : Bool) (ds : List Stor) (hds : ds = [] ∨ ds = [d]) (hm : s.arg.m = 0)
        (h : AtPort s f (.atom o 1 u x) va ds p) := atom_dword hmem hds hm h
    obtain ⟨hmin, hminu, hmax, hmaxu⟩ := atomBits_bounds (rd32 s.mem p) (x.setWidth 32)
    obtain ⟨hmin', hminu', hmax', hmaxu'⟩ := atomBits_bounds (rd64 s.mem p) x
    refine ⟨word 0 u, word 1 u, word 2 u, word 3 u, hmin ▸ word 4 false, hminu ▸ word 4 true, hmax ▸ word 5 false, hmaxu ▸ word 5 true,
      word 6 u, dword 0 u, dword 1 u, dword 2 u, dword 3 u, hmin' ▸ dword 4 false, hminu' ▸ dword 4 true, hmax' ▸ dword 5 false,
      hmaxu' ▸ dword 5 true, dword 6 u, acas_word hmem, acas_dword hmem, fun hm h => ?_, fun g v y vb e hm h hin hid hwhat hplace hpend hone =>
        merge_goes hmem hm h hin hid hwhat hplace hpend hone⟩
    obtain ⟨t, hexec, hword, helse, -⟩ := rsf_goes hmem hm h
    exact ⟨t, hexec, hword, helse⟩
  · refine ⟨fun hgood h => push_goes hmem hgood h, fun hbad h => ?_, fun hbad h => ?_, fun hgood h => pop_goes hmem hgood h,
      fun hgood h => steal_goes hmem hgood h, fun h hbad => barrier_bad hbad h, fun h hzero hless => ?_⟩
    · exact deque_goes (.inr (.inr ⟨x, rfl⟩)) (dequeStep_bad _ _ hbad (.inr (.inr ⟨x, rfl⟩))) h (List.cons_ne_nil _ _)
    · rcases h with h | h
      · exact deque_goes (.inl rfl) (dequeStep_bad _ _ hbad (.inl rfl)) h (List.cons_ne_nil _ _)
      · exact deque_goes (.inr (.inl rfl)) (dequeStep_bad _ _ hbad (.inr (.inl rfl))) h (List.cons_ne_nil _ _)
    · have hgood : ¬ BarrierBad s.mem p := fun hbad => hbad.elim (fun ⟨k, hlo, hhi, hne⟩ => hne (hzero k hlo hhi)) fun h => h hless
      obtain ⟨t, hexec, ht, ha⟩ := barrier_goes hgood h
      obtain ⟨hcount, hphase, helse⟩ := barrier_words hmem ht
      refine ⟨t, hexec, ?_, ?_, helse, ha⟩
      · rw [hcount]
        exact apply_ite Prod.fst _ _ _
      · rw [hphase]
        exact apply_ite Prod.snd _ _ _
  · refine ⟨fun ds hds => atom_float hmem hctxs hds rfl, fun ds hds => atom_float hmem hctxs hds rfl, fun ds hds => atom_float hmem hctxs hds rfl,
      fun ds hds => atom_float hmem hctxs hds rfl, fun hm h => ?_, fun hm h => rsb_goes hmem hm h, binit_goes hmem, bnorm_goes hmem,
      fun hspans hm h => bfin_goes hctxs hspans hm h, fun got fl n => ⟨fun hmore => ?_, fun hlast => ?_⟩,
      fun v hv hopen hport h => rso_goes hctxs hv hopen hport h, fun hno h => rso_fault hno h, fun hc h => roopen_closing hc h,
      fun hc v hv h => roopen_there hc hv h, fun hc hv hone h => ?_, fun v hv h => roopen_opens hctxs hv h, fun hv h => roclose_none hv h,
      fun v hv hc h => ?_, fun v hv hopen h => roclose_applies hctxs hv hopen h⟩
    · obtain ⟨t, hexec, -, -, hctx, ha⟩ := rsf_goes hmem hm h
      refine ⟨t, hexec, fun hwf => ?_, ha⟩
      rw [hctx]
      exact s.axr_ored _ p _ hctxs hwf
    · intro hget hwhat hparked hbad hspan hmay hnew
      refine bfinV_goes hctxs hget hwhat hparked hbad hspan hmay hnew fun t hflights _ => ?_
      rw [if_pos hmore, State.modFlight, hflights]
      rfl
    · intro hget hwhat hparked hbad hspan hmay hnew
      refine bfinV_goes hctxs hget hwhat hparked hbad hspan hmay hnew fun t hflights hcycle => ?_
      rw [if_neg (Nat.not_lt.mpr hlast), Finished.map_runs]
      exact answers_one (.inr rfl) hflights hcycle
    · by_cases hk : 4096 < k + s.reserved (s.flightCtx f) (portOf p)
      · obtain ⟨t, hexec, hm, hctx, ha⟩ := roopen_full hc hv hk hone h
        exact ⟨t, hexec, hm, fun _ => ⟨hctx, ha⟩, fun hle => absurd hk (Nat.not_lt.mpr hle)⟩
      · obtain ⟨t, hexec, hm, hwin, hturn⟩ := roopen_enters hctxs hc hv (Nat.not_lt.mp hk) h
        exact ⟨t, hexec, hm, fun hfull => absurd hfull hk, fun _ => ⟨hwin, hturn⟩⟩
    · obtain ⟨t, hexec, ht⟩ := roclose_turns hv hc h
      exact ⟨t, hexec, ht ▸ rfl, ht ▸ rfl⟩
  · obtain ⟨hperm, hsorted⟩ := sortReqs_sorts q
    obtain ⟨hvalue, hcnt, h0, h0', h1, h1'⟩ := o.normalise_value
    exact ⟨fun hc _ hlow hhigh => o.deposit_num neg m z hc hlow hhigh, hvalue, hcnt, h0, h0', h1, h1', hperm, hsorted⟩
  · refine ⟨claim_goes hctxs, free_goes hctxs, fun g hg => ⟨fun hfit hopen h => grow_goes hmem hg hfit hopen h,
      fun hover hcur hhandling hnone hlower h => grow_waits hg hover hcur hhandling hnone hlower h,
      fun hover hlower hopen h => grow_faults hg hover hlower hopen h⟩, fun live hfault h => launch_taken hmem hfault h,
      fun sub hfault hcur hhandling hnone hlower h => launch_waits hfault hcur hhandling hnone hlower h,
      fun sub hfault h => launch_refused hmem hfault h, fun sub hfault hlower h => launch_faults hmem hfault hlower h⟩
  · obtain ⟨habsent, hwrong, hnone⟩ := launchFault_cases s d b
    exact ⟨habsent, hwrong, hnone, fun hbad => claimLease_bad t bs hbad,
      fun hgood i hi hmeet hbefore => claimLease_meets t bs hgood hi hmeet hbefore, fun hgood hno hfull => claimLease_full t bs hgood hno hfull,
      fun hgood hno i hi hfree hbefore => claimLease_free t bs hgood hno hi hfree hbefore⟩

end Sys2Proof.Laws

/-! ## Plane and sequence control (R263, R273) -/

namespace Sys2Proof.Machine

open Sys2Proof.Safety

/-- A change of the issuing unit's engines and the issue of its operation. -/
theorem State.modEng_issued {s : State} (hhead : Heads s) (f : Eng → Eng) (occ : Nat) :
    Engine occ (f s.me.eng) s ((s.modUnit s.u fun x => x.modEng f).issued occ) := by
  obtain ⟨hregs, hleft⟩ := s.modUnit_issued (fun x => x.modEng f) (ne_idle_of_head hhead rfl) rfl occ
  exact ⟨⟨hregs, rfl⟩, hleft, rfl, rfl, rfl, rfl⟩

theorem cellopBad_iff (v : Word) : cellopBad v = true ↔ ∃ i, i < 16 ∧ v.toNat / 4 ^ i % 4 = 3 := by
  simp [cellopBad]

/-- The rows for which MZERO waits: of earlier bundles, into its bank. -/
theorem rowsInto_iff (s : State) (a : BitVec 3) :
    (s.rows.any fun r => r.unit == s.u && r.bank == a && decide (r.seq < s.cur.op.seq)) = true ↔
      ∃ r ∈ s.rows, r.unit = s.u ∧ r.bank = a ∧ r.seq < s.cur.op.seq := by
  simp [and_assoc]

theorem mzero_held {s : State} {a : BitVec 3} (h : ∃ r ∈ s.rows, r.unit = s.u ∧ r.bank = a ∧ r.seq < s.cur.op.seq) :
    exec (.mzero a) s =
      .next (if s.me.spr.inv && !s.me.spr.sup then s.raise (schedFault 2 s.me.spr.sfc s.cur.op.stamp) else s) :=
  if_pos ((rowsInto_iff s a).mpr h)

theorem mzero_free {s : State} {a : BitVec 3} (h : ¬ ∃ r ∈ s.rows, r.unit = s.u ∧ r.bank = a ∧ r.seq < s.cur.op.seq) :
    exec (.mzero a) s = .next ((s.land 1 (.mzero a)).issued 1) :=
  if_neg fun hany => h ((rowsInto_iff s a).mp hany)

end Sys2Proof.Machine

namespace Sys2Proof.Laws

open Sys2Proof.Machine Sys2Proof.Safety

/-- Settles O29: MZERO by the rows it waits for, MSWAP by the load, MCOP by its entries; each that issues is one change of the engines
or one landing. -/
theorem matrixControl : Obligations.MatrixControl := by
  unfold Obligations.MatrixControl
  intro s a b hhead
  refine ⟨fun hfree => ⟨_, mzero_free hfree, s.land_issued 1 _⟩, fun hheld hinvar => ?_, fun hheld hinvar => ?_, fun hload => ?_,
    fun hload => ?_, fun hbad => ?_, fun hgood => ?_, ⟨_, rfl, State.modEng_issued hhead _ 1⟩⟩
  · refine (mzero_held hheld).trans (congrArg _ (if_neg fun hinv => hinvar ?_))
    simpa using hinv
  · refine ⟨_, (mzero_held hheld).trans (congrArg _ (if_pos ?_)), s.raise_raises _⟩
    simpa using hinvar
  · exact if_pos (Option.isSome_iff_ne_none.mpr hload)
  · exact ⟨_, if_neg (by simp [hload]), State.modEng_issued hhead (fun e => { e with active := e.shadow, shadow := e.active }) 1⟩
  · exact ⟨_, congrArg Host.Outcome.next (if_pos ((cellopBad_iff _).mpr hbad)), s.raise_raises _⟩
  · exact ⟨_, congrArg Host.Outcome.next (if_neg fun h => hgood ((cellopBad_iff _).mp h)), State.modEng_issued hhead _ 1⟩

end Sys2Proof.Laws

/-! ## Words that the spec prints (R40, R58) -/

namespace Sys2Proof.Laws

open Sys2Proof.Machine Sys2Proof.Safety

/-- A word that an operation of a slot encodes to decodes to that operation. -/
theorem decodeSlot_of_encode {k : SlotKind} {w : Word} {i : Instr} (hslot : i.slotKind = some k) (hwf : i.wf = true)
    (hword : encode i = w) : decodeSlot k w = .ok (some i) :=
  hword ▸ roundTrip i k hslot hwf

/-- Any other word under major opcode 0 than the NOP is reserved in every slot. -/
theorem decodeSlot_reserved (k : SlotKind) {w : Word} (hw : w ≠ 0) (hmajor : w.extractLsb' 25 7 = 0) :
    decodeSlot k w = .error .reserved := by
  have hzero : major w = 0 := congrArg BitVec.toNat hmajor
  rw [decodeSlot, if_neg (by simpa using hw), if_pos (by simp [hzero])]

/-- Settles O55: each printed word is the encoding of its operation; the NOP and the reserved words by the first two tests of decode. -/
theorem decodedWords : Obligations.DecodedWords := by
  unfold Obligations.DecodedWords
  iterate 31 refine ⟨decodeSlot_of_encode rfl (by decide) (by decide), ?_⟩
  exact ⟨fun k => rfl, fun k w hw hmajor => decodeSlot_reserved k hw hmajor⟩

end Sys2Proof.Laws

/-! ## Exposed results land (R48, R49) -/

namespace Sys2Proof.Machine

open Sys2Proof.Safety

/-- A write of any other special register has no effect (R148, R163). -/
theorem State.setSp_other (s : State) (u : Nat) {p : BitVec 12} (v : BitVec 64)
    (hp : p ∉ [0x015, 0x016, 0x030, 0x031, 0x041, 0x050, 0x051, 0x060, 0x061]) : s.setSp u p v = s := by
  have differs (n : Nat) (hn : BitVec.ofNat 12 n ∈ [0x015, 0x016, 0x030, 0x031, 0x041, 0x050, 0x051, 0x060, 0x061]) : p.toNat ≠ n := by
    rintro rfl
    exact hp (by simpa using hn)
  unfold State.setSp
  split
  case h_9 => rfl
  all_goals exact absurd ‹_› (differs _ (by decide))

/-- A scalar's landing writes no special register (R146). -/
theorem Land.dst_scalar (r : BitVec 5) (v : BitVec 64) (f : BitVec 5) (p : BitVec 12) : (Land.scalar r v f).dst ≠ some (.sp p) := by
  unfold Land.dst
  split <;> simp_all

/-- A guard's landing writes no special register (R146). -/
theorem Land.dst_guard (r : BitVec 2) (b : Bool) (f : BitVec 5) (p : BitVec 12) : (Land.guard r b f).dst ≠ some (.sp p) := by
  unfold Land.dst
  split <;> simp_all

section

variable {s : State} {l : Landing} (hl : s.landings[s.arg.n]? = some l)

include hl

theorem exposedResultLands_waits (hmay : s.mayLand l = false) : Waits .exposedResultLands s := by
  simp [Waits, exec, execExposedResultLands, hl, hmay]

variable (hmay : s.mayLand l = true)

include hmay

/-- A landing other than a write of PREQ. -/
theorem exposedResultLands_eq {w : Land} (hwhat : l.what = w) (hpreq : w.dst ≠ some (.sp 0x031)) : exec .exposedResultLands s =
    .next (({ s with landings := s.landings.eraseIdx s.arg.n } : State).landNow { l with what := w }) := by
  subst hwhat
  have hgoes : ¬ (!s.mayLand l || l.what.dst == some (.sp 0x031)) = true := by
    rw [hmay, Bool.not_true, Bool.false_or, beq_iff_eq]
    exact hpreq
  show execExposedResultLands s = _
  rw [execExposedResultLands, hl]
  exact if_neg hgoes

/-- A landing that changes its unit alone. -/
theorem exposedResultLands_unit (hunits : UnitsOk s) {w : Land} (hwhat : l.what = w) (hpreq : w.dst ≠ some (.sp 0x031))
    (f : Machine.Unit → Machine.Unit) (hnow : ∀ b : State, b.landNow { l with what := w } = b.modUnit l.unit f) :
    Goes (exec .exposedResultLands s) fun t =>
      t.landings = s.landings.eraseIdx s.arg.n ∧ Unital l.unit (f (s.unit l.unit)) s t := by
  refine ⟨_, (exposedResultLands_eq hl hmay hwhat hpreq).trans (congrArg _ (hnow _)), rfl, ?_, fun v hv => ?_, rfl⟩
  · exact (State.modUnit_unit _ hunits _ _ _).trans (if_pos rfl)
  · exact State.modUnit_unit_other _ _ hv

/-- A landing of a special register. -/
theorem exposedResultLands_spr {p : BitVec 12} {v : BitVec 64} (hwhat : l.what = .spr p v) (hpreq : p ≠ 0x031) :
    exec .exposedResultLands s = .next (({ s with landings := s.landings.eraseIdx s.arg.n } : State).setSp l.unit p v) :=
  exposedResultLands_eq hl hmay hwhat (by simpa [Land.dst] using hpreq)

end

/-- A vector register after a write of RFMODE: a gated cluster's registers are empty (R224). -/
theorem Unit.vreg_setRfmode (x : Unit) (m : Byte) (j : BitVec 6) :
    (x.setRfmode m).vreg j = if m.getLsbD (j.toNat / 8) then x.vreg j else [] :=
  Tab.get_filter_keys [] x.eng.v (fun k => m.getLsbD (k / 8)) j.toNat

/-- A byte after a bank has been zeroed (R273). -/
theorem State.rdByte_zeroBank (s : State) (u : Nat) (b : BitVec 3) (a : Nat) : rdByte (s.zeroBank u b).mem a =
    if accPlace u (b.toNat * 65536) ≤ a ∧ a < accPlace u (b.toNat * 65536) + 65536 then 0 else rdByte s.mem a := by
  have h := Tab.get_filter_keys 0 s.mem
    (fun k => !(decide (accPlace u (b.toNat * 65536) ≤ k) && decide (k < accPlace u (b.toNat * 65536) + 65536))) a
  refine Eq.trans h ?_
  by_cases hin : accPlace u (b.toNat * 65536) ≤ a ∧ a < accPlace u (b.toNat * 65536) + 65536
  · rw [if_pos hin, if_neg (by simp [hin])]
  · rw [if_neg hin, if_pos (by rw [Bool.not_eq_true', Bool.and_eq_false_iff, decide_eq_false_iff_not, decide_eq_false_iff_not]; omega)]
    rfl

/-! ## Tracked results arrive (R51) -/

/-- What a flight that ends with results leaves: its unit's registers with the results and flags, unless it runs another task by now. -/
theorem State.writeBack_spec (s : State) (hunits : UnitsOk s) (f : Flight) (ws : List (Stor × Val)) (fl : Flags) :
    let t := (s.dropFlight f).writeBack f ws fl
    Ends f s t ∧ t.mem = s.mem ∧ (∀ u, u ≠ f.unit → t.unit u = s.unit u) ∧ regs (t.unit f.unit) = regs (if s.current f = true then
      (ws.foldl (fun x w => x.put w.1 w.2) (s.unit f.unit)).modSpr (·.flag fl) else s.unit f.unit) := by
  intro t
  have hcur : (s.dropFlight f).current f = s.current f := rfl
  by_cases h : s.current f = true
  · have ht : t = (s.dropFlight f).modUnit f.unit _ := if_pos (hcur.trans h)
    rw [ht, if_pos h]
    refine ⟨rfl, rfl, fun u hu => State.modUnit_unit_other _ _ hu, ?_⟩
    rw [(s.dropFlight f).modUnit_unit hunits, if_pos rfl]
    rfl
  · have ht : t = s.dropFlight f := if_neg (hcur ▸ h)
    rw [ht, if_neg h]
    exact ⟨rfl, rfl, fun u hu => rfl, rfl⟩

section

variable {s : State} {f : Flight} (hf : s.flights[s.arg.n]? = some f)

include hf

theorem presenceResultArrives_waits (hmay : s.mayArrive f = false) : Waits .presenceResultArrives s := by
  simp [Waits, exec, execPresenceResultArrives, hf, hmay]

theorem gloadCopyComplete_waits (hmay : s.mayArrive f = false) : Waits .gloadCopyComplete s := by
  simp only [Waits, exec, execGloadCopyComplete, hf, hmay]
  split <;> simp

variable (hmay : s.mayArrive f = true)

include hmay

theorem presenceResultArrives_result {ws : List (Stor × Val)} {fl : BitVec 5} (hwhat : f.what = .result ws fl) (hcopy : f.isCopy = false) :
    exec .presenceResultArrives s = .next ((s.dropFlight f).writeBack f ws fl) := by
  simp [exec, execPresenceResultArrives, hf, hmay, hcopy, hwhat]

theorem presenceResultArrives_load {d : Stor} {c : Conv} {got : List Host.Cell} {v : Val} (hwhat : f.what = .load d c got)
    (hfree : (f.open && s.banksHold got f.spans) = false) (hv : c.value (loadBytes s.mem got f.spans) = .ok v) :
    exec .presenceResultArrives s = .next ((s.dropFlight f).writeBack f [(d, v)] 0) := by
  have hcopy : f.isCopy = false := by simp [Flight.isCopy, hwhat]
  simp [exec, execPresenceResultArrives, hf, hmay, hcopy, hwhat, hfree, hv]

theorem presenceResultArrives_held {d : Stor} {c : Conv} {got : List Host.Cell} (hwhat : f.what = .load d c got)
    (hheld : (f.open && s.banksHold got f.spans) = true) : exec .presenceResultArrives s =
      .next (s.modFlight f fun g => { g with what := .load d c (s.readFree got f.spans) }) := by
  have hcopy : f.isCopy = false := by simp [Flight.isCopy, hwhat]
  simp [exec, execPresenceResultArrives, hf, hmay, hcopy, hwhat, hheld]

theorem gloadCopyComplete_result {k : BitVec 4} {g : Image} (hwhat : f.what = .result [(.gn k, .image (some g))] 0) :
    exec .gloadCopyComplete s = .next ((s.dropFlight f).writeBack f [(.gn k, .image (some g))] 0) := by
  simp [exec, execGloadCopyComplete, hf, hmay, Flight.isCopy, hwhat]

end

end Sys2Proof.Machine

/-! ## Writes perform, where a matrix read occupies a bank but for its granules (R118, R269) -/

namespace Sys2Proof.Machine

open Sys2Proof.Safety

/-- Ranges of bytes of which each begins where the one before it ends, from `p` to `e`. -/
def Consecutive : Nat → List (Nat × Nat) → Nat → Prop
  | p, [], e => p = e
  | p, q :: r, e => q.1 = p ∧ Consecutive (p + q.2) r e

theorem Consecutive.le {p e : Nat} {ps : List (Nat × Nat)} (h : Consecutive p ps e) : p ≤ e := by
  induction ps generalizing p with
  | nil => exact Nat.le_of_eq h
  | cons q r ih => exact (Nat.le_add_right _ _).trans (ih h.2)

/-- Each of consecutive ranges lies between their ends. -/
theorem Consecutive.within {p e : Nat} {ps : List (Nat × Nat)} (h : Consecutive p ps e) {q : Nat × Nat} (hq : q ∈ ps) :
    p ≤ q.1 ∧ q.1 + q.2 ≤ e := by
  induction ps generalizing p with
  | nil => exact absurd hq List.not_mem_nil
  | cons x r ih =>
    obtain ⟨hx, hr⟩ := h
    rcases List.mem_cons.mp hq with rfl | hq
    · exact ⟨Nat.le_of_eq hx.symm, hx ▸ hr.le⟩
    · obtain ⟨hlo, hhi⟩ := ih hr hq
      exact ⟨by omega, hhi⟩

/-- The ranges between the values of a monotone function are consecutive. -/
theorem consecutive_steps (b : Nat → Nat) (hb : Monotone b) (n j : Nat) :
    Consecutive (b j) ((List.range' j n).map fun i => (b i, b (i + 1) - b i)) (b (j + n)) := by
  induction n generalizing j with
  | zero => rfl
  | succ n ih =>
    have hstep : b j + (b (j + 1) - b j) = b (j + 1) := Nat.add_sub_cancel' (hb (Nat.le_succ j))
    refine ⟨rfl, ?_⟩
    rw [hstep, show j + (n + 1) = j + 1 + n by omega]
    exact ih (j + 1)

/-- Where granule `i` of `n` bytes from a place begins. -/
def granuleAt (p n i : Nat) : Nat := min (p + n) (max p ((p / 8 + i) * 8))

/-- The granules of a range of bytes are consecutive. -/
theorem granuleParts_consecutive (p n : Nat) : Consecutive p (granuleParts [(p, n)]) (p + n) := by
  by_cases hn : n = 0
  · subst hn
    exact rfl
  · have hmono : Monotone (granuleAt p n) := fun i j hij => by unfold granuleAt; omega
    have h := consecutive_steps _ hmono ((p + n - 1) / 8 - p / 8 + 1) 0
    have hparts : granuleParts [(p, n)] = (List.range' 0 ((p + n - 1) / 8 - p / 8 + 1)).map fun i =>
        (granuleAt p n i, granuleAt p n (i + 1) - granuleAt p n i) := by
      simp only [granuleParts, spanParts, List.map_cons, List.map_nil, List.flatten_cons, List.flatten_nil, List.append_nil, beq_iff_eq, hn,
        if_false, List.range_eq_range']
      refine List.map_congr_left fun i hi => ?_
      rw [List.mem_range'_1] at hi
      exact Prod.ext (by unfold granuleAt; dsimp only; omega) (by unfold granuleAt; dsimp only; omega)
    have hfirst : granuleAt p n 0 = p := by unfold granuleAt; omega
    have hlast : granuleAt p n (0 + ((p + n - 1) / 8 - p / 8 + 1)) = p + n := by unfold granuleAt; omega
    rwa [hfirst, hlast, ← hparts] at h

/-- Memory after bytes have been written to ranges of it, but for ranges that are busy. -/
def wrFree (busy : Nat × Nat → Bool) : List Host.Cell → List (Nat × Nat) → List Byte → List Host.Cell
  | m, [], _ => m
  | m, q :: r, bs => wrFree busy (if busy q then m else wrBytes m q.1 (bs.take q.2)) r (bs.drop q.2)

section

variable {busy : Nat × Nat → Bool}

/-- Bytes outside one range stay. -/
theorem rdByte_wrFree_step (m : List Host.Cell) (q : Nat × Nat) (bs : List Byte) {a : Nat} (ha : a < q.1 ∨ q.1 + q.2 ≤ a) :
    rdByte (if busy q then m else wrBytes m q.1 (bs.take q.2)) a = rdByte m a := by
  split
  · rfl
  · refine rdByte_wrBytes_out m q.1 _ (ha.imp_right fun h => ?_)
    rw [List.length_take]
    omega

/-- Bytes outside consecutive ranges stay. -/
theorem rdByte_wrFree_out {p e : Nat} {ps : List (Nat × Nat)} (h : Consecutive p ps e) (m : List Host.Cell) (bs : List Byte) {a : Nat}
    (ha : a < p ∨ e ≤ a) : rdByte (wrFree busy m ps bs) a = rdByte m a := by
  induction ps generalizing p m bs with
  | nil => rfl
  | cons q r ih =>
    obtain ⟨rfl, hr⟩ := h
    have hle := hr.le
    exact (ih hr _ _ (by omega)).trans (rdByte_wrFree_step m q bs (by omega))

/-- Of consecutive ranges a busy one stays, and another holds what has been written to it. -/
theorem rdBytes_wrFree {p e : Nat} {ps : List (Nat × Nat)} (h : Consecutive p ps e) (m : List Host.Cell) (hm : Memory.wf m = true)
    (bs : List Byte) (hlen : p + bs.length = e) {q : Nat × Nat} (hq : q ∈ ps) :
    rdBytes (wrFree busy m ps bs) q.1 q.2 = if busy q then rdBytes m q.1 q.2 else (bs.drop (q.1 - p)).take q.2 := by
  induction ps generalizing p m bs with
  | nil => exact absurd hq List.not_mem_nil
  | cons x r ih =>
    obtain ⟨rfl, hr⟩ := h
    have hle := hr.le
    rcases List.mem_cons.mp hq with rfl | hq
    · have hrest : rdBytes (wrFree busy m (q :: r) bs) q.1 q.2 =
          rdBytes (if busy q then m else wrBytes m q.1 (bs.take q.2)) q.1 q.2 :=
        List.map_congr_left fun i hi => rdByte_wrFree_out hr _ _ (by have := List.mem_range.mp hi; omega)
      rw [hrest]
      split
      · rfl
      · have hread := rdBytes_wrBytes m q.1 (bs.take q.2) hm
        rw [List.length_take, show min q.2 bs.length = q.2 by omega] at hread
        rw [hread, Nat.sub_self, List.drop_zero]
    · obtain ⟨hlo, -⟩ := hr.within hq
      have hwf : Memory.wf (if busy x then m else wrBytes m x.1 (bs.take x.2)) = true := by
        split
        · exact hm
        · exact wf_wrBytes m _ _ hm
      have hstep : rdBytes (if busy x then m else wrBytes m x.1 (bs.take x.2)) q.1 q.2 = rdBytes m q.1 q.2 :=
        List.map_congr_left fun i _ => rdByte_wrFree_step m x bs (by omega)
      have hdrop : x.2 + (q.1 - (x.1 + x.2)) = q.1 - x.1 := by omega
      rw [wrFree, ih hr _ hwf (bs.drop x.2) (by rw [List.length_drop]; omega) hq, hstep, List.drop_drop, hdrop]

end

/-- One granule of a write: it performs, or is left with its bytes. -/
def writeFreeStep (busy : Nat × Nat → Bool) (a : State × List (Nat × Nat) × List Byte × List Byte) (p : Nat × Nat) :
    State × List (Nat × Nat) × List Byte × List Byte :=
  if busy p then (a.1, a.2.1 ++ [p], a.2.2.1 ++ a.2.2.2.take p.2, a.2.2.2.drop p.2)
  else (a.1.write p.1 (a.2.2.2.take p.2), a.2.1, a.2.2.1, a.2.2.2.drop p.2)

theorem foldl_writeFreeStep (busy : Nat × Nat → Bool) (ps : List (Nat × Nat)) (a : State × List (Nat × Nat) × List Byte × List Byte) :
    ∃ ws, (ps.foldl (writeFreeStep busy) a).1 = { a.1 with mem := wrFree busy a.1.mem ps a.2.2.2, watches := ws } := by
  induction ps generalizing a with
  | nil => exact ⟨a.1.watches, rfl⟩
  | cons p ps ih =>
    obtain ⟨ws, h⟩ := ih (writeFreeStep busy a p)
    refine ⟨ws, h.trans ?_⟩
    rw [wrFree, writeFreeStep]
    split <;> rfl

/-- What a write that waits in part leaves: memory written where its banks are free, watches, and what is left of the flight. -/
theorem State.writeFree_eq (s : State) (f : Flight) (bs : List Byte) (w : List Byte → Fly) : ∃ ws fs,
    s.writeFree f bs w = { s with mem := wrFree s.bankBusy s.mem (granuleParts f.spans) bs, watches := ws, flights := fs } := by
  obtain ⟨ws, h⟩ := foldl_writeFreeStep s.bankBusy (granuleParts f.spans) (s, [], [], bs)
  let r := (granuleParts f.spans).foldl (writeFreeStep s.bankBusy) (s, [], [], bs)
  have hwrite : s.writeFree f bs w = r.1.modFlight f fun x => { x with spans := r.2.1, what := w r.2.2.1 } := rfl
  rw [hwrite, State.modFlight, h]
  exact ⟨ws, _, rfl⟩

section

variable {s : State} {f : Flight} (hf : s.flights[s.arg.n]? = some f)

include hf

theorem writePerformed_waits (hmay : s.mayPerform f = false) : Waits .writePerformed s := by
  simp [Waits, exec, execWritePerformed, hf, hmay]

variable (hmay : s.mayPerform f = true)

include hmay

theorem writePerformed_store {bs : List Byte} (hwhat : f.what = .store bs) : exec .writePerformed s =
    .next (if s.writeWaits f then s.writeFree f bs .store else (s.dropFlight f).writeSpans f.spans bs) := by
  simp [exec, execWritePerformed, hf, hmay, hwhat]

theorem writePerformed_star {fmt : BitVec 4} {rm : BitVec 3} {seed : BitVec 64} {bank row k src : Nat}
    (hwhat : f.what = .star fmt rm seed bank row k src) (hwait : s.writeWaits f = false) : exec .writePerformed s =
    .next ((s.dropFlight f).writeSpans f.spans (starBytes s.mem src bank row k fmt.toNat rm seed)) := by
  simp [exec, execWritePerformed, hf, hmay, hwhat, hwait]

theorem writePerformed_bits {ts : List Nat} {b : Bool} (hwhat : f.what = .bits ts b) :
    exec .writePerformed s = .next ((s.dropFlight f).setTiles ts b) := by
  simp [exec, execWritePerformed, hf, hmay, hwhat]

end

/-- A store to one range that waits in part. -/
theorem State.writeFree_spec (s : State) (hmem : MemoryOk s) (f : Flight) {bs : List Byte} {p : Nat} (hspan : f.spans = [(p, bs.length)])
    (w : List Byte → Fly) :
    let t := s.writeFree f bs w
    t.units = s.units ∧ t.tiles = s.tiles ∧ Else p bs.length s t ∧
      (∀ q ∈ granuleParts f.spans, s.bankBusy q = true → rdBytes t.mem q.1 q.2 = rdBytes s.mem q.1 q.2) ∧
      ∀ q ∈ granuleParts f.spans, s.bankBusy q = false → rdBytes t.mem q.1 q.2 = (bs.drop (q.1 - p)).take q.2 := by
  intro t
  obtain ⟨ws, fs, ht⟩ := s.writeFree_eq f bs w
  have hparts := granuleParts_consecutive p bs.length
  rw [← hspan] at hparts
  rw [show t = _ from ht]
  refine ⟨rfl, rfl, fun a ha => rdByte_wrFree_out hparts _ _ ha, fun q hq hbusy => ?_, fun q hq hfree => ?_⟩
  · exact (rdBytes_wrFree hparts _ hmem bs rfl hq).trans (if_pos hbusy)
  · exact (rdBytes_wrFree hparts _ hmem bs rfl hq).trans (if_neg (by simp [hfree]))

/-- A write to one range that ends its flight. -/
theorem State.dropFlight_writeSpans (s : State) (hmem : MemoryOk s) (f : Flight) {bs : List Byte} {p : Nat} (hspan : f.spans = [(p, bs.length)]) :
    let t := (s.dropFlight f).writeSpans f.spans bs
    Ends f s t ∧ rdBytes t.mem p bs.length = bs ∧ Else p bs.length s t ∧ t.units = s.units ∧ t.tiles = s.tiles := by
  intro t
  have ht : t = (s.dropFlight f).write p bs := by
    show (s.dropFlight f).writeSpans f.spans bs = _
    rw [hspan, State.writeSpans, List.take_length]
    rfl
  rw [ht]
  exact ⟨rfl, rdBytes_wrBytes s.mem p bs hmem, fun a ha => rdByte_wrBytes_out s.mem p bs ha, rfl, rfl⟩

end Sys2Proof.Machine

namespace Sys2Proof.Machine

open Sys2Proof.Safety

section

variable {s : State} {l : Landing} (hl : s.landings[s.arg.n]? = some l) (hmay : s.mayLand l = true) (hunits : UnitsOk s)

include hl hmay hunits

/-- A scalar result lands in its register with its flags. -/
theorem exposedResultLands_scalar {r : BitVec 5} {v : BitVec 64} {f : BitVec 5} (hwhat : l.what = .scalar r v f)
    (hwf : Tab.wf 0 (s.unit l.unit).s = true) : Goes (exec .exposedResultLands s) fun t =>
      let x := s.unit l.unit
      let y := t.unit l.unit
      t.landings = s.landings.eraseIdx s.arg.n ∧ t.mem = s.mem ∧ y.sreg r = (if r = 0 then 0 else v) ∧
      (∀ j, j ≠ r → y.sreg j = x.sreg j) ∧ y = { x.modSpr (·.flag f) with s := y.s } ∧ ∀ u, u ≠ l.unit → t.unit u = s.unit u := by
  obtain ⟨t, hexec, hlandings, hunit, hothers, hm⟩ :=
    exposedResultLands_unit hl hmay hunits hwhat (Land.dst_scalar r v f _)
      (fun x => (x.setS r v).modSpr (·.flag f)) fun _ => rfl
  have hreg (j : BitVec 5) : (t.unit l.unit).sreg j = if j = r ∧ r ≠ 0 then v else (s.unit l.unit).sreg j := by
    rw [hunit]
    exact Unit.sreg_setS _ hwf r j v
  refine ⟨t, hexec, hlandings, hm, ?_, fun j hj => ?_, ?_, hothers⟩
  · rw [hreg]
    by_cases hr : r = 0
    · subst hr
      rfl
    · rw [if_pos ⟨rfl, hr⟩, if_neg hr]
  · rw [hreg, if_neg fun h => hj h.1]
  · rw [hunit, Unit.setS]
    split <;> rfl

/-- A guard lands with its flags. -/
theorem exposedResultLands_guard {r : BitVec 2} {b : Bool} {f : BitVec 5} (hwhat : l.what = .guard r b f) :
    Goes (exec .exposedResultLands s) fun t =>
      let x := s.unit l.unit
      let y := t.unit l.unit
      t.landings = s.landings.eraseIdx s.arg.n ∧ t.mem = s.mem ∧ y.guard r = (decide (r = 0) || b) ∧
      (∀ j, j ≠ r → y.guard j = x.guard j) ∧ y = { x.modSpr (·.flag f) with g := y.g } ∧ ∀ u, u ≠ l.unit → t.unit u = s.unit u := by
  obtain ⟨t, hexec, hlandings, hunit, hothers, hm⟩ :=
    exposedResultLands_unit hl hmay hunits hwhat (Land.dst_guard r b f _)
      (fun x => (x.setG r b).modSpr (·.flag f)) fun _ => rfl
  have hreg (j : BitVec 2) : (t.unit l.unit).guard j = if j = r ∧ r ≠ 0 then b else (s.unit l.unit).guard j := by
    rw [hunit]
    exact Unit.guard_setG _ r j b
  refine ⟨t, hexec, hlandings, hm, ?_, fun j hj => ?_, ?_, hothers⟩
  · rw [hreg]
    by_cases hr : r = 0
    · subst hr
      rfl
    · rw [if_pos ⟨rfl, hr⟩, decide_eq_false hr, Bool.false_or]
  · rw [hreg, if_neg fun h => hj h.1]
  · rw [hunit, Unit.setG]
    split <;> rfl

end

end Sys2Proof.Machine

namespace Sys2Proof.Laws

open Sys2Proof.Machine Sys2Proof.Safety

/-- Settles O44: each landing by the register that it changes, each arrival by what it writes back, each write by its granules. -/
theorem landingEvents : Obligations.LandingEvents := by
  unfold Obligations.LandingEvents
  intro s hunits hmem n lands flag
  refine ⟨fun l hl hmay => exposedResultLands_waits hl hmay, fun l hl hmay => ?_, fun f hf hmay => ?_,
    fun f hf hmay => ⟨presenceResultArrives_waits hf hmay, gloadCopyComplete_waits hf hmay⟩,
    fun f hf hmay => writePerformed_waits hf hmay, fun f hf hmay => ?_⟩
  · intro x
    have unit {w : Land} (hwhat : l.what = w) := exposedResultLands_unit hl hmay hunits hwhat
    refine ⟨fun r v f hwhat hwf => exposedResultLands_scalar hl hmay hunits hwhat hwf,
      fun r b f hwhat => exposedResultLands_guard hl hmay hunits hwhat,
      fun m hwhat => unit hwhat nofun (·.modSpr ({ · with rm := m })) fun _ => rfl,
      fun v hwhat => unit hwhat nofun (·.modSpr ({ · with efrm := v })) fun _ => rfl,
      fun v hwhat => unit hwhat nofun (·.modSpr ({ · with efrv := v })) fun _ => rfl,
      fun v hwhat => unit hwhat nofun (·.modSpr ({ · with efrt := v })) fun _ => rfl,
      fun f hwhat => unit hwhat nofun (·.modSpr (·.flag f)) fun _ => rfl,
      fun k bs hwhat => unit hwhat nofun
        (·.modEng fun e => { e with sc := Tab.set (List.replicate 512 0) e.sc k.toNat bs }) fun _ => rfl,
      fun m hwhat => ?_, fun p v hwhat => ?_, fun b hwhat => ?_⟩
    · obtain ⟨t, hexec, hlandings, hunit, hothers, hm⟩ := unit hwhat nofun (·.setRfmode m) fun _ => rfl
      refine ⟨t, hexec, hlandings, hm, hothers, fun j => ?_, ?_⟩
      · rw [hunit]
        exact Unit.vreg_setRfmode _ m j
      · rw [hunit]
        rfl
    · have spr (hpreq : p ≠ 0x031) := exposedResultLands_spr hl hmay hwhat hpreq
      have writes {q : BitVec 12} (hq : p = q) (hpreq : q ≠ 0x031) (f : Machine.Unit → Machine.Unit)
          (hset : ∀ b : State, b.setSp l.unit q v = b.modUnit l.unit f) :=
        unit (hwhat.trans (congrArg (Land.spr · v) hq)) (by simpa [Land.dst] using hpreq) f hset
      intro same
      refine ⟨fun hp => writes hp (by decide) (·.modSpr fun y => { y with fflags := y.fflags &&& ~~~(v.setWidth 5) }) fun _ => rfl,
        fun hp => writes hp (by decide) (·.modSpr ({ · with srseed := v })) fun _ => rfl,
        fun hp => writes hp (by decide)
          (fun x => (x.modSpr ({ · with epc := v &&& 0xFFFF0007FFFFFFFF })).modDisp ({ · with redo := [], gaps := [] })) fun _ => rfl,
        fun hp => writes hp (by decide) (·.modSpr ({ · with tscr0 := v })) fun _ => rfl,
        fun hp => writes hp (by decide) (·.modSpr ({ · with tscr1 := v })) fun _ => rfl, ?_, ?_, ?_, ?_⟩
      · rintro rfl hctxs
        have hctx (k : Nat) := s.modCtx_ctx hctxs (s.ctxOf l.unit).toNat k (·.setPlimit v)
        exact ⟨_, spr (by decide), ⟨rfl, rfl, rfl⟩, rfl, (hctx _).trans (if_pos rfl), fun k hk => (hctx k).trans (if_neg hk)⟩
      · rintro rfl
        refine ⟨_, spr (by decide), ⟨rfl, rfl, rfl⟩, rfl, ?_⟩
        show s.glob.writeSwitchat v = _
        simp [Glob.writeSwitchat]
      · rintro rfl
        exact ⟨_, spr (by decide), ⟨rfl, rfl, rfl⟩, rfl, rfl⟩
      · intro hp
        exact ⟨_, (spr fun h => hp (by simp [h])).trans (congrArg _ (State.setSp_other _ _ v hp)), ⟨rfl, rfl, rfl⟩, rfl, rfl⟩
    · have hzero := s.rdByte_zeroBank l.unit b
      exact ⟨_, exposedResultLands_eq hl hmay hwhat nofun, rfl, rfl, fun a ha => (hzero a).trans (if_neg (by omega)),
        fun a hlo hhi => (hzero a).trans (if_pos ⟨hlo, hhi⟩)⟩
  · intro arrives
    have back (ws : List (Stor × Val)) (fl : BitVec 5) := s.writeBack_spec hunits f ws fl
    refine ⟨fun ws fl hwhat hcopy => ⟨_, presenceResultArrives_result hf hmay hwhat hcopy, back ws fl⟩,
      fun d c got v hwhat hfree hv => ⟨_, presenceResultArrives_load hf hmay hwhat hfree hv, back _ 0⟩,
      fun d c got hwhat hheld => ⟨_, presenceResultArrives_held hf hmay hwhat hheld, rfl, rfl, rfl⟩,
      fun k g hwhat => ⟨_, gloadCopyComplete_result hf hmay hwhat, back _ 0⟩⟩
  · refine ⟨fun bs p hwhat hspan hwait => ?_, fun bs p hwhat hspan hwait => ?_, fun fmt rm seed bank row k src p hwhat => ?_,
      fun ts b hwhat => ?_⟩
    · exact ⟨_, (writePerformed_store hf hmay hwhat).trans (congrArg _ (if_pos hwait)), s.writeFree_spec hmem f hspan _⟩
    · exact ⟨_, (writePerformed_store hf hmay hwhat).trans (congrArg _ (if_neg (by simp [hwait]))), s.dropFlight_writeSpans hmem f hspan⟩
    · intro bs hspan hwait
      exact ⟨_, writePerformed_star hf hmay hwhat hwait, s.dropFlight_writeSpans hmem f hspan⟩
    · obtain ⟨hin, hout⟩ := (s.dropFlight f).setTiles_tile ts b
      obtain ⟨m, w, ht⟩ := (s.dropFlight f).setTiles_eq ts b
      refine ⟨_, writePerformed_bits hf hmay hwhat, ?_, ?_, ?_, hin, hout⟩ <;> rw [ht] <;> rfl

end Sys2Proof.Laws

/-! ## An operation notes faults of its own slot alone (R134) -/

namespace Sys2Proof.Machine

open Sys2Proof.Safety

/-- Every fault noted and not yet taken is one of the slot from which an operation issues, slot `k`. -/
def OwnFaults (k : Nat) (s : State) : Prop := s.cur.slot = k ∧ ∀ e ∈ s.units, ∀ p, e.2.disp.pend = some p → p.slot = k

namespace OwnFaults

variable {k : Nat} {s t : State}

theorem of_same (h : OwnFaults k s) (hunits : t.units = s.units) (hcur : t.cur = s.cur) : OwnFaults k t := by
  rw [OwnFaults, hunits, hcur]
  exact h

/-- The fault noted for a unit. -/
theorem unit (h : OwnFaults k s) (u : Nat) : ∀ p, (s.unit u).disp.pend = some p → p.slot = k := by
  intro p hp
  by_cases hidle : s.unit u = Unit.idle
  · rw [hidle] at hp
    exact nomatch hp
  · exact h.2 _ (Tab.mem_of_get _ _ _ hidle) p hp

theorem setUnit (h : OwnFaults k s) (u : Nat) {x : Unit} (hx : ∀ p, x.disp.pend = some p → p.slot = k) : OwnFaults k (s.setUnit u x) := by
  refine ⟨h.1, fun e he => ?_⟩
  have hset : e ∈ Tab.set Unit.idle s.units u x := he
  unfold Tab.set at hset
  split at hset
  · exact h.2 e (Tab.mem_del _ _ hset)
  · rcases Tab.mem_put _ _ _ hset with rfl | hold
    · exact hx
    · exact h.2 e hold

/-- A change of a unit that keeps its noted fault or forgets it. -/
theorem modUnit_or (h : OwnFaults k s) (u : Nat) {f : Unit → Unit} (hf : ∀ x, (f x).disp.pend = x.disp.pend ∨ (f x).disp.pend = none) :
    OwnFaults k (s.modUnit u f) := by
  refine h.setUnit u fun p hp => ?_
  rcases hf (s.unit u) with hkeep | hnone
  · exact h.unit u p (hkeep ▸ hp)
  · exact nomatch hnone.symm.trans hp

theorem modUnit (h : OwnFaults k s) (u : Nat) {f : Unit → Unit} (hf : ∀ x, (f x).disp.pend = x.disp.pend) : OwnFaults k (s.modUnit u f) :=
  h.modUnit_or u fun x => .inl (hf x)

theorem foldl {α : Type} (l : List α) {f : State → α → State} (hf : ∀ t a, OwnFaults k t → OwnFaults k (f t a)) (h : OwnFaults k s) :
    OwnFaults k (l.foldl f s) := by
  induction l generalizing s with
  | nil => exact h
  | cons a l ih => exact ih (hf s a h)

/-- A fault that the issuing operation raises. -/
@[simp] theorem raise (h : OwnFaults k s) (f : Flt) : OwnFaults k (s.raise f) := by
  refine h.setUnit _ fun p hp => ?_
  have hpend : (s.unit s.u).disp.pend = some p ∨ p.slot = s.cur.slot := by
    simp only [Unit.modDisp] at hp
    split at hp
    · split at hp
      · exact .inl hp
      · exact .inr (Option.some.inj hp ▸ rfl)
    · exact .inr (Option.some.inj hp ▸ rfl)
  exact hpend.elim (h.unit _ p) fun hslot => hslot.trans h.1

/-! ### Issue -/

@[simp] theorem issuedAs (h : OwnFaults k s) (occ : Nat) (eff : Bool) : OwnFaults k (s.issuedAs occ eff) := by
  have htrim (x : Unit) (n : Nat) : (x.trim n).disp.pend = x.disp.pend := rfl
  have hissued (x : Unit) : (issuedUnit s occ eff x).disp.pend = x.disp.pend := rfl
  rw [State.issuedAs_eq]
  exact modUnit (modUnit h _ hissued) _ fun x => htrim x _

@[simp] theorem issued (h : OwnFaults k s) (occ : Nat) : OwnFaults k (s.issued occ) := h.issuedAs occ true

@[simp] theorem holdPorts (h : OwnFaults k s) (i : Instr) (occ : Nat) : OwnFaults k (s.holdPorts i occ) := h.modUnit _ fun _ => rfl

@[simp] theorem holding (h : OwnFaults k s) (w : Hold) : OwnFaults k (s.holding w) := h.modUnit _ fun _ => rfl

@[simp] theorem redirect (h : OwnFaults k s) (f : Front) : OwnFaults k (s.redirect f) := h.modUnit _ fun _ => rfl

@[simp] theorem land (h : OwnFaults k s) (lat : Nat) (w : Land) : OwnFaults k (s.land lat w) := h.of_same rfl rfl

@[simp] theorem fly (h : OwnFaults k s) (f : Flight) : OwnFaults k (s.fly f) := h.of_same rfl rfl

@[simp] theorem result (h : OwnFaults k s) (lat : Nat) (ws : List (Stor × Val)) (fl : Flags) : OwnFaults k (s.result lat ws fl) :=
  h.of_same rfl rfl

@[simp] theorem scalarOut (h : OwnFaults k s) (lat : Nat) (d : BitVec 5) (v : BitVec 64) (f : Flags) : OwnFaults k (s.scalarOut lat d v f) :=
  (h.land _ _).issued 1

@[simp] theorem floatOut (h : OwnFaults k s) (lat : Nat) (d : BitVec 5) (r : Res) : OwnFaults k (s.floatOut lat d r) := h.scalarOut _ _ _ _

@[simp] theorem guardOut (h : OwnFaults k s) (lat : Nat) (g : BitVec 2) (b : Bool) (f : Flags) : OwnFaults k (s.guardOut lat g b f) :=
  (h.land _ _).issued 1

@[simp] theorem statusTo (h : OwnFaults k s) (d : BitVec 5) (st : BitVec 14) : OwnFaults k (s.statusTo d st) := (h.result _ _ _).issued 1

@[simp] theorem waitOr (h : OwnFaults k s) (sub : Byte) : OwnFaults k (s.waitOr sub) := by
  unfold State.waitOr
  split
  · exact h.raise _
  · exact h

/-! ### Control -/

@[simp] theorem jump (h : OwnFaults k s) (a : BitVec 64) : OwnFaults k (s.jump a) := (h.redirect _).issued 1

@[simp] theorem fall (h : OwnFaults k s) : OwnFaults k s.fall := (h.redirect _).issued 1

@[simp] theorem branch (h : OwnFaults k s) (taken : Bool) (o : BitVec 16) : OwnFaults k (s.branch taken o) := by
  unfold State.branch
  split
  · exact h.jump _
  · exact h.fall

@[simp] theorem jumpTo (h : OwnFaults k s) (a : BitVec 64) : OwnFaults k (s.jumpTo a) := by
  unfold State.jumpTo
  split
  · exact h.raise _
  · exact h.jump _

@[simp] theorem openLoop (h : OwnFaults k s) (rot : Bool) (count : Word) (e : BitVec 12) : OwnFaults k (s.openLoop rot count e) := by
  unfold State.openLoop
  dsimp only
  split
  · exact h.jump _
  · split
    · exact h.raise _
    · exact (h.redirect _).issued 1

@[simp] theorem sysret (h : OwnFaults k s) (u : Nat) (skip : Bool) : OwnFaults k (s.sysret u skip) := h.modUnit _ fun _ => rfl

@[simp] theorem setCoherent (h : OwnFaults k s) (u : Nat) (half v : Bool) : OwnFaults k (s.setCoherent u half v) := by
  have hset (f : Spr → Spr) : OwnFaults k (s.modUnit u fun x => x.modSpr f) := h.modUnit u fun _ => rfl
  unfold State.setCoherent
  dsimp only
  split
  · exact (hset _).of_same rfl rfl
  · exact hset _

/-! ### Events, faults that are logged, the ends of tasks -/

@[simp] theorem postEvent (h : OwnFaults k s) (u : Nat) (e : Event) : OwnFaults k (s.postEvent u e) := h.modUnit u fun _ => rfl

@[simp] theorem postDone (h : OwnFaults k s) (u : Nat) (e : Event) : OwnFaults k (s.postDone u e) := by
  unfold State.postDone
  split
  · exact h.postEvent u e
  · exact h.modUnit u fun _ => rfl

@[simp] theorem postFault (h : OwnFaults k s) (c u : Nat) (e : Event) : OwnFaults k (s.postFault c u e) := by
  unfold State.postFault
  dsimp only
  split
  · split
    · next x hx =>
      obtain ⟨-, -, -, -, hpend⟩ := Unit.takeFault_eq _ _ _ hx
      exact h.setUnit u fun p hp => h.unit u p (hpend ▸ hp)
    · exact h.of_same rfl rfl
  · split <;> exact h.of_same rfl rfl

@[simp] theorem writeSpans (h : OwnFaults k s) (sp : List (Nat × Nat)) (bs : List Byte) : OwnFaults k (s.writeSpans sp bs) := by
  obtain ⟨m, w, hwrite⟩ := s.writeSpans_eq sp bs
  rw [hwrite]
  exact h.of_same rfl rfl

@[simp] theorem logRecord (h : OwnFaults k s) (w : Who) (f : Flt) (r : BitVec 512) : OwnFaults k (s.logRecord w f r) := by
  have hpost {t : State} (ht : OwnFaults k t) (drop : Bool) (tag idx : Nat) : OwnFaults k (match t.faultCtl w with
      | some u => t.postFault w.ctx.toNat u (faultEvent w tag f drop idx)
      | none => t) := by
    split
    · exact ht.postFault _ _ _
    · exact ht
  unfold State.logRecord
  dsimp only
  split
  · refine hpost ?_ _ _ _
    exact (h.writeSpans _ _).of_same rfl rfl
  · refine hpost ?_ _ _ _
    exact h.of_same rfl rfl

@[simp] theorem logFault (h : OwnFaults k s) (w : Who) (f : Flt) : OwnFaults k (s.logFault w f) := h.logRecord _ _ _

@[simp] theorem complete (h : OwnFaults k s) (g : Group) : OwnFaults k (s.complete g) := by
  unfold State.complete
  split
  · dsimp only
    generalize (if (s.gword g 4 == 0xFFFFFFFF) = true then (1 : BitVec 2) else 2) = st
    have hstatus : OwnFaults k (s.setStatus g st) := h.of_same rfl rfl
    refine postDone (of_same (s := _) ?_ rfl rfl) _ _
    split
    · exact hstatus
    · split
      · split
        · exact hstatus.logFault _ _
        · exact hstatus.writeSpans _ _
      · exact hstatus.logFault _ _
  · exact h

@[simp] theorem retireTask (h : OwnFaults k s) (g : Group) (i : Word) (failed : Bool) : OwnFaults k (s.retireTask g i failed) := by
  unfold State.retireTask
  dsimp only
  have hwords : OwnFaults k (if failed = true then
      (s.setGword g 24 (s.gword g 24 + 1)).setGword g 4
        (if i.ult ((s.setGword g 24 (s.gword g 24 + 1)).gword g 4) then i else (s.setGword g 24 (s.gword g 24 + 1)).gword g 4)
      else s.setGword g 24 (s.gword g 24 + 1)) := by
    split <;> exact h.of_same rfl rfl
  split
  · exact hwords.complete _
  · exact hwords

/-- Units that stop, one after the other, forget their noted faults. -/
theorem halts (h : OwnFaults k s) (us : List Nat) {f : State → Nat → Unit → Unit}
    (hf : ∀ t v x, (f t v x).disp.pend = x.disp.pend ∨ (f t v x).disp.pend = none) :
    OwnFaults k (us.foldl (fun t v => t.modUnit v (f t v)) s) :=
  foldl us (fun t v ht => ht.modUnit_or v (hf t v)) h

@[simp] theorem freeTask (h : OwnFaults k s) (u : Nat) (t : Task) : OwnFaults k (s.freeTask u t) := by
  unfold State.freeTask
  dsimp only
  split
  · refine h.halts _ fun t v x => ?_
    split
    · exact .inl rfl
    · exact .inr rfl
  · exact h

@[simp] theorem endTask (h : OwnFaults k s) (u : Nat) (t : Task) : OwnFaults k (s.endTask u t) := by
  unfold State.endTask
  dsimp only
  refine halts ?_ _ fun t v x => .inr rfl
  split
  · exact h
  · refine retireTask ?_ _ _ _
    split
    · exact h.postEvent _ _
    · exact h

@[simp] theorem stopCtl (h : OwnFaults k s) (u : Nat) (a : BitVec 64) : OwnFaults k (s.stopCtl u a) := by
  have hdrop : OwnFaults k (s.dropResults u) := h.of_same rfl rfl
  have hhalt : OwnFaults k ((s.dropResults u).modUnit u fun x => { x.halt u with start := a }) := hdrop.modUnit_or u fun x => .inr rfl
  unfold State.stopCtl
  dsimp only
  split
  · exact hhalt
  · exact hhalt.of_same rfl rfl

@[simp] theorem popEvent (h : OwnFaults k s) (d e : BitVec 5) (wait : Bool) : OwnFaults k (s.popEvent d e wait) := by
  have hrefill (x : Unit) : x.refill.disp.pend = x.disp.pend := by
    obtain ⟨e, held, owed, hx, -⟩ := x.refill_eq
    rw [hx]
  unfold State.popEvent
  dsimp only
  split
  · refine issued (result ?_ _ _ _) 1
    exact h.modUnit _ fun x => hrefill _
  · split
    · exact h
    · exact (h.result _ _ _).issued 1

/-! ### Budgets, tiles and accesses -/

@[simp] theorem charge (h : OwnFaults k s) (d m : Nat) (use : List (Nat × Nat)) : OwnFaults k (s.charge d m use) := by
  obtain ⟨ds, hcharge⟩ := s.charge_eq d m use
  rw [hcharge]
  exact h.of_same rfl rfl

@[simp] theorem freeze (h : OwnFaults k s) (d m r : Nat) (w : Who) : OwnFaults k (s.freeze d m r w) := by
  have hlog (f : Flt) : OwnFaults k ((s.logFault w f).modBudget d m r fun b => { b with frz := true }) := (h.logFault w f).of_same rfl rfl
  unfold State.freeze
  dsimp only
  split
  · exact modUnit (hlog _) _ fun _ => rfl
  · split
    · exact (hlog _).of_same rfl rfl
    · split <;> exact (hlog _).of_same rfl rfl

theorem grant (h : OwnFaults k s) (r : Reach) (wait : Bool) {f : State → State} (hf : ∀ t, OwnFaults k t → OwnFaults k (f t)) :
    OwnFaults k (s.grant r wait f) := by
  have htlb : OwnFaults k (s.tlbAdd (dieOf s.u) r.tlb) := h.of_same (s.tlbAdd_units _ _) (s.tlbAdd_cur _ _)
  unfold State.grant
  dsimp only
  split
  · exact h
  · split
    · exact hf _ htlb
    · split
      · exact htlb.freeze _ _ _ _
      · exact hf _ (htlb.charge _ _ _)

theorem coAdmit (h : OwnFaults k s) (d : Nat) (w : Who) (sp : List (Nat × Nat)) (link : Option Nat) {f : State → State}
    (hf : ∀ t, OwnFaults k t → OwnFaults k (f t)) : OwnFaults k (s.coAdmit d w sp link f) := by
  unfold State.coAdmit
  dsimp only
  split
  · split
    · exact h
    · exact h.freeze _ _ _ _
  · exact hf _ (h.charge _ _ _)

theorem withOperand (h : OwnFaults k s) (sa : BitVec 64) (g : BitVec 2) (span : Nat) (extra : List Flt) (more : List (Nat × Nat))
    {f : State → State} (hf : ∀ t, OwnFaults k t → OwnFaults k (f t)) : OwnFaults k (s.withOperand sa g span extra more f) := by
  unfold State.withOperand
  dsimp only
  split
  · exact h.raise _
  · split
    · exact h
    · exact h.grant _ _ hf

@[simp] theorem setTiles (h : OwnFaults k s) (ts : List Nat) (b : Bool) : OwnFaults k (s.setTiles ts b) := by
  obtain ⟨m, l, htiles⟩ := s.setTiles_eq ts b
  rw [htiles]
  exact h.of_same rfl rfl

end OwnFaults

end Sys2Proof.Machine

namespace Sys2Proof.Machine

open Sys2Proof.Safety

namespace OwnFaults

variable {k : Nat} {s t : State}

/-! ### Results of vector operations, loads, stores and requests -/

@[simp] theorem vecDone (h : OwnFaults k s) (w : BitVec 2) (i : Instr) (q : Nat) (d : Stor) (v : Val) (fl : Flags) :
    OwnFaults k (s.vecDone w i q d v fl) := ((h.result _ _ _).issued _).holdPorts _ _

@[simp] theorem elementwise (h : OwnFaults k s) (w : BitVec 2) (i : Instr) (d : Stor) (ops : List (List Run))
    (f : Nat → List Word → Word × Flags) : OwnFaults k (s.elementwise w i d ops f) := by
  unfold State.elementwise
  dsimp only
  split
  · exact h.raise _
  · split
    · exact h.raise _
    · exact h.vecDone _ _ _ _ _ _

@[simp] theorem vecOut (h : OwnFaults k s) (w : BitVec 2) (i : Instr) (q : Nat) (d : Stor) (rs : List Run) (fl : Flags) :
    OwnFaults k (s.vecOut w i q d rs fl) := by
  unfold State.vecOut
  split
  · exact h.raise _
  · exact h.vecDone _ _ _ _ _ _

@[simp] theorem intVec (h : OwnFaults k s) (n : Nat) (w : BitVec 2) (i : Instr) (d a b : BitVec 6) : OwnFaults k (s.intVec n w i d a b) :=
  h.elementwise _ _ _ _ _

@[simp] theorem fpVec (h : OwnFaults k s) (n : Nat) (w : BitVec 2) (i : Instr) (d a b : BitVec 6) : OwnFaults k (s.fpVec n w i d a b) :=
  h.elementwise _ _ _ _ _

@[simp] theorem maskOp (h : OwnFaults k s) (w : BitVec 2) (i : Instr) (d a b : BitVec 3) (f : Word → Word → Word) :
    OwnFaults k (s.maskOp w i d a b f) := h.elementwise _ _ _ _ _

@[simp] theorem unary (h : OwnFaults k s) (w : BitVec 2) (i : Instr) (d a : BitVec 6) (m : BitVec 1) (n : BitVec 3)
    (f : Nat → Word → Word × Flags) : OwnFaults k (s.unary w i d a m n f) := by
  unfold State.unary
  split <;> exact h.elementwise _ _ _ _ _

@[simp] theorem perSegment (h : OwnFaults k s) (w : BitVec 2) (i : Instr) (d a b : BitVec 6) (dflt : Word)
    (f : Nat → Word → Word → Word × Flags) : OwnFaults k (s.perSegment w i d a b dflt f) := by
  unfold State.perSegment
  dsimp only
  split
  · exact h.raise _
  · exact h.vecOut _ _ _ _ _ _

@[simp] theorem reduceSeg (h : OwnFaults k s) (w : BitVec 2) (i : Instr) (d a : BitVec 6) (m : BitVec 1) (n : BitVec 3)
    (f : Nat → List Piece → Word × Flags) : OwnFaults k (s.reduceSeg w i d a m n f) := by
  unfold State.reduceSeg
  split
  · exact h.raise _
  · exact h.vecOut _ _ _ _ _ _

@[simp] theorem reduceAll (h : OwnFaults k s) (w : BitVec 2) (i : Instr) (d : BitVec 5) (a : BitVec 6) (m : BitVec 1) (n : BitVec 3)
    (sgn : Bool) (f : List Piece → Word × Flags) : OwnFaults k (s.reduceAll w i d a m n sgn f) := by
  unfold State.reduceAll
  split
  · exact h.raise _
  · exact h.vecDone _ _ _ _ _ _

@[simp] theorem loadFrom (h : OwnFaults k s) (size : Nat) (rs : List (BitVec 64 × Nat)) (entries extra : Nat) (d : Stor) (c : Conv) :
    OwnFaults k (s.loadFrom size rs entries extra d c) := by
  unfold State.loadFrom
  split
  · exact h.raise _
  · split
    · exact h
    · exact h.grant _ _ fun t ht => (ht.fly _).issued _

@[simp] theorem loadScalar (h : OwnFaults k s) (n : Nat) (sgn : Bool) (d b : BitVec 5) (o : BitVec 15) :
    OwnFaults k (s.loadScalar n sgn d b o) := h.loadFrom _ _ _ _ _ _

@[simp] theorem loadVector (h : OwnFaults k s) (merge : Bool) (v : BitVec 6) (b n : BitVec 5) (f : BitVec 4) (c : BitVec 2) :
    OwnFaults k (s.loadVector merge v b n f c) := by
  unfold State.loadVector
  dsimp only
  split
  · exact h.raise _
  · exact h.loadFrom _ _ _ _ _ _

theorem storeTo (h : OwnFaults k s) (i : Instr) (size : Nat) (rs : List (BitVec 64 × Nat)) (entries : Nat) (bytes : List Byte)
    {after : State → Nat → State} (hafter : ∀ t n, OwnFaults k t → OwnFaults k (after t n)) :
    OwnFaults k (s.storeTo i size rs entries bytes after) := by
  unfold State.storeTo
  split
  · exact h.raise _
  · split
    · exact h
    · refine h.grant _ _ fun t ht => ((hafter _ _ ?_).issued _).holdPorts _ _
      split
      · exact ht
      · exact ht.fly _

@[simp] theorem storeScalar (h : OwnFaults k s) (i : Instr) (n : Nat) (d b : BitVec 5) (o : BitVec 15) :
    OwnFaults k (s.storeScalar i n d b o) := h.storeTo _ _ _ _ _ fun _ _ ht => ht

@[simp] theorem snapshot (h : OwnFaults k s) (n : BitVec 3) (va origin : BitVec 64) : OwnFaults k (s.snapshot n va origin) := by
  unfold State.snapshot
  split
  · exact h.raise _
  · split
    · exact h
    · exact h.grant _ _ fun t ht => (ht.fly _).issued _

@[simp] theorem writeBits (h : OwnFaults k s) (n b : BitVec 5) (o : BitVec 15) (full : Bool) : OwnFaults k (s.writeBits n b o full) := by
  unfold State.writeBits
  split
  · exact h.raise _
  · exact (h.fly _).issued _

@[simp] theorem askDirectory (h : OwnFaults k s) (r : Req) (dst : Stor) (ps : List Nat) : OwnFaults k (s.askDirectory r dst ps) := by
  unfold State.askDirectory
  split
  · exact h.raise _
  · exact (h.fly _).issued _

@[simp] theorem ask (h : OwnFaults k s) (r : Req) (va : BitVec 64) (dst : List Stor) (more : List Flt) :
    OwnFaults k (s.ask r va dst more) := by
  unfold State.ask
  dsimp only
  split
  · exact h.raise _
  · split
    · exact h.raise _
    · exact h.grant _ _ fun t ht => (ht.fly _).issued _

@[simp] theorem tell (h : OwnFaults k s) (b : State) (r : Req) (va : BitVec 64) : OwnFaults k (s.tell b r va) := by
  unfold State.tell
  split <;> exact h.fly _

@[simp] theorem tellAll (h : OwnFaults k s) (i : Instr) (rs : List (Req × BitVec 64)) (occ : Nat) : OwnFaults k (s.tellAll i rs occ) := by
  unfold State.tellAll
  refine h.grant _ _ fun t ht => holdPorts (issued ?_ _) _ _
  exact foldl rs (fun r p hr => hr.tell _ _ _) ht

@[simp] theorem reduceVec (h : OwnFaults k s) (i : Instr) (mk : Word → Req) (size : Nat) (v : BitVec 6) (b : BitVec 5) :
    OwnFaults k (s.reduceVec i mk size v b) := by
  unfold State.reduceVec
  exact h.tellAll _ _ _

@[simp] theorem objects (h : OwnFaults k s) (i : Instr) (r : Req) (n : Nat) (va : BitVec 64) : OwnFaults k (s.objects i r n va) := by
  unfold State.objects
  split
  · exact (h.logFault _ _).issued _
  · exact h.tellAll _ _ _

@[simp] theorem finishObjects (h : OwnFaults k s) (vec : Bool) (n : Nat) (va : BitVec 64) (dst : Stor) :
    OwnFaults k (s.finishObjects vec n va dst) := by
  unfold State.finishObjects
  dsimp only
  split
  · exact h.raise _
  · exact h.grant _ _ fun t ht => (ht.fly _).issued _

@[simp] theorem watch (h : OwnFaults k s) (va : BitVec 64) (size off n : Nat) (spaces : Nat → Bool) (cc : BitVec 3) (x : BitVec 64)
    (more : List Flt) : OwnFaults k (s.watch va size off n spaces cc x more) := by
  unfold State.watch
  dsimp only
  split
  · exact h.issued _
  · exact h
  · split
    · exact h.raise _
    · split
      · exact h.raise _
      · refine h.grant _ _ fun t ht => holding ?_ _
        exact ht.of_same rfl rfl

/-! ### The matrix engine and the generator -/

@[simp] theorem beginStream (h : OwnFaults k s) (mx : Bool) (todo : List (Nat × Nat × Nat)) (hold : Nat × Nat) :
    OwnFaults k (s.beginStream mx todo hold) := h.of_same rfl rfl

@[simp] theorem streamRows (h : OwnFaults k s) (bank : BitVec 3) (at' : Nat → Nat) (works : List RowWork) :
    OwnFaults k (s.streamRows bank at' works) := h.of_same rfl rfl

@[simp] theorem boundAt (h : OwnFaults k s) (due : Nat) (vd : Option (BitVec 6)) (f : Flt) : OwnFaults k (s.boundAt due vd f) := h.fly _

@[simp] theorem genBegin (h : OwnFaults k s) (n : BitVec 4) (kind till : Nat) : OwnFaults k (s.genBegin n kind till) :=
  h.modUnit _ fun _ => rfl

@[simp] theorem beginLoad (h : OwnFaults k s) (l : MxLoad) : OwnFaults k (s.beginLoad l) := h.modUnit _ fun _ => rfl

@[simp] theorem setCellop (h : OwnFaults k s) (v : Word) : OwnFaults k (s.setCellop v) := by
  have hset : OwnFaults k (s.modUnit s.u fun x => x.modEng fun e => { e with cellop := v }) := h.modUnit _ fun _ => rfl
  exact hset.issued 1

@[simp] theorem drainOut (h : OwnFaults k s) (v : BitVec 6) (occ : Nat) (rs : List Run) (fl : Flags) :
    OwnFaults k (s.drainOut v occ rs fl) := by
  unfold State.drainOut
  split
  · exact h.raise _
  · exact (h.result _ _ _).issued _

@[simp] theorem pass (h : OwnFaults k s) (bank : BitVec 3) (g : BitVec 2) (sa : BitVec 64) (m : Nat) (fa : BitVec 3)
    (scales : Option (List Byte)) (span : Nat) (stage2 : List Flt) (reads : Nat × Nat → Nat → List (Nat × Nat × Nat)) (pick : Nat → Pick)
    (holds : Bool) (cells : Nat → List Bool) :
    OwnFaults k (s.pass bank g sa m fa scales span stage2 reads pick holds cells) := by
  unfold State.pass
  split
  · exact h.raise _
  · split
    · exact h.raise _
    · exact h.withOperand _ _ _ _ _ fun t ht => ((ht.streamRows _ _ _).beginStream _ _ _).issued _

@[simp] theorem genLoad (h : OwnFaults k s) (n : BitVec 4) (sd : BitVec 3) (sc : BitVec 64) (f : BitVec 2) (img : Image)
    (mem : Option (BitVec 2 × Nat × Word)) : OwnFaults k (s.genLoad n sd sc f img mem) := by
  unfold State.genLoad
  dsimp only
  split
  · refine issued ?_ 1
    split
    · exact (h.genBegin _ _ _).beginLoad _
    · exact ((h.genBegin _ _ _).beginStream _ _ _).beginLoad _
  · refine issued ?_ 1
    split
    · exact ((h.boundAt _ _ _).genBegin _ _ _).beginLoad _
    · exact (((h.boundAt _ _ _).genBegin _ _ _).beginStream _ _ _).beginLoad _

/-! ### Transfers and calls -/

@[simp] theorem launchXfer (h : OwnFaults k s) (d : BitVec 5) (tiles : List Nat) (f : BitVec 16 → Xfer) :
    OwnFaults k (s.launchXfer d tiles f) := by
  have hring (x : Unit) (tok : BitVec 16) : (Unit.ringPut { x with tok := tok } tok 0).disp.pend = x.disp.pend := rfl
  unfold State.launchXfer
  refine issued (result (modUnit ?_ _ fun x => hring x _) _ _ _) 1
  exact (h.setTiles tiles false).of_same rfl rfl

@[simp] theorem transform (h : OwnFaults k s) (d : BitVec 5) (q : BitVec 1) (src : Nat × Nat) (dst n lat : Nat) (work : XWork)
    (bad : Option Flt) (early : Bool) : OwnFaults k (s.transform d q src dst n lat work bad early) := by
  unfold State.transform
  split
  · exact h.waitOr _
  · have hlog : OwnFaults k (match bad with
        | some f => s.logFault (s.whoCur true) (f.on pTR .rd)
        | none => s) := by
      split
      · exact h.logFault _ _
      · exact h
    refine launchXfer ?_ _ _ _
    split
    · exact hlog
    · exact hlog.beginStream _ _ _

@[simp] theorem copyRows (h : OwnFaults k s) (d a : BitVec 5) (x : Shape) (sc f q : BitVec 1) (pieces : List (Nat × Nat))
    (limit : Option (Nat × Nat)) : OwnFaults k (s.copyRows d a x sc f q pieces limit) := by
  unfold State.copyRows
  dsimp only
  split
  · exact h.raise _
  · split
    · exact h.raise _
    · exact h.launchXfer _ _ _

@[simp] theorem modChan (h : OwnFaults k s) (c : Nat) (ch : BitVec 6) (f : Chan → Chan) : OwnFaults k (s.modChan c ch f) :=
  h.of_same rfl rfl

@[simp] theorem modCall (h : OwnFaults k s) (id : Nat) (f : Call → Call) : OwnFaults k (s.modCall id f) := h.of_same rfl rfl

@[simp] theorem closeCall (h : OwnFaults k s) (id : Nat) : OwnFaults k (s.closeCall id) := by
  unfold State.closeCall
  dsimp only
  split
  · exact h
  · split
    · exact h
    · next c _ _ =>
      have hpost : OwnFaults k (if c.post = true then s.postEvent (ctlOf (clusterOf c.unit)) c.event else s) := by
        split
        · exact h.postEvent _ _
        · exact h
      refine of_same (s := _) ?_ rfl rfl
      split
      · split
        · exact hpost.of_same rfl rfl
        · exact hpost
      · exact hpost

@[simp] theorem endCall (h : OwnFaults k s) (id : Nat) (status : Byte) (value : Word) (count : Nat) (flg : BitVec 5) :
    OwnFaults k (s.endCall id status value count flg) := by
  unfold State.endCall
  split
  · exact h
  · split
    · exact h
    · refine closeCall ?_ _
      exact h.of_same rfl rfl

@[simp] theorem callFault (h : OwnFaults k s) (id : Nat) (f : Flt) : OwnFaults k (s.callFault id f) := by
  unfold State.callFault
  split
  · exact h
  · exact (h.logFault _ _).endCall _ _ _ _ _

@[simp] theorem finishNorm (h : OwnFaults k s) (id : Nat) : OwnFaults k (s.finishNorm id) := by
  unfold State.finishNorm
  dsimp only
  split
  · exact h
  · split
    · exact h
    · exact h.endCall _ _ _ _ _

@[simp] theorem finishTiles (h : OwnFaults k s) (id : Nat) : OwnFaults k (s.finishTiles id) := by
  unfold State.finishTiles
  dsimp only
  split
  · exact h
  · split
    · exact h
    · split
      · exact h.endCall _ _ _ _ _
      · exact (h.modCall _ _).finishNorm _

@[simp] theorem fillTile (h : OwnFaults k s) (c : Call) (i : Nat) : OwnFaults k (s.fillTile c i) := by
  unfold State.fillTile
  dsimp only
  split
  · exact h
  · exact h.of_same rfl rfl

@[simp] theorem arm (h : OwnFaults k s) (c : Call) : OwnFaults k (s.arm c) := by
  unfold State.arm
  dsimp only
  split
  · exact h.callFault _ _
  · split
    · exact (foldl _ (fun t i ht => ht.fillTile _ i) (((h.setTiles _ _).modCall _ _).modChan _ _ _)).finishTiles _
    · exact ((h.setTiles _ _).modCall _ _).modChan _ _ _

@[simp] theorem clearOwn (h : OwnFaults k s) (id : Nat) (ts : List Nat) : OwnFaults k (s.clearOwn id ts) :=
  (h.setTiles ts false).of_same rfl rfl

theorem issueCall (h : OwnFaults k s) (ch : BitVec 6) (bad : Option Flt) {f : State → State} (hf : ∀ t, OwnFaults k t → OwnFaults k (f t)) :
    OwnFaults k (s.issueCall ch bad f) := by
  unfold State.issueCall
  split
  · exact h
  · split
    · exact h.raise _
    · exact hf s h

theorem openCall (h : OwnFaults k s) (ch : BitVec 6) (recv : Bool) (d : Option (BitVec 5)) (f : Call → Call) {go : Call → State → State}
    (hgo : ∀ c t, OwnFaults k t → OwnFaults k (go c t)) : OwnFaults k (s.openCall ch recv d f go) := by
  unfold State.openCall
  extract_lets c x seq s1 call0 call s2 s3 s4
  have h2 : OwnFaults k s2 := h.of_same rfl rfl
  have h3 : OwnFaults k s3 := by
    show OwnFaults k (if x.aborted then s2.endCall call.id 2 0 0 0 else go call s2)
    split
    · exact h2.endCall _ _ _ _ _
    · exact hgo call s2 h2
  have h4 : OwnFaults k s4 := by
    show OwnFaults k (match d with
      | some d => if call.bears then s3 else s3.result 2 [(.s (s3.ps d), .scalar (seq.setWidth 64))] 0
      | none => s3)
    split
    · split
      · exact h3
      · exact h3.result _ _ _
    · exact h3
  exact h4.issued 1

@[simp] theorem receive (h : OwnFaults k s) (ch : BitVec 6) (a n d : BitVec 5) (q : BitVec 1) (kind : Nat) (usable : Chan → Bool) :
    OwnFaults k (s.receive ch a n d q kind usable) := by
  unfold State.receive
  refine h.issueCall _ _ fun t ht => ?_
  dsimp only
  split
  · exact ht
  · exact ht.openCall _ _ _ _ fun c r hr => hr.arm c

@[simp] theorem pause (h : OwnFaults k s) (c : BitVec 3) (chs : List (BitVec 6)) : OwnFaults k (s.pause c chs) :=
  h.foldl chs fun _ _ ht => ht.modChan _ _ _

@[simp] theorem pauseHold (h : OwnFaults k s) (chs : List (BitVec 6)) : OwnFaults k (s.pauseHold chs) := by
  unfold State.pauseHold
  dsimp only
  split
  · exact h.pause _ _
  · exact (h.pause _ _).issued 1

@[simp] theorem resumeChans (h : OwnFaults k s) (c : BitVec 3) (chs : List (BitVec 6)) : OwnFaults k (s.resumeChans c chs) :=
  of_same (h.foldl chs fun _ _ ht => ht.modChan _ _ _) rfl rfl

end OwnFaults

end Sys2Proof.Machine

namespace Sys2Proof.Machine

open Sys2Proof.Safety

/-- An outcome that is a next state, read off. -/
theorem goes_next {t : State} {P : State → Prop} : Goes (.next t) P ↔ P t :=
  ⟨fun ⟨_, ht, h⟩ => (Host.Outcome.next.inj ht) ▸ h, fun h => ⟨t, rfl, h⟩⟩

namespace OwnFaults

variable {k : Nat} {s t : State}

/-! ### Operations whose effect continues after a check, a grant or an opened call -/

theorem execStv (h : OwnFaults k s) (v : BitVec 6) (b : BitVec 5) (f : BitVec 4) (c p : BitVec 2) :
    Goes (execStv v b f c p s) (OwnFaults k) := by
  dsimp only [Machine.execStv]
  split
  · exact goes_next.2 (h.raise _)
  · exact goes_next.2 (h.storeTo _ _ _ _ _ fun _ _ ht => ht)

theorem execStr (h : OwnFaults k s) (v : BitVec 6) (b n : BitVec 5) (p : BitVec 2) (m : BitVec 1) :
    Goes (execStr v b n p m s) (OwnFaults k) :=
  goes_next.2 (h.storeTo _ _ _ _ _ fun _ _ ht => ht.result _ _ _)

theorem execStvr (h : OwnFaults k s) (v : BitVec 6) (i n : BitVec 5) (x : BitVec 3) (e y : BitVec 1) (c p : BitVec 2) :
    Goes (execStvr v i n x e y c p s) (OwnFaults k) := by
  dsimp only [Machine.execStvr]
  split
  · exact goes_next.2 (h.raise _)
  · split
    · exact goes_next.2 (h.raise _)
    · split
      · exact goes_next.2 (h.raise _)
      · exact goes_next.2 (h.storeTo _ _ _ _ _ fun _ _ ht => ht)

theorem execMscl (h : OwnFaults k s) (m : BitVec 2) (b : BitVec 5) (o : BitVec 15) : Goes (execMscl m b o s) (OwnFaults k) := by
  dsimp only [Machine.execMscl]
  split
  · exact goes_next.2 (h.raise _)
  · exact goes_next.2 (h.raise _)
  · split
    · exact goes_next.2 h
    · exact goes_next.2 (h.grant _ _ fun t ht => (ht.land _ _).issued 1)

theorem execStar (h : OwnFaults k s) (d a : BitVec 5) (n : BitVec 7) (f : BitVec 4) : Goes (execStar d a n f s) (OwnFaults k) := by
  dsimp only [Machine.execStar]
  split
  · exact goes_next.2 (h.raise _)
  · split
    · exact goes_next.2 (h.raise _)
    · split
      · split
        · exact goes_next.2 h
        · split
          · exact goes_next.2 (h.raise _)
          · exact goes_next.2 (h.grant _ _ fun t ht => (ht.fly _).issued _)
      · exact goes_next.2 h

theorem execRoopen (h : OwnFaults k s) (d b c : BitVec 5) (w : BitVec 6) : Goes (execRoopen d b c w s) (OwnFaults k) := by
  dsimp only [Machine.execRoopen]
  split
  · exact goes_next.2 (h.raise _)
  · exact goes_next.2 (h.raise _)
  · exact goes_next.2 (h.grant _ _ fun t ht => (ht.fly _).issued 1)

theorem execTgrow (h : OwnFaults k s) (d n : BitVec 5) : Goes (execTgrow d n s) (OwnFaults k) := by
  dsimp only [Machine.execTgrow]
  split
  · exact goes_next.2 (h.raise _)
  · split
    · exact goes_next.2 (h.raise _)
    · split
      · exact goes_next.2 (h.raise _)
      · next g _ =>
        split
        · exact goes_next.2 (h.raise _)
        · have hgrow : OwnFaults k (s.modGroup g fun g => { g with growing := g.growing + 1 }) := h.of_same rfl rfl
          exact goes_next.2 ((hgrow.fly _).issued 1)

theorem execNotify (h : OwnFaults k s) (v : BitVec 11) : Goes (execNotify v s) (OwnFaults k) := by
  have hsend : OwnFaults k (s.sendVector v.toNat) := h.of_same rfl rfl
  dsimp only [Machine.execNotify]
  split
  · exact goes_next.2 h
  · exact goes_next.2 (hsend.issued 1)

theorem execMldb (h : OwnFaults k s) (g : BitVec 2) (a : BitVec 5) (f : BitVec 3) (sc : BitVec 2) (x : BitVec 1) :
    Goes (execMldb g a f sc x s) (OwnFaults k) := by
  dsimp only [Machine.execMldb]
  split
  · exact goes_next.2 h
  · exact goes_next.2 (h.withOperand _ _ _ _ _ fun t ht => ((ht.beginStream _ _ _).beginLoad _).issued 1)

theorem execMgenbAdd (h : OwnFaults k s) (n : BitVec 4) (sd : BitVec 3) (c b l : BitVec 5) (f : BitVec 2) :
    Goes (execMgenbAdd n sd c b l f s) (OwnFaults k) := by
  dsimp only [Machine.execMgenbAdd]
  split
  · exact goes_next.2 h
  · refine goes_next.2 (h.withOperand _ _ _ _ _ fun t ht => ?_)
    split
    · exact ht
    · exact ht.genLoad _ _ _ _ _ _

theorem execMmag (h : OwnFaults k s) (a : BitVec 3) (n : BitVec 4) (e : BitVec 3) (c : BitVec 5) (m : BitVec 7) (f : BitVec 3) :
    Goes (execMmag a n e c m f s) (OwnFaults k) := by
  dsimp only [Machine.execMmag]
  split
  · exact goes_next.2 h
  · split
    · exact goes_next.2 (h.raise _)
    · exact goes_next.2 (h.raise _)
    · refine goes_next.2 ?_
      split
      · exact ((h.streamRows _ _ _).genBegin _ _ _).issued _
      · exact (((h.streamRows _ _ _).boundAt _ _ _).genBegin _ _ _).issued _

theorem execMdrs (h : OwnFaults k s) (a : BitVec 3) (g : BitVec 2) (b r : BitVec 5) (f : BitVec 3) :
    Goes (execMdrs a g b r f s) (OwnFaults k) := by
  dsimp only [Machine.execMdrs]
  split
  · exact goes_next.2 (h.raise _)
  · exact goes_next.2 ((foldl _ (fun t q ht => ht.fly _) (h.setTiles _ _)).issued 1)

theorem execMadp (h : OwnFaults k s) (a : BitVec 3) (g : BitVec 2) (b : BitVec 5) (v : BitVec 6) (p : BitVec 2) (m : BitVec 7) :
    Goes (execMadp a g b v p m s) (OwnFaults k) := by
  dsimp only [Machine.execMadp]
  split
  · exact goes_next.2 (h.raise _)
  · refine goes_next.2 (h.withOperand _ _ _ _ _ fun t ht => ((beginStream ?_ _ _ _).issued _).holdPorts _ _)
    exact ht.of_same rfl rfl

theorem execMadt (h : OwnFaults k s) (d i a b : BitVec 5) : Goes (execMadt d i a b s) (OwnFaults k) := by
  have hctx (n : Nat) (f : Ctx → Ctx) : OwnFaults k (s.modCtx n f) := h.of_same rfl rfl
  dsimp only [Machine.execMadt]
  split
  · exact goes_next.2 (h.raise _)
  · exact goes_next.2 (((hctx _ _).result _ _ _).issued 8)

theorem execMbase (h : OwnFaults k s) (a : BitVec 5) : Goes (execMbase a s) (OwnFaults k) := by
  have hctx (n : Nat) (f : Ctx → Ctx) : OwnFaults k (s.modCtx n f) := h.of_same rfl rfl
  exact goes_next.2 ((hctx _ _).issued 8)

theorem execMswap (h : OwnFaults k s) : Goes (execMswap s) (OwnFaults k) := by
  have hswap : OwnFaults k (s.modUnit s.u fun x => x.modEng fun e => { e with active := e.shadow, shadow := e.active }) :=
    h.modUnit _ fun _ => rfl
  unfold Machine.execMswap
  split
  · exact goes_next.2 h
  · exact goes_next.2 (hswap.issued 1)

theorem execGeval (h : OwnFaults k s) (v : BitVec 6) (n : BitVec 4) (sd : BitVec 3) (c l : BitVec 5) (a : BitVec 1) :
    Goes (execGeval v n sd c l a s) (OwnFaults k) := by
  dsimp only [Machine.execGeval]
  split
  · exact goes_next.2 h
  · split
    · exact goes_next.2 (h.raise _)
    · split
      · exact goes_next.2 (h.raise _)
      · refine goes_next.2 ?_
        split
        · refine (result ?_ _ _ _).issued _
          split
          · exact h
          · exact h.genBegin _ _ _
        · exact ((h.genBegin _ _ _).boundAt _ _ _).issued _

theorem execImload (h : OwnFaults k s) (t a : BitVec 5) (q : BitVec 1) : Goes (execImload t a q s) (OwnFaults k) := by
  dsimp only [Machine.execImload]
  split
  · exact goes_next.2 (h.waitOr _)
  · exact goes_next.2 ((h.setCoherent _ _ _).launchXfer _ _ _)

theorem execChdef (h : OwnFaults k s) (ch : BitVec 6) (b d : BitVec 5) : Goes (execChdef ch b d s) (OwnFaults k) := by
  have htlb (die : Nat) (l : List TlbEntry) : OwnFaults k (s.tlbAdd die l) := h.of_same (s.tlbAdd_units _ _) (s.tlbAdd_cur _ _)
  dsimp only [Machine.execChdef]
  split
  · exact goes_next.2 h
  · split
    · split
      · exact goes_next.2 ((htlb _ _).coAdmit _ _ _ _ fun t ht => (ht.fly _).issued 1)
      · exact goes_next.2 (((htlb _ _).fly _).issued 1)
    · exact goes_next.2 ((h.fly _).issued 1)

/-- A call that is opened and waits for what arrives. -/
theorem openIdle (h : OwnFaults k s) (ch : BitVec 6) (d : Option (BitVec 5)) (f : Call → Call) :
    OwnFaults k (s.openCall ch false d f fun _ t => t) :=
  h.openCall _ _ _ _ fun _ _ ht => ht

theorem execCsend (h : OwnFaults k s) (ch : BitVec 6) (a n d : BitVec 5) (q : BitVec 1) : Goes (execCsend ch a n d q s) (OwnFaults k) :=
  goes_next.2 (h.issueCall _ _ fun _ ht => ht.openIdle _ _ _)

theorem execCswr (h : OwnFaults k s) (ch : BitVec 6) (v d : BitVec 5) (o : BitVec 3) (q : BitVec 1) :
    Goes (execCswr ch v d o q s) (OwnFaults k) :=
  goes_next.2 (h.issueCall _ _ fun _ ht => ht.openIdle _ _ _)

theorem execCdig (h : OwnFaults k s) (ch : BitVec 6) (a n : BitVec 5) (q : BitVec 1) : Goes (execCdig ch a n q s) (OwnFaults k) :=
  goes_next.2 (h.issueCall _ _ fun _ ht => ht.openIdle _ _ _)

theorem execGagree (h : OwnFaults k s) (ch : BitVec 6) (v d : BitVec 5) (q : BitVec 1) : Goes (execGagree ch v d q s) (OwnFaults k) :=
  goes_next.2 (h.issueCall _ _ fun _ ht => ht.openIdle _ _ _)

theorem execCa2ac (h : OwnFaults k s) (ch : BitVec 6) (a d : BitVec 5) (q : BitVec 1) : Goes (execCa2ac ch a d q s) (OwnFaults k) := by
  refine goes_next.2 (h.issueCall _ _ fun _ ht => ht.openCall _ _ _ _ fun c t ht => ?_)
  split
  · exact ht.clearOwn _ _
  · exact ht

theorem execCa2ap (h : OwnFaults k s) (ch : BitVec 6) (a d : BitVec 5) (q : BitVec 1) : Goes (execCa2ap ch a d q s) (OwnFaults k) := by
  refine goes_next.2 (h.issueCall _ _ fun t ht => ?_)
  extract_lets x c n fill
  split
  · exact ht.openCall _ _ _ _ fun _ _ hr => hr.callFault _ _
  · extract_lets bs waits admitted
    have hadmitted {f : State → State} (hf : ∀ r, OwnFaults k r → OwnFaults k (f r)) : OwnFaults k (admitted f) := by
      simp only [admitted]
      split
      · exact hf t ht
      · exact ht.coAdmit _ _ _ _ hf
    split
    · exact ht
    · refine hadmitted fun r hr => hr.openCall _ _ _ _ fun e r' hr' => ?_
      split
      · exact hr'.callFault _ _
      · split
        · exact hr'
        · split
          · exact hr'.callFault _ _
          · exact ((hr'.clearOwn _ _).modCall _ _).setTiles _ _

theorem execLbrk (h : OwnFaults k s) : Goes (execLbrk s) (OwnFaults k) := by
  dsimp only [Machine.execLbrk]
  split
  · exact goes_next.2 (h.raise _)
  · exact goes_next.2 ((h.redirect _).issued 1)

theorem execRetire (h : OwnFaults k s) : Goes (execRetire s) (OwnFaults k) := by
  dsimp only [Machine.execRetire]
  split
  · exact goes_next.2 h
  · split
    · exact goes_next.2 (h.stopCtl _ _)
    · split
      · exact goes_next.2 (h.modUnit_or _ fun _ => .inr rfl)
      · split
        · split
          · exact goes_next.2 (h.endTask _ _)
          · exact goes_next.2 h
        · exact goes_next.2 ((h.modUnit_or _ fun _ => .inr rfl).freeTask _ _)

theorem execFrame (h : OwnFaults k s) : Goes (execFrame s) (OwnFaults k) := by
  have hframe : OwnFaults k (s.modUnit s.u fun x => (x.modSpr fun p => { p with inv := true, sfc := 0 }).modDisp fun d =>
      { d with moved := true, buns := d.buns.map fun b => { b with missed := false, begun := b.begun || b.seq == s.cur.op.seq } }) :=
    h.modUnit _ fun _ => rfl
  unfold Machine.execFrame
  split
  · exact goes_next.2 (hframe.issued 1)
  · exact goes_next.2 h

theorem execFrameX (h : OwnFaults k s) : Goes (execFrameX s) (OwnFaults k) := by
  have hframe : OwnFaults k (s.modUnit s.u fun x => x.modSpr fun p => { p with inv := false }) :=
    h.modUnit _ fun _ => rfl
  unfold Machine.execFrameX
  split
  · exact goes_next.2 (hframe.issued 1)
  · exact goes_next.2 h

end OwnFaults

end Sys2Proof.Machine

namespace Sys2Proof.Machine

open Sys2Proof.Safety

/-! ## Every operation of a slot (R134) -/

/-- An operation of a slot notes faults of its own slot alone, whatever it does. -/
theorem exec_ownFaults {k : Nat} {s : State} (i : Instr) (hi : i.slotKind ≠ none) (h : OwnFaults k s) : Goes (exec i s) (OwnFaults k) := by
  cases i
  case stv => exact h.execStv _ _ _ _ _
  case str => exact h.execStr _ _ _ _ _
  case stvr => exact h.execStvr _ _ _ _ _ _ _ _
  case mscl => exact h.execMscl _ _ _
  case star => exact h.execStar _ _ _ _
  case roopen => exact h.execRoopen _ _ _ _
  case tgrow => exact h.execTgrow _ _
  case notify => exact h.execNotify _
  case mldb => exact h.execMldb _ _ _ _ _
  case mgenbAdd => exact h.execMgenbAdd _ _ _ _ _ _
  case mmag => exact h.execMmag _ _ _ _ _ _
  case mdrs => exact h.execMdrs _ _ _ _ _
  case madp => exact h.execMadp _ _ _ _ _ _
  case madt => exact h.execMadt _ _ _ _
  case mbase => exact h.execMbase _
  case mswap => exact h.execMswap
  case geval => exact h.execGeval _ _ _ _ _ _
  case imload => exact h.execImload _ _ _
  case chdef => exact h.execChdef _ _ _
  case csend => exact h.execCsend _ _ _ _ _
  case cswr => exact h.execCswr _ _ _ _ _
  case cdig => exact h.execCdig _ _ _ _
  case gagree => exact h.execGagree _ _ _ _
  case ca2ac => exact h.execCa2ac _ _ _ _
  case ca2ap => exact h.execCa2ap _ _ _ _
  case lbrk => exact h.execLbrk
  case retire => exact h.execRetire
  case frame => exact h.execFrame
  case frameX => exact h.execFrameX
  case fencei | brswap | waitt | rfmode | getsp | setsp | vsplat | viota | viotaSeg | vslice | vcat | vpick | vsegset | vsegclr | vspread |
    vscan | ldr | ldvr | shwin | shchk | shq | waitf | fence | xfence | drain | bfinV | launch | mzero | mgenbPure | mcop | mdrv | mdrvRag |
    gload | gfree | cpy | cpyZ | cpyr | xpose | xcvt | xexp | cwaitt | sysret | sysretS =>
    dsimp only [exec, execFencei, execBrswap, execWaitt, execRfmode, execGetsp, execSetsp, execVsplat, execViota, execViotaSeg, execVslice,
      execVcat, execVpick, execVsegset, execVsegclr, execVspread, execVscan, execLdr, execLdvr, execShwin, execShchk, execShq, execWaitf,
      execFence, execXfence, execDrain, execBfinV, execLaunch, execMzero, execMgenbPure, execMcop, execMdrv, execMdrvRag, execGload,
      execGfree, execCpy, execCpyZ, execCpyr, execXpose, execXcvt, execXexp, execCwaitt, execSysret, execSysretS, State.execReturn]
    repeat' split
    all_goals simp [goes_next, h]
  case reset | lifeCycleChange | linkFailure | thermalAlert | bundleDispatch | exposedResultLands | presenceResultArrives | taskDispatch |
    coResidentDispatch | replayDispatch | preq | taskPreemption | preemptionLimitExpiry | swctlArm | swctlCancel | switchInstant |
    switchDrainLimit | gangSwitchSave | gangSwitchRestore | portSyncOperation | waitmSatisfied | waittDeadline | parkrep | tlbinvGo |
    tlbInvalidationComplete | budgetPeriodBoundary | budgetThaw | budgetKill | hostBar4Access | cxlMemAccess | msixTableWrite |
    registerWrite | generatorRegistration | registrationComplete | codeLoad | codeLoadComplete | ctxCreate | ctxCreateComplete | ctxTeardown
    | teardownComplete | csctlStart | supervisorControllerStart | supervisorControllerStop | attestationRequest | attestationReportReady |
    accumulatorRowLands | mldbLoadComplete | mgenbCommit | genBoundDetected | mdrsTileRelease | gloadCopyComplete | transferTileRelease |
    transferComplete | transformComplete | armNoticeArrival | collectivePacketArrival | abortPacketReceipt | switchContribution |
    switchSlotTimeout | agreementContribution | agreementTimeout | normPartialArrival | digestArrival | writePerformed | lastPacketAccepted
    | switchPacketDrop | msiXEnable | cxlCacheSnoop =>
    exact absurd rfl hi
  all_goals exact ⟨_, rfl, by simp [h]⟩

end Sys2Proof.Machine

namespace Sys2Proof.Machine

open Sys2Proof.Safety

/-! ## What a step does with the head of a slot (R42 to R44) -/

theorem step_eq_doMove {s : State} {m : Move} {r : List Move} (h : s.agenda = m :: r) : step s = doMove m { s with agenda := r } := by
  unfold step State.pop
  rw [h]
  rfl

theorem doMove_slot_settled {s t : State} {u k : Nat} (hu : u < 480) (h : s.attempt u k = .settled t) :
    doMove (.slot u k) s = .next (s.concluded t u) := by
  have hok : unitOk u = true := decide_eq_true hu
  simp only [doMove, hok, if_true, h]

theorem doMove_slot_run {s t t' : State} {u k : Nat} {i : Instr} {touch : Option Flt} (hu : u < 480)
    (h : s.attempt u k = .run i t touch) (hexec : exec i t = .next t') :
    doMove (.slot u k) s = .next (s.concluded (t.afterRun t' touch) u) := by
  have hok : unitOk u = true := decide_eq_true hu
  simp only [doMove, hok, if_true, h, hexec]

/-- A move that notes no fault outranks none. -/
@[simp] theorem outranked_self (s : State) (u : Nat) : s.outranked s u = false := by
  unfold State.outranked
  split
  · next p hp => simp [hp]
  · rfl

@[simp] theorem concluded_self (s : State) (u : Nat) : s.concluded s u = s.settle u := by simp [State.concluded]

theorem outranked_iff {s t : State} {u : Nat} : s.outranked t u = true ↔
    ∃ p, (t.unit u).disp.pend = some p ∧ (s.unit u).disp.pend ≠ some p ∧ s.lowerReady u p.slot p.seq = true := by
  unfold State.outranked
  cases (t.unit u).disp.pend <;> simp

/-- A head that is not tried: its slot has to wait, or loses its read port. -/
def State.waits (s : State) (u k : Nat) (o : QOp) (i : Instr) : Prop :=
  ¬ (s.blocked u k o = none ∧ s.stampMet u o = true) ∨ (s.unit u).guardOf k o = true ∧ s.portLoses u k o i = true

/-- The state in which the head of a slot is tried: its operation is noted as the current one. -/
def State.trying (s : State) (u k : Nat) (o : QOp) : State := { s.tried u k o.seq with cur := ⟨u, k, o⟩ }

/-- EARLY_READ of the guard of a slot's head, where it is not read with a colliding slot's (R42, R56). -/
def State.guardEarly (s : State) (u k : Nat) (o : QOp) : Option Flt :=
  if (s.unit u).guardRead k o then none else s.earlyGuard u o

/-- The check of the clusters that a head touches, and of its early reads (R50, R225). -/
def State.touchCheck (s : State) (u k : Nat) (o : QOp) (i : Instr) : Option Flt :=
  let t := s.trying u k o
  ((if (s.unit u).spr.rfmode == 0xFF && (s.unit u).disp.wake.isEmpty then none else t.asleep i).orElse
    fun _ => s.guardEarly u k o).orElse fun _ => t.earlyRead u o i

theorem attempt_empty {s : State} {u k : Nat} (hq : ((s.unit u).slot k).queue = []) : s.attempt u k = .settled s := by
  simp only [State.attempt, hq]

section Head

variable {s : State} {u k : Nat} {o : QOp} {q : List QOp} {i : Instr} (hq : ((s.unit u).slot k).queue = o :: q)
  (hi : decodeSlot (slotKindOf k) o.word = .ok (some i))

/-- The bundle of a slot's head, where the guards of its colliding slots can be read together. -/
def State.pairOf (s : State) (u : Nat) (o : QOp) : Option Bun :=
  (s.unit u).disp.buns.find? fun n => n.seq == o.seq && s.pairsReady u n

theorem instr_of_decodeSlot (hi : decodeSlot (slotKindOf k) o.word = .ok (some i)) : o.instr k = some i := by
  simp only [QOp.instr, hi]

include hq

theorem attempt_pair {n : Bun} (hp : s.pairOf u o = some n) : s.attempt u k = .settled (s.readPairs u n) := by
  unfold State.pairOf at hp
  simp only [State.attempt, hq, hp]

include hi

theorem attempt_waits (hp : s.pairOf u o = none) (h : s.waits u k o i) : s.attempt u k = .settled s := by
  unfold State.pairOf at hp
  simp only [State.attempt, hq, hp, instr_of_decodeSlot hi]
  rcases h with hmay | ⟨hrun, hlost⟩
  · rw [if_pos]
    cases hb : s.blocked u k o <;> simp_all
  · split
    · rfl
    · rw [if_pos (by simp [hrun, hlost])]

theorem attempt_idle (hp : s.pairOf u o = none) (hb : s.blocked u k o = none) (hs : s.stampMet u o = true)
    (hrun : (s.unit u).guardOf k o = false) (hg : s.guardEarly u k o = none) :
    s.attempt u k = .settled ((s.trying u k o).issueNothing (some i)) := by
  unfold State.pairOf at hp
  unfold State.guardEarly at hg
  simp only [State.attempt, hq, hp, instr_of_decodeSlot hi, hb, hs, hrun, hg]
  rfl

theorem attempt_idle_early {f : Flt} (hp : s.pairOf u o = none) (hb : s.blocked u k o = none) (hs : s.stampMet u o = true)
    (hrun : (s.unit u).guardOf k o = false) (hg : s.guardEarly u k o = some f) :
    s.attempt u k = .settled ((s.trying u k o).raise f) := by
  unfold State.pairOf at hp
  unfold State.guardEarly at hg
  simp only [State.attempt, hq, hp, instr_of_decodeSlot hi, hb, hs, hrun, hg]
  rfl

theorem attempt_run (hp : s.pairOf u o = none) (hb : s.blocked u k o = none) (hs : s.stampMet u o = true)
    (hrun : (s.unit u).guardOf k o = true) (hport : s.portLoses u k o i = false) :
    s.attempt u k = .run i (s.trying u k o) (s.touchCheck u k o i) := by
  unfold State.pairOf at hp
  simp only [State.attempt, hq, hp, instr_of_decodeSlot hi, hb, hs, hrun, hport, Option.any_some]
  rfl

end Head

/-- No early read is trapped where the trap is not in force (R50). -/
theorem earlyOf_eq_none {s : State} (h : s.glob.earlyTrap = false) (u n : Nat) (rs : List Stor) : s.earlyOf u n rs = none := by
  simp [State.earlyOf, h]

theorem guardEarly_eq_none {s : State} (h : s.glob.earlyTrap = false) (u k : Nat) (o : QOp) : s.guardEarly u k o = none := by
  simp [State.guardEarly, State.earlyGuard, earlyOf_eq_none h]

theorem touchCheck_eq_none {s : State} {u : Nat} (h : s.glob.earlyTrap = false) (hrf : (s.unit u).spr.rfmode = 0xFF)
    (hwake : (s.unit u).disp.wake = []) (k : Nat) (o : QOp) (i : Instr) : s.touchCheck u k o i = none := by
  have htrying : (s.trying u k o).glob.earlyTrap = false := h
  simp [State.touchCheck, State.earlyRead, guardEarly_eq_none h, earlyOf_eq_none htrying, hrf, hwake]

end Sys2Proof.Machine

namespace Sys2Proof.Machine

open Sys2Proof.Safety

/-! ## A word that is placed is the one that the next step runs -/

/-- What a slot's decoder reads is an operation of that slot. -/
theorem rawDecode_slotKind {k : SlotKind} {w : Word} {i : Instr} (h : rawDecode k w = .ok i) : i.slotKind = some k := by
  cases k
  all_goals
    simp only [rawDecode, rawDecodeSq, rawDecodeV, rawDecodeMx, rawDecodeGn, rawDecodeMe, rawDecodeTx] at h
    repeat' split at h
    all_goals cases h <;> rfl

theorem checked_eq {i j : Instr} (h : checked i = .ok j) : j = i := by
  unfold checked at h
  repeat' split at h
  all_goals cases h <;> rfl

theorem decodeSlot_slotKind {k : SlotKind} {w : Word} {i : Instr} (h : decodeSlot k w = .ok (some i)) : i.slotKind = some k := by
  unfold decodeSlot at h
  split at h
  · cases h
  · split at h
    · cases h
    · split at h
      · cases h
      · next j hraw =>
        split at h
        · cases h
        · next l hchecked =>
          cases h
          rw [checked_eq hchecked]
          exact rawDecode_slotKind hraw

/-- The slot in which a table word is placed reads it as the table does. -/
theorem decodeSlot_slotFor {w : Nat} {i : Instr} (h : decodeTableWord 32 w = some i) :
    decodeSlot (slotKindOf (slotFor w)) (BitVec.ofNat 32 w) = .ok (some i) := by
  rw [decodeTableWord, if_pos (beq_self_eq_true 32)] at h
  obtain ⟨before, k, after, hslots, hk, hbefore⟩ := List.findSome?_eq_some_iff.1 h
  have hdec : decodeSlot k (BitVec.ofNat 32 w) = .ok (some i) := by
    split at hk
    · next hok => exact hok.trans (hk ▸ rfl)
    · exact nomatch hk
  have hfind {p : SlotKind → Bool} (hp : ∀ j, p j = true ↔ ∃ i, decodeSlot j (BitVec.ofNat 32 w) = .ok (some i)) :
      tableSlots.find? p = some k := by
    refine List.find?_eq_some_iff_append.2 ⟨(hp k).2 ⟨i, hdec⟩, before, after, hslots, fun j hj => ?_⟩
    have hnone := hbefore j hj
    rw [Bool.not_eq_true', ← Bool.not_eq_true, hp]
    rintro ⟨i', hi'⟩
    rw [hi'] at hnone
    exact nomatch hnone
  have hkind : slotKindOf (slotFor w) = k := by
    rw [slotFor, hfind]
    · cases k <;> rfl
    · intro j
      split
      · next i' hok => simp [hok]
      · next hno => simpa using hno
  rw [hkind]
  exact hdec

/-- The queue entry of a word that is placed in an idle unit. -/
def placedOp (w : Nat) : QOp :=
  { QOp.nop with
    seq := 0, addr := Unit.idle.front.pc, word := BitVec.ofNat 32 w, rotb := Unit.idle.front.rotb, loops := Unit.idle.front.loops }

/-- The state after reset with a word placed, its move taken from the agenda. -/
def placedState (w : Nat) : State := { State.reset.place w with agenda := [] }

theorem placed_agenda {w : Nat} (hw : w < 2 ^ 32) : (State.reset.withFetchWord 32 w).agenda = [.slot (unitFor w) (slotFor w)] ∧
    { State.reset.withFetchWord 32 w with agenda := [] } = placedState w := by
  rw [State.withFetchWord, Nat.mod_eq_of_lt hw]
  exact ⟨rfl, rfl⟩

theorem unitFor_lt (w : Nat) : unitFor w < 480 := by
  unfold unitFor
  dsimp only
  split
  · split <;> decide
  · decide

theorem placedState_units (w : Nat) :
    (placedState w).units = [(unitFor w, Unit.idle.placed (unitFor w) (slotFor w) (BitVec.ofNat 32 w))] := by
  have hne : Unit.idle.placed (unitFor w) (slotFor w) (BitVec.ofNat 32 w) ≠ Unit.idle := by
    intro h
    exact nomatch congrArg Unit.on h
  show Tab.set Unit.idle [] (unitFor w) (Unit.idle.placed (unitFor w) (slotFor w) (BitVec.ofNat 32 w)) = _
  exact if_neg hne

theorem placedState_unit (w : Nat) : (placedState w).unit (unitFor w) = Unit.idle.placed (unitFor w) (slotFor w) (BitVec.ofNat 32 w) := by
  simp [State.unit, placedState_units, Tab.get]

theorem placedState_slot (w j : Nat) : (((placedState w).unit (unitFor w)).slot j).queue = if j = slotFor w then [placedOp w] else [] := by
  have hget (x : Slot) : Tab.get Slot.idle [(slotFor w, x)] j = if j = slotFor w then x else Slot.idle := by
    simp [Tab.get, @eq_comm _ j]
  rw [placedState_unit, Unit.slot]
  simp only [Unit.placed, hget]
  split <;> rfl

section Placed

variable (w : Nat)

@[simp] theorem placedState_landsNow (u : Nat) : (placedState w).landsNow u = false := rfl

theorem placedState_pairOf : (placedState w).pairOf (unitFor w) (placedOp w) = none := by
  have hready (n : Bun) (hn : n ∈ ((placedState w).unit (unitFor w)).disp.buns) : (placedState w).pairsReady (unitFor w) n = false := by
    rw [placedState_unit, Unit.placed, List.mem_singleton] at hn
    rw [hn]
    rfl
  simp only [State.pairOf, List.find?_eq_none]
  intro n hn
  simp [hready n hn]

theorem placedState_guardOf : ((placedState w).unit (unitFor w)).guardOf (slotFor w) (placedOp w) = true := by
  rw [placedState_unit]
  rfl

theorem placedState_stampMet : (placedState w).stampMet (unitFor w) (placedOp w) = true := by
  simp only [State.stampMet, placedState_unit]
  rfl

theorem placedState_present (t : Nat) : (placedState w).present t = true := rfl

theorem placedState_allFull (ts : List Nat) : (placedState w).allFull ts = true := List.all_eq_true.2 fun t _ => placedState_present w t

theorem placedState_issueWait (i : Instr) : (placedState w).issueWait (unitFor w) (placedOp w) i = [] := by
  have hinvar : ((placedState w).unit (unitFor w)).invar = false := by
    rw [placedState_unit]
    rfl
  have hqueue : (placedState w).queueFull (unitFor w) = false := rfl
  have hrows : (placedState w).rows = [] := rfl
  unfold State.issueWait
  simp only [placedState_allFull, hinvar, hqueue, hrows]
  simp only [List.all_eq_true, implies_true, Bool.not_false, Bool.true_or, Bool.and_true, if_true, Bool.and_false, Bool.false_eq_true,
    if_false, List.nil_append, List.any_nil]
  split <;> rfl

/-- Nothing holds the placed word back: its unit runs, and nothing else is on its way. -/
theorem placedState_blocked {i : Instr} (hi : (placedOp w).instr (slotFor w) = some i) :
    (placedState w).blocked (unitFor w) (slotFor w) (placedOp w) = none := by
  have hunit := placedState_unit w
  have hslot := placedState_slot w
  have hwait := placedState_issueWait w
  have hguard := placedState_guardOf w
  have hsnap : (placedState w).snapping (unitFor w) = false := rfl
  have hlands : (placedState w).landings = [] := rfl
  generalize hx : (placedState w).unit (unitFor w) = x at *
  have hbusy : (x.slot (slotFor w)).busy = 0 := by
    rw [hunit]
    simp [Unit.slot, Unit.placed, Tab.get]
  have hmarks (n : Nat) (r : Stor) : x.disp.marked n r = false := by
    rw [hunit]
    rfl
  have habsent : x.absent (slotFor w) (placedOp w) i = false := by simp [Unit.absent, hmarks]
  have hports (c n : Nat) (ps : List (BitVec 2 × BitVec 6)) : x.disp.portHeld c n ps = false := by
    rw [hunit]
    simp [Unit.placed, Disp.portHeld, Disp.reset]
  have hfence : x.fenceHolds (slotFor w) 0 = false := by
    simp only [Unit.fenceHolds, hslot]
    split <;> simp [placedOp]
  have hrf : (placedState w).rfHolds (unitFor w) 0 i = false := by
    simp only [State.rfHolds, hx, hslot, hlands]
    split <;> simp [placedOp]
  have hunread : x.unread (placedOp w) = false := by
    rw [hunit]
    rfl
  have hcolliding : x.colliding (placedOp w) = false := by
    rw [hunit]
    rfl
  have hmarked : x.guardMarked (slotFor w) (placedOp w) = false := rfl
  have hon : x.on = true ∧ x.frozen = false ∧ x.disp.pend = none := by
    rw [hunit]
    exact ⟨rfl, rfl, rfl⟩
  have hseq : (placedOp w).seq = 0 ∧ (placedOp w).sync = false ∧ (placedOp w).born = 0 := ⟨rfl, rfl, rfl⟩
  obtain ⟨hon, hfrozen, hpend⟩ := hon
  obtain ⟨hseq, hsync, hborn⟩ := hseq
  simp [State.blocked, State.blocks, hx, hi, hwait, hguard, hsnap, hbusy, habsent, hports, hfence, hrf, hunread, hcolliding, hmarked,
    hon, hfrozen, hpend, hseq, hsync, hborn]

theorem placedState_portLoses (i : Instr) : (placedState w).portLoses (unitFor w) (slotFor w) (placedOp w) i = false := by
  unfold State.portLoses
  dsimp only
  rw [Bool.and_eq_false_iff]
  right
  rw [List.any_eq_false]
  intro j _
  by_cases hj : j = slotFor w
  · simp [hj]
  · rw [placedState_slot, if_neg hj]
    simp

theorem placedState_touchCheck (i : Instr) : (placedState w).touchCheck (unitFor w) (slotFor w) (placedOp w) i = none := by
  refine touchCheck_eq_none rfl ?_ ?_ _ _ _ <;> rw [placedState_unit] <;> rfl

/-- No lower slot of the placed word's bundle can fault. -/
theorem placedState_lowerReady (n : Nat) : (placedState w).lowerReady (unitFor w) (slotFor w) n = false := by
  have hflights : (placedState w).flights = [] := rfl
  simp only [State.lowerReady, hflights, List.any_nil, Bool.or_false, List.any_eq_false]
  intro j _
  by_cases hj : j = slotFor w
  · simp [hj]
  · simp [placedState_slot, hj]

/-- No fault is noted when the placed word is tried. -/
theorem placedState_ownFaults : OwnFaults (slotFor w) ((placedState w).trying (unitFor w) (slotFor w) (placedOp w)) := by
  have hown : OwnFaults (slotFor w) { placedState w with cur := ⟨unitFor w, slotFor w, placedOp w⟩ } := by
    refine ⟨rfl, fun e he p hp => ?_⟩
    have hunits : e ∈ (placedState w).units := he
    rw [placedState_units, List.mem_singleton] at hunits
    rw [hunits] at hp
    exact nomatch hp
  refine hown.modUnit (unitFor w) (f := fun x => (x.modSlot (slotFor w) fun sl => { sl with tried := (placedState w).cycle + 1 }).modDisp
    fun d => { d with buns := d.buns.map fun b =>
      if b.seq == (placedOp w).seq then { b with begun := b.begun || x.invar } else b }) fun x => ?_
  rfl

end Placed

/-- What the next step does with a word that is placed. -/
theorem step_withFetchWord {w : Nat} {i : Instr} (hw : w < 2 ^ 32) (h : decodeTableWord 32 w = some i) :
    ∃ t', exec i ((placedState w).trying (unitFor w) (slotFor w) (placedOp w)) = .next t' ∧
      step (State.reset.withFetchWord 32 w) = .next (t'.settle (unitFor w)) := by
  have hdec : decodeSlot (slotKindOf (slotFor w)) (placedOp w).word = .ok (some i) := decodeSlot_slotFor h
  have hinstr : (placedOp w).instr (slotFor w) = some i := instr_of_decodeSlot hdec
  obtain ⟨hagenda, hplaced⟩ := placed_agenda hw
  have hkind : i.slotKind ≠ none := by simp [decodeSlot_slotKind hdec]
  obtain ⟨t', hexec, hown⟩ := exec_ownFaults i hkind (placedState_ownFaults w)
  have hattempt := attempt_run (by simpa using placedState_slot w (slotFor w)) hdec (placedState_pairOf w) (placedState_blocked w hinstr)
    (placedState_stampMet w) (placedState_guardOf w) (placedState_portLoses w i)
  rw [placedState_touchCheck] at hattempt
  refine ⟨t', hexec, ?_⟩
  have hrank : (placedState w).outranked t' (unitFor w) = false := by
    rw [← Bool.not_eq_true, outranked_iff]
    rintro ⟨p, hp, -, hready⟩
    rw [hown.unit _ p hp, placedState_lowerReady] at hready
    exact nomatch hready
  have hconcluded : (placedState w).concluded t' (unitFor w) = t'.settle (unitFor w) := by simp [State.concluded, hrank]
  rw [step_eq_doMove hagenda, hplaced, doMove_slot_run (unitFor_lt w) hattempt hexec]
  exact congrArg _ hconcluded


end Sys2Proof.Machine

namespace Sys2Proof.Laws

open Sys2Proof.Machine Sys2Proof.Safety

/-- Settles O56: an attempt by its cases, and for a placed word, that only its own slot's fault can be pending. -/
theorem stepRunsDecoded : Obligations.StepRunsDecoded := by
  refine ⟨fun s m r hagenda => ?_, fun w i hw hdecode => ?_⟩
  · intro b
    have hstep : step s = doMove m b := step_eq_doMove hagenda
    clear_value b
    refine ⟨?_, ?_, ?_, fun _ _ => rfl, ?_, ?_⟩
    · rintro u k rfl hu
      rw [hstep, doMove, if_neg (by simpa [unitOk] using hu)]
    · rintro u k rfl hu hq
      rw [hstep, doMove_slot_settled hu (attempt_empty hq), concluded_self]
    · rintro u k o q i rfl hu hq hi x pair may run lost t early quiet touch
      rw [hstep]
      refine ⟨?_, ?_, ?_, ?_, ?_⟩
      · intro n hpair
        exact doMove_slot_settled hu (attempt_pair hq hpair)
      · intro hpair hwaits
        rw [doMove_slot_settled hu (attempt_waits hq hi hpair hwaits), concluded_self]
      · rintro hpair ⟨hblocked, hstamp⟩ hrun
        have hfalse : (b.unit u).guardOf k o = false := Bool.not_eq_true _ ▸ hrun
        have hearly : b.guardEarly u k o = early := rfl
        clear_value early
        cases early with
        | none => exact doMove_slot_settled hu (attempt_idle hq hi hpair hblocked hstamp hfalse hearly)
        | some f => exact doMove_slot_settled hu (attempt_idle_early hq hi hpair hblocked hstamp hfalse hearly)
      · rintro hpair ⟨hblocked, hstamp⟩ hrun hlost
        have hport : b.portLoses u k o i = false := Bool.eq_false_iff.2 fun hport => hlost ⟨hrun, hport⟩
        obtain ⟨t', hexec⟩ := exec_answers i t
        rw [hexec]
        exact doMove_slot_run hu (attempt_run hq hi hpair hblocked hstamp hrun hport) hexec
      · rintro ⟨htrap, hrf, hwake⟩
        exact touchCheck_eq_none htrap hrf hwake k o i
    · intro t t' u
      exact ⟨fun hfresh => if_pos (outranked_iff.2 hfresh), fun hfresh => if_neg (mt outranked_iff.1 hfresh)⟩
    · rintro i a rfl
      rw [hstep]
      exact ⟨fun hnone => if_pos (by simp [hnone]), fun hsome => if_neg (by simpa using hsome)⟩
  · obtain ⟨t', hexec, hstep⟩ := step_withFetchWord hw hdecode
    refine ⟨(placedState w).trying (unitFor w) (slotFor w) (placedOp w), rfl, ?_⟩
    rw [hexec]
    exact hstep

end Sys2Proof.Laws

namespace Sys2Proof.Machine

open Sys2Proof.Safety

/-! ## Exact values (R72, R73) -/

/-- A magnitude in units of 2^q, rounded down. -/
def cutInt (q : Int) (m : Nat) (e : Int) : Nat := if q ≤ e then m * 2 ^ (e - q).toNat else m / 2 ^ (q - e).toNat

/-- What a magnitude has beyond `cutInt`, in units of 2^e. -/
def cutRem (q : Int) (m : Nat) (e : Int) : Nat := if q ≤ e then 0 else m % 2 ^ (q - e).toNat

/-- A magnitude in units of 2^q, rounded as a mode says. -/
def roundMag (rm : BitVec 3) (v : Nat) (neg : Bool) (q : Int) (m : Nat) (e : Int) : Nat :=
  if roundsUp rm v neg (cutInt q m e) (cutRem q m e) (q - e).toNat then cutInt q m e + 1 else cutInt q m e

/-- The fraction of a unit 2^q that rounding down leaves out. -/
def cutFrac (q : Int) (m : Nat) (e : Int) : ℚ := (cutRem q m e : ℚ) / 2 ^ (q - e).toNat

theorem zpow_toNat {i : Int} (h : 0 ≤ i) : (2 : ℚ) ^ i.toNat = 2 ^ i := by
  rw [← zpow_natCast, Int.toNat_of_nonneg h]

theorem cutRem_lt (q : Int) (m : Nat) (e : Int) : cutRem q m e < 2 ^ (q - e).toNat := by
  unfold cutRem
  split_ifs
  · positivity
  · exact Nat.mod_lt _ (by positivity)

/-- An exact magnitude is its whole units and the fraction of one. -/
theorem value_eq_cut (q : Int) (m : Nat) (e : Int) : (m : ℚ) * 2 ^ e = (cutInt q m e + cutFrac q m e) * 2 ^ q := by
  unfold cutFrac cutInt cutRem
  split_ifs with h
  · have hpow : (2 : ℚ) ^ e = 2 ^ (e - q) * 2 ^ q := by rw [← zpow_add₀ two_ne_zero, sub_add_cancel]
    rw [hpow, ← zpow_toNat (by omega)]
    push_cast
    ring
  · have hdiv : (m : ℚ) = 2 ^ (q - e).toNat * (m / 2 ^ (q - e).toNat : Nat) + (m % 2 ^ (q - e).toNat : Nat) := by
      exact_mod_cast (Nat.div_add_mod m (2 ^ (q - e).toNat)).symm
    have hpow : (2 : ℚ) ^ q = 2 ^ (q - e).toNat * 2 ^ e := by
      rw [zpow_toNat (by omega), ← zpow_add₀ two_ne_zero, sub_add_cancel]
    rw [hpow]
    field_simp
    linear_combination hdiv

theorem cutFrac_nonneg (q : Int) (m : Nat) (e : Int) : 0 ≤ cutFrac q m e := by unfold cutFrac; positivity

theorem cutFrac_lt_one (q : Int) (m : Nat) (e : Int) : cutFrac q m e < 1 := by
  rw [cutFrac, div_lt_one (by positivity)]
  exact_mod_cast cutRem_lt q m e

theorem cutFrac_eq_zero {q : Int} {m : Nat} {e : Int} : cutFrac q m e = 0 ↔ cutRem q m e = 0 := by
  simp [cutFrac]

theorem cutFrac_pos {q : Int} {m : Nat} {e : Int} (h : cutRem q m e ≠ 0) : 0 < cutFrac q m e :=
  lt_of_le_of_ne (cutFrac_nonneg q m e) (Ne.symm (mt cutFrac_eq_zero.1 h))

theorem ratOf_true (m : Nat) (e : Int) : ratOf true m e = -((m : ℚ) * 2 ^ e) := by simp [ratOf]

theorem ratOf_false (m : Nat) (e : Int) : ratOf false m e = (m : ℚ) * 2 ^ e := by simp [ratOf]

@[simp] theorem ratOf_zero (neg : Bool) (e : Int) : ratOf neg 0 e = 0 := by simp [ratOf]

theorem abs_ratOf (neg : Bool) (m : Nat) (e : Int) : |ratOf neg m e| = (m : ℚ) * 2 ^ e := by
  cases neg
  · rw [ratOf_false, abs_of_nonneg (by positivity)]
  · rw [ratOf_true, abs_neg, abs_of_nonneg (by positivity)]

theorem ratOf_inj {neg : Bool} {m n : Nat} {q : Int} : ratOf neg m q = ratOf neg n q ↔ m = n := by
  have hpos : (2 : ℚ) ^ q ≠ 0 := by positivity
  cases neg <;> simp [ratOf_true, ratOf_false, hpos]

/-- A value without a fraction of a unit is itself its rounding in every mode. -/
theorem roundMag_exact {q : Int} {m : Nat} {e : Int} (h : cutRem q m e = 0) (rm : BitVec 3) (v : Nat) (neg : Bool) :
    roundMag rm v neg q m e = cutInt q m e := by simp [roundMag, roundsUp, h]

theorem roundMag_cases (rm : BitVec 3) (v : Nat) (neg : Bool) (q : Int) (m : Nat) (e : Int) :
    roundMag rm v neg q m e = cutInt q m e ∨ roundMag rm v neg q m e = cutInt q m e + 1 := by
  unfold roundMag
  split_ifs <;> simp

/-- A multiple of 2^q is a value just when it is that value's units and no fraction is left out. -/
theorem ratOf_eq_iff_cut (neg : Bool) (k : Nat) (q : Int) (m : Nat) (e : Int) :
    ratOf neg k q = ratOf neg m e ↔ (k : ℚ) = cutInt q m e + cutFrac q m e := by
  have hunit : (2 : ℚ) ^ q ≠ 0 := by positivity
  cases neg
  · rw [ratOf_false, ratOf_false, value_eq_cut q m, mul_left_inj' hunit]
  · rw [ratOf_true, ratOf_true, value_eq_cut q m, neg_inj, mul_left_inj' hunit]

theorem ratOf_cutInt {q : Int} {m : Nat} {e : Int} (h : cutRem q m e = 0) (neg : Bool) :
    ratOf neg (cutInt q m e) q = ratOf neg m e :=
  (ratOf_eq_iff_cut ..).2 (by rw [cutFrac_eq_zero.2 h, add_zero])

/-- A value is its rounding just when no fraction of a unit is left out. -/
theorem ratOf_roundMag_eq_iff (rm : BitVec 3) (v : Nat) (neg : Bool) (q : Int) (m : Nat) (e : Int) :
    ratOf neg (roundMag rm v neg q m e) q = ratOf neg m e ↔ cutRem q m e = 0 := by
  refine ⟨fun heq => cutFrac_eq_zero.1 ?_, fun h => by rw [roundMag_exact h, ratOf_cutInt h]⟩
  have hone := cutFrac_lt_one q m e
  rw [ratOf_eq_iff_cut] at heq
  rcases roundMag_cases rm v neg q m e with hmag | hmag <;> rw [hmag] at heq <;> push_cast at heq <;> linarith

/-! ### The two neighbours in units of 2^q -/

/-- The units of the neighbour below a value whose magnitude rounds down to `n` and has a fraction. -/
def floorUnits (neg : Bool) (n : Nat) : Int := if neg then -(n + 1 : Int) else n

/-- The distance to the neighbour below, in units, of a value whose magnitude has the fraction `t`. -/
def floorFrac (neg : Bool) (t : ℚ) : ℚ := if neg then 1 - t else t

/-- Whether a mode chooses the greater of the neighbours `j` and `j + 1` of the value `j + d` (R72). -/
def GoesUp (rm : BitVec 3) (v : Nat) (j : Int) (d : ℚ) : Prop :=
  match rm.toNat with
  | 0 => 1 / 2 < d ∨ d = 1 / 2 ∧ j % 2 = 1
  | 1 => j < 0
  | 2 => False
  | 3 => True
  | 4 => 1 / 2 < d ∨ d = 1 / 2 ∧ 0 ≤ j
  | _ => (v : ℚ) < d * 2 ^ 24

theorem ratOf_eq_floor (neg : Bool) (q : Int) (m : Nat) (e : Int) :
    ratOf neg m e = (floorUnits neg (cutInt q m e) + floorFrac neg (cutFrac q m e)) * 2 ^ q := by
  cases neg
  · rw [ratOf_false, value_eq_cut q]; simp [floorUnits, floorFrac]
  · rw [ratOf_true, value_eq_cut q]; simp [floorUnits, floorFrac]; ring

theorem floorFrac_mem (neg : Bool) {q : Int} {m : Nat} {e : Int} (h : cutRem q m e ≠ 0) :
    0 < floorFrac neg (cutFrac q m e) ∧ floorFrac neg (cutFrac q m e) < 1 := by
  have hpos := cutFrac_pos h
  have hone := cutFrac_lt_one q m e
  cases neg <;> simp [floorFrac, hpos, hone]

/-- The magnitudes of the two neighbours. -/
theorem abs_floorUnits (neg : Bool) (n : Nat) (q : Int) :
    |(floorUnits neg n : ℚ) * 2 ^ q| = (if neg then n + 1 else n : Nat) * 2 ^ q ∧
    |(floorUnits neg n + 1 : ℚ) * 2 ^ q| = (if neg then n else n + 1 : Nat) * 2 ^ q := by
  have hunit : |(2 : ℚ) ^ q| = 2 ^ q := abs_of_pos (by positivity)
  have hsucc : |(n : ℚ) + 1| = n + 1 := abs_of_nonneg (by positivity)
  cases neg
  · simp [floorUnits, abs_mul, hunit, hsucc]
  · have hlow : (floorUnits true n : ℚ) = -(n + 1) := by simp [floorUnits]
    have hhigh : -((n : ℚ) + 1) + 1 = -n := by ring
    rw [hlow, hhigh, abs_mul, abs_mul, hunit, abs_neg, abs_neg, hsucc, Nat.abs_cast]
    simp

/-! ### The rounding modes (R72) -/

section Modes
variable {v n r s : Nat} {t : ℚ}

theorem half_lt_iff (ht : t = (r : ℚ) / 2 ^ s) : 2 ^ s < 2 * r ↔ 1 / 2 < t := by
  rw [ht, div_lt_div_iff₀ (by norm_num) (by positivity), one_mul, mul_comm]
  exact_mod_cast Iff.rfl

theorem half_eq_iff (ht : t = (r : ℚ) / 2 ^ s) : 2 * r = 2 ^ s ↔ t = 1 / 2 := by
  rw [ht, div_eq_div_iff (by positivity) (by norm_num), one_mul, mul_comm]
  exact_mod_cast Iff.rfl

/-- To the nearest, ties to the even one. -/
theorem roundsUp_rne (hr : r ≠ 0) (ht : t = (r : ℚ) / 2 ^ s) (neg : Bool) :
    roundsUp 0 v neg n r s = true ↔ 1 / 2 < t ∨ t = 1 / 2 ∧ n % 2 = 1 := by
  rw [← half_lt_iff ht, ← half_eq_iff ht]
  simp [roundsUp, hr]

theorem roundsUp_rz (neg : Bool) : roundsUp 1 v neg n r s = false := by simp [roundsUp]

theorem roundsUp_rd (hr : r ≠ 0) (neg : Bool) : roundsUp 2 v neg n r s = neg := by simp [roundsUp, hr]

theorem roundsUp_ru (hr : r ≠ 0) (neg : Bool) : roundsUp 3 v neg n r s = !neg := by simp [roundsUp, hr]

/-- To the nearest, ties away from zero. -/
theorem roundsUp_rna (hr : r ≠ 0) (ht : t = (r : ℚ) / 2 ^ s) (neg : Bool) : roundsUp 4 v neg n r s = true ↔ 1 / 2 ≤ t := by
  rw [le_iff_lt_or_eq, eq_comm (a := 1 / 2), ← half_lt_iff ht, ← half_eq_iff ht]
  simp [roundsUp, hr]
  omega

/-- Stochastically, a positive value. -/
theorem roundsUp_sr_false (hr : r ≠ 0) (ht : t = (r : ℚ) / 2 ^ s) : roundsUp 5 v false n r s = true ↔ (v : ℚ) < t * 2 ^ 24 := by
  rw [ht, div_mul_eq_mul_div, lt_div_iff₀ (by positivity)]
  simp only [roundsUp, beq_iff_eq, hr, if_false]
  simp
  exact_mod_cast Iff.rfl

/-- Stochastically, a negative value, whose greater neighbour has the smaller magnitude. -/
theorem roundsUp_sr_true (hr : r ≠ 0) (hlt : r < 2 ^ s) (ht : t = (r : ℚ) / 2 ^ s) :
    roundsUp 5 v true n r s = true ↔ ¬ (v : ℚ) < (1 - t) * 2 ^ 24 := by
  have hsub : 1 - t = ((2 ^ s - r : Nat) : ℚ) / 2 ^ s := by
    rw [Nat.cast_sub hlt.le, ht, sub_div]
    simp
  rw [hsub, div_mul_eq_mul_div, lt_div_iff₀ (by positivity)]
  simp only [roundsUp, beq_iff_eq, hr, if_false]
  simp
  exact_mod_cast Iff.rfl


/-- A magnitude that is not over the half, or at the half and `P`, lies under it, or at it and not `P`. -/
theorem not_nearer (P : Prop) : ¬ (1 / 2 < t ∨ t = 1 / 2 ∧ P) ↔ 1 / 2 < 1 - t ∨ 1 - t = 1 / 2 ∧ ¬ P := by
  rcases lt_trichotomy t (1 / 2) with h | h | h
  · exact iff_of_true (fun hup => hup.elim h.not_gt fun htie => h.ne htie.1) (.inl (by linarith))
  · subst h
    norm_num
  · exact iff_of_false (fun hdown => hdown (.inl h)) fun hup => by
      rcases hup with hfar | ⟨htie, -⟩ <;> linarith

theorem goesUp_rne_iff (hr : r ≠ 0) (ht : t = (r : ℚ) / 2 ^ s) (neg : Bool) :
    roundsUp 0 v neg n r s ≠ neg ↔ GoesUp 0 v (floorUnits neg n) (floorFrac neg t) := by
  have hup := roundsUp_rne (v := v) (n := n) hr ht neg
  cases neg with
  | false =>
    rw [ne_eq, Bool.not_eq_false, hup]
    exact or_congr_right (and_congr_right' (by simp [floorUnits]; omega))
  | true =>
    rw [ne_eq, hup, not_nearer]
    exact or_congr_right (and_congr_right' (by simp [floorUnits]; omega))

theorem goesUp_rna_iff (hr : r ≠ 0) (ht : t = (r : ℚ) / 2 ^ s) (neg : Bool) :
    roundsUp 4 v neg n r s ≠ neg ↔ GoesUp 4 v (floorUnits neg n) (floorFrac neg t) := by
  have hup : roundsUp 4 v neg n r s = true ↔ 1 / 2 < t ∨ t = 1 / 2 ∧ True := by
    rw [roundsUp_rna hr ht, le_iff_lt_or_eq, and_true, eq_comm (a := t)]
  cases neg with
  | false =>
    rw [ne_eq, Bool.not_eq_false, hup]
    exact or_congr_right (and_congr_right' (by simp [floorUnits]))
  | true =>
    rw [ne_eq, hup, not_nearer]
    exact or_congr_right (and_congr_right' (by simp [floorUnits]; omega))

theorem goesUp_sr_iff (hr : r ≠ 0) (hlt : r < 2 ^ s) (ht : t = (r : ℚ) / 2 ^ s) (neg : Bool) :
    roundsUp 5 v neg n r s ≠ neg ↔ GoesUp 5 v (floorUnits neg n) (floorFrac neg t) := by
  cases neg with
  | false => rw [ne_eq, Bool.not_eq_false, roundsUp_sr_false hr ht]; exact Iff.rfl
  | true => rw [ne_eq, roundsUp_sr_true hr hlt ht, not_not]; exact Iff.rfl

theorem mode_cases {rm : BitVec 3} (h : rm.toNat ≤ 5) : rm = 0 ∨ rm = 1 ∨ rm = 2 ∨ rm = 3 ∨ rm = 4 ∨ rm = 5 := by
  revert rm
  decide

/-- The model's rounding of a magnitude goes to the greater neighbour just when the mode does. -/
theorem roundsUp_iff_goesUp {rm : BitVec 3} (hrm : rm.toNat ≤ 5) (hr : r ≠ 0) (hlt : r < 2 ^ s) (ht : t = (r : ℚ) / 2 ^ s) (neg : Bool) :
    roundsUp rm v neg n r s ≠ neg ↔ GoesUp rm v (floorUnits neg n) (floorFrac neg t) := by
  obtain rfl | rfl | rfl | rfl | rfl | rfl := mode_cases hrm
  · exact goesUp_rne_iff hr ht neg
  · rw [roundsUp_rz]
    show _ ↔ floorUnits neg n < 0
    cases neg <;> simp [floorUnits]
    omega
  · rw [roundsUp_rd hr]
    exact iff_of_false (by simp) id
  · rw [roundsUp_ru hr]
    exact iff_of_true (by simp) trivial
  · exact goesUp_rna_iff hr ht neg
  · exact goesUp_sr_iff hr hlt ht neg

end Modes

/-- A value rounded as the model does is the neighbour that the mode chooses. -/
theorem ratOf_roundMag {rm : BitVec 3} (hrm : rm.toNat ≤ 5) (v : Nat) (neg : Bool) {q : Int} {m : Nat} {e : Int} (h : cutRem q m e ≠ 0) :
    (GoesUp rm v (floorUnits neg (cutInt q m e)) (floorFrac neg (cutFrac q m e)) →
      ratOf neg (roundMag rm v neg q m e) q = (floorUnits neg (cutInt q m e) + 1) * 2 ^ q) ∧
    (¬ GoesUp rm v (floorUnits neg (cutInt q m e)) (floorFrac neg (cutFrac q m e)) →
      ratOf neg (roundMag rm v neg q m e) q = floorUnits neg (cutInt q m e) * 2 ^ q) := by
  rw [← roundsUp_iff_goesUp (t := cutFrac q m e) hrm h (cutRem_lt q m e) rfl neg]
  unfold roundMag
  cases hup : roundsUp rm v neg (cutInt q m e) (cutRem q m e) (q - e).toNat <;> cases neg <;>
    simp [ratOf_true, ratOf_false, floorUnits]
  ring

section Units
variable {v : Nat} {j : Int} {d u y : ℚ}

theorem nonneg_units_iff (hu : 0 < u) (hd : 0 < d) (hd' : d < 1) : 0 ≤ (j + d) * u ↔ 0 ≤ j := by
  rw [mul_nonneg_iff_of_pos_right hu]
  refine ⟨fun h => ?_, fun h => ?_⟩
  · have hlt : ((-1 : Int) : ℚ) < j := by push_cast; linarith
    exact Int.le_of_sub_one_lt (by exact_mod_cast hlt)
  · have hj : (0 : ℚ) ≤ j := by exact_mod_cast h
    linarith

theorem chosen_rne_units (hu : 0 < u) (hd : 0 < d) (hd' : d < 1) (h : Chosen 0 v ((j + d) * u) (j * u) ((j + 1) * u) y) :
    (GoesUp 0 v j d → y = (j + 1) * u) ∧ (¬ GoesUp 0 v j d → y = j * u) := by
  obtain ⟨hy, hleft, hright, htie⟩ := h
  have heven : d = 1 / 2 → ∃ k : Int, y = (2 * k : Int) * u := fun hhalf => by
    obtain ⟨k, hk⟩ := htie (by rw [hhalf]; ring)
    exact ⟨k, by rw [hk]; push_cast; ring⟩
  rcases hy with rfl | rfl
  · have hdist : |(j + d) * u - j * u| = d * u := by
      rw [show (j + d) * u - j * u = d * u by ring, abs_of_pos (mul_pos hd hu)]
    have hnear : d ≤ 1 / 2 := by
      rw [hdist, show (j + 1) * u - (j + d) * u = (1 - d) * u by ring, mul_le_mul_iff_left₀ hu] at hright
      linarith
    refine ⟨fun hup => ?_, fun _ => rfl⟩
    obtain hfar | ⟨hhalf, hodd⟩ := hup
    · exact absurd hnear hfar.not_ge
    · obtain ⟨k, hk⟩ := heven hhalf
      have hk : j = 2 * k := by exact_mod_cast mul_right_cancel₀ hu.ne' hk
      omega
  · have hdist : |(j + d) * u - (j + 1) * u| = (1 - d) * u := by
      rw [abs_sub_comm, show (j + 1) * u - (j + d) * u = (1 - d) * u by ring, abs_of_pos (mul_pos (by linarith) hu)]
    have hfar : 1 / 2 ≤ d := by
      rw [hdist, show (j + d) * u - j * u = d * u by ring, mul_le_mul_iff_left₀ hu] at hleft
      linarith
    refine ⟨fun _ => rfl, fun hdown => (hdown ?_).elim⟩
    obtain hlt | heq := hfar.lt_or_eq
    · exact .inl hlt
    · obtain ⟨k, hk⟩ := heven heq.symm
      have hk : j + 1 = 2 * k := by exact_mod_cast mul_right_cancel₀ hu.ne' hk
      exact .inr ⟨heq.symm, by omega⟩

theorem chosen_rna_units (hu : 0 < u) (hd : 0 < d) (hd' : d < 1) (h : Chosen 4 v ((j + d) * u) (j * u) ((j + 1) * u) y) :
    (GoesUp 4 v j d → y = (j + 1) * u) ∧ (¬ GoesUp 4 v j d → y = j * u) := by
  have h : y = if (j + d) * u - j * u < (j + 1) * u - (j + d) * u then j * u
      else if (j + 1) * u - (j + d) * u < (j + d) * u - j * u then (j + 1) * u
      else if 0 ≤ (j + d) * u then (j + 1) * u else j * u := h
  simp only [show (j + d) * u - j * u = d * u by ring, show (j + 1) * u - (j + d) * u = (1 - d) * u by ring,
    mul_lt_mul_iff_left₀ hu, nonneg_units_iff hu hd hd'] at h
  refine ⟨fun hup => ?_, fun hdown => ?_⟩
  · obtain hfar | ⟨hhalf, hj⟩ := hup
    · rwa [if_neg (by linarith), if_pos (by linarith)] at h
    · rwa [if_neg (by linarith), if_neg (by linarith), if_pos hj] at h
  · obtain ⟨hfar, htie⟩ := not_or.1 hdown
    obtain hnear | hhalf := (not_lt.1 hfar).lt_or_eq
    · rwa [if_pos (by linarith)] at h
    · rwa [if_neg (by linarith), if_neg (by linarith), if_neg fun hj => htie ⟨hhalf, hj⟩] at h

theorem chosen_sr_units (hu : 0 < u) (h : Chosen 5 v ((j + d) * u) (j * u) ((j + 1) * u) y) :
    (GoesUp 5 v j d → y = (j + 1) * u) ∧ (¬ GoesUp 5 v j d → y = j * u) := by
  have hfrac : ((j + d) * u - j * u) / ((j + 1) * u - j * u) = d := by
    rw [show (j + d) * u - j * u = d * u by ring, show (j + 1) * u - j * u = u by ring, mul_div_cancel_right₀ _ hu.ne']
  have h : y = if (v : ℚ) < ((j + d) * u - j * u) / ((j + 1) * u - j * u) * 2 ^ 24 then (j + 1) * u else j * u := h
  rw [hfrac] at h
  exact ⟨fun hup => h.trans (if_pos hup), fun hdown => h.trans (if_neg hdown)⟩

/-- The neighbour that `Chosen` names is the one that the mode goes to. -/
theorem chosen_units {rm : BitVec 3} (hrm : rm.toNat ≤ 5) (hu : 0 < u) (hd : 0 < d) (hd' : d < 1)
    (h : Chosen rm v ((j + d) * u) (j * u) ((j + 1) * u) y) :
    (GoesUp rm v j d → y = (j + 1) * u) ∧ (¬ GoesUp rm v j d → y = j * u) := by
  obtain rfl | rfl | rfl | rfl | rfl | rfl := mode_cases hrm
  · exact chosen_rne_units hu hd hd' h
  · have h : y = if 0 ≤ (j + d) * u then j * u else (j + 1) * u := h
    simp only [nonneg_units_iff hu hd hd'] at h
    exact ⟨fun hup => h.trans (if_neg (not_le.2 hup)), fun hdown => h.trans (if_pos (not_lt.1 hdown))⟩
  · exact ⟨fun hup => hup.elim, fun _ => h⟩
  · exact ⟨fun _ => h, fun hdown => (hdown trivial).elim⟩
  · exact chosen_rna_units hu hd hd' h
  · exact chosen_sr_units hu h

end Units

/-- Of a value with a fraction of a unit, the neighbour that `Chosen` names is the model's rounding (R72). -/
theorem chosen_eq_ratOf_roundMag {rm : BitVec 3} (hrm : rm.toNat ≤ 5) {v : Nat} {neg : Bool} {q : Int} {m : Nat} {e : Int} {y : ℚ}
    (hrem : cutRem q m e ≠ 0) (h : Chosen rm v (ratOf neg m e) (floorUnits neg (cutInt q m e) * 2 ^ q)
      ((floorUnits neg (cutInt q m e) + 1) * 2 ^ q) y) : y = ratOf neg (roundMag rm v neg q m e) q := by
  obtain ⟨hpos, hone⟩ := floorFrac_mem neg hrem
  obtain ⟨hup, hdown⟩ := ratOf_roundMag hrm v neg hrem
  rw [ratOf_eq_floor neg q] at h
  obtain ⟨hyup, hydown⟩ := chosen_units hrm (by positivity) hpos hone h
  by_cases hgoes : GoesUp rm v (floorUnits neg (cutInt q m e)) (floorFrac neg (cutFrac q m e))
  · rw [hup hgoes, hyup hgoes]
  · rw [hdown hgoes, hydown hgoes]

/-! ### The values of a format (R70, R73) -/

/-- The exponent of a format's subnormal spacing. -/
def Fmt.ulpMin (f : Fmt) : Int := 1 - (f.bias : Int) - f.fw

/-- The exponent of the spacing below a format's greatest finite value. -/
def Fmt.ulpMax (f : Fmt) : Int := (2 ^ f.ew : Int) - (if f.sat then 1 else 2) - f.bias - f.fw

/-- The significand of a format's greatest finite value. -/
def Fmt.sigMax (f : Fmt) : Nat := if f.sat then 14 else 2 ^ (f.fw + 1) - 1

/-- The exponent of the last place of a magnitude in a format whose exponent range is unbounded above. -/
def cutExp (f : Fmt) (m : Nat) (e : Int) : Int := max (e + (Nat.log2 m : Int) - f.fw) f.ulpMin

theorem two_zpow_le {i j : Int} (h : i ≤ j) : (2 : ℚ) ^ i ≤ 2 ^ j := zpow_le_zpow_right₀ one_le_two h

theorem two_zpow_add_nat (n : Nat) (q : Int) : (2 : ℚ) ^ (n + q) = 2 ^ n * 2 ^ q := by
  rw [zpow_add₀ two_ne_zero, zpow_natCast]

theorem ulpMin_le_cutExp (f : Fmt) (m : Nat) (e : Int) : f.ulpMin ≤ cutExp f m e := le_max_right ..

/-- The significand of a magnitude has at most `fw + 1` bits. -/
theorem cutInt_lt (f : Fmt) (m : Nat) (e : Int) : cutInt (cutExp f m e) m e < 2 ^ (f.fw + 1) := by
  have hlog : (m : ℚ) < 2 ^ (m.log2 + 1) := by exact_mod_cast Nat.lt_log2_self
  have hexp : (m.log2 + 1 : Nat) + e ≤ (f.fw + 1 : Nat) + cutExp f m e := by
    have hmax : e + (m.log2 : Int) - f.fw ≤ cutExp f m e := le_max_left ..
    push_cast
    omega
  have hlt : (cutInt (cutExp f m e) m e : ℚ) * 2 ^ cutExp f m e < 2 ^ (f.fw + 1) * 2 ^ cutExp f m e := calc
    _ ≤ (cutInt (cutExp f m e) m e + cutFrac (cutExp f m e) m e) * 2 ^ cutExp f m e :=
      mul_le_mul_of_nonneg_right (le_add_of_nonneg_right (cutFrac_nonneg ..)) (by positivity)
    _ = m * 2 ^ e := (value_eq_cut ..).symm
    _ < 2 ^ (m.log2 + 1) * 2 ^ e := mul_lt_mul_of_pos_right hlog (by positivity)
    _ ≤ 2 ^ (f.fw + 1) * 2 ^ cutExp f m e := by
      rw [← two_zpow_add_nat, ← two_zpow_add_nat]
      exact two_zpow_le hexp
  exact_mod_cast lt_of_mul_lt_mul_right hlt (by positivity)

/-- A significand is normal, or its exponent is that of the subnormals. -/
theorem cutExp_eq_or_le_cutInt (f : Fmt) {m : Nat} (hm : m ≠ 0) (e : Int) :
    cutExp f m e = f.ulpMin ∨ 2 ^ f.fw ≤ cutInt (cutExp f m e) m e := by
  rcases max_choice (e + (m.log2 : Int) - f.fw) f.ulpMin with hmax | hmax
  · refine .inr (Nat.lt_succ_iff.1 ?_)
    have hexp : (f.fw : Int) + cutExp f m e = m.log2 + e := by
      rw [cutExp, hmax]
      ring
    have hlog : (2 : ℚ) ^ m.log2 ≤ m := by exact_mod_cast Nat.log2_self_le hm
    have hlt : (2 : ℚ) ^ f.fw * 2 ^ cutExp f m e < (cutInt (cutExp f m e) m e + 1) * 2 ^ cutExp f m e := calc
      _ = (2 : ℚ) ^ m.log2 * 2 ^ e := by rw [← two_zpow_add_nat, ← two_zpow_add_nat, hexp]
      _ ≤ m * 2 ^ e := mul_le_mul_of_nonneg_right hlog (by positivity)
      _ = (cutInt (cutExp f m e) m e + cutFrac (cutExp f m e) m e) * 2 ^ cutExp f m e := value_eq_cut ..
      _ < _ := mul_lt_mul_of_pos_right (by linarith [cutFrac_lt_one (cutExp f m e) m e]) (by positivity)
    exact_mod_cast lt_of_mul_lt_mul_right hlt (by positivity)
  · exact .inl hmax

/-- A multiple of a spacing of the format that has at most `fw + 1` bits, or is the next one, is on the format's grid. -/
theorem onGrid_of_units {f : Fmt} {k : Nat} {q : Int} {y : ℚ} (hk : k ≤ 2 ^ (f.fw + 1)) (hq : f.ulpMin ≤ q) (h : |y| = k * 2 ^ q) :
    OnGrid f y := by
  rcases hk.lt_or_eq with hlt | rfl
  · exact ⟨k, q, hlt, hq, h⟩
  · refine ⟨2 ^ f.fw, q + 1, Nat.pow_lt_pow_succ one_lt_two, hq.trans (by omega), ?_⟩
    rw [h, zpow_add₀ two_ne_zero]
    push_cast
    ring

/-- A value of the grid is a multiple of the subnormal spacing, and of any other spacing that its magnitude reaches the binade of. -/
theorem units_of_onGrid {f : Fmt} {q : Int} {z : ℚ} (h : OnGrid f z) (hq : q = f.ulpMin ∨ 2 ^ f.fw * 2 ^ q ≤ |z|) :
    ∃ k : Nat, |z| = k * 2 ^ q := by
  obtain ⟨n, p, hn, hp, hz⟩ := h
  have hp : f.ulpMin ≤ p := hp
  rcases le_or_gt q p with hqp | hpq
  · refine ⟨n * 2 ^ (p - q).toNat, ?_⟩
    rw [hz]
    push_cast
    rw [zpow_toNat (by omega), mul_assoc, ← zpow_add₀ two_ne_zero, sub_add_cancel]
  · refine absurd (hq.resolve_left (by omega)) (not_le.2 ?_)
    have hn : (n : ℚ) < 2 ^ (f.fw + 1) := by exact_mod_cast hn
    calc |z| = n * 2 ^ p := hz
      _ < 2 ^ (f.fw + 1) * 2 ^ p := mul_lt_mul_of_pos_right hn (by positivity)
      _ ≤ 2 ^ f.fw * 2 ^ q := by
        rw [← two_zpow_add_nat, ← two_zpow_add_nat]
        exact two_zpow_le (by push_cast; omega)

section Neighbours
variable {f : Fmt} {m : Nat} {e : Int}

/-- A finite value is on the grid just when no fraction of its last place is left out. -/
theorem onGrid_ratOf_iff (hm : m ≠ 0) (neg : Bool) : OnGrid f (ratOf neg m e) ↔ cutRem (cutExp f m e) m e = 0 := by
  refine ⟨fun h => cutFrac_eq_zero.1 ?_, fun h => ?_⟩
  · have hreach : cutExp f m e = f.ulpMin ∨ 2 ^ f.fw * 2 ^ cutExp f m e ≤ |ratOf neg m e| := by
      refine (cutExp_eq_or_le_cutInt f hm e).imp_right fun hnormal => ?_
      have hnormal : (2 : ℚ) ^ f.fw ≤ cutInt (cutExp f m e) m e := by exact_mod_cast hnormal
      rw [abs_ratOf, value_eq_cut (cutExp f m e)]
      exact mul_le_mul_of_nonneg_right (by linarith [cutFrac_nonneg (cutExp f m e) m e]) (by positivity)
    obtain ⟨k, hk⟩ := units_of_onGrid h hreach
    rw [abs_ratOf, value_eq_cut (cutExp f m e)] at hk
    have hk : cutInt (cutExp f m e) m e + cutFrac (cutExp f m e) m e = k := mul_right_cancel₀ (by positivity) hk
    have hzero := cutFrac_nonneg (cutExp f m e) m e
    have hone := cutFrac_lt_one (cutExp f m e) m e
    have hle : (cutInt (cutExp f m e) m e : ℚ) ≤ k := by linarith
    have hlt : (k : ℚ) < cutInt (cutExp f m e) m e + 1 := by linarith
    have heq : k = cutInt (cutExp f m e) m e := by
      norm_cast at hle hlt
      omega
    rw [heq] at hk
    linarith
  · refine onGrid_of_units (cutInt_lt f m e).le (ulpMin_le_cutExp f m e) ?_
    rw [← ratOf_cutInt h, abs_ratOf]

/-- Both neighbours in units of the last place are on the grid. -/
theorem onGrid_neighbours (neg : Bool) :
    OnGrid f (floorUnits neg (cutInt (cutExp f m e) m e) * 2 ^ cutExp f m e) ∧
    OnGrid f ((floorUnits neg (cutInt (cutExp f m e) m e) + 1) * 2 ^ cutExp f m e) := by
  obtain ⟨hlow, hhigh⟩ := abs_floorUnits neg (cutInt (cutExp f m e) m e) (cutExp f m e)
  have hlt := cutInt_lt f m e
  refine ⟨onGrid_of_units ?_ (ulpMin_le_cutExp f m e) hlow, onGrid_of_units ?_ (ulpMin_le_cutExp f m e) hhigh⟩ <;>
    split_ifs <;> omega

/-- The magnitude of what lies between the two neighbours. -/
theorem abs_between {neg : Bool} {n : Nat} {q : Int} {z : ℚ} (hlow : floorUnits neg n * 2 ^ q < z)
    (hhigh : z < (floorUnits neg n + 1) * 2 ^ q) : (n : ℚ) * 2 ^ q < |z| ∧ |z| < (n + 1) * 2 ^ q := by
  have hunit : (0 : ℚ) < 2 ^ q := by positivity
  have hn : (0 : ℚ) ≤ n * 2 ^ q := by positivity
  cases neg with
  | false =>
    have hlow : (n : ℚ) * 2 ^ q < z := by simpa [floorUnits] using hlow
    rw [abs_of_pos (hn.trans_lt hlow)]
    exact ⟨hlow, by simpa [floorUnits] using hhigh⟩
  | true =>
    have hfloor : (floorUnits true n : ℚ) = -(n + 1) := by simp [floorUnits]
    rw [hfloor] at hlow hhigh
    have hneg : z < -(n * 2 ^ q) := by linarith
    rw [abs_of_neg (hneg.trans_le (neg_nonpos.2 hn))]
    exact ⟨by linarith, by linarith⟩

/-- No value of the grid lies strictly between the two neighbours. -/
theorem not_onGrid_between (hm : m ≠ 0) {neg : Bool} {z : ℚ} (hlow : floorUnits neg (cutInt (cutExp f m e) m e) * 2 ^ cutExp f m e < z)
    (hhigh : z < (floorUnits neg (cutInt (cutExp f m e) m e) + 1) * 2 ^ cutExp f m e) : ¬ OnGrid f z := by
  intro hgrid
  obtain ⟨hmore, hless⟩ := abs_between hlow hhigh
  have hunit : (0 : ℚ) < 2 ^ cutExp f m e := by positivity
  have hreach : cutExp f m e = f.ulpMin ∨ 2 ^ f.fw * 2 ^ cutExp f m e ≤ |z| := by
    refine (cutExp_eq_or_le_cutInt f hm e).imp_right fun hnormal => le_trans ?_ hmore.le
    exact mul_le_mul_of_nonneg_right (by exact_mod_cast hnormal) hunit.le
  obtain ⟨k, hk⟩ := units_of_onGrid hgrid hreach
  rw [hk] at hmore hless
  have hmore := lt_of_mul_lt_mul_right hmore hunit.le
  have hless := lt_of_mul_lt_mul_right hless hunit.le
  norm_cast at hmore hless
  omega

/-- The model's rounding of a finite value is what the rule makes of its neighbours on the grid (R73). -/
theorem rounded_eq {rm : BitVec 3} (hrm : rm.toNat ≤ 5) {v : Nat} {neg : Bool} (hm : m ≠ 0) {lo hi y : ℚ} (hlo : OnGrid f lo)
    (hhi : OnGrid f hi) (hnone : ∀ z, OnGrid f z → ¬ (lo < z ∧ z < hi))
    (h : lo = ratOf neg m e ∧ hi = ratOf neg m e ∧ y = ratOf neg m e ∨
      lo < ratOf neg m e ∧ ratOf neg m e < hi ∧ Chosen rm v (ratOf neg m e) lo hi y) :
    y = ratOf neg (roundMag rm v neg (cutExp f m e) m e) (cutExp f m e) := by
  rcases h with ⟨rfl, -, rfl⟩ | ⟨hlow, hhigh, hchosen⟩
  · exact ((ratOf_roundMag_eq_iff ..).2 ((onGrid_ratOf_iff hm neg).1 hlo)).symm
  · have hrem : cutRem (cutExp f m e) m e ≠ 0 := fun h => hnone _ ((onGrid_ratOf_iff hm neg).2 h) ⟨hlow, hhigh⟩
    obtain ⟨hbelow, habove⟩ := onGrid_neighbours (f := f) (m := m) (e := e) neg
    obtain ⟨hpos, hone⟩ := floorFrac_mem neg hrem
    have hunit : (0 : ℚ) < 2 ^ cutExp f m e := by positivity
    have hleft : floorUnits neg (cutInt (cutExp f m e) m e) * 2 ^ cutExp f m e < ratOf neg m e := by
      rw [ratOf_eq_floor neg (cutExp f m e)]
      exact mul_lt_mul_of_pos_right (by linarith) hunit
    have hright : ratOf neg m e < (floorUnits neg (cutInt (cutExp f m e) m e) + 1) * 2 ^ cutExp f m e := by
      rw [ratOf_eq_floor neg (cutExp f m e)]
      exact mul_lt_mul_of_pos_right (by linarith) hunit
    have hloeq : lo = floorUnits neg (cutInt (cutExp f m e) m e) * 2 ^ cutExp f m e := le_antisymm
      (not_lt.1 fun hlt => not_onGrid_between hm hlt (hlow.trans hright) hlo) (not_lt.1 fun hlt => hnone _ hbelow ⟨hlt, hleft.trans hhigh⟩)
    have hhieq : hi = (floorUnits neg (cutInt (cutExp f m e) m e) + 1) * 2 ^ cutExp f m e := le_antisymm
      (not_lt.1 fun hlt => hnone _ habove ⟨hlow.trans hright, hlt⟩) (not_lt.1 fun hlt => not_onGrid_between hm (hleft.trans hhigh) hlt hhi)
    subst hloeq hhieq
    exact chosen_eq_ratOf_roundMag hrm hrem hchosen

end Neighbours

/-! ### Encodings (R70) -/

/-- What the five formats of R70 have in common. -/
structure Fmt.Sound (f : Fmt) : Prop where
  fw_pos : 2 ≤ f.fw
  fw_le : f.fw ≤ 23
  ew_pos : 2 ≤ f.ew
  ulp_le : f.ulpMin ≤ f.ulpMax
  sat_iff : f.sat = true ↔ f = e4m3
  sat_fw : f.sat = true → f.fw = 3

theorem sound_of_mem {f : Fmt} (h : f ∈ [fp32, bf16, fp16, e5m2, e4m3]) : f.Sound := by
  simp only [List.mem_cons, List.not_mem_nil, or_false] at h
  rcases h with rfl | rfl | rfl | rfl | rfl <;> constructor <;> decide

/-- The encoding of a sign, an exponent field and a fraction field. -/
def Fmt.word (f : Fmt) (neg : Bool) (E F : Nat) : Nat := signBit f neg + (E * 2 ^ f.fw + F)

/-- The fields that NaN and the infinities have; of E4M3, NaN alone. -/
def Fmt.Special (f : Fmt) (E F : Nat) : Prop := E = 2 ^ f.ew - 1 ∧ (f.sat = true → F = 7)

theorem signBit_eq (f : Fmt) (neg : Bool) : signBit f neg = neg.toNat * 2 ^ f.ew * 2 ^ f.fw := by
  cases neg <;> simp [signBit, pow_add]

section Fields
variable {f : Fmt} {neg : Bool} {E F : Nat}

theorem word_frac (hF : F < 2 ^ f.fw) : f.word neg E F % 2 ^ f.fw = F := by
  rw [Fmt.word, signBit_eq, ← add_assoc, ← add_mul, Nat.mul_add_mod_self_right, Nat.mod_eq_of_lt hF]

theorem word_div (hF : F < 2 ^ f.fw) : f.word neg E F / 2 ^ f.fw = neg.toNat * 2 ^ f.ew + E := by
  rw [Fmt.word, signBit_eq, ← add_assoc, ← add_mul, add_comm, Nat.add_mul_div_right _ _ (by positivity), Nat.div_eq_of_lt hF, zero_add]

theorem word_exp (hE : E < 2 ^ f.ew) (hF : F < 2 ^ f.fw) : f.word neg E F / 2 ^ f.fw % 2 ^ f.ew = E := by
  rw [word_div hF, Nat.mul_add_mod_self_right, Nat.mod_eq_of_lt hE]

theorem word_sign (hE : E < 2 ^ f.ew) (hF : F < 2 ^ f.fw) : f.word neg E F / 2 ^ (f.ew + f.fw) % 2 = neg.toNat := by
  rw [add_comm, pow_add, ← Nat.div_div_eq_div_mul, word_div hF, add_comm, Nat.add_mul_div_right _ _ (by positivity),
    Nat.div_eq_of_lt hE, zero_add]
  cases neg <;> rfl

theorem word_lt (hE : E < 2 ^ f.ew) (hF : F < 2 ^ f.fw) : f.word neg E F < 2 * 2 ^ (f.ew + f.fw) := by
  have hmag : E * 2 ^ f.fw + F < 2 ^ (f.ew + f.fw) := by
    rw [pow_add]
    nlinarith
  have hsign : signBit f neg ≤ 2 ^ (f.ew + f.fw) := by
    unfold signBit
    split_ifs <;> omega
  unfold Fmt.word
  omega

/-- An encoding is the word of its fields. -/
theorem word_fields {b : Nat} (h : b < 2 * 2 ^ (f.ew + f.fw)) :
    f.word (decide (2 ^ (f.ew + f.fw) ≤ b)) (b / 2 ^ f.fw % 2 ^ f.ew) (b % 2 ^ f.fw) = b := by
  have hsplit : 2 ^ f.fw * (b / 2 ^ f.fw) + b % 2 ^ f.fw = b := Nat.div_add_mod ..
  have hquot : 2 ^ f.ew * (b / 2 ^ f.fw / 2 ^ f.ew) + b / 2 ^ f.fw % 2 ^ f.ew = b / 2 ^ f.fw := Nat.div_add_mod ..
  have hsign : b / 2 ^ f.fw / 2 ^ f.ew = (decide (2 ^ (f.ew + f.fw) ≤ b)).toNat := by
    rw [Nat.div_div_eq_div_mul, ← pow_add, add_comm f.fw]
    by_cases hle : 2 ^ (f.ew + f.fw) ≤ b
    · simp only [hle, decide_true, Bool.toNat_true]
      exact Nat.div_eq_of_lt_le (by omega) (by omega)
    · simp only [hle, decide_false, Bool.toNat_false]
      exact Nat.div_eq_of_lt (by omega)
  rw [Fmt.word, signBit_eq, ← hsign, ← add_assoc, ← add_mul, mul_comm _ (2 ^ f.ew), hquot, mul_comm, hsplit]

theorem decodeF_word (hE : E < 2 ^ f.ew) (hF : F < 2 ^ f.fw) :
    decodeF f (f.word neg E F) =
      if f.sat then
        if E = 2 ^ f.ew - 1 ∧ F = 7 then .nan neg false 0
        else if E = 0 then .num neg F f.ulpMin else .num neg (F + 2 ^ f.fw) ((E : Int) - f.bias - f.fw)
      else if E = 2 ^ f.ew - 1 then
        if F = 0 then .inf neg else .nan neg (F / 2 ^ (f.fw - 1) % 2 == 0) (F % 2 ^ (f.fw - 1) * 2 ^ (23 - f.fw))
      else if E = 0 then .num neg F f.ulpMin else .num neg (F + 2 ^ f.fw) ((E : Int) - f.bias - f.fw) := by
  have hneg : (neg.toNat == 1) = neg := by cases neg <;> rfl
  unfold decodeF
  simp only [word_frac hF, word_exp hE hF, word_sign hE hF, hneg, beq_iff_eq, Bool.and_eq_true, Fmt.ulpMin]

theorem decodeF_word_num (hE : E < 2 ^ f.ew) (hF : F < 2 ^ f.fw) (h : ¬ f.Special E F) : decodeF f (f.word neg E F) =
    if E = 0 then .num neg F f.ulpMin else .num neg (F + 2 ^ f.fw) ((E : Int) - f.bias - f.fw) := by
  rw [decodeF_word hE hF]
  cases hsat : f.sat
  · rw [if_neg Bool.false_ne_true, if_neg fun htop => h ⟨htop, by simp [hsat]⟩]
  · rw [if_pos rfl, if_neg fun htop => h ⟨htop.1, fun _ => htop.2⟩]

theorem decodeF_word_inf (hE : E < 2 ^ f.ew) (h : f.Special E 0) : decodeF f (f.word neg E 0) = .inf neg := by
  obtain ⟨htop, hseven⟩ := h
  have hsat : f.sat = false := by simpa using hseven
  rw [decodeF_word hE (by positivity), hsat, if_neg Bool.false_ne_true, if_pos htop, if_pos rfl]

theorem decodeF_word_nan (hE : E < 2 ^ f.ew) (hF : F < 2 ^ f.fw) (h : f.Special E F) (hpay : F ≠ 0) :
    decodeF f (f.word neg E F) = if f.sat then .nan neg false 0
      else .nan neg (F / 2 ^ (f.fw - 1) % 2 == 0) (F % 2 ^ (f.fw - 1) * 2 ^ (23 - f.fw)) := by
  obtain ⟨htop, hseven⟩ := h
  rw [decodeF_word hE hF]
  cases hsat : f.sat
  · simp [htop, hpay]
  · simp [htop, hseven hsat]

end Fields

section Encode
variable {f : Fmt} {neg : Bool} {k : Nat} {q : Int}

/-- How far above the subnormal spacing an exponent in range can be. -/
theorem code_bounds {c : Nat} (hs : f.Sound) (hrange : ¬ (f.ulpMax < f.ulpMin + c ∨ f.ulpMin + c = f.ulpMax ∧ f.sigMax < k)) :
    (f.sat = true → f.fw = 3 ∧ c + 2 ≤ 2 ^ f.ew ∧ (c + 2 = 2 ^ f.ew → k ≤ 14)) ∧
    (f.sat = false → c + 3 ≤ 2 ^ f.ew ∧ (c + 3 = 2 ^ f.ew → k < 2 ^ (f.fw + 1))) := by
  have hpow : ((2 ^ f.ew : Nat) : Int) = 2 ^ f.ew := by push_cast; rfl
  have hfour : 0 < 2 ^ (f.fw + 1) := by positivity
  unfold Fmt.ulpMax Fmt.ulpMin Fmt.sigMax at hrange
  rw [← hpow] at hrange
  refine ⟨fun hsat => ⟨hs.sat_fw hsat, ?_⟩, fun hsat => ?_⟩ <;> simp only [hsat, if_true, Bool.false_eq_true, if_false] at hrange <;> omega

/-- A significand at an exponent in range is written by fields of a finite value. -/
theorem fields_of_units (hs : f.Sound) (hq : f.ulpMin ≤ q) (hk : k ≤ 2 ^ (f.fw + 1)) (hnormal : q = f.ulpMin ∨ 2 ^ f.fw ≤ k)
    (hrange : ¬ (f.ulpMax < q ∨ q = f.ulpMax ∧ f.sigMax < k)) :
    ∃ E F, (q - f.ulpMin).toNat * 2 ^ f.fw + k = E * 2 ^ f.fw + F ∧ E < 2 ^ f.ew ∧ F < 2 ^ f.fw ∧ ¬ f.Special E F ∧
      ∀ neg, ∃ m e, decodeF f (f.word neg E F) = .num neg m e ∧ ratOf neg m e = ratOf neg k q := by
  obtain ⟨c, rfl⟩ : ∃ c : Nat, q = f.ulpMin + c := ⟨(q - f.ulpMin).toNat, by omega⟩
  rw [add_sub_cancel_left, Int.toNat_natCast]
  have hcode : ∀ E : Nat, ((E + 1 : Nat) : Int) - f.bias - f.fw = f.ulpMin + E := fun E => by unfold Fmt.ulpMin; push_cast; ring
  have hdouble : 2 ^ (f.fw + 1) = 2 * 2 ^ f.fw := pow_succ' 2 f.fw
  have hlow : 0 < 2 ^ f.fw := by positivity
  obtain ⟨hsat, hieee⟩ := code_bounds hs hrange
  rcases lt_or_ge k (2 ^ f.fw) with hlt | hge
  · obtain rfl : c = 0 := by omega
    have hfour : 2 ^ 2 ≤ 2 ^ f.ew := Nat.pow_le_pow_right two_pos hs.ew_pos
    have hnum : ¬ f.Special 0 k := fun h => absurd h.1 (by omega)
    exact ⟨0, k, rfl, by positivity, hlt, hnum, fun neg => ⟨_, _, decodeF_word_num (by positivity) hlt hnum, by simp⟩⟩
  rcases hk.lt_or_eq with hlt | rfl
  · have hfinite : c + 1 < 2 ^ f.ew ∧ ¬ f.Special (c + 1) (k - 2 ^ f.fw) := by
      cases hf : f.sat with
      | false =>
        have hbound := hieee hf
        exact ⟨by omega, fun h => absurd h.1 (by omega)⟩
      | true =>
        obtain ⟨hfw, hbound⟩ := hsat hf
        have hpow : 2 ^ f.fw = 8 := by rw [hfw]; rfl
        refine ⟨by omega, fun h => ?_⟩
        obtain ⟨htop, hseven⟩ := h
        have hseven := hseven hf
        omega
    have hF : k - 2 ^ f.fw < 2 ^ f.fw := by omega
    refine ⟨c + 1, k - 2 ^ f.fw, by rw [add_mul]; omega, hfinite.1, hF, hfinite.2, fun neg =>
      ⟨k, f.ulpMin + c, ?_, rfl⟩⟩
    rw [decodeF_word_num hfinite.1 hF hfinite.2, if_neg c.succ_ne_zero, hcode, Nat.sub_add_cancel hge]
  · have hfinite : c + 2 < 2 ^ f.ew ∧ ¬ f.Special (c + 2) 0 := by
      cases hf : f.sat with
      | false =>
        have hbound := hieee hf
        exact ⟨by omega, fun h => absurd h.1 (by omega)⟩
      | true =>
        obtain ⟨hfw, hle, hlast⟩ := hsat hf
        have hpow : 2 ^ f.fw = 8 := by rw [hfw]; rfl
        exact ⟨by omega, fun h => absurd (h.2 hf) (by decide)⟩
    refine ⟨c + 2, 0, by rw [add_mul]; omega, hfinite.1, hlow, hfinite.2, fun neg => ⟨2 ^ f.fw, f.ulpMin + (c + 1 : Nat), ?_, ?_⟩⟩
    · rw [decodeF_word_num hfinite.1 hlow hfinite.2, if_neg (by omega), zero_add, hcode]
    · simp only [ratOf, hdouble]
      push_cast
      rw [← add_assoc, zpow_add_one₀ two_ne_zero]
      ring

/-- Such a significand's encoding is one of the format, and stands for its value. -/
theorem decodeF_units (hs : f.Sound) (hq : f.ulpMin ≤ q) (hk : k ≤ 2 ^ (f.fw + 1)) (hnormal : q = f.ulpMin ∨ 2 ^ f.fw ≤ k)
    (hrange : ¬ (f.ulpMax < q ∨ q = f.ulpMax ∧ f.sigMax < k)) :
    signBit f neg + ((q - f.ulpMin).toNat * 2 ^ f.fw + k) < 2 * 2 ^ (f.ew + f.fw) ∧
    ∃ m e, decodeF f (signBit f neg + ((q - f.ulpMin).toNat * 2 ^ f.fw + k)) = .num neg m e ∧ ratOf neg m e = ratOf neg k q := by
  obtain ⟨E, F, hcode, hE, hF, -, hvalue⟩ := fields_of_units hs hq hk hnormal hrange
  rw [hcode]
  exact ⟨word_lt hE hF, hvalue neg⟩

end Encode

/-! ### Rounding to a format (R73) -/

theorem roundFin_eq (f : Fmt) (rm : BitVec 3) (v : Nat) (neg : Bool) (m : Nat) (e : Int) :
    roundFin f rm v neg m e =
      if f.ulpMax < cutExp f m e ∨ cutExp f m e = f.ulpMax ∧ f.sigMax < roundMag rm v neg (cutExp f m e) m e then
        (overflowBits f rm neg, fOF ||| fNX)
      else
        (signBit f neg + ((cutExp f m e - f.ulpMin).toNat * 2 ^ f.fw + roundMag rm v neg (cutExp f m e) m e),
          (if cutRem (cutExp f m e) m e = 0 then 0 else fNX) |||
            if cutRem (cutExp f m e) m e ≠ 0 ∧ cutExp f m e = f.ulpMin ∧ roundMag rm v neg (cutExp f m e) m e < 2 ^ f.fw
              then fUF else 0) := by
  have hfield : ∀ q : Int, q + f.fw + f.bias - 1 = q - f.ulpMin := fun q => by unfold Fmt.ulpMin; ring
  unfold roundFin
  simp only [hfield]
  simp only [Bool.or_eq_true, Bool.and_eq_true, decide_eq_true_eq, beq_iff_eq, bne_iff_ne, gt_iff_lt, and_assoc]
  rfl

section Range
variable {f : Fmt} {k : Nat} {q : Int}

theorem sigMax_bounds (hs : f.Sound) : 2 ^ f.fw ≤ f.sigMax ∧ f.sigMax < 2 ^ (f.fw + 1) := by
  unfold Fmt.sigMax
  cases hsat : f.sat
  · have hdouble : 2 ^ (f.fw + 1) = 2 * 2 ^ f.fw := pow_succ' 2 f.fw
    have hlow : 0 < 2 ^ f.fw := by positivity
    simp only [Bool.false_eq_true, if_false]
    omega
  · rw [hs.sat_fw hsat]
    decide

/-- What the model takes for an overflow is a magnitude beyond the greatest finite one. -/
theorem greatest_lt_iff (hs : f.Sound) (hq : f.ulpMin ≤ q) (hk : k ≤ 2 ^ (f.fw + 1)) (hnormal : q = f.ulpMin ∨ 2 ^ f.fw ≤ k) :
    (f.sigMax : ℚ) * 2 ^ f.ulpMax < k * 2 ^ q ↔ f.ulpMax < q ∨ q = f.ulpMax ∧ f.sigMax < k := by
  obtain ⟨hleast, hmost⟩ := sigMax_bounds hs
  rcases lt_trichotomy q f.ulpMax with hlt | rfl | hgt
  · refine iff_of_false (not_lt.2 ?_) (by omega)
    calc (k : ℚ) * 2 ^ q ≤ 2 ^ (f.fw + 1) * 2 ^ q := mul_le_mul_of_nonneg_right (by exact_mod_cast hk) (by positivity)
      _ ≤ 2 ^ f.fw * 2 ^ f.ulpMax := by
        rw [← two_zpow_add_nat, ← two_zpow_add_nat]
        exact two_zpow_le (by push_cast; omega)
      _ ≤ f.sigMax * 2 ^ f.ulpMax := mul_le_mul_of_nonneg_right (by exact_mod_cast hleast) (by positivity)
  · rw [mul_lt_mul_iff_left₀ (by positivity)]
    simp
  · refine iff_of_true ?_ (.inl hgt)
    have hle := hs.ulp_le
    have hlow := hnormal.resolve_left (by omega)
    calc (f.sigMax : ℚ) * 2 ^ f.ulpMax < 2 ^ (f.fw + 1) * 2 ^ f.ulpMax :=
        mul_lt_mul_of_pos_right (by exact_mod_cast hmost) (by positivity)
      _ ≤ 2 ^ f.fw * 2 ^ q := by
        rw [← two_zpow_add_nat, ← two_zpow_add_nat]
        exact two_zpow_le (by push_cast; omega)
      _ ≤ k * 2 ^ q := mul_le_mul_of_nonneg_right (by exact_mod_cast hlow) (by positivity)

/-- What the model takes for tiny is a magnitude below the least normal one. -/
theorem lt_leastNormal_iff (hq : f.ulpMin ≤ q) (hnormal : q = f.ulpMin ∨ 2 ^ f.fw ≤ k) :
    (k : ℚ) * 2 ^ q < 2 ^ (1 - (f.bias : Int)) ↔ q = f.ulpMin ∧ k < 2 ^ f.fw := by
  have hleast : (2 : ℚ) ^ (1 - (f.bias : Int)) = 2 ^ f.fw * 2 ^ f.ulpMin := by
    rw [← two_zpow_add_nat, Fmt.ulpMin, add_sub_cancel]
  rw [hleast]
  rcases eq_or_ne q f.ulpMin with rfl | hne
  · rw [mul_lt_mul_iff_left₀ (by positivity)]
    simp
    exact_mod_cast Iff.rfl
  · refine iff_of_false (not_lt.2 ?_) fun h => hne h.1
    have hlow := hnormal.resolve_left hne
    exact mul_le_mul (by exact_mod_cast hlow) (two_zpow_le hq) (by positivity) (by positivity)

theorem overflowBits_eq (hs : f.Sound) {rm : BitVec 3} (hrm : rm.toNat ≤ 5) (neg : Bool) : overflowBits f rm neg = signBit f neg +
    if f = e4m3 then 0x7E
    else if rm = 0 ∨ rm = 4 ∨ rm = 5 ∨ rm = 2 ∧ neg = true ∨ rm = 3 ∧ neg = false then (2 ^ f.ew - 1) * 2 ^ f.fw
    else (2 ^ f.ew - 1) * 2 ^ f.fw - 1 := by
  unfold overflowBits maxBits infBits
  by_cases hsat : f.sat = true
  · rw [if_pos hsat, if_pos hsat, if_pos (hs.sat_iff.1 hsat)]
  · have hzero : signBit f false = 0 := rfl
    rw [if_neg hsat, if_neg hsat, if_neg (mt hs.sat_iff.2 hsat)]
    obtain rfl | rfl | rfl | rfl | rfl | rfl := mode_cases hrm <;> cases neg <;> simp [hzero]

/-- The greatest finite value of a format (R70). -/
theorem greatest_eq (hs : f.Sound) : (if f = e4m3 then 448 else ((2 ^ (f.fw + 1) - 1 : Nat) : ℚ) * 2 ^ ((2 ^ f.ew : Int) - 2 - f.bias - f.fw)) =
    (f.sigMax : ℚ) * 2 ^ f.ulpMax := by
  unfold Fmt.sigMax Fmt.ulpMax
  by_cases hsat : f.sat = true
  · obtain rfl := hs.sat_iff.1 hsat
    norm_num [e4m3]
  · simp only [if_neg hsat, if_neg (mt hs.sat_iff.2 hsat)]

end Range

section Round
variable {f : Fmt} {m : Nat} {e : Int}

theorem roundMag_le (rm : BitVec 3) (v : Nat) (neg : Bool) : roundMag rm v neg (cutExp f m e) m e ≤ 2 ^ (f.fw + 1) := by
  have hlt := cutInt_lt f m e
  rcases roundMag_cases rm v neg (cutExp f m e) m e with h | h <;> omega

theorem cutExp_eq_or_le_roundMag (hm : m ≠ 0) (rm : BitVec 3) (v : Nat) (neg : Bool) :
    cutExp f m e = f.ulpMin ∨ 2 ^ f.fw ≤ roundMag rm v neg (cutExp f m e) m e := by
  refine (cutExp_eq_or_le_cutInt f hm e).imp_right fun hle => ?_
  rcases roundMag_cases rm v neg (cutExp f m e) m e with h | h <;> omega

theorem roundF_num (f : Fmt) (rm : BitVec 3) (v : Nat) (neg : Bool) (hm : m ≠ 0) : roundF f rm v (.num neg m e) = roundFin f rm v neg m e := by
  simp [roundF, hm]

/-- A finite value whose rounding is beyond the greatest finite one overflows. -/
theorem roundF_overflow (hs : f.Sound) (rm : BitVec 3) (v : Nat) (neg : Bool) (hm : m ≠ 0)
    (h : (f.sigMax : ℚ) * 2 ^ f.ulpMax < |ratOf neg (roundMag rm v neg (cutExp f m e) m e) (cutExp f m e)|) :
    roundF f rm v (.num neg m e) = (overflowBits f rm neg, fOF ||| fNX) := by
  rw [abs_ratOf, greatest_lt_iff hs (ulpMin_le_cutExp f m e) (roundMag_le rm v neg) (cutExp_eq_or_le_roundMag hm rm v neg)] at h
  rw [roundF_num f rm v neg hm, roundFin_eq, if_pos h]

/-- A finite value whose rounding is in range becomes that rounding's encoding. -/
theorem roundF_inRange (hs : f.Sound) (rm : BitVec 3) (v : Nat) (neg : Bool) (hm : m ≠ 0)
    (h : |ratOf neg (roundMag rm v neg (cutExp f m e) m e) (cutExp f m e)| ≤ (f.sigMax : ℚ) * 2 ^ f.ulpMax) :
    let r := roundF f rm v (.num neg m e)
    let y := ratOf neg (roundMag rm v neg (cutExp f m e) m e) (cutExp f m e)
    r.1 < 2 * 2 ^ (f.ew + f.fw) ∧ (∃ k g, decodeF f r.1 = .num neg k g ∧ ratOf neg k g = y) ∧
      r.2 = (if y = ratOf neg m e then 0 else fNX) ||| if y ≠ ratOf neg m e ∧ |y| < 2 ^ (1 - (f.bias : Int)) then fUF else 0 := by
  have hulp := ulpMin_le_cutExp f m e
  have hnormal := cutExp_eq_or_le_roundMag (f := f) (e := e) hm rm v neg
  rw [abs_ratOf, ← not_lt, greatest_lt_iff hs hulp (roundMag_le rm v neg) hnormal] at h
  obtain ⟨hlt, hvalue⟩ := decodeF_units (neg := neg) hs hulp (roundMag_le rm v neg) hnormal h
  simp only [roundF_num f rm v neg hm, roundFin_eq, if_neg h, abs_ratOf, lt_leastNormal_iff hulp hnormal, ne_eq, ratOf_roundMag_eq_iff]
  exact ⟨hlt, hvalue, trivial⟩

end Round

/-! ### NaN, infinities and zeros (R76) -/

theorem decodeF_nanConvert {f : Fmt} (hs : f.Sound) (neg : Bool) {p : Nat} (hp : p < 2 ^ 22) :
    decodeF f (nanConvert f neg p) = .nan neg false (if f = e4m3 then 0 else p / 2 ^ (23 - f.fw) * 2 ^ (23 - f.fw)) := by
  have hew := Nat.pow_le_pow_right two_pos hs.ew_pos
  have htop : 2 ^ f.ew - 1 < 2 ^ f.ew := by omega
  unfold nanConvert
  by_cases hsat : f.sat = true
  · obtain rfl := hs.sat_iff.1 hsat
    rw [if_pos hsat, if_pos rfl]
    cases neg <;> rfl
  · have hquiet : 2 ^ f.fw = 2 * 2 ^ (f.fw - 1) := by
      rw [← pow_succ', Nat.sub_add_cancel (by have := hs.fw_pos; omega)]
    have hpay : p / 2 ^ (23 - f.fw) < 2 ^ (f.fw - 1) := by
      rw [Nat.div_lt_iff_lt_mul (by positivity), ← pow_add]
      have hle := hs.fw_le
      have hpos := hs.fw_pos
      rwa [show f.fw - 1 + (23 - f.fw) = 22 by omega]
    have hword : signBit f neg + (2 ^ f.ew - 1) * 2 ^ f.fw + 2 ^ (f.fw - 1) + p / 2 ^ (23 - f.fw) =
        f.word neg (2 ^ f.ew - 1) (2 ^ (f.fw - 1) + p / 2 ^ (23 - f.fw)) := by unfold Fmt.word; ring
    have hbit : (2 ^ (f.fw - 1) + p / 2 ^ (23 - f.fw)) / 2 ^ (f.fw - 1) = 1 := by
      rw [Nat.add_div_left _ (by positivity), Nat.div_eq_of_lt hpay]
    rw [if_neg hsat, hword, decodeF_word_nan htop (by omega) ⟨rfl, fun h => absurd h hsat⟩ (by positivity), if_neg hsat, hbit,
      Nat.add_mod_left, Nat.mod_eq_of_lt hpay, if_neg (mt hs.sat_iff.2 hsat)]
    rfl

theorem roundF_inf_eq {f : Fmt} (hs : f.Sound) (rm : BitVec 3) (v : Nat) (neg : Bool) : roundF f rm v (.inf neg) =
    (signBit f neg + if f = e4m3 then 0x7F else (2 ^ f.ew - 1) * 2 ^ f.fw, if f = e4m3 then fNV else 0) := by
  by_cases hsat : f.sat = true
  · simp [roundF, hs.sat_iff.1 hsat, show e4m3.sat = true from rfl]
  · simp [roundF, hsat, mt hs.sat_iff.2 hsat, infBits]

/-! ### Rounding to an integer -/

/-- The integer that the model makes of a finite value before it saturates. -/
def roundInt (rm : BitVec 3) (v : Nat) (neg : Bool) (m : Nat) (e : Int) : Int :=
  if neg then -(roundMag rm v neg 0 m e : Int) else roundMag rm v neg 0 m e

theorem toInt_num (rm : BitVec 3) (v : Nat) (lo hi : Int) (neg : Bool) (m : Nat) (e : Int) : toInt rm v lo hi (.num neg m e) =
    if roundInt rm v neg m e < lo then (lo, fNV) else if hi < roundInt rm v neg m e then (hi, fNV)
    else (roundInt rm v neg m e, if cutRem 0 m e = 0 then 0 else fNX) := by
  unfold toInt roundInt roundMag cutInt cutRem
  simp only [sub_zero, zero_sub, beq_iff_eq]

theorem roundInt_eq_ratOf (rm : BitVec 3) (v : Nat) (neg : Bool) (m : Nat) (e : Int) :
    (roundInt rm v neg m e : ℚ) = ratOf neg (roundMag rm v neg 0 m e) 0 := by
  cases neg <;> simp [roundInt, ratOf]

theorem roundInt_eq_value_iff (rm : BitVec 3) (v : Nat) (neg : Bool) (m : Nat) (e : Int) :
    (roundInt rm v neg m e : ℚ) = ratOf neg m e ↔ cutRem 0 m e = 0 := by
  rw [roundInt_eq_ratOf, ratOf_roundMag_eq_iff]

theorem cutRem_eq_zero_of_int {neg : Bool} {m : Nat} {e n : Int} (h : (n : ℚ) = ratOf neg m e) : cutRem 0 m e = 0 := by
  by_contra hrem
  obtain ⟨hpos, hone⟩ := floorFrac_mem neg hrem
  rw [ratOf_eq_floor neg 0, zpow_zero, mul_one] at h
  have hlow : (floorUnits neg (cutInt 0 m e) : ℚ) < n := by linarith
  have hhigh : (n : ℚ) < floorUnits neg (cutInt 0 m e) + 1 := by linarith
  norm_cast at hlow hhigh
  omega

/-- The integers about a value that is not one are its neighbours in units of 1. -/
theorem floor_eq_floorUnits {neg : Bool} {m : Nat} {e n : Int} (hlow : (n : ℚ) < ratOf neg m e) (hhigh : ratOf neg m e < n + 1) :
    cutRem 0 m e ≠ 0 ∧ n = floorUnits neg (cutInt 0 m e) := by
  have hrem : cutRem 0 m e ≠ 0 := fun h => by
    rw [← (roundInt_eq_value_iff 0 0 neg m e).2 h] at hlow hhigh
    norm_cast at hlow hhigh
    omega
  obtain ⟨hpos, hone⟩ := floorFrac_mem neg hrem
  rw [ratOf_eq_floor neg 0, zpow_zero, mul_one] at hlow hhigh
  have hleft : (n : ℚ) < floorUnits neg (cutInt 0 m e) + 1 := by linarith
  have hright : (floorUnits neg (cutInt 0 m e) : ℚ) < n + 1 := by linarith
  norm_cast at hleft hright
  exact ⟨hrem, by omega⟩

/-- The model's rounding to an integer is what the rule makes of the two integers about the value (R73). -/
theorem roundInt_eq {rm : BitVec 3} (hrm : rm.toNat ≤ 5) {v : Nat} {neg : Bool} {m : Nat} {e i n : Int}
    (h : (n : ℚ) = ratOf neg m e ∧ i = n ∨ (n : ℚ) < ratOf neg m e ∧ ratOf neg m e < n + 1 ∧ Chosen rm v (ratOf neg m e) n (n + 1) i) :
    i = roundInt rm v neg m e := by
  have hcast : (i : ℚ) = roundInt rm v neg m e := by
    rw [roundInt_eq_ratOf]
    rcases h with ⟨hexact, rfl⟩ | ⟨hlow, hhigh, hchosen⟩
    · exact hexact.trans ((ratOf_roundMag_eq_iff ..).2 (cutRem_eq_zero_of_int hexact)).symm
    · obtain ⟨hrem, rfl⟩ := floor_eq_floorUnits hlow hhigh
      exact chosen_eq_ratOf_roundMag hrm hrem (by simpa using hchosen)
  exact_mod_cast hcast

end Sys2Proof.Machine

namespace Sys2Proof.Laws

open Sys2Proof.Machine Sys2Proof.Safety

/-- What each encoding of a format stands for (R70). -/
theorem decodeF_encoding (f : Fmt) {b : Nat} (hb : b < 2 * 2 ^ (f.ew + f.fw)) :
    let neg := decide (2 ^ (f.ew + f.fw) ≤ b)
    let E := b / 2 ^ f.fw % 2 ^ f.ew
    let F := b % 2 ^ f.fw
    (f.Special E F → F ≠ 0 → ∃ s p, decodeF f b = .nan neg s p) ∧ (f.Special E F → F = 0 → decodeF f b = .inf neg) ∧
      (¬ f.Special E F → ∃ m e, decodeF f b = .num neg m e ∧ (m : ℚ) * 2 ^ e =
        if E = 0 then (F : ℚ) * 2 ^ f.ulpMin else ((2 ^ f.fw + F : Nat) : ℚ) * 2 ^ ((E : Int) - f.bias - f.fw)) := by
  intro neg E F
  have hE : E < 2 ^ f.ew := Nat.mod_lt _ (by positivity)
  have hF : F < 2 ^ f.fw := Nat.mod_lt _ (by positivity)
  have hword : f.word neg E F = b := word_fields hb
  clear_value E F
  rw [← hword]
  refine ⟨fun hspecial hpay => ?_, fun hspecial hzero => ?_, fun hnum => ?_⟩
  · rw [decodeF_word_nan hE hF hspecial hpay]
    split_ifs
    · exact ⟨_, _, rfl⟩
    · exact ⟨_, _, rfl⟩
  · subst hzero
    exact decodeF_word_inf hE hspecial
  · rw [decodeF_word_num hE hF hnum]
    split_ifs
    · exact ⟨_, _, rfl, rfl⟩
    · exact ⟨_, _, rfl, by rw [add_comm F]⟩

/-- Settles O1: an encoding by its fields; a rounding by the neighbours in units of the last place, which are those on the grid. -/
theorem roundingRule : Obligations.RoundingRule := by
  refine ⟨fun f hf => ?_, fun rm v lo hi hrm _ => ⟨fun _ _ _ => rfl, fun _ => rfl, ?_⟩⟩
  · have hs := sound_of_mem hf
    refine ⟨fun b hb => ?_, ?_, fun rm v neg => ?_⟩
    · have henc := decodeF_encoding f hb
      unfold Fmt.Special at henc
      rwa [hs.sat_iff] at henc
    · intro rm v neg m e lo hi y hrm _ hm x r most sign hlo hhi hnone h
      have hmost : most = (f.sigMax : ℚ) * 2 ^ f.ulpMax := greatest_eq hs
      rw [hmost, rounded_eq hrm hm hlo hhi hnone h]
      refine ⟨fun hover => ?_, roundF_inRange hs rm v neg hm⟩
      have hr : r = (overflowBits f rm neg, fOF ||| fNX) := roundF_overflow hs rm v neg hm hover
      rw [hr]
      exact ⟨rfl, overflowBits_eq hs hrm neg⟩
    · exact ⟨roundF_inf_eq hs rm v neg, fun _ => rfl, fun _ _ hp => ⟨rfl, decodeF_nanConvert hs neg hp⟩⟩
  · intro neg m e i n x h
    rw [toInt_num, roundInt_eq hrm h]
    simp only [x, roundInt_eq_value_iff]

end Sys2Proof.Laws

namespace Sys2Proof.Machine

open Sys2Proof.Safety

/-! ## NaN, order and sums of lists of values (R76, R77, R86) -/

theorem isNan_iff {x : FV} : isNan x = true ↔ ∃ n q y, x = .nan n q y := by
  cases x <;> simp [isNan]

section NoNan
variable {xs : List FV}

theorem firstNan_eq_none (h : ∀ x ∈ xs, isNan x = false) : firstNan xs = none := by
  rw [firstNan, List.find?_eq_none]
  intro x hx
  have hx := h x hx
  cases x <;> simp_all [isNan]

theorem anySnan_eq_false (h : ∀ x ∈ xs, isNan x = false) : anySnan xs = false := by
  rw [anySnan, List.any_eq_false]
  intro x hx
  have hx := h x hx
  cases x <;> simp_all [isNan]

end NoNan

theorem hasInf_iff {xs : List FV} {neg : Bool} : hasInf xs neg = true ↔ .inf neg ∈ xs := by
  rw [hasInf, List.any_eq_true]
  constructor
  · rintro ⟨x, hx, hinf⟩
    cases x <;> simp at hinf
    subst hinf
    exact hx
  · exact fun h => ⟨_, h, by simp⟩

theorem minmaxF_max {a b : FV} (ha : isNan a = false) (hb : isNan b = false) : minmaxF true a b = (if ltV true a b then b else a, 0) := by
  have h : ∀ x ∈ [a, b], isNan x = false := by simp [ha, hb]
  simp [minmaxF, firstNan_eq_none h, anySnan_eq_false h]

/-! ### The order of values, -0 below +0 (R77) -/

/-- A significand aligned to a lower exponent is the value in units of that exponent. -/
theorem alignTo_mul {q e : Int} (h : q ≤ e) (neg : Bool) (m : Nat) : (alignTo q neg m e : ℚ) * 2 ^ q = ratOf neg m e := by
  have hpow : (2 : ℚ) ^ (e - q).toNat * 2 ^ q = 2 ^ e := by
    rw [zpow_toNat (by omega), ← zpow_add₀ two_ne_zero, sub_add_cancel]
  cases neg
  · simp [alignTo, ratOf_false, mul_assoc, hpow]
  · simp [alignTo, ratOf_true, mul_assoc, hpow]

/-- Where a value stands in the order: by its infinity, then its number, then its sign. A NaN has no place of its own. -/
def rank (x : FV) : ℤ ×ₗ ℚ ×ₗ ℤ :=
  match x with
  | .nan .. => toLex (0, toLex (0, 0))
  | .inf n => toLex (if n then -1 else 1, toLex (0, 0))
  | .num n m e => toLex (0, toLex (ratOf n m e, if n then 0 else 1))

theorem ratOf_sign {a b : Bool} {m n : Nat} {e g : Int} (h : ratOf a m e = ratOf b n g) (ha : a = true) (hb : b = false) :
    ratOf a m e = 0 := by
  subst ha hb
  have hneg : ratOf true m e ≤ 0 := by rw [ratOf_true]; exact neg_nonpos.2 (by positivity)
  have hpos : 0 ≤ ratOf false n g := by rw [ratOf_false]; positivity
  linarith

theorem ltV_num (a b : Bool) (m n : Nat) (e g : Int) : ltV true (.num a m e) (.num b n g) = true ↔
    ratOf a m e < ratOf b n g ∨ ratOf a m e = ratOf b n g ∧ a = true ∧ b = false := by
  have hunit : (0 : ℚ) < 2 ^ min e g := by positivity
  have hi := alignTo_mul (min_le_left e g) a m
  have hj := alignTo_mul (min_le_right e g) b n
  have hlt : alignTo (min e g) a m e < alignTo (min e g) b n g ↔ ratOf a m e < ratOf b n g := by
    rw [← hi, ← hj, mul_lt_mul_iff_left₀ hunit, Int.cast_lt]
  have hizero : alignTo (min e g) a m e = 0 ↔ ratOf a m e = 0 := by simp [← hi, hunit.ne']
  have hjzero : alignTo (min e g) b n g = 0 ↔ ratOf b n g = 0 := by simp [← hj, hunit.ne']
  simp only [ltV, Bool.or_eq_true, decide_eq_true_eq, Bool.and_eq_true, beq_iff_eq, Bool.true_and, Bool.not_eq_true', hlt, hizero, hjzero]
  refine or_congr_right ⟨?_, ?_⟩
  · rintro ⟨⟨⟨hizero, hjzero⟩, ha⟩, hb⟩
    exact ⟨hizero.trans hjzero.symm, ha, hb⟩
  · rintro ⟨heq, ha, hb⟩
    have hzero := ratOf_sign heq ha hb
    exact ⟨⟨⟨hzero, heq ▸ hzero⟩, ha⟩, hb⟩

/-- One value is less than another just when it stands before it. -/
theorem ltV_iff_rank {x y : FV} (hx : isNan x = false) (hy : isNan y = false) : ltV true x y = true ↔ rank x < rank y := by
  match x, y with
  | .inf a, .inf b => cases a <;> cases b <;> decide
  | .inf a, .num b n g => cases a <;> simp [ltV, rank, Prod.Lex.lt_iff]
  | .num a m e, .inf b => cases b <;> simp [ltV, rank, Prod.Lex.lt_iff]
  | .num a m e, .num b n g => rw [ltV_num]; cases a <;> cases b <;> simp [rank, Prod.Lex.lt_iff]

/-- The greatest of a value and those of a list, as the switch finds it. -/
def greatestOf (x : FV) (l : List FV) : FV := l.foldl (fun m y => (minmaxF true m y).1) x

/-- The greatest is one of the values, and none stands after it. -/
theorem greatestOf_spec {x : FV} {l : List FV} (h : ∀ y ∈ x :: l, isNan y = false) :
    greatestOf x l ∈ x :: l ∧ ∀ y ∈ x :: l, rank y ≤ rank (greatestOf x l) := by
  induction l generalizing x with
  | nil => simp [greatestOf]
  | cons z l ih =>
    obtain ⟨hx, hz, hl⟩ : isNan x = false ∧ isNan z = false ∧ ∀ y ∈ l, isNan y = false := by simpa using h
    have hstep : greatestOf x (z :: l) = greatestOf (if ltV true x z then z else x) l := by
      simp [greatestOf, minmaxF_max hx hz]
    rw [hstep]
    by_cases hlt : ltV true x z = true
    · rw [if_pos hlt]
      obtain ⟨hmem, hmax⟩ := ih (x := z) (by simpa [hz] using hl)
      have hle := (ltV_iff_rank hx hz).1 hlt
      refine ⟨List.mem_cons_of_mem _ hmem, List.forall_mem_cons.2 ⟨hle.le.trans (hmax z List.mem_cons_self), hmax⟩⟩
    · rw [if_neg hlt]
      obtain ⟨hmem, hmax⟩ := ih (x := x) (by simpa [hx] using hl)
      obtain ⟨hself, hrest⟩ := List.forall_mem_cons.1 hmax
      have hle := not_lt.1 (mt (ltV_iff_rank hx hz).2 hlt)
      refine ⟨?_, List.forall_mem_cons.2 ⟨hself, List.forall_mem_cons.2 ⟨hle.trans hself, hrest⟩⟩⟩
      rcases List.mem_cons.1 hmem with hmem | hmem
      · rw [hmem]; exact List.mem_cons_self
      · exact List.mem_cons_of_mem _ (List.mem_cons_of_mem _ hmem)

/-! ### Exact sums -/

/-- The number that a finite value stands for; 0 of any other. -/
def valueOf (x : FV) : ℚ :=
  match x with
  | .num n m e => ratOf n m e
  | _ => 0

/-- One step of `lowExp`. -/
def lowStep (q : Int) (x : FV) : Int :=
  match x with
  | .num _ m e => if m == 0 then q else min q e
  | _ => q

/-- One step of `sumFin`. -/
def addStep (q : Int) (a : Int) (x : FV) : Int :=
  match x with
  | .num n m e => if m == 0 then a else a + alignTo q n m e
  | _ => a

theorem lowExp_eq (xs : List FV) : lowExp xs = xs.foldl lowStep 1000 := rfl

theorem sumFin_eq (xs : List FV) : sumFin xs = xs.foldl (addStep (lowExp xs)) 0 := rfl

theorem lowStep_le (q : Int) (x : FV) : lowStep q x ≤ q := by
  cases x with
  | num n m e => by_cases hm : m = 0 <;> simp [lowStep, hm]
  | _ => exact le_rfl

theorem foldl_lowStep_le (xs : List FV) (q : Int) : xs.foldl lowStep q ≤ q := by
  induction xs generalizing q with
  | nil => exact le_rfl
  | cons x xs ih => exact (ih _).trans (lowStep_le q x)

theorem foldl_lowStep_le_exp {xs : List FV} {q : Int} {n : Bool} {m : Nat} {e : Int} (h : .num n m e ∈ xs) (hm : m ≠ 0) :
    xs.foldl lowStep q ≤ e := by
  induction xs generalizing q with
  | nil => simp at h
  | cons x xs ih =>
    rcases List.mem_cons.1 h with rfl | h
    · refine (foldl_lowStep_le xs _).trans ?_
      simp [lowStep, hm]
    · exact ih h

theorem addStep_mul {q : Int} {x : FV} (h : ∀ n m e, x = .num n m e → m ≠ 0 → q ≤ e) (a : Int) :
    (addStep q a x : ℚ) * 2 ^ q = a * 2 ^ q + valueOf x := by
  cases x with
  | num n m e =>
    rcases eq_or_ne m 0 with rfl | hm
    · simp [addStep, valueOf]
    · simp [addStep, valueOf, hm, add_mul, alignTo_mul (h n m e rfl hm)]
  | _ => simp [addStep, valueOf]

theorem foldl_addStep_mul {q : Int} {xs : List FV} (h : ∀ n m e, .num n m e ∈ xs → m ≠ 0 → q ≤ e) (a : Int) :
    ((xs.foldl (addStep q) a : Int) : ℚ) * 2 ^ q = a * 2 ^ q + (xs.map valueOf).sum := by
  induction xs generalizing a with
  | nil => simp
  | cons x xs ih =>
    have hhead := addStep_mul (q := q) (x := x) (fun n m e hx => h n m e (hx ▸ List.mem_cons_self)) a
    rw [List.foldl_cons, ih (fun n m e hx => h n m e (List.mem_cons_of_mem _ hx)), hhead, List.map_cons, List.sum_cons, add_assoc]

/-- The model's sum of the finite values of a list is exact. -/
theorem sumFin_mul (xs : List FV) : (sumFin xs : ℚ) * 2 ^ lowExp xs = (xs.map valueOf).sum := by
  have h := foldl_addStep_mul (q := lowExp xs) (xs := xs) (fun n m e hx hm => foldl_lowStep_le_exp hx hm) 0
  rw [sumFin_eq, h]
  simp

theorem sumFin_eq_zero_iff (xs : List FV) : sumFin xs = 0 ↔ (xs.map valueOf).sum = 0 := by
  have hunit : (2 : ℚ) ^ lowExp xs ≠ 0 := by positivity
  rw [← sumFin_mul, mul_eq_zero_iff_right hunit, Int.cast_eq_zero]

theorem ratOf_natAbs (i q : Int) : ratOf (decide (i < 0)) i.natAbs q = i * 2 ^ q := by
  by_cases h : i < 0
  · simp [h, ratOf_true, Nat.cast_natAbs, abs_of_neg (show i < 0 from h)]
  · simp [h, ratOf_false, Nat.cast_natAbs, abs_of_nonneg (not_lt.1 h)]

section ExactSum
variable {xs : List FV} (hnan : ∀ x ∈ xs, isNan x = false)
include hnan

theorem exactSum_opposite (hplus : .inf false ∈ xs) (hminus : .inf true ∈ xs) (rd : Bool) : exactSum rd xs = none := by
  simp [exactSum, firstNan_eq_none hnan, hasInf_iff.2 hplus, hasInf_iff.2 hminus]

theorem exactSum_inf {neg : Bool} (hinf : .inf neg ∈ xs) (hother : .inf (!neg) ∉ xs) (rd : Bool) : exactSum rd xs = some (.inf neg) := by
  have hinf := hasInf_iff.2 hinf
  have hother : hasInf xs (!neg) = false := Bool.eq_false_iff.2 (mt hasInf_iff.1 hother)
  cases neg <;> simp_all [exactSum, firstNan_eq_none hnan]

section Finite
variable (hplus : .inf false ∉ xs) (hminus : .inf true ∉ xs)
include hplus hminus

theorem exactSum_zero (hsum : (xs.map valueOf).sum = 0) :
    exactSum false xs = some (.num (!xs.isEmpty && xs.all (isZero true)) 0 0) := by
  have hplus : hasInf xs false = false := Bool.eq_false_iff.2 (mt hasInf_iff.1 hplus)
  have hminus : hasInf xs true = false := Bool.eq_false_iff.2 (mt hasInf_iff.1 hminus)
  simp only [exactSum, firstNan_eq_none hnan, hplus, hminus, (sumFin_eq_zero_iff xs).2 hsum]
  cases hempty : xs.isEmpty <;> cases hneg : xs.all (isZero true) <;> simp

theorem exactSum_nonzero (hsum : (xs.map valueOf).sum ≠ 0) (rd : Bool) :
    exactSum rd xs = some (.num (sumFin xs < 0) (sumFin xs).natAbs (lowExp xs)) := by
  have hplus : hasInf xs false = false := Bool.eq_false_iff.2 (mt hasInf_iff.1 hplus)
  have hminus : hasInf xs true = false := Bool.eq_false_iff.2 (mt hasInf_iff.1 hminus)
  simp [exactSum, firstNan_eq_none hnan, hplus, hminus, mt (sumFin_eq_zero_iff xs).1 hsum]

end Finite

/-- Without a NaN, a sum is rounded once and raises what its rounding raises. -/
theorem roundSum_of_exactSum {x : FV} (hsum : exactSum false xs = some x) (f : Fmt) (v : Nat) : roundSum f 0 v xs = roundF f 0 v x := by
  simp [roundSum, hsum, anySnan_eq_false hnan]

end ExactSum

/-! ### Values that FP32 holds -/

section Canonical
variable {f : Fmt} {m : Nat} {e : Int}

/-- A significand at the exponent that a format gives it. -/
theorem cutExp_of_canonical (hm : m < 2 ^ (f.fw + 1)) (he : f.ulpMin ≤ e) (hnormal : e = f.ulpMin ∨ 2 ^ f.fw ≤ m) : cutExp f m e = e := by
  have hle : m.log2 ≤ f.fw := by
    rcases eq_or_ne m 0 with rfl | hpos
    · simp
    · exact Nat.lt_succ_iff.1 ((Nat.log2_lt hpos).2 hm)
  unfold cutExp
  rcases hnormal with rfl | hnormal
  · exact max_eq_right (by omega)
  · have hpos : m ≠ 0 := fun h => by rw [h] at hnormal; exact absurd hnormal (not_le.2 (by positivity))
    have hge : f.fw ≤ m.log2 := (Nat.le_log2 hpos).2 hnormal
    exact (max_eq_left (by omega)).trans (by omega)

/-- A value of a format rounds to its own encoding, with no flags. -/
theorem roundF_of_canonical (hm : m < 2 ^ (f.fw + 1)) (hpos : m ≠ 0) (he : f.ulpMin ≤ e) (hnormal : e = f.ulpMin ∨ 2 ^ f.fw ≤ m)
    (hrange : ¬ (f.ulpMax < e ∨ e = f.ulpMax ∧ f.sigMax < m)) (rm : BitVec 3) (v : Nat) (neg : Bool) :
    roundF f rm v (.num neg m e) = (signBit f neg + ((e - f.ulpMin).toNat * 2 ^ f.fw + m), 0) := by
  have hrem : cutRem e m e = 0 := if_pos le_rfl
  have hmag : roundMag rm v neg e m e = m := by
    rw [roundMag_exact hrem, cutInt, if_pos le_rfl, sub_self, Int.toNat_zero, pow_zero, mul_one]
  rw [roundF_num f rm v neg hpos, roundFin_eq, cutExp_of_canonical hm he hnormal, hmag, if_neg hrange]
  simp [hrem]

end Canonical

/-- The fields of an FP32 word that is not a NaN come back from its value. -/
theorem bits32_word {neg : Bool} {E F : Nat} (hE : E < 2 ^ fp32.ew) (hF : F < 2 ^ fp32.fw)
    (hnan : isNan (decodeF fp32 (fp32.word neg E F)) = false) : bits32 (decodeF fp32 (fp32.word neg E F)) = fp32.word neg E F := by
  have hE' : E < 256 := hE
  have hF' : F < 8388608 := hF
  by_cases hspecial : fp32.Special E F
  · obtain rfl : F = 0 := by
      by_contra hpay
      rw [decodeF_word_nan hE hF hspecial hpay] at hnan
      simp [fp32, isNan] at hnan
    rw [decodeF_word_inf hE hspecial, hspecial.1]
    rfl
  · have hlast : E ≠ 255 := fun h => hspecial ⟨h, fun hsat => absurd hsat (by decide)⟩
    have hmin : fp32.ulpMin = -149 := rfl
    have hmax : fp32.ulpMax = 104 := by norm_num [Fmt.ulpMax, fp32]
    have hsig : fp32.sigMax = 16777215 := rfl
    have hfw : 2 ^ fp32.fw = 8388608 := rfl
    rw [decodeF_word_num hE hF hspecial, bits32]
    rcases Nat.eq_zero_or_pos E with rfl | hpos
    · rw [if_pos rfl]
      rcases eq_or_ne F 0 with rfl | hpay
      · rfl
      · rw [roundF_of_canonical (f := fp32) (by rw [pow_succ, hfw]; omega) hpay le_rfl (.inl rfl) (by omega)]
        simp [Fmt.word]
    · have hexp : (E : Int) - fp32.bias - fp32.fw = E - 150 := by show (E : Int) - 127 - 23 = E - 150; ring
      have hfield : ((E : Int) - 150 - -149).toNat = E - 1 := by omega
      rw [if_neg hpos.ne', hexp, roundF_of_canonical (by rw [pow_succ, hfw]; omega) (by omega) (by omega) (.inr (by omega)) (by omega),
        hmin, hfield, Fmt.word, hfw]
      omega

theorem ofNat_bits32_decodeF {w : Word} (h : isNan (decodeF fp32 w.toNat) = false) : BitVec.ofNat 32 (bits32 (decodeF fp32 w.toNat)) = w := by
  have hword := word_fields (f := fp32) (b := w.toNat) w.isLt
  rw [← hword] at h
  have hbits := bits32_word (Nat.mod_lt _ (by decide)) (Nat.mod_lt _ (by decide)) h
  rw [hword] at hbits
  rw [hbits, BitVec.ofNat_toNat, BitVec.setWidth_eq]

/-- Only one word is the zero of negative sign. -/
theorem isZero_true_iff (w : Word) : isZero true (decodeF fp32 w.toNat) = true ↔ w = 0x80000000 := by
  constructor
  · intro h
    have hnan : isNan (decodeF fp32 w.toNat) = false := by
      cases hdec : decodeF fp32 w.toNat <;> simp_all [isZero, isNan]
    have hbits := ofNat_bits32_decodeF hnan
    match hdec : decodeF fp32 w.toNat, h, hbits with
    | .num neg m e, h, hbits =>
      obtain ⟨rfl, rfl⟩ : neg = true ∧ m = 0 := by simpa [isZero] using h
      exact hbits.symm
  · rintro rfl
    rfl

/-! ### The switch's combinations (R348) -/

/-- The values of FP32 words. -/
def values (ws : List Word) : List FV := ws.map fun w => decodeF fp32 w.toNat

/-- The word of the greatest of a list of values; of none, the canonical NaN. -/
def topWord (l : List FV) : Word :=
  match l with
  | [] => qnan
  | x :: t => BitVec.ofNat 32 (bits32 (greatestOf x t))

/-- The flags of a list of values: NV where one of them is a signalling NaN. -/
def nanFlags (xs : List FV) : Flags := if anySnan xs then fNV else 0

/-- The values of a list that are numbers. -/
def numbers (xs : List FV) : List FV := xs.filter fun x => match x with | .nan .. => false | _ => true

theorem numbers_eq (xs : List FV) : numbers xs = xs.filter fun x => !isNan x := by
  refine List.filter_congr fun x _ => ?_
  cases x <;> rfl

theorem numbers_shorter_iff (xs : List FV) : (numbers xs).length < xs.length ↔ ∃ x ∈ xs, isNan x = true := by
  rw [numbers_eq, List.length_filter_lt_length_iff_exists]
  simp

theorem combine_maxp (ws : List Word) : combine 0 ws =
    (if (numbers (values ws)).length < (values ws).length then qnan else topWord (values ws), nanFlags (values ws)) := rfl

theorem combine_maxn (ws : List Word) : combine 1 ws = (topWord (numbers (values ws)), nanFlags (values ws)) := rfl

theorem combine_sum (ws : List Word) : combine 2 ws =
    if (numbers (values ws)).length < (values ws).length then (qnan, nanFlags (values ws))
    else (BitVec.ofNat 32 (roundSum fp32 0 0 (values ws)).1, (roundSum fp32 0 0 (values ws)).2) := rfl

/-- MAXP and SUM of a NaN are the canonical NaN. -/
theorem combine_of_nan {ws : List Word} (h : ∃ x ∈ values ws, isNan x = true) : (combine 0 ws).1 = qnan ∧ (combine 2 ws).1 = qnan := by
  rw [combine_maxp, combine_sum, if_pos ((numbers_shorter_iff _).2 h), if_pos ((numbers_shorter_iff _).2 h)]
  exact ⟨rfl, rfl⟩

section Numbers
variable {ws : List Word} (h : ∀ x ∈ values ws, isNan x = false)
include h

theorem numbers_eq_self : numbers (values ws) = values ws := by
  rw [numbers_eq, List.filter_eq_self]
  simpa using h

theorem combine_maxp_numbers : combine 0 ws = (topWord (values ws), 0) := by
  rw [combine_maxp, numbers_eq_self h, if_neg (lt_irrefl _), nanFlags, anySnan_eq_false h]
  rfl

theorem combine_maxn_numbers : combine 1 ws = combine 0 ws := by
  rw [combine_maxp_numbers h, combine_maxn, numbers_eq_self h, nanFlags, anySnan_eq_false h]
  rfl

theorem combine_sum_numbers :
    combine 2 ws = (BitVec.ofNat 32 (roundSum fp32 0 0 (values ws)).1, (roundSum fp32 0 0 (values ws)).2) := by
  rw [combine_sum, numbers_eq_self h, if_neg (lt_irrefl _)]

/-- The sum of contributions without a NaN is their exact sum rounded once. -/
theorem combine_sum_of_exactSum {x : FV} (hsum : exactSum false (values ws) = some x) :
    combine 2 ws = (BitVec.ofNat 32 (roundF fp32 0 0 x).1, (roundF fp32 0 0 x).2) := by
  rw [combine_sum_numbers h, roundSum_of_exactSum h hsum]

/-- The greatest of contributions without a NaN is one of them. -/
theorem topWord_mem (hne : ws ≠ []) :
    ∃ w ∈ ws, topWord (values ws) = w ∧ ∀ y ∈ ws, ltV true (decodeF fp32 w.toNat) (decodeF fp32 y.toNat) = false := by
  obtain ⟨x, l, hvalues⟩ : ∃ x l, values ws = x :: l := List.exists_cons_of_ne_nil (by simpa [values] using hne)
  have hmem : ∀ y ∈ ws, decodeF fp32 y.toNat ∈ values ws := fun y hy => List.mem_map_of_mem hy
  obtain ⟨htop, hmax⟩ := greatestOf_spec (hvalues ▸ h)
  rw [← hvalues] at htop hmax
  obtain ⟨w, hw, hdec⟩ := List.mem_map.1 htop
  refine ⟨w, hw, ?_, fun y hy => ?_⟩
  · rw [hvalues]
    show BitVec.ofNat 32 (bits32 (greatestOf x l)) = w
    rw [← hdec]
    exact ofNat_bits32_decodeF (h _ (hmem w hw))
  · rw [← Bool.not_eq_true, ltV_iff_rank (h _ (hmem w hw)) (h _ (hmem y hy)), hdec]
    exact not_lt.2 (hmax _ (hmem y hy))

end Numbers

end Sys2Proof.Machine

namespace Sys2Proof.Laws

open Sys2Proof.Machine Sys2Proof.Safety

/-- Whether a value is a signalling NaN. -/
def signals (x : FV) : Bool :=
  match x with
  | .nan _ sn _ => sn
  | _ => false

theorem minmaxF_flags (mx : Bool) (a b : FV) :
    (minmaxF mx a b).2 = if signals a = true ∨ signals b = true then fNV else 0 := by
  have hflags : (minmaxF mx a b).2 = if anySnan [a, b] then fNV else 0 := by
    unfold minmaxF
    generalize (if anySnan [a, b] then fNV else 0) = nv
    dsimp only
    split <;> rfl
  have hany : anySnan [a, b] = (signals a || signals b) := by
    rw [← Bool.or_false (signals b)]
    rfl
  rw [hflags, hany]
  simp only [Bool.or_eq_true]

/-- MAX and MIN of integers compare signed words (R339). -/
theorem arrive_signed (old x : Word) : arrive 3 5 old x = (if old.toInt < x.toInt then x else old, 0) ∧
    arrive 4 5 old x = (if x.toInt < old.toInt then x else old, 0) := by
  simp [arrive, BitVec.slt_eq_decide]

theorem mem_values {ws : List Word} {x : FV} : x ∈ values ws ↔ ∃ w ∈ ws, decodeF fp32 w.toNat = x := List.mem_map

/-- Two contributions by whether each is a NaN. -/
theorem combine_pair (a b : Word) (va vb : FV) (hva : decodeF fp32 a.toNat = va) (hvb : decodeF fp32 b.toNat = vb) :
    (isNan va = true ∨ isNan vb = true → (combine 0 [a, b]).1 = qnan ∧ (combine 2 [a, b]).1 = qnan) ∧
    (isNan va = true → isNan vb = true → (combine 1 [a, b]).1 = qnan) ∧
    (isNan va = true → ¬ isNan vb = true → (combine 1 [a, b]).1 = BitVec.ofNat 32 (bits32 vb)) ∧
    (¬ isNan va = true → isNan vb = true → (combine 1 [a, b]).1 = BitVec.ofNat 32 (bits32 va)) ∧
    (¬ isNan va = true → ¬ isNan vb = true → combine 0 [a, b] = (BitVec.ofNat 32 (bits32 (minmaxF true va vb).1), 0) ∧
      combine 1 [a, b] = combine 0 [a, b] ∧ combine 2 [a, b] = (BitVec.ofNat 32 (addF 0 0 va vb).1, (addF 0 0 va vb).2)) := by
  have hvalues : values [a, b] = [va, vb] := by rw [← hva, ← hvb]; rfl
  rw [combine_maxn [a, b], numbers_eq, hvalues]
  refine ⟨fun h => combine_of_nan ?_, fun ha hb => ?_, fun ha hb => ?_, fun ha hb => ?_, fun ha hb => ?_⟩
  · rw [hvalues]
    simpa using h
  · simp [ha, hb, topWord]
  · simp [ha, hb, topWord, greatestOf]
  · simp [ha, hb, topWord, greatestOf]
  · have hnone : ∀ x ∈ values [a, b], isNan x = false := by simp [hvalues, ha, hb]
    refine ⟨?_, ?_, ?_⟩
    · rw [combine_maxp_numbers hnone, hvalues]
      rfl
    · rw [← combine_maxn_numbers hnone, combine_maxn, numbers_eq, hvalues]
    · rw [combine_sum_numbers hnone, hvalues]
      rfl

section Sum
variable {ws : List Word} (hnan : ∀ x ∈ values ws, isNan x = false)
include hnan

theorem combine_sum_opposite (hplus : .inf false ∈ values ws) (hminus : .inf true ∈ values ws) : combine 2 ws = (0x7FC00000, fNV) := by
  have hsum : roundSum fp32 0 0 (values ws) = nanNV fp32 := by
    rw [roundSum, exactSum_opposite hnan hplus hminus]
  rw [combine_sum_numbers hnan, hsum]
  rfl

theorem combine_sum_inf {neg : Bool} (hinf : .inf neg ∈ values ws) (hother : .inf (!neg) ∉ values ws) :
    combine 2 ws = (if neg then 0xFF800000 else 0x7F800000, 0) := by
  rw [combine_sum_of_exactSum hnan (exactSum_inf hnan hinf hother false)]
  cases neg <;> rfl

section Finite
variable (hplus : .inf false ∉ values ws) (hminus : .inf true ∉ values ws)
include hplus hminus

theorem combine_sum_zero (hsum : ((values ws).map valueOf).sum = 0) :
    combine 2 ws = (if ws ≠ [] ∧ ∀ w ∈ ws, w = 0x80000000 then 0x80000000 else 0, 0) := by
  have hsign : (!(values ws).isEmpty && (values ws).all (isZero true)) = true ↔ ws ≠ [] ∧ ∀ w ∈ ws, w = 0x80000000 := by
    simp [values, isZero_true_iff]
  rw [combine_sum_of_exactSum hnan (exactSum_zero hnan hplus hminus hsum)]
  by_cases hneg : ws ≠ [] ∧ ∀ w ∈ ws, w = 0x80000000
  · rw [hsign.2 hneg, if_pos hneg]
    rfl
  · rw [Bool.eq_false_iff.2 (mt hsign.1 hneg), if_neg hneg]
    rfl

theorem combine_sum_nonzero (hsum : ((values ws).map valueOf).sum ≠ 0) : ∃ n m e, ratOf n m e = ((values ws).map valueOf).sum ∧
    combine 2 ws = (BitVec.ofNat 32 (roundF fp32 0 0 (.num n m e)).1, (roundF fp32 0 0 (.num n m e)).2) :=
  ⟨_, _, _, (ratOf_natAbs ..).trans (sumFin_mul (values ws)), combine_sum_of_exactSum hnan (exactSum_nonzero hnan hplus hminus hsum false)⟩

end Finite

end Sum

/-- Settles O42: an arriving word by its operation; the switch's contributions by whether one is a NaN, then the greatest by the order of
their ranks, and the sum by its infinities and its exact total. -/
theorem collectiveArithmetic : Obligations.CollectiveArithmetic := by
  refine ⟨fun old x => ⟨rfl, rfl, rfl, rfl, (arrive_signed old x).1, (arrive_signed old x).2, ?_⟩, fun a b => ?_, ?_⟩
  · exact ⟨congrArg (Prod.mk _) (minmaxF_flags true _ _), congrArg (Prod.mk _) (minmaxF_flags false _ _)⟩
  · have hpair := combine_pair a b _ _ rfl rfl
    simp only [isNan_iff] at hpair
    exact hpair
  · intro ws dec nan val total plus minus
    have hnanIff : (∃ x ∈ values ws, isNan x = true) ↔ ∃ w ∈ ws, nan w := by
      simp [values, isNan_iff, nan, dec]
    have hnone : (∀ w ∈ ws, ¬ nan w) → ∀ x ∈ values ws, isNan x = false := fun h x hx => by
      by_contra hx'
      obtain ⟨w, hw, hnan⟩ := hnanIff.1 ⟨x, hx, by simpa using hx'⟩
      exact h w hw hnan
    have htotal : ((values ws).map valueOf).sum = total := by
      rw [values, List.map_map]
      rfl
    have hplus : plus ↔ .inf false ∈ values ws := mem_values.symm
    have hminus : minus ↔ .inf true ∈ values ws := mem_values.symm
    rw [← htotal, hplus, hminus]
    refine ⟨fun h => combine_of_nan (hnanIff.2 h), fun hne h => ?_, fun h => ?_⟩
    · obtain ⟨w, hw, htop, hmax⟩ := topWord_mem (hnone h) hne
      have hmaxp : combine 0 ws = (w, 0) := by rw [combine_maxp_numbers (hnone h), htop]
      exact ⟨w, hw, hmaxp, (combine_maxn_numbers (hnone h)).trans hmaxp, hmax⟩
    · have hnan := hnone h
      exact ⟨combine_sum_opposite hnan, fun hp hm => combine_sum_inf hnan hp hm, fun hm hp => combine_sum_inf hnan hm hp,
        combine_sum_zero hnan, combine_sum_nonzero hnan⟩

end Sys2Proof.Laws

namespace Sys2Proof.Machine

open Sys2Proof.Safety

/-! ## Stores of the memory slot (R174, R175) -/

/-- The low bytes of a number are its digits to base 256. -/
theorem leBytes_eq_map_range (n x : Nat) : leBytes n x = (List.range n).map fun k => BitVec.ofNat 8 (x / 256 ^ k) := by
  induction n generalizing x with
  | zero => rfl
  | succ n ih =>
    rw [leBytes, ih, List.range_succ_eq_map, List.map_cons, List.map_map, Nat.pow_zero, Nat.div_one]
    refine congrArg _ (List.map_congr_left fun k _ => ?_)
    rw [Function.comp_apply, Nat.div_div_eq_div_mul, Nat.pow_succ']

/-- The low bytes of a word are its bit fields of eight, from bit 0 on (R2). -/
theorem leBytes_toNat {w : Nat} (n : Nat) (x : BitVec w) :
    leBytes n x.toNat = (List.range n).map fun k => x.extractLsb' (8 * k) 8 := by
  rw [leBytes_eq_map_range]
  refine List.map_congr_left fun k _ => ?_
  rw [BitVec.extractLsb', Nat.shiftRight_eq_div_pow, Nat.pow_mul]

/-- One more flight of the issuing operation. -/
theorem sent_fly (s : State) (ds : Tab Die) (fs : List Flight) (f : Flight) : (sent s ds fs).fly f = sent s ds (fs ++ [f]) := by
  simp [sent, State.fly, List.append_assoc, Nat.add_assoc]

/-- What a store of the memory slot can do, where it sends the flights `more` after its own. -/
theorem storeOut_of (s : State) (i : Instr) (size : Nat) (rs : List (BitVec 64 × Nat)) (entries : Nat) (bytes : List Byte)
    {after : State → Nat → State} {more : Nat → List Flight}
    (hafter : ∀ ds fs occ, after (sent s ds fs) occ = sent s ds (fs ++ (more occ).map fun g => { g with id := s.ids + fs.length }))
    (h : exec i s = .next (s.storeTo i size rs entries bytes after)) : StoreOut i s size rs entries bytes more := by
  unfold StoreOut
  unfold State.storeTo at h
  cases haccess : s.access pSL .wr false size rs with
  | error f =>
    rw [haccess] at h
    exact ⟨_, h, s.raise_raises f⟩
  | ok r =>
    rw [haccess] at h
    dsimp only at h
    refine ⟨fun hheld => h.trans (congrArg _ (if_pos hheld)), fun hfree hbudget => ?_⟩
    replace h := h.trans (congrArg _ (if_neg (Bool.eq_false_iff.mp hfree)))
    obtain ⟨ds, hgrant⟩ := s.grant_goes r false _ (fun h => nomatch h) hbudget
    refine ⟨_, h.trans (congrArg _ hgrant), ?_⟩
    have hs : ({ s with dies := ds } : State) = sent s ds [] := by simp [sent]
    by_cases hspans : r.spans = []
    · simp only [hspans, hs, List.isEmpty_nil, if_true, hafter]
      exact sent_issued_held s ds _ i _
    · simp only [hs, List.isEmpty_eq_false_iff.mpr hspans, Bool.false_eq_true, if_false, hspans, sent_fly, hafter]
      exact sent_issued_held s ds _ i _

/-- A scalar store sends its own flight alone. -/
theorem storeOut_of_storeScalar (s : State) (i : Instr) (n : Nat) (d b : BitVec 5) (o : BitVec 15)
    (h : exec i s = .next (s.storeScalar i n d b o)) :
    StoreOut i s n [(s.rs b + o.signExtend 64, n)] 0 ((List.range n).map fun k => (s.rs d).extractLsb' (8 * k) 8) fun _ => [] := by
  rw [← leBytes_toNat]
  exact storeOut_of s i n _ 0 _ (fun ds fs _ => congrArg (sent s ds) (List.append_nil fs).symm) h

end Sys2Proof.Machine

namespace Sys2Proof.Laws

open Sys2Proof.Machine

/-- Settles O18: a load is one checked load, a store one checked store of the source's low bytes. -/
theorem scalarAccesses : Obligations.ScalarAccesses := by
  intro s d b o
  have ld (i : Instr) (n : Nat) (sgn : Bool) (h : exec i s = .next (s.loadScalar n sgn d b o)) := loadOut_of s i _ _ _ _ _ _ h
  have st (i : Instr) (n : Nat) (h : exec i s = .next (s.storeScalar i n d b o)) := storeOut_of_storeScalar s i n d b o h
  exact ⟨ld _ _ _ rfl, ld _ _ _ rfl, ld _ _ _ rfl, ld _ _ _ rfl, ld _ _ _ rfl, ld _ _ _ rfl, ld _ _ _ rfl,
    st _ _ rfl, st _ _ rfl, st _ _ rfl, st _ _ rfl⟩

end Sys2Proof.Laws

/-! ## Fences (R122 to R125) -/

namespace Sys2Proof.Machine

open Sys2Proof.Safety

/-- An operation that waits while `c` holds and otherwise issues alone, where `P` says that nothing is left to wait for. -/
theorem goes_or_waits {i : Instr} {s : State} {c : Bool} {P : Prop}
    (h : exec i s = if c then .next s else .next (s.issued 1)) (hP : c = false ↔ P) :
    (P → Goes (exec i s) (Nothing 1 s)) ∧ (¬ P → Waits i s) := by
  refine ⟨fun hp => ⟨_, h.trans (if_neg (Bool.eq_false_iff.mp (hP.mpr hp))), s.issued_nothing 1⟩, fun hp => h.trans (if_pos ?_)⟩
  exact Bool.eq_true_of_not_eq_false fun hc => hp (hP.mp hc)

/-- No access in flight is one that a fence over a scope waits for (R123). -/
theorem fenced_none_iff (s : State) (u n a : Nat) (ps : List (BitVec 3)) :
    s.flights.any (s.fenced u n a ps) = false ↔ ∀ f ∈ s.flights, s.fenced u n a ps f = false := by
  simp only [List.any_eq_false, Bool.not_eq_true]

/-- No transfer of the issuing unit's task in an earlier bundle has accesses still to perform (R124). -/
theorem ownXfers_none_iff (s : State) (n : Nat) :
    (s.xfers.any fun x => x.unit == s.u && x.task == s.me.task && decide (x.seq < n) && s.xferOpen x) = false ↔
      ∀ x ∈ s.xfers, ¬ (x.unit = s.u ∧ x.task = s.me.task ∧ x.seq < n ∧ s.xferOpen x = true) := by
  simp only [List.any_eq_false, Bool.and_eq_true, beq_iff_eq, decide_eq_true_eq, and_assoc]

/-- Every call of the issuing unit's task in an earlier bundle has made its accesses of its own core (R125). -/
theorem ownCalls_local_iff (s : State) (n : Nat) :
    (s.calls.any fun c => c.unit == s.u && c.task == s.me.task && decide (c.bun < n) && !s.callLocal c) = false ↔
      ∀ c ∈ s.calls, c.unit = s.u → c.task = s.me.task → c.bun < n → s.callLocal c = true := by
  simp only [List.any_eq_false, Bool.and_eq_true, beq_iff_eq, decide_eq_true_eq, Bool.not_eq_true', not_and, and_imp, Bool.not_eq_false]

/-- The matrix engine has read all that a unit's task asked of it in earlier bundles (R125). -/
theorem mxOpen_false_iff (s : State) (u n : Nat) :
    s.mxOpen u n = false ↔
      ∀ r ∈ s.streams, r.mx = true → r.unit = u → r.task = (s.unit u).task → r.seq < n → r.todo = [] := by
  simp only [State.mxOpen, List.any_eq_false, Bool.and_eq_true, beq_iff_eq, decide_eq_true_eq, Bool.not_eq_true', not_and, and_imp,
    Bool.not_eq_false, List.isEmpty_iff]

/-! ### The paths of XFENCE (R125) -/

theorem pathDone_SL_iff (s : State) :
    s.pathDone 0 = true ↔ ∀ f ∈ s.flights, s.fenced s.u s.cur.op.seq 4 [pSL] f = false :=
  (Bool.not_eq_true' _).to_iff.trans (fenced_none_iff ..)

theorem pathDone_MX_iff (s : State) :
    s.pathDone 1 = true ↔
      ∀ r ∈ s.streams, r.mx = true → r.unit = s.u → r.task = s.me.task → r.seq < s.cur.op.seq → r.todo = [] :=
  (Bool.not_eq_true' _).to_iff.trans (mxOpen_false_iff ..)

theorem pathDone_AC_iff (s : State) :
    s.pathDone 2 = true ↔ ∀ f ∈ s.flights, s.fenced s.u s.cur.op.seq 4 [pAC] f = false :=
  (Bool.not_eq_true' _).to_iff.trans (fenced_none_iff ..)

theorem pathDone_TR_iff (s : State) :
    s.pathDone 3 = true ↔
      ∀ x ∈ s.xfers, ¬ (x.unit = s.u ∧ x.task = s.me.task ∧ x.seq < s.cur.op.seq ∧ s.xferOpen x = true) :=
  (Bool.not_eq_true' _).to_iff.trans (ownXfers_none_iff ..)

theorem pathDone_CO_iff (s : State) :
    s.pathDone 4 = true ↔ (∀ f ∈ s.flights, s.fenced s.u s.cur.op.seq 4 [pCO] f = false) ∧
      ∀ c ∈ s.calls, c.unit = s.u → c.task = s.me.task → c.bun < s.cur.op.seq → s.callLocal c = true := by
  refine Iff.trans ?_ (and_congr (fenced_none_iff ..) (ownCalls_local_iff ..))
  simp only [State.pathDone, Bool.and_eq_true, Bool.not_eq_true']

theorem pathDone_AT_iff (s : State) :
    s.pathDone 5 = true ↔ ∀ f ∈ s.flights, s.fenced s.u s.cur.op.seq 4 [pAT] f = false :=
  (Bool.not_eq_true' _).to_iff.trans (fenced_none_iff ..)

/-- A CSWR or GAGREE that has not ended has only its report to make at its own core (R355). -/
theorem callLocal_iff_of_report (s : State) {c : Call} (hkind : c.kind = 5 ∨ c.kind = 8) (hfin : c.fin = false) :
    s.callLocal c = true ↔ s.reportLocal c = false := by
  rcases hkind with hkind | hkind <;> simp only [State.callLocal, hkind, hfin, Bool.false_or, Bool.not_eq_true']

/-! ### The three operations -/

/-- FENCE waits for the SL and AT accesses of its scope (R123). -/
theorem fence_goes_or_waits (s : State) (a : BitVec 3) :
    let fence : Prop := ∀ f ∈ s.flights, s.fenced s.u s.cur.op.seq a.toNat [pSL, pAT] f = false
    (fence → Goes (exec (.fence a) s) (Nothing 1 s)) ∧ (¬ fence → Waits (.fence a) s) :=
  goes_or_waits rfl (fenced_none_iff ..)

/-- DRAIN waits for the SL, AT and AC accesses of its scope and for transfers (R124). -/
theorem drain_goes_or_waits (s : State) (a : BitVec 3) :
    let drain : Prop := (∀ f ∈ s.flights, s.fenced s.u s.cur.op.seq a.toNat [pSL, pAT, pAC] f = false) ∧
      ∀ x ∈ s.xfers, ¬ (x.unit = s.u ∧ x.task = s.me.task ∧ x.seq < s.cur.op.seq ∧ s.xferOpen x = true)
    (drain → Goes (exec (.drain a) s) (Nothing 1 s)) ∧ (¬ drain → Waits (.drain a) s) :=
  goes_or_waits rfl <| (Bool.or_eq_false_iff ..).trans (and_congr (fenced_none_iff ..) (ownXfers_none_iff ..))

/-- XFENCE issues once the accesses of its path a have performed (R125). -/
theorem xfence_goes {s : State} {a : BitVec 3} (b : BitVec 3) (hdone : s.pathDone a.toNat = true) :
    Goes (exec (.xfence a b) s) (Nothing 1 s) :=
  ⟨_, if_pos hdone, s.issued_nothing 1⟩

/-- An XFENCE that holds its slot waits on (R125). -/
theorem xfence_waits {s : State} {a : BitVec 3} (b : BitVec 3) (hopen : s.pathDone a.toNat = false)
    (hheld : (s.me.slot 6).hold ≠ .none) : Waits (.xfence a b) s := by
  refine (show exec (.xfence a b) s = _ from if_neg (Bool.eq_false_iff.mp hopen)).trans ?_
  split
  · next hnone => exact absurd hnone hheld
  · rfl

end Sys2Proof.Machine

namespace Sys2Proof.Laws

open Sys2Proof.Machine Sys2Proof.Safety

/-- Settles O24: FENCE and DRAIN by the accesses and transfers that their tests find, XFENCE by the test of its path. -/
theorem fences : Obligations.Fences := by
  intro s a b
  obtain ⟨hfence, hfenceWaits⟩ := fence_goes_or_waits s a
  obtain ⟨hdrain, hdrainWaits⟩ := drain_goes_or_waits s a
  exact ⟨hfence, hfenceWaits, hdrain, hdrainWaits, xfence_goes b, xfence_waits b, pathDone_MX_iff s, pathDone_SL_iff s,
    pathDone_AC_iff s, pathDone_AT_iff s, pathDone_TR_iff s, pathDone_CO_iff s, fun _ => callLocal_iff_of_report s⟩

end Sys2Proof.Laws

namespace Sys2Proof.Machine

open Sys2Proof.Safety

/-! ## TRAP (R139) -/

section

variable (s : State) (f : Flt)

/-- The record of a fault that the issuing operation raises. -/
def State.pendOf : Pend :=
  ⟨s.cur.op.seq, s.cur.op.addr, s.cur.slot, f.code, f.sub, f.info0, f.info1, f.info2, f.info3, f.xinfo, f.path, f.kind,
    s.timeOf (dieOf s.u), true⟩

/-- Dispatch bookkeeping with that fault noted: of two faults, an older bundle's or a lower slot's stays (R134). -/
def State.noting (d : Disp) : Disp :=
  match d.pend with
  | some o => if o.seq < s.cur.op.seq || (o.seq == s.cur.op.seq && o.slot ≤ s.cur.slot) then d else { d with pend := some (s.pendOf f) }
  | none => { d with pend := some (s.pendOf f) }

theorem State.raise_eq : s.raise f = s.modUnit s.u fun x => x.modDisp (s.noting f) := rfl

/-- A fault is pending then, and where none was before it is this one. -/
theorem State.noting_pend (d : Disp) : ∃ p, (s.noting f d).pend = some p ∧ (d.pend = none → p = s.pendOf f) := by
  unfold State.noting
  split
  · next o ho =>
    split
    · exact ⟨o, ho, fun hnone => nomatch ho.symm.trans hnone⟩
    · exact ⟨_, rfl, fun _ => rfl⟩
  · exact ⟨_, rfl, fun _ => rfl⟩

/-- What a raised fault leaves pending at the issuing unit. -/
theorem State.raise_pend : ∃ p, ((s.raise f).unit s.u).disp.pend = some p ∧ (s.me.disp.pend = none → p = s.pendOf f) := by
  obtain ⟨p, hp, hfirst⟩ := s.noting_pend f s.me.disp
  have hne : s.me.modDisp (s.noting f) ≠ Unit.idle := fun hidle => nomatch hp.symm.trans (congrArg (·.disp.pend) hidle)
  rw [s.raise_eq, s.modUnit_unit_same _ _ hne]
  exact ⟨p, hp, hfirst⟩

end

/-- A control operation of slot 1 that does not run falls through, unless it opens a loop (R42, R149, R160). -/
theorem State.issueNothing_control (s : State) {i : Instr} (hslot : s.cur.slot = 1) (hctl : isControl i = true) (hloop : loopEnd? i = none) :
    s.issueNothing (some i) = (s.unmark fun _ => true).fallThrough.issuedAs 1 false := by
  simp [State.issueNothing, hslot, hctl, hloop]

theorem State.modUnit_unit_own {s : State} (h : UnitsOk s) (u : Nat) (f : Unit → Unit) : (s.modUnit u f).unit u = f (s.unit u) :=
  (s.modUnit_unit h u u f).trans (if_pos rfl)

/-- Of all units one alone changes: its front end, its slots and its dispatch bookkeeping, where no fault is noted. -/
structure Passes (u : Nat) (s t : State) : Prop where
  table : UnitsOk t
  regs : regs { t.unit u with front := (s.unit u).front } = regs (s.unit u)
  pend : (t.unit u).disp.pend = (s.unit u).disp.pend
  others : ∀ v, v ≠ u → t.unit v = s.unit v

namespace Passes

variable {u : Nat} {s t r : State}

theorem trans (h : Passes u s t) (h' : Passes u t r) : Passes u s r where
  table := h'.table
  regs := (congrArg (fun x : Unit => { x with front := (s.unit u).front }) h'.regs).trans h.regs
  pend := h'.pend.trans h.pend
  others v hv := (h'.others v hv).trans (h.others v hv)

theorem modUnit (h : UnitsOk s) {f : Unit → Unit} (hregs : ∀ x, Safety.regs { f x with front := x.front } = Safety.regs x)
    (hpend : ∀ x, (f x).disp.pend = x.disp.pend) : Passes u s (s.modUnit u f) := by
  have hunit := State.modUnit_unit_own h u f
  exact ⟨s.modUnit_wf u f h, hunit ▸ hregs _, hunit ▸ hpend _, fun v hv => s.modUnit_unit_other f hv⟩

theorem trying (h : UnitsOk s) (k : Nat) (o : QOp) : Passes u s (s.trying u k o) := by
  obtain ⟨htable, hregs, hpend, hothers⟩ : Passes u s (s.tried u k o.seq) := modUnit h (fun _ => rfl) fun _ => rfl
  exact ⟨htable, hregs, hpend, hothers⟩

theorem redirect (h : UnitsOk s) (f : Front) : Passes s.u s (s.redirect f) := modUnit h (fun _ => rfl) fun _ => rfl

theorem fallThrough (h : UnitsOk s) : Passes s.u s (s.unmark fun _ => true).fallThrough := by
  have hmarks : Passes s.u s (s.unmark fun _ => true) := modUnit h (fun _ => rfl) fun _ => rfl
  exact hmarks.trans (redirect hmarks.table _)

theorem issuedAs (h : UnitsOk s) (occ : Nat) (eff : Bool) : Passes s.u s (s.issuedAs occ eff) := by
  rw [State.issuedAs_eq]
  have hleft : Passes s.u s (s.modUnit s.u (issuedUnit s occ eff)) := modUnit h (fun _ => rfl) fun _ => rfl
  exact hleft.trans (modUnit hleft.table (fun _ => rfl) fun _ => rfl)

end Passes

/-- Falling through leaves the slots of the issuing unit. -/
theorem State.fallThrough_slots (s : State) (h : UnitsOk s) : (s.unmark fun _ => true).fallThrough.me.slots = s.me.slots := by
  show (((s.modUnit s.u _).modUnit s.u _).unit s.u).slots = _
  rw [State.modUnit_unit_own (s.modUnit_wf _ _ h), State.modUnit_unit_own h]
  rfl

/-- A slot that is tried keeps its queue. -/
theorem State.trying_queue (s : State) (h : UnitsOk s) {u k : Nat} {o : QOp} {r : List QOp} (hq : ((s.unit u).slot k).queue = o :: r) :
    ((s.trying u k o).me.slot k).queue = o :: r := by
  have htried : ({ (s.unit u).slot k with tried := s.cycle + 1 } : Slot) ≠ Slot.idle := fun hidle => by
    have hempty : ((s.unit u).slot k).queue = [] := congrArg Slot.queue hidle
    exact nomatch hq.symm.trans hempty
  show (((s.tried u k o.seq).unit u).slot k).queue = _
  rw [State.tried, State.modUnit_unit_own h]
  exact (congrArg Slot.queue ((s.unit u).modSlot_slot k (fun sl => { sl with tried := s.cycle + 1 }) htried)).trans hq

/-- The colliding slots of a bundle without any have no guards to read together (R56). -/
theorem pairOf_eq_none {s : State} {u : Nat} {o : QOp} (h : ∀ b ∈ (s.unit u).disp.buns, b.seq = o.seq → b.collide = [] ∧ b.guards = none) :
    s.pairOf u o = none := by
  refine List.find?_eq_none.2 fun b hb hpair => ?_
  obtain ⟨hseq, hready⟩ := (Bool.and_eq_true _ _).mp hpair
  obtain ⟨hcollide, -⟩ := h b hb (eq_of_beq hseq)
  simp [State.pairsReady, hcollide] at hready

/-- A guard that is not read together with another slot's has its present value (R42, R56). -/
theorem guardOf_eq_guard {x : Unit} {o : QOp} (k : Nat) (h : ∀ b ∈ x.disp.buns, b.seq = o.seq → b.collide = [] ∧ b.guards = none) :
    x.guardOf k o = x.guard o.guard := by
  have hnone : ((x.disp.buns.find? fun b => b.seq == o.seq).bind fun b => b.guards.bind fun l => l.find? fun p => p.1 == k) = none := by
    cases hfind : x.disp.buns.find? fun b => b.seq == o.seq with
    | none => rfl
    | some b =>
      obtain ⟨-, hguards⟩ := h b (List.mem_of_find?_eq_some hfind) (eq_of_beq (by simpa using List.find?_some hfind))
      rw [Option.bind_some, hguards]
      rfl
  rw [Unit.guardOf, hnone]

/-- A head whose guard is false and whose operation is one of control other than a loop's leaves its queue and falls through. -/
theorem attempt_falseGuard {s : State} (h : UnitsOk s) {u : Nat} {o : QOp} {r : List QOp} {i : Instr}
    (hq : ((s.unit u).slot 1).queue = o :: r) (hi : decodeSlot .sq o.word = .ok (some i)) (hctl : isControl i = true)
    (hloop : loopEnd? i = none) (hfalse : (s.unit u).guard o.guard = false) (hearly : s.earlyGuard u o = none)
    (hblocked : s.blocked u 1 o = none) (hstamp : s.stampMet u o = true)
    (hbuns : ∀ b ∈ (s.unit u).disp.buns, b.seq = o.seq → b.collide = [] ∧ b.guards = none) :
    ∃ t, s.attempt u 1 = .settled t ∧ Passes u s t ∧ ((t.unit u).slot 1).queue = r ∧ t.mem = s.mem ∧
      t.landings = s.landings ∧ t.flights = s.flights := by
  have hguard : s.guardEarly u 1 o = none := by
    unfold State.guardEarly
    split
    · rfl
    · exact hearly
  have htrying : Passes u s (s.trying u 1 o) := .trying h 1 o
  have hfalls : Passes u (s.trying u 1 o) ((s.trying u 1 o).unmark fun _ => true).fallThrough := .fallThrough htrying.table
  have hleaves := Passes.issuedAs hfalls.table 1 false
  refine ⟨_, attempt_idle hq hi (pairOf_eq_none hbuns) hblocked hstamp ((guardOf_eq_guard 1 hbuns).trans hfalse) hguard, ?_⟩
  rw [State.issueNothing_control _ rfl hctl hloop]
  refine ⟨(htrying.trans hfalls).trans hleaves, ?_, rfl, rfl, rfl⟩
  have hleft := (State.issuedAs_spec ((s.trying u 1 o).unmark fun _ => true).fallThrough 1 false).2
  have hslots := (s.trying u 1 o).fallThrough_slots htrying.table
  have hqueue := s.trying_queue h hq
  rw [Unit.slot, ← hslots] at hqueue
  exact (congrArg Slot.queue hleft).trans (congrArg (List.drop 1) hqueue)

end Sys2Proof.Machine

namespace Sys2Proof.Laws

open Sys2Proof.Machine Sys2Proof.Safety

/-- Every word of TRAP's opcode names it, or has a bit of its reserved field set (R139). -/
theorem decodeSlot_trap (n : BitVec 8) (r : BitVec 17) :
    decodeSlot .sq (0x1C#7 ++ r ++ n) = if r = 0 then .ok (some (.trap n)) else .error .reserved := by
  split
  · next hr => exact decodeSlot_of_encode rfl rfl (by rw [hr]; rfl)
  · next hr =>
    have hmajor : major (0x1C#7 ++ r ++ n) = 0x1C := by
      simp (disch := decide) only [major, fld, hi_of, BitVec.extractLsb'_eq_self, Nat.reduceSub, Nat.sub_self]
      rfl
    have hfield : fld (0x1C#7 ++ r ++ n) 8 17 = r := by
      simp (disch := decide) only [fld, lo_of, hi_of, BitVec.extractLsb'_eq_self, Nat.sub_self]
    have hraw : rawDecode .sq (0x1C#7 ++ r ++ n) = .error .reserved := by
      show rawDecodeSq _ = _
      unfold rawDecodeSq
      rw [hmajor]
      show (if fld _ 8 17 == 0x0 then _ else _) = _
      rw [hfield, if_neg (by simpa using hr)]
    have hnonzero : ((0x1C#7 ++ r ++ n : Word) == 0) = false :=
      beq_eq_false_iff_ne.2 fun hzero => absurd (hmajor.symm.trans (congrArg major hzero)) (by decide)
    rw [decodeSlot, hnonzero, hmajor, hraw]
    rfl

/-- Settles O9: TRAP raises its fault; the decoder reads its word by its two fields; a false guard lets it pass as any other control
operation. -/
theorem trapRaises : Obligations.TrapRaises := by
  intro s n
  refine ⟨⟨_, rfl, s.raise_raises _, ?_⟩, decodeSlot_trap n, decodeSlot_trap 17 0, ?_⟩
  · obtain ⟨p, hp, hfirst⟩ := s.raise_pend (Flt.of 0x30 n (n.setWidth 64))
    refine ⟨p, hp, fun hnone => ?_⟩
    rw [hfirst hnone]
    exact ⟨rfl, rfl, rfl, rfl, rfl⟩
  · intro u o r hunits hq hi hfalse hearly hblocked hstamp hbuns
    obtain ⟨t, ht, hpasses, hqueue, hmem, hlandings, hflights⟩ :=
      attempt_falseGuard hunits hq hi rfl rfl hfalse hearly hblocked hstamp hbuns
    exact ⟨t, ht, hpasses.pend, hqueue, hpasses.regs, hpasses.others, hmem, hlandings, hflights⟩

end Sys2Proof.Laws

namespace Sys2Proof.Machine

open Sys2Proof.Safety

/-! ## SYSRET (R140) -/

/-- EPC is no resume point: a SKIP above 16, slot 0, or a bundle above 8,191. -/
theorem epcBad_iff (p : BitVec 64) : epcBad p = true ↔ (∃ j, 1 ≤ j ∧ j ≤ 7 ∧ 16 < (p.extractLsb' (5 * (j - 1)) 5).toNat) ∨
    (p.extractLsb' 48 3).toNat = 0 ∨ 8191 < (p.extractLsb' 51 13).toNat := by
  have hskip : (List.range 7).any (fun j => p.toNat / 2 ^ (5 * j) % 32 > 16) = true ↔
      ∃ j, 1 ≤ j ∧ j ≤ 7 ∧ 16 < (p.extractLsb' (5 * (j - 1)) 5).toNat := by
    simp only [List.any_eq_true, List.mem_range, decide_eq_true_eq, toNat_field]
    exact ⟨fun ⟨j, hj, h⟩ => ⟨j + 1, by omega, by omega, h⟩, fun ⟨j, hone, hj, h⟩ => ⟨j - 1, by omega, h⟩⟩
  have hbundle : (p.extractLsb' 51 13).toNat = p.toNat / 2 ^ 51 := by
    rw [toNat_field]
    omega
  rw [hbundle, toNat_field, ← hskip]
  simp [epcBad, or_assoc]

section

variable (s : State) (skipOne : Bool)

/-- The unit that a return from an exception leaves, before its operation has left its slot. -/
def State.returned (x : Unit) : Unit :=
  let p := x.spr.epc.toNat
  let b := p / 2 ^ 51
  { x with
    spr := { x.spr with sup := false }
    disp := { x.disp with
      skips := (List.range 8).map fun j =>
        if j == 0 then 0 else p / 2 ^ (5 * j - 5) % 32 - (x.disp.gaps.filter fun e => e.1 == j && e.2.2).length
          + (if skipOne && j == p / 2 ^ 48 % 8 then 1 else 0)
      redo := x.disp.redo.map fun r => (r.1 + x.disp.seq, r.2), back := none, wait := none, earliest := s.cycle + 1,
      gaps := x.disp.gaps.map fun e => (e.1, e.2.1 + x.disp.seq, e.2.2) }
    front := { s.backOf s.u with pc := BitVec.ofNat 64 b, half := b / 4096 == 1 } }

theorem State.sysret_eq : s.sysret s.u skipOne = s.modUnit s.u (s.returned skipOne) := rfl

theorem State.returned_ne_idle (x : Unit) : s.returned skipOne x ≠ Unit.idle := fun hidle =>
  nomatch (congrArg (·.disp.earliest) hidle : s.cycle + 1 = 0)

/-- The return's operation has left its slot, and nothing else has changed but its unit. -/
theorem State.sysret_issued : ∃ n, ((s.sysret s.u skipOne).issued 1).unit s.u =
    (issuedUnit (s.sysret s.u skipOne) 1 true (s.returned skipOne s.me)).trim n := by
  obtain ⟨n, hn⟩ := (s.sysret s.u skipOne).issuedAs_unit 1 true
  have hme : (s.sysret s.u skipOne).me = s.returned skipOne s.me :=
    s.modUnit_unit_same s.u (s.returned skipOne) (s.returned_ne_idle skipOne _)
  exact ⟨n, hme ▸ hn⟩

/-- The operations that a return leaves to discard: those of SKIPj, without the ones whose fault was found while the handler ran, and
one more of the faulting slot for SYSRET.S. -/
theorem State.returned_skips (x : Unit) {j : Nat} (hone : 1 ≤ j) (hj : j ≤ 7) :
    (s.returned skipOne x).disp.skips.getD j 0 = (x.spr.epc.extractLsb' (5 * (j - 1)) 5).toNat -
      (x.disp.gaps.filter fun e => e.1 == j && e.2.2).length + if skipOne = true ∧ j = (x.spr.epc.extractLsb' 48 3).toNat then 1 else 0 := by
  have hlt : j < 8 := by omega
  simp only [State.returned, toNat_field, List.getD_eq_getElem?_getD, List.getElem?_map, List.getElem?_range hlt, Option.map_some,
    Option.getD_some, Bool.and_eq_true, beq_iff_eq]
  rw [if_neg (by omega), show 5 * (j - 1) = 5 * j - 5 by omega]
  rfl

theorem exec_sysret : exec (if skipOne then .sysretS else .sysret) s = .next (s.execReturn skipOne) := by
  cases skipOne <;> rfl

/-- Supervisor mode, or the supervisor controller (R137, R363). -/
def State.MayReturn : Prop := s.me.spr.sup = true ∨ s.isSup s.u = true

/-- All that went before has issued and landed. -/
def State.ReturnReady : Prop := s.earlierIssued s.u s.cur.op.seq = true ∧ s.landed s.u s.cur.op.seq = true

theorem State.mayReturn_iff : (s.me.spr.sup || s.isSup s.u) = true ↔ s.MayReturn := (Bool.or_eq_true ..).to_iff

theorem State.returnReady_iff : (s.earlierIssued s.u s.cur.op.seq && s.landed s.u s.cur.op.seq) = true ↔ s.ReturnReady :=
  (Bool.and_eq_true ..).to_iff

variable {s}

theorem execReturn_user (huser : ¬ s.MayReturn) : s.execReturn skipOne = s.raise (prot 7 0) := by
  rw [State.execReturn, Bool.eq_false_iff.2 (mt s.mayReturn_iff.1 huser)]
  rfl

theorem execReturn_waits (hmay : s.MayReturn) (hwaits : ¬ s.ReturnReady) : s.execReturn skipOne = s := by
  rw [State.execReturn, s.mayReturn_iff.2 hmay, Bool.eq_false_iff.2 (mt s.returnReady_iff.1 hwaits)]
  rfl

theorem execReturn_ready (hmay : s.MayReturn) (hready : s.ReturnReady) : s.execReturn skipOne =
    if epcBad s.me.spr.epc then s.raise (prot 0x0C s.me.spr.epc) else (s.sysret s.u skipOne).issued 1 := by
  rw [State.execReturn, s.mayReturn_iff.2 hmay, s.returnReady_iff.2 hready]
  rfl

end

end Sys2Proof.Machine

namespace Sys2Proof.Laws

open Sys2Proof.Machine Sys2Proof.Safety

/-- Settles O10: the three tests of SYSRET in their order, then the unit that a return leaves. -/
theorem sysretReturns : Obligations.SysretReturns := by
  intro s b i x p skip slot bundle may ready bad
  have hexec : exec i s = .next (s.execReturn b) := exec_sysret s b
  refine ⟨fun huser => ?_, fun hmay hwait => ?_, fun hmay hready hbad => ?_, fun hmay hready hgood => ?_⟩
  · exact ⟨_, hexec, execReturn_user b huser ▸ s.raise_raises _⟩
  · exact hexec.trans (congrArg _ (execReturn_waits b hmay hwait))
  · rw [execReturn_ready b hmay hready, if_pos ((epcBad_iff p).2 hbad)] at hexec
    exact ⟨_, hexec, s.raise_raises _⟩
  · rw [execReturn_ready b hmay hready, if_neg (mt (epcBad_iff p).1 hgood)] at hexec
    obtain ⟨n, hunit⟩ := s.sysret_issued b
    have hleft := (s.modUnit_issued (s.returned b) (s.returned_ne_idle b _) rfl 1).2
    have hbundle : p.toNat / 2 ^ 51 = bundle := by
      show _ = (p.extractLsb' 51 13).toNat
      rw [toNat_field]
      omega
    refine ⟨_, hexec, ?_, ?_, hleft, fun k hk => ?_, fun j hone hj => ?_, ?_, ?_, ?_, fun u hu => ?_, rfl⟩
    · rw [hunit]
      rfl
    · rw [hunit, ← hbundle]
      rfl
    · rw [hunit]
      exact Unit.modSlot_slot_other _ _ hk
    · rw [hunit]
      exact s.returned_skips b s.me hone hj
    · rw [hunit]
      rfl
    · rw [hunit]
      rfl
    · rw [hunit]
      rfl
    · have hissued : ((s.sysret s.u b).issued 1).unit u = (s.sysret s.u b).unit u :=
        State.issued_unit_other _ 1 hu
      exact hissued.trans (s.modUnit_unit_other (s.returned b) hu)

end Sys2Proof.Laws

namespace Sys2Proof.Machine

open Sys2Proof.Safety

/-! ## Taking an exception and a slot table out of canonical form (R134, R135) -/

/-- A TRAP of bundle 0 in slot 1. -/
def trapPend : Pend := ⟨0, 0, 1, 0x30, 17, 17, 0, 0, 0, 0, 7, 0, 0, true⟩

theorem doubledState_ctxsOk : CtxsOk doubledState := rfl

/-- Delivering it leaves an operation in the queue of that slot. -/
theorem doubledState_deliver_queue : (((doubledState.deliver 384 trapPend).unit 384).slot 1).queue = [.nop] := by decide +kernel

end Sys2Proof.Machine

namespace Sys2Proof.Laws

open Sys2Proof.Machine Sys2Proof.Safety

/-- Refutes O58: UnitsOk says that the table of units is canonical, and nothing of the slot tables within them. Of a controller whose
slot table lists a slot twice, taking the exception empties the queue that is read, and the second entry's queue is read then. -/
theorem not_exceptionEntry : ¬ Obligations.ExceptionEntry := by
  intro h
  obtain ⟨-, -, -, -, hctl⟩ := h doubledState 384 trapPend doubledState_unitsOk doubledState_ctxsOk doubledState_memoryOk
  obtain ⟨-, -, hqueues, -⟩ := hctl (by decide) (by decide)
  have hempty := hqueues 1 (by decide)
  exact nomatch doubledState_deliver_queue.symm.trans hempty

end Sys2Proof.Laws

namespace Sys2Proof.Machine

open Sys2Proof.Safety

/-! ## The trap state under the operations of a slot (R137, R140) -/

/-- A unit's trap state is that of an earlier unit, and its mode is none that the earlier one had not. -/
def TrapAs (y x : Unit) : Prop :=
  y.spr.epc = x.spr.epc ∧ y.spr.frec = x.spr.frec ∧ y.spr.tscr0 = x.spr.tscr0 ∧ y.spr.tscr1 = x.spr.tscr1 ∧
    (y.spr.sup = true → x.spr.sup = true)

/-- Whether an exposed result is a write of a supervisor register, other than SWAT and SWCT (R148). -/
def Land.Supervises : Land → Prop
  | .spr n _ => n = 0x030 ∨ 0x040 ≤ n ∧ n ≤ 0x051
  | _ => False

/-- The issuing unit is in user mode, and not the supervisor controller (R137, R363). -/
def State.InUser (s : State) : Prop := s.me.spr.sup = false ∧ s.isSup s.u = false

/-- What an operation of a slot, issuing in `s₀`, keeps in every state on the way to the one that it leaves. -/
structure TrapKept (s₀ s : State) : Prop where
  table : UnitsOk s
  units : ∀ u, TrapAs (s.unit u) (s₀.unit u)
  landings : s₀.InUser → ∀ l ∈ s.landings, l ∈ s₀.landings ∨ ¬ l.what.Supervises

theorem TrapAs.of_spr {x y : Unit} (h : y.spr = x.spr) : TrapAs y x := by
  rw [TrapAs, h]
  exact ⟨rfl, rfl, rfl, rfl, id⟩

theorem TrapAs.trans {x y z : Unit} (h : TrapAs y x) (h' : TrapAs z y) : TrapAs z x := by
  obtain ⟨hepc, hfrec, hscr0, hscr1, hsup⟩ := h
  obtain ⟨hepc', hfrec', hscr0', hscr1', hsup'⟩ := h'
  exact ⟨hepc'.trans hepc, hfrec'.trans hfrec, hscr0'.trans hscr0, hscr1'.trans hscr1, hsup ∘ hsup'⟩

/-- A unit that stops keeps its trap state, and stands in user mode. -/
theorem Unit.halt_trap (x : Unit) (u : Nat) : TrapAs (x.halt u) x := by
  obtain ⟨sl, h⟩ := x.halt_eq u
  rw [h]
  exact ⟨rfl, rfl, rfl, rfl, nofun⟩

namespace TrapKept

variable {s₀ s t : State}

theorem refl (h : UnitsOk s) : TrapKept s s := ⟨h, fun _ => .of_spr rfl, fun _ _ => .inl⟩

theorem of_same (h : TrapKept s₀ s) (hunits : t.units = s.units) (hlandings : t.landings = s.landings) : TrapKept s₀ t := by
  have hunit (u : Nat) : t.unit u = s.unit u := by rw [State.unit, State.unit, hunits]
  exact ⟨by rw [UnitsOk, hunits]; exact h.table, fun u => hunit u ▸ h.units u, hlandings ▸ h.landings⟩

theorem setUnit (h : TrapKept s₀ s) {u : Nat} {x : Unit} (hx : TrapAs x (s.unit u)) : TrapKept s₀ (s.setUnit u x) := by
  refine ⟨s.setUnit_wf u x h.table, fun v => ?_, h.landings⟩
  rw [s.setUnit_unit h.table]
  split
  · next hv => exact hv ▸ (h.units u).trans hx
  · exact h.units v

theorem modUnit (h : TrapKept s₀ s) (u : Nat) {f : Unit → Unit} (hf : ∀ x, TrapAs (f x) x) : TrapKept s₀ (s.modUnit u f) :=
  h.setUnit (hf _)

/-- A change of a unit that leaves its special registers. -/
theorem modUnit_spr (h : TrapKept s₀ s) (u : Nat) {f : Unit → Unit} (hf : ∀ x, (f x).spr = x.spr) : TrapKept s₀ (s.modUnit u f) :=
  h.modUnit u fun x => .of_spr (hf x)

theorem foldl {α : Type} (l : List α) {f : State → α → State} (hf : ∀ t a, TrapKept s₀ t → TrapKept s₀ (f t a)) (h : TrapKept s₀ s) :
    TrapKept s₀ (l.foldl f s) := by
  induction l generalizing s with
  | nil => exact h
  | cons a l ih => exact ih (hf s a h)

/-- An exposed result that is no write of a supervisor register, or of an operation that may make one. -/
theorem land (h : TrapKept s₀ s) (lat : Nat) {w : Land} (hw : s₀.InUser → ¬ w.Supervises) : TrapKept s₀ (s.land lat w) := by
  refine ⟨h.table, h.units, fun huser l hl => ?_⟩
  rcases List.mem_append.1 hl with hold | hnew
  · exact h.landings huser l hold
  · rw [List.mem_singleton.1 hnew]
    exact .inr (hw huser)

theorem dropResults (h : TrapKept s₀ s) (u : Nat) : TrapKept s₀ (s.dropResults u) :=
  ⟨h.table, h.units, fun huser l hl => h.landings huser l (List.mem_filter.1 hl).1⟩

/-! ### Issue -/

@[simp] theorem raise (h : TrapKept s₀ s) (f : Flt) : TrapKept s₀ (s.raise f) := by
  unfold State.raise State.raiseAt
  exact h.modUnit_spr _ fun _ => rfl

@[simp] theorem issuedAs (h : TrapKept s₀ s) (occ : Nat) (eff : Bool) : TrapKept s₀ (s.issuedAs occ eff) := by
  rw [State.issuedAs_eq]
  refine modUnit_spr (h.modUnit_spr _ ?_) _ ?_
  · exact fun _ => rfl
  · exact fun _ => rfl

@[simp] theorem issued (h : TrapKept s₀ s) (occ : Nat) : TrapKept s₀ (s.issued occ) := h.issuedAs occ true

@[simp] theorem holdPorts (h : TrapKept s₀ s) (i : Instr) (occ : Nat) : TrapKept s₀ (s.holdPorts i occ) := h.modUnit_spr _ fun _ => rfl

@[simp] theorem holding (h : TrapKept s₀ s) (w : Hold) : TrapKept s₀ (s.holding w) := h.modUnit_spr _ fun _ => rfl

@[simp] theorem redirect (h : TrapKept s₀ s) (f : Front) : TrapKept s₀ (s.redirect f) := h.modUnit_spr _ fun _ => rfl

@[simp] theorem fly (h : TrapKept s₀ s) (f : Flight) : TrapKept s₀ (s.fly f) := h.of_same rfl rfl

@[simp] theorem result (h : TrapKept s₀ s) (lat : Nat) (ws : List (Stor × Val)) (fl : Flags) : TrapKept s₀ (s.result lat ws fl) := h.fly _

@[simp] theorem scalarOut (h : TrapKept s₀ s) (lat : Nat) (d : BitVec 5) (v : BitVec 64) (f : Flags) : TrapKept s₀ (s.scalarOut lat d v f) :=
  (h.land _ fun _ => id).issued 1

@[simp] theorem guardOut (h : TrapKept s₀ s) (lat : Nat) (g : BitVec 2) (b : Bool) (f : Flags) : TrapKept s₀ (s.guardOut lat g b f) :=
  (h.land _ fun _ => id).issued 1

@[simp] theorem waitOr (h : TrapKept s₀ s) (sub : Byte) : TrapKept s₀ (s.waitOr sub) := by
  unfold State.waitOr
  split
  · exact h.raise _
  · exact h

/-! ### Control -/

@[simp] theorem jump (h : TrapKept s₀ s) (a : BitVec 64) : TrapKept s₀ (s.jump a) := (h.redirect _).issued 1

@[simp] theorem branch (h : TrapKept s₀ s) (taken : Bool) (o : BitVec 16) : TrapKept s₀ (s.branch taken o) := by
  unfold State.branch
  split
  · exact h.jump _
  · exact (h.redirect _).issued 1

@[simp] theorem jumpTo (h : TrapKept s₀ s) (a : BitVec 64) : TrapKept s₀ (s.jumpTo a) := by
  unfold State.jumpTo
  split
  · exact h.raise _
  · exact h.jump _

@[simp] theorem openLoop (h : TrapKept s₀ s) (rot : Bool) (count : Word) (e : BitVec 12) : TrapKept s₀ (s.openLoop rot count e) := by
  unfold State.openLoop
  dsimp only
  split
  · exact h.jump _
  · split
    · exact h.raise _
    · exact (h.redirect _).issued 1

/-- The return from an exception leaves supervisor mode. -/
@[simp] theorem sysret (h : TrapKept s₀ s) (u : Nat) (skip : Bool) : TrapKept s₀ (s.sysret u skip) :=
  h.modUnit u fun _ => ⟨rfl, rfl, rfl, rfl, nofun⟩

@[simp] theorem setCoherent (h : TrapKept s₀ s) (u : Nat) (half v : Bool) : TrapKept s₀ (s.setCoherent u half v) := by
  have hset (f : Spr → BitVec 2) : TrapKept s₀ (s.modUnit u fun x => x.modSpr fun p => { p with coherent := f p }) :=
    h.modUnit u fun _ => ⟨rfl, rfl, rfl, rfl, id⟩
  unfold State.setCoherent
  dsimp only
  split
  · exact (hset _).of_same rfl rfl
  · exact hset _

/-! ### Events, faults that are logged, the ends of tasks -/

theorem postEvent (h : TrapKept s₀ s) (u : Nat) (e : Event) : TrapKept s₀ (s.postEvent u e) := h.modUnit_spr u fun _ => rfl

theorem postDone (h : TrapKept s₀ s) (u : Nat) (e : Event) : TrapKept s₀ (s.postDone u e) := by
  unfold State.postDone
  split
  · exact h.postEvent u e
  · exact h.modUnit_spr u fun _ => rfl

theorem takeFault_spr {x y : Unit} {e : Event} (h : x.takeFault e = some y) : y.spr = x.spr := by
  unfold Unit.takeFault at h
  split at h
  · cases h; rfl
  · split at h
    · cases h; rfl
    · exact nomatch h

theorem postFault (h : TrapKept s₀ s) (c u : Nat) (e : Event) : TrapKept s₀ (s.postFault c u e) := by
  unfold State.postFault
  dsimp only
  split
  · split
    · next x hx => exact h.setUnit (.of_spr (takeFault_spr hx))
    · exact h.of_same rfl rfl
  · split <;> exact h.of_same rfl rfl

theorem writeSpans (h : TrapKept s₀ s) (sp : List (Nat × Nat)) (bs : List Byte) : TrapKept s₀ (s.writeSpans sp bs) := by
  obtain ⟨m, w, hwrite⟩ := s.writeSpans_eq sp bs
  rw [hwrite]
  exact h.of_same rfl rfl

theorem logRecord (h : TrapKept s₀ s) (w : Who) (f : Flt) (r : BitVec 512) : TrapKept s₀ (s.logRecord w f r) := by
  have hpost {t : State} (ht : TrapKept s₀ t) (drop : Bool) (tag idx : Nat) : TrapKept s₀ (match t.faultCtl w with
      | some u => t.postFault w.ctx.toNat u (faultEvent w tag f drop idx)
      | none => t) := by
    split
    · exact ht.postFault _ _ _
    · exact ht
  unfold State.logRecord
  dsimp only
  split
  · refine hpost ?_ _ _ _
    exact (h.writeSpans _ _).of_same rfl rfl
  · refine hpost ?_ _ _ _
    exact h.of_same rfl rfl

theorem logFault (h : TrapKept s₀ s) (w : Who) (f : Flt) : TrapKept s₀ (s.logFault w f) := h.logRecord _ _ _

theorem groups (h : TrapKept s₀ s) (gs : List Group) : TrapKept s₀ { s with groups := gs } := h.of_same rfl rfl

theorem complete (h : TrapKept s₀ s) (g : Group) : TrapKept s₀ (s.complete g) := by
  unfold State.complete
  split
  · dsimp only
    generalize (if (s.gword g 4 == 0xFFFFFFFF) = true then (1 : BitVec 2) else 2) = st
    have hstatus : TrapKept s₀ (s.setStatus g st) := h.of_same rfl rfl
    refine postDone (groups ?_ _) _ _
    split
    · exact hstatus
    · split
      · split
        · exact hstatus.logFault _ _
        · exact hstatus.writeSpans _ _
      · exact hstatus.logFault _ _
  · exact h

theorem retireTask (h : TrapKept s₀ s) (g : Group) (i : Word) (failed : Bool) : TrapKept s₀ (s.retireTask g i failed) := by
  have hretired : TrapKept s₀ (s.setGword g 24 (s.gword g 24 + 1)) := h.of_same rfl rfl
  have hwords {v : Word} : TrapKept s₀ (if failed then (s.setGword g 24 (s.gword g 24 + 1)).setGword g 4 v
      else s.setGword g 24 (s.gword g 24 + 1)) := by
    split
    · exact hretired.of_same rfl rfl
    · exact hretired
  unfold State.retireTask
  dsimp only
  split
  · exact hwords.complete _
  · exact hwords

theorem freeTask (h : TrapKept s₀ s) (u : Nat) (t : Task) : TrapKept s₀ (s.freeTask u t) := by
  unfold State.freeTask
  dsimp only
  split
  · refine foldl _ (fun t v ht => ht.modUnit v fun x => ?_) h
    split
    · exact .of_spr rfl
    · exact x.halt_trap v
  · exact h

theorem endTask (h : TrapKept s₀ s) (u : Nat) (t : Task) : TrapKept s₀ (s.endTask u t) := by
  unfold State.endTask
  dsimp only
  refine foldl _ (fun t v ht => ht.modUnit v fun x => x.halt_trap v) ?_
  split
  · exact h
  · refine retireTask ?_ _ _ _
    split
    · exact h.postEvent _ _
    · exact h

theorem stopCtl (h : TrapKept s₀ s) (u : Nat) (a : BitVec 64) : TrapKept s₀ (s.stopCtl u a) := by
  have hhalt : TrapKept s₀ ((s.dropResults u).modUnit u fun x => { x.halt u with start := a }) :=
    (h.dropResults u).modUnit u fun x => x.halt_trap u
  unfold State.stopCtl
  dsimp only
  split
  · exact hhalt
  · exact hhalt.of_same rfl rfl

@[simp] theorem popEvent (h : TrapKept s₀ s) (d e : BitVec 5) (wait : Bool) : TrapKept s₀ (s.popEvent d e wait) := by
  have hrefill (x : Unit) : x.refill.spr = x.spr := by
    obtain ⟨e, held, owed, hx, -⟩ := x.refill_eq
    rw [hx]
  unfold State.popEvent
  dsimp only
  split
  · refine issued (result (h.modUnit_spr _ ?_) _ _ _) 1
    exact fun x => hrefill _
  · split
    · exact h
    · exact (h.result _ _ _).issued 1

/-! ### Budgets, tiles and accesses -/

theorem charge (h : TrapKept s₀ s) (d m : Nat) (use : List (Nat × Nat)) : TrapKept s₀ (s.charge d m use) := by
  obtain ⟨ds, hcharge⟩ := s.charge_eq d m use
  rw [hcharge]
  exact h.of_same rfl rfl

theorem tlbAdd (h : TrapKept s₀ s) (d : Nat) (es : List TlbEntry) : TrapKept s₀ (s.tlbAdd d es) := by
  obtain ⟨ds, htlb⟩ := s.tlbAdd_dies_only d es
  rw [htlb]
  exact h.of_same rfl rfl

theorem freeze (h : TrapKept s₀ s) (d m r : Nat) (w : Who) : TrapKept s₀ (s.freeze d m r w) := by
  have hlog (f : Flt) : TrapKept s₀ ((s.logFault w f).modBudget d m r fun b => { b with frz := true }) := (h.logFault w f).of_same rfl rfl
  unfold State.freeze
  dsimp only
  split
  · exact modUnit_spr (hlog _) _ fun _ => rfl
  · split
    · exact (hlog _).of_same rfl rfl
    · split <;> exact (hlog _).of_same rfl rfl

theorem grant (h : TrapKept s₀ s) (r : Reach) (wait : Bool) {f : State → State} (hf : ∀ t, TrapKept s₀ t → TrapKept s₀ (f t)) :
    TrapKept s₀ (s.grant r wait f) := by
  have htlb := h.tlbAdd (dieOf s.u) r.tlb
  unfold State.grant
  dsimp only
  split
  · exact h
  · split
    · exact hf _ htlb
    · split
      · exact htlb.freeze _ _ _ _
      · exact hf _ (htlb.charge _ _ _)

theorem coAdmit (h : TrapKept s₀ s) (d : Nat) (w : Who) (sp : List (Nat × Nat)) (link : Option Nat) {f : State → State}
    (hf : ∀ t, TrapKept s₀ t → TrapKept s₀ (f t)) : TrapKept s₀ (s.coAdmit d w sp link f) := by
  unfold State.coAdmit
  dsimp only
  split
  · split
    · exact h
    · exact h.freeze _ _ _ _
  · exact hf _ (h.charge _ _ _)

theorem withOperand (h : TrapKept s₀ s) (sa : BitVec 64) (g : BitVec 2) (span : Nat) (extra : List Flt) (more : List (Nat × Nat))
    {f : State → State} (hf : ∀ t, TrapKept s₀ t → TrapKept s₀ (f t)) : TrapKept s₀ (s.withOperand sa g span extra more f) := by
  unfold State.withOperand
  dsimp only
  split
  · exact h.raise _
  · split
    · exact h
    · exact h.grant _ _ hf

theorem setTiles (h : TrapKept s₀ s) (ts : List Nat) (b : Bool) : TrapKept s₀ (s.setTiles ts b) := by
  obtain ⟨m, l, htiles⟩ := s.setTiles_eq ts b
  rw [htiles]
  exact h.of_same rfl rfl

end TrapKept

end Sys2Proof.Machine

namespace Sys2Proof.Machine

open Sys2Proof.Safety

namespace TrapKept

variable {s₀ s t : State}

/-! ### Results of vector operations, loads, stores and requests -/

@[simp] theorem vecDone (h : TrapKept s₀ s) (w : BitVec 2) (i : Instr) (q : Nat) (d : Stor) (v : Val) (fl : Flags) :
    TrapKept s₀ (s.vecDone w i q d v fl) := ((h.result _ _ _).issued _).holdPorts _ _

@[simp] theorem elementwise (h : TrapKept s₀ s) (w : BitVec 2) (i : Instr) (d : Stor) (ops : List (List Run))
    (f : Nat → List Word → Word × Flags) : TrapKept s₀ (s.elementwise w i d ops f) := by
  unfold State.elementwise
  dsimp only
  split
  · exact h.raise _
  · split
    · exact h.raise _
    · exact h.vecDone _ _ _ _ _ _

@[simp] theorem vecOut (h : TrapKept s₀ s) (w : BitVec 2) (i : Instr) (q : Nat) (d : Stor) (rs : List Run) (fl : Flags) :
    TrapKept s₀ (s.vecOut w i q d rs fl) := by
  unfold State.vecOut
  split
  · exact h.raise _
  · exact h.vecDone _ _ _ _ _ _

@[simp] theorem unary (h : TrapKept s₀ s) (w : BitVec 2) (i : Instr) (d a : BitVec 6) (m : BitVec 1) (n : BitVec 3)
    (f : Nat → Word → Word × Flags) : TrapKept s₀ (s.unary w i d a m n f) := by
  unfold State.unary
  split <;> exact h.elementwise _ _ _ _ _

@[simp] theorem perSegment (h : TrapKept s₀ s) (w : BitVec 2) (i : Instr) (d a b : BitVec 6) (dflt : Word)
    (f : Nat → Word → Word → Word × Flags) : TrapKept s₀ (s.perSegment w i d a b dflt f) := by
  unfold State.perSegment
  dsimp only
  split
  · exact h.raise _
  · exact h.vecOut _ _ _ _ _ _

@[simp] theorem reduceSeg (h : TrapKept s₀ s) (w : BitVec 2) (i : Instr) (d a : BitVec 6) (m : BitVec 1) (n : BitVec 3)
    (f : Nat → List Piece → Word × Flags) : TrapKept s₀ (s.reduceSeg w i d a m n f) := by
  unfold State.reduceSeg
  split
  · exact h.raise _
  · exact h.vecOut _ _ _ _ _ _

@[simp] theorem reduceAll (h : TrapKept s₀ s) (w : BitVec 2) (i : Instr) (d : BitVec 5) (a : BitVec 6) (m : BitVec 1) (n : BitVec 3)
    (sgn : Bool) (f : List Piece → Word × Flags) : TrapKept s₀ (s.reduceAll w i d a m n sgn f) := by
  unfold State.reduceAll
  split
  · exact h.raise _
  · exact h.vecDone _ _ _ _ _ _

@[simp] theorem loadFrom (h : TrapKept s₀ s) (size : Nat) (rs : List (BitVec 64 × Nat)) (entries extra : Nat) (d : Stor) (c : Conv) :
    TrapKept s₀ (s.loadFrom size rs entries extra d c) := by
  unfold State.loadFrom
  split
  · exact h.raise _
  · split
    · exact h
    · exact h.grant _ _ fun t ht => (ht.fly _).issued _

@[simp] theorem loadVector (h : TrapKept s₀ s) (merge : Bool) (v : BitVec 6) (b n : BitVec 5) (f : BitVec 4) (c : BitVec 2) :
    TrapKept s₀ (s.loadVector merge v b n f c) := by
  unfold State.loadVector
  dsimp only
  split
  · exact h.raise _
  · exact h.loadFrom _ _ _ _ _ _

theorem storeTo (h : TrapKept s₀ s) (i : Instr) (size : Nat) (rs : List (BitVec 64 × Nat)) (entries : Nat) (bytes : List Byte)
    {after : State → Nat → State} (hafter : ∀ t n, TrapKept s₀ t → TrapKept s₀ (after t n)) :
    TrapKept s₀ (s.storeTo i size rs entries bytes after) := by
  unfold State.storeTo
  split
  · exact h.raise _
  · split
    · exact h
    · refine h.grant _ _ fun t ht => ((hafter _ _ ?_).issued _).holdPorts _ _
      split
      · exact ht
      · exact ht.fly _

@[simp] theorem storeScalar (h : TrapKept s₀ s) (i : Instr) (n : Nat) (d b : BitVec 5) (o : BitVec 15) :
    TrapKept s₀ (s.storeScalar i n d b o) := h.storeTo _ _ _ _ _ fun _ _ ht => ht

@[simp] theorem snapshot (h : TrapKept s₀ s) (n : BitVec 3) (va origin : BitVec 64) : TrapKept s₀ (s.snapshot n va origin) := by
  unfold State.snapshot
  split
  · exact h.raise _
  · split
    · exact h
    · exact h.grant _ _ fun t ht => (ht.fly _).issued _

@[simp] theorem writeBits (h : TrapKept s₀ s) (n b : BitVec 5) (o : BitVec 15) (full : Bool) : TrapKept s₀ (s.writeBits n b o full) := by
  unfold State.writeBits
  split
  · exact h.raise _
  · exact (h.fly _).issued _

@[simp] theorem askDirectory (h : TrapKept s₀ s) (r : Req) (dst : Stor) (ps : List Nat) : TrapKept s₀ (s.askDirectory r dst ps) := by
  unfold State.askDirectory
  split
  · exact h.raise _
  · exact (h.fly _).issued _

@[simp] theorem ask (h : TrapKept s₀ s) (r : Req) (va : BitVec 64) (dst : List Stor) (more : List Flt) :
    TrapKept s₀ (s.ask r va dst more) := by
  unfold State.ask
  dsimp only
  split
  · exact h.raise _
  · split
    · exact h.raise _
    · exact h.grant _ _ fun t ht => (ht.fly _).issued _

theorem tell (h : TrapKept s₀ s) (b : State) (r : Req) (va : BitVec 64) : TrapKept s₀ (s.tell b r va) := by
  unfold State.tell
  split <;> exact h.fly _

@[simp] theorem tellAll (h : TrapKept s₀ s) (i : Instr) (rs : List (Req × BitVec 64)) (occ : Nat) : TrapKept s₀ (s.tellAll i rs occ) := by
  unfold State.tellAll
  refine h.grant _ _ fun t ht => holdPorts (issued ?_ _) _ _
  exact foldl rs (fun r p hr => hr.tell _ _ _) ht

@[simp] theorem objects (h : TrapKept s₀ s) (i : Instr) (r : Req) (n : Nat) (va : BitVec 64) : TrapKept s₀ (s.objects i r n va) := by
  unfold State.objects
  split
  · exact (h.logFault _ _).issued _
  · exact h.tellAll _ _ _

@[simp] theorem finishObjects (h : TrapKept s₀ s) (vec : Bool) (n : Nat) (va : BitVec 64) (dst : Stor) :
    TrapKept s₀ (s.finishObjects vec n va dst) := by
  unfold State.finishObjects
  dsimp only
  split
  · exact h.raise _
  · exact h.grant _ _ fun t ht => (ht.fly _).issued _

@[simp] theorem watch (h : TrapKept s₀ s) (va : BitVec 64) (size off n : Nat) (spaces : Nat → Bool) (cc : BitVec 3) (x : BitVec 64)
    (more : List Flt) : TrapKept s₀ (s.watch va size off n spaces cc x more) := by
  unfold State.watch
  dsimp only
  split
  · exact h.issued _
  · exact h
  · split
    · exact h.raise _
    · split
      · exact h.raise _
      · refine h.grant _ _ fun t ht => holding ?_ _
        exact ht.of_same rfl rfl

/-! ### The matrix engine and the generator -/

@[simp] theorem beginStream (h : TrapKept s₀ s) (mx : Bool) (todo : List (Nat × Nat × Nat)) (hold : Nat × Nat) :
    TrapKept s₀ (s.beginStream mx todo hold) := h.of_same rfl rfl

theorem streamRows (h : TrapKept s₀ s) (bank : BitVec 3) (at' : Nat → Nat) (works : List RowWork) :
    TrapKept s₀ (s.streamRows bank at' works) := h.of_same rfl rfl

theorem boundAt (h : TrapKept s₀ s) (due : Nat) (vd : Option (BitVec 6)) (f : Flt) : TrapKept s₀ (s.boundAt due vd f) := h.fly _

/-- A change of the engines' registers (R263, R301). -/
theorem modEng (h : TrapKept s₀ s) (u : Nat) (f : Eng → Eng) : TrapKept s₀ (s.modUnit u fun x => x.modEng f) := h.modUnit_spr u fun _ => rfl

@[simp] theorem genBegin (h : TrapKept s₀ s) (n : BitVec 4) (kind till : Nat) : TrapKept s₀ (s.genBegin n kind till) := h.modEng _ _

theorem beginLoad (h : TrapKept s₀ s) (l : MxLoad) : TrapKept s₀ (s.beginLoad l) := h.modEng _ _

@[simp] theorem setCellop (h : TrapKept s₀ s) (v : Word) : TrapKept s₀ (s.setCellop v) := (h.modEng _ _).issued 1

@[simp] theorem drainOut (h : TrapKept s₀ s) (v : BitVec 6) (occ : Nat) (rs : List Run) (fl : Flags) :
    TrapKept s₀ (s.drainOut v occ rs fl) := by
  unfold State.drainOut
  split
  · exact h.raise _
  · exact (h.result _ _ _).issued _

@[simp] theorem pass (h : TrapKept s₀ s) (bank : BitVec 3) (g : BitVec 2) (sa : BitVec 64) (m : Nat) (fa : BitVec 3)
    (scales : Option (List Byte)) (span : Nat) (stage2 : List Flt) (reads : Nat × Nat → Nat → List (Nat × Nat × Nat)) (pick : Nat → Pick)
    (holds : Bool) (cells : Nat → List Bool) :
    TrapKept s₀ (s.pass bank g sa m fa scales span stage2 reads pick holds cells) := by
  unfold State.pass
  split
  · exact h.raise _
  · split
    · exact h.raise _
    · exact h.withOperand _ _ _ _ _ fun t ht => ((ht.streamRows _ _ _).beginStream _ _ _).issued _

@[simp] theorem genLoad (h : TrapKept s₀ s) (n : BitVec 4) (sd : BitVec 3) (sc : BitVec 64) (f : BitVec 2) (img : Image)
    (mem : Option (BitVec 2 × Nat × Word)) : TrapKept s₀ (s.genLoad n sd sc f img mem) := by
  unfold State.genLoad
  dsimp only
  split
  · refine issued ?_ 1
    split
    · exact (h.genBegin _ _ _).beginLoad _
    · exact ((h.genBegin _ _ _).beginStream _ _ _).beginLoad _
  · refine issued ?_ 1
    split
    · exact ((h.boundAt _ _ _).genBegin _ _ _).beginLoad _
    · exact (((h.boundAt _ _ _).genBegin _ _ _).beginStream _ _ _).beginLoad _

/-! ### Transfers and calls -/

@[simp] theorem launchXfer (h : TrapKept s₀ s) (d : BitVec 5) (tiles : List Nat) (f : BitVec 16 → Xfer) :
    TrapKept s₀ (s.launchXfer d tiles f) := by
  unfold State.launchXfer
  refine issued (result (modUnit_spr ?_ _ ?_) _ _ _) 1
  · exact (h.setTiles tiles false).of_same rfl rfl
  · exact fun _ => rfl

@[simp] theorem transform (h : TrapKept s₀ s) (d : BitVec 5) (q : BitVec 1) (src : Nat × Nat) (dst n lat : Nat) (work : XWork)
    (bad : Option Flt) (early : Bool) : TrapKept s₀ (s.transform d q src dst n lat work bad early) := by
  unfold State.transform
  split
  · exact h.waitOr _
  · have hlog : TrapKept s₀ (match bad with
        | some f => s.logFault (s.whoCur true) (f.on pTR .rd)
        | none => s) := by
      split
      · exact h.logFault _ _
      · exact h
    refine launchXfer ?_ _ _ _
    split
    · exact hlog
    · exact hlog.beginStream _ _ _

@[simp] theorem copyRows (h : TrapKept s₀ s) (d a : BitVec 5) (x : Shape) (sc f q : BitVec 1) (pieces : List (Nat × Nat))
    (limit : Option (Nat × Nat)) : TrapKept s₀ (s.copyRows d a x sc f q pieces limit) := by
  unfold State.copyRows
  dsimp only
  split
  · exact h.raise _
  · split
    · exact h.raise _
    · exact h.launchXfer _ _ _

theorem modChan (h : TrapKept s₀ s) (c : Nat) (ch : BitVec 6) (f : Chan → Chan) : TrapKept s₀ (s.modChan c ch f) := h.of_same rfl rfl

theorem modCall (h : TrapKept s₀ s) (id : Nat) (f : Call → Call) : TrapKept s₀ (s.modCall id f) := h.of_same rfl rfl

theorem calls (h : TrapKept s₀ s) (cs : List Call) : TrapKept s₀ { s with calls := cs } := h.of_same rfl rfl

theorem closeCall (h : TrapKept s₀ s) (id : Nat) : TrapKept s₀ (s.closeCall id) := by
  unfold State.closeCall
  dsimp only
  split
  · exact h
  · split
    · exact h
    · next c _ _ =>
      have hpost : TrapKept s₀ (if c.post = true then s.postEvent (ctlOf (clusterOf c.unit)) c.event else s) := by
        split
        · exact h.postEvent _ _
        · exact h
      refine calls ?_ _
      split
      · split
        · exact hpost.of_same rfl rfl
        · exact hpost
      · exact hpost

theorem endCall (h : TrapKept s₀ s) (id : Nat) (status : Byte) (value : Word) (count : Nat) (flg : BitVec 5) :
    TrapKept s₀ (s.endCall id status value count flg) := by
  unfold State.endCall
  split
  · exact h
  · split
    · exact h
    · refine closeCall ?_ _
      exact h.of_same rfl rfl

theorem callFault (h : TrapKept s₀ s) (id : Nat) (f : Flt) : TrapKept s₀ (s.callFault id f) := by
  unfold State.callFault
  split
  · exact h
  · exact (h.logFault _ _).endCall _ _ _ _ _

theorem finishNorm (h : TrapKept s₀ s) (id : Nat) : TrapKept s₀ (s.finishNorm id) := by
  unfold State.finishNorm
  dsimp only
  split
  · exact h
  · split
    · exact h
    · exact h.endCall _ _ _ _ _

theorem finishTiles (h : TrapKept s₀ s) (id : Nat) : TrapKept s₀ (s.finishTiles id) := by
  unfold State.finishTiles
  dsimp only
  split
  · exact h
  · split
    · exact h
    · split
      · exact h.endCall _ _ _ _ _
      · exact (h.modCall _ _).finishNorm _

theorem fillTile (h : TrapKept s₀ s) (c : Call) (i : Nat) : TrapKept s₀ (s.fillTile c i) := by
  unfold State.fillTile
  dsimp only
  split
  · exact h
  · exact h.of_same rfl rfl

theorem arm (h : TrapKept s₀ s) (c : Call) : TrapKept s₀ (s.arm c) := by
  unfold State.arm
  dsimp only
  split
  · exact h.callFault _ _
  · split
    · exact (foldl _ (fun t i ht => ht.fillTile _ i) (((h.setTiles _ _).modCall _ _).modChan _ _ _)).finishTiles _
    · exact ((h.setTiles _ _).modCall _ _).modChan _ _ _

theorem clearOwn (h : TrapKept s₀ s) (id : Nat) (ts : List Nat) : TrapKept s₀ (s.clearOwn id ts) := (h.setTiles ts false).modCall _ _

theorem issueCall (h : TrapKept s₀ s) (ch : BitVec 6) (bad : Option Flt) {f : State → State} (hf : ∀ t, TrapKept s₀ t → TrapKept s₀ (f t)) :
    TrapKept s₀ (s.issueCall ch bad f) := by
  unfold State.issueCall
  split
  · exact h
  · split
    · exact h.raise _
    · exact hf s h

theorem openCall (h : TrapKept s₀ s) (ch : BitVec 6) (recv : Bool) (d : Option (BitVec 5)) (f : Call → Call) {go : Call → State → State}
    (hgo : ∀ c t, TrapKept s₀ t → TrapKept s₀ (go c t)) : TrapKept s₀ (s.openCall ch recv d f go) := by
  unfold State.openCall
  extract_lets c x seq s1 call0 call s2 s3 s4
  have hopened : TrapKept s₀ s2 := h.of_same rfl rfl
  have hgone : TrapKept s₀ s3 := by
    show TrapKept s₀ (if x.aborted then s2.endCall call.id 2 0 0 0 else go call s2)
    split
    · exact hopened.endCall _ _ _ _ _
    · exact hgo call s2 hopened
  refine issued (?_ : TrapKept s₀ (match d with
    | some d => if call.bears then s3 else s3.result 2 [(.s (s3.ps d), .scalar (seq.setWidth 64))] 0
    | none => s3)) 1
  split
  · split
    · exact hgone
    · exact hgone.result _ _ _
  · exact hgone

@[simp] theorem receive (h : TrapKept s₀ s) (ch : BitVec 6) (a n d : BitVec 5) (q : BitVec 1) (kind : Nat) (usable : Chan → Bool) :
    TrapKept s₀ (s.receive ch a n d q kind usable) := by
  unfold State.receive
  refine h.issueCall _ _ fun t ht => ?_
  dsimp only
  split
  · exact ht
  · exact ht.openCall _ _ _ _ fun c r hr => hr.arm c

theorem pause (h : TrapKept s₀ s) (c : BitVec 3) (chs : List (BitVec 6)) : TrapKept s₀ (s.pause c chs) :=
  h.foldl chs fun _ _ ht => ht.modChan _ _ _

@[simp] theorem pauseHold (h : TrapKept s₀ s) (chs : List (BitVec 6)) : TrapKept s₀ (s.pauseHold chs) := by
  unfold State.pauseHold
  dsimp only
  split
  · exact h.pause _ _
  · exact (h.pause _ _).issued 1

@[simp] theorem resumeChans (h : TrapKept s₀ s) (c : BitVec 3) (chs : List (BitVec 6)) : TrapKept s₀ (s.resumeChans c chs) :=
  of_same (h.foldl chs fun _ _ ht => ht.modChan _ _ _) rfl rfl

end TrapKept

end Sys2Proof.Machine

namespace Sys2Proof.Machine

open Sys2Proof.Safety

namespace TrapKept

variable {s₀ s : State}

/-! ### Operations whose effect continues after a check, a grant or an opened call -/

theorem execStv (h : TrapKept s₀ s) (v : BitVec 6) (b : BitVec 5) (f : BitVec 4) (c p : BitVec 2) :
    Goes (execStv v b f c p s) (TrapKept s₀) := by
  dsimp only [Machine.execStv]
  split
  · exact goes_next.2 (h.raise _)
  · exact goes_next.2 (h.storeTo _ _ _ _ _ fun _ _ ht => ht)

theorem execStr (h : TrapKept s₀ s) (v : BitVec 6) (b n : BitVec 5) (p : BitVec 2) (m : BitVec 1) :
    Goes (execStr v b n p m s) (TrapKept s₀) :=
  goes_next.2 (h.storeTo _ _ _ _ _ fun _ _ ht => ht.result _ _ _)

theorem execStvr (h : TrapKept s₀ s) (v : BitVec 6) (i n : BitVec 5) (x : BitVec 3) (e y : BitVec 1) (c p : BitVec 2) :
    Goes (execStvr v i n x e y c p s) (TrapKept s₀) := by
  dsimp only [Machine.execStvr]
  split
  · exact goes_next.2 (h.raise _)
  · split
    · exact goes_next.2 (h.raise _)
    · split
      · exact goes_next.2 (h.raise _)
      · exact goes_next.2 (h.storeTo _ _ _ _ _ fun _ _ ht => ht)

theorem execMscl (h : TrapKept s₀ s) (m : BitVec 2) (b : BitVec 5) (o : BitVec 15) : Goes (execMscl m b o s) (TrapKept s₀) := by
  dsimp only [Machine.execMscl]
  split
  · exact goes_next.2 (h.raise _)
  · exact goes_next.2 (h.raise _)
  · split
    · exact goes_next.2 h
    · exact goes_next.2 (h.grant _ _ fun t ht => (ht.land _ fun _ => id).issued 1)

theorem execStar (h : TrapKept s₀ s) (d a : BitVec 5) (n : BitVec 7) (f : BitVec 4) : Goes (execStar d a n f s) (TrapKept s₀) := by
  dsimp only [Machine.execStar]
  split
  · exact goes_next.2 (h.raise _)
  · split
    · exact goes_next.2 (h.raise _)
    · split
      · split
        · exact goes_next.2 h
        · split
          · exact goes_next.2 (h.raise _)
          · exact goes_next.2 (h.grant _ _ fun t ht => (ht.fly _).issued _)
      · exact goes_next.2 h

theorem execRoopen (h : TrapKept s₀ s) (d b c : BitVec 5) (w : BitVec 6) : Goes (execRoopen d b c w s) (TrapKept s₀) := by
  dsimp only [Machine.execRoopen]
  split
  · exact goes_next.2 (h.raise _)
  · exact goes_next.2 (h.raise _)
  · exact goes_next.2 (h.grant _ _ fun t ht => (ht.fly _).issued 1)

theorem execTgrow (h : TrapKept s₀ s) (d n : BitVec 5) : Goes (execTgrow d n s) (TrapKept s₀) := by
  have hgrow (g : Group) : TrapKept s₀ (s.modGroup g fun g => { g with growing := g.growing + 1 }) := h.of_same rfl rfl
  dsimp only [Machine.execTgrow]
  split
  · exact goes_next.2 (h.raise _)
  · split
    · exact goes_next.2 (h.raise _)
    · split
      · exact goes_next.2 (h.raise _)
      · split
        · exact goes_next.2 (h.raise _)
        · exact goes_next.2 (((hgrow _).fly _).issued 1)

theorem execNotify (h : TrapKept s₀ s) (v : BitVec 11) : Goes (execNotify v s) (TrapKept s₀) := by
  have hsend : TrapKept s₀ (s.sendVector v.toNat) := h.of_same rfl rfl
  dsimp only [Machine.execNotify]
  split
  · exact goes_next.2 h
  · exact goes_next.2 (hsend.issued 1)

theorem execMldb (h : TrapKept s₀ s) (g : BitVec 2) (a : BitVec 5) (f : BitVec 3) (sc : BitVec 2) (x : BitVec 1) :
    Goes (execMldb g a f sc x s) (TrapKept s₀) := by
  dsimp only [Machine.execMldb]
  split
  · exact goes_next.2 h
  · exact goes_next.2 (h.withOperand _ _ _ _ _ fun t ht => ((ht.beginStream _ _ _).beginLoad _).issued 1)

theorem execMgenbAdd (h : TrapKept s₀ s) (n : BitVec 4) (sd : BitVec 3) (c b l : BitVec 5) (f : BitVec 2) :
    Goes (execMgenbAdd n sd c b l f s) (TrapKept s₀) := by
  dsimp only [Machine.execMgenbAdd]
  split
  · exact goes_next.2 h
  · refine goes_next.2 (h.withOperand _ _ _ _ _ fun t ht => ?_)
    split
    · exact ht
    · exact ht.genLoad _ _ _ _ _ _

theorem execMmag (h : TrapKept s₀ s) (a : BitVec 3) (n : BitVec 4) (e : BitVec 3) (c : BitVec 5) (m : BitVec 7) (f : BitVec 3) :
    Goes (execMmag a n e c m f s) (TrapKept s₀) := by
  dsimp only [Machine.execMmag]
  split
  · exact goes_next.2 h
  · split
    · exact goes_next.2 (h.raise _)
    · exact goes_next.2 (h.raise _)
    · refine goes_next.2 ?_
      split
      · exact ((h.streamRows _ _ _).genBegin _ _ _).issued _
      · exact (((h.streamRows _ _ _).boundAt _ _ _).genBegin _ _ _).issued _

theorem execMdrs (h : TrapKept s₀ s) (a : BitVec 3) (g : BitVec 2) (b r : BitVec 5) (f : BitVec 3) :
    Goes (execMdrs a g b r f s) (TrapKept s₀) := by
  dsimp only [Machine.execMdrs]
  split
  · exact goes_next.2 (h.raise _)
  · exact goes_next.2 ((foldl _ (fun t q ht => ht.fly _) (h.setTiles _ _)).issued 1)

theorem execMadp (h : TrapKept s₀ s) (a : BitVec 3) (g : BitVec 2) (b : BitVec 5) (v : BitVec 6) (p : BitVec 2) (m : BitVec 7) :
    Goes (execMadp a g b v p m s) (TrapKept s₀) := by
  dsimp only [Machine.execMadp]
  split
  · exact goes_next.2 (h.raise _)
  · refine goes_next.2 (h.withOperand _ _ _ _ _ fun t ht => ((beginStream ?_ _ _ _).issued _).holdPorts _ _)
    exact ht.of_same rfl rfl

theorem modCtx (h : TrapKept s₀ s) (n : Nat) (f : Ctx → Ctx) : TrapKept s₀ (s.modCtx n f) := h.of_same rfl rfl

theorem execMadt (h : TrapKept s₀ s) (d i a b : BitVec 5) : Goes (execMadt d i a b s) (TrapKept s₀) := by
  dsimp only [Machine.execMadt]
  split
  · exact goes_next.2 (h.raise _)
  · exact goes_next.2 (((h.modCtx _ _).result _ _ _).issued 8)

theorem execMbase (h : TrapKept s₀ s) (a : BitVec 5) : Goes (execMbase a s) (TrapKept s₀) := goes_next.2 ((h.modCtx _ _).issued 8)

theorem execMswap (h : TrapKept s₀ s) : Goes (execMswap s) (TrapKept s₀) := by
  unfold Machine.execMswap
  split
  · exact goes_next.2 h
  · exact goes_next.2 ((h.modEng _ _).issued 1)

theorem execGeval (h : TrapKept s₀ s) (v : BitVec 6) (n : BitVec 4) (sd : BitVec 3) (c l : BitVec 5) (a : BitVec 1) :
    Goes (execGeval v n sd c l a s) (TrapKept s₀) := by
  dsimp only [Machine.execGeval]
  split
  · exact goes_next.2 h
  · split
    · exact goes_next.2 (h.raise _)
    · split
      · exact goes_next.2 (h.raise _)
      · refine goes_next.2 ?_
        split
        · refine (result ?_ _ _ _).issued _
          split
          · exact h
          · exact h.genBegin _ _ _
        · exact ((h.genBegin _ _ _).boundAt _ _ _).issued _

theorem execImload (h : TrapKept s₀ s) (t a : BitVec 5) (q : BitVec 1) : Goes (execImload t a q s) (TrapKept s₀) := by
  dsimp only [Machine.execImload]
  split
  · exact goes_next.2 (h.waitOr _)
  · exact goes_next.2 ((h.setCoherent _ _ _).launchXfer _ _ _)

theorem execChdef (h : TrapKept s₀ s) (ch : BitVec 6) (b d : BitVec 5) : Goes (execChdef ch b d s) (TrapKept s₀) := by
  dsimp only [Machine.execChdef]
  split
  · exact goes_next.2 h
  · split
    · split
      · exact goes_next.2 ((h.tlbAdd _ _).coAdmit _ _ _ _ fun t ht => (ht.fly _).issued 1)
      · exact goes_next.2 (((h.tlbAdd _ _).fly _).issued 1)
    · exact goes_next.2 ((h.fly _).issued 1)

/-- A call that is opened and waits for what arrives. -/
theorem openIdle (h : TrapKept s₀ s) (ch : BitVec 6) (bad : Option Flt) (d : Option (BitVec 5)) (f : State → Call → Call) :
    TrapKept s₀ (s.issueCall ch bad fun s => s.openCall ch false d (f s) fun _ t => t) :=
  h.issueCall _ _ fun _ ht => ht.openCall _ _ _ _ fun _ _ hr => hr

theorem execCsend (h : TrapKept s₀ s) (ch : BitVec 6) (a n d : BitVec 5) (q : BitVec 1) : Goes (execCsend ch a n d q s) (TrapKept s₀) :=
  goes_next.2 (h.openIdle _ _ _ _)

theorem execCswr (h : TrapKept s₀ s) (ch : BitVec 6) (v d : BitVec 5) (o : BitVec 3) (q : BitVec 1) :
    Goes (execCswr ch v d o q s) (TrapKept s₀) :=
  goes_next.2 (h.openIdle _ _ _ _)

theorem execCdig (h : TrapKept s₀ s) (ch : BitVec 6) (a n : BitVec 5) (q : BitVec 1) : Goes (execCdig ch a n q s) (TrapKept s₀) :=
  goes_next.2 (h.openIdle _ _ _ _)

theorem execGagree (h : TrapKept s₀ s) (ch : BitVec 6) (v d : BitVec 5) (q : BitVec 1) : Goes (execGagree ch v d q s) (TrapKept s₀) :=
  goes_next.2 (h.openIdle _ _ _ _)

theorem execCa2ac (h : TrapKept s₀ s) (ch : BitVec 6) (a d : BitVec 5) (q : BitVec 1) : Goes (execCa2ac ch a d q s) (TrapKept s₀) := by
  refine goes_next.2 (h.issueCall _ _ fun _ ht => ht.openCall _ _ _ _ fun c t ht => ?_)
  split
  · exact ht.clearOwn _ _
  · exact ht

theorem execCa2ap (h : TrapKept s₀ s) (ch : BitVec 6) (a d : BitVec 5) (q : BitVec 1) : Goes (execCa2ap ch a d q s) (TrapKept s₀) := by
  refine goes_next.2 (h.issueCall _ _ fun t ht => ?_)
  extract_lets x c n fill
  split
  · exact ht.openCall _ _ _ _ fun _ _ hr => hr.callFault _ _
  · extract_lets bs waits admitted
    have hadmitted {f : State → State} (hf : ∀ r, TrapKept s₀ r → TrapKept s₀ (f r)) : TrapKept s₀ (admitted f) := by
      simp only [admitted]
      split
      · exact hf t ht
      · exact ht.coAdmit _ _ _ _ hf
    split
    · exact ht
    · refine hadmitted fun r hr => hr.openCall _ _ _ _ fun e r' hr' => ?_
      split
      · exact hr'.callFault _ _
      · split
        · exact hr'
        · split
          · exact hr'.callFault _ _
          · exact ((hr'.clearOwn _ _).modCall _ _).setTiles _ _

theorem execLbrk (h : TrapKept s₀ s) : Goes (execLbrk s) (TrapKept s₀) := by
  dsimp only [Machine.execLbrk]
  split
  · exact goes_next.2 (h.raise _)
  · exact goes_next.2 ((h.redirect _).issued 1)

/-- RETIRE takes what halts out of supervisor mode, and drops results on their way. -/
theorem execRetire (h : TrapKept s₀ s) : Goes (execRetire s) (TrapKept s₀) := by
  have hpart (t : Task) : TrapKept s₀ (s.modUnit s.u fun x => { x.halt s.u with task := some t }) :=
    h.modUnit _ fun x => x.halt_trap _
  dsimp only [Machine.execRetire]
  split
  · exact goes_next.2 h
  · split
    · exact goes_next.2 (h.stopCtl _ _)
    · split
      · exact goes_next.2 (h.modUnit _ fun x => x.halt_trap _)
      · split
        · split
          · exact goes_next.2 (h.endTask _ _)
          · exact goes_next.2 h
        · exact goes_next.2 ((hpart _).freeTask _ _)

theorem execFrame (h : TrapKept s₀ s) : Goes (execFrame s) (TrapKept s₀) := by
  unfold Machine.execFrame
  split
  · refine goes_next.2 (issued (h.modUnit _ ?_) 1)
    exact fun _ => ⟨rfl, rfl, rfl, rfl, id⟩
  · exact goes_next.2 h

theorem execFrameX (h : TrapKept s₀ s) : Goes (execFrameX s) (TrapKept s₀) := by
  unfold Machine.execFrameX
  split
  · refine goes_next.2 (issued (h.modUnit _ ?_) 1)
    exact fun _ => ⟨rfl, rfl, rfl, rfl, id⟩
  · exact goes_next.2 h

/-! ### Operations with an exposed result -/

theorem execCall (h : TrapKept s₀ s) (o : BitVec 16) : Goes (execCall o s) (TrapKept s₀) := goes_next.2 ((h.land _ fun _ => id).branch _ _)

theorem execSetrm (h : TrapKept s₀ s) (m : BitVec 3) : Goes (execSetrm m s) (TrapKept s₀) := goes_next.2 ((h.land _ fun _ => id).issued 1)

theorem execSetefr (h : TrapKept s₀ s) (t : BitVec 2) (v : BitVec 16) : Goes (execSetefr t v s) (TrapKept s₀) :=
  goes_next.2 ((h.land _ fun _ => id).issued 1)

theorem execRfmode (h : TrapKept s₀ s) (m : BitVec 8) : Goes (execRfmode m s) (TrapKept s₀) := by
  dsimp only [Machine.execRfmode]
  split
  · exact goes_next.2 h
  · exact goes_next.2 ((h.land _ fun _ => id).issued 1)

theorem execGetsp (h : TrapKept s₀ s) (d : BitVec 5) (p : BitVec 12) : Goes (execGetsp d p s) (TrapKept s₀) := by
  unfold Machine.execGetsp
  split
  · exact goes_next.2 (h.raise _)
  · split
    · exact goes_next.2 (h.raise _)
    · exact goes_next.2 ((h.land _ fun _ => id).issued 1)

theorem execMzero (h : TrapKept s₀ s) (a : BitVec 3) : Goes (execMzero a s) (TrapKept s₀) := by
  unfold Machine.execMzero
  split
  · exact goes_next.2 (h.waitOr _)
  · exact goes_next.2 ((h.land _ fun _ => id).issued 1)

end TrapKept

/-! ### SETSP (R148, R163) -/

/-- In user mode no write of a supervisor register passes SETSP's check. -/
theorem spFault_of_supervises {s : State} (huser : s.InUser) {p : BitVec 12} {v : BitVec 64} (hp : (Land.spr p v).Supervises) :
    s.spFault p ≠ none := by
  obtain ⟨hsup, hctl⟩ := huser
  have hnum : p.toNat = 0x030 ∨ 0x040 ≤ p.toNat ∧ p.toNat ≤ 0x051 := by
    simpa [Land.Supervises, BitVec.le_def, ← BitVec.toNat_inj] using hp
  have hguarded : (p.toNat == 0x030 || (0x040 ≤ p.toNat && p.toNat ≤ 0x051)) = true := by simpa using hnum
  unfold State.spFault
  dsimp only
  rw [hguarded, hsup, hctl]
  split <;> simp

/-- SETSP is refused, turns the front end, or leaves a write that its check passed on its way. -/
theorem execSetsp_trapKept {s : State} (h : UnitsOk s) (a : BitVec 5) (p : BitVec 12) : Goes (execSetsp a p s) (TrapKept s) := by
  have hs := TrapKept.refl h
  dsimp only [execSetsp]
  split
  · exact goes_next.2 (hs.raise _)
  · next hpass =>
    split
    · exact goes_next.2 ((hs.redirect _).issued 1)
    · split
      · exact goes_next.2 (hs.raise _)
      · exact goes_next.2 ((hs.land 1 fun huser hp => spFault_of_supervises huser hp hpass).issued 1)

/-! ### Every operation of a slot -/

/-- An operation of a slot keeps the trap state of every unit, enters supervisor mode in none, and in user mode leaves no write of a
supervisor register on its way. -/
theorem exec_trapKept {s : State} (hunits : UnitsOk s) (i : Instr) (hi : i.slotKind ≠ none) : Goes (exec i s) (TrapKept s) := by
  have h := TrapKept.refl hunits
  cases i
  -- The rows of the table without an encoding stand in no slot.
  any_goals exact absurd rfl hi
  case setsp => exact execSetsp_trapKept hunits _ _
  case stv => exact h.execStv _ _ _ _ _
  case str => exact h.execStr _ _ _ _ _
  case stvr => exact h.execStvr _ _ _ _ _ _ _ _
  case mscl => exact h.execMscl _ _ _
  case star => exact h.execStar _ _ _ _
  case roopen => exact h.execRoopen _ _ _ _
  case tgrow => exact h.execTgrow _ _
  case notify => exact h.execNotify _
  case mldb => exact h.execMldb _ _ _ _ _
  case mgenbAdd => exact h.execMgenbAdd _ _ _ _ _ _
  case mmag => exact h.execMmag _ _ _ _ _ _
  case mdrs => exact h.execMdrs _ _ _ _ _
  case madp => exact h.execMadp _ _ _ _ _ _
  case madt => exact h.execMadt _ _ _ _
  case mbase => exact h.execMbase _
  case mswap => exact h.execMswap
  case geval => exact h.execGeval _ _ _ _ _ _
  case imload => exact h.execImload _ _ _
  case chdef => exact h.execChdef _ _ _
  case csend => exact h.execCsend _ _ _ _ _
  case cswr => exact h.execCswr _ _ _ _ _
  case cdig => exact h.execCdig _ _ _ _
  case gagree => exact h.execGagree _ _ _ _
  case ca2ac => exact h.execCa2ac _ _ _ _
  case ca2ap => exact h.execCa2ap _ _ _ _
  case lbrk => exact h.execLbrk
  case retire => exact h.execRetire
  case frame => exact h.execFrame
  case frameX => exact h.execFrameX
  case call => exact h.execCall _
  case setrm => exact h.execSetrm _
  case setefr => exact h.execSetefr _ _
  case rfmode => exact h.execRfmode _
  case getsp => exact h.execGetsp _ _
  case mzero => exact h.execMzero _
  case fencei | brswap | waitt | vsplat | viota | viotaSeg | vslice | vcat | vpick | vsegset | vsegclr | vspread |
    vscan | ldr | ldvr | shwin | shchk | shq | waitf | fence | xfence | drain | bfinV | launch | mgenbPure | mcop | mdrv | mdrvRag |
    gload | gfree | cpy | cpyZ | cpyr | xpose | xcvt | xexp | cwaitt | sysret | sysretS =>
    dsimp only [exec, execFencei, execBrswap, execWaitt, execVsplat, execViota, execViotaSeg, execVslice,
      execVcat, execVpick, execVsegset, execVsegclr, execVspread, execVscan, execLdr, execLdvr, execShwin, execShchk, execShq, execWaitf,
      execFence, execXfence, execDrain, execBfinV, execLaunch, execMgenbPure, execMcop, execMdrv, execMdrvRag, execGload,
      execGfree, execCpy, execCpyZ, execCpyr, execXpose, execXcvt, execXexp, execCwaitt, execSysret, execSysretS, State.execReturn,
      State.statusTo]
    repeat' split
    all_goals simp [goes_next, h]
  all_goals exact ⟨_, rfl, by simp [h, State.floatOut, State.fpVec, State.intVec, State.maskOp, State.loadScalar, State.reduceVec,
    State.statusTo]⟩

end Sys2Proof.Machine

namespace Sys2Proof.Laws

open Sys2Proof.Machine Sys2Proof.Safety

/-- Settles O59: every operation keeps trap state and mode; of what it leaves on its way only SETSP's write could be one of a supervisor
register, and in user mode its check refuses those. -/
theorem userModeKeepsTrapState : Obligations.UserModeKeepsTrapState := by
  intro i s t hunits hi hexec
  obtain ⟨t', ht', hkept⟩ := exec_trapKept hunits i hi
  obtain rfl := Host.Outcome.next.inj (hexec.symm.trans ht')
  refine ⟨hkept.units, fun hsup hctl l hl hnew n v hwhat => not_or.1 ?_⟩
  have hplain := (hkept.landings ⟨hsup, hctl⟩ l hl).resolve_left hnew
  rwa [hwhat] at hplain

end Sys2Proof.Laws

namespace Sys2Proof.Machine

open Sys2Proof.Safety

/-! ## Exposed results of sq (R44, R157) -/

theorem State.scalarOut_lands (s : State) (lat : Nat) (d : BitVec 5) (v : BitVec 64) (f : Flags) :
    Lands lat (.scalar (s.ps d) v f) s (s.scalarOut lat d v f) := s.land_issued lat _

theorem State.guardOut_lands (s : State) (lat : Nat) (g : BitVec 2) (b : Bool) (f : Flags) :
    Lands lat (.guard g b f) s (s.guardOut lat g b f) := s.land_issued lat _

theorem scalarIn_of {i : Instr} {s : State} {lat : Nat} {d : BitVec 5} {v v' : BitVec 64}
    (h : exec i s = .next (s.scalarOut lat d v 0)) (hv : v = v') : ScalarIn i s lat d v' :=
  ⟨_, h, hv ▸ s.scalarOut_lands lat d v 0⟩

theorem guardIn_of {i : Instr} {s : State} {g : BitVec 2} {b b' : Bool}
    (h : exec i s = .next (s.guardOut 1 g b 0)) (hb : b = b') : GuardIn i s g b' :=
  ⟨_, h, hb ▸ s.guardOut_lands 1 g b 0⟩

/-- An FP32 result is zero-extended into its destination (R167). -/
theorem floatIn_of {i : Instr} {s : State} {lat : Nat} {d : BitVec 5} {r : Res} (h : exec i s = .next (s.floatOut lat d r)) :
    Goes (exec i s) (Lands lat (.scalar (s.ps d) ((BitVec.ofNat 32 r.1).setWidth 64) r.2) s) := by
  have hlow : (BitVec.ofNat 32 r.1).setWidth 64 = BitVec.ofNat 64 (r.1 % 2 ^ 32) := BitVec.eq_of_toNat_eq (by simp)
  rw [hlow]
  exact ⟨_, h, s.scalarOut_lands lat d _ _⟩

theorem bit1_iff (u : BitVec 1) : bit1 u = true ↔ u = 1 := beq_iff_eq

/-! ## Values of integer results (R164) -/

theorem mul_eq_low (x y : BitVec 64) : x * y = (x.setWidth 128 * y.setWidth 128).extractLsb' 0 64 := by
  rw [← BitVec.setWidth_eq_extractLsb' (by decide), BitVec.setWidth_mul _ _ (by decide)]
  simp

theorem mulHigh_unsigned (x y : BitVec 64) :
    mulHigh true x y = (x.setWidth 128 * y.setWidth 128).extractLsb' 64 64 := by
  have hprod : x.toNat * y.toNat < 2 ^ 64 * 2 ^ 64 := Nat.mul_lt_mul'' x.isLt y.isLt
  apply BitVec.eq_of_toNat_eq
  simp only [mulHigh, if_true, Nat.reducePow, BitVec.toNat_ofNat, BitVec.extractLsb'_toNat, BitVec.toNat_mul, BitVec.toNat_setWidth,
    Nat.mul_mod_mod, Nat.mod_mul_mod, Nat.shiftRight_eq_div_pow]
  omega

/-- Bits [127:64] of a product in two's complement are its quotient by 2^64, rounded down. -/
theorem mulHigh_signed (x y : BitVec 64) :
    mulHigh false x y = (x.signExtend 128 * y.signExtend 128).extractLsb' 64 64 := by
  rw [BitVec.signExtend, BitVec.signExtend, ← BitVec.ofInt_mul]
  apply BitVec.eq_of_toNat_eq
  simp only [mulHigh, Bool.false_eq_true, if_false, Int.reducePow, BitVec.toNat_ofInt, Nat.reducePow, Nat.cast_ofNat,
    BitVec.extractLsb'_toNat, Nat.shiftRight_eq_div_pow]
  omega

theorem mulHigh_eq (uns : Bool) (x y : BitVec 64) : mulHigh uns x y =
    if uns = true then (x.setWidth 128 * y.setWidth 128).extractLsb' 64 64
    else (x.signExtend 128 * y.signExtend 128).extractLsb' 64 64 := by
  cases uns
  · exact mulHigh_signed x y
  · exact mulHigh_unsigned x y

/-- Division truncates; the most negative number by -1 is itself, as the quotient wraps. -/
theorem divide_eq (uns : Bool) (x y : BitVec 64) :
    divide uns x y = if y = 0 then BitVec.allOnes 64 else if uns = true then x / y else x.sdiv y := by
  have hunsigned : BitVec.ofNat 64 (x.toNat / y.toNat) = x / y := by
    rw [← BitVec.toNat_udiv, BitVec.ofNat_toNat, BitVec.setWidth_eq]
  have hsigned : BitVec.ofInt 64 (x.toInt.tdiv y.toInt) = x.sdiv y := by
    rw [← BitVec.ofInt_toInt (x := x.sdiv y), BitVec.toInt_sdiv]
    apply BitVec.eq_of_toInt_eq
    simp
  simp only [divide, beq_iff_eq, hunsigned, hsigned]

/-- The lesser and the greater of two operands by an order: of two equal ones either is both. -/
theorem extremes_eq {α : Type} [LinearOrder α] {f : BitVec 64 → α} (hf : Function.Injective f) (x y : BitVec 64) :
    (if f y < f x then y else x) = (if f x ≤ f y then x else y) ∧ (if f x < f y then y else x) = if f x ≤ f y then y else x := by
  rcases lt_trichotomy (f x) (f y) with h | h | h
  · simp [h, h.le, h.not_gt]
  · simp [hf h]
  · simp [h, h.not_ge, h.not_gt]

theorem minimum_eq (uns : Bool) (x y : BitVec 64) : (if lower uns y x then y else x) =
    if uns = true then (if x ≤ y then x else y) else if x.toInt ≤ y.toInt then x else y := by
  cases uns
  · simpa [lower, BitVec.slt] using (extremes_eq (fun _ _ => BitVec.eq_of_toInt_eq) x y).1
  · simpa [lower, BitVec.ult, BitVec.le_def] using (extremes_eq (fun _ _ => BitVec.eq_of_toNat_eq) x y).1

theorem maximum_eq (uns : Bool) (x y : BitVec 64) : (if lower uns x y then y else x) =
    if uns = true then (if x ≤ y then y else x) else if x.toInt ≤ y.toInt then y else x := by
  cases uns
  · simpa [lower, BitVec.slt] using (extremes_eq (fun _ _ => BitVec.eq_of_toInt_eq) x y).2
  · simpa [lower, BitVec.ult, BitVec.le_def] using (extremes_eq (fun _ _ => BitVec.eq_of_toNat_eq) x y).2

/-- The highest set bit is bit 63 - CLZ (R164). -/
theorem leadingZeros_eq_clz (x : BitVec 64) : BitVec.ofNat 64 (leadingZeros x) = x.clz := by
  by_cases hx : x = 0
  · subst hx; rfl
  · have hlow := BitVec.two_pow_sub_clz_le_toNat_of_ne_zero (by decide) hx
    have hhigh := BitVec.toNat_lt_two_pow_sub_clz (x := x)
    have hle := BitVec.clz_lt_iff_ne_zero.2 hx
    have hne : x.toNat ≠ 0 := by simpa [← BitVec.toNat_inj] using hx
    have hlt : x.clz.toNat < 64 := by simpa [BitVec.lt_def] using hle
    have hlog : Nat.log2 x.toNat = 63 - x.clz.toNat := by
      rw [Nat.log2_eq_iff hne]
      exact ⟨hlow, by rwa [show 63 - x.clz.toNat + 1 = 64 - x.clz.toNat by omega]⟩
    apply BitVec.eq_of_toNat_eq
    rw [leadingZeros, if_neg (by simpa using hx), hlog, BitVec.toNat_ofNat]
    omega

theorem cpopNatRec_eq_countP {w : Nat} (x : BitVec w) (n acc : Nat) :
    x.cpopNatRec n acc = acc + (List.range n).countP fun i => x.getLsbD i := by
  induction n generalizing acc with
  | zero => simp
  | succ n ih =>
    rw [BitVec.cpopNatRec_succ, ih, List.range_succ, List.countP_append, List.countP_singleton]
    cases x.getLsbD n <;> simp [Nat.add_comm, Nat.add_left_comm]

theorem popCount_eq_cpop (x : BitVec 64) : BitVec.ofNat 64 (popCount x) = x.cpop := by
  rw [BitVec.cpop, cpopNatRec_eq_countP, Nat.zero_add, popCount]

/-- A shift amount is the low six bits of a register (R164). -/
theorem shiftAmount_eq (y : BitVec 64) : y.toNat % 64 = (y.extractLsb' 0 6).toNat := by
  rw [BitVec.extractLsb'_toNat, Nat.shiftRight_zero]

theorem rotateLeft_of_lt {n : Nat} (h : n < 64) (x : BitVec 64) : x.rotateLeft n = x <<< n ||| x >>> (64 - n) := by
  rw [BitVec.rotateLeft_def, Nat.mod_eq_of_lt h]

/-! ## Compares (R165) -/

theorem not_slt_eq (x y : BitVec 64) : (!x.slt y) = decide (y.toInt ≤ x.toInt) := by
  simp [BitVec.slt, ← decide_not]

theorem not_ult_eq (x y : BitVec 64) : (!x.ult y) = decide (y.toNat ≤ x.toNat) := by
  simp [BitVec.ult, ← decide_not]

theorem bne_eq_decide (x y : BitVec 64) : (x != y) = decide (x ≠ y) := (decide_not ..).symm

/-! ## Bit fields (R166) -/

theorem bitField_eq_toNat (x : BitVec 64) (p w : Nat) : bitField x p w = (x.extractLsb' p w).toNat := by
  rw [BitVec.extractLsb'_toNat, Nat.shiftRight_eq_div_pow, bitField]

/-- A bit field has its own sign where its top bit is at least half of its range (R166). -/
theorem extractField_eq (x : BitVec 64) (sgn : Bool) (p w : Nat) : extractField x sgn p (w + 1) =
    if sgn = true then (x.extractLsb' p (w + 1)).signExtend 64 else (x.extractLsb' p (w + 1)).setWidth 64 := by
  have hhalf : 2 ^ (w + 1) = 2 * 2 ^ w := Nat.pow_succ'
  have hbit (n : Nat) : 2 * n < 2 ^ (w + 1) ↔ ¬ 2 ^ w ≤ n := by omega
  cases sgn
  · simp only [extractField, bitField_eq_toNat, Bool.false_and, Bool.false_eq_true, if_false, BitVec.ofNat_toNat]
  · simp only [extractField, bitField_eq_toNat, BitVec.signExtend, BitVec.toInt_eq_toNat_cond, hbit, Bool.true_and, Nat.add_sub_cancel,
      decide_eq_true_eq, ite_not, apply_ite (BitVec.ofInt 64), BitVec.ofInt_natCast, Nat.cast_pow, Nat.cast_ofNat, if_true]

/-- A number with its bits [p+w-1:p] replaced, by what stands above them and below (R166). -/
theorem field_replaced (d f p w : Nat) :
    d - d / 2 ^ p % 2 ^ w * 2 ^ p + f * 2 ^ p = 2 ^ p * (2 ^ w * (d / 2 ^ p / 2 ^ w) + f) + d % 2 ^ p := by
  have hlow := Nat.div_add_mod d (2 ^ p)
  have hfield := congrArg (2 ^ p * ·) (Nat.div_add_mod (d / 2 ^ p) (2 ^ w))
  simp only [Nat.mul_add] at hfield ⊢
  rw [Nat.mul_comm _ (2 ^ p), Nat.mul_comm f]
  omega

/-- BFI bit by bit: the field's bits come from the source, the others stay (R166). -/
theorem getLsbD_insertField (d a : BitVec 64) (p w : Nat) {k : Nat} (hk : k < 64) :
    (insertField d a p w).getLsbD k = if p ≤ k ∧ k < p + w then a.getLsbD (k - p) else d.getLsbD k := by
  have hlow := Nat.mod_lt d.toNat (Nat.two_pow_pos p)
  have hfield := Nat.mod_lt a.toNat (Nat.two_pow_pos w)
  rw [insertField, bitField, field_replaced, BitVec.getLsbD_ofNat, decide_eq_true hk, Bool.true_and,
    Nat.testBit_two_pow_mul_add _ hlow, Nat.testBit_two_pow_mul_add _ hfield]
  simp only [Nat.testBit_mod_two_pow, Nat.testBit_div_two_pow, ← BitVec.testBit_toNat]
  by_cases hbelow : k < p
  · simp [hbelow]
  by_cases habove : k < p + w
  · simp [show k - p < w by omega, hbelow, habove, show p ≤ k by omega]
  · simp [show ¬ k - p < w by omega, hbelow, habove, show k - p - w + w + p = k by omega]

end Sys2Proof.Machine

namespace Sys2Proof.Laws

open Sys2Proof.Machine Sys2Proof.Safety

/-! ## Words of integer instructions (R58, R158) -/

/-- Of an operation with no reserved bit and no width at stake, decode's checks refuse at most a value (R58). -/
theorem decodeSlot_of_valOk {k : SlotKind} {w : Word} {i : Instr} (hmajor : (major w == 0) = false) (hraw : rawDecode k w = .ok i)
    (hres : i.resOk = true) (hwidth : i.widthOk = true) :
    decodeSlot k w = if i.valOk then .ok (some i) else .error .value := by
  cases hval : i.valOk <;> simp [decodeSlot, ne_zero_of_major hmajor, hmajor, hraw, checked, hres, hwidth, hval]

/-- A word that the raw decoder of sq reads as a well-formed operation, or refuses for reserved bits. -/
theorem decodeSlot_sq_of_raw {w : Word} {n : Nat} {ok : Bool} {i : Instr} (hmajor : major w = n + 1) (hwf : i.wf = true)
    (hraw : rawDecodeSq w = if ok then .ok i else .error .reserved) :
    decodeSlot .sq w = if ok then .ok (some i) else .error .reserved := by
  have hne : (major w == 0) = false := by simp [hmajor]
  cases ok
  · simp [decodeSlot, ne_zero_of_major hne, hne, rawDecode, hraw]
  · exact decodeSlot_of_rawDecode hne hraw hwf

/-- A bit field past bit 63 is a reserved value (R166). -/
theorem decodeSlot_field (i : Instr) (hslot : i.slotKind = some .sq) (hres : i.resOk = true) (hwidth : i.widthOk = true) {p w : BitVec 6}
    (hval : i.valOk = decide (p.toNat + w.toNat + 1 ≤ 64)) :
    decodeSlot .sq (encode i) = if p.toNat + w.toNat + 1 ≤ 64 then .ok (some i) else .error .value := by
  obtain ⟨hmajor, hraw⟩ := Encoding.statement i .sq hslot
  rw [decodeSlot_of_valOk hmajor hraw hres hwidth, hval]
  simp only [decide_eq_true_eq]

theorem append_beq_append {n m : Nat} (x x' : BitVec n) (y y' : BitVec m) : (x ++ y == x' ++ y') = (x == x' && y == y') := by
  rw [Bool.eq_iff_iff, Bool.and_eq_true, beq_iff_eq, beq_iff_eq, beq_iff_eq]
  refine ⟨fun h => ?_, fun ⟨hx, hy⟩ => hx ▸ hy ▸ rfl⟩
  have hhi := congrArg (BitVec.extractLsb' m n) h
  have hlo := congrArg (BitVec.extractLsb' 0 m) h
  rw [BitVec.extractLsb'_append_eq_left, BitVec.extractLsb'_append_eq_left] at hhi
  rw [BitVec.extractLsb'_append_eq_right, BitVec.extractLsb'_append_eq_right] at hlo
  exact ⟨hhi, hlo⟩

theorem append_append_beq {n m l : Nat} (x x' : BitVec n) (y y' : BitVec m) (z z' : BitVec l) :
    (x ++ y ++ z == x' ++ y' ++ z') = (x == x' && y == y' && z == z') := by
  rw [append_beq_append, append_beq_append]

/-- A field is its upper part beside its lower part. -/
theorem fld_append_fld (w : Word) (lo n m : Nat) : fld w lo (n + m) = fld w (lo + m) n ++ fld w lo m :=
  (BitVec.extractLsb'_append_extractLsb'_eq_extractLsb' rfl).symm

section

variable {op : BitVec 7} {n : Nat} (hop : op.toNat = n + 1) (d a b : BitVec 5)

include hop

/-- Words of two registers and 15 unused bits (R158). -/
theorem decodeSlot_two {j : BitVec 5 → BitVec 5 → Instr}
    (hraw : ∀ w, major w = op.toNat → rawDecodeSq w =
      if fld w 0 15 == 0x0 then .ok (j (fld w 20 5) (fld w 15 5)) else .error .reserved) (e : BitVec 15)
    (hwf : ∀ d a, (j d a).wf = true := by intros; rfl) :
    decodeSlot .sq (op ++ d ++ a ++ e) = if e == 0 then .ok (some (j d a)) else .error .reserved := by
  obtain ⟨hmajor, hd, ha, he⟩ : let w : Word := op ++ d ++ a ++ e
      fld w 25 7 = op ∧ fld w 20 5 = d ∧ fld w 15 5 = a ∧ fld w 0 15 = e := by
    simp (disch := decide) only [fld, lo_of, hi_of, BitVec.extractLsb'_eq_self, Nat.reduceSub, Nat.sub_self, and_self]
  have h := hraw _ (congrArg BitVec.toNat hmajor)
  rw [hd, ha, he] at h
  exact decodeSlot_sq_of_raw ((congrArg BitVec.toNat hmajor).trans hop) (hwf d a) h

/-- Words of three registers and ten unused bits (R158). -/
theorem decodeSlot_three {j : BitVec 5 → BitVec 5 → BitVec 5 → Instr}
    (hraw : ∀ w, major w = op.toNat → rawDecodeSq w =
      if fld w 0 10 == 0x0 then .ok (j (fld w 20 5) (fld w 15 5) (fld w 10 5)) else .error .reserved) (r : BitVec 10)
    (hwf : ∀ d a b, (j d a b).wf = true := by intros; rfl) :
    decodeSlot .sq (op ++ d ++ a ++ b ++ r) = if r == 0 then .ok (some (j d a b)) else .error .reserved := by
  obtain ⟨hmajor, hd, ha, hb, hr⟩ : let w : Word := op ++ d ++ a ++ b ++ r
      fld w 25 7 = op ∧ fld w 20 5 = d ∧ fld w 15 5 = a ∧ fld w 10 5 = b ∧ fld w 0 10 = r := by
    simp (disch := decide) only [fld, lo_of, hi_of, BitVec.extractLsb'_eq_self, Nat.reduceSub, Nat.sub_self, and_self]
  have h := hraw _ (congrArg BitVec.toNat hmajor)
  rw [hd, ha, hb, hr] at h
  exact decodeSlot_sq_of_raw ((congrArg BitVec.toNat hmajor).trans hop) (hwf d a b) h

/-- Words of three registers, an unused I, U, and eight unused bits (R158). -/
theorem decodeSlot_four {j : BitVec 5 → BitVec 5 → BitVec 5 → BitVec 1 → Instr}
    (hraw : ∀ w, major w = op.toNat → rawDecodeSq w = if fld w 9 1 == 0x0 && fld w 0 8 == 0x0
      then .ok (j (fld w 20 5) (fld w 15 5) (fld w 10 5) (fld w 8 1)) else .error .reserved) (i u : BitVec 1) (h : BitVec 8)
    (hwf : ∀ d a b u, (j d a b u).wf = true := by intros; rfl) :
    decodeSlot .sq (op ++ d ++ a ++ b ++ i ++ u ++ h) =
      if i == 0 && h == 0 then .ok (some (j d a b u)) else .error .reserved := by
  obtain ⟨hmajor, hd, ha, hb, hi, hu, hh⟩ : let w : Word := op ++ d ++ a ++ b ++ i ++ u ++ h
      fld w 25 7 = op ∧ fld w 20 5 = d ∧ fld w 15 5 = a ∧ fld w 10 5 = b ∧ fld w 9 1 = i ∧ fld w 8 1 = u ∧ fld w 0 8 = h := by
    simp (disch := decide) only [fld, lo_of, hi_of, BitVec.extractLsb'_eq_self, Nat.reduceSub, Nat.sub_self, and_self]
  have h := hraw _ (congrArg BitVec.toNat hmajor)
  rw [hd, ha, hb, hi, hu, hh] at h
  exact decodeSlot_sq_of_raw ((congrArg BitVec.toNat hmajor).trans hop) (hwf d a b u) h

/-- Words of a shift: by a register where I is clear, by IMM6 where it is set, the other operand's field unused (R158). -/
theorem decodeSlot_shift {y : BitVec 5 → BitVec 5 → BitVec 5 → Instr} {z : BitVec 5 → BitVec 5 → BitVec 6 → Instr}
    (hraw : ∀ w, major w = op.toNat → rawDecodeSq w =
      if fld w 0 10 == 0x0 then .ok (y (fld w 20 5) (fld w 15 5) (fld w 10 5)) else
      if fld w 6 9 == 0x8 then .ok (z (fld w 20 5) (fld w 15 5) (fld w 0 6)) else .error .reserved) (o : BitVec 3) (k : BitVec 6)
    (hwfy : ∀ d a b, (y d a b).wf = true := by intros; rfl) (hwfz : ∀ d a k, (z d a k).wf = true := by intros; rfl) :
    decodeSlot .sq (op ++ d ++ a ++ b ++ 0#1 ++ o ++ k) =
        (if o == 0 && k == 0 then .ok (some (y d a b)) else .error .reserved) ∧
      decodeSlot .sq (op ++ d ++ a ++ b ++ 1#1 ++ o ++ k) =
        if b == 0 && o == 0 then .ok (some (z d a k)) else .error .reserved := by
  have hfields (i : BitVec 1) : let w : Word := op ++ d ++ a ++ b ++ i ++ o ++ k
      fld w 25 7 = op ∧ fld w 20 5 = d ∧ fld w 15 5 = a ∧ fld w 10 5 = b ∧ fld w 9 1 = i ∧ fld w 6 3 = o ∧ fld w 0 6 = k := by
    simp (disch := decide) only [fld, lo_of, hi_of, BitVec.extractLsb'_eq_self, Nat.reduceSub, Nat.sub_self, and_self]
  have hread (i : BitVec 1) : rawDecodeSq (op ++ d ++ a ++ b ++ i ++ o ++ k) =
      if i == 0 && o == 0 && k == 0 then .ok (y d a b) else if b == 0 && i == 1 && o == 0 then .ok (z d a k) else .error .reserved := by
    obtain ⟨hmajor, hd, ha, hb, hi, ho, hk⟩ := hfields i
    have h := hraw _ (congrArg BitVec.toNat hmajor)
    have hunused : (i ++ o ++ k == 0) = _ := append_append_beq i 0 o 0 k 0
    have hmarked : (b ++ i ++ o == 0x8) = _ := append_append_beq b 0 i 1 o 0
    rwa [fld_append_fld _ 0 4 6, fld_append_fld _ 6 1 3, fld_append_fld _ 6 6 3, fld_append_fld _ 9 5 1, hd, ha, hb, hi, ho, hk,
      hunused, hmarked] at h
  obtain ⟨hregister, -⟩ := hfields 0
  obtain ⟨himmediate, -⟩ := hfields 1
  refine ⟨decodeSlot_sq_of_raw ((congrArg BitVec.toNat hregister).trans hop) (hwfy d a b) ((hread 0).trans ?_),
    decodeSlot_sq_of_raw ((congrArg BitVec.toNat himmediate).trans hop) (hwfz d a k) ((hread 1).trans ?_)⟩
  · simp
  · simp

end

/-- Settles O2: each meaning is one result on its way, its value by the law of its function; the words by the forms that they have. -/
theorem integerResults : Obligations.IntegerResults := by
  refine ⟨fun s d a b i k u => ?_, fun s d a x p w i q h => ?_, fun s d a b g i => ?_, fun d a b i u x r h o k p w e => ?_⟩
  · have hn := shiftAmount_eq (s.rs b)
    refine ⟨scalarIn_of rfl rfl, scalarIn_of rfl rfl, scalarIn_of rfl rfl, scalarIn_of rfl (mul_eq_low _ _), scalarIn_of rfl ?_,
      scalarIn_of rfl ?_, scalarIn_of rfl rfl, scalarIn_of rfl rfl, scalarIn_of rfl rfl, scalarIn_of rfl (hn ▸ rfl),
      scalarIn_of rfl rfl, scalarIn_of rfl (hn ▸ rfl), scalarIn_of rfl rfl, scalarIn_of rfl (hn ▸ rfl), scalarIn_of rfl rfl,
      scalarIn_of rfl ?_, scalarIn_of rfl (rotateLeft_of_lt k.isLt _), scalarIn_of rfl ?_, scalarIn_of rfl ?_,
      scalarIn_of rfl (leadingZeros_eq_clz _), scalarIn_of rfl (popCount_eq_cpop _)⟩
    · simp only [mulHigh_eq, bit1_iff]
    · simp only [divide_eq, bit1_iff]
    · rw [hn]
      exact rotateLeft_of_lt (BitVec.isLt _) _
    · simp only [minimum_eq, bit1_iff]
    · simp only [maximum_eq, bit1_iff]
  · refine ⟨fun _ => ⟨scalarIn_of rfl ?_, _, scalarIn_of rfl rfl, fun k hk => ?_⟩, scalarIn_of rfl rfl, _, scalarIn_of rfl rfl,
      fun k hk => ?_⟩
    · simp only [extractField_eq, bit1_iff]
    · simpa only [Nat.add_assoc] using getLsbD_insertField (s.rs d) (s.rs a) p.toNat (w.toNat + 1) hk
    · rw [getLsbD_insertField _ _ _ _ hk, BitVec.getLsbD_setWidth, decide_eq_true (by omega), Bool.true_and]
  · exact ⟨guardIn_of rfl rfl, guardIn_of rfl rfl, guardIn_of rfl (bne_eq_decide _ _), guardIn_of rfl (bne_eq_decide _ _),
      guardIn_of rfl rfl, guardIn_of rfl rfl, guardIn_of rfl (not_slt_eq _ _), guardIn_of rfl (not_slt_eq _ _),
      guardIn_of rfl rfl, guardIn_of rfl rfl, guardIn_of rfl (not_ult_eq _ _), guardIn_of rfl (not_ult_eq _ _),
      scalarIn_of rfl rfl, scalarIn_of rfl rfl, guardIn_of rfl (bne_eq_decide _ _)⟩
  · refine ⟨decodeSlot_three rfl d a b ?_ r, decodeSlot_three rfl d a b ?_ r, decodeSlot_three rfl d a b ?_ r,
      decodeSlot_three rfl d a b ?_ r, decodeSlot_three rfl d a b ?_ r, decodeSlot_three rfl d a b ?_ r,
      decodeSlot_four rfl d a b ?_ i u h, decodeSlot_four rfl d a b ?_ i u h, decodeSlot_four rfl d a b ?_ i u h,
      decodeSlot_four rfl d a b ?_ i u h, decodeSlot_shift rfl d a b ?_ o k, decodeSlot_shift rfl d a b ?_ o k,
      decodeSlot_shift rfl d a b ?_ o k, decodeSlot_shift rfl d a b ?_ o k, decodeSlot_two rfl d a ?_ e, decodeSlot_two rfl d a ?_ e,
      decodeSlot_of_encode rfl rfl rfl, decodeSlot_field (.bfx d a x p w) rfl rfl rfl rfl,
      decodeSlot_field (.bfi d a p w) rfl rfl rfl rfl, decodeSlot_of_encode rfl rfl rfl, decodeSlot_of_encode rfl rfl rfl,
      decodeSlot_of_encode rfl rfl rfl⟩
    all_goals
      intro w hmajor
      unfold rawDecodeSq
      rw [hmajor]
      rfl

/-- Settles O3: each meaning is one result on its way, its value that of the shared operation. -/
theorem floatResults : Obligations.FloatResults := by
  intro s d a b c v g cc
  exact ⟨floatIn_of rfl, floatIn_of rfl, floatIn_of rfl, floatIn_of rfl, floatIn_of rfl, floatIn_of rfl, floatIn_of rfl,
    floatIn_of rfl, floatIn_of rfl, floatIn_of rfl, ⟨_, rfl, s.scalarOut_lands ..⟩, ⟨_, rfl, s.guardOut_lands ..⟩⟩

end Sys2Proof.Laws

namespace Sys2Proof.Machine

open Sys2Proof.Safety

/-! ## Branches (R159) -/

section

variable {s : State} {i : Instr}

theorem State.jump_turns (s : State) (t : BitVec 64) : Turns { s.me.front with pc := t } [] s (s.jump t) := s.redirect_issued _

theorem State.fall_turns (s : State) : Turns (s.me.front.after s.me.stream s.cur.op.addr) [] s s.fall := s.redirect_issued _

/-- A branch goes to its target or falls through. -/
theorem State.branch_turns (s : State) {taken : Bool} {P : Prop} [Decidable P] (h : taken = true ↔ P) (o : BitVec 16) :
    Turns (if P then { s.me.front with pc := s.target o } else s.me.front.after s.me.stream s.cur.op.addr) [] s (s.branch taken o) := by
  unfold State.branch
  simp only [h]
  split
  · exact s.jump_turns _
  · exact s.fall_turns

/-- A control operation that leaves a result on its way first. -/
theorem turns_of_land {f : Front} {lat : Nat} {w : Land} {t : State} (h : Turns f [] (s.land lat w) t) :
    Turns f [landingOf s lat w] s t := by
  obtain ⟨hown, hleft, hwait, hearliest, hlandings, hflights, hids, hdies, hways⟩ := h
  exact ⟨hown, hleft, hwait, hearliest, hlandings.trans (List.append_nil _), hflights, hids, hdies, hways⟩

theorem State.targetFault_stream (h : s.me.stream = true) (v : BitVec 64) :
    s.targetFault v = if v.toNat % 32 = 0 then none else some (align v 32) := by
  simp only [State.targetFault, h, if_true, bne_iff_ne, ne_eq, ite_not]

theorem State.targetFault_store (h : s.me.stream = false) (v : BitVec 64) : s.targetFault v =
    if v.toNat < 8192 ∧ (v.toNat / 4096 = 1 ↔ s.me.front.half = true) ∧ v.toNat % 4096 < halfSize s.u then none
    else some (prot 0x0D v) := by
  have hrange : v.toNat / 2 ^ 13 = 0 ↔ v.toNat < 8192 := by omega
  have hhalf : ((v.toNat / 4096 == 1) = s.me.front.half) ↔ (v.toNat / 4096 = 1 ↔ s.me.front.half = true) :=
    Bool.eq_iff_iff.trans (by rw [beq_iff_eq])
  simp only [State.targetFault, h, Bool.false_eq_true, if_false]
  rw [← ite_not]
  refine if_congr ?_ rfl rfl
  simp only [Bool.or_eq_true, bne_iff_ne, ne_eq, hrange, hhalf, decide_eq_true_eq, not_or, not_not, not_le, and_assoc]

/-- A jump to a register target that passes its checks, or their fault. -/
theorem jumpTo_goes {v : BitVec 64} (h : exec i s = .next (s.jumpTo v)) {P : Prop} [Decidable P] {f : Flt}
    (hfault : s.targetFault v = if P then none else some f) :
    if P then Goes (exec i s) (Turns { s.me.front with pc := v } [] s) else Goes (exec i s) (Raises f s) := by
  rw [State.jumpTo, hfault] at h
  split
  · next hP =>
    rw [if_pos hP] at h
    exact ⟨_, h, s.jump_turns v⟩
  · next hP =>
    rw [if_neg hP] at h
    exact ⟨_, h, s.raise_raises f⟩

/-- RET and JMPR by the checks of R159: alignment on a stream, range and half elsewhere. -/
theorem jumpTo_register {v : BitVec 64} (h : exec i s = .next (s.jumpTo v)) :
    let x := s.me
    let size : Nat := if isCtl s.u then 1024 else 4096
      if x.stream = true then
        (if v.toNat % 32 = 0 then Goes (exec i s) (Turns { x.front with pc := v } [] s)
         else Goes (exec i s) (Raises (align v 32) s))
      else if v.toNat < 8192 ∧ (v.toNat / 4096 = 1 ↔ x.front.half = true) ∧ v.toNat % 4096 < size then
        Goes (exec i s) (Turns { x.front with pc := v } [] s)
      else Goes (exec i s) (Raises (prot 0x0D v) s) := by
  intro x size
  split
  · next hstream => exact jumpTo_goes h (State.targetFault_stream hstream v)
  · next hstore => exact jumpTo_goes h (State.targetFault_store (Bool.eq_false_iff.2 hstore) v)

end

end Sys2Proof.Machine

namespace Sys2Proof.Laws

open Sys2Proof.Machine Sys2Proof.Safety

/-- Settles O4: a branch jumps or falls through, CALL leaves its result on its way first, RET and JMPR go by the checks of their target. -/
theorem branchResults : Obligations.BranchResults := by
  intro s a g t o
  have hguard : (s.rg g == bit1 t) = true ↔ s.rg g = decide (t = 1) := beq_iff_eq
  exact ⟨⟨_, rfl, s.jump_turns _⟩, ⟨_, rfl, s.branch_turns hguard o⟩, ⟨_, rfl, s.branch_turns beq_iff_eq o⟩,
    ⟨_, rfl, s.branch_turns bne_iff_ne o⟩, ⟨_, rfl, turns_of_land ((s.land 1 _).jump_turns _)⟩,
    jumpTo_register rfl, jumpTo_register rfl⟩

end Sys2Proof.Laws

namespace Sys2Proof.Machine

open Sys2Proof.Safety

/-! ## Loops (R150 to R153, R160) -/

section

variable {s : State} {i : Instr}

/-- A loop of a count goes on after END, pushes a level, or finds the loop stack full. -/
theorem openLoop_goes {rot : Bool} {count : Word} {n : Nat} {e : BitVec 12} (hcount : count = BitVec.ofNat 32 n) (hn : n < 2 ^ 32)
    (h : exec i s = .next (s.openLoop rot count e)) :
    let f := s.me.front
    let next := s.cur.op.addr + s.cstep
    let last := s.cur.op.addr + e.setWidth 64 * s.cstep
    if n = 0 then Goes (exec i s) (Turns { f with pc := last + s.cstep } [] s)
    else if f.loops.length < 6 then
      Goes (exec i s) (Turns { f with pc := next, loops := ⟨BitVec.ofNat 32 n, 0, next, last, rot⟩ :: f.loops } [] s)
    else Goes (exec i s) (Raises (loopFault 1) s) := by
  have hzero : (count == 0) = decide (n = 0) := by
    rw [Bool.eq_iff_iff, beq_iff_eq, decide_eq_true_eq, hcount, ← BitVec.toNat_inj, BitVec.toNat_ofNat, Nat.mod_eq_of_lt hn]
    rfl
  rw [← hcount]
  intro f next last
  rw [State.openLoop, hzero] at h
  by_cases hnone : n = 0
  · rw [if_pos hnone]
    exact ⟨_, h.trans (congrArg _ (if_pos (decide_eq_true hnone))), s.redirect_issued _⟩
  rw [if_neg hnone]
  replace h := h.trans (congrArg _ (if_neg (mt of_decide_eq_true hnone)))
  by_cases hdepth : f.loops.length < 6
  · rw [if_pos hdepth]
    exact ⟨_, h.trans (congrArg _ (if_neg (Nat.not_le.2 hdepth))), s.redirect_issued _⟩
  · rw [if_neg hdepth]
    exact ⟨_, h.trans (congrArg _ (if_pos (Nat.not_lt.1 hdepth))), s.raise_raises _⟩

/-- A register count is clamped to 0 … 2^32 − 1 (R160). -/
theorem loopCount_eq (v : BitVec 64) : loopCount v = BitVec.ofNat 32 (min v.toInt.toNat (2 ^ 32 - 1)) := by
  unfold loopCount
  split
  · next hlow => rw [Int.toNat_of_nonpos hlow]; rfl
  · next hpos =>
    split
    · next hhigh =>
      rw [Nat.min_eq_right (by omega)]; rfl
    · next hfits =>
      have hnat : v.toInt.toNat = v.toNat := by
        rw [BitVec.toInt_eq_toNat_cond] at hpos hfits ⊢
        split at hpos <;> omega
      rw [Nat.min_eq_left (by omega), hnat]
      rfl

/-- LBRK closes the innermost level, or finds none. -/
theorem lbrk_goes (s : State) :
    match s.me.front.loops with
    | [] => Goes (exec .lbrk s) (Raises (loopFault 2) s)
    | l :: r => Goes (exec .lbrk s) (Turns { s.me.front with pc := l.last + s.cstep, loops := r } [] s) := by
  have h : exec .lbrk s = execLbrk s := rfl
  cases hloops : s.me.front.loops with
  | nil =>
    simp only [execLbrk, hloops] at h
    exact ⟨_, h, s.raise_raises _⟩
  | cons l r =>
    simp only [execLbrk, hloops] at h
    exact ⟨_, h, s.redirect_issued _⟩

end

theorem loopEnd_cons (step e : BitVec 64) (rotb : BitVec 4) (l : Loop) (r : List Loop) :
    loopEnd step e rotb (l :: r) =
      if l.last ≠ e then (e + step, rotb, l :: r)
      else if (l.index + 1).toNat < l.count.toNat then
        (l.first, if l.rot then rotb - 1 else rotb, { l with index := l.index + 1 } :: r)
      else loopEnd step e (if l.rot then rotb - 1 else rotb) r := by
  rw [loopEnd, ite_not]
  simp only [beq_iff_eq, BitVec.ult, decide_eq_true_eq]

end Sys2Proof.Machine

namespace Sys2Proof.Laws

open Sys2Proof.Machine Sys2Proof.Safety

/-- Settles O5: the four loops by the one that opens a level, at their counts; LBRK and the loop-end step by the innermost level. -/
theorem loopResults : Obligations.LoopResults := by
  refine ⟨fun s a c e => ?_, fun step e rotb l r => ⟨rfl, loopEnd_cons step e rotb l r⟩⟩
  have himmediate : c.toNat < 2 ^ 32 := c.isLt.trans (by decide)
  have hclamp : min (s.rs a).toInt.toNat (2 ^ 32 - 1) < 2 ^ 32 := (Nat.min_le_right _ _).trans_lt (by decide)
  have hcount : c.setWidth 32 = BitVec.ofNat 32 c.toNat := (BitVec.ofNat_toNat _ _).symm
  exact ⟨openLoop_goes hcount himmediate rfl, openLoop_goes (loopCount_eq _) hclamp rfl, openLoop_goes hcount himmediate rfl,
    openLoop_goes (loopCount_eq _) hclamp rfl, lbrk_goes s⟩

end Sys2Proof.Laws

namespace Sys2Proof.Machine

open Sys2Proof.Safety

/-! ## The halves, waits and modes (R154 to R156, R162) -/

section

variable {s : State}

/-- A change of the issuing unit's registers and the issue of its operation. -/
theorem State.modUnit_sets (hhead : Heads s) (f : Unit → Unit) {x : Unit} (hslots : (f s.me).slots = s.me.slots)
    (hregs : regs (f s.me) = regs x) : Sets x s ((s.modUnit s.u f).issued 1) := by
  obtain ⟨hunits, hleft⟩ := s.modUnit_issued f (ne_idle_of_head hhead hslots) hslots 1
  refine ⟨⟨fun u => (hunits u).trans ?_, rfl⟩, hleft, rfl, rfl, rfl, rfl, rfl⟩
  by_cases hu : u = s.u
  · rw [if_pos hu, if_pos hu, hregs]
  · rw [if_neg hu, if_neg hu]

/-- BRSWAP by its two checks: the other half's coherent bit before the loop stack (R38, R155). -/
theorem exec_brswap (s : State) (b : BitVec 12) :
    let f := s.me.front
    let other : BitVec 64 := BitVec.ofNat 64 ((if f.half then 0 else 4096) + b.toNat)
    exec (.brswap b) s =
      if s.me.spr.coherent.getLsbD (if f.half then 0 else 1) = false then .next (s.raise (prot 0x0E other))
      else if f.loops ≠ [] then .next (s.raise (loopFault 3))
      else .next ((s.redirect { f with pc := other, half := !f.half }).issued 1) := by
  show execBrswap b s = _
  unfold execBrswap
  cases hhalf : s.me.front.half <;> simp [hhalf]

/-- A unit with the coherent bit of a half set. -/
def Unit.cohering (h : BitVec 1) (x : Unit) : Unit := x.modSpr fun p => { p with coherent := p.coherent ||| (1#2 <<< h.toNat) }

/-- Setting a half's coherent bit changes that bit and the store of old bundles alone (R154). -/
theorem State.setCoherent_eq (s : State) (u : Nat) (h : BitVec 1) :
    ∃ c, s.setCoherent u (bit1 h) true = { s.modUnit u (Unit.cohering h) with codeOld := c } := by
  obtain rfl | rfl : h = 0 ∨ h = 1 := by revert h; decide
  · exact ⟨_, rfl⟩
  · exact ⟨_, rfl⟩

/-- The store of old bundles has no part in an issue. -/
theorem State.issued_otherCode (s : State) (c : Tab (BitVec 256)) (occ : Nat) :
    ({ s with codeOld := c } : State).issued occ = { s.issued occ with codeOld := c } := rfl

/-- FENCEI that need not wait sets the coherent bit of its half and issues (R154). -/
theorem fencei_goes (hhead : Heads s) {h : BitVec 1} (hdone : s.imloadsDone s.u s.cur.op.seq (bit1 h) = true) :
    Goes (exec (.fencei h) s) fun t =>
      (t.unit s.u).spr.coherent = s.me.spr.coherent ||| (1#2 <<< h.toNat) ∧ Left s t 1 ∧ t.mem = s.mem ∧ t.code = s.code ∧
      (t.unit s.u).s = s.me.s ∧ (t.unit s.u).eng = s.me.eng ∧ (t.unit s.u).front = s.me.front ∧
      ∀ u, u ≠ s.u → t.unit u = s.unit u := by
  obtain ⟨c, hc⟩ := s.setCoherent_eq s.u h
  obtain ⟨hunits, hleft⟩ := s.modUnit_issued (Unit.cohering h) (ne_idle_of_head hhead rfl) rfl 1
  have hown := (hunits s.u).trans (congrArg regs (if_pos rfl))
  have hothers (u : Nat) (hu : u ≠ s.u) : ((s.modUnit s.u (Unit.cohering h)).issued 1).unit u = s.unit u :=
    (State.issued_unit_other (s.modUnit s.u (Unit.cohering h)) 1 hu).trans (State.modUnit_unit_other _ _ hu)
  have hmem : ((s.modUnit s.u (Unit.cohering h)).issued 1).mem = s.mem := rfl
  have hcode : ((s.modUnit s.u (Unit.cohering h)).issued 1).code = s.code := rfl
  have hexec : exec (.fencei h) s = .next ((s.setCoherent s.u (bit1 h) true).issued 1) := if_pos hdone
  rw [hc, State.issued_otherCode] at hexec
  generalize (s.modUnit s.u (Unit.cohering h)).issued 1 = t at hown hleft hothers hmem hcode hexec
  exact ⟨_, hexec, congrArg (·.spr.coherent) hown, hleft, hmem, hcode, congrArg (·.s) hown, congrArg (·.eng) hown,
    congrArg (·.front) hown, hothers⟩

/-- A wait that has begun is noted in its slot alone. -/
theorem State.holding_notes (s : State) {w : Hold} (hw : w ≠ .none) :
    Frame s (s.holding w) ∧ ((s.holding w).unit s.u).slot s.cur.slot = { s.me.slot s.cur.slot with hold := w } := by
  have hslot : ({ s.me.slot s.cur.slot with hold := w } : Slot) ≠ Slot.idle := fun hidle => hw (congrArg Slot.hold hidle)
  have hne : (s.me.modSlot s.cur.slot fun sl => { sl with hold := w }) ≠ Unit.idle := fun hidle =>
    Unit.modSlot_ne_idle _ _ _ hslot (congrArg Unit.slots hidle)
  refine ⟨⟨s.modUnit_regs s.u _ hne rfl, rfl⟩, ?_⟩
  rw [State.holding, State.modUnit_unit_same _ _ _ hne]
  exact Unit.modSlot_slot _ _ _ hslot

/-- WAITT as it begins: an issue where the time has come, and otherwise a wait for it (R162). -/
theorem waitt_begins (a : BitVec 5) (h : (s.me.slot 1).hold = .none) : exec (.waitt a) s =
    if (s.rs a).toNat ≤ (s.timeOf (dieOf s.u)).toNat then .next (s.issued 1) else .next (s.holding (.wait (s.rs a).toNat)) := by
  show execWaitt a s = _
  rw [execWaitt, h]

/-- WAITT goes on waiting for the time that it began with (R162). -/
theorem waitt_waits (a : BitVec 5) {n : Nat} (h : (s.me.slot 1).hold = .wait n) : exec (.waitt a) s =
    if n ≤ (s.timeOf (dieOf s.u)).toNat then .next (s.issued 1) else .next s := by
  show execWaitt a s = _
  rw [execWaitt, h]

theorem State.earlierIssued_iff (s : State) (u n : Nat) :
    s.earlierIssued u n = true ↔ ∀ k ∈ slotsOf u, n ≤ (s.unit u).headSeq k := by
  simp only [State.earlierIssued, List.all_eq_true, decide_eq_true_eq]

/-- RFMODE issues where no pending mark up to its own bundle is on a register of a cluster that it gates (R162). -/
theorem rfmode_free {m : BitVec 8} (h : ∀ k ∈ s.me.disp.marks, k.1 ≤ s.cur.op.seq → ∀ n, k.2.2 = .v n →
      s.me.spr.rfmode.getLsbD (n.toNat / 8) = true → m.getLsbD (n.toNat / 8) = true) :
    exec (.rfmode m) s = .next ((s.land 1 (.rfmode m)).issued 1) := by
  refine if_neg (Bool.not_eq_true _ ▸ List.any_eq_false.2 fun k hk hheld => ?_)
  obtain ⟨hseq, hgated⟩ := (Bool.and_eq_true _ _).mp hheld
  split at hgated
  · next n hn =>
    obtain ⟨hon, hoff⟩ := (Bool.and_eq_true _ _).mp hgated
    rw [rfCluster, h k hk (of_decide_eq_true hseq) n hn hon] at hoff
    exact nomatch hoff
  · exact nomatch hgated

end

end Sys2Proof.Machine

namespace Sys2Proof.Laws

open Sys2Proof.Machine Sys2Proof.Safety

/-- Settles O6: each operation by its condition: a fault, a wait, a turn of the front end, a change of its unit, or a result on its way. -/
theorem modeResults : Obligations.ModeResults := by
  unfold Obligations.ModeResults
  intro s a b h m r t v x lo other coherent now older hhead
  have hswap := exec_brswap s b
  have issues := s.issued_nothing 1
  refine ⟨fun hco => ⟨_, hswap.trans (if_pos hco), s.raise_raises _⟩, fun hco hloops => ?_, fun hco hloops => ?_,
    fencei_goes hhead, fun hopen => if_neg (Bool.eq_false_iff.1 hopen),
    fun hnone hle => ⟨_, (waitt_begins a hnone).trans (if_pos hle), issues⟩, fun hnone hlt hslot => ?_,
    fun n hheld => ⟨fun hle => ⟨_, (waitt_waits a hheld).trans (if_pos hle), issues⟩,
      fun hlt => (waitt_waits a hheld).trans (if_neg (Nat.not_le.2 hlt))⟩,
    fun hold => ⟨?_, ?_⟩, fun hmarks => ⟨_, rfmode_free hmarks, s.land_issued 1 _⟩, ⟨_, rfl, s.land_issued 1 _⟩,
    ⟨_, rfl, s.land_issued 3 _⟩⟩
  · exact ⟨_, (hswap.trans (if_neg ((Bool.not_eq_false _).mpr hco))).trans (if_pos hloops), s.raise_raises _⟩
  · exact ⟨_, (hswap.trans (if_neg ((Bool.not_eq_false _).mpr hco))).trans (if_neg (not_not.2 hloops)), s.redirect_issued _⟩
  · obtain ⟨hframe, hslot'⟩ := s.holding_notes (w := .wait (s.rs a).toNat) nofun
    rw [hslot] at hslot'
    exact ⟨_, (waitt_begins a hnone).trans (if_neg (Nat.not_le.2 hlt)), hframe, hslot'⟩
  · exact ⟨_, if_pos ((s.earlierIssued_iff _ _).2 hold), State.modUnit_sets hhead _ rfl rfl⟩
  · exact ⟨_, if_pos ((s.earlierIssued_iff _ _).2 hold), State.modUnit_sets hhead _ rfl rfl⟩

end Sys2Proof.Laws

namespace Sys2Proof.Machine

open Sys2Proof.Safety

/-! ## Special registers (R148, R163) -/

section

/-- A special register that the issuing unit may not name: one of the gang switch off the supervisor controller, one of the supervisor
in user mode. -/
def State.SpClosed (s : State) (p : BitVec 12) : Prop :=
  (p = 0x060 ∨ p = 0x061) ∧ s.isSup s.u = false ∨
    (p = 0x030 ∨ 0x040 ≤ p ∧ p ≤ 0x051) ∧ s.me.spr.sup = false ∧ s.isSup s.u = false

variable {s : State} {p : BitVec 12}

theorem spFault_eq (s : State) (p : BitVec 12) : s.spFault p =
    if (p = 0x060 ∨ p = 0x061) ∧ s.isSup s.u = false then some (prot 0x07 (p.setWidth 64))
    else if (p = 0x030 ∨ 0x040 ≤ p ∧ p ≤ 0x051) ∧ s.me.spr.sup = false ∧ s.isSup s.u = false then
      some (prot 0x07 (p.setWidth 64))
    else none := by
  simp [State.spFault, ← BitVec.toNat_inj, BitVec.le_def]

theorem spFault_closed (h : s.SpClosed p) : s.spFault p = some (prot 0x07 (p.setWidth 64)) := by
  rw [spFault_eq]
  rcases h with hswitch | hsupervisor
  · rw [if_pos hswitch]
  · rw [if_pos hsupervisor, ite_self]

theorem spFault_open (h : ¬ s.SpClosed p) : s.spFault p = none := by
  rw [spFault_eq, if_neg fun hswitch => h (.inl hswitch), if_neg fun hsupervisor => h (.inr hsupervisor)]

theorem preqOk_iff (u : Nat) (v : BitVec 64) : preqOk u v = true ↔ v.toNat < 384 ∧ v.toNat / 4 = clusterOf u := by
  simp only [preqOk, Bool.and_eq_true, decide_eq_true_eq, beq_iff_eq]
  refine and_congr_right fun hcore => ?_
  rw [clusterOf, isCtl, decide_eq_false (Nat.not_le.2 hcore)]
  rfl

theorem exec_getsp_closed (h : s.SpClosed p) (d : BitVec 5) : exec (.getsp d p) s = .next (s.raise (prot 0x07 (p.setWidth 64))) := by
  show execGetsp d p s = _
  rw [execGetsp, spFault_closed h]

theorem exec_setsp_closed (h : s.SpClosed p) (a : BitVec 5) : exec (.setsp a p) s = .next (s.raise (prot 0x07 (p.setWidth 64))) := by
  show execSetsp a p s = _
  rw [execSetsp, spFault_closed h]

theorem exec_getsp_open (h : ¬ s.SpClosed p) (hearly : p = 0x015 → s.earlyFlags s.u s.cur.op.seq = none) (d : BitVec 5) :
    exec (.getsp d p) s = .next ((s.land 1 (.scalar (s.ps d) (s.getSp p) 0)).issued 1) := by
  have hnone : (if p == 0x015 then s.earlyFlags s.u s.cur.op.seq else none) = none := by
    split
    · next hp => exact hearly (eq_of_beq hp)
    · rfl
  show execGetsp d p s = _
  rw [execGetsp, spFault_open h]
  dsimp only
  rw [hnone]

/-- SETSP of a register that the unit may name: ROTB, a refused PREQ, or a write on its way. -/
theorem exec_setsp_open (h : ¬ s.SpClosed p) (a : BitVec 5) : exec (.setsp a p) s =
    if p = 0 then .next ((s.redirect (({ s.me.front with rotb := (s.rs a).setWidth 4 } : Front).after s.me.stream s.cur.op.addr)).issued 1)
    else if p = 0x031 ∧ ¬ ((s.rs a).toNat < 384 ∧ (s.rs a).toNat / 4 = clusterOf s.u) then .next (s.raise (prot 0x01 (s.rs a)))
    else .next ((s.land 1 (.spr p (s.rs a))).issued 1) := by
  show execSetsp a p s = _
  rw [execSetsp, spFault_open h]
  simp only [beq_iff_eq, Bool.and_eq_true, Bool.not_eq_true', ← Bool.not_eq_true, preqOk_iff]

/-- PREQ is no supervisor's register. -/
theorem preq_open : ¬ s.SpClosed 0x031 := by
  rintro (⟨hp, -⟩ | ⟨hp, -⟩) <;> exact absurd hp (by decide)

end

end Sys2Proof.Machine

namespace Sys2Proof.Laws

open Sys2Proof.Machine Sys2Proof.Safety

/-- Settles O8: by whether the register is closed to the unit; SETSP of an open one by ROTB, PREQ and the others. -/
theorem specialRegisters : Obligations.SpecialRegisters := by
  intro s d a p
  refine ⟨fun hclosed => ⟨⟨_, exec_getsp_closed hclosed d, s.raise_raises _⟩, _, exec_setsp_closed hclosed a, s.raise_raises _⟩,
    fun hopen hearly => ⟨_, exec_getsp_open hopen hearly d, s.land_issued 1 _⟩,
    fun hopen hp => ⟨_, (exec_setsp_open hopen a).trans (if_pos hp), s.redirect_issued _⟩,
    fun hopen hrotb hpreq => ⟨_, ((exec_setsp_open hopen a).trans (if_neg hrotb)).trans (if_neg fun h => hpreq h.1), s.land_issued 1 _⟩,
    fun hp hcore => ?_, fun hp hcore => ?_, rfl, rfl, rfl, rfl, rfl, rfl, rfl⟩
  · subst hp
    exact ⟨_, ((exec_setsp_open preq_open a).trans (if_neg (by decide))).trans (if_neg fun h => h.2 hcore), s.land_issued 1 _⟩
  · subst hp
    exact ⟨_, ((exec_setsp_open preq_open a).trans (if_neg (by decide))).trans (if_pos ⟨rfl, hcore⟩), s.raise_raises _⟩

end Sys2Proof.Laws
